-- ==== Sys2Proof/Word.lean ====
section
/-! DEFINITION. The word types of the D1 (spec/00 R4, R5, R8) and the plain list-backed table type. -/

namespace Sys2Proof

/-- A byte of memory (R5). -/
abbrev Byte := BitVec 8

/-- A 32-bit register or memory word (R8). -/
abbrev Word := BitVec 32

/-- A 64-bit word: a register pair, a stream register, a privileged register (R8, R380). -/
abbrev DWord := BitVec 64

/-- A program counter: a 52-bit byte address (R20). -/
abbrev Pc := BitVec 52

/-- A finite map from numbers, kept as a list in rising key order; the operations stand in
`Sys2Proof/Machine/Table.lean`. -/
abbrev Table (α : Type) := List (Nat × α)

end Sys2Proof
end

