-- ==== Sys2Proof/Machine/Number.lean ====
section
/-! DEFINITION. Number formats, exact values and rounding (spec/06). Values are exact rationals with
signed zeros; every rounding goes through one procedure. -/

namespace Sys2Proof.Machine

/-! ### Exact values -/

/-- An extended real (R148): NaN, an infinity, or (-1)^s x n / d; a zero keeps its sign. -/
inductive Real' where
  | nan
  | inf (s : Bool)
  | fin (s : Bool) (n d : Nat)
deriving DecidableEq, Repr

namespace Real'

/-- n x 2^e. -/
def scaled (s : Bool) (n : Nat) (e : Int) : Real' :=
  if e ≥ 0 then .fin s (n * 2 ^ e.toNat) 1
  else
    let d := 2 ^ (-e).toNat
    let g := Nat.gcd n d
    .fin s (n / g) (d / g)

/-- A fraction in lowest terms. -/
def frac (s : Bool) (n d : Nat) : Real' :=
  let g := Nat.gcd n d
  .fin s (n / g) (d / g)

/-- An integer. -/
def ofInt (x : Int) : Real' := .fin (x < 0) x.natAbs 1

def isNan : Real' → Bool
  | nan => true
  | _ => false

def isZero : Real' → Bool
  | fin _ n _ => n = 0
  | _ => false

def neg : Real' → Real'
  | nan => nan
  | inf s => inf (!s)
  | fin s n d => fin (!s) n d

def abs : Real' → Real'
  | nan => nan
  | inf _ => inf false
  | fin _ n d => fin false n d

def sign : Real' → Bool
  | nan => false
  | inf s => s
  | fin s _ _ => s

/-- The exact product (R202). -/
def mul : Real' → Real' → Real'
  | nan, _ => nan
  | _, nan => nan
  | inf s, inf t => inf (s != t)
  | inf s, fin t n _ => if n = 0 then nan else inf (s != t)
  | fin s n _, inf t => if n = 0 then nan else inf (s != t)
  | fin s n d, fin t m e => frac (s != t) (n * m) (d * e)

/-- The exact sum (R202): an exact zero sum is -0 only when both addends are -0. -/
def add : Real' → Real' → Real'
  | nan, _ => nan
  | _, nan => nan
  | inf s, inf t => if s = t then inf s else nan
  | inf s, fin _ _ _ => inf s
  | fin _ _ _, inf t => inf t
  | fin s n d, fin t m e =>
    if n = 0 && m = 0 then fin (s && t) 0 1
    else if s = t then frac s (n * e + m * d) (d * e)
    else if n * e = m * d then fin false 0 1
    else if n * e > m * d then frac s (n * e - m * d) (d * e)
    else frac t (m * d - n * e) (d * e)

/-- The exact quotient (R202). -/
def div : Real' → Real' → Real'
  | nan, _ => nan
  | _, nan => nan
  | inf _, inf _ => nan
  | inf s, fin t _ _ => inf (s != t)
  | fin s _ _, inf t => fin (s != t) 0 1
  | fin s n d, fin t m e =>
    if m = 0 then (if n = 0 then nan else inf (s != t))
    else frac (s != t) (n * e) (d * m)

/-- a x b + c, the product being the first addend. -/
def fma (a b c : Real') : Real' := add (mul a b) c

/-- x is less than y; false for NaN, and zeros are equal. -/
def lt : Real' → Real' → Bool
  | nan, _ => false
  | _, nan => false
  | inf s, inf t => s && !t
  | inf s, fin _ _ _ => s
  | fin _ _ _, inf t => !t
  | fin s n d, fin t m e =>
    if n = 0 && m = 0 then false
    else if s && !t then true
    else if !s && t then false
    else if s then m * d < n * e
    else n * e < m * d

/-- Neither is NaN and y is not less than x. -/
def le (x y : Real') : Bool := !x.isNan && !y.isNan && !lt y x

/-- Equal as numbers. -/
def eq (x y : Real') : Bool := le x y && le y x

/-- The integer at or below a finite value; 0 otherwise. -/
def floor : Real' → Int
  | fin s n d =>
    if s then (if n % d = 0 then -((n / d : Nat) : Int) else -((n / d : Nat) : Int) - 1)
    else ((n / d : Nat) : Int)
  | _ => 0

/-- floor(log2) of n / d, both positive. -/
def log2 (n d : Nat) : Int :=
  let e : Int := (Nat.log2 n : Int) - (Nat.log2 d : Int)
  -- 2^e is within a factor of 2 above n / d
  let ok : Bool := if e ≥ 0 then d * 2 ^ e.toNat ≤ n else d ≤ n * 2 ^ (-e).toNat
  if ok then e else e - 1

end Real'

/-! ### Formats (R147) -/

/-- A floating-point format: mantissa and exponent bits, bias; whether it has infinities; whether
the all-ones code is NaN (E4M3) or a number (E2M1). -/
structure FloatFmt where
  m : Nat
  e : Nat
  bias : Nat
  inf : Bool
  nan : Bool
deriving DecidableEq, Repr

def fp32 : FloatFmt := { m := 23, e := 8, bias := 127, inf := true, nan := true }
def fpBf16 : FloatFmt := { m := 7, e := 8, bias := 127, inf := true, nan := true }
def fpF16 : FloatFmt := { m := 10, e := 5, bias := 15, inf := true, nan := true }
def fpE4m3 : FloatFmt := { m := 3, e := 4, bias := 7, inf := false, nan := true }
def fpE5m2 : FloatFmt := { m := 2, e := 5, bias := 15, inf := true, nan := true }
def fpE2m1 : FloatFmt := { m := 1, e := 2, bias := 1, inf := false, nan := false }

/-- The smallest exponent of a normal. -/
def FloatFmt.emin (f : FloatFmt) : Int := 1 - (f.bias : Int)

/-- The code of the largest finite magnitude. -/
def FloatFmt.maxCode (f : FloatFmt) : Nat :=
  if f.inf then (2 ^ f.e - 1) * 2 ^ f.m - 1 else if f.nan then 2 ^ (f.e + f.m) - 2 else 2 ^ (f.e + f.m) - 1

/-- The code of infinity, where there is one. -/
def FloatFmt.infCode (f : FloatFmt) : Nat := (2 ^ f.e - 1) * 2 ^ f.m

/-- The canonical NaN (R147). -/
def FloatFmt.nanCode (f : FloatFmt) : Nat :=
  if f.inf then f.infCode + 2 ^ (f.m - 1) else 2 ^ (f.e + f.m) - 1

/-- The value of an encoding (R148). -/
def FloatFmt.decode (f : FloatFmt) (x : Nat) : Real' :=
  let s := x / 2 ^ (f.e + f.m) % 2 = 1
  let E := x / 2 ^ f.m % 2 ^ f.e
  let M := x % 2 ^ f.m
  if E = 0 then (if M = 0 then .fin s 0 1 else Real'.scaled s M (f.emin - f.m))
  else if E = 2 ^ f.e - 1 && f.inf then (if M = 0 then .inf s else .nan)
  else if E = 2 ^ f.e - 1 && f.nan && M = 2 ^ f.m - 1 then .nan
  else Real'.scaled s (2 ^ f.m + M) ((E : Int) - f.bias - f.m)

/-- Rounding modes: those of R159, and the directed ones of the box test (R69). -/
inductive Rounding where
  | rne | tz | sr (r : Word) | down | up
deriving DecidableEq, Repr

/-- Whether a magnitude q + rem / den rounds up to q + 1 (R159). -/
def roundsUp (mode : Rounding) (s : Bool) (q rem den : Nat) : Bool :=
  if rem = 0 then false
  else
    match mode with
    | .rne => 2 * rem > den || (2 * rem = den && q % 2 = 1)
    | .tz => false
    | .sr r => r.toNat / 256 < rem * 2 ^ 24 / den
    | .down => s
    | .up => !s

/-- Whether an overflow stops at the largest finite value (R159). -/
def Rounding.stopsAtMax (mode : Rounding) (s : Bool) : Bool :=
  match mode with
  | .tz => true
  | .down => !s
  | .up => s
  | _ => false

/-- RoundToFormat for a floating-point format (R159). -/
def FloatFmt.round (f : FloatFmt) (mode : Rounding) (y : Real') : Nat :=
  let put (s : Bool) (c : Nat) : Nat := (if s then 2 ^ (f.e + f.m) else 0) + c
  match y with
  | .nan => f.nanCode
  | .inf s => put s (if f.inf then f.infCode else f.maxCode)
  | .fin s n d =>
    if n = 0 then put s 0
    else
      let e := max (Real'.log2 n d) f.emin
      let k := e - f.m
      let num := if k ≥ 0 then n else n * 2 ^ (-k).toNat
      let den := if k ≥ 0 then d * 2 ^ k.toNat else d
      let q := num / den
      let q1 := if roundsUp mode s q (num % den) den then q + 1 else q
      let c := (e - f.emin).toNat * 2 ^ f.m + q1
      if c > f.maxCode then
        put s (if !f.inf || mode.stopsAtMax s then f.maxCode else f.infCode)
      else put s c

/-- RoundToFormat onto integers of a range, as R159 rounds i8 and n8. -/
def roundInt (mode : Rounding) (lo hi : Int) (y : Real') : Int :=
  match y with
  | .nan => 0
  | .inf s => if s then lo else hi
  | .fin s n d =>
    let q := n / d
    let q1 := if roundsUp mode s q (n % d) d then q + 1 else q
    let v : Int := if s then -(q1 : Int) else q1
    max lo (min hi v)

/-! ### FP32 (R163) -/

/-- The value of an FP32 word. -/
def f32 (x : Word) : Real' := fp32.decode x.toNat

/-- Rounds to FP32. -/
def toF32 (mode : Rounding) (y : Real') : Word := BitVec.ofNat 32 (fp32.round mode y)

/-- Rounds to FP32, nearest even. -/
def rne32 (y : Real') : Word := toF32 .rne y

def fadd32 (a b : Word) : Word := rne32 ((f32 a).add (f32 b))
def fsub32 (a b : Word) : Word := rne32 ((f32 a).add (f32 b).neg)
def fmul32 (a b : Word) : Word := rne32 ((f32 a).mul (f32 b))
def fdiv32 (a b : Word) : Word := rne32 ((f32 a).div (f32 b))
def fma32 (a b c : Word) : Word := rne32 (Real'.fma (f32 a) (f32 b) (f32 c))
def fneg32 (a : Word) : Word := a ^^^ 0x80000000#32

/-- The canonical FP32 NaN. -/
def nan32 : Word := 0x7FC00000#32

/-- FP32 infinity and one. -/
def inf32 : Word := 0x7F800000#32
def one32 : Word := 0x3F800000#32

def isNan32 (a : Word) : Bool := (f32 a).isNan
def flt32 (a b : Word) : Bool := (f32 a).lt (f32 b)
def fle32 (a b : Word) : Bool := (f32 a).le (f32 b)
def feq32 (a b : Word) : Bool := (f32 a).eq (f32 b)

/-- FMax (R164). -/
def fmax32 (a b : Word) : Word :=
  if isNan32 a || isNan32 b then nan32
  else if feq32 a b then (if a.getLsbD 31 then b else a)
  else if flt32 a b then b else a

/-- FMin (R164). -/
def fmin32 (a b : Word) : Word :=
  if isNan32 a || isNan32 b then nan32
  else if feq32 a b then (if a.getLsbD 31 then a else b)
  else if flt32 a b then a else b

/-! ### Square root -/

/-- The integer square root by its bits from 2^i down. -/
def isqrtGo : Nat → Nat → Nat → Nat
  | 0, n, r => if (r + 1) * (r + 1) ≤ n then r + 1 else r
  | i + 1, n, r =>
    let r' := r + 2 ^ (i + 1)
    isqrtGo i n (if r' * r' ≤ n then r' else r)

/-- floor of the square root. -/
def isqrt (n : Nat) : Nat := isqrtGo (Nat.log2 n / 2 + 1) n 0

/-- A value that rounds as the square root of n / d does in any format of fewer than 100 bits: exact
when the root is, else strictly between the neighbouring multiples of 2^-200 / d. -/
def sqrtReal (n d : Nat) : Real' :=
  let x := n * d * 4 ^ 200
  let r := isqrt x
  if r * r = x then Real'.frac false r (d * 2 ^ 200)
  else Real'.frac false (2 * r + 1) (d * 2 ^ 201)

/-- The square root of an extended real (R205). -/
def Real'.sqrt : Real' → Real'
  | .nan => .nan
  | .inf s => if s then .nan else .inf false
  | .fin s n d => if n = 0 then .fin s 0 1 else if s then .nan else sqrtReal n d

def fsqrt32 (a : Word) : Word := rne32 (f32 a).sqrt

/-! ### Formats of slots (R147, R155 to R162) -/

/-- The element formats. -/
inductive Fmt where
  | f32 | bf16 | f16 | e4m3 | e5m2 | i8 | n8 | b4 | vq2
deriving DecidableEq, Repr

/-- The format of a code; none for a reserved one. -/
def Fmt.ofCode (n : Nat) : Option Fmt :=
  match n with
  | 0 => some .f32
  | 1 => some .bf16
  | 2 => some .f16
  | 3 => some .e4m3
  | 4 => some .e5m2
  | 5 => some .i8
  | 6 => some .n8
  | 7 => some .b4
  | 8 => some .vq2
  | _ => none

/-- The floating-point format of an element, for those that have one. -/
def Fmt.float : Fmt → Option FloatFmt
  | .f32 => some fp32
  | .bf16 => some fpBf16
  | .f16 => some fpF16
  | .e4m3 => some fpE4m3
  | .e5m2 => some fpE5m2
  | .b4 => some fpE2m1
  | _ => none

/-- Bits of an element; for VQ2, of a weight's share of its code. -/
def Fmt.bits : Fmt → Nat
  | .f32 => 32
  | .bf16 => 16
  | .f16 => 16
  | .e4m3 => 8
  | .e5m2 => 8
  | .i8 => 8
  | .n8 => 8
  | .b4 => 4
  | .vq2 => 2

/-- The bytes of an element of 8 bits or more. -/
def Fmt.size (f : Fmt) : Nat := f.bits / 8

/-- B4 or VQ2: a format with block scales (R151). -/
def Fmt.blocked (f : Fmt) : Bool := f = .b4 || f = .vq2

/-- The value of an element's bits, unscaled (R148 to R150). -/
def Fmt.value (f : Fmt) (x : Nat) : Real' :=
  match f.float with
  | some g => g.decode x
  | none =>
    match f with
    | .i8 => Real'.ofInt (BitVec.ofNat 8 x).toInt
    | _ => .fin false (x % 256) 1

/-- RoundToFormat into an element's bits. -/
def Fmt.round (f : Fmt) (mode : Rounding) (y : Real') : Nat :=
  match f.float with
  | some g => g.round mode y
  | none =>
    match f with
    | .i8 => (BitVec.ofInt 8 (roundInt mode (-128) 127 y)).toNat
    | _ => (roundInt mode 0 255 y).toNat

/-- A format slot (R155). -/
abbrev Slot := BitVec 128

def Slot.fmt (s : Slot) : Option Fmt := Fmt.ofCode (s.extractLsb' 0 4).toNat
def Slot.roundCode (s : Slot) : Nat := (s.extractLsb' 4 2).toNat
def Slot.clamp (s : Slot) : Bool := s.getLsbD 6
def Slot.sptrap (s : Slot) : Bool := s.getLsbD 7
def Slot.bound (s : Slot) : Word := s.extractLsb' 16 32
def Slot.shell (s : Slot) : Nat := (s.extractLsb' 48 48).toNat * 16
def Slot.tscale (s : Slot) : Word := s.extractLsb' 96 32

/-- The clamp limit of a format (R156). -/
def Fmt.clampLimit (f : Fmt) : Real' :=
  match f with
  | .i8 => .fin false 127 1
  | .n8 => .fin false 255 1
  | .b4 => fp32.decode fp32.maxCode
  | .vq2 => .fin false 0 1
  | _ =>
    match f.float with
    | some g => g.decode g.maxCode
    | none => .fin false 0 1

/-- A slot that no row of R156 makes invalid. -/
def Slot.valid (s : Slot) : Bool :=
  match s.fmt with
  | none => false
  | some f =>
    s.roundCode != 3 && s.extractLsb' 8 8 = 0#8 &&
    (match f32 s.tscale with
     | .fin sg n _ => !sg && n != 0
     | _ => false) &&
    (!s.clamp ||
      (f != .vq2 && !s.bound.getLsbD 31 && !(f32 s.bound).isZero && (f32 s.bound).le f.clampLimit)) &&
    (f != .vq2 || s.shell != 0)

/-- The value of a block scale byte (R151). -/
def scaleValue (e : Nat) : Real' :=
  if e = 255 then .nan else Real'.scaled false 1 ((e : Int) - 127)

/-- DecodeExact of an element that is not VQ2 (R158). -/
def Slot.decode (s : Slot) (f : Fmt) (x scale : Nat) : Real' :=
  let v := f.value x
  let v := if f.blocked then (if scale = 255 then .nan else v.mul (scaleValue scale)) else v
  v.mul (f32 s.tscale)

/-- Weight i of a VQ2 code with its shell entry (R153). -/
def vq2Weight (code entry i : Nat) : Real' :=
  let bit (k : Nat) : Nat := code / 2 ^ k % 2
  let sg := if i < 7 then bit (i + 1) else
    (bit 1 + bit 2 + bit 3 + bit 4 + bit 5 + bit 6 + bit 7) % 2
  let m := entry / 8 ^ i % 8
  (Real'.frac (sg = 1) m 2).add (if bit 0 = 1 then .fin false 1 4 else .fin (sg = 1) 0 1)

/-- DecodeExact of a VQ2 weight (R158). -/
def Slot.decodeVq2 (s : Slot) (code entry i scale : Nat) : Real' :=
  if scale = 255 then .nan
  else ((vq2Weight code entry i).mul (scaleValue scale)).mul (f32 s.tscale)

/-- Mix (R162). -/
def mix (x : Word) : Word :=
  let x := x ^^^ (x >>> 16)
  let x := x * 0x5F1B7C29#32
  let x := x ^^^ (x >>> 15)
  let x := x * 0x9E2DA6C7#32
  x ^^^ (x >>> 16)

/-- SRHash (R162). -/
def srHash (seed : DWord) (k row col : Nat) : Word :=
  let x := mix (seed.extractLsb' 0 32 ^^^ (BitVec.ofNat 32 k * 0x01000193#32))
  let x := mix (x ^^^ BitVec.ofNat 32 row)
  let x := mix (x ^^^ BitVec.ofNat 32 col)
  mix (x ^^^ seed.extractLsb' 32 32)

/-- The rounding a slot asks for at an element (R160). -/
def Slot.rounding (s : Slot) (seed : DWord) (k row col : Nat) : Rounding :=
  match s.roundCode with
  | 1 => .tz
  | 2 => .sr (srHash seed k row col)
  | _ => .rne

/-- The tensor-scaled and clamped value of a conversion (R160). -/
def Slot.prepare (s : Slot) (x : Real') : Real' :=
  let y := x.div (f32 s.tscale)
  if s.clamp && (f32 s.bound).lt y.abs then (if y.sign then (f32 s.bound).neg else f32 s.bound) else y

/-- Encode (R160) into an element's bits. -/
def Slot.encode (s : Slot) (f : Fmt) (seed : DWord) (k : Nat) (x : Real') (row col : Nat) : Nat :=
  f.round (s.rounding seed k row col) (s.prepare x)

/-- The exponent of a B4 block (R161): the greatest floor(log2) less 2, clamped. -/
def b4Exp (ys : List Real') : Int :=
  let es : List Int := ys.filterMap fun y =>
    match y with
    | .fin _ n d => if n = 0 then none else some (Real'.log2 n d)
    | _ => none
  match es with
  | [] => 0
  | e :: t => max (-127) (min 127 (t.foldl max e - 2))

/-- EncodeB4Block (R161): the scale byte and the element codes; `ys` are prepared values and `cols`
their columns. -/
def Slot.encodeB4 (s : Slot) (seed : DWord) (k row : Nat) (ys : List Real') (cols : List Nat) :
    Nat × List Nat :=
  let bad (y : Real') : Bool :=
    match y with
    | .fin _ _ _ => false
    | _ => true
  if ys.any bad then (255, ys.map fun _ => 0)
  else
    let e := b4Exp ys
    ((e + 127).toNat,
      (ys.zip cols).map fun p =>
        fpE2m1.round (s.rounding seed k row p.2) (p.1.div (Real'.scaled false 1 e)))

/-! ### The matrix engine's sums (R165) -/

/-- GroupSize. -/
def groupSize (fa fb : Fmt) : Nat :=
  if fa = .f32 || fb = .f32 then 1
  else if fa = .bf16 || fa = .f16 || fb = .bf16 || fb = .f16 then 4 else 8

/-- The exact sum of a group's products: an exact zero is -0 only when every product is -0. -/
def groupSum : List Real' → Real'
  | [] => .fin false 0 1
  | [p] => p
  | p :: t => p.add (groupSum t)

/-- The groups of a list of products, `fuel` at most. -/
def groupsOf (g : Nat) : Nat → List Real' → List (List Real')
  | 0, _ => []
  | fuel + 1, l => if l.isEmpty then [] else l.take g :: groupsOf g fuel (l.drop g)

/-- MatAccumulate (R165) over the products of one element in ascending k. -/
def matAccumulate (g : Nat) (disable : Bool) (acc : Word) (products : List Real') : Word :=
  match groupsOf g products.length products with
  | [] => acc
  | p :: ps =>
    let r0 := rne32 (groupSum p)
    ps.foldl (fun a q => fadd32 a (rne32 (groupSum q))) (if disable then r0 else fadd32 acc r0)

/-- AmaxMerge (R168). -/
def amaxMerge (w x : Word) : Word :=
  if isNan32 w || isNan32 x then nan32
  else
    let a := w &&& 0x7FFFFFFF#32
    let b := x &&& 0x7FFFFFFF#32
    if flt32 a b then b else a

/-- The value an amax update carries (R168). -/
def amaxValue (xs : List Real') : Word :=
  let ys := xs.map rne32
  if ys.any isNan32 then nan32
  else ys.foldl (fun m y => let b := y &&& 0x7FFFFFFF#32; if flt32 m b then b else m) 0

end Sys2Proof.Machine
end

