-- ==== Sys2Proof/Syntax.lean ====
section
/-! DEFINITION. The instructions of the D1: thread instructions (spec/07 R180), stream instructions
(spec/11 R320) and the device events that the opcode table lists beside them. One constructor of
`Instr` for each row of spec/opcode_table.json. -/

namespace Sys2Proof

/-- The guard of a thread instruction (R171, R173): none, or predicate `p`, inverted by `neg`. -/
inductive Guard where
  | always
  | pred (neg : Bool) (p : BitVec 4)
deriving DecidableEq, Repr

/-- A source operand (R172): a v-register, a w-register, a short immediate, or the long immediate (whose
field nothing reads; log 13),
the immediate word of the instruction. A source the opcode does not read is `.v 0`. -/
inductive Src where
  | v (n : BitVec 8)
  | w (n : BitVec 8)
  | k (x : BitVec 8)
  | long (field : BitVec 8)
deriving DecidableEq, Repr

/-- The flag select of R171. -/
inductive FlagSel where
  | none | a | b
deriving DecidableEq, Repr

/-- A commit level as an operand names it (R236, R255). -/
inductive Level where
  | c | b | g | d | s
deriving DecidableEq, Repr

/-- The access sizes of R236. -/
inductive Size where
  | w32 | n8 | i8 | n16 | i16 | w64 | w128
deriving DecidableEq, Repr

/-- Conditions of ICMP (R209). -/
inductive Cond where
  | eq | ne | lt | le | gt | ge
deriving DecidableEq, Repr

/-- How a compare combines with its predicate source (R209). -/
inductive Comb where
  | none | and | or | xor
deriving DecidableEq, Repr

/-- Conditions of FCMP (R210). -/
inductive FCond where
  | eq | ne | lt | le | gt | ge | num | nan | equ | neu | ltu | leu | gtu | geu
deriving DecidableEq, Repr

/-- Conditions of AWAIT (R227) and CMPQ (R321). -/
inductive WCond where
  | eq | ne | lt | ge | ltu | geu
deriving DecidableEq, Repr

/-- Modes of VOTE (R212). -/
inductive VoteMode where
  | all | any | same | none
deriving DecidableEq, Repr

/-- Modes of XLANE (R214). -/
inductive XMode where
  | from | up | down | flip
deriving DecidableEq, Repr

/-- Operations of REDX and SCANX (R216). -/
inductive RedOp where
  | iadd | imin | imax | iminu | imaxu | and | or | xor | fadd | fmin | fmax
deriving DecidableEq, Repr

/-- Operations of the atomics (R251). -/
inductive AtomOp where
  | add | min | max | minu | maxu | and | or | xor | xchg | cas | fadd | fmax
deriving DecidableEq, Repr

/-- Kinds of FENCE (R255). -/
inductive FenceKind where
  | acq | rel | sc | as
deriving DecidableEq, Repr

/-- The number types of CVT (R207). -/
inductive CvtType where
  | f32 | bf16 | f16 | e4m3 | e5m2 | i8 | n8 | i16 | n16 | i32 | n32 | i64 | n64
deriving DecidableEq, Repr

/-- Operands of the integer and bit instructions (R193). `im` is the immediate word of the 96-bit
form. -/
structure IntOp where
  g : Guard
  im : Option Word
  sat : Bool
  u : Bool
  w : Bool
  d : BitVec 8
  a : Src
  b : Src
  c : Src
deriving DecidableEq, Repr

/-- TERN (R197). -/
structure TernOp where
  g : Guard
  im : Option Word
  tt : BitVec 8
  d : BitVec 8
  a : Src
  b : Src
  c : Src
deriving DecidableEq, Repr

/-- MOVI in its 96-bit form (R199). -/
structure MoviOp where
  g : Guard
  w : Bool
  d : BitVec 8
  imm : Word
deriving DecidableEq, Repr

/-- MOVI in its 128-bit form (R199). -/
structure Movi64Op where
  g : Guard
  d : BitVec 8
  imm : DWord
deriving DecidableEq, Repr

/-- LEA (R200). -/
structure LeaOp where
  g : Guard
  im : Option Word
  sh : BitVec 4
  u : Bool
  w : Bool
  d : BitVec 8
  a : Src
  b : Src
deriving DecidableEq, Repr

/-- SEL (R200). -/
structure SelOp where
  g : Guard
  im : Option Word
  pn : Bool
  w : Bool
  d : BitVec 8
  a : Src
  b : Src
  pc : BitVec 4
deriving DecidableEq, Repr

/-- Operands of the FP32 instructions (R201). -/
structure FOp where
  g : Guard
  im : Option Word
  tz : Bool
  sat : Bool
  ab : Bool
  aa : Bool
  nc : Bool
  nb : Bool
  na : Bool
  d : BitVec 8
  a : Src
  b : Src
  c : Src
deriving DecidableEq, Repr

/-- Operands of the packed instructions (R206). -/
structure PkOp where
  g : Guard
  im : Option Word
  tz : Bool
  nc : Bool
  nb : Bool
  na : Bool
  bf : Bool
  d : BitVec 8
  a : Src
  b : Src
  c : Src
deriving DecidableEq, Repr

/-- CVT (R207). -/
structure CvtOp where
  g : Guard
  st : CvtType
  dt : CvtType
  dp : BitVec 2
  sp : BitVec 2
  tz : Bool
  d : BitVec 8
  a : Src
deriving DecidableEq, Repr

/-- ICMP (R209). -/
structure IcmpOp where
  g : Guard
  im : Option Word
  ncp : Bool
  comb : Comb
  cond : Cond
  u : Bool
  w : Bool
  pd : BitVec 4
  a : Src
  b : Src
  pc : BitVec 4
deriving DecidableEq, Repr

/-- FCMP (R210). -/
structure FcmpOp where
  g : Guard
  im : Option Word
  ncp : Bool
  comb : Comb
  cond : FCond
  pd : BitVec 4
  a : Src
  b : Src
  pc : BitVec 4
deriving DecidableEq, Repr

/-- PAND, POR and PXOR (R211). -/
structure PredOp where
  g : Guard
  na : Bool
  nb : Bool
  nr : Bool
  pd : BitVec 4
  pa : BitVec 4
  pb : BitVec 4
deriving DecidableEq, Repr

/-- PNOT (R211). -/
structure PnotOp where
  g : Guard
  pd : BitVec 4
  pa : BitVec 4
deriving DecidableEq, Repr

/-- The source of PMOV (R211): a predicate, or a constant. -/
inductive PmovSrc where
  | pred (neg : Bool) (p : BitVec 4)
  | const (k : BitVec 8)
deriving DecidableEq, Repr

/-- PMOV (R211). -/
structure PmovOp where
  g : Guard
  pd : BitVec 4
  src : PmovSrc
deriving DecidableEq, Repr

/-- VOTE (R212). -/
structure VoteOp where
  g : Guard
  mode : VoteMode
  na : Bool
  pd : BitVec 4
  pa : BitVec 4
deriving DecidableEq, Repr

/-- XLANE (R214). -/
structure XlaneOp where
  g : Guard
  im : Option Word
  w : Bool
  mode : XMode
  d : BitVec 8
  a : Src
  b : Src
  c : Src
deriving DecidableEq, Repr

/-- BCAST (R215). -/
structure BcastOp where
  g : Guard
  im : Option Word
  wd : BitVec 8
  a : Src
  b : Src
deriving DecidableEq, Repr

/-- REDX (R216) and SCANX (R217; `ex` is false for REDX). -/
structure RedxOp where
  g : Guard
  op : RedOp
  ex : Bool
  d : BitVec 8
  a : Src
deriving DecidableEq, Repr

/-- BALLOT (R218). -/
structure BallotOp where
  g : Guard
  na : Bool
  d : BitVec 8
  pa : BitVec 4
deriving DecidableEq, Repr

/-- MATCH (R218). -/
structure MatchOp where
  g : Guard
  w : Bool
  d : BitVec 8
  a : Src
deriving DecidableEq, Repr

/-- A control instruction with no operand but its guard (R219). -/
structure NullOp where
  g : Guard
deriving DecidableEq, Repr

/-- BRA (R220): `off` is the immediate word of BranchTarget. -/
structure BraOp where
  g : Guard
  off : Word
deriving DecidableEq, Repr

/-- BRD (R221), which has no guard. -/
structure BrdOp where
  pa : BitVec 4
  neg : Bool
  off : Word
  j : BitVec 4
deriving DecidableEq, Repr

/-- RCV (R222): `t` is the threshold minus one. -/
structure RcvOp where
  g : Guard
  j : BitVec 4
  t : BitVec 5
deriving DecidableEq, Repr

/-- AWAIT (R227). -/
structure AwaitOp where
  g : Guard
  cond : WCond
  a : Src
  off : Word
  c : BitVec 8
deriving DecidableEq, Repr

/-- PHASE (R230). -/
structure PhaseOp where
  g : Guard
  gang : Bool
  n : BitVec 4
deriving DecidableEq, Repr

/-- CALL (R224). -/
structure CallOp where
  g : Guard
  d : BitVec 8
  off : Word
deriving DecidableEq, Repr

/-- RET and JMPI (R225). -/
structure JumpOp where
  g : Guard
  a : Src
deriving DecidableEq, Repr

/-- TRAP (R233) and BKPT (R234), with their number. -/
structure TrapOp where
  g : Guard
  n : BitVec 8
deriving DecidableEq, Repr

/-- A clause header (R174). It has no guard. -/
structure ClauseOp where
  count : BitVec 4
  fb : BitVec 4
  fa : BitVec 4
  wait : BitVec 12
deriving DecidableEq, Repr

/-- LD, LD.S, LDS and LDW (R240 to R243). -/
structure LdOp where
  g : Guard
  im : Option Word
  sel : FlagSel
  scope : Level
  sz : Size
  d : BitVec 8
  a : Src
  b : Src
deriving DecidableEq, Repr

/-- The access sizes of LDT and STT (R244). -/
inductive TSize where
  | w32 | w64 | w128
deriving DecidableEq, Repr

/-- LDT (R244). -/
structure LdtOp where
  g : Guard
  im : Option Word
  sel : FlagSel
  tile : BitVec 6
  sz : TSize
  d : BitVec 8
  a : Src
  b : Src
deriving DecidableEq, Repr

/-- LDF (R245). -/
structure LdfOp where
  g : Guard
  im : Option Word
  sel : FlagSel
  pd : BitVec 4
  sz : Size
  d : BitVec 8
  a : Src
  b : Src
deriving DecidableEq, Repr

/-- PREF (R246): the hint is G or D. -/
structure PrefOp where
  g : Guard
  im : Option Word
  toD : Bool
  a : Src
  b : Src
deriving DecidableEq, Repr

/-- ST and STS (R247, R248). -/
structure StOp where
  g : Guard
  im : Option Word
  scope : Level
  sz : Size
  a : Src
  b : Src
  c : Src
deriving DecidableEq, Repr

/-- STT (R244). -/
structure SttOp where
  g : Guard
  im : Option Word
  tile : BitVec 6
  sz : TSize
  a : Src
  b : Src
  c : Src
deriving DecidableEq, Repr

/-- SETE (R249). -/
structure SeteOp where
  g : Guard
  im : Option Word
  a : Src
  b : Src
deriving DecidableEq, Repr

/-- The place of an atomic (R250): a commit level, or the scratch form. -/
inductive AScope where
  | lvl (l : Level)
  | sp
deriving DecidableEq, Repr

/-- ATOM and RED (R250). -/
structure AtomOps where
  g : Guard
  im : Option Word
  sel : FlagSel
  scope : AScope
  w : Bool
  op : AtomOp
  d : BitVec 8
  a : Src
  b : Src
  c : Src
deriving DecidableEq, Repr

/-- AMAXSWP (R254). -/
structure AmaxOp where
  g : Guard
  im : Option Word
  sel : FlagSel
  scope : AScope
  d : BitVec 8
  a : Src
  b : Src
deriving DecidableEq, Repr

/-- CMT (R255): `lvl` is B, G, D or S; `pd` is given with CHK. -/
structure CmtOp where
  g : Guard
  lvl : Level
  chk : Option (BitVec 4)
deriving DecidableEq, Repr

/-- ABT (R255): `lvl` is C, B or G. -/
structure AbtOp where
  g : Guard
  lvl : Level
deriving DecidableEq, Repr

/-- FENCE (R255). -/
structure FenceOp where
  g : Guard
  kind : FenceKind
  scope : Level
deriving DecidableEq, Repr

/-- BAR and ARRIVE (R259). -/
structure BarOp where
  g : Guard
  gang : Bool
  n : BitVec 4
  bind : Option (BitVec 4)
deriving DecidableEq, Repr

/-- JOIN and LEAVE (R259). -/
structure GroupOp where
  g : Guard
  grp : BitVec 4
deriving DecidableEq, Repr

/-- Hints of the copies (R269): timing only. -/
inductive Hint where
  | none | keep | stream
deriving DecidableEq, Repr

/-- ACOPY (R269). -/
structure AcopyOp where
  g : Guard
  out : Bool
  tile : BitVec 6
  ga : Src
  so : Src
  pa : Src
  hint : Hint
deriving DecidableEq, Repr

/-- ACOPYG (R270). -/
structure AcopygOp where
  g : Guard
  scatter : Bool
  sb : Src
  db : Src
  pa : Src
  hint : Hint
deriving DecidableEq, Repr

/-- SEAL (R272). -/
structure SealOp where
  g : Guard
  d : BitVec 8
deriving DecidableEq, Repr

/-- WAITB (R273) and KEY (R288): one source. -/
structure OneSrcOp where
  g : Guard
  im : Option Word
  a : Src
deriving DecidableEq, Repr

/-- STAGE, REGCLM, REGREL, ACCLM and ACCREL (R264, R274): a count. -/
structure CountOp where
  g : Guard
  n : BitVec 8
deriving DecidableEq, Repr

/-- TILEDEF, the tile-table form (R275). -/
structure TiledefOp where
  g : Guard
  inv : Bool
  tile : BitVec 6
  base : BitVec 13
  count : BitVec 13
deriving DecidableEq, Repr

/-- TILEDEF, the stash form (R276). -/
structure TiledefStOp where
  g : Guard
  inv : Bool
  entry : BitVec 3
  a : Src
  count : BitVec 13
  line : BitVec 13
deriving DecidableEq, Repr

/-- TILEST (R277). -/
structure TilestOp where
  g : Guard
  ready : Bool
  tile : BitVec 6
deriving DecidableEq, Repr

/-- RQUERY, RAYGET and HITGET (R265, R281, R283): a selector and a destination. -/
structure QueryOp where
  g : Guard
  sel : BitVec 8
  d : BitVec 8
deriving DecidableEq, Repr

/-- RAYSET (R281). -/
structure RaysetOp where
  g : Guard
  sel : BitVec 8
  a : Src
deriving DecidableEq, Repr

/-- TRACE (R284): the fields a SET bit writes. -/
structure TraceOp where
  g : Guard
  a : Src
  flags : Option (BitVec 10)
  mask : Option (BitVec 8)
  sel : Option (BitVec 8)
deriving DecidableEq, Repr

/-- REPORT (R287). -/
structure ReportOp where
  g : Guard
  im : Option Word
  kind : BitVec 8
  a : Src
  b : Src
  c : Src
deriving DecidableEq, Repr

/-- ACCUM (R289). -/
structure AccumOp where
  g : Guard
  a : Src
  b : Src
  c : BitVec 8
deriving DecidableEq, Repr

/-- RNG (R290). -/
structure RngOp where
  g : Guard
  f : Bool
  dim : BitVec 7
  d : BitVec 8
  a : Src
  b : Src
  c : Src
deriving DecidableEq, Repr

/-- A region of an accumulator tile: M = 8 x 2^mc rows from 8 x row, N = 8 x 2^nc columns (R297). -/
structure Region where
  mc : BitVec 2
  nc : BitVec 2
  row : BitVec 3
  col : BitVec 3
deriving DecidableEq, Repr

/-- MMA and MMAS (R300); `wm` is the metadata record of MMAS and 0 in MMA. -/
structure MmaOp where
  g : Guard
  sel : FlagSel
  na : Bool
  nb : Bool
  dis : Bool
  reuse : Bool
  aslot : BitVec 3
  va : BitVec 8
  vs : Src
  wm : BitVec 8
  acc : BitVec 8
  rstride : BitVec 16
  cstride : BitVec 8
  base : BitVec 13
  reg : Region
  kc : BitVec 5
  bslot : BitVec 3
  tile : BitVec 6
deriving DecidableEq, Repr

/-- MLD (R306) and the global form of MST (R307; `crd` is `.k 0` in MLD). -/
structure MldOp where
  g : Guard
  sel : FlagSel
  acc : BitVec 8
  a : Src
  crd : Src
  reg : Region
  slot : BitVec 3
  pitch : Word
deriving DecidableEq, Repr

/-- The scratch form of MST (R307). -/
structure MstSpOp where
  g : Guard
  sel : FlagSel
  acc : BitVec 8
  tile : BitVec 6
  crd : Src
  reg : Region
  slot : BitVec 3
  pitch : Word
deriving DecidableEq, Repr

/-- MZERO (R305): the tile, or the register of the status form. -/
structure MzeroOp where
  g : Guard
  d : BitVec 8
deriving DecidableEq, Repr

/-- MCVT (R308). -/
structure McvtOp where
  g : Guard
  sel : FlagSel
  tile : BitVec 7
  d : BitVec 8
  crd : Src
  amax : Option Src
  slot : BitVec 3
  reg : Region
deriving DecidableEq, Repr

/-- CBDEC (R309): `n` is the count minus one. -/
structure CbdecOp where
  g : Guard
  sel : FlagSel
  d : BitVec 8
  a : BitVec 8
  b : BitVec 8
  n : BitVec 8
  sslot : BitVec 3
  dslot : BitVec 3
deriving DecidableEq, Repr

/-- BSCALE (R310). -/
structure BscaleOp where
  g : Guard
  sel : FlagSel
  col : Bool
  tile : BitVec 7
  a : BitVec 8
  reg : Region
deriving DecidableEq, Repr

/-- The level modes of TEX2 (R292). -/
inductive TexMode where
  | base | lod | grad
deriving DecidableEq, Repr

/-- TEX2 (R292). -/
structure Tex2Op where
  g : Guard
  sel : FlagSel
  mode : TexMode
  d : BitVec 8
  a : Src
  c : BitVec 8
  bias : Word
deriving DecidableEq, Repr

/-- TEXG (R295). -/
structure TexgOp where
  g : Guard
  sel : FlagSel
  comp : BitVec 2
  d : BitVec 8
  a : Src
  c : BitVec 8
  level : BitVec 4
deriving DecidableEq, Repr

/-- LAUNCH (R311). -/
structure LaunchOp where
  g : Guard
  pd : BitVec 4
  d : BitVec 8
  a : Src
deriving DecidableEq, Repr

/-- LWAIT, plain form (R313). -/
structure LwaitOp where
  g : Guard
  a : Src
deriving DecidableEq, Repr

/-- LWAIT, test form (R313). -/
structure LwaitTestOp where
  g : Guard
  pd : BitVec 4
  a : Src
deriving DecidableEq, Repr

/-- PROG (R314). -/
structure ProgOp where
  g : Guard
  n : BitVec 4
deriving DecidableEq, Repr

/-- SRD (R387): register number and instance. -/
structure SrdOp where
  g : Guard
  d : BitVec 8
  n : BitVec 12
  i : BitVec 6
deriving DecidableEq, Repr

/-- SWR (R387). -/
structure SwrOp where
  g : Guard
  n : BitVec 12
  i : BitVec 6
  a : Src
deriving DecidableEq, Repr

/-- TLBINV (R387): the page address with `.page`. -/
structure TlbinvOp where
  g : Guard
  c : Src
  page : Option Src
deriving DecidableEq, Repr

/-- The caches CINV names (R387). -/
inductive CacheKind where
  | code | tree | data
deriving DecidableEq, Repr

/-- CINV (R387). -/
structure CinvOp where
  g : Guard
  kind : CacheKind
  m : Src
deriving DecidableEq, Repr

/-- HALTC (R387). -/
structure HaltcOp where
  g : Guard
  resume : Bool
  m : Src
deriving DecidableEq, Repr

/-- DUMP (R387). -/
structure DumpOp where
  g : Guard
  d : BitVec 8
  c : Src
  a : Src
  l : Src
deriving DecidableEq, Repr

/-- CTXSAVE and CTXLOAD (R387). -/
structure CtxImgOp where
  g : Guard
  c : Src
  a : Src
deriving DecidableEq, Repr

/-- FQPOP (R387). -/
structure FqpopOp where
  g : Guard
  pd : BitVec 4
  d : BitVec 8
deriving DecidableEq, Repr

/-- HOSTIRQ (R387). -/
structure HostirqOp where
  g : Guard
  n : BitVec 5
deriving DecidableEq, Repr

/-- WAITI (R387): state change, doorbell, queue not empty. -/
structure WaitiOp where
  g : Guard
  state : Bool
  bell : Bool
  queue : Bool
deriving DecidableEq, Repr

/-! ### Stream instructions (R318, R320) -/

/-- The 64-bit operand of an instruction that allows IQ (R318): IMM, or a q register. -/
inductive QSrc where
  | imm (x : DWord)
  | q (n : BitVec 5)
deriving DecidableEq, Repr

/-- SETQ. -/
structure SetqOp where
  d : BitVec 5
  imm : DWord
deriving DecidableEq, Repr

/-- MOVQ. -/
structure MovqOp where
  d : BitVec 5
  a : BitVec 5
deriving DecidableEq, Repr

/-- ADDQ. -/
structure AddqOp where
  d : BitVec 5
  a : BitVec 5
  b : QSrc
deriving DecidableEq, Repr

/-- CMPQ. -/
structure CmpqOp where
  cond : WCond
  d : BitVec 5
  a : BitVec 5
  b : QSrc
deriving DecidableEq, Repr

/-- LDQ. -/
structure LdqOp where
  d : BitVec 5
  a : BitVec 5
  imm : DWord
deriving DecidableEq, Repr

/-- BRQ. -/
structure BrqOp where
  z : Bool
  a : BitVec 5
  off : DWord
deriving DecidableEq, Repr

/-- BIND. -/
structure BindOp where
  h : BitVec 8
  a : BitVec 5
  b : BitVec 5
deriving DecidableEq, Repr

/-- WAITE. -/
structure WaiteOp where
  eq : Bool
  ev : BitVec 6
  val : QSrc
deriving DecidableEq, Repr

/-- SIGNAL. -/
structure SignalOp where
  add : Bool
  irq : Bool
  ev : BitVec 6
  val : QSrc
deriving DecidableEq, Repr

/-- A handle operand of a launch (R318): absent, or a handle with its WR bit. -/
inductive HArg where
  | none
  | h (n : BitVec 8) (wr : Bool)
deriving DecidableEq, Repr

/-- KLAUNCH and RLAUNCH. -/
structure LaunchqOp where
  h0 : HArg
  h1 : HArg
  h2 : HArg
  h3 : HArg
  desc : QSrc
deriving DecidableEq, Repr

/-- MMT. -/
structure MmtOp where
  c : BitVec 8
  a : BitVec 8
  b : BitVec 8
  desc : QSrc
deriving DecidableEq, Repr

/-- CNVT, CPYT and REDT: destination and source handles. -/
structure TwoTOp where
  d : BitVec 8
  s : BitVec 8
  desc : QSrc
deriving DecidableEq, Repr

/-- FILLT (destination handle) and AMAXT (source handle). -/
structure OneTOp where
  h : BitVec 8
  desc : QSrc
deriving DecidableEq, Repr

/-! ### Places that device events name -/

/-- A core of the device: cluster and core within it (R12). -/
structure CoreId where
  cl : BitVec 4
  co : BitVec 3
deriving DecidableEq, Repr

/-- A wave slot of a core (R400). -/
structure SlotId where
  core : CoreId
  slot : BitVec 6
deriving DecidableEq, Repr

/-- A bin, basin or other numbered thing of a cluster. -/
structure ClItem where
  cl : BitVec 4
  n : Nat
deriving DecidableEq, Repr

/-- A basin, copy or other numbered thing of a core. -/
structure CoreItem where
  core : CoreId
  n : Nat
deriving DecidableEq, Repr

/-- A lane of a wave. -/
structure LaneId where
  wave : SlotId
  lane : BitVec 5
deriving DecidableEq, Repr

/-- A window entry of a context, by its sequence number (R316). -/
structure EntryId where
  ctx : BitVec 6
  seq : Nat
deriving DecidableEq, Repr

/-- A write of the host through BAR0 (R474, R475): the eighth part of its offset, and the value. -/
structure RegWrite where
  word : BitVec 19
  x : DWord
deriving DecidableEq, Repr

/-- Whose pairs a merge unit's request brings (R482): the peer's task, and the request's tag (R449). -/
structure PeerTask where
  tag : Word
  task : Nat
deriving DecidableEq, Repr

/-- The instructions, stream instructions and events of the device: one constructor for each row of
the opcode table. -/
inductive Instr where
  | nop (x : NullOp) | bra (x : BraOp) | brd (x : BrdOp) | rcv (x : RcvOp) | reform (x : NullOp)
  | yield (x : NullOp) | await (x : AwaitOp) | phase (x : PhaseOp) | call (x : CallOp)
  | ret (x : JumpOp) | jmpi (x : JumpOp) | exit (x : NullOp) | crew (x : NullOp)
  | uncrew (x : NullOp) | trap (x : TrapOp) | bkpt (x : TrapOp) | clause (x : ClauseOp)
  | iadd (x : IntOp) | isum3 (x : IntOp) | isub (x : IntOp) | imul (x : IntOp) | imulh (x : IntOp)
  | imad (x : IntOp) | idiv (x : IntOp) | irem (x : IntOp) | imin (x : IntOp) | imax (x : IntOp)
  | iabs (x : IntOp) | mov (x : IntOp) | movi (x : MoviOp) | movi64 (x : Movi64Op)
  | lea (x : LeaOp) | sel (x : SelOp) | shl (x : IntOp) | shr (x : IntOp) | sar (x : IntOp)
  | and (x : IntOp) | or (x : IntOp) | xor (x : IntOp) | not (x : IntOp) | tern (x : TernOp)
  | popc (x : IntOp) | clz (x : IntOp) | brev (x : IntOp) | bfe (x : IntOp) | bfi (x : IntOp)
  | fadd (x : FOp) | fmul (x : FOp) | ffma (x : FOp) | fdiv (x : FOp) | fmin (x : FOp)
  | fmax (x : FOp) | frcp (x : FOp) | frsq (x : FOp) | fsqrt (x : FOp) | fexp2 (x : FOp)
  | flog2 (x : FOp) | fsin (x : FOp) | fcos (x : FOp)
  | pkadd (x : PkOp) | pkmul (x : PkOp) | pkfma (x : PkOp) | cvt (x : CvtOp)
  | icmp (x : IcmpOp) | fcmp (x : FcmpOp) | pand (x : PredOp) | por (x : PredOp)
  | pxor (x : PredOp) | pnot (x : PnotOp) | pmov (x : PmovOp) | vote (x : VoteOp)
  | xlane (x : XlaneOp) | bcast (x : BcastOp) | redx (x : RedxOp) | scanx (x : RedxOp)
  | ballot (x : BallotOp) | matchx (x : MatchOp)
  | ld (x : LdOp) | ldStrong (x : LdOp) | lds (x : LdOp) | ldw (x : LdOp) | ldt (x : LdtOp)
  | ldf (x : LdfOp) | pref (x : PrefOp) | st (x : StOp) | sts (x : StOp) | stt (x : SttOp)
  | sete (x : SeteOp) | atom (x : AtomOps) | red (x : AtomOps) | amaxswp (x : AmaxOp)
  | cmt (x : CmtOp) | abt (x : AbtOp) | fence (x : FenceOp) | bar (x : BarOp) | arrive (x : BarOp)
  | join (x : GroupOp) | leave (x : GroupOp)
  | acopy (x : AcopyOp) | acopyg (x : AcopygOp) | seal (x : SealOp) | waitb (x : OneSrcOp)
  | stage (x : CountOp) | tiledef (x : TiledefOp) | tiledefSt (x : TiledefStOp)
  | tilest (x : TilestOp) | regclm (x : CountOp) | regrel (x : CountOp) | acclm (x : CountOp)
  | accrel (x : CountOp) | rquery (x : QueryOp)
  | rayset (x : RaysetOp) | rayget (x : QueryOp) | hitget (x : QueryOp) | trace (x : TraceOp)
  | accept (x : NullOp) | ignore (x : NullOp) | report (x : ReportOp) | key (x : OneSrcOp)
  | accum (x : AccumOp) | rng (x : RngOp)
  | mma (x : MmaOp) | mmas (x : MmaOp) | mld (x : MldOp) | mst (x : MldOp) | mstSp (x : MstSpOp)
  | mzero (x : MzeroOp) | mzeroStat (x : MzeroOp) | mcvt (x : McvtOp) | cbdec (x : CbdecOp)
  | bscale (x : BscaleOp) | tex2 (x : Tex2Op) | texg (x : TexgOp)
  | launch (x : LaunchOp) | lwait (x : LwaitOp) | lwaitTest (x : LwaitTestOp) | prog (x : ProgOp)
  | srd (x : SrdOp) | swr (x : SwrOp) | tret (x : NullOp) | tlbinv (x : TlbinvOp)
  | cinv (x : CinvOp) | haltc (x : HaltcOp) | dump (x : DumpOp) | ctxsave (x : CtxImgOp)
  | ctxload (x : CtxImgOp) | fqpop (x : FqpopOp) | hostirq (x : HostirqOp) | waiti (x : WaitiOp)
  -- stream
  | nopq | haltq | setq (x : SetqOp) | movq (x : MovqOp) | addq (x : AddqOp) | cmpq (x : CmpqOp)
  | ldq (x : LdqOp) | brq (x : BrqOp) | jmpq (off : DWord) | callq (off : DWord) | retq
  | bind (x : BindOp) | free (h : BitVec 8) | fencet (s : Bool) | waite (x : WaiteOp)
  | signal (x : SignalOp) | klaunch (x : LaunchqOp) | rlaunch (x : LaunchqOp) | mmt (x : MmtOp)
  | cnvt (x : TwoTOp) | cpyt (x : TwoTOp) | redt (x : TwoTOp) | fillt (x : OneTOp)
  | amaxt (x : OneTOp)
  -- device events
  | taskIssue (x : EntryId) | tileTaskIssue (x : CoreItem) | tileTaskComplete (x : CoreItem)
  | taskComplete (x : EntryId) | eventWaitSatisfied (x : EntryId) | entryRetire (ctx : BitVec 6)
  | gangPlacement (part : BitVec 4) | gangFallbackExpiry (part : BitVec 4)
  | gangPriorityAge (part : BitVec 4) | clusterReservation (part : BitVec 4)
  | contextFairnessStop (part : BitVec 4) | contextFairnessRun (part : BitVec 4)
  | recordBinned (cl : BitVec 4) | spilledRecordReturn (cl : BitVec 4) | binAged (x : ClItem)
  | binStarved (x : ClItem) | binIssue (x : ClItem) | dispatchComplete (x : SlotId)
  | laneFiled (x : LaneId) | basinAged (x : CoreItem) | basinDraw (x : CoreItem)
  | elevatedPriority (x : SlotId) | waveRotation (x : SlotId) | rotatedWaveRestore (x : CoreItem)
  | claimSatisfied (x : CoreId) (acc : Bool) | deadlockDetect (x : CoreId)
  | blockRestore (x : ClItem) | awaitSample (x : ClItem) | flagOpComplete (x : CoreItem) (k : Option Nat)
  | copyComplete (x : CoreItem) | engineWriteComplete (x : CoreItem) (run : Nat)
  | stageCopyIssue (x : CoreItem) | stashFillComplete (x : CoreItem) (line : Nat)
  | stashRecall (x : CoreItem) (line : Nat) | blockEnd (x : CoreItem) | cacheModeApply (cl : BitVec 4)
  | sareaApply (x : CoreId) | rayRecordWrite (kid : Nat) | traversalRun (x : ClItem)
  | treeletFetchComplete (x : ClItem) | stepBudgetStop (x : ClItem)
  | gridEndingComplete (kid : Nat) | translationWalk (x : CoreId) (ctx : BitVec 6) (va : BitVec 52)
  | eccErrorNoRequester (line : Nat) | eccCorrectableError (line : Nat)
  | handlerStart (f : BitVec 5) | coreHalted (x : CoreId) (ctx : BitVec 6)
  | contextSaved (ctx : BitVec 6) | calloutGranTimeout (x : SlotId) | contextRestored (ctx : BitVec 6)
  | rillRequestReceive (tag : Word) (payload : Nat) | rillResponseReceive (tag : Word)
  | rillRetransmit (tag : Word) | rillLinkFailure | rillPaired (peer : DWord) (cap : BitVec 20) (tick : Nat) (lanes : BitVec 6)
  | mergePair (task : PeerTask) (addr : Nat) (x : Word) | mergeFlush (task : PeerTask)
  | bar2Write (off : Nat) (bytes : List Byte) | bar2Read (off : Nat) (n : Nat)
  | registerWrite (x : RegWrite) | ctxReqRun (ctx : BitVec 6) | ctxReqStop (ctx : BitVec 6)
  | ctxBoundSet (ctx : BitVec 6) (part : BitVec 4) | ctxBoundClear (ctx : BitVec 6)
  | ctxWeightWrite (ctx : BitVec 6) (w : BitVec 8) | streamResume (ctx : BitVec 6)
  | ctxSpcWrite (ctx : BitVec 6) (x : DWord) | streamLimitWrite (ctx : BitVec 6) (x : DWord)
  | arenaWrite (ctx : BitVec 6) (base size : DWord) | partCfgWrite (f : BitVec 4) (x : DWord)
  | clModeWrite (cl : BitVec 4) (x : DWord) | residencyWrite (ctx : BitVec 6) (n : BitVec 3) (x : DWord)
  | hostQdone (x : DWord) | hostQheadWrite (x : DWord) | hostDoorbell (f : BitVec 4)
  | hostSigpendClear (x : DWord) | hostIrqpendClear (x : DWord) | rillPair | rillUnpair
  | devSkidWrite (x : DWord) | skidActive | skidDisarmApply | skidReplyCapture (cl : BitVec 4)
  | dbgCtlWrite (ctx : BitVec 6) (x : DWord) | dbgTraceBaseWrite (ctx : BitVec 6) (x : DWord)
  | dbgResume (cl : BitVec 4) | dbgStep (x : SlotId) | dbgStepLane (x : LaneId) | dbgArmStop
  | dbgDisarm | stepComplete (cl : BitVec 4) | stepTimeout (cl : BitVec 4) | preciseStop
  | sampleRecord (x : CoreId) (ctx : BitVec 6) | deviceReset | memoryTrainingDone | firmwareReady
  | bringupFailure | allowRecompute (a : BitVec 8) | thermalAlert (t : BitVec 8)
  | thermalHardLimit (t : BitVec 8) | thermalRecover (t : BitVec 8) | thermalShutdown (t : BitVec 8)
  | hostReadComplete (x : Nat) | linkRetrain
deriving DecidableEq, Repr

end Sys2Proof
end

