-- ==== Sys2Proof/Config.lean ====
section
/-! DEFINITION. What the device fixes and the specification does not state, as constants without a
body: nothing can evaluate them, so a claim that mentions one holds for every value of it. -/

namespace Sys2Proof.Config

/-- The free values (log 3): the nth free choice of a run. Every open order, race and choice of the
model takes its number from here, with a counter of `State` that advances at each use. -/
opaque free : Nat → Nat

/-- The bits FRSQ returns, used only where they lie within the bound of spec/08 R204 (log 6). -/
opaque frsq : Word → Word
/-- The bits FEXP2 returns within the bound of spec/08 R204 (log 6). -/
opaque fexp2 : Word → Word
/-- The bits FLOG2 returns within the bound of spec/08 R204 (log 6). -/
opaque flog2 : Word → Word
/-- The bits FSIN returns within the bound of spec/08 R204 (log 6). -/
opaque fsin : Word → Word
/-- The bits FCOS returns within the bound of spec/08 R204 (log 6). -/
opaque fcos : Word → Word

/-- The digest over a save image (spec/19 R444): not architected (log 12). -/
opaque imageDigest : List Nat → DWord
/-- The digest of a replay event's contents (spec/20 R469): not architected (log 12). -/
opaque eventDigest : List Nat → Word

/-- DEV_ID.STEP, the silicon stepping (spec/21 R484; log 14). -/
opaque stepping : BitVec 8
/-- What CAP of DEV_ID reads before PHASE 3, when it is not valid (spec/21 R484; log 14). -/
opaque earlyCap : BitVec 20
/-- DEV_SERIAL less one, but for its range (spec/21 R485; log 14). -/
opaque serialLess : Nat
/-- DEV_SERIAL: no module holds zero (spec/21 R485; log 14). -/
def serial : DWord := BitVec.ofNat 64 (serialLess % (2 ^ 64 - 1) + 1)
/-- How many times BAR2 has been doubled from 1 GiB, at a tick, but for its range (spec/21 R474; log 135). -/
opaque bar2Size : Nat → Nat
/-- Where an uncorrectable error of a line was found: 1 for on-die storage, 0 for GDDR7 (spec/19 R429;
log 14). -/
opaque onDie : DWord → BitVec 1

/-- The byte of memory, if any, whose line takes an uncorrectable error in the cc after a tick (spec/19 R434;
log 14). -/
opaque strike : Nat → Option Nat

/-- The hash that assigns a physical line to a slice of its partition's channel groups (spec/04 R108; log 96). -/
opaque sliceHash : Nat → Nat
/-- The set of a slice that a physical line falls in (spec/04 R108; log 96). -/
opaque setHash : Nat → Nat

/-- What a core's copy engine can hold queued beyond the 32 copies of one instruction (spec/09 R271; log 97). -/
opaque copyQueue : Nat

/-- Which event the surroundings bring when the agenda is empty (log 3): host accesses, Rill traffic, unit
progress. -/
opaque chosenEvent : Nat → Option Instr

end Sys2Proof.Config
end

