-- ==== Sys2Proof/Machine/State.lean ====
section
/-! DEFINITION. The state of the D1 as plain data: everything the specification names. Addresses that
key memory, counts, indexes and ticks are naturals; register contents are bit vectors. -/

namespace Sys2Proof.Machine

/-! ### Parties, views and buffers (spec/05) -/

/-- A party of R114, or an agent that is no thread (copy engine, stream task, host, peer). -/
inductive Party where
  | thread (uid : Nat)
  | crew (uid : Nat)
  | block (uid : Nat)
  | gang (uid : Nat)
  | batch (kid cluster : Nat)
  | agent (n : Nat)
deriving DecidableEq, Repr

/-- A thread's parties at C, B and G (R114), with the thread itself. -/
structure Chain where
  uid : Nat
  c : Party
  b : Party
  g : Party
deriving DecidableEq, Repr

/-- A view (R130): every arrival at D up to `floor`, and per byte any later position. -/
structure View where
  floor : Nat
  bytes : Table Nat
deriving DecidableEq, Repr

/-- What a release leaves on the arrivals after it (R134): who released, at which scope, with which
view. -/
structure Mark where
  who : Chain
  scope : Level
  view : View
deriving DecidableEq, Repr

/-- One byte held in a commit buffer: the threads whose stores it carries, the latest first, and the
releases it carries. -/
structure BufByte where
  addr : Nat
  val : Byte
  who : List Nat
  marks : List Mark
deriving DecidableEq, Repr

/-- One buffer entry (R117), in the buffer or in the commit log (R118). -/
structure BufEntry where
  tag : Nat
  inLog : Bool
  bytes : List BufByte
deriving DecidableEq, Repr

/-- An arrival into a buffer as a checked commit sees it (R125): the aligned word, who, and when. -/
structure WordArrival where
  word : Nat
  party : Party
  pos : Nat
deriving DecidableEq, Repr

/-- A commit buffer (R117): oldest entry first. `place` is the device core number (C, B) or the
cluster (G). -/
structure Buf where
  party : Party
  level : Level
  place : Nat
  kid : Nat
  entries : List BufEntry
  arrivals : List WordArrival
  window : Nat
deriving DecidableEq, Repr

/-- One byte of an arrival at D: the new value and the value before it, and the threads whose stores it
carries (none for an agent). -/
structure ByteWrite where
  addr : Nat
  new : Byte
  old : Byte
  who : List Nat
  marks : List Mark
deriving DecidableEq, Repr

/-- An arrival at D (R116); `step` says that it is a step of a commit, which no observer sees in part, and `makers`
the threads that performed it (R134). -/
structure Arrival where
  pos : Nat
  tick : Nat
  party : Party
  step : Bool
  makers : List Nat
  bytes : List ByteWrite
deriving DecidableEq, Repr

/-- An SC fence that has taken its place in the total order (R135). -/
structure ScFence where
  who : Chain
  scope : Level
  view : View
deriving DecidableEq, Repr

/-- An access to a commit log (R118): its grid, the entry's place in the log, and whether the entry is written. -/
structure LogAcc where
  kid : Nat
  place : Nat
  write : Bool
deriving DecidableEq, Repr

/-- Memory: the home copies, what D holds modified of remote homes (R123), the D order, the commit
buffers, the SC order, the poisoned lines (R434), and the accesses to commit logs made in this step, which are still to
be translated (R118). -/
structure Memory where
  cells : List Host.Cell
  dirty : Table Byte
  log : List Arrival
  pos : Nat
  bufs : List Buf
  sc : List ScFence
  poison : List Nat
  logAcc : List LogAcc
deriving DecidableEq, Repr

/-! ### Threads, waves and their groupings (spec/02, spec/03) -/

/-- A hit or a candidate (R63). -/
structure Hit where
  t : Word
  u : Word
  v : Word
  inst : BitVec 24
  kind : BitVec 8
  prim : BitVec 25
  geom : BitVec 16
deriving DecidableEq, Repr

/-- A short-stack entry in use (R64). -/
structure StackEntry where
  bottom : Bool
  leaf : BitVec 3
  kind : BitVec 2
  rank : BitVec 3
  level : BitVec 5
  ptr : Word
deriving DecidableEq, Repr

/-- What episode a ray thread stands in (R80, R82). -/
inductive Episode where
  | plain | closest | miss | anyHit | isect
deriving DecidableEq, Repr

/-- The ray part of a record, bytes 112 to 255 (R60 to R65). `cand` and `ret` overlay entries 4 to 7
at a call-out; `shader` is the shader id of the call-out that began the episode, and `group` the hit
group of the committed hit (log 23). -/
structure RayPart where
  ox : Word
  oy : Word
  oz : Word
  dx : Word
  dy : Word
  dz : Word
  tmin : Word
  tmax : Word
  flags : BitVec 10
  mask : BitVec 8
  sel : BitVec 8
  phase : BitVec 2
  stop : BitVec 3
  dropped : Bool
  clipped : Bool
  inst : BitVec 24
  hit : Hit
  cand : Option Hit
  ret : Option Pc
  stack : List StackEntry
  trail : BitVec 128
  ep : Episode
  shader : BitVec 14
  group : BitVec 14
deriving DecidableEq, Repr

/-- Where a lane of a wave stands: running; stopped at a barrier (R43, with the phase it waits for);
or leaving for a basin at `pc` (R28), for an RCV with its threshold and id. -/
inductive LaneSt where
  | run
  | stopped (gang : Bool) (n phase : Nat)
  | leaving (pc : Pc) (rcv : Option (Nat × Nat))
deriving DecidableEq, Repr

/-- A pending arrival bit (R261): which barrier, and the phase it arrived in. -/
structure PendArr where
  gang : Bool
  n : Nat
  phase : Nat
deriving DecidableEq, Repr

/-- A record's membership of a crew (R20). -/
structure CrewRef where
  uid : Nat
  id : Nat
  lane : Nat
deriving DecidableEq, Repr

/-- A thread with its record (R20, R21, R60) and, while it is resident, its registers. Unlisted
registers hold zero. `filedAt` is the cluster's clock at the record's last filing, `oslot` its place in the
overflow area while it is spilled (R402), and `alane` the lane it stood in at its last AWAIT (R469). `facq` holds, for a flag, the arrivals of engine operations that completed under it
and that no wait has acquired yet (R143). -/
structure Thread where
  uid : Nat
  kid : Nat
  blockUid : Nat
  index : Nat
  tidx : Word
  base : Nat
  claimed : Nat
  v : Table Word
  p : BitVec 16
  flags : Table Nat
  facq : Table View
  depth : BitVec 8
  key : Option Word
  pend : List PendArr
  batch : Nat
  episode : Nat
  view : View
  rel : List Mark
  seen : List Mark
  st : LaneSt
  pc : Pc
  ckey : Word
  cause : BitVec 3
  wait : DWord
  spilled : Bool
  oslot : Nat
  filedAt : Nat
  alane : Nat
  crewRef : Option CrewRef
  ray : Option RayPart
deriving DecidableEq, Repr

/-- The privilege levels of R377. -/
inductive Mode where
  | user | supervisor | firmware
deriving DecidableEq, Repr

/-- An entry of the mask stack (R36): the rejoin id, the lanes that wait, and where they go on;
`second` once the fall-through side runs. -/
structure MaskEntry where
  id : BitVec 4
  other : BitVec 32
  pc : Pc
  second : Bool
deriving DecidableEq, Repr

/-- A clause context (R179), with the wait mask of a header whose body has not started (R176). -/
structure Clause where
  left : Nat
  fa : BitVec 4
  fb : BitVec 4
  wait : BitVec 12
deriving DecidableEq, Repr

/-- Why a wave issues nothing: a claim of `n` granules or tiles parked at a tick (R45), a page fault
record with the lowest lane that met it and the source code of its access (R421), an engine result it needs
(R178), the ends of child grids (R313), the passes of a lane-port instruction (R94), the traversal runs, by ray and
episode, that FENCE.AS met (R87), the halt of a ray wave
under call-out granularity (R438), scratchpad lines of its core that are to fill (R98), tiles of blocks that are to be
ready (R101), or the memory requests of its core, which are all held (R421). -/
inductive Park where
  | none
  | claim (acc : Bool) (n tick : Nat)
  | page (id lane src : Nat)
  | engine (op : Nat)
  | child (uids : List Nat)
  | port
  | fence (runs : List (Nat × Nat))
  | system
  | lines (l : List Nat)
  | tiles (l : List (Nat × Nat))
  | requests
  | filing (n : Nat)
deriving DecidableEq, Repr

/-- A hit of a debugger's that an instruction is not checked for any more (R459, R461): none, a BKPT, a breakpoint or
watchpoint register, or all of them. -/
inductive Skip where
  | none
  | bkpt
  | break' (k : Nat)
  | watch (k : Nat)
  | all
deriving DecidableEq, Repr

/-- A wave in a slot (R23). `newborn` until the cc in which it took its slot has ended (R405). -/
structure Wave where
  ctx : Nat
  kid : Nat
  mode : Mode
  pc : Pc
  lanes : Table Thread
  w : Table Word
  mask : List MaskEntry
  crew : Option Nat
  clause : Option Clause
  park : Park
  resident : Bool
  since : Nat
  age : Nat
  issued : Nat
  elevated : Bool
  debt : Nat
  skipHit : Skip
  newborn : Bool
deriving DecidableEq, Repr

/-- What keys a basin (R28): kernel, block (none for rays) and PC. -/
structure BasinKey where
  kid : Nat
  blockUid : Nat
  pc : Pc
deriving DecidableEq, Repr

/-- A basin in use (R28, R33, R59). -/
structure Basin where
  key : BasinKey
  threads : List Thread
  opened : Nat
  eligible : Bool
  rcv : Option (Nat × Nat)
deriving DecidableEq, Repr

/-- What a bin's records wait for (R25, R84). -/
inductive Target where
  | core (n : Nat)
  | cluster
  | treelet (addr : Nat)
deriving DecidableEq, Repr

/-- A bin of a coherence engine (R25 to R27, R401). -/
structure Bin where
  kid : Nat
  pc : Pc
  ckey : Word
  target : Target
  recs : List Thread
  opened : Nat
  aged : Bool
  crew : Option Nat
  starve : Nat
deriving DecidableEq, Repr

/-- The pending sparsity fault of a crew (R304): the MMAS's PC, and row and group. -/
structure SparseFault where
  pc : Pc
  row : Nat
  group : Nat
deriving DecidableEq, Repr

/-- A crew (R35): its tiles (64 x 64 FP32, sparse, element 64 i + j) and matrix status (R304). -/
structure Crew where
  uid : Nat
  kid : Nat
  blockUid : Nat
  formed : Nat
  tiles : List (Table Word)
  sparse : Bool
  pend : Option SparseFault
deriving DecidableEq, Repr

/-! ### Operations in flight -/

/-- A register write held by a flagged operation (R178). -/
inductive PWrite where
  | v (uid : Nat) (reg : Nat) (x : Word)
  | w (reg : Nat) (x : Word)
  | p (uid : Nat) (idx : Nat) (x : Bool)
deriving DecidableEq, Repr

/-- A matrix-engine operation issued and not completed (R297, R436): the instruction, its operands as
read at issue, the B and metadata bytes as they stood then with the scratch bytes they start at, the
physical addresses it uses, the shell-table entries (before it begins, each entry's physical address; then each code's
magnitudes), the position of the D order at issue (for a region in memory `base` is its first virtual address), the scratch
lines it pins and those it still writes, and, once it has begun, the memory writes still to make. -/
structure EngineOp where
  i : Instr
  id : Nat
  crewUid : Nat
  blockUid : Nat
  kid : Nat
  ctx : Nat
  pc : Pc
  uids : List Nat
  a : List Byte
  s : List Byte
  b : List Byte
  m : List Byte
  base : Nat
  mbase : Nat
  pas : List Nat
  shell : Table Nat
  pos : Nat
  crd : Word
  lines : List Nat
  wlines : List Nat
  out : Option (List (Nat × Byte))
deriving DecidableEq, Repr

/-- The reads at D that a plain load still makes for one thread (R130, R132): the tick, the
position of the D order and the view at its issue, its destination (a w-register of the wave for LDW), and its bytes by
physical address, each with the value that the thread's chain served. -/
structure LateRead where
  uid : Nat
  tick : Nat
  pos : Nat
  floor : Nat
  view : View
  toW : Bool
  d : Nat
  z : Size
  bytes : List (Nat × Option Byte)
deriving DecidableEq, Repr

/-- An operation in flight under a flag, an engine operation with none, or a plain load with none that is performed
later (R132, R178); `scr` for one that accesses the scratchpad, and `stash` the scratchpad lines of the stash that it
reaches (R104). -/
structure PendOp where
  slot : Nat
  flag : Option Nat
  uids : List Nat
  writes : List PWrite
  late : List LateRead
  scr : Bool
  stash : List Nat
  eng : Option EngineOp
deriving DecidableEq, Repr

/-- A placed store that has issued and not yet arrived (R132): its wave slot, thread, lane and PC, its address, its level
and bytes, and the tick of its issue. -/
structure LateStore where
  slot : Nat
  uid : Nat
  lane : Nat
  pc : Pc
  addr : Nat
  level : Level
  bytes : List BufByte
  tick : Nat
deriving DecidableEq, Repr

/-- What an instruction does at the lane port (R94): a load into registers, with the scope of a strong one;
LDF; a store; an atomic (AMAXSWP without an operation) on words of one or two registers, with its level and its
destination. -/
inductive PortKind where
  | load (strong : Option Level) (d : Nat) (z : Size)
  | ldf (d : Nat) (z : Size) (pd : Nat)
  | store
  | atom (op : Option AtomOp) (wide : Bool) (x : Level) (d : Option Nat)
deriving DecidableEq, Repr

/-- One lane's access at the lane port: its first byte in the core's scratchpad, its size, the address its record would
name, what it stores or operates with, and, for a byte of the stash, the memory it stands for. -/
structure PortAcc where
  lane : Nat
  byte : Nat
  size : Nat
  addr : Nat
  data : List Byte
  pa : Option Nat
deriving DecidableEq, Repr

/-- A byte that a pass has read, with the releases it carries: for the one lane, or for every lane. -/
structure PortByte where
  lane : Option Nat
  byte : Nat
  val : Byte
  marks : List Mark
deriving DecidableEq, Repr

/-- The instruction that holds a core's lane port between its passes (R94): its wave slot, the clock of its cluster at its issue, its
size and flag select, its lanes, the bytes that lanes were served from memory, the words of each pass still to come, what
the passes have read, and the words that LDF found on a line that was not full (R245). -/
structure PortOp where
  slot : Nat
  since : Nat
  len : Nat
  sel : FlagSel
  kind : PortKind
  lanes : List Nat
  accs : List PortAcc
  mem : List (Nat × List Byte)
  todo : List (List Nat)
  got : List PortByte
  short : List Nat
deriving DecidableEq, Repr

/-- What a copy does (R269, R270, R347, R103). -/
inductive CopyKind where
  | tileIn | tileOut | gather | scatter | fill
deriving DecidableEq, Repr

/-- One piece of a run of a copy (R268), within one line on each side: the run's index, its global
address, in bounds, its dense address, bytes, what has been read for it, done. -/
structure Run where
  idx : Nat
  g : Nat
  inb : Bool
  dense : Nat
  len : Nat
  data : Option (List Byte)
  done : Bool
deriving DecidableEq, Repr

/-- A copy in flight (R141, R439). `id` names it among the agents at D; `index`, `tidx` and `lane` name
the thread that issued it, and `turn` the place of its instruction in the order of issue at the engine (R17); a copy
that pre-emption, rotation or a spill holds is `cancelled` until it
resumes (R279). -/
structure Copy where
  kind : CopyKind
  uid : Nat
  episode : Nat
  batch : Nat
  blockUid : Nat
  kid : Nat
  ctx : Nat
  pc : Pc
  id : Nat
  turn : Nat
  index : Nat
  tidx : Word
  lane : Option Nat
  stage : Option Nat
  runs : List Run
  stuck : Option Nat
  cancelled : Bool
deriving DecidableEq, Repr

/-- A copy that a barrier or WAITB still names after it has completed, for its acquire (R141). -/
structure DoneCopy where
  uid : Nat
  episode : Nat
  batch : Nat
  blockUid : Nat
  stage : Option Nat
  view : View
deriving DecidableEq, Repr

/-- What an entry of a dependency table waits for (R341): another entry of the table to complete, or lines of the
core's stream area to be full. -/
inductive TileDep where
  | entry (n : Nat)
  | lines (first count : Nat)
deriving DecidableEq, Repr

/-- A tile task in a dependency table (R341): its task, its region's first row and column, the tick the
Weir issued the task (R105), the tick from which it has waited for an accumulator tile alone (R393), its up to four
dependences, whether it needs an accumulator tile, whether the copy
engine performs it, whether it has started, its place in the order of issue at the engine (R17), whether it
holds the tile, the position of the D order at its start, what its reads have given while it waits for a page (R421),
and, once it has computed, the bytes and the pairs (R340) it still writes; `wlines` are the lines of the stream area that
it writes (R97). -/
structure TileTask where
  ctx : Nat
  seq : Nat
  row : Nat
  col : Nat
  age : Nat
  waitFrom : Nat
  deps : List TileDep
  mat : Bool
  copy : Bool
  started : Bool
  turn : Nat
  acc : Bool
  pos : Nat
  said : List (List Nat)
  out : Option (List (Nat × Byte))
  pairs : List (Nat × Word)
  wlines : List Nat
deriving DecidableEq, Repr

/-- A cached leaf translation (R416, R417). -/
structure TlbEntry where
  ctx : Nat
  vbase : Nat
  bytes : Nat
  pbase : Nat
  w : Bool
  x : Bool
  d : Bool
deriving DecidableEq, Repr

/-- A cached non-leaf entry (R416). -/
structure WalkEntry where
  ctx : Nat
  addr : Nat
  entry : DWord
deriving DecidableEq, Repr

/-- A wave saved by rotation, with the core and age it had (R54); `held` for one that has its granules on its core
already and waits for a slot alone (R52). -/
structure SavedWave where
  core : Nat
  wave : Wave
  slot : Nat
  held : Bool
deriving DecidableEq, Repr

/-! ### Blocks, gangs and grids -/

/-- An arrival at a barrier: the thread, with its episode and open batch then (R136). -/
structure BarArrival where
  uid : Nat
  episode : Nat
  batch : Nat
deriving DecidableEq, Repr

/-- A hardware or gang barrier (R260 to R262): the arrivals of the current phase with what they
released, the view the last completed phase gives, and, by phase, the view each completed phase gives to an
arrival that is still pending (R261). -/
structure Barrier where
  group : Nat
  arrived : List BarArrival
  phase : Nat
  view : View
  marks : List Mark
  past : Table View
deriving DecidableEq, Repr

/-- A stash-map entry (R102), and a tile-table entry (R99). -/
structure StashEntry where
  line : Nat
  count : Nat
  base : Nat
deriving DecidableEq, Repr

/-- A tile-table entry that is valid (R99). -/
structure TileEntry where
  base : Nat
  count : Nat
deriving DecidableEq, Repr

/-- A line of the stash part that is present (R103): where its bytes stand at D, and the position of the
D order at which its fill read them. A line with no entry is absent. -/
structure StashLine where
  line : Nat
  pa : Nat
  pos : Nat
deriving DecidableEq, Repr

/-- A block (R39). `core` is its device core number; `scratch` its first byte in the core's
scratchpad; `live` the threads not retired with their group masks (R42); `lifted` for a block that a save has taken from
its core (R438). -/
structure Block where
  uid : Nat
  kid : Nat
  idx : Nat
  gangUid : Nat
  core : Nat
  scratch : Nat
  placed : Bool
  lifted : Bool
  tl : Table TileEntry
  st : Table StashEntry
  lines : List StashLine
  stage : Nat
  stagePc : List Pc
  stageIssued : Nat
  bars : Table Barrier
  soft : List (Nat × Nat)
  live : Table (BitVec 16)
  age : Nat
  formed : Nat
  spilledAt : Nat
  done : List DoneCopy
  /-- the block's scratch and stash bytes, its empty lines, waves, basins, crews and copies while it
  is spilled or saved (R50, R440) -/
  sbytes : List Host.Cell
  sempty : List Nat
  swaves : List Wave
  sbasins : List Basin
  screws : Table Crew
  scopies : List Copy
deriving DecidableEq, Repr

/-- A gang (R40). -/
structure Gang where
  uid : Nat
  kid : Nat
  cluster : Nat
  blocks : List Nat
  bars : Table Barrier
  formed : Nat
deriving DecidableEq, Repr

/-- A launch record (R342), parsed. -/
structure LaunchRec where
  entry : Pc
  gx : Nat
  gy : Nat
  gz : Nat
  bdx : Nat
  bdy : Nat
  bdz : Nat
  gp : Nat
  gf : Nat
  base : Nat
  ceil : Nat
  floor : Nat
  carry : Nat
  kind : Nat
  s : Nat
  t : Nat
  accFloor : Nat
  accCeil : Nat
  tiles : Nat
  prio : Nat
  nest : Nat
  hwBars : Nat
  gangBars : Nat
  stages : Nat
  hwGroups : DWord
  gangGroups : Word
  logSize : Nat
  logAddr : Nat
  sched : Nat
  seed : DWord
  param : DWord
  slots : List (BitVec 128)
deriving DecidableEq, Repr

/-- A fault record (R428), without its length and zero fields. -/
structure FaultRec where
  cls : BitVec 8
  cause : BitVec 8
  ctx : BitVec 8
  src : BitVec 8
  core : BitVec 8
  lane : BitVec 8
  further : BitVec 8
  flags : BitVec 8
  tick : DWord
  seq : DWord
  pc : DWord
  addr : DWord
  block : Word
  thread : Word
  detail : Word
  kid : BitVec 16
deriving DecidableEq, Repr

/-- A grid or ray batch (R39, R41, R312, R346, R431). `kid` is the model's own name of it, `kernel`
the kernel id of headers and fault records (log 16); `view` is what its threads start with and `done` what
its retired threads leave (R137); `formed` is the position of the D order at its issue, where the windows of a
batch's buffers open (R125). -/
structure Grid where
  kid : Nat
  kernel : BitVec 12
  ctx : Nat
  seq : Nat
  pc : Pc
  root : Nat
  parent : Option Nat
  depth : Nat
  lrec : LaunchRec
  ray : Bool
  header : Nat
  table : Nat
  stride : Nat
  cmask : BitVec 16
  count : Nat
  next : Nat
  retired : Nat
  gangs : Nat
  blocks : List Nat
  pool : Option (Nat × Nat)
  argAddr : Nat
  args : List (Nat × Nat)
  issue : Nat
  waitFrom : Nat
  failed : Option Nat
  expired : Bool
  bonus : Nat
  tested : Bool
  fetched : List Nat
  ending : Bool
  fault : Option FaultRec
  faultSlot : Nat
  ended : Bool
  view : View
  done : View
  formed : Nat
deriving DecidableEq, Repr

/-! ### Cores and clusters -/

/-- A core (R11). `sampled` holds, by context, one more than the tick of its last sample (R465), `port` is the instruction between its passes at the lane port (R94), and `stores` are the placed stores
that have not arrived (R132). -/
structure Core where
  scratch : List Host.Cell
  smarks : Table (List Mark)
  empty : List Nat
  waves : Table Wave
  basins : Table Basin
  crews : Table Crew
  copies : Table Copy
  ops : Table PendOp
  deps : Table TileTask
  tlb : List TlbEntry
  sarea : Nat
  soft : List (Nat × Nat × Nat)
  deadFrom : Nat
  sampled : Table Nat
  port : Option PortOp
  stores : List LateStore
deriving DecidableEq, Repr

/-- Debug status of a cluster (R460), the step in progress (R461), and the hit whose instruction has not issued since
(R459). -/
structure DbgStatus where
  frozen : Bool
  spread : Bool
  stepFail : Bool
  logFull : Bool
  diverged : Bool
  why : BitVec 3
  core : BitVec 3
  slot : BitVec 6
  lane : BitVec 5
  step : Option (Nat × Nat × Nat)
  haltc : Bool
  hit : Skip
deriving DecidableEq, Repr

/-- A reply that stands in the skid buffer (R457): the operation it answers, by core and number, and its lines. -/
structure SkidReply where
  core : Nat
  key : Nat
  lines : Nat
deriving DecidableEq, Repr

/-- A traversal run that waits for a page at the point it has reached (R421): its record when it began, and what its
reads have given. -/
structure PausedRun where
  ray : RayPart
  said : List (List Nat)
deriving DecidableEq, Repr

/-- A cluster (R11): `clock` counts the cc in which it was not frozen (R457); `fcache` and
`treelets` hold, per block or treelet address, the position in the D order its copy was read at, and no copy in
the data ways is older than `dataFloor` (R106, R107). -/
structure Cluster where
  mode : BitVec 2
  pendMode : Option (BitVec 2)
  tlb : List TlbEntry
  walks : List WalkEntry
  unbinned : List Thread
  waiting : List Thread
  bins : Table Bin
  trav : Table Thread
  paused : Table PausedRun
  treelets : Table Nat
  fcache : Table Nat
  dataFloor : Nat
  rdone : List DoneCopy
  clock : Nat
  dbg : DbgStatus
  skid : List SkidReply
  rotated : List SavedWave
deriving DecidableEq, Repr

/-! ### Contexts and their streams (spec/11, spec/16) -/

/-- The context states of R379. -/
inductive CtxState where
  | free | stopped | running | stopping | saved
deriving DecidableEq, Repr

/-- The stream status of R315. -/
inductive StreamStatus where
  | running | waiting | halted | faulted
deriving DecidableEq, Repr

/-- A handle-map entry that is defined (R323). -/
inductive Handle where
  | renamed (addr cls len : Nat)
  | bound (base len : Nat)
deriving DecidableEq, Repr

/-- A view of a tensor (R335, R336), with the base of its handle. -/
structure TView where
  base : Nat
  off : Nat
  rows : Nat
  cols : Nat
  pitch : Nat
deriving DecidableEq, Repr

/-- A parsed task descriptor (R335) with the format slots it names, what its handles resolved to (R325),
what its destination handle was before where it is renamed, and the bytes of its copy program (R339). -/
structure TDesc where
  v0 : TView
  v1 : TView
  v2 : TView
  f0 : BitVec 128
  f1 : BitVec 128
  f2 : BitVec 128
  seed : DWord
  amax : Nat
  opw0 : Word
  opw1 : Word
  opw2 : DWord
  prev : Option (Nat × Nat)
  prog : List Byte
deriving DecidableEq, Repr

/-- What a launch task read at decode (R342, R346). -/
structure LDesc where
  lrec : LaunchRec
  header : Nat
  table : Nat
  stride : Nat
  cmask : BitVec 16
  count : Nat
  args : List (Nat × Nat)
deriving DecidableEq, Repr

/-- How far a window entry is (R329). -/
inductive EntrySt where
  | decoded | issued | done | faulted
deriving DecidableEq, Repr

/-- A window entry (R329): `deps` are the sequence numbers of its producers, `raws` its raw regions and
whether it writes them, `maps` its changes of the handle map, `val` the operand of WAITE and SIGNAL or the
running amax value of a task, `tiles` its tile tasks not yet placed, `agent` its number at D, the ticks of its decode and its
issue, what its own reads have given while it waits for a page (R421), and whether it has sent over Rill what its
completion waits for: the flush of a REDT (R482), or the final step of FENCET.s (R331). -/
structure Entry where
  seq : Nat
  slot : Nat
  pc : Pc
  i : Option Instr
  st : EntrySt
  fault : Option FaultRec
  deps : List Nat
  raws : List (Nat × Nat × Bool)
  buf : Option (Nat × Nat)
  maps : List (Nat × Option Handle)
  displaced : List (Nat × Nat)
  qw : Option (Nat × DWord)
  stack : List Pc
  nextPc : Pc
  val : DWord
  task : Option TDesc
  launch : Option LDesc
  kid : Option Nat
  tiles : List (Nat × Nat)
  inFlight : Nat
  agent : Nat
  decodeTick : Nat
  issueTick : Nat
  said : List (List Nat)
  sent : Bool
deriving DecidableEq, Repr

/-- The stream state of a context (R315) with its arena (R326), its view and what its SIGNALs have released
(R331). -/
structure Stream where
  base : Nat
  limit : Nat
  spcS : Pc
  spcR : Pc
  qS : Table DWord
  qR : Table DWord
  hS : Table Handle
  hR : Table Handle
  stackS : List Pc
  stackR : List Pc
  seq : Nat
  status : StreamStatus
  stopDecode : Bool
  stuck : Option Nat
  win : List Entry
  arenaBase : Nat
  arenaSize : Nat
  freeBufs : List (Nat × Nat)
  view : View
  rel : List Mark
deriving DecidableEq, Repr

/-- The debug registers of a context (R452), with the counts kept in the trace area's header and, for
each cluster, how many replay events it has met (R469, R470); `reported` once a divergence has been. -/
structure DbgRegs where
  ctl : DWord
  bp : List DWord
  wp : List DWord
  traceBase : Nat
  traceSize : Nat
  traceN : Nat
  traceDrop : Nat
  recBase : Nat
  recSize : Nat
  dumpBase : Nat
  dumpSize : Nat
  cxLo : DWord
  cxHi : DWord
  cxHits : DWord
  offReplay : Bool
  reported : Bool
  recN : Table Nat
deriving DecidableEq, Repr

/-- What a save image holds of one cluster (R440, R443) beside its blocks: records, bins and rotated waves. -/
structure ClImage where
  unbinned : List Thread
  waiting : List Thread
  bins : Table Bin
  trav : Table Thread
  rotated : List SavedWave
deriving DecidableEq, Repr

/-- A save image, kept typed (log 12): where it stands, the header, stream and handle-map bytes
written there (R444, R445), and what the unarchitected sections hold. -/
structure Image where
  area : Nat
  ctx : Nat
  size : BitVec 3
  bytes : List Host.Cell
  resBase : List DWord
  resCtl : List DWord
  prog : List DWord
  events : List DWord
  stream : Stream
  grids : Table Grid
  blocks : Table Block
  gangs : Table Gang
  bufs : List Buf
  clusters : List ClImage
deriving DecidableEq, Repr

/-- A context (R379, R380). `reqTick` and `budget` are the tick of its last REQ stop and the step budget
that held then (R88, R382); `inRun` are the rays whose runs were in progress then (R89), and `parts` what the cores that
have halted held of its rays (R438). -/
structure Ctx where
  st : CtxState
  gran : Bool
  bound : Bool
  part : BitVec 4
  weight : BitVec 8
  root : Nat
  saveArea : Nat
  resBase : List DWord
  resCtl : List DWord
  prog : List DWord
  events : List DWord
  stream : Stream
  dbg : DbgRegs
  halted : List Nat
  reqTick : Nat
  reqHeld : Bool
  inRun : List Nat
  budget : BitVec 16
  runFrom : Nat
  share : Nat
  byDevice : Bool
deriving DecidableEq, Repr

/-! ### Partitions, the device, the host and Rill -/

/-- A traversal, an AWAIT sample, a stage or a stream task that waits for a page (R421): its grid, thread and
source code, or the context and sequence number of the task, and the record its access would make alone. -/
structure PageWaiter where
  kid : Nat
  uid : Nat
  src : Nat
  task : Option (Nat × Nat) := none
  frec : FaultRec
deriving DecidableEq, Repr

/-- A page-fault record that is unresolved (R422): what it says, where it stands, and which waiters
that are neither waves, copies nor streams joined it. -/
structure PageRec where
  id : Nat
  ctx : Nat
  page : Nat
  frec : FaultRec
  joined : Bool
  host : Bool
  slot : Option Nat
  who : List PageWaiter
deriving DecidableEq, Repr

/-- An event record that waits at its source because a ring is full (R386, R476), with the page
record it stands for. -/
structure Queued where
  frec : FaultRec
  page : Option Nat
deriving DecidableEq, Repr

/-- A partition (R378, R381, R382, R386). -/
structure Part where
  valid : Bool
  size : BitVec 3
  chan : BitVec 8
  sarea : BitVec 4
  binAge : BitVec 16
  basinAge : BitVec 12
  treelet : BitVec 6
  quantum : BitVec 10
  stepBudget : BitVec 16
  vbase : Nat
  fqbase : Nat
  tail : Nat
  ring : List (Nat × Queued)
  held : Option (Nat × Queued)
  wait : List Queued
  cursor : Nat
  turn : Nat
  reserved : Option (Nat × Nat)
  stopped : Option (Nat × Nat × Nat)
deriving DecidableEq, Repr

/-- The registers and queues of the device and the host (R384, R475, R483, R486, R487); `throttle` the allowance as it is
reduced from 100 °C on, down to 95 °C (R489), `msixTab` what the host has written into the MSI-X table (R474), and `spent` once
the tick of an armed stop has passed (R463). -/
structure Device where
  phase : BitVec 3
  herr : Bool
  eccOn : Bool
  eccEn : Bool
  thresh : BitVec 16
  ceCount : BitVec 16
  poolBase : Nat
  func : BitVec 6
  temp : BitVec 8
  hot : Bool
  throttle : Option Nat
  allow : Nat
  pmode : BitVec 2
  skidArm : Bool
  skidActive : Bool
  skidLines : Nat
  qbase : Nat
  qtail : Nat
  qcount : Nat
  qhead : Nat
  hostRing : List (Nat × Queued)
  hostWait : List Queued
  sigPend : DWord
  irqPend : Word
  win : Nat
  msix : List Nat
  msixTab : Table Byte
  bar2 : List Byte
  stopTick : DWord
  armed : Bool
  spent : Bool
  stopped : Bool
  gens : Table Nat
deriving DecidableEq, Repr

/-- A handler slot (R386): the marks WAITI looks at (R388). -/
structure Handler where
  wave : Option Wave
  bell : Bool
  changed : Bool
deriving DecidableEq, Repr

/-- For whom a request is sent over Rill: a thread, a copy, or a task of a stream. -/
inductive RillWho where
  | thread (uid : Nat)
  | copy (id : Nat)
  | task (ctx seq : Nat)
deriving DecidableEq, Repr

/-- A request of the peer's that the endpoint receives (R449, R482): a read or write of some bytes, an atomic (AMAXSWP
without an operation), the bytes of a commit step, a pair for the merge unit, or the flush of a task's pairs. -/
inductive PeerReq where
  | read (a n : Nat)
  | write (a : Nat) (bs : List Byte)
  | atom (op : Option AtomOp) (wide : Bool) (a : Nat) (data : List Byte)
  | step (l : List (Nat × Byte))
  | pair (task a : Nat) (x : Word)
  | flush (task : Nat)
  | other
deriving DecidableEq, Repr

/-- A request sent over Rill (R449): its tag, when it was last sent, who sent it, whether a
thread waits for it, its grid, and the bytes that it writes at the peer, as they stood there before it. -/
structure RillReq where
  tag : Nat
  sent : Nat
  who : RillWho
  block : Bool
  kid : Nat
  ctx : Nat
  old : List (Nat × Byte)
deriving DecidableEq, Repr

/-- An entry of the merge unit (R482). -/
structure MergeEntry where
  task : Nat
  addr : Nat
  x : Word
deriving DecidableEq, Repr

/-- The Rill endpoint (R449, R479, R482, R483). `cache` holds the responses of the tags applied, `early` requests whose
turn has not come, `resp` the responses on their way to the peer, `pairs` what the peer's
merge unit holds of this module's tasks, and `hold` the cc for which the tick still waits for the primary's. -/
structure Rill where
  st : BitVec 3
  primary : Bool
  peerCap : BitVec 20
  lanes : BitVec 6
  nextTag : Nat
  expect : Nat
  out : List RillReq
  cache : List (Nat × Nat)
  early : List (Nat × PeerReq)
  resp : List (Nat × Nat)
  merge : List MergeEntry
  pairs : List MergeEntry
  hostOut : List Nat
  heard : Nat
  hold : Nat
deriving DecidableEq, Repr

/-- A line of a way that is held for a residency range (R110): its slice and set, and the context and register
that hold it. -/
structure KeptLine where
  slice : Nat
  set : Nat
  line : Nat
  ctx : Nat
  reg : Nat
deriving DecidableEq, Repr

/-- The memory-side cache (R108 to R111): for each source, context and register the count of matching requests,
and the lines with the retained class, the most recently used first. What the cache holds besides is the value at
D itself. -/
structure MemSide where
  counts : Table Nat
  kept : List KeptLine
deriving DecidableEq, Repr

/-- A change of a scratchpad line's full/empty bit in this cc (R97): the row of R97's table it stands in, and
whether the line was empty before the first change in the cc. -/
structure LineEvent where
  core : Nat
  line : Nat
  row : Nat
  was : Bool
deriving DecidableEq, Repr

/-- What a block that has left a core in this cc held there: its block area, granules and tiles, which are not yet to
be had (R405). -/
structure HeldArea where
  core : Nat
  scratch : Nat
  size : Nat
  granules : Nat
  tiles : Nat
deriving DecidableEq, Repr

/-- What has happened in this cc (R390, R392, R397, R400, R404, R405): how far the order of R405 has come (1 at
placements, 2 at dispatches, 3 + 4 core + partition at the issue of a partition), the waves offered an issue and
the partitions (of cores) that have issued, the lanes that have decoded and the tasks they have issued, the
partitions that have placed a gang, the cores that waves have been dispatched to, the changes of line bits, and what
is not to be had before the next cc: by holder, the granules and tiles held when the cc began or taken since; by core,
the slots held when it began; and what blocks that have left a core held. Besides: the registers that an SWR has written,
by number and instance (R388), whether the control core has issued (R377), the lanes in which a turn has ended (R390),
and the partitions whose shares are to be computed again (R391). -/
structure ThisCc where
  order : Nat
  tried : List (Nat × Nat)
  issued : List (Nat × Nat)
  decoded : List Nat
  tasks : Table Nat
  gangs : List Nat
  sent : List Nat
  lines : List LineEvent
  granules : Table Nat
  tiles : Table Nat
  slots : Table (List Nat)
  areas : List HeldArea
  swr : List (Nat × Nat)
  sys : Bool
  turned : List Nat
  reshare : List Nat
deriving DecidableEq, Repr

/-- Who acts in a step. -/
inductive Actor where
  | wave (core slot : Nat)
  | handler (f : Nat)
  | stream (ctx : Nat)
  | event (i : Instr)
  | cycle
deriving DecidableEq, Repr

/-- The wave or stream a thread or stream instruction is executed for. -/
inductive Cur where
  | idle
  | wave (core slot : Nat)
  | handler (f : Nat)
  | stream (ctx : Nat)
deriving DecidableEq, Repr

/-- The state of the D1 module. `agenda`, `fresh`, `uids`, `cur` and `cc` are the model's own (log 3,
log 16, log 95), and so are `heard` and `said`, in which a unit that goes on after a page wait finds what its reads have
given already, and notes what they give (log 125); between steps both are empty. -/
structure State where
  tick : Nat
  mem : Memory
  mside : MemSide
  cores : List Core
  clusters : List Cluster
  blocks : Table Block
  gangs : Table Gang
  grids : Table Grid
  ctxs : List Ctx
  parts : List Part
  handlers : List Handler
  dev : Device
  rill : Rill
  pages : List PageRec
  images : List Image
  cur : Cur
  agenda : List Actor
  cc : ThisCc
  fresh : Nat
  uids : Nat
  heard : List (List Nat)
  said : List (List Nat)
deriving DecidableEq, Repr

/-- Why the machine stops with a fault. -/
inductive Fault where
  /-- raised by a thread instruction executed while `cur` names no wave, and by a stream instruction
  executed while it names no stream; `step` never does that. Safe: no claim about a running wave
  meets it. -/
  | noWave
deriving DecidableEq, Repr

/-- Why the machine refuses an instruction. -/
inductive Refusal where
  /-- raised by an arm of `exec` whose instruction has no meaning yet. Safe. -/
  | notModelled (mnemonic : String)
deriving DecidableEq, Repr

/-! ### Reset -/

/-- The empty view. -/
def View.zero : View := { floor := 0, bytes := [] }

/-- Memory at reset: nothing listed. -/
def Memory.reset : Memory :=
  { cells := [], dirty := [], log := [], pos := 0, bufs := [], sc := [], poison := [], logAcc := [] }

/-- A core at reset (PART_CFG.SAREA is 2, R381). -/
def Core.reset : Core :=
  { scratch := [], smarks := [], empty := [], waves := [], basins := [], crews := [], copies := [],
    ops := [], deps := [], tlb := [], sarea := 2, soft := [], deadFrom := 0, sampled := [], port := none,
    stores := [] }

/-- DBG_STATUS at reset (R460). -/
def DbgStatus.reset : DbgStatus :=
  { frozen := false, spread := false, stepFail := false, logFull := false, diverged := false,
    why := 0, core := 0, slot := 0, lane := 0, step := none, haltc := false, hit := .none }

/-- A cluster at reset (R383). -/
def Cluster.reset : Cluster :=
  { mode := 0, pendMode := none, tlb := [], walks := [], unbinned := [], waiting := [], bins := [],
    trav := [], paused := [], treelets := [], fcache := [], dataFloor := 0, rdone := [], clock := 0, dbg := DbgStatus.reset, skid := [],
    rotated := [] }

/-- A stream at reset: STATUS reads 2, halted (R381). -/
def Stream.reset : Stream :=
  { base := 0, limit := 0, spcS := 0, spcR := 0, qS := [], qR := [], hS := [], hR := [],
    stackS := [], stackR := [], seq := 0, status := .halted, stopDecode := false, stuck := none,
    win := [], arenaBase := 0, arenaSize := 0, freeBufs := [], view := View.zero, rel := [] }

/-- Debug registers at reset (R452 to R456). -/
def DbgRegs.reset : DbgRegs :=
  { ctl := 0, bp := List.replicate 4 0, wp := List.replicate 4 0, traceBase := 0, traceSize := 0,
    traceN := 0, traceDrop := 0, recBase := 0, recSize := 0, dumpBase := 0, dumpSize := 0,
    cxLo := 0, cxHi := 0, cxHits := 0, offReplay := false, reported := false,
    recN := [] }

/-- A context at reset: free (R379), WEIGHT 1 (R381). -/
def Ctx.reset : Ctx :=
  { st := .free, gran := false, bound := false, part := 0, weight := 1, root := 0, saveArea := 0,
    resBase := List.replicate 8 0, resCtl := List.replicate 8 0, prog := List.replicate 16 0,
    events := List.replicate 64 0, stream := Stream.reset, dbg := DbgRegs.reset, halted := [],
    reqTick := 0, reqHeld := false, inRun := [], budget := 0, runFrom := 0, share := 128, byDevice := false }

/-- A partition at reset (R381, R382). -/
def Part.reset : Part :=
  { valid := false, size := 0, chan := 0, sarea := 2, binAge := 2048, basinAge := 256, treelet := 8,
    quantum := 64, stepBudget := 256, vbase := 0, fqbase := 0, tail := 0, ring := [], held := none,
    wait := [], cursor := 0, turn := 0, reserved := none, stopped := none }

/-- The device at reset (R484, R486, R487: ALLOW 64, MODE 3). -/
def Device.reset : Device :=
  { phase := 0, herr := false, eccOn := false, eccEn := false, thresh := 0, ceCount := 0,
    poolBase := 0, func := 0, temp := 0, hot := false, throttle := none, allow := 64, pmode := 3, skidArm := false,
    skidActive := false, skidLines := 0, qbase := 0, qtail := 0, qcount := 0, qhead := 0,
    hostRing := [], hostWait := [], sigPend := 0, irqPend := 0, win := 0, msix := [], msixTab := [], bar2 := [],
    stopTick := 0, armed := false, spent := false, stopped := false, gens := [] }

/-- An idle handler slot. -/
def Handler.reset : Handler := { wave := none, bell := false, changed := false }

/-- The Rill endpoint at reset: down (R483). -/
def Rill.reset : Rill :=
  { st := 0, primary := false, peerCap := 0, lanes := 0, nextTag := 0, expect := 0, out := [],
    cache := [], early := [], resp := [], merge := [], pairs := [], hostOut := [], heard := 0, hold := 0 }

/-- The memory-side cache at reset: it keeps no line. -/
def MemSide.reset : MemSide := { counts := [], kept := [] }

/-- Nothing has happened in this cc. -/
def ThisCc.zero : ThisCc :=
  { order := 0, tried := [], issued := [], decoded := [], tasks := [], gangs := [], sent := [], lines := [],
    granules := [], tiles := [], slots := [], areas := [], swr := [], sys := false, turned := [], reshare := [] }

/-- The machine right after reset: PHASE 0, no context bound, nothing placed. -/
def State.reset : State :=
  { tick := 0, mem := Memory.reset, mside := MemSide.reset, cores := List.replicate 128 Core.reset,
    clusters := List.replicate 16 Cluster.reset, blocks := [], gangs := [], grids := [],
    ctxs := List.replicate 64 Ctx.reset, parts := List.replicate 16 Part.reset,
    handlers := List.replicate 17 Handler.reset, dev := Device.reset, rill := Rill.reset,
    pages := [], images := [], cur := .idle, agenda := [], cc := ThisCc.zero, fresh := 0, uids := 1, heard := [], said := [] }

end Sys2Proof.Machine
end

