-- ==== Sys2Proof/Machine/Table.lean ====
section
/-! DEFINITION. Operations on list-backed tables: rising keys, at most one value a key. -/

namespace Sys2Proof.Machine

/-- The value at a key. -/
def Table.get? {α : Type} : Table α → Nat → Option α
  | [], _ => none
  | (k, x) :: t, n => if k = n then some x else Table.get? t n

/-- The value at a key, or a default. -/
def Table.getD {α : Type} (t : Table α) (n : Nat) (d : α) : α := (Table.get? t n).getD d

/-- Stores a value, keeping the keys in rising order. -/
def Table.put {α : Type} : Table α → Nat → α → Table α
  | [], n, x => [(n, x)]
  | (k, y) :: t, n, x =>
    if n < k then (n, x) :: (k, y) :: t
    else if k = n then (n, x) :: t
    else (k, y) :: Table.put t n x

/-- Removes a key. -/
def Table.del {α : Type} (t : Table α) (n : Nat) : Table α := t.filter fun e => e.1 != n

/-- Changes the value at a key, where there is one. -/
def Table.upd {α : Type} (t : Table α) (n : Nat) (f : α → α) : Table α :=
  t.map fun e => if e.1 = n then (e.1, f e.2) else e

/-- The lowest key at or above `k` that is not in use, looking at `fuel` keys. -/
def Table.lowest {α : Type} (t : Table α) : Nat → Nat → Option Nat
  | 0, _ => none
  | fuel + 1, k => if (Table.get? t k).isSome then Table.lowest t fuel (k + 1) else some k

/-- One more than the greatest key. -/
def Table.nextKey {α : Type} (t : Table α) : Nat := t.foldl (fun n e => max n (e.1 + 1)) 0

/-- Replaces the nth element of a list. -/
def listSet {α : Type} : List α → Nat → α → List α
  | [], _, _ => []
  | _ :: t, 0, x => x :: t
  | a :: t, n + 1, x => a :: listSet t n x

/-- Changes the nth element of a list. -/
def listUpd {α : Type} : List α → Nat → (α → α) → List α
  | [], _, _ => []
  | a :: t, 0, f => f a :: t
  | a :: t, n + 1, f => a :: listUpd t n f

/-- The nth element, or a default. -/
def listGet {α : Type} (l : List α) (n : Nat) (d : α) : α := (l[n]?).getD d

/-- The numbers from `lo` on, `n` of them. -/
def natsFrom (lo : Nat) : Nat → List Nat
  | 0 => []
  | n + 1 => lo :: natsFrom (lo + 1) n

end Sys2Proof.Machine
end

