-- ==== Sys2Proof/Machine/Memory.lean ====
section
/-! DEFINITION. Memory as bytes: the canonical list of cells, the D order and what a load at D may
return (spec/05 R116, R129 to R131; spec/18 R407). -/

namespace Sys2Proof.Machine

/-! ### Cells -/

/-- What an unlisted byte reads as (log 2). -/
def emptyByte : Byte := 0

/-- The byte at an address. -/
def cellGet : List Host.Cell → Nat → Byte
  | [], _ => emptyByte
  | (k, x) :: t, a => if k = a then x else cellGet t a

/-- Stores a byte, keeping the form: rising addresses, no listed byte that reads as an unlisted one. -/
def cellSet : List Host.Cell → Nat → Byte → List Host.Cell
  | [], a, x => if x = emptyByte then [] else [(a, x)]
  | (k, y) :: t, a, x =>
    if a < k then (if x = emptyByte then (k, y) :: t else (a, x) :: (k, y) :: t)
    else if k = a then (if x = emptyByte then t else (a, x) :: t)
    else (k, y) :: cellSet t a x

/-- Every address of the list is above `lo`, the addresses rise, and no entry reads as unlisted. -/
def cellsAbove : Nat → List Host.Cell → Bool
  | _, [] => true
  | lo, (k, x) :: t => lo ≤ k && x != emptyByte && cellsAbove (k + 1) t

/-- The canonical form of a list of cells. -/
def cellsWf (l : List Host.Cell) : Bool := cellsAbove 0 l

/-- The canonical form of memory. -/
def Memory.wf (m : Memory) : Bool := cellsWf m.cells

/-- Stores bytes at rising addresses from `a`. -/
def cellSets : List Host.Cell → Nat → List Byte → List Host.Cell
  | l, _, [] => l
  | l, a, x :: t => cellSets (cellSet l a x) (a + 1) t

/-- The little-endian bytes of a number (R5). -/
def bytesOf : Nat → Nat → List Byte
  | 0, _ => []
  | n + 1, x => BitVec.ofNat 8 x :: bytesOf n (x / 256)

/-- The number little-endian bytes hold (R5). -/
def natOf : List Byte → Nat
  | [] => 0
  | b :: t => b.toNat + 256 * natOf t

/-! ### Regions of the physical space (R407) -/

/-- Bits [51:48] of a physical address. -/
def paRegion (a : Nat) : Nat := a / 2 ^ 48 % 16

/-- The address is homed on the peer or in host memory. -/
def isRemote (a : Nat) : Bool := paRegion a = 4 || paRegion a = 8

/-- The address is homed on the peer, of whose bytes D may hold modified copies (R123); of host memory D holds nothing
beyond one access (R481). -/
def peerHomed (a : Nat) : Bool := paRegion a = 4

/-- The byte D holds: a modified copy of a byte of the peer's, or the home byte. -/
def Memory.atD (m : Memory) (a : Nat) : Byte :=
  if peerHomed a then (Table.get? m.dirty a).getD (cellGet m.cells a) else cellGet m.cells a

/-- The byte the home holds. -/
def Memory.atHome (m : Memory) (a : Nat) : Byte := cellGet m.cells a

/-- Bytes at D from an address. -/
def Memory.readD (m : Memory) (a n : Nat) : List Byte := (natsFrom a n).map m.atD

/-- A number of n bytes at D. -/
def Memory.numD (m : Memory) (a n : Nat) : Nat := natOf (m.readD a n)

/-! ### Views and marks -/

/-- The position of a byte in a view (R130). -/
def View.at (v : View) (a : Nat) : Nat := max v.floor (Table.getD v.bytes a 0)

/-- Raises a view at one byte. -/
def View.raise (v : View) (a p : Nat) : View :=
  if p ≤ v.at a then v else { v with bytes := Table.put v.bytes a p }

/-- The join of two views. -/
def View.join (v w : View) : View :=
  { floor := max v.floor w.floor,
    bytes := w.bytes.foldl (fun t e => Table.put t e.1 (max e.2 (Table.getD t e.1 0))) v.bytes }

/-- The storers of two stores of one byte, the later first, without repeats. -/
def addWho (l : List Nat) : List Nat → List Nat
  | [] => l
  | k :: t => addWho (if k ∈ l then l else l ++ [k]) t

/-- A view raised to the present end of the D order. -/
def Memory.nowView (m : Memory) : View := { floor := m.pos, bytes := [] }

/-- Raises a view at every byte of an arrival. -/
def View.raiseAll (v : View) (x : Arrival) : View := x.bytes.foldl (fun v b => v.raise b.addr x.pos) v

/-- A view raised by the latest arrival. -/
def Memory.seeLast (m : Memory) (v : View) : View :=
  match m.log with
  | x :: _ => v.raiseAll x
  | [] => v

/-- Adds marks without repeats. -/
def addMarks (l : List Mark) : List Mark → List Mark
  | [] => l
  | k :: t => addMarks (if k ∈ l then l else l ++ [k]) t

/-- Scope x of `a` includes `b` (R115). -/
def scopeHas (x : Level) (a b : Chain) : Bool :=
  match x with
  | .c => a.c = b.c
  | .b => a.b = b.b
  | .g => a.g = b.g
  | .d => true
  | .s => true

/-- A view after an acquire at scope y by `b`, from the releases it has seen (R134). -/
def acquireView (v : View) (b : Chain) (y : Level) (seen : List Mark) : View :=
  seen.foldl (fun v k =>
    if scopeHas k.scope k.who b && scopeHas y b k.who then v.join k.view else v) v

/-! ### The D order -/

/-- The write an arrival makes to a byte. -/
def Arrival.writeAt (x : Arrival) (a : Nat) : Option ByteWrite := x.bytes.find? fun w => w.addr = a

/-- The latest position in the order of a byte, and the marks on it. -/
def lastOf : List Arrival → Nat → Nat × List Mark
  | [], _ => (0, [])
  | x :: t, a =>
    match x.writeAt a with
    | some w => (x.pos, w.marks)
    | none => lastOf t a

/-- The byte as it stood at a position of the D order: later arrivals are taken back. -/
def backTo (p : Nat) : List Arrival → Byte → Nat → Byte
  | [], cur, _ => cur
  | x :: t, cur, a =>
    if x.pos ≤ p then cur
    else
      match x.writeAt a with
      | some w => backTo p t w.old a
      | none => backTo p t cur a

/-- The byte at D as it stood at a position. -/
def Memory.atPos (m : Memory) (p a : Nat) : Byte := backTo p m.log (m.atD a) a

/-- A value a plain load may return for a byte: the value, the marks it carries, and the position of the
arrival that made it. -/
structure Choice where
  val : Byte
  marks : List Mark
  pos : Nat
deriving DecidableEq, Repr

/-- What a plain load may return at D (R130): newest value first. A value before an arrival is allowed while that
arrival is later than the view, does not carry the thread's own store, and was made within the bound. -/
def staleFrom (bound now uid view : Nat) : List Arrival → Nat → List Choice
  | [], _ => []
  | x :: t, a =>
    match x.writeAt a with
    | none => staleFrom bound now uid view t a
    | some w =>
      if x.pos ≤ view || x.tick + bound ≤ now || uid ∈ w.who then []
      else
        let l := lastOf t a
        { val := w.old, marks := l.2, pos := l.1 } :: staleFrom bound now uid view t a

/-- The bound of R130 in cc. -/
def staleBound (a : Nat) : Nat := if isRemote a then 16384 else 2048

/-- The values that arrivals give a plain load of a byte, of which `newest` is the latest: none from before the view,
nor from before `floor`, the position from which the copies it may be served are clean (R107). -/
def choicesOf (log : List Arrival) (newest : Byte) (now uid floor : Nat) (v : View) (a : Nat) : List Choice :=
  let l := lastOf log a
  { val := newest, marks := l.2, pos := l.1 } ::
    staleFrom (staleBound a) now uid (max floor (v.at a)) log a

/-- The values a plain load of a byte may return at D. -/
def Memory.choices (m : Memory) (now uid floor : Nat) (v : View) (a : Nat) : List Choice :=
  choicesOf m.log (m.atD a) now uid floor v a

/-- The commit step, if any, that made the latest value of a byte; every byte of it is seen with it (R116). -/
def stepAt : List Arrival → Nat → Option Arrival
  | [], _ => none
  | x :: t, a =>
    match x.writeAt a with
    | some _ => if x.step then some x else none
    | none => stepAt t a

/-- One byte that an arrival at D brings. -/
structure NewByte where
  addr : Nat
  val : Byte
  who : List Nat
  marks : List Mark
deriving DecidableEq, Repr

/-- Stores a byte at D: one of the peer's stays a modified copy (R123), and one of the host's goes home (R481). -/
def Memory.setD (m : Memory) (a : Nat) (x : Byte) : Memory :=
  if peerHomed a then { m with dirty := Table.put m.dirty a x }
  else { m with cells := cellSet m.cells a x }

/-- The writes an arrival makes. -/
def Memory.writesOf (m : Memory) : List NewByte → List ByteWrite
  | [] => []
  | b :: t =>
    { addr := b.addr, new := b.val, old := m.atD b.addr, who := b.who,
      marks := addMarks b.marks (lastOf m.log b.addr).2 } :: m.writesOf t

/-- An arrival at D of bytes at distinct addresses, as one position (R116). A line an arrival covers
whole is poisoned no longer (R434). -/
def Memory.arriveD (m : Memory) (now : Nat) (who : Party) (bs : List NewByte) (step : Bool := false)
    (makers : List Nat := []) : Memory :=
  let ws := m.writesOf bs
  let m1 := bs.foldl (fun m b => m.setD b.addr b.val) m
  { m1 with
    log := { pos := m.pos + 1, tick := now, party := who, step := step, makers := makers, bytes := ws } :: m.log
    pos := m.pos + 1
    poison := m.poison.filter fun l =>
      !((natsFrom l 128).all fun a => bs.any fun b => b.addr = a) }

/-- An arrival at the home (R121): a byte of the peer's goes home, and into the modified copy where D holds
one. -/
def Memory.arriveHome (m : Memory) (now : Nat) (who : Party) (bs : List NewByte) : Memory :=
  let m1 := m.arriveD now who bs
  bs.foldl (fun m' b =>
    if peerHomed b.addr then
      { m' with
        cells := cellSet m'.cells b.addr b.val
        dirty := if (Table.get? m.dirty b.addr).isSome then m'.dirty else Table.del m'.dirty b.addr }
    else m') m1

/-- The final step of CMT.S (R123): every modified copy of a remote byte goes home. -/
def Memory.sendHome (m : Memory) : Memory :=
  { m with cells := m.dirty.foldl (fun l e => cellSet l e.1 e.2) m.cells, dirty := [] }

/-- An arrival of plain bytes by an agent that is no thread, with the releases it carries. -/
def agentBytes (a : Nat) (bs : List Byte) (marks : List Mark := []) : List NewByte :=
  (natsFrom a bs.length).zip bs |>.map fun e => { addr := e.1, val := e.2, who := [], marks := marks }

/-- An agent's write of bytes at D. -/
def Memory.agentWrite (m : Memory) (now agent a : Nat) (bs : List Byte) : Memory :=
  m.arriveD now (.agent agent) (agentBytes a bs)

/-- A line of D that holds any of the bytes is poisoned (R434). -/
def Memory.poisoned (m : Memory) (a n : Nat) : Bool :=
  m.poison.any fun l => l < a + n && a < l + 128

end Sys2Proof.Machine
end

