-- ==== Sys2Proof/Machine/Levels.lean ====
section
/-! DEFINITION. Commit buffers, logs, commits and aborts (spec/05 R114 to R128, R138). -/

namespace Sys2Proof.Machine

/-! ### Buffers -/

/-- The entry size of a level in bytes (R117). -/
def entrySize : Level → Nat
  | .c => 32
  | .b => 64
  | .g => 128
  | .d => 128
  | .s => 128

/-- The buffer of a party. -/
def bufFind : List Buf → Party → Option Buf
  | [], _ => none
  | b :: t, p => if b.party = p then some b else bufFind t p

/-- Replaces the buffer of a party, or adds it. -/
def bufPut : List Buf → Buf → List Buf
  | [], b => [b]
  | x :: t, b => if x.party = b.party then b :: t else x :: bufPut t b

/-- A buffer's bytes. -/
def Buf.bytes (b : Buf) : List BufByte := b.entries.flatMap fun e => e.bytes

/-- A byte a buffer holds. -/
def Buf.find (b : Buf) (a : Nat) : Option BufByte :=
  match b.entries.find? fun e => e.tag = a / entrySize b.level with
  | none => none
  | some e => e.bytes.find? fun x => x.addr = a

/-- A byte a party's buffer holds. -/
def Memory.held (m : Memory) (p : Party) (a : Nat) : Option BufByte :=
  match bufFind m.bufs p with
  | none => none
  | some b => b.find a

/-- Where a party's buffer stands: its level, place, grid, capacity there, log size in entries, and
the position its window opens at when it holds nothing yet. -/
structure Site where
  party : Party
  level : Level
  place : Nat
  kid : Nat
  cap : Nat
  logMax : Nat
  formed : Nat
deriving DecidableEq, Repr

/-- The buffer at a site, empty if there is none yet. -/
def Memory.bufAt (m : Memory) (x : Site) : Buf :=
  match bufFind m.bufs x.party with
  | some b => { b with level := x.level, place := x.place, kid := x.kid }
  | none =>
    { party := x.party, level := x.level, place := x.place, kid := x.kid, entries := [],
      arrivals := [], window := x.formed }

/-- Entries in the buffers of a level and place, not counting logs (R117). -/
def Memory.entriesAt (m : Memory) (l : Level) (place : Nat) : Nat :=
  (m.bufs.filter fun b => b.level = l && b.place = place).foldl
    (fun n b => n + (b.entries.filter fun e => !e.inLog).length) 0

/-- Log entries of a grid in use (R118). -/
def Memory.logUsed (m : Memory) (kid : Nat) : Nat :=
  (m.bufs.filter fun b => b.kid = kid).foldl
    (fun n b => n + (b.entries.filter fun e => e.inLog).length) 0

/-- The log entries of a grid in use, each by its party and tag (R118). Their order stands for their places in the
log. -/
def Memory.logEntries (m : Memory) (kid : Nat) : List (Party × Nat) :=
  (m.bufs.filter fun b => b.kid = kid).flatMap fun b =>
    (b.entries.filter fun e => e.inLog).map fun e => (b.party, e.tag)

/-- Puts a byte into the entry of its tag, the latest arrival standing. -/
def BufEntry.putByte (e : BufEntry) (x : BufByte) : BufEntry :=
  match e.bytes.find? fun y => y.addr = x.addr with
  | none => { e with bytes := e.bytes ++ [x] }
  | some _ =>
    { e with
      bytes := e.bytes.map fun y =>
        if y.addr = x.addr then
          { x with who := addWho x.who y.who, marks := addMarks x.marks y.marks }
        else y }

/-- Marks the first entry that is not in the log as moved there. -/
def spillOldest : List BufEntry → Option (List BufEntry)
  | [] => none
  | e :: t => if e.inLog then (spillOldest t).map (e :: ·) else some ({ e with inLog := true } :: t)

/-- Notes an access to the log entry of a party and tag, where that entry stands in the log (R118). -/
def Memory.noteLog (m : Memory) (kid : Nat) (p : Party) (tag : Nat) (write : Bool) : Memory :=
  match (m.logEntries kid).idxOf? (p, tag) with
  | some n => { m with logAcc := m.logAcc ++ [{ kid := kid, place := n, write := write }] }
  | none => m

/-- An arrival of one byte in the buffer of a site (R118): it joins the entry of its tag, or makes a
new entry, moving the party's oldest to the log when the buffer is full; nothing when the log is
exhausted (R119). An entry in the log is written there. -/
def Memory.putByte (m : Memory) (s : Site) (x : BufByte) : Option Memory :=
  let b := m.bufAt s
  let tag := x.addr / entrySize s.level
  if b.entries.any fun e => e.tag = tag then
    let m1 : Memory := { m with
      bufs := bufPut m.bufs { b with
        entries := b.entries.map fun e => if e.tag = tag then e.putByte x else e } }
    some (m1.noteLog s.kid s.party tag true)
  else
    let new (l : Bool) : BufEntry := { tag := tag, inLog := l, bytes := [x] }
    if m.entriesAt s.level s.place < s.cap then
      some { m with bufs := bufPut m.bufs { b with entries := b.entries ++ [new false] } }
    else if m.logUsed s.kid < s.logMax then
      match spillOldest b.entries with
      | some es =>
        let old := ((b.entries.find? fun e => !e.inLog).map BufEntry.tag).getD 0
        let m1 : Memory := { m with bufs := bufPut m.bufs { b with entries := es ++ [new false] } }
        some (m1.noteLog s.kid s.party old true)
      | none =>
        let m1 : Memory := { m with bufs := bufPut m.bufs { b with entries := b.entries ++ [new true] } }
        some (m1.noteLog s.kid s.party tag true)
    else none

/-- Arrivals of several bytes in one buffer. -/
def Memory.putBytes (m : Memory) (s : Site) : List BufByte → Option Memory
  | [] => some m
  | x :: t =>
    match m.putByte s x with
    | some m' => m'.putBytes s t
    | none => none

/-- Records, for checked commits, who brought which words to a buffer, as one position. -/
def Memory.noteWords (m : Memory) (s : Site) (who : Party) (addrs : List Nat) : Memory :=
  let b := m.bufAt s
  let ws := (addrs.map (· / 4)).eraseDups
  { m with
    bufs := bufPut m.bufs { b with
      arrivals := b.arrivals ++ ws.map fun w => { word := w, party := who, pos := m.pos + 1 } }
    pos := m.pos + 1 }

/-! ### A thread's chain with its sites -/

/-- What the memory model needs of a thread: its chain, and the sites of its C, B and G buffers; a
ray has no B buffer (R114). -/
structure Links where
  chain : Chain
  c : Site
  b : Option Site
  g : Site
deriving DecidableEq, Repr

/-- Overwrites the copies of a byte that the storer's own lower buffers hold (R121, R138). -/
def Memory.fixLower (m : Memory) (ps : List Party) (x : BufByte) : Memory :=
  let hit := m.bufs.filter fun b => b.party ∈ ps && (b.find x.addr).isSome
  let m1 := hit.foldl (fun m b => m.noteLog b.kid b.party (x.addr / entrySize b.level) true) m
  { m1 with
    bufs := m1.bufs.map fun b =>
      if b.party ∈ ps && (b.find x.addr).isSome then
        { b with
          entries := b.entries.map fun e =>
            if e.tag = x.addr / entrySize b.level then e.putByte x else e }
      else b }

/-- The parties of a thread's buffers below a level. -/
def Links.below (k : Links) : Level → List Party
  | .c => []
  | .b => [k.c.party]
  | .g => k.c.party :: (match k.b with | some b => [b.party] | none => [])
  | .d => k.c.party :: (match k.b with | some b => [b.party, k.g.party] | none => [k.g.party])
  | .s => k.c.party :: (match k.b with | some b => [b.party, k.g.party] | none => [k.g.party])

/-- The level a thread's access of scope x stands at: for a ray, b acts as c (R121, R138). -/
def Links.level (k : Links) (x : Level) : Level :=
  match x, k.b with
  | .b, none => .c
  | x, _ => x

/-- An arrival of bytes at a level of the storer's chain (R116, R120, R121): the level that
overflowed when the log is exhausted. -/
def Memory.store (m : Memory) (now : Nat) (k : Links) (x : Level) (bs : List NewByte) :
    Except Level Memory :=
  let ys : List BufByte :=
    bs.map fun b => { addr := b.addr, val := b.val, who := b.who, marks := b.marks }
  let low (m : Memory) : Memory := ys.foldl (fun m y => m.fixLower (k.below x) y) m
  match k.level x, k.b with
  | .c, _ =>
    match m.putBytes k.c ys with
    | some m' => .ok m'
    | none => .error .c
  | .b, some s =>
    match (low m).putBytes s ys with
    | some m' => .ok (m'.noteWords s k.c.party (bs.map NewByte.addr))
    | none => .error .b
  | .b, none => .error .b
  | .g, _ =>
    match (low m).putBytes k.g ys with
    | some m' => .ok (m'.noteWords k.g k.chain.b (bs.map NewByte.addr))
    | none => .error .g
  | .d, _ => .ok ((low m).arriveD now k.g.party bs)
  | .s, _ => .ok ((low m).arriveHome now k.g.party bs)

/-- The lowest buffer of a chain that holds a byte (R129), searched from a level upward. -/
def Memory.chainFind (m : Memory) (k : Links) (x : Level) (a : Nat) : Option BufByte :=
  let g : Option BufByte := m.held k.g.party a
  let b : Option BufByte :=
    match k.b with
    | some s => (m.held s.party a).or g
    | none => g
  match k.level x with
  | .c => (m.held k.c.party a).or b
  | .b => b
  | .g => g
  | .d => none
  | .s => none

/-- The buffer and the tag of the entry that serves a byte to a chain. -/
def Memory.chainWhere (m : Memory) (k : Links) (x : Level) (a : Nat) : Option (Party × Nat) :=
  let at' (t : Site) : Option (Party × Nat) :=
    (m.held t.party a).map fun _ => (t.party, a / entrySize t.level)
  let b : Option (Party × Nat) :=
    match k.b with
    | some s => (at' s).or (at' k.g)
    | none => at' k.g
  match k.level x with
  | .c => (at' k.c).or b
  | .b => b
  | .g => at' k.g
  | .d => none
  | .s => none

/-- The latest value at a level of a chain (R138): that level's buffer, else D; for scope S the
home. -/
def Memory.latest (m : Memory) (k : Links) (x : Level) (a : Nat) : Byte × List Mark :=
  let own (p : Party) : Option BufByte := m.held p a
  let hit : Option BufByte :=
    match k.level x, k.b with
    | .c, _ => own k.c.party
    | .b, some s => own s.party
    | .b, none => none
    | .g, _ => own k.g.party
    | .d, _ => none
    | .s, _ => none
  match hit with
  | some y => (y.val, y.marks)
  | none => (if x = .s then m.atHome a else m.atD a, (lastOf m.log a).2)

/-! ### Commits (R123 to R128) -/

/-- Empties a party's buffer, log entries with it, and opens its window now (R125). -/
def Memory.emptyBuf (m : Memory) (p : Party) : Memory :=
  { m with
    bufs := m.bufs.map fun b =>
      if b.party = p then { b with entries := [], window := m.pos } else b }

/-- The bytes of a party's buffer. -/
def Memory.bytesOf (m : Memory) (p : Party) : List BufByte :=
  match bufFind m.bufs p with
  | none => []
  | some b => b.bytes

/-- Reads the entries of a party's buffer that stand in the log (R118). -/
def Memory.readLog (m : Memory) (p : Party) : Memory :=
  match bufFind m.bufs p with
  | none => m
  | some b => (b.entries.filter fun e => e.inLog).foldl (fun m e => m.noteLog b.kid p e.tag false) m

/-- One commit step into a buffer (R123): the source's bytes arrive as one position. The places in the log that the
source's entries hold are not free to the target before the step is done (DESIGN CHOICE, log 117: the rules do not
say). -/
def Memory.stepInto (m : Memory) (src : Site) (dst : Site) (sib : Party) (marks : List Mark) :
    Except Level Memory :=
  let bs := (m.bytesOf src.party).map fun x => { x with marks := addMarks marks x.marks }
  let m0 := Memory.readLog { m with bufs := bufPut m.bufs (m.bufAt src) } src.party
  match m0.putBytes dst bs with
  | none => .error dst.level
  | some m1 => .ok ((m1.noteWords dst sib (bs.map BufByte.addr)).emptyBuf src.party)

/-- What a commit's own release gives once its step into D has arrived at a position: the step is an arrival that the
releaser made (R134). -/
def Mark.afterStep (k : Mark) (bs : List BufByte) (pos : Nat) : Mark :=
  { k with view := bs.foldl (fun v b => v.raise b.addr pos) k.view }

/-- The commit step into D: one arrival, with the releases made before it and its own. The threads of its own releases
are those that perform it. -/
def Memory.stepD (m : Memory) (now : Nat) (src : Site) (marks own : List Mark) : Memory :=
  let xs := m.bytesOf src.party
  let ks := addMarks marks (own.map fun k => k.afterStep xs (m.pos + 1))
  let bs : List NewByte := xs.map fun x =>
    { addr := x.addr, val := x.val, who := x.who, marks := addMarks ks x.marks }
  let m0 := Memory.readLog { m with bufs := bufPut m.bufs (m.bufAt src) } src.party
  let by' := (own.map fun k => k.who.uid).eraseDups
  (if bs.isEmpty then m0 else m0.arriveD now src.party bs true by').emptyBuf src.party

/-- The steps out of the C buffers of further rays of a crew, which commit with it as one party (R256). -/
def Memory.gather (m : Memory) (marks : List Mark) : List Links → Except Level Memory
  | [] => .ok m
  | q :: t =>
    match m.stepInto q.c q.g q.chain.b marks with
    | .error e => .error e
    | .ok m' => m'.gather marks t

/-- The steps of a commit up to a level, in ascending order (R123, R128), with the releases made before it and its
own. A ray's B step is empty; `more` are the other rays of its crew. -/
def Memory.commit (m : Memory) (now : Nat) (k : Links) (x : Level) (before own : List Mark) (more : List Links := []) :
    Except Level Memory :=
  let marks := addMarks before own
  match k.b with
  | some s =>
    match m.stepInto k.c s k.c.party marks with
    | .error e => .error e
    | .ok m1 =>
      if x = .b || x = .c then .ok m1
      else
        match m1.stepInto s k.g k.chain.b marks with
        | .error e => .error e
        | .ok m2 =>
          if x = .g then .ok m2
          else
            let m3 := m2.stepD now k.g before own
            .ok (if x = .s then m3.sendHome else m3)
  | none =>
    if x = .b || x = .c then .ok m
    else
      match m.gather marks (k :: more) with
      | .error e => .error e
      | .ok m2 =>
        if x = .g then .ok m2
        else
          let m3 := m2.stepD now k.g before own
          .ok (if x = .s then m3.sendHome else m3)

/-- Words of a list of byte addresses. -/
def wordsOf (l : List Nat) : List Nat := (l.map (· / 4)).eraseDups

/-- A step from `src` into the buffer `dst` conflicts on some word that a sibling brought since the
window opened (R125); `words` are the words the source would hold. -/
def Memory.clashBuf (m : Memory) (src dst : Site) (sib : Party) (words : List Nat) : Bool :=
  let w := (m.bufAt src).window
  (m.bufAt dst).arrivals.any fun r => w < r.pos && r.party != sib && r.word ∈ words

/-- The same for a step into D, where every other agent is a sibling (R115). -/
def Memory.clashD (m : Memory) (src : Site) (words : List Nat) : Bool :=
  let w := (m.bufAt src).window
  m.log.any fun r => w < r.pos && r.party != src.party &&
    r.bytes.any fun b => b.addr / 4 ∈ words

/-- The parties whose step of a checked commit conflicts (R125): each source is taken with what the
earlier steps would bring. `more` are the other rays of a crew, which commits as one party (R256). -/
def Memory.clashes (m : Memory) (k : Links) (x : Level) (more : List Links := []) : List Party :=
  let cw := wordsOf ((m.bytesOf k.c.party).map BufByte.addr)
  match k.b with
  | some s =>
    let bw := cw ++ wordsOf ((m.bytesOf s.party).map BufByte.addr)
    let gw := bw ++ wordsOf ((m.bytesOf k.g.party).map BufByte.addr)
    (if m.clashBuf k.c s k.c.party cw then [k.c.party] else []) ++
    (if x != .b && m.clashBuf s k.g k.chain.b bw then [s.party] else []) ++
    (if (x = .d || x = .s) && m.clashD k.g gw then [k.g.party] else [])
  | none =>
    let own (q : Links) : List Nat := wordsOf ((m.bytesOf q.c.party).map BufByte.addr)
    let gw := ((k :: more).flatMap own) ++ wordsOf ((m.bytesOf k.g.party).map BufByte.addr)
    (if x = .b then [] else
      ((k :: more).filter fun q => m.clashBuf q.c k.g q.chain.b (own q)).map fun q => q.c.party) ++
    (if (x = .d || x = .s) && m.clashD k.g gw then [k.g.party] else [])

/-- A failed check opens the windows of the parties that conflicted again (R125). -/
def Memory.reopen (m : Memory) (k : Links) (ps : List Party) (more : List Links := []) : Memory :=
  let bufs := (k :: more).foldl (fun l q => bufPut l (m.bufAt q.c)) m.bufs
  let m0 := { m with bufs := bufPut bufs (m.bufAt k.g) }
  let m1 := match k.b with
    | some s => { m0 with bufs := bufPut m0.bufs (m.bufAt s) }
    | none => m0
  { m1 with bufs := m1.bufs.map fun b => if b.party ∈ ps then { b with window := m.pos } else b }

/-- ABT (R126): the party's buffer at one level is discarded. A ray's ABT.B discards nothing. -/
def Memory.abort (m : Memory) (k : Links) (x : Level) : Memory :=
  match x, k.b with
  | .c, _ => { m with bufs := bufPut m.bufs (m.bufAt k.c) }.emptyBuf k.c.party
  | .b, some s => { m with bufs := bufPut m.bufs (m.bufAt s) }.emptyBuf s.party
  | .b, none => m
  | .g, _ => { m with bufs := bufPut m.bufs (m.bufAt k.g) }.emptyBuf k.g.party
  | .d, _ => m
  | .s, _ => m

/-- CREW (R35): the C buffers of the lanes join the crew's, the higher lane's value standing. -/
def Memory.joinCrew (m : Memory) (crew : Site) (lanes : List Party) : Option Memory :=
  let bs := lanes.flatMap m.bytesOf
  let m0 := lanes.foldl Memory.readLog m
  let m1 := { m0 with bufs := m.bufs.filter fun b => !(b.party ∈ lanes) }
  m1.putBytes crew bs

/-- Discards every buffer of a grid (R146). -/
def Memory.dropKid (m : Memory) (kid : Nat) : Memory :=
  { m with bufs := m.bufs.filter fun b => b.kid != kid }

end Sys2Proof.Machine
end

