-- ==== Sys2Proof/Machine/Translate.lean ====
section
/-! DEFINITION. Free choices, and address translation (spec/18 R406 to R420). -/

namespace Sys2Proof.Machine

/-! ### Free choices (log 3) -/

/-- One of n: nothing is drawn where there is no choice. -/
def State.pick (s : State) (n : Nat) : Nat × State :=
  if n ≤ 1 then (0, s) else (Config.free s.fresh % n, { s with fresh := s.fresh + 1 })

/-- One of a list of allowed values, drawn only where they differ. -/
def State.pickFrom {α : Type} [DecidableEq α] (s : State) (l : List α) (d : α) : α × State :=
  match l with
  | [] => (d, s)
  | x :: t =>
    if t.all fun y => y = x then (x, s)
    else
      let r := s.pick l.length
      (listGet l r.1 x, r.2)

/-! ### Where physical addresses exist (R407) -/

/-- The installed capacity in bytes (R484 CAP). -/
def State.capacity (s : State) : Nat :=
  (if s.dev.eccOn then 256000 else 288000) * 1000000

/-- A peer is paired (R483 STATE 2). -/
def State.paired (s : State) : Bool := s.rill.st = 2

/-- The peer's capacity in bytes. -/
def State.peerCapacity (s : State) : Nat := s.rill.peerCap.toNat * 1000000

/-- The valid offsets of R407. After a link failure the peer region is no longer valid (R480), so an
access that would be refused with 0x0F (R450) is refused here first. -/
def State.paValid (s : State) (pa : Nat) : Bool :=
  let off := pa % 2 ^ 48
  match paRegion pa with
  | 0 => off < s.capacity
  | 4 => s.paired && off < s.peerCapacity
  | 8 => true
  | _ => false

/-! ### The walk (R409 to R414) -/

/-- The kind of an access (R413, R415). -/
inductive Access where
  | read | write | fetch
deriving DecidableEq, Repr

/-- The kind field of a 0x04 detail word (R429). -/
def Access.code : Access → Nat
  | .read => 0
  | .write => 1
  | .fetch => 2

/-- What a translation gives: a physical address, page not present at a level, a protection fault with
its cause, or a table entry in a poisoned line (R434). -/
inductive Trans where
  | ok (pa : Nat)
  | absent (level : Nat)
  | denied (cause : Nat)
  | ecc (line : Nat)
deriving DecidableEq, Repr

/-- The index of an address at a level (R409). -/
def ptIndex (l va : Nat) : Nat := va / 2 ^ (12 + 9 * l) % (if l = 4 then 16 else 512)

def pteV (e : Nat) : Bool := e % 2 = 1
def pteL (e : Nat) : Bool := e / 2 % 2 = 1
def pteW (e : Nat) : Bool := e / 4 % 2 = 1
def pteX (e : Nat) : Bool := e / 8 % 2 = 1
def pteA (e : Nat) : Bool := e / 32 % 2 = 1
def pteD (e : Nat) : Bool := e / 64 % 2 = 1
def pteSize (e : Nat) : Nat := e / 2 ^ 60 % 16
def ptePa (e : Nat) : Nat := e / 4096 % 2 ^ 40 * 4096

/-- A leaf's SIZE suits its level (R411). -/
def sizeFits (l n : Nat) : Bool :=
  (l = 0 && n ≤ 4) || (l = 1 && 5 ≤ n && n ≤ 8) || (l = 2 && n = 9)

/-- A malformed entry (R411 cause 3). -/
def malformed (l e : Nat) : Bool := if pteL e then !sizeFits l (pteSize e) else l = 0

/-- The translation a leaf entry gives for an address. -/
def leafOf (ctx va e : Nat) : TlbEntry :=
  let bytes := 4096 * 4 ^ pteSize e
  { ctx := ctx, vbase := va / bytes * bytes, bytes := bytes, pbase := ptePa e / bytes * bytes,
    w := pteW e, x := pteX e, d := pteD e }

/-- The entry with A set, and D set for a write (R414). -/
def withAD (e : Nat) (kind : Access) : Nat :=
  let e1 := if pteA e then e else e + 32
  if kind = .write && !pteD e1 then e1 + 64 else e1

/-- The agent number of the walkers in the D order. -/
def walkerAgent : Nat := 1

/-- The result of a walk: what it gives, the leaf to cache, and the non-leaf entries it read. -/
structure WalkOut where
  res : Trans
  leaf : Option TlbEntry
  read : List WalkEntry
  update : Option (Nat × Nat)
deriving DecidableEq, Repr

/-- Every walk that can be made from a level down (R413): at each level the entry is read at D, or is any non-leaf
entry that a cache still holds for its address (R416, R417). The walk that reads every entry comes first. -/
def walkAll (s : State) (cached : Nat → List Nat) (ctx va : Nat) (kind : Access) :
    Nat → Nat → List WalkEntry → List WalkOut
  | 0, _, rd => [{ res := .absent 0, leaf := none, read := rd, update := none }]
  | l + 1, t, rd =>
    let out (r : Trans) : List WalkOut := [{ res := r, leaf := none, read := rd, update := none }]
    let addr := t + 8 * ptIndex l va
    let go (e : Nat) : List WalkOut :=
      if !pteV e then out (.absent l)
      else if malformed l e then out (.denied 3)
      else if pteL e then
        let f := leafOf ctx va e
        if kind = .write && !pteW e then out (.denied 1)
        else if kind = .fetch && !pteX e then out (.denied 2)
        else
          let e' := withAD e kind
          [{ res := .ok (f.pbase + (va - f.vbase)), leaf := some { f with d := pteD e' }, read := rd,
             update := if e' = e then none else some (addr, e') }]
      else if !s.paValid (ptePa e) then out (.denied 4)
      else
        walkAll s cached ctx va kind l (ptePa e)
          (rd ++ [{ ctx := ctx, addr := addr, entry := BitVec.ofNat 64 e }])
    let now := s.mem.numD addr 8
    if s.mem.poisoned addr 8 then out (.ecc (addr / 128 * 128)) ++ (cached addr).flatMap go
    else go now ++ ((cached addr).filter fun e => e != now).flatMap go

/-- Where a translation is cached: the core, if one asks, and the cluster. -/
structure Via where
  core : Option Nat
  cl : Nat
deriving DecidableEq, Repr

/-- The non-leaf entries cached for a context in a cluster. -/
def State.walksOf (s : State) (x : Via) : List WalkEntry :=
  ((s.clusters[x.cl]?).map Cluster.walks).getD []

/-- The leaf translations that a core's first-level TLB holds. -/
def State.tlbNear (s : State) (x : Via) : List TlbEntry :=
  match x.core with
  | some c => ((s.cores[c]?).map Core.tlb).getD []
  | none => []

/-- The leaf translations that a cluster's second-level TLB holds. -/
def State.tlbFar (s : State) (x : Via) : List TlbEntry := ((s.clusters[x.cl]?).map Cluster.tlb).getD []

/-- The walks an access may make; the first reads every entry as it stands at D. -/
def State.walks (s : State) (x : Via) (ctx va : Nat) (kind : Access) : List WalkOut :=
  let ws := (s.walksOf x).filter fun y => y.ctx = ctx && !pteL y.entry.toNat
  let cached (a : Nat) : List Nat :=
    ((ws.filter fun y => y.addr = a).map fun y => y.entry.toNat).eraseDups
  walkAll s cached ctx va kind 5 (((s.ctxs[ctx]?).map Ctx.root).getD 0) []

/-- What a cached entry gives; nothing where the write must walk again (R414). -/
def TlbEntry.give (f : TlbEntry) (va : Nat) (kind : Access) : Option Trans :=
  if kind = .write && !f.d then none
  else if kind = .write && !f.w then some (.denied 1)
  else if kind = .fetch && !f.x then some (.denied 2)
  else some (.ok (f.pbase + (va - f.vbase)))

/-- Keeps at most n entries, the newest first; eviction itself is a free choice (log 10). -/
def keepNew {α : Type} [DecidableEq α] (n : Nat) (x : α) (l : List α) : List α :=
  (x :: l.filter fun y => y != x).take n

/-- Fills the caches with what a walk read (R416). -/
def State.fillTlb (s : State) (x : Via) (o : WalkOut) : State :=
  let cl (c : Cluster) : Cluster :=
    let c1 := match o.leaf with
      | some f => { c with tlb := keepNew 4096 f c.tlb }
      | none => c
    { c1 with walks := o.read.foldl (fun l e => keepNew 128 e l) c1.walks }
  let s1 := { s with clusters := listUpd s.clusters x.cl cl }
  match x.core, o.leaf with
  | some c, some f =>
    { s1 with cores := listUpd s1.cores c fun k => { k with tlb := keepNew 192 f k.tlb } }
  | _, _ => s1

/-- The effects of a walk: the A and D bits at D (R414), and the caches. -/
def State.applyWalk (s : State) (x : Via) (o : WalkOut) : State :=
  let s1 := match o.update with
    | some u => { s with mem := s.mem.agentWrite s.tick walkerAgent u.1 (bytesOf 8 u.2) }
    | none => s
  s1.fillTlb x o

/-- The valid-offset check of a translated address (R407). -/
def State.checked (s : State) : Trans → Trans
  | .ok pa => if s.paValid pa then .ok pa else .denied 4
  | r => r

/-- A way to translate an address: a cached leaf, with whether the second-level TLB alone holds it, or a walk. -/
inductive Route where
  | near (r : Trans)
  | far (r : Trans) (f : TlbEntry)
  | walk (o : WalkOut)
deriving DecidableEq, Repr

/-- What a route gives, and the write it makes to a table entry. -/
def Route.gives : Route → Trans × Option (Nat × Nat)
  | .near r => (r, none)
  | .far r _ => (r, none)
  | .walk o => (o.res, o.update)

/-- The state after a route: a second-level hit refills the first level (R416). -/
def State.take (s : State) (x : Via) : Route → State
  | .near _ => s
  | .far _ f =>
    match x.core with
    | some c => { s with cores := listUpd s.cores c fun k => { k with tlb := keepNew 192 f k.tlb } }
    | none => s
  | .walk o => s.applyWalk x o

/-- The routes an access may take (R416, R417). -/
def State.routes (s : State) (x : Via) (ctx va : Nat) (kind : Access) : List Route :=
  let covers (f : TlbEntry) : Bool := f.ctx = ctx && f.vbase ≤ va && va < f.vbase + f.bytes
  ((s.tlbNear x).filter covers).filterMap (fun f => (f.give va kind).map Route.near) ++
  ((s.tlbFar x).filter covers).filterMap (fun f => (f.give va kind).map fun r => Route.far r f) ++
  (s.walks x ctx va kind).map Route.walk

/-- Translates an address (R417, R419). Any cached entry that covers it may be used, or a walk made in which any
non-leaf entry comes from the walk cache; a choice is drawn only where these differ (log 10). -/
def State.translate (s : State) (x : Via) (ctx va : Nat) (kind : Access) : Trans × State :=
  match s.routes x ctx va kind with
  | [] => (.absent 0, s)
  | r :: t =>
    if t.all fun y => y.gives = r.gives then (s.checked r.gives.1, s.take x r)
    else
      let c := s.pick (t.length + 1)
      let y := listGet (r :: t) c.1 r
      (s.checked y.gives.1, c.2.take x y)

/-- Invalidates the translations of a context in some clusters, all or those of one page (R388). -/
def State.dropTlb (s : State) (ctx : Nat) (page : Option Nat) (inCl : Nat → Bool) : State :=
  let keep (f : TlbEntry) : Bool :=
    f.ctx != ctx ||
    match page with
    | none => false
    | some va => !(f.vbase ≤ va && va < f.vbase + f.bytes)
  { s with
    cores := (natsFrom 0 s.cores.length).zip s.cores |>.map fun e =>
      if inCl (e.1 / 8) then { e.2 with tlb := e.2.tlb.filter keep } else e.2
    clusters := (natsFrom 0 s.clusters.length).zip s.clusters |>.map fun e =>
      if inCl e.1 then
        { e.2 with
          tlb := e.2.tlb.filter keep
          walks := match page with
            | none => e.2.walks.filter fun w => w.ctx != ctx
            | some _ => e.2.walks }
      else e.2 }

end Sys2Proof.Machine
end

