-- ==== Sys2Proof/Machine/Ops.lean ====
section
/-! DEFINITION. Named operations: waves and lanes, finishing an instruction, event records and their
queues, page-fault records, taking an exception and returning from one (spec/02, 16, 18, 19). -/

namespace Sys2Proof.Machine

/-- The outcome of a meaning. -/
abbrev Res := Host.Outcome State Fault Refusal

/-! ### Places -/

/-- The cluster of a device core number (R12). -/
def clusterOf (core : Nat) : Nat := core / 8

/-- The device core number of a place. -/
def coreNum (x : CoreId) : Nat := x.cl.toNat * 8 + x.co.toNat

def State.core (s : State) (c : Nat) : Core := listGet s.cores c Core.reset
def State.cluster (s : State) (c : Nat) : Cluster := listGet s.clusters c Cluster.reset
def State.ctx (s : State) (c : Nat) : Ctx := listGet s.ctxs c Ctx.reset
def State.part (s : State) (f : Nat) : Part := listGet s.parts f Part.reset
def State.handler (s : State) (f : Nat) : Handler := listGet s.handlers f Handler.reset

def State.updCore (s : State) (c : Nat) (f : Core → Core) : State :=
  { s with cores := listUpd s.cores c f }
def State.updCluster (s : State) (c : Nat) (f : Cluster → Cluster) : State :=
  { s with clusters := listUpd s.clusters c f }
def State.updCtx (s : State) (c : Nat) (f : Ctx → Ctx) : State :=
  { s with ctxs := listUpd s.ctxs c f }
def State.updPart (s : State) (c : Nat) (f : Part → Part) : State :=
  { s with parts := listUpd s.parts c f }
def State.updHandler (s : State) (c : Nat) (f : Handler → Handler) : State :=
  { s with handlers := listUpd s.handlers c f }
def State.updGrid (s : State) (k : Nat) (f : Grid → Grid) : State :=
  { s with grids := Table.upd s.grids k f }
def State.updBlock (s : State) (k : Nat) (f : Block → Block) : State :=
  { s with blocks := Table.upd s.blocks k f }
def State.updGang (s : State) (k : Nat) (f : Gang → Gang) : State :=
  { s with gangs := Table.upd s.gangs k f }

/-- The partition of a context. -/
def State.partOf (s : State) (ctx : Nat) : Nat := (s.ctx ctx).part.toNat

/-- A cluster belongs to partition f (R378). -/
def State.inPart (s : State) (f cl : Nat) : Bool :=
  let p := s.part f
  p.valid && f ≤ cl && cl < f + 2 ^ p.size.toNat

/-- The limits of PART_SCHED as they act (R382). -/
def Part.binLimit (p : Part) : Nat := max 64 p.binAge.toNat
def Part.basinLimit (p : Part) : Nat := max 16 p.basinAge.toNat
def Part.treeletNeed (p : Part) : Nat := min 32 (max 1 p.treelet.toNat)
def Part.rotation (p : Part) : Nat := 256 * max 1 p.quantum.toNat

/-- The partition a cluster belongs to. -/
def State.partAt (s : State) (cl : Nat) : Option Nat :=
  (natsFrom 0 16).find? fun f => s.inPart f cl

/-- What a cluster does while its clocks run: nothing in a frozen cluster, or under a precise stop (R457,
R463). -/
def State.live (s : State) (cl : Nat) (k : Res) : Res :=
  if (s.cluster cl).dbg.frozen || s.dev.stopped then .next s else k

/-! ### Waves and lanes -/

/-- A lane waits in the mask stack (R36). -/
def Wave.masked (w : Wave) (l : Nat) : Bool := w.mask.any fun e => e.other.getLsbD l

/-- The active lanes of a wave: present, running, not waiting in the mask stack. -/
def Wave.active (w : Wave) : Table Thread :=
  w.lanes.filter fun e => e.2.st = .run && !w.masked e.1

/-- A lane passes a guard (R173). -/
def guardPass (g : Guard) (t : Thread) : Bool :=
  match g with
  | .always => true
  | .pred neg p => t.p.getLsbD p.toNat != neg

/-- The lanes of a wave that pass a guard (R190 Lanes). -/
def Wave.passing (w : Wave) (g : Guard) : Table Thread := w.active.filter fun e => guardPass g e.2

/-- Replaces the thread of a lane. -/
def Wave.setLane (w : Wave) (l : Nat) (t : Thread) : Wave := { w with lanes := Table.put w.lanes l t }

/-- Changes the threads of some lanes. -/
def Wave.updLanes (w : Wave) (ls : Table Thread) (f : Nat → Thread → Thread) : Wave :=
  { w with
    lanes := w.lanes.map fun e => if ls.any fun x => x.1 = e.1 then (e.1, f e.1 e.2) else e }

/-- Removes lanes. -/
def Wave.dropLanes (w : Wave) (ls : List Nat) : Wave :=
  { w with lanes := w.lanes.filter fun e => !(e.1 ∈ ls) }

/-- The lanes of the side that runs: in no entry's waiting set, and not leaving. -/
def Wave.side (w : Wave) : Table Thread :=
  w.lanes.filter fun e =>
    !w.masked e.1 && (match e.2.st with | .leaving _ _ => false | _ => true)

/-- A side with no lane left has ended, and the other side goes on (R36). -/
def settleGo : Nat → Wave → Wave
  | 0, w => w
  | n + 1, w =>
    if w.side.isEmpty then
      match w.mask with
      | [] => w
      | e :: t => settleGo n { w with mask := t, pc := e.pc }
    else w

/-- The wave after sides without lanes have ended. -/
def Wave.settle (w : Wave) : Wave := settleGo w.mask.length w

/-- The wave a thread instruction is executed for, and where it stands. -/
structure Here where
  wave : Wave
  core : Nat
  slot : Nat
  hand : Option Nat
deriving DecidableEq, Repr

/-- The issuing wave. -/
def State.here (s : State) : Option Here :=
  match s.cur with
  | .wave c n => (Table.get? (s.core c).waves n).map fun w =>
      { wave := w, core := c, slot := n, hand := none }
  | .handler f => (s.handler f).wave.map fun w =>
      { wave := w, core := 0, slot := 0, hand := some f }
  | .idle => none
  | .stream _ => none

/-- Puts a wave back into its slot; a wave without lanes ceases to exist (R23). -/
def State.putWave (s : State) (h : Here) (w : Wave) : State :=
  let w := w.settle
  match h.hand with
  | none => s.updCore h.core fun k => { k with
      waves := if w.lanes.isEmpty then Table.del k.waves h.slot else Table.put k.waves h.slot w }
  | some f => s.updHandler f fun x => { x with wave := if w.lanes.isEmpty then none else some w }

/-- One instruction fewer in the clause body (R179). -/
def nextClause : Option Clause → Option Clause
  | none => none
  | some c => if c.left ≤ 1 then none else some { c with left := c.left - 1, wait := 0 }

/-- A PC lies in the causal range of a context (R466). -/
def Ctx.inRange (c : Ctx) (pc : Pc) : Bool :=
  let lo := c.dbg.cxLo.toNat % 2 ^ 52 / 8 * 8
  let hi := c.dbg.cxHi.toNat % 2 ^ 52 / 8 * 8
  lo ≤ pc.toNat && pc.toNat < hi

/-- An SWR of this cc has written a register: its value stands over what the device makes of it later in the cc
(R388). -/
def State.swrStands (s : State) (n i : Nat) : Bool := (n, i) ∈ s.cc.swr

/-- An issue at an in-range PC counts a hit and burdens the other waves (R466, R467). -/
def State.causal (s : State) (h : Here) : State :=
  let c := s.ctx h.wave.ctx
  if h.hand.isNone && c.dbg.ctl.getLsbD 17 && c.inRange h.wave.pc then
    let delay := (c.dbg.ctl.extractLsb' 24 8).toNat
    let burden (core : Nat) (e : Nat × Wave) : Nat × Wave :=
      if e.2.resident && e.2.ctx = h.wave.ctx && !(core = h.core && e.1 = h.slot) && !c.inRange e.2.pc then
        (e.1, { e.2 with debt := min 65535 (e.2.debt + delay) })
      else e
    let s1 := s.updCtx h.wave.ctx fun c =>
      { c with dbg := { c.dbg with cxHits := if s.swrStands 0x121 h.wave.ctx then c.dbg.cxHits else c.dbg.cxHits + 1 } }
    (natsFrom (clusterOf h.core * 8) 8).foldl
      (fun s k => s.updCore k fun x => { x with waves := x.waves.map (burden k) }) s1
  else s

/-- Ends an instruction: the wave goes on at `pc`, one instruction further in its clause. -/
def State.done (s : State) (h : Here) (w : Wave) (pc : Pc) : State :=
  (s.putWave h { w with
    pc := pc, clause := nextClause w.clause, issued := (s.cluster (clusterOf h.core)).clock, elevated := false,
    skipHit := .none }).causal h

/-- The PC after an instruction of a given slot size. -/
def Wave.after (w : Wave) (len : Nat) : Pc := w.pc + BitVec.ofNat 52 len

/-- The slot size of an instruction with or without the immediate word (R169). -/
def lenOf (im : Option Word) : Nat := if im.isSome then 16 else 8

/-- Ends an instruction at the next slot. -/
def State.doneLen (s : State) (h : Here) (w : Wave) (len : Nat) : State := s.done h w (w.after len)

/-! ### Event records (R426 to R430) -/

/-- The bytes of a fault record (R428). -/
def FaultRec.bytes (r : FaultRec) : List Byte :=
  [r.cls, r.cause, r.ctx, r.src, r.core, r.lane, r.further, r.flags] ++
  bytesOf 8 r.tick.toNat ++ bytesOf 8 r.seq.toNat ++ bytesOf 8 r.pc.toNat ++
  bytesOf 8 r.addr.toNat ++ bytesOf 4 r.block.toNat ++ bytesOf 4 r.thread.toNat ++
  bytesOf 4 r.detail.toNat ++ bytesOf 2 r.kid.toNat ++ bytesOf 10 0

/-- A record with every field that need not apply at zero, or 0xFF for no context, core or lane. -/
def FaultRec.blank (cls : Nat) (tick : Nat) : FaultRec :=
  { cls := BitVec.ofNat 8 cls, cause := 0, ctx := 0xFF, src := 0, core := 0xFF, lane := 0xFF,
    further := 0, flags := 0, tick := BitVec.ofNat 64 tick, seq := 0, pc := 0, addr := 0, block := 0,
    thread := 0, detail := 0, kid := 0 }

/-- The agent number of event records in the D order. -/
def eventAgent : Nat := 2

/-- The trace record of R464: written while TRACE is set, dropped and counted past the end. -/
def State.trace (s : State) (ctx cls core slot : Nat) (detail : Nat) (pc : Nat) : State :=
  let d := (s.ctx ctx).dbg
  if !d.ctl.getLsbD 18 then s
  else
    let off := 64 + 32 * d.traceN
    let fits := off + 32 ≤ d.traceSize
    let n := if fits then d.traceN + 1 else d.traceN
    let dr := if fits then d.traceDrop else d.traceDrop + 1
    let rec' : List Byte := bytesOf 8 s.tick ++ bytesOf 1 cls ++ bytesOf 1 ctx ++ bytesOf 1 core ++
      bytesOf 1 slot ++ bytesOf 4 detail ++ bytesOf 8 pc ++ bytesOf 8 0
    let m1 := if fits then s.mem.agentWrite s.tick eventAgent (d.traceBase + off) rec' else s.mem
    let m2 := m1.agentWrite s.tick eventAgent d.traceBase (bytesOf 8 n ++ bytesOf 8 dr)
    { s with
      mem := m2
      ctxs := listUpd s.ctxs ctx fun c =>
        { c with dbg := { c.dbg with traceN := n, traceDrop := dr } } }

/-- The condition of an MSI-X vector (R477). -/
def Device.cond (d : Device) (v : Nat) : Bool :=
  d.irqPend.getLsbD v || (v = 0 && d.qcount != 0) || (v = 1 && d.sigPend != 0)

/-- Changes the device; a vector whose condition becomes true sends its message (R477). -/
def State.setDev (s : State) (d : Device) : State :=
  { s with
    dev := { d with
      msix := d.msix ++ (natsFrom 0 32).filter fun v => !s.dev.cond v && d.cond v } }

/-- The bit of DEV_FUNC that routes an event class (R384, R426); none for a class that always goes to
the partition. -/
def funcBit (cls : Nat) : Option Nat :=
  if cls = 0x04 then some 0
  else if cls = 0x0E || cls = 0x0F then some 2
  else if cls = 0x1A then some 4
  else if cls = 0x19 || cls = 0x1B then none
  else some 5

/-- A vector-table entry (R385). -/
def State.vector (s : State) (f cls : Nat) : Nat :=
  s.mem.numD ((s.part f).vbase + 8 * cls) 8 % 2 ^ 52

/-- An event goes to the host: by its function, by a zero vector entry, or as a handler fault. -/
def State.toHost (s : State) (f cls : Nat) : Bool :=
  cls = 0x1C || s.vector f cls = 0 ||
  (match funcBit cls with
    | some b => s.dev.func.getLsbD b
    | none => false)

/-- Marks a page record with the slot its event record stands in. -/
def State.placePage (s : State) (page : Option Nat) (slot : Nat) : State :=
  match page with
  | none => s
  | some id => { s with
      pages := s.pages.map fun p => if p.id = id then { p with slot := some slot } else p }

/-- Writes waiting event records of a partition into its ring while slots are free (R386). -/
def drainPartGo : Nat → State → Nat → State
  | 0, s, _ => s
  | n + 1, s, f =>
    let p := s.part f
    match p.wait with
    | [] => s
    | q :: t =>
      if p.ring.length + (if p.held.isSome then 1 else 0) < 256 then
        let a := p.fqbase + 64 * p.tail
        let s1 := (s.placePage q.page p.tail).updPart f fun p =>
          { p with wait := t, ring := p.ring ++ [(p.tail, q)], tail := (p.tail + 1) % 256 }
        drainPartGo n { s1 with mem := s1.mem.agentWrite s1.tick eventAgent a q.frec.bytes } f
      else s

def State.drainPart (s : State) (f : Nat) : State := drainPartGo (s.part f).wait.length s f

/-- Writes waiting event records into the host queue while slots are free (R476). -/
def drainHostGo : Nat → State → State
  | 0, s => s
  | n + 1, s =>
    match s.dev.hostWait with
    | [] => s
    | q :: t =>
      if s.dev.qcount < 256 then
        let a := s.dev.qbase + 64 * s.dev.qtail
        let s1 := s.placePage q.page s.dev.qtail
        let m := s1.mem.arriveHome s1.tick (.agent eventAgent) (agentBytes a q.frec.bytes)
        let s2 := { s1 with mem := m }
        drainHostGo n (s2.setDev { s2.dev with
          hostWait := t
          hostRing := (s2.dev.hostRing.filter fun e => e.1 != s2.dev.qtail) ++ [(s2.dev.qtail, q)]
          qtail := (s2.dev.qtail + 1) % 256, qcount := s2.dev.qcount + 1 })
      else s

def State.drainHost (s : State) : State := drainHostGo s.dev.hostWait.length s

/-- Queues an event record for the host. -/
def State.postHost (s : State) (q : Queued) : State :=
  ({ s with dev := { s.dev with hostWait := s.dev.hostWait ++ [q] } }).drainHost

/-- Queues an event record of a partition where its class goes (R384 to R386). -/
def State.post (s : State) (f : Nat) (q : Queued) : State :=
  if s.toHost f q.frec.cls.toNat then s.postHost q
  else (s.updPart f fun p => { p with wait := p.wait ++ [q] }).drainPart f

/-! ### The end of a grid (R431, R432) -/

/-- The root of a grid's family. -/
def State.rootOf (s : State) (kid : Nat) : Nat :=
  match Table.get? s.grids kid with
  | some g => g.root
  | none => kid

/-- A later fault adds one to the first, saturating (R432). -/
def FaultRec.absorb (r : FaultRec) (n : Nat) : FaultRec :=
  { r with further := BitVec.ofNat 8 (min 255 (r.further.toNat + n)) }

/-- The detail word of a record (R429): an uncorrectable error says where it was found, which nothing but the
device decides (log 14). -/
def FaultRec.detailNow (r : FaultRec) : Word :=
  if r.cls = 0x0E then (Config.onDie r.addr).setWidth 32 else r.detail

/-- Orders faults of one cc: lower core, then lower slot, then lower lane (R432). -/
def faultBefore (a b : Nat × Nat × Nat) : Bool :=
  a.1 < b.1 || (a.1 = b.1 && (a.2.1 < b.2.1 || (a.2.1 = b.2.1 && a.2.2 < b.2.2)))

/-- The trace record of a grid's fault (R464). -/
def State.traceFault (s : State) (ctx slot : Nat) (r : FaultRec) : State :=
  s.trace ctx 5 r.core.toNat slot (r.cls.toNat + 256 * r.cause.toNat) r.pc.toNat

/-- A fault ends the root grid of a family with everything below it; the first fault is kept, and each is traced. The
slot is 0xFF where no wave stands behind the fault. -/
def State.endGrid (s : State) (kid slot : Nat) (r : FaultRec) : State :=
  let root := s.rootOf kid
  match Table.get? s.grids root with
  | none => s
  | some g =>
    let r := { r with
      seq := BitVec.ofNat 64 g.seq, flags := r.flags ||| 4, detail := r.detailNow
      kid := match Table.get? s.grids kid with
        | some k => 0#4 ++ k.kernel
        | none => 0 }
    let s1 : State := match g.fault with
      | none =>
        { s with grids := s.grids.map fun e =>
            if e.1 = root then (e.1, { e.2 with ending := true, fault := some r, faultSlot := slot })
            else if e.2.root = root then (e.1, { e.2 with ending := true })
            else e }
      | some f =>
        if r.tick = f.tick &&
            faultBefore (r.core.toNat, slot, r.lane.toNat) (f.core.toNat, g.faultSlot, f.lane.toNat)
        then s.updGrid root fun g =>
          { g with fault := some (r.absorb (f.further.toNat + 1)), faultSlot := slot }
        else s.updGrid root fun g => { g with fault := some (f.absorb 1) }
    s1.traceFault g.ctx slot r

/-! ### Taking an exception -/

/-- What a thread fault says (R426 to R429). -/
structure Flt where
  code : Nat
  cause : Nat := 0
  lane : Option Nat := none
  addr : Nat := 0
  detail : Nat := 0
  src : Nat := 0
deriving DecidableEq, Repr

/-- The fault record of a wave's thread. -/
def State.faultRec (s : State) (h : Here) (x : Flt) : FaultRec :=
  let b := FaultRec.blank x.code s.tick
  let th : Option Thread := match x.lane with
    | some l => Table.get? h.wave.lanes l
    | none => (h.wave.lanes.head?).map Prod.snd
  { b with
    cause := BitVec.ofNat 8 x.cause
    ctx := BitVec.ofNat 8 h.wave.ctx
    src := BitVec.ofNat 8 x.src
    core := BitVec.ofNat 8 h.core
    lane := match x.lane with
      | some l => BitVec.ofNat 8 l
      | none => 0xFF
    pc := BitVec.ofNat 64 h.wave.pc.toNat
    addr := BitVec.ofNat 64 x.addr
    block := BitVec.ofNat 32 ((th.map Thread.index).getD 0)
    thread := (th.map Thread.tidx).getD 0
    detail := BitVec.ofNat 32 x.detail }

/-! ### Window entries and their faults (spec/11 R316, R329, R332) -/

/-- The entries that the lane of a partition holds (R389, R391). -/
def State.laneEntries (s : State) (f : Nat) : List Entry :=
  (natsFrom 0 64).flatMap fun c =>
    let x := s.ctx c
    if x.bound && s.partOf c = f && x.st != .saved then x.stream.win else []

/-- A lane entry that is free; which one is a free choice (log 3). -/
def State.laneSlot (s : State) (f : Nat) : Nat × State :=
  let used (n : Nat) : Bool := (s.laneEntries f).any fun e => e.slot = n
  let low := ((natsFrom 0 128).find? fun n => !used n).getD 0
  let r := s.pick 128
  (if used r.1 then low else r.1, r.2)

/-- The entry of the instruction at SPC, completed and with no effect. -/
def Stream.entry (n : Stream) (i : Option Instr) (slot tick : Nat) : Entry :=
  { seq := n.seq, slot := slot, pc := n.spcS, i := i, st := .done, fault := none, deps := [], raws := []
    buf := none, maps := [], displaced := [], qw := none, stack := n.stackS, nextPc := n.spcS + 16
    val := 0, task := none, launch := none, kid := none, tiles := [], inFlight := 0, agent := 0
    decodeTick := tick, issueTick := 0, said := [], sent := false }

/-- A running or waiting stream's status after a change of its limit or SPC (R316). -/
def Stream.judge (n : Stream) : Stream :=
  match n.status with
  | .running => if n.spcS.toNat < n.limit then n else { n with status := .waiting }
  | .waiting => if n.spcS.toNat < n.limit then { n with status := .running } else n
  | .halted => n
  | .faulted => n

/-- Enters the instruction at SPC into the window (R329): `u` gives its entry, `f` changes the speculative
state. -/
def State.enter (s : State) (c : Nat) (i : Option Instr) (u : Entry → Entry) (f : Stream → Stream) :
    State :=
  let r := s.laneSlot (s.partOf c)
  let n := (s.ctx c).stream
  let e := u (n.entry i r.1 s.tick)
  let m := f n
  r.2.updCtx c fun x => { x with
    stream := ({ m with
      seq := (n.seq + 1) % 2 ^ 64, spcS := e.nextPc, stackS := e.stack, win := m.win ++ [e] }).judge }

/-- A faulted entry for the instruction at SPC: decoding stops (R319). -/
def State.streamFault (s : State) (c : Nat) (r : FaultRec) : State :=
  let n := (s.ctx c).stream
  let fr := { r with
    ctx := BitVec.ofNat 8 c, core := 0xFF, lane := 0xFF, flags := 4, seq := BitVec.ofNat 64 n.seq
    detail := r.detailNow, pc := BitVec.ofNat 64 n.spcS.toNat }
  (s.enter c none (fun e => { e with st := .faulted, fault := some fr, nextPc := n.spcS })
    fun m => { m with stopDecode := true, stuck := none }).trace c 5 0xFF 0xFF
      (r.cls.toNat + 256 * r.cause.toNat) n.spcS.toNat

/-- A fault of the task of a window entry: the first is kept, a later one is absorbed (R428); its tile tasks
that have not started are dropped. -/
def State.failEntry (s : State) (c seq : Nat) (r : FaultRec) : State :=
  match (s.ctx c).stream.win.find? fun e => e.seq = seq with
  | none => s
  | some y =>
    let fr := { r with
      ctx := BitVec.ofNat 8 c, flags := 4, seq := BitVec.ofNat 64 y.seq, detail := r.detailNow
      pc := BitVec.ofNat 64 y.pc.toNat }
    let idle (k : Core) : Nat :=
      (k.deps.filter fun e => e.2.ctx = c && e.2.seq = seq && !e.2.started).length
    let gone := s.cores.foldl (fun n k => n + idle k) 0
    let fail (e : Entry) : Entry :=
      if e.seq = seq then
        { e with
          st := .faulted, tiles := [], inFlight := e.inFlight - gone
          fault := match e.fault with
            | some f => some (f.absorb 1)
            | none => some fr }
      else e
    let drop (k : Core) : Core :=
      { k with deps := k.deps.filter fun e => !(e.2.ctx = c && e.2.seq = seq && !e.2.started) }
    (({ s with cores := s.cores.map drop }).updCtx c fun x => { x with
      stream := { x.stream with win := x.stream.win.map fail } }).trace c 5 0xFF 0xFF
        (r.cls.toNat + 256 * r.cause.toNat) y.pc.toNat

/-- The record of a copy's own access, from that of the page it met (R424). -/
def Copy.missRec (c : Copy) (core : Nat) (r : FaultRec) : FaultRec :=
  { r with
    src := 1, core := BitVec.ofNat 8 core, pc := BitVec.ofNat 64 c.pc.toNat
    lane := match c.lane with
      | some l => BitVec.ofNat 8 l
      | none => 0xFF
    block := BitVec.ofNat 32 c.index, thread := c.tidx }

/-- Resolution of a page record (R424): outcome 0 lets every joined access walk again; any other makes
it a fault 0x04 that is not replayed. -/
def State.resolvePage (s : State) (id outcome : Nat) : State :=
  match s.pages.find? fun p => p.id = id with
  | none => s
  | some pg =>
    let s1 := { s with pages := s.pages.filter fun p => p.id != id }
    let free (w : Wave) : Wave :=
      match w.park with
      | .page i _ _ => if i = id then { w with park := .none } else w
      | _ => w
    let go (c : Copy) : Copy := if c.stuck = some id then { c with stuck := none } else c
    let core (k : Core) : Core :=
      { k with
        waves := k.waves.map fun e => (e.1, free e.2)
        copies := k.copies.map fun e => (e.1, go e.2) }
    let block (b : Block) : Block :=
      { b with
        swaves := b.swaves.map free
        scopies := b.scopies.map go }
    let cluster (c : Cluster) : Cluster :=
      { c with rotated := c.rotated.map fun x => { x with wave := free x.wave } }
    let cores (s : State) : State := { s with cores := s.cores.map core }
    let saved (s : State) : State :=
      { s with
        clusters := s.clusters.map cluster
        blocks := s.blocks.map fun e => (e.1, block e.2) }
    let wake (c : Ctx) : Ctx :=
      if c.stream.stuck = some id then { c with stream := { c.stream with stuck := none } } else c
    let streams (s : State) : State := { s with ctxs := s.ctxs.map wake }
    let again := streams (saved (cores s1))
    if outcome = 0 then again
    else
      let r := { pg.frec with flags := 0, tick := BitVec.ofNat 64 s.tick }
      -- waves that wait, on their cores or saved
      let waves : List (Nat × Nat × Wave) :=
        ((natsFrom 0 s.cores.length).zip s.cores).flatMap fun e =>
          e.2.waves.map fun w => (e.1, w.1, w.2)
      let saved : List (Nat × Nat × Wave) :=
        (s.clusters.flatMap fun c => c.rotated.map fun x => (x.core, 0, x.wave)) ++
        (s.blocks.flatMap fun e => e.2.swaves.map fun w => (e.2.core, 0, w))
      let hit := (waves ++ saved).filterMap fun e =>
        match e.2.2.park with
        | .page i l src => if i = id then some (e, l, src) else none
        | _ => none
      let s2 := hit.foldl (fun s y =>
        let e := y.1
        let h : Here := { wave := e.2.2, core := e.1, slot := e.2.1, hand := none }
        let x : Flt :=
          { code := 4, lane := some y.2.1, addr := pg.page * 4096,
            detail := pg.frec.detail.toNat, src := y.2.2 }
        let fr := s.faultRec h x
        s.endGrid h.wave.kid e.2.1 fr) again
      -- copies and other units: each fault names its own core, lane, PC and thread
      let copies : List (Nat × Copy) :=
        (((natsFrom 0 s.cores.length).zip s.cores).flatMap fun e => e.2.copies.map fun c => (e.1, c.2)) ++
        (s.blocks.flatMap fun e => e.2.scopies.map fun c => (e.2.core, c))
      let s3 := copies.foldl (fun s e =>
        if e.2.stuck = some id then s.endGrid e.2.kid 0xFF (e.2.missRec e.1 r) else s) s2
      let s4 := pg.who.foldl (fun s w =>
        let fr := { w.frec with
          cls := r.cls, cause := r.cause, ctx := r.ctx, flags := 0, tick := r.tick, addr := r.addr
          detail := r.detail, src := BitVec.ofNat 8 w.src }
        match w.task with
        | some (c, seq) => s.failEntry c seq fr
        | none => s.endGrid w.kid 0xFF fr) s3
      -- a stream fetch that waits becomes the fault of the instruction at SPC (R424): no block, thread or kernel
      (natsFrom 0 64).foldl (fun s' c =>
        if (s.ctx c).stream.stuck = some id then
          s'.streamFault c { r with src := 4, block := 0, thread := 0, kid := 0, further := 0 }
        else s') s4

/-- A handler thread ends: its slot is released and the outcome of the record it held is read (R386,
R388, R423). -/
def State.releaseHeld (s : State) (f : Nat) : State :=
  let p := s.part f
  match p.held with
  | none => s
  | some (slot, q) =>
    let s1 := s.updPart f fun p => { p with held := none }
    let s2 := match q.page with
      | some id => s1.resolvePage id (s1.mem.numD (p.fqbase + 64 * slot + 56) 4)
      | none => s1
    s2.drainPart f

/-- TRET: the held slot is released and the thread ends (R388). -/
def State.endHandler (s : State) (f : Nat) : State :=
  (if f < 16 then s.releaseHeld f else s).updHandler f fun x => { x with wave := none }

/-- A fault of a handler thread (R386): the thread ends as by TRET, and a class 0x1C record goes to the
host queue. -/
def State.handlerFault (s : State) (f : Nat) (pc : Pc) (addr : Nat) : State :=
  (s.endHandler f).postHost
    { frec := { FaultRec.blank 0x1C s.tick with
        src := 9, pc := BitVec.ofNat 64 pc.toNat, addr := BitVec.ofNat 64 addr,
        detail := BitVec.ofNat 32 f },
      page := none }

/-- Taking an exception of a thread instruction: at user level the fault ends the grid (R431); a
handler's fault ends the handler (R386). The instruction has no other effect (R190). -/
def State.raise (s : State) (h : Here) (x : Flt) : State :=
  match h.hand with
  | some f => s.handlerFault f h.wave.pc x.addr
  | none => s.endGrid h.wave.kid h.slot (s.faultRec h x)

/-- The return from an exception handler (R388): TRET. -/
def State.ret (s : State) (f : Nat) : State := s.endHandler f

/-! ### Page-fault records (R421, R422) -/

/-- What met a page that is not present. -/
structure PageMiss where
  ctx : Nat
  va : Nat
  level : Nat
  kind : Access
deriving DecidableEq, Repr

/-- The detail word of a 0x04 record (R429). -/
def PageMiss.detail (x : PageMiss) : Nat := x.level + 16 * x.kind.code

/-- Rewrites the flags and the detail of a record that stands in a ring. -/
def State.rewriteRec (s : State) (p : PageRec) : State :=
  match p.slot with
  | none =>
    let fix (q : Queued) : Queued := if q.page = some p.id then { q with frec := p.frec } else q
    { s with
      parts := s.parts.map fun x => { x with wait := x.wait.map fix }
      dev := { s.dev with hostWait := s.dev.hostWait.map fix } }
  | some k =>
    let a := (if p.host then s.dev.qbase else (s.part (s.partOf p.ctx)).fqbase) + 64 * k
    let w (m : Memory) (o : Nat) (bs : List Byte) : Memory :=
      if p.host then m.arriveHome s.tick (.agent eventAgent) (agentBytes (a + o) bs)
      else m.agentWrite s.tick eventAgent (a + o) bs
    { s with mem := w (w s.mem 7 [p.frec.flags]) 48 (bytesOf 4 p.frec.detail.toNat) }

/-- A page that is not present: joins the record of its page, or queues one (R422). -/
def State.pageFault (s : State) (x : PageMiss) (r : FaultRec) (who : List PageWaiter) :
    Nat × State :=
  let page := x.va / 4096
  match s.pages.find? fun p => p.ctx = x.ctx && p.page = page with
  | some p =>
    let fr := { p.frec with
      flags := p.frec.flags ||| 2
      detail :=
        if x.kind = .write && p.frec.detail.toNat / 16 = 0 then p.frec.detail + 16
        else p.frec.detail }
    let p' := { p with
      frec := fr, joined := true, who := p.who ++ who.filter fun w => !(w ∈ p.who) }
    let s1 := { s with pages := s.pages.map fun q => if q.id = p.id then p' else q }
    (p.id, if fr = p.frec then s1 else s1.rewriteRec p')
  | none =>
    let id := s.uids
    let f := s.partOf x.ctx
    let fr := { r with
      cls := 4, flags := 1, addr := BitVec.ofNat 64 (page * 4096)
      detail := BitVec.ofNat 32 x.detail }
    let host := s.toHost f 4
    let pg : PageRec :=
      { id := id, ctx := x.ctx, page := page, frec := fr, joined := false, host := host,
        slot := none, who := who }
    let s1 := { s with uids := s.uids + 1, pages := s.pages ++ [pg] }
    (id, s1.post f { frec := fr, page := some id })

/-- An access of a unit waits for a page: that of a thread, block or ray of a grid (R421). -/
def State.awaitsPage (s : State) (kid uid : Nat) : Bool :=
  s.pages.any fun p => p.who.any fun w => w.kid = kid && w.uid = uid && w.task.isNone

/-- An access of a stream task waits for a page. -/
def State.taskAwaits (s : State) (c seq : Nat) : Bool :=
  s.pages.any fun p => p.who.any fun w => w.task = some (c, seq)

/-- A wave's instruction meets a page that is not present: the wave parks (R239, R421). -/
def State.parkPage (s : State) (h : Here) (lane : Nat) (x : PageMiss) (src : Nat) : State :=
  let r := s.faultRec h { code := 4, lane := some lane, src := src }
  let r := { r with
    seq := match Table.get? s.grids (s.rootOf h.wave.kid) with
      | some g => BitVec.ofNat 64 g.seq
      | none => 0
    kid := match Table.get? s.grids h.wave.kid with
      | some g => 0#4 ++ g.kernel
      | none => 0 }
  let p := s.pageFault x r []
  p.2.putWave h { h.wave with park := .page p.1 lane src }

/-! ### Links of a thread -/

/-- Gang-buffer ways of a cluster-cache mode (R106). -/
def gangWays (mode : BitVec 2) : Nat := if mode = 0 then 8 else if mode = 1 then 4 else 12

/-- Stash lines a block's valid mappings cover. -/
def Block.covered (b : Block) : Nat := b.st.foldl (fun n e => n + e.2.count + 1) 0

/-- The chain and buffer sites of a thread on a core (R114, R117). A crew's lanes share the crew's C
buffer; a ray thread is its own party at C and B. -/
def State.links (s : State) (core : Nat) (t : Thread) : Links :=
  let cl := clusterOf core
  let g := Table.get? s.grids t.kid
  let logMax := ((g.map fun g => g.lrec.logSize).getD 0) / 128
  let me := Party.thread t.uid
  let site (p : Party) (l : Level) (place cap formed : Nat) : Site :=
    { party := p, level := l, place := place, kid := t.kid, cap := cap, logMax := logMax,
      formed := formed }
  let gcap := gangWays (s.cluster cl).mode * 4096
  if t.ray.isSome then
    let batch := Party.batch t.kid cl
    let gform := (g.map Grid.formed).getD 0
    { chain := { uid := t.uid, c := me, b := me, g := batch }, c := site me .c core 512 gform, b := none,
      g := site batch .g cl gcap gform }
  else
    match Table.get? s.blocks t.blockUid with
    | none =>
      { chain := { uid := t.uid, c := me, b := me, g := me }, c := site me .c core 512 0, b := none,
        g := site me .g cl gcap 0 }
    | some b =>
      let c : Party × Nat := match t.crewRef with
        | some r => (.crew r.uid, ((Table.get? (s.core core).crews r.id).map Crew.formed).getD 0)
        | none => (me, b.formed)
      let tb := ((g.map fun g => g.lrec.t).getD 0) / 128
      let gang := Party.gang b.gangUid
      let gf := ((Table.get? s.gangs b.gangUid).map Gang.formed).getD 0
      { chain := { uid := t.uid, c := c.1, b := .block b.uid, g := gang },
        c := site c.1 .c core 512 c.2,
        b := some (site (.block b.uid) .b b.uid (tb - b.covered) b.formed),
        g := site gang .g cl gcap gf }

/-- The links of a wave's lane. -/
def State.linksOf (s : State) (h : Here) (t : Thread) : Links := s.links h.core t

/-- Where a wave's accesses are translated. -/
def Here.via (h : Here) : Via := { core := some h.core, cl := clusterOf h.core }

/-! ### Breakpoint and watchpoint hits (R455 to R457) -/

/-- The instruction that stopped is checked for a hit no more (R459, R461). -/
def Skip.covers (x y : Skip) : Bool := x = .all || x = y

/-- WHY of a stop (R460). -/
def Skip.why : Skip → Nat
  | .none => 0
  | .bkpt => 1
  | .break' _ => 2
  | .watch _ => 3
  | .all => 0

/-- Freezes a cluster and says why (R457, R460); a freeze clears the deadlock counts of its cores (R49). -/
def State.freeze (s : State) (cl : Nat) (why core slot lane : Nat) (x : Skip) : State :=
  let s1 := s.updCluster cl fun c => { c with
    dbg := { c.dbg with
      frozen := true, why := BitVec.ofNat 3 why, core := BitVec.ofNat 3 core,
      slot := BitVec.ofNat 6 slot, lane := BitVec.ofNat 5 lane, hit := x } }
  (natsFrom (8 * cl) 8).foldl (fun s k => s.updCore k fun c => { c with deadFrom := s.tick }) s1

/-- A trace record of a freeze or resume that no wave's hit has brought about (R464): for every context bound to the
cluster's partition, with no core, slot or PC (DESIGN CHOICE, log 126). -/
def State.traceAll (s : State) (cl cls : Nat) : State :=
  (natsFrom 0 64).foldl (fun s c =>
    if (s.ctx c).bound && s.inPart (s.partOf c) cl then s.trace c cls 0xFF 0xFF 0 0 else s) s

/-- A hit stops the instruction before it has any effect: the cluster freezes, or 0x0C is raised. `low` is the lowest
passing lane, `lane` the lowest that hits. -/
def State.hit (s : State) (h : Here) (x : Skip) (low lane detail addr : Nat) : State :=
  if (s.ctx h.wave.ctx).dbg.ctl.getLsbD 14 && s.dev.skidActive then
    (s.freeze (clusterOf h.core) x.why (h.core % 8) h.slot low x).trace h.wave.ctx 6 h.core h.slot 0
      h.wave.pc.toNat
  else s.raise h { code := 0x0C, lane := some lane, addr := addr, detail := detail }

end Sys2Proof.Machine
end

