-- ==== Sys2Proof/Machine/Residency.lean ====
section
/-! DEFINITION. What caches hold: the copies in a cluster's ways, and the memory-side cache as far as residency
ranges reach it: the ways granted, and the lines they hold (spec/04 R106 to R111). -/

namespace Sys2Proof.Machine

/-! ### The copies in a cluster's ways (R106) -/

/-- The key of a copy that a cluster's cache holds: a treelet by its 4 KiB, or a line of its data ways. -/
def copyKey (node : Bool) (pa : Nat) : Nat := if node then pa / 4096 * 4096 else pa / 128 * 128 + 1

/-- The treelets that the treelet ways of a mode hold, and the lines that its data ways hold (R106). -/
def treeletWays (mode : BitVec 2) : Nat := if mode = 0 then 8 else if mode = 1 then 16 else 2
def treeletRoom (mode : BitVec 2) : Nat := 128 * treeletWays mode
def dataRoom (mode : BitVec 2) : Nat := 4096 * (if mode = 0 then 8 else if mode = 1 then 4 else 10)

/-- Lines beyond the data ways leave; which, is a free choice. -/
def State.trimData : Nat → State → Nat → State
  | 0, s, _ => s
  | n + 1, s, cl =>
    let c := s.cluster cl
    let ks := (c.treelets.filter fun e => e.1 % 2 = 1).map Prod.fst
    if ks.length ≤ dataRoom c.mode then s
    else
      let r := s.pick ks.length
      State.trimData n (r.2.updCluster cl fun c =>
        { c with treelets := Table.del c.treelets (listGet ks r.1 0) }) cl

/-- A line of D that a core's load has read takes its place in the data ways of its cluster. -/
def State.putData (s : State) (cl pa : Nat) : State :=
  let key := copyKey false pa
  if (Table.get? (s.cluster cl).treelets key).isSome then s
  else State.trimData 1 (s.updCluster cl fun c => { c with treelets := Table.put c.treelets key s.mem.pos }) cl

/-! ### Ways (R111) -/

/-- The number in bits [lo + n - 1:lo]. -/
def bitsOf (x : DWord) (lo n : Nat) : Nat := x.toNat / 2 ^ lo % 2 ^ n

/-- Way 15 is reserved: a disarm waits while lines are held. -/
def Device.skidHeld (d : Device) : Bool := d.skidArm || (d.skidActive && d.skidLines != 0)

/-- A channel group is in a partition's mask. -/
def State.hasGroup (s : State) (f g : Nat) : Bool := (s.part f).valid && (s.part f).chan.getLsbD g

/-- The ways granted in the slices of a group: what a register gets after every register before it, in
ascending context and register number (R111). -/
def State.grantIn (s : State) (g c n : Nat) : Nat :=
  let ways (c k : Nat) : Nat :=
    let x := listGet (s.ctx c).resCtl k 0
    if x.getLsbD 63 then min 8 (bitsOf x 8 4) else 0
  let cap := if s.dev.skidHeld then 11 else 12
  let before := (natsFrom 0 64).flatMap fun d =>
    if d ≤ c && (s.ctx d).bound && s.hasGroup (s.partOf d) g then
      (natsFrom 0 (if d = c then n else 8)).map fun k => ways d k
    else []
  let used := before.foldl (fun u w => u + min w (cap - u)) 0
  min (ways c n) (cap - used)

/-- GRANTED: the least grant over the slices of the partition's channel groups. -/
def State.granted (s : State) (c n : Nat) : Nat :=
  let gs := (natsFrom 0 8).filter fun g => s.hasGroup (s.partOf c) g
  if !(s.ctx c).bound || gs.isEmpty then 0
  else gs.foldl (fun m g => min m (s.grantIn g c n)) 15

/-! ### Retained lines (R110) -/

/-- Where a request comes from: a core's load-store unit, its copy engine, or one of its two traversal units. -/
inductive Source where
  | loadStore (core : Nat)
  | copyEngine (core : Nat)
  | traversal (core unit : Nat)
deriving DecidableEq, Repr

/-- The number of a source. -/
def Source.num : Source → Nat
  | .loadStore c => 4 * c
  | .copyEngine c => 4 * c + 1
  | .traversal c u => 4 * c + 2 + u % 2

/-- The sets of a slice (R108). -/
def sliceSets (n : Nat) : Nat := if n < 16 then 2816 else 2560

/-- The slice and set of a line, among the slices of a partition's channel groups; the hash is the device's own
(R108). -/
def State.homeSet (s : State) (f line : Nat) : Nat × Nat :=
  let gs := (natsFrom 0 8).filter fun g => s.hasGroup f g
  let i := Config.sliceHash line % (3 * max 1 gs.length)
  let slice := 3 * listGet gs (i / 3) 0 + i % 3
  (slice, Config.setHash line % sliceSets slice)

/-- The register that decides for an address: the lowest-numbered enabled one whose range holds its page. -/
def State.rangeOf (s : State) (c va : Nat) : Option Nat :=
  (natsFrom 0 8).find? fun k =>
    let b := listGet (s.ctx c).resBase k 0
    let x := listGet (s.ctx c).resCtl k 0
    x.getLsbD 63 && bitsOf b 12 40 ≤ va / 4096 && va / 4096 ≤ bitsOf x 12 40

/-- The key of a source's count for a register of a context. -/
def Source.key (x : Source) (c k : Nat) : Nat := (x.num * 64 + c) * 8 + k

/-- A line enters the granted ways of a register, or is used there again: beyond the ways granted, the least
recently used leaves. Only a request with the retained class counts as a use, and a line that two registers retain
stands in the ways of the last (DESIGN CHOICE, log 118). -/
def keepLine (ways : Nat) (x : KeptLine) (l : List KeptLine) : List KeptLine :=
  let rest := l.filter fun y => y.line != x.line
  let mine (y : KeptLine) : Bool := y.slice = x.slice && y.set = x.set && y.ctx = x.ctx && y.reg = x.reg
  let stay := (rest.filter mine).take (ways - 1)
  x :: rest.filter fun y => !mine y || y ∈ stay

/-- A request of a context reaches the memory-side cache (R110): it is counted at its source, and where it receives
the retained class its line is placed in the granted ways or kept there. -/
def State.reach (s : State) (x : Source) (c va pa : Nat) : State :=
  match s.rangeOf c va with
  | none => s
  | some k =>
    let n := Table.getD s.mside.counts (x.key c k) 0
    let ratio := 2 ^ bitsOf (listGet (s.ctx c).resCtl k 0) 0 3
    let f := s.partOf c
    let at' := s.homeSet f (pa / 128)
    let ways := s.grantIn (at'.1 / 3) c k
    let y : KeptLine := { slice := at'.1, set := at'.2, line := pa / 128, ctx := c, reg := k }
    { s with mside :=
        { counts := Table.put s.mside.counts (x.key c k) (n + 1)
          kept := if n % ratio = 0 && ways != 0 then keepLine ways y s.mside.kept else s.mside.kept } }

/-- The requests of several accesses, one each, by virtual and physical address. -/
def State.reachAll (s : State) (x : Source) (c : Nat) (l : List (Nat × Nat)) : State :=
  l.foldl (fun s e => s.reach x c e.1 e.2) s

/-- The requests for some bytes, by virtual and physical address: one for each line. -/
def State.reachLines (s : State) (x : Source) (c : Nat) (l : List (Nat × Nat)) : State :=
  if (s.ctx c).resCtl.any fun r => r.getLsbD 63 then
    s.reachAll x c (l.foldl (fun t e => if t.any fun y => y.2 / 128 = e.2 / 128 then t else t ++ [e]) [])
  else s

/-- A register is disabled or changed: its lines lose the retained class at once. -/
def State.dropKept (s : State) (c k : Nat) : State :=
  { s with mside := { s.mside with kept := s.mside.kept.filter fun y => !(y.ctx = c && y.reg = k) } }

/-- Lines beyond the ways that are granted now lose the retained class (R111). -/
def State.trimKept (s : State) : State :=
  let fits (before : List KeptLine) (y : KeptLine) : Bool :=
    let mine := before.filter fun z => z.slice = y.slice && z.set = y.set && z.ctx = y.ctx && z.reg = y.reg
    mine.length < s.grantIn (y.slice / 3) y.ctx y.reg
  { s with mside := { s.mside with
      kept := s.mside.kept.foldl (fun l y => if fits l y then l ++ [y] else l) [] } }

end Sys2Proof.Machine
end

