-- ==== Sys2Proof/Machine/Operands.lean ====
section
/-! DEFINITION. Registers and operand values (spec/07 R172, R190). -/

namespace Sys2Proof.Machine

/-! ### Registers -/

/-- v[n] of a thread. -/
def Thread.reg (t : Thread) (n : Nat) : Word := Table.getD t.v n 0

/-- The pair at an even v-register (R8). -/
def Thread.pair (t : Thread) (n : Nat) : DWord := t.reg (n + 1) ++ t.reg n

/-- WriteV (R190). -/
def Thread.setReg (t : Thread) (n : Nat) (x : Word) : Thread := { t with v := Table.put t.v n x }

/-- WriteV64 (R190). -/
def Thread.setPair (t : Thread) (n : Nat) (x : DWord) : Thread :=
  (t.setReg n (x.extractLsb' 0 32)).setReg (n + 1) (x.extractLsb' 32 32)

/-- Writes one register, or a pair. -/
def Thread.setW (t : Thread) (wide : Bool) (n : Nat) (x : DWord) : Thread :=
  if wide then t.setPair n x else t.setReg n (x.extractLsb' 0 32)

/-- Predicate n of a thread. -/
def Thread.pred (t : Thread) (n : Nat) : Bool := t.p.getLsbD n

/-- Sets predicate n. -/
def Thread.setPred (t : Thread) (n : Nat) (b : Bool) : Thread :=
  { t with
    p := if b then t.p ||| BitVec.ofNat 16 (2 ^ n) else t.p &&& ~~~(BitVec.ofNat 16 (2 ^ n)) }

/-- w[n] of a wave. -/
def Wave.reg (w : Wave) (n : Nat) : Word := Table.getD w.w n 0

/-- The pair at an even w-register. -/
def Wave.pair (w : Wave) (n : Nat) : DWord := w.reg (n + 1) ++ w.reg n

/-- Writes a w-register. -/
def Wave.setReg (w : Wave) (n : Nat) (x : Word) : Wave := { w with w := Table.put w.w n x }

/-- The registers a thread may address: its base count and its claims (R44). -/
def Thread.limit (t : Thread) : Nat := t.base + 8 * t.claimed

/-! ### Sources (R172) -/

/-- Src for a 32-bit integer operand. -/
def Src.int (w : Wave) (im : Option Word) (t : Thread) : Sys2Proof.Src → Word
  | .v n => t.reg n.toNat
  | .w n => w.reg n.toNat
  | .k x => x.signExtend 32
  | .long _ => im.getD 0

/-- Src64. -/
def Src.int64 (w : Wave) (im : Option Word) (t : Thread) : Sys2Proof.Src → DWord
  | .v n => t.pair n.toNat
  | .w n => w.pair n.toNat
  | .k x => x.signExtend 64
  | .long _ => (im.getD 0).signExtend 64

/-- Src for an FP32 operand: a short immediate is its FP32 value. -/
def Src.float (w : Wave) (im : Option Word) (t : Thread) : Sys2Proof.Src → Word
  | .k x => toF32 .rne (Real'.ofInt x.toInt)
  | a => Src.int w im t a

/-- Src for a packed operand: a short immediate stands in both halves in the 16-bit format. -/
def Src.packed (f : FloatFmt) (w : Wave) (im : Option Word) (t : Thread) : Sys2Proof.Src → Word
  | .k x =>
    let h := BitVec.ofNat 16 (f.round .rne (Real'.ofInt x.toInt))
    h ++ h
  | a => Src.int w im t a

/-- A source of 32 or 64 bits as 64 bits: 32-bit values are zero-extended. -/
def Src.wide (wide : Bool) (w : Wave) (im : Option Word) (t : Thread) (a : Sys2Proof.Src) : DWord :=
  if wide then Src.int64 w im t a else (Src.int w im t a).setWidth 64

/-! ### Registers an instruction names -/

/-- A run of v-registers: the first, and how many. -/
abbrev RegRun := Nat × Nat

/-- The run a source names. -/
def Src.run (n : Nat) : Sys2Proof.Src → List RegRun
  | .v r => [(r.toNat, n)]
  | .w _ => []
  | .k _ => []
  | .long _ => []

/-- The runs of several 32-bit sources. -/
def runs (l : List Sys2Proof.Src) : List RegRun := l.flatMap (Src.run 1)

/-- The run of a source of 32 or 64 bits. -/
def Src.runW (wide : Bool) (a : Sys2Proof.Src) : List RegRun := Src.run (if wide then 2 else 1) a

/-- Every register of the runs lies in a thread's range (R44, R181). -/
def Thread.inRange (t : Thread) (l : List RegRun) : Bool := l.all fun r => r.1 + r.2 ≤ t.limit

end Sys2Proof.Machine
end

