-- ==== Sys2Proof/Machine/Record.lean ====
section
/-! DEFINITION. Records as bytes (spec/02 R20, R21; spec/03 R60 to R65). -/

namespace Sys2Proof.Machine

/-- The context of a grid. -/
def State.ctxOfKid (s : State) (kid : Nat) : Nat := ((Table.get? s.grids kid).map Grid.ctx).getD 64

/-- One bit in place. -/
def flagBit (b : Bool) (n : Nat) : Nat := if b then 2 ^ n else 0

/-- A hit or candidate (R63). -/
def Hit.bytes (h : Hit) : List Byte :=
  bytesOf 4 h.t.toNat ++ bytesOf 4 h.u.toNat ++ bytesOf 4 h.v.toNat ++
  bytesOf 4 (h.inst.toNat + h.kind.toNat * 2 ^ 24) ++ bytesOf 4 h.prim.toNat ++ bytesOf 4 h.geom.toNat

/-- A short-stack entry in use (R64). -/
def StackEntry.bytes (e : StackEntry) : List Byte :=
  bytesOf 8 (e.ptr.toNat + e.level.toNat * 2 ^ 32 + e.rank.toNat * 2 ^ 39 + e.kind.toNat * 2 ^ 42 +
    e.leaf.toNat * 2 ^ 44 + flagBit e.bottom 47 + 2 ^ 63)

/-- Entries n to n + k - 1 of a short stack. -/
def stackRun (l : List StackEntry) (n k : Nat) : List Byte :=
  (natsFrom n k).flatMap fun i =>
    match l[i]? with
    | some e => e.bytes
    | none => bytesOf 8 0

/-- Bytes 176 to 239 of a ray record: the short stack, with the candidate and the return PC over its last
entries at a call-out (R64). -/
def RayPart.stackBytes (r : RayPart) : List Byte :=
  let last : List Byte := match r.ret with
    | some pc => bytesOf 8 pc.toNat
    | none => stackRun r.stack 7 1
  stackRun r.stack 0 4 ++
    (match r.cand with
      | some h => h.bytes
      | none => stackRun r.stack 4 3) ++ last

/-- Bytes 112 to 255 of a ray record (R60); outside traversal a wait descriptor stands in bytes 176 to 183
(R228). -/
def RayPart.bytes (r : RayPart) (wait : DWord) : List Byte :=
  let w (x : Word) : List Byte := bytesOf 4 x.toNat
  w r.ox ++ w r.oy ++ w r.oz ++ w r.dx ++ w r.dy ++ w r.dz ++ w r.tmin ++ w r.tmax ++
  bytesOf 2 r.flags.toNat ++ [r.mask, r.sel] ++
  bytesOf 4 (r.inst.toNat + flagBit r.clipped 25 + flagBit r.dropped 26 + r.stop.toNat * 2 ^ 27 +
    r.phase.toNat * 2 ^ 30) ++
  r.hit.bytes ++ (if wait = 0 then r.stackBytes else bytesOf 8 wait.toNat ++ r.stackBytes.drop 8) ++
  bytesOf 16 r.trail.toNat

/-- The header of a record (R20). -/
def headerNum (t : Thread) (kernel carry : Nat) (pc : Pc) (key : Word) : Nat :=
  let crew := match t.crewRef with
    | some r => 2 ^ 103 + r.id % 64 * 2 ^ 104 + r.lane % 32 * 2 ^ 110
    | none => 0
  pc.toNat + kernel * 2 ^ 52 + key.toNat * 2 ^ 64 + flagBit t.ray.isSome 96 + carry * 2 ^ 97 + crew +
    t.cause.toNat * 2 ^ 115 + flagBit t.spilled 118

/-- Bytes that the specification leaves undefined. -/
def freeBytes : Nat → State → List Byte × State
  | 0, s => ([], s)
  | n + 1, s =>
    let r := s.pick 256
    let u := freeBytes n r.2
    (BitVec.ofNat 8 r.1 :: u.1, u.2)

/-- The 256 bytes of a thread's record as a filing would write it (R20, R21, R60). -/
def State.recordBytes (s : State) (t : Thread) (pc : Pc) (key : Word) : List Byte × State :=
  let g := Table.get? s.grids t.kid
  let kernel := (g.map fun g => g.kernel.toNat).getD 0
  let regs (n : Nat) : List Byte := (natsFrom 0 n).flatMap fun k => bytesOf 4 (Table.getD t.v k 0).toNat
  match t.ray with
  | some r => (bytesOf 16 (headerNum t kernel 24 pc key) ++ regs 24 ++ r.bytes t.wait, s)
  | none =>
    let carry := min 32 ((g.map fun g => g.lrec.carry).getD 0)
    let mask := (((Table.get? s.blocks t.blockUid).bind fun b => Table.get? b.live t.uid).getD 0).toNat
    let u := freeBytes (128 - 4 * carry) s
    (bytesOf 16 (headerNum t kernel carry pc key) ++ regs carry ++ u.1 ++ bytesOf 4 t.index ++
      bytesOf 4 t.tidx.toNat ++ bytesOf 2 mask ++ bytesOf 2 t.p.toNat ++ bytesOf 8 t.wait.toNat ++
      bytesOf 92 0, u.2)

end Sys2Proof.Machine
end

