-- ==== Sys2Proof/Machine/Units.lean ====
section
/-! DEFINITION. What units read at D, and the accesses to commit logs, with their faults (spec/05 R118; spec/18
R419 to R421). -/

namespace Sys2Proof.Machine

/-! ### The records of units -/

/-- The record of a thread of a grid whose access no wave makes (R422, R428). -/
def State.kidRec (s : State) (kid src code : Nat) (core : Option Nat) : FaultRec :=
  { FaultRec.blank code s.tick with
    ctx := BitVec.ofNat 8 (s.ctxOfKid kid), src := BitVec.ofNat 8 src
    core := match core with
      | some c => BitVec.ofNat 8 c
      | none => 0xFF
    seq := match Table.get? s.grids (s.rootOf kid) with
      | some g => BitVec.ofNat 64 g.seq
      | none => 0
    kid := match Table.get? s.grids kid with
      | some g => 0#4 ++ g.kernel
      | none => 0 }

/-! ### Requests over Rill (R449, R481) -/

def State.updRill (s : State) (f : Rill → Rill) : State := { s with rill := f s.rill }

/-- The context of a requester. -/
def State.ctxOfWho (s : State) (who : RillWho) (kid : Nat) : Nat :=
  match who with
  | .task c _ => c
  | _ => s.ctxOfKid kid

/-- Sends a request; the sender holds at most 4,096 (R449). -/
def State.rillSend (s : State) (who : RillWho) (kid : Nat) (block : Bool) (old : List (Nat × Byte)) : State :=
  if s.rill.out.length < 4096 then
    s.updRill fun r => { r with
      nextTag := (r.nextTag + 1) % 2 ^ 32
      out := r.out ++ [{ tag := r.nextTag, sent := s.tick, who := who, block := block, kid := kid,
                         ctx := s.ctxOfWho who kid, old := old }] }
  else s

/-- A thread waits for an answer over Rill, or for the read that ends its CMT.S (R481). -/
def State.awaitsLink (s : State) (uid : Nat) : Bool :=
  (s.rill.out.any fun q => q.block && q.who = .thread uid) || uid ∈ s.rill.hostOut

/-- A request of a requester has no response yet. -/
def State.linkBusy (s : State) (who : RillWho) : Bool := s.rill.out.any fun q => q.who = who

/-- A request of some thread that does not wait for it has no response yet: what it reads has not come. -/
def State.linkHolds (s : State) (uids : List Nat) : Bool :=
  uids.any fun u => s.rill.out.any fun q => !q.block && q.who = .thread u && q.old.isEmpty

/-- A read of bytes of which some are the peer's, and D holds no modified copy of them, goes over Rill. -/
def State.farRead (s : State) (who : RillWho) (kid : Nat) (block : Bool) (pas : List Nat) : State :=
  if s.paired && pas.any fun a => peerHomed a && (Table.get? s.mem.dirty a).isNone then s.rillSend who kid block []
  else s

/-- Some of the bytes are the peer's, and the pair has ended since they were translated (R480). -/
def State.farLost (s : State) (pas : List Nat) : Bool := !s.paired && pas.any fun a => peerHomed a

/-! ### Reads at D by engines and units -/

/-- Why a read or write of a unit cannot be made. -/
inductive UnitErr where
  | absent (va level : Nat)
  | denied (cause va : Nat)
  | window (va : Nat)
  | ecc (line : Nat)
deriving DecidableEq, Repr

/-- The first address of the windows (R112). -/
def windowBase : Nat := 15 * 2 ^ 48

/-- Translates an address for a unit; a window address or one with high bits is refused (R113). -/
def State.unitPa (s : State) (x : Via) (ctx va : Nat) (kind : Access) : Except UnitErr Nat × State :=
  if va ≥ windowBase then (.error (.window va), s)
  else
    let r := s.translate x ctx va kind
    match r.1 with
    | .ok pa => (.ok pa, r.2)
    | .absent l => (.error (.absent va l), r.2)
    | .denied c => (.error (.denied c va), r.2)
    | .ecc l => (.error (.ecc l), r.2)

/-- The physical addresses of n bytes from a virtual one, page by page. -/
def unitPasGo : Nat → State → Via → Nat → Nat → Nat → Access → Except UnitErr (List Nat) × State
  | 0, s, _, _, _, _, _ => (.ok [], s)
  | fuel + 1, s, x, ctx, va, n, kind =>
    if n = 0 then (.ok [], s)
    else
      let k := min n (4096 - va % 4096)
      let r := s.unitPa x ctx va kind
      match r.1 with
      | .error e => (.error e, r.2)
      | .ok pa =>
        let r2 := unitPasGo fuel r.2 x ctx (va + k) (n - k) kind
        match r2.1 with
        | .error e => (.error e, r2.2)
        | .ok l => (.ok (natsFrom pa k ++ l), r2.2)

def State.unitPas (s : State) (x : Via) (ctx va n : Nat) (kind : Access) :
    Except UnitErr (List Nat) × State :=
  unitPasGo (n / 4096 + 2) s x ctx va n kind

/-- Translates n bytes for a unit and reads them at D as one snapshot (R419): their physical addresses, and the
bytes; a poisoned line is never delivered (R434). -/
def State.unitFetch (s : State) (x : Via) (ctx va n : Nat) :
    Except UnitErr (List Nat × List Byte) × State :=
  let r := s.unitPas x ctx va n .read
  match r.1 with
  | .error e => (.error e, r.2)
  | .ok l =>
    match l.find? fun a => r.2.mem.poisoned a 1 with
    | some a => (.error (.ecc (a / 128 * 128)), r.2)
    | none => (.ok (l, l.map r.2.mem.atD), r.2)

/-- The bytes alone of such a read. -/
def State.unitRead (s : State) (x : Via) (ctx va n : Nat) : Except UnitErr (List Byte) × State :=
  let r := s.unitFetch x ctx va n
  match r.1 with
  | .error e => (.error e, r.2)
  | .ok y => (.ok y.2, r.2)

/-- A read of a unit that waits for pages at the point it has reached (R421): going on, it finds what the read gave
before; otherwise the read is made, and noted (log 125). -/
def State.once {ε : Type} (s : State) (f : State → Except ε (List Nat) × State) : Except ε (List Nat) × State :=
  match s.heard with
  | x :: t => (.ok x, { s with heard := t, said := s.said ++ [x] })
  | [] =>
    let r := f s
    match r.1 with
    | .error e => (.error e, r.2)
    | .ok x => (.ok x, { r.2 with said := r.2.said ++ [x] })

/-- Begins the reads of a unit, those already made first. -/
def State.hear (s : State) (l : List (List Nat)) : State := { s with heard := l, said := [] }

/-- Ends the reads of a unit. -/
def State.unhear (s : State) : State := { s with heard := [], said := [] }

/-- A unit's read error as a fault of an instruction; a page that is not present parks its wave. -/
def State.unitFault (s : State) (h : Here) (lane : Nat) (src : Nat) (e : UnitErr)
    (kind : Access := .read) : State :=
  match e with
  | .absent va l =>
    s.parkPage h lane { ctx := h.wave.ctx, va := va, level := l, kind := kind } src
  | .denied c va => s.raise h { code := 5, cause := c, lane := some lane, addr := va, src := src }
  | .window va => s.raise h { code := 5, lane := some lane, addr := va, src := src }
  | .ecc l => s.raise h { code := 0x0E, lane := some lane, addr := l, src := src }

/-! ### Accesses to commit logs (R118) -/

/-- The address of a grid's first log entry. -/
def State.logBase (s : State) (kid : Nat) : Nat :=
  ((Table.get? s.grids kid).map fun g => g.lrec.logAddr).getD 0

/-- Translates some log accesses (R118): the state after them, or the first that cannot be made. -/
def logWalk (x : Via) (ctx : Nat) : List (Nat × Access) → State → Except (UnitErr × Access) State
  | [], s => .ok s
  | e :: t, s =>
    let r := s.unitPa x ctx e.1 e.2
    match r.1 with
    | .ok _ => logWalk x ctx t r.2
    | .error u => .error (u, e.2)

/-- A log access that cannot be made: a page that is not present parks the instruction, before any effect (DESIGN
CHOICE, log 119). -/
def State.logFault (s : State) (h : Here) (e : UnitErr) (kind : Access) : State :=
  s.unitFault h ((h.wave.active.head?.map Prod.fst).getD 0) 5 e kind

/-- The accesses that a step has made to the log of a grid (R118): each entry moved there, joined there, taken out or
read there. -/
def State.logMoves (s : State) (kid : Nat) : List (Nat × Access) :=
  (s.mem.logAcc.filter fun a => a.kid = kid).map fun a =>
    (s.logBase kid + 128 * a.place, if a.write then .write else .read)

/-- A step's log accesses are translated, with the walks' own effects (R118, R414). -/
def State.walkLog (s : State) (x : Via) (ctx kid : Nat) : Except (UnitErr × Access) State :=
  logWalk x ctx (s.logMoves kid) { s with mem := { s.mem with logAcc := [] } }

/-- Log accesses are translated (R118): `s'` is what an instruction has made of `s`, unless a log access of it
cannot be made, which is charged to the instruction. -/
def State.logged (s s' : State) (h : Here) : State :=
  if h.hand.isSome then { s' with mem := { s'.mem with logAcc := [] } }
  else
    match s'.walkLog h.via h.wave.ctx h.wave.kid with
    | .ok t => t
    | .error (e, kind) => s.logFault h e kind

/-- What an access of a unit that waits for a page says of its thread (R421, R424). -/
def State.waiter (s : State) (h : Here) (lane src : Nat) (t : Thread) : PageWaiter :=
  let r := s.faultRec h { code := 4, lane := some lane, src := src }
  { kid := t.kid, uid := t.uid, src := src
    frec := { r with seq := match Table.get? s.grids (s.rootOf t.kid) with
      | some g => BitVec.ofNat 64 g.seq
      | none => 0 } }

/-- A log access of a store that arrives after its instruction has issued cannot be made: the store waits for the page,
or faults (R118, R421). -/
def State.lateLogFault (s : State) (h : Here) (lane : Nat) (t : Thread) (e : UnitErr) (kind : Access) : State :=
  match e with
  | .absent va l =>
    let w := s.waiter h lane 5 t
    (s.pageFault { ctx := h.wave.ctx, va := va, level := l, kind := kind } w.frec [w]).2
  | .denied _ _ => s.unitFault h lane 5 e kind
  | .window _ => s.unitFault h lane 5 e kind
  | .ecc _ => s.unitFault h lane 5 e kind

end Sys2Proof.Machine
end

