-- ==== Sys2Proof/Machine/Outstanding.lean ====
section
/-! DEFINITION. What an instruction leaves outstanding: plain loads that read D later, and placed stores that arrive
later (spec/05 R130, R132, R133; spec/07 R178; spec/09 R237, R240). -/

namespace Sys2Proof.Machine

/-! ### Sizes (R237) -/

/-- The bytes of an access size (R237). -/
def sizeBytes : Size → Nat
  | .w32 => 4
  | .n8 => 1
  | .i8 => 1
  | .n16 => 2
  | .i16 => 2
  | .w64 => 8
  | .w128 => 16

/-- The registers of an access size. -/
def sizeRegs : Size → Nat
  | .w64 => 2
  | .w128 => 4
  | _ => 1

/-- The register values a load of a size writes (R237). -/
def loadWords (z : Size) (bs : List Byte) : List Word :=
  let x := natOf bs
  match z with
  | .w32 => [BitVec.ofNat 32 x]
  | .n8 => [BitVec.ofNat 32 x]
  | .i8 => [(BitVec.ofNat 8 x).signExtend 32]
  | .n16 => [BitVec.ofNat 32 x]
  | .i16 => [(BitVec.ofNat 16 x).signExtend 32]
  | .w64 => [BitVec.ofNat 32 x, BitVec.ofNat 32 (x / 2 ^ 32)]
  | .w128 => (natsFrom 0 4).map fun i => BitVec.ofNat 32 (x / 2 ^ (32 * i))

/-! ### Register writes -/

/-- Performs one register write in a wave. -/
def Wave.write (w : Wave) (x : PWrite) : Wave :=
  match x with
  | .w r v => w.setReg r v
  | .v uid r v =>
    { w with lanes := w.lanes.map fun e => if e.2.uid = uid then (e.1, e.2.setReg r v) else e }
  | .p uid i b =>
    { w with lanes := w.lanes.map fun e => if e.2.uid = uid then (e.1, e.2.setPred i b) else e }

/-- Performs register writes. -/
def Wave.writes (w : Wave) (l : List PWrite) : Wave := l.foldl Wave.write w

/-- Writes of consecutive registers of a thread. -/
def vWrites (t : Thread) (d : Nat) (xs : List Word) : List PWrite :=
  (natsFrom d xs.length).zip xs |>.map fun e => .v t.uid e.1 e.2

/-! ### What plain loads read at D (R116, R130, R240) -/

/-- One draw for each byte. -/
def drawBytes (f : Nat → List Choice) : List Nat → State → List (Nat × Choice) × State
  | [], s => ([], s)
  | a :: t, s =>
    let r := s.pickFrom (f a) { val := s.mem.atD a, marks := [], pos := 0 }
    let u := drawBytes f t r.2
    ((a, r.1) :: u.1, u.2)

/-- No load sees part of a commit step (R116): where one byte comes from a step or from later, every other byte of
the step is at least the step's. -/
def wholeSteps (log : List Arrival) (l : List (Nat × Choice)) : List (Nat × Choice) :=
  log.foldl (fun l x =>
    if x.step && l.any (fun e => (x.writeAt e.1).isSome && x.pos ≤ e.2.pos) then
      l.map fun e =>
        match x.writeAt e.1 with
        | some w => if e.2.pos < x.pos then (e.1, { val := w.new, marks := w.marks, pos := x.pos }) else e
        | none => e
    else l) l

/-- The position from which on a cluster's copies are clean (R107). -/
def State.dataFloor (s : State) (h : Here) : Nat := (s.cluster (clusterOf h.core)).dataFloor

/-- What one reader of an instruction may be given for each byte, and the bytes it reads. -/
abbrev Reader := (Nat → List Choice) × List Nat

/-- The values that a byte may have for every reader of it: one load reads each byte once (R240). -/
def sharedChoices (l : List Reader) (a : Nat) : List Choice :=
  match l.filter fun r => a ∈ r.2 with
  | [] => []
  | r :: t => (r.1 a).filter fun c => t.all fun q => c ∈ q.1 a

/-- The bytes of each reader brought to whole steps, in turn, until none changes. -/
def settleSteps (log : List Arrival) (l : List Reader) (t : List (Nat × Choice)) : List (Nat × Choice) :=
  let one (t : List (Nat × Choice)) (r : Reader) : List (Nat × Choice) :=
    let up := wholeSteps log (t.filter fun e => e.1 ∈ r.2)
    t.map fun e => (up.find? fun u => u.1 = e.1).getD e
  l.foldl (fun t _ => l.foldl one t) t

/-- The reads at D of one load: each byte once. -/
def State.drawShared (s : State) (l : List Reader) : List (Nat × Choice) × State :=
  let r := drawBytes (sharedChoices l) (l.flatMap Prod.snd).eraseDups s
  (settleSteps s.mem.log l r.1, r.2)

/-! ### Loads that read later (R130, R132) -/

/-- The arrivals at a byte that a late read may return: those before the thread's first own store after the load's
issue. -/
def LateRead.log (l : LateRead) (m : Memory) (a : Nat) : List Arrival :=
  let own := m.log.filter fun x => l.pos < x.pos && (match x.writeAt a with
    | some w => l.uid ∈ w.who
    | none => false)
  match own.getLast? with
  | some y => m.log.filter fun x => x.pos < y.pos
  | none => m.log

/-- The bytes that a late read still takes from D, and what they may be. -/
def LateRead.reader (s : State) (l : LateRead) : Reader :=
  (fun a =>
    choicesOf (l.log s.mem a) (backTo (((l.log s.mem a).head?.map Arrival.pos).getD 0) s.mem.log (s.mem.atD a) a)
      l.tick l.uid l.floor l.view a,
    (l.bytes.filter fun e => e.2.isNone).map Prod.fst)

/-- The bytes of a late read, from what was drawn. -/
def LateRead.served (l : LateRead) (got : List (Nat × Choice)) : List Byte :=
  l.bytes.map fun e => e.2.getD (((got.find? fun g => g.1 = e.1).map fun g => g.2.val).getD 0)

/-- The releases that the bytes drawn for a late read carry. -/
def LateRead.sees (l : LateRead) (got : List (Nat × Choice)) : List Mark :=
  (got.filter fun g => l.bytes.any fun e => e.1 = g.1 && e.2.isNone).foldl (fun m g => addMarks m g.2.marks) []

/-- The register writes of a late read. -/
def LateRead.writes (l : LateRead) (got : List (Nat × Choice)) : List PWrite :=
  let xs := loadWords l.z (l.served got)
  ((natsFrom l.d xs.length).zip xs).map fun e => if l.toW then .w e.1 e.2 else .v l.uid e.1 e.2

/-- The reads of an operation are made now: its register writes are ready, and its threads have seen the releases
their bytes carry. -/
def State.landLate (s : State) (core key : Nat) (p : PendOp) : State :=
  let r := s.drawShared (p.late.map fun l => l.reader s)
  let saw (t : Thread) : Thread :=
    match p.late.find? fun l => l.uid = t.uid with
    | some l => { t with seen := addMarks t.seen (l.sees r.1) }
    | none => t
  r.2.updCore core fun k => { k with
    waves := Table.upd k.waves p.slot fun w => { w with lanes := w.lanes.map fun e => (e.1, saw e.2) }
    ops := Table.put k.ops key { p with writes := p.writes ++ p.late.flatMap fun l => l.writes r.1, late := [] } }

/-- A load without a flag ends: its registers are written (R178). -/
def State.endLoad (s : State) (core key : Nat) (p : PendOp) : State :=
  s.updCore core fun k => { k with
    waves := Table.upd k.waves p.slot fun w => w.writes p.writes
    ops := Table.del k.ops key }

/-- The reads of an operation are made; a load without a flag is done with that. -/
def State.landOp (s : State) (core key : Nat) : State :=
  match Table.get? (s.core core).ops key with
  | none => s
  | some p =>
    let s1 := s.landLate core key p
    match p.flag, p.eng, Table.get? (s1.core core).ops key with
    | none, none, some q => s1.endLoad core key q
    | _, _, _ => s1

/-! ### Placed stores that arrive later (R132) -/

/-- The number of the level that overflowed (R429). -/
def levelCode : Level → Nat
  | .c => 0
  | .b => 1
  | _ => 2

/-- Commit-log overflow (R119). -/
def State.overflow (s : State) (h : Here) (lane : Nat) (e : Level) : State :=
  s.raise h { code := 7, lane := some lane, detail := levelCode e }

/-- The thread of a lane of a wave that a store stands for. -/
def LateStore.thread (x : LateStore) (w : Wave) : Option Thread :=
  (w.lanes.find? fun e => e.2.uid = x.uid).map Prod.snd

/-- A placed store arrives (R121). One that exhausts the log faults at its own PC (R119), and one whose log access
meets a page that is not present waits for it (R118). -/
def State.landStore (s0 : State) (core : Nat) (x : LateStore) : State :=
  let s := s0.updCore core fun k => { k with stores := k.stores.filter fun y => y != x }
  match Table.get? (s.core core).waves x.slot with
  | none => s
  | some w =>
    match x.thread w with
    | none => s
    | some t =>
      let h : Here := { wave := { w with pc := x.pc }, core := core, slot := x.slot, hand := none }
      let bs : List NewByte := x.bytes.map fun b => { addr := b.addr, val := b.val, who := b.who, marks := b.marks }
      if s0.awaitsPage t.kid t.uid then s0
      else if s.farLost (x.bytes.map BufByte.addr) then
        -- the pair has ended since its bytes were translated (R480)
        s.raise h { code := 5, cause := 4, lane := some x.lane, addr := x.addr }
      else
        match s.mem.store s.tick (s.linksOf h t) x.level bs with
        | .error e => s.overflow h x.lane e
        | .ok m =>
          match State.walkLog { s with mem := m } h.via w.ctx w.kid with
          | .ok s1 => s1
          | .error (e, kind) => s0.lateLogFault h x.lane t e kind

/-- The stores of some threads of a wave arrive, in the order of their issue. -/
def State.landStores (s : State) (core slot : Nat) (uids : List Nat) : State :=
  ((s.core core).stores.filter fun x => x.slot = slot && x.uid ∈ uids).foldl (fun s x => s.landStore core x) s

/-! ### What an instruction waits for -/

/-- The operations of a wave that still have to read D for some threads. -/
def Core.lateOps (k : Core) (slot : Nat) (uids : List Nat) : List Nat :=
  (k.ops.filter fun e => e.2.slot = slot && e.2.late.any fun l => l.uid ∈ uids).map Prod.fst

/-- Some threads of a wave have loads to be performed or stores to arrive. -/
def State.outstanding (s : State) (core slot : Nat) (uids : List Nat) : Bool :=
  !((s.core core).lateOps slot uids).isEmpty ||
  (s.core core).stores.any fun x => x.slot = slot && x.uid ∈ uids

/-- The loads of some threads of a wave are performed, and their stores arrive. -/
def State.settle (s : State) (core slot : Nat) (uids : List Nat) : State :=
  (((s.core core).lateOps slot uids).foldl (fun s key => s.landOp core key) s).landStores core slot uids

/-- The loads without a flag that still await a register of some runs (R178). -/
def State.awaitedBy (s : State) (core slot : Nat) (uids : List Nat) (uses : List RegRun) : List Nat :=
  ((s.core core).ops.filter fun e => e.2.slot = slot && e.2.flag.isNone && e.2.eng.isNone &&
    e.2.late.any fun l => l.uid ∈ uids && uses.any fun r => r.1 < l.d + sizeRegs l.z && l.d < r.1 + r.2).map Prod.fst

end Sys2Proof.Machine
end

