-- ==== Sys2Proof/Machine/Flags.lean ====
section
/-! DEFINITION. How a thread instruction issues: its checks in the order of spec/07 R183, the clause and
the completion flags (spec/07 R173 to R179). -/

namespace Sys2Proof.Machine

/-! ### Completion flags (R177) -/

/-- The pending count of a flag. -/
def Thread.flagCount (t : Thread) (n : Nat) : Nat := Table.getD t.flags n 0

/-- The flags of a thread are all clear. -/
def Thread.flagsClear (t : Thread) : Bool := t.flags.all fun e => e.2 = 0

/-- One more pending operation under a flag. -/
def Thread.flagUp (t : Thread) (n : Nat) : Thread :=
  { t with flags := Table.put t.flags n (t.flagCount n + 1) }

/-- One operation fewer. -/
def Thread.flagDown (t : Thread) (n : Nat) : Thread :=
  { t with
    flags := if t.flagCount n ≤ 1 then Table.del t.flags n
      else Table.put t.flags n (t.flagCount n - 1) }

/-- The flag a select names in the clause context; nothing outside a clause or for flags 12 to 15. -/
def Wave.flagOf (w : Wave) (sel : FlagSel) : Option Nat :=
  let real (n : BitVec 4) : Option Nat := if n.toNat < 12 then some n.toNat else none
  match sel, w.clause with
  | .none, _ => none
  | _, none => none
  | .a, some c => real c.fa
  | .b, some c => real c.fb

/-- A wait mask is satisfied: every named flag is clear in every active lane (R176). -/
def Wave.waitMet (w : Wave) : Bool :=
  match w.clause with
  | none => true
  | some c => w.active.all fun e =>
      (natsFrom 0 12).all fun n => !c.wait.getLsbD n || e.2.flagCount n = 0

/-- A clause that waited on flags acquires, for each thread, the arrivals of the engine operations that
completed under them (R143). -/
def Wave.acquireFlags (w : Wave) : Wave :=
  match w.clause with
  | none => w
  | some c =>
    if c.wait = 0 then w
    else
      let got (t : Thread) : Thread :=
        { t with
          view := t.facq.foldl (fun v e => if c.wait.getLsbD e.1 then v.join e.2 else v) t.view
          facq := t.facq.filter fun e => !c.wait.getLsbD e.1 }
      w.updLanes w.active fun _ t => got t

/-! ### Issuing -/

/-- FullCrew (R37, R190): a crew with all 32 lanes active and an empty mask stack. -/
def Wave.fullCrew (w : Wave) : Bool := w.crew.isSome && w.active.length = 32 && w.mask.isEmpty

/-- What the common checks need to know of an instruction; `whole` where a crew executes it with all its lanes or
not at all (R37, R226), `orders` where it orders the earlier accesses of its threads (R132, R133). -/
structure Form where
  len : Nat
  g : Guard
  uniform : Bool := false
  whole : Bool := false
  final : Bool := false
  cluster : Bool := false
  level : Mode := .user
  sel : FlagSel := .none
  orders : Bool := false
  uses : List RegRun := []
deriving DecidableEq, Repr

/-- The rank of a privilege level. -/
def Mode.rank : Mode → Nat
  | .user => 0
  | .supervisor => 1
  | .firmware => 2

/-- The conditions of 0x01 that depend on the clause (R175) and on the level (R377). -/
def Form.illegal (f : Form) (h : Here) : Bool :=
  (f.cluster && h.hand.isSome) ||
  (f.final && (match h.wave.clause with
    | some c => c.left > 1
    | none => false)) ||
  (f.sel != .none && (h.wave.flagOf f.sel).isNone)

/-- The lowest lane of a set. -/
def lowLane (ls : Table Thread) : Option Nat := (ls.head?).map Prod.fst

/-- The passing lanes break a condition of 0x02: a uniform guard that some active lanes fail (R173), or a crew that
is not whole (R37, R226). -/
def Form.diverges (f : Form) (w : Wave) (ls : Table Thread) : Bool :=
  !ls.isEmpty && ((f.uniform && ls.length != w.active.length) ||
    (f.whole && w.crew.isSome && !(w.fullCrew && ls.length = 32)))

/-- What the lanes of an instruction still have outstanding holds it back: loads without a flag that it reads or
overwrites the result of (R178), and, where it orders earlier accesses, every load and placed store (R132, R133). A
handler's accesses are all made in order (R377). -/
def State.awaits (s : State) (f : Form) (h : Here) (ls : Table Thread) : Bool :=
  let uids := ls.map fun e => e.2.uid
  h.hand.isNone && ((f.orders && s.outstanding h.core h.slot uids) ||
    !(s.awaitedBy h.core h.slot uids f.uses).isEmpty)

/-- What an instruction waits for is performed. -/
def State.await (s : State) (f : Form) (h : Here) (ls : Table Thread) : State :=
  let uids := ls.map fun e => e.2.uid
  let s1 := (s.awaitedBy h.core h.slot uids f.uses).foldl (fun s k => s.landOp h.core k) s
  if f.orders then s1.settle h.core h.slot uids else s1

/-- Issues a thread instruction (R183): privilege, then 0x01, then 0x02, then its own meaning with the
lanes that pass the guard. Where no lane passes it has no effect, and no register is looked at: the register-range
check of R44 is one of a lane's claims, made for the lanes that pass (DEDUCED, log 98). -/
def State.issue (s : State) (f : Form) (k : Here → Table Thread → State) : Res :=
  match s.here with
  | none => .fault .noWave
  | some h =>
    let act := h.wave.active
    let ls := h.wave.passing f.g
    if Mode.rank h.wave.mode < Mode.rank f.level then
      .next (s.raise h { code := 0x11, lane := lowLane act })
    else if f.illegal h then .next (s.raise h { code := 0x01, lane := lowLane act })
    else
      match ls.find? fun e => !e.2.inRange f.uses with
      | some e => .next (s.raise h { code := 0x01, lane := some e.1 })
      | none =>
        if f.diverges h.wave ls then
          .next (s.raise h { code := 0x02, lane := lowLane ls })
        else if ls.isEmpty then .next (s.doneLen h h.wave f.len)
        else if s.awaits f h ls then .next (s.await f h ls)
        else
          match h.wave.flagOf f.sel with
          | some n =>
            -- a count above 255 stalls the wave (R177)
            if ls.any fun e => e.2.flagCount n ≥ 255 then .next s else .next (k h ls)
          | none => .next (k h ls)

/-- An instruction whose effect is a change of each passing lane's thread. -/
def State.lanewise (s : State) (f : Form) (k : Wave → Thread → Thread) : Res :=
  s.issue f fun h ls => s.doneLen h (h.wave.updLanes ls fun _ t => k h.wave t) f.len

/-! ### Results under a flag -/

/-- An operation is in flight at a core. -/
def State.addOp (s : State) (core : Nat) (op : PendOp) : State :=
  s.updCore core fun c => { c with ops := Table.put c.ops (Table.nextKey c.ops) op }

/-- Ends an operation with register results (R177, R178): without a flag they are written, but for the loads that
are performed later; with one they are held, in any order, until it completes. A handler's operation completes at
once. -/
def State.doneWrites (s : State) (h : Here) (w : Wave) (len : Nat) (sel : FlagSel)
    (ls : Table Thread) (ws : List PWrite) (late : List LateRead := []) (scr : Bool := false)
    (stash : List Nat := []) : State :=
  let op (flag : Option Nat) (uids : List Nat) (ws : List PWrite) : PendOp :=
    { slot := h.slot, flag := flag, uids := uids, writes := ws, late := late, scr := scr, stash := stash, eng := none }
  match h.wave.flagOf sel, h.hand with
  | some n, none =>
    (s.addOp h.core (op (some n) (ls.map fun e => e.2.uid) ws)).doneLen h (w.updLanes ls fun _ t => t.flagUp n) len
  | _, _ =>
    let s1 := if late.isEmpty then s else s.addOp h.core (op none (late.map LateRead.uid) [])
    s1.doneLen h (w.writes ws) len

end Sys2Proof.Machine
end

