-- ==== Sys2Proof/Machine/Special.lean ====
section
/-! DEFINITION. The special functions of spec/08 R204 and R205. The bits within a bound are a property of
the device: an opaque value is used where it lies within the bound, and the correctly rounded result
otherwise (log 6). Exact values are compared through fixed-point approximations far finer than any
bound. -/

namespace Sys2Proof.Machine

/-! ### Fixed-point numbers with `prec` fraction bits -/

def prec : Nat := 200
def fxOne : Int := 2 ^ prec
def fxMul (a b : Int) : Int := a * b / 2 ^ prec

/-- 1 + x/k (1 + x/(k+1) (...)): e^x for k = 1. -/
def fxExp (x : Int) : Nat → Nat → Int
  | 0, _ => fxOne
  | n + 1, k => fxOne + fxMul x (fxExp x n (k + 1)) / (k : Int)

/-- The sum of 2^-k / k. -/
def ln2Sum : Nat → Nat → Int
  | 0, _ => 0
  | n + 1, k => 2 ^ (2 * prec - k) / (k * 2 ^ prec : Int) + ln2Sum n (k + 1)

/-- ln 2. -/
def fxLn2 : Int := ln2Sum prec 1

/-- 1 - x^2/(k (k+1)) (1 - ...): cos x for k = 1, sin x / x for k = 2. -/
def fxTrig (x2 : Int) : Nat → Nat → Int
  | 0, _ => fxOne
  | n + 1, k => fxOne - fxMul x2 (fxTrig x2 n (k + 2)) / (k * (k + 1) : Int)

/-- arctan(1/m) with 400 fraction bits. -/
def atanInv (m : Int) : Nat → Int → Int → Int
  | 0, _, _ => 0
  | n + 1, k, p => p / k - atanInv m n (k + 2) (p / (m * m))

/-- pi with 400 fraction bits, by Machin's formula. -/
def pi400 : Int :=
  4 * (4 * atanInv 5 100 1 (2 ^ 400 / 5) - atanInv 239 50 1 (2 ^ 400 / 239))

/-- The bits of log2 of m in [1, 2), from the highest down. -/
def log2Bits : Nat → Nat → Nat → Nat
  | 0, _, acc => acc
  | n + 1, m, acc =>
    let m2 := m * m / 2 ^ prec
    if m2 ≥ 2 ^ (prec + 1) then log2Bits n (m2 / 2) (2 * acc + 1) else log2Bits n m2 (2 * acc)

/-- A fixed-point number as an exact value. -/
def ofFx (x : Int) : Real' := Real'.fin (x < 0) x.natAbs (2 ^ prec)

/-! ### Exact values, to the precision above -/

/-- 2^(n/d), with its sign. -/
def exp2Real (s : Bool) (n d : Nat) : Real' :=
  let x : Int := (if s then -(n : Int) else n) * 2 ^ prec / (d : Int)
  let i := x / 2 ^ prec
  let f := x % 2 ^ prec
  let y := fxExp (fxMul f fxLn2) 60 1
  match ofFx y with
  | .fin _ a b => if i ≥ 0 then .fin false (a * 2 ^ i.toNat) b else .fin false a (b * 2 ^ (-i).toNat)
  | r => r

/-- log2(n/d). -/
def log2Real (n d : Nat) : Real' :=
  let e := Real'.log2 n d
  let m := if e ≥ 0 then n * 2 ^ prec / (d * 2 ^ e.toNat) else n * 2 ^ prec * 2 ^ (-e).toNat / d
  ofFx (e * 2 ^ prec + (log2Bits 120 m 0 : Int) * 2 ^ (prec - 120))

/-- n/d modulo 2 pi, less pi. -/
def reduceAngle (s : Bool) (n d : Nat) : Int :=
  let a : Int := (if s then -(n : Int) else n) * 2 ^ 400 / (d : Int)
  (a + pi400) % (2 * pi400) / 2 ^ 200 - pi400 / 2 ^ 200

def sinReal (s : Bool) (n d : Nat) : Real' :=
  let x := reduceAngle s n d
  ofFx (fxMul x (fxTrig (fxMul x x) 40 2))

def cosReal (s : Bool) (n d : Nat) : Real' :=
  let x := reduceAngle s n d
  ofFx (fxTrig (fxMul x x) 40 1)

/-! ### Results within a bound -/

/-- The spacing of the FP32 grid at a magnitude (R204). -/
def ulpAt : Real' → Real'
  | .fin _ n d =>
    if n = 0 then Real'.scaled false 1 (-149) else Real'.scaled false 1 (max (Real'.log2 n d) (-126) - 23)
  | r => r

/-- The device's bits where they lie within the tolerance, else the rounded value. -/
def within (cand : Word) (y tol : Real') : Word :=
  if !isNan32 cand && (((f32 cand).add y.neg).abs).le tol then cand else rne32 y

/-- A number of ulps at a value. -/
def ulps (k : Nat) (y : Real') : Real' := (Real'.ofInt k).mul (ulpAt y)

/-- A power of two. -/
def pow2 (e : Int) : Real' := Real'.scaled false 1 e

/-- FRCP (R204, R205). -/
def frcpBits (mode : Rounding) (a : Word) : Word := toF32 mode ((f32 one32).div (f32 a))

/-- FSQRT. -/
def fsqrtBits (mode : Rounding) (a : Word) : Word := toF32 mode (f32 a).sqrt

/-- FRSQ. -/
def frsqBits (a : Word) : Word :=
  match f32 a with
  | .nan => nan32
  | .inf s => if s then nan32 else 0
  | .fin s n d =>
    if n = 0 then (if s then 0xFF800000#32 else inf32)
    else if s then nan32
    else
      let y := sqrtReal d n
      within (Config.frsq a) y (ulps 1 y)

/-- FEXP2. -/
def fexp2Bits (a : Word) : Word :=
  match f32 a with
  | .nan => nan32
  | .inf s => if s then 0 else inf32
  | .fin s n d =>
    if n % d = 0 then
      -- an integer: exact, zero or infinite
      if s then (if n / d ≥ 150 then 0 else rne32 (pow2 (-((n / d : Nat) : Int))))
      else if n / d ≥ 128 then inf32 else rne32 (pow2 (n / d : Nat))
    else if s && n / d ≥ 150 then 0
    else if !s && n / d ≥ 128 then inf32
    else
      let y := exp2Real s n d
      within (Config.fexp2 a) y (ulps 2 y)

/-- FLOG2. -/
def flog2Bits (a : Word) : Word :=
  match f32 a with
  | .nan => nan32
  | .inf s => if s then nan32 else inf32
  | .fin s n d =>
    if n = 0 then 0xFF800000#32
    else if s then nan32
    else
      let e := Real'.log2 n d
      if (pow2 e).eq (.fin false n d) then rne32 (Real'.ofInt e)
      else
        let y := log2Real n d
        within (Config.flog2 a) y (if e = 0 || e = -1 then pow2 (-22) else ulps 2 y)

/-- A result of FSIN or FCOS: within 2^-21, and in [-1, 1]. -/
def trigBits (cand : Word) (y : Real') : Word :=
  if ((f32 cand).abs).le (pow2 0) then within cand y (pow2 (-21)) else rne32 y

/-- FSIN. -/
def fsinBits (a : Word) : Word :=
  match f32 a with
  | .nan => nan32
  | .inf _ => nan32
  | .fin s n d => if n = 0 then a else trigBits (Config.fsin a) (sinReal s n d)

/-- FCOS. -/
def fcosBits (a : Word) : Word :=
  match f32 a with
  | .nan => nan32
  | .inf _ => nan32
  | .fin s n d => if n = 0 then one32 else trigBits (Config.fcos a) (cosReal s n d)

end Sys2Proof.Machine
end

