-- ==== Sys2Proof/Machine/Float.lean ====
section
/-! DEFINITION. FP32 instructions, packed 16-bit arithmetic and conversion (spec/08 R201 to R208). -/

namespace Sys2Proof.Machine

/-! ### FP32 -/

/-- A modified source (R201): absolute value, then negation; a NaN stays NaN. -/
def modify (ab ng : Bool) (x : Word) : Word :=
  let y := if ab then x &&& 0x7FFFFFFF#32 else x
  if ng then fneg32 y else y

/-- SAT (R202): NaN and values at or below zero give +0, the rest at most 1. -/
def satFloat (x : Word) : Word :=
  if isNan32 x || fle32 x 0 then 0 else if flt32 one32 x then one32 else x

/-- The common checks of an FP32 instruction. -/
def fForm (x : FOp) : Form :=
  { len := lenOf x.im, g := x.g, uses := (x.d.toNat, 1) :: runs [x.a, x.b, x.c] }

/-- An FP32 instruction by the bits it returns on its modified sources. -/
def fRun (x : FOp) (s : State) (f : Word → Word → Word → Word) : Res :=
  s.lanewise (fForm x) fun w t =>
    let v := Src.float w x.im t
    let r := f (modify x.aa x.na (v x.a)) (modify x.ab x.nb (v x.b)) (modify false x.nc (v x.c))
    t.setReg x.d.toNat (if x.sat then satFloat r else r)

/-- The rounding TZ selects. -/
def tzMode (tz : Bool) : Rounding := if tz then .tz else .rne

/-- An FP32 instruction by its exact result (R202). -/
def fExact (x : FOp) (s : State) (f : Real' → Real' → Real' → Real') : Res :=
  fRun x s fun a b c => toF32 (tzMode x.tz) (f (f32 a) (f32 b) (f32 c))

/-- FADD (R202). -/
def execFadd (x : FOp) (s : State) : Res := fExact x s fun a b _ => a.add b
/-- FMUL (R202). -/
def execFmul (x : FOp) (s : State) : Res := fExact x s fun a b _ => a.mul b
/-- FFMA (R202): one rounding. -/
def execFfma (x : FOp) (s : State) : Res := fExact x s Real'.fma
/-- FDIV (R202). -/
def execFdiv (x : FOp) (s : State) : Res := fExact x s fun a b _ => a.div b
/-- FMIN (R203). -/
def execFmin (x : FOp) (s : State) : Res := fRun x s fun a b _ => fmin32 a b
/-- FMAX (R203). -/
def execFmax (x : FOp) (s : State) : Res := fRun x s fun a b _ => fmax32 a b
/-- FRCP (R204, R205). -/
def execFrcp (x : FOp) (s : State) : Res := fRun x s fun a _ _ => frcpBits (tzMode x.tz) a
/-- FRSQ (R204, R205). -/
def execFrsq (x : FOp) (s : State) : Res := fRun x s fun a _ _ => frsqBits a
/-- FSQRT (R204, R205). -/
def execFsqrt (x : FOp) (s : State) : Res := fRun x s fun a _ _ => fsqrtBits (tzMode x.tz) a
/-- FEXP2 (R204, R205). -/
def execFexp2 (x : FOp) (s : State) : Res := fRun x s fun a _ _ => fexp2Bits a
/-- FLOG2 (R204, R205). -/
def execFlog2 (x : FOp) (s : State) : Res := fRun x s fun a _ _ => flog2Bits a
/-- FSIN (R204, R205). -/
def execFsin (x : FOp) (s : State) : Res := fRun x s fun a _ _ => fsinBits a
/-- FCOS (R204, R205). -/
def execFcos (x : FOp) (s : State) : Res := fRun x s fun a _ _ => fcosBits a

/-! ### Packed 16-bit arithmetic (R206) -/

/-- A half of a packed register as an exact value, negated if asked. -/
def halfVal (f : FloatFmt) (ng : Bool) (x : Word) (h : Nat) : Real' :=
  let y := f.decode (x.extractLsb' (16 * h) 16).toNat
  if ng then y.neg else y

/-- A packed instruction by its exact result on each half. -/
def pkRun (x : PkOp) (s : State) (f : Real' → Real' → Real' → Real') : Res :=
  let fm := if x.bf then fpBf16 else fpF16
  s.lanewise { len := lenOf x.im, g := x.g, uses := (x.d.toNat, 1) :: runs [x.a, x.b, x.c] }
    fun w t =>
      let v := Src.packed fm w x.im t
      let half (h : Nat) : BitVec 16 :=
        BitVec.ofNat 16 (fm.round (tzMode x.tz)
          (f (halfVal fm x.na (v x.a) h) (halfVal fm x.nb (v x.b) h) (halfVal fm x.nc (v x.c) h)))
      t.setReg x.d.toNat (half 1 ++ half 0)

/-- PKADD (R206). -/
def execPkadd (x : PkOp) (s : State) : Res := pkRun x s fun a b _ => a.add b
/-- PKMUL (R206). -/
def execPkmul (x : PkOp) (s : State) : Res := pkRun x s fun a b _ => a.mul b
/-- PKFMA (R206). -/
def execPkfma (x : PkOp) (s : State) : Res := pkRun x s Real'.fma

/-! ### CVT (R207, R208) -/

/-- The floating-point format of a type. -/
def cvtFloat : CvtType → Option FloatFmt
  | .f32 => some fp32
  | .bf16 => some fpBf16
  | .f16 => some fpF16
  | .e4m3 => some fpE4m3
  | .e5m2 => some fpE5m2
  | .i8 => none
  | .n8 => none
  | .i16 => none
  | .n16 => none
  | .i32 => none
  | .n32 => none
  | .i64 => none
  | .n64 => none

/-- The width of a type in bits. -/
def cvtBits : CvtType → Nat
  | .f32 => 32
  | .bf16 => 16
  | .f16 => 16
  | .e4m3 => 8
  | .e5m2 => 8
  | .i8 => 8
  | .n8 => 8
  | .i16 => 16
  | .n16 => 16
  | .i32 => 32
  | .n32 => 32
  | .i64 => 64
  | .n64 => 64

/-- The integer type is signed. -/
def cvtSigned : CvtType → Bool
  | .i8 => true
  | .i16 => true
  | .i32 => true
  | .i64 => true
  | _ => false

/-- The source bits (R207): a part of A, or the whole; a short immediate in the source type. -/
def cvtSource (x : CvtOp) (w : Wave) (t : Thread) : Nat :=
  let n := cvtBits x.st
  match x.a, cvtFloat x.st with
  | .k k, some f => f.round .rne (Real'.ofInt k.toInt)
  | .k k, none => (k.signExtend 64).toNat % 2 ^ n
  | a, _ =>
    if n = 64 then (Src.int64 w none t a).toNat
    else (Src.int w none t a).toNat / 2 ^ (n * x.sp.toNat) % 2 ^ n

/-- The converted bits (R208). -/
def cvtResult (st dt : CvtType) (tz : Bool) (x : Nat) : Nat :=
  let n := cvtBits st
  let m := cvtBits dt
  let sv : Int := if cvtSigned st && x ≥ 2 ^ (n - 1) then (x : Int) - 2 ^ n else x
  let lo : Int := if cvtSigned dt then -(2 ^ (m - 1)) else 0
  let hi : Int := if cvtSigned dt then 2 ^ (m - 1) - 1 else 2 ^ m - 1
  match cvtFloat st, cvtFloat dt with
  | some f, some g => g.round (tzMode tz) (f.decode x)
  | some f, none => ((roundInt (tzMode tz) lo hi (f.decode x)) % 2 ^ m).toNat
  | none, some g => g.round (tzMode tz) (Real'.ofInt sv)
  | none, none => (max lo (min hi sv) % 2 ^ m).toNat

/-- CVT (R207, R208): a narrow destination leaves the other bits of the register. -/
def execCvt (x : CvtOp) (s : State) : Res :=
  let uses := (x.d.toNat, if cvtBits x.dt = 64 then 2 else 1) ::
    Src.run (if cvtBits x.st = 64 then 2 else 1) x.a
  s.lanewise { len := 8, g := x.g, uses := uses } fun w t =>
    let m := cvtBits x.dt
    let r := cvtResult x.st x.dt x.tz (cvtSource x w t) % 2 ^ m
    if m = 64 then t.setPair x.d.toNat (BitVec.ofNat 64 r)
    else
      let sh := m * x.dp.toNat
      let old := t.reg x.d.toNat
      let mask := BitVec.ofNat 32 ((2 ^ m - 1) * 2 ^ sh)
      t.setReg x.d.toNat ((old &&& ~~~mask) ||| BitVec.ofNat 32 (r * 2 ^ sh))

end Sys2Proof.Machine
end

