-- ==== Sys2Proof/Machine/Integer.lean ====
section
/-! DEFINITION. Integer and bit instructions (spec/08 R193 to R200). -/

namespace Sys2Proof.Machine

/-! ### Shared operations -/

/-- A source as a w-bit integer (R193): unsigned when U is 1. -/
def intVal (u wide : Bool) (w : Wave) (im : Option Word) (t : Thread) (a : Src) : Int :=
  if wide then
    let x := Src.int64 w im t a
    if u then x.toNat else x.toInt
  else
    let x := Src.int w im t a
    if u then x.toNat else x.toInt

/-- SatS and SatU (R190). -/
def satInt (u : Bool) (n : Nat) (y : Int) : Int :=
  if u then min (max y 0) (2 ^ n - 1) else min (max y (-(2 ^ (n - 1)))) (2 ^ (n - 1) - 1)

/-- Writes an exact result (R194): saturated where SAT is 1, else wrapped. -/
def intPut (x : IntOp) (t : Thread) (y : Int) : Thread :=
  t.setW x.w x.d.toNat (BitVec.ofInt 64 (if x.sat then satInt x.u (if x.w then 64 else 32) y else y))

/-- The common checks of an integer instruction. -/
def intForm (x : IntOp) : Form :=
  { len := lenOf x.im, g := x.g,
    uses := (x.d.toNat, if x.w then 2 else 1) :: [x.a, x.b, x.c].flatMap (Src.runW x.w) }

/-- An integer instruction by its exact result on the sources (R194). -/
def intRun (x : IntOp) (s : State) (f : Int → Int → Int → Int) : Res :=
  s.lanewise (intForm x) fun w t =>
    let v := intVal x.u x.w w x.im t
    intPut x t (f (v x.a) (v x.b) (v x.c))

/-- The operand width. -/
def intWidth (x : IntOp) : Nat := if x.w then 64 else 32

/-- A bit instruction by its result on source A as 64 bits and source B as 32 bits (R196). -/
def intBits (x : IntOp) (s : State) (f : DWord → Nat → DWord) : Res :=
  let uses := (x.d.toNat, if x.w then 2 else 1) :: (Src.runW x.w x.a ++ Src.run 1 x.b)
  s.lanewise { (intForm x) with uses := uses } fun w t =>
    t.setW x.w x.d.toNat (f (Src.wide x.w w x.im t x.a) (Src.int w x.im t x.b).toNat)

/-- A bitwise instruction (R196). -/
def intLogic (x : IntOp) (s : State) (f : DWord → DWord → DWord) : Res :=
  s.lanewise (intForm x) fun w t =>
    let v := Src.wide x.w w x.im t
    t.setW x.w x.d.toNat (f (v x.a) (v x.b))

/-- An instruction that counts bits of its source into one register (R196). -/
def intCount (x : IntOp) (s : State) (f : Nat → DWord → Nat) : Res :=
  s.lanewise { (intForm x) with uses := (x.d.toNat, 1) :: Src.runW x.w x.a } fun w t =>
    t.setReg x.d.toNat (BitVec.ofNat 32 (f (intWidth x) (Src.wide x.w w x.im t x.a)))

/-- IDIV on integers of n bits (R195). -/
def divInt (u : Bool) (n : Nat) (a b : Int) : Int :=
  if b = 0 then
    if u then 2 ^ n - 1 else if a ≥ 0 then 2 ^ (n - 1) - 1 else -(2 ^ (n - 1))
  else Int.tdiv a b

/-- IREM (R195). -/
def remInt (a b : Int) : Int := if b = 0 then a else Int.tmod a b

/-- The number of 1 bits among the low n. -/
def popCount (n : Nat) (x : DWord) : Nat := ((natsFrom 0 n).filter fun i => x.getLsbD i).length

/-- Leading zeros of the low n bits: n for 0. -/
def leadingZeros : Nat → DWord → Nat
  | 0, _ => 0
  | n + 1, x => if x.getLsbD n then 0 else leadingZeros n x + 1

/-- The low n bits in reverse order. -/
def revBits (n : Nat) (x : DWord) : DWord :=
  (natsFrom 0 n).foldl (fun y i => if x.getLsbD (n - 1 - i) then y ||| (1#64 <<< i) else y) 0

/-- The field a control word names in n bits (R198): position and length. -/
def fieldOf (n : Nat) (k : Word) : Nat × Nat :=
  let pos := min (k.extractLsb' 0 8).toNat n
  (pos, min (k.extractLsb' 8 8).toNat (n - pos))

/-- BFE (R198). -/
def bfeBits (u : Bool) (n : Nat) (a : DWord) (k : Word) : DWord :=
  let f := fieldOf n k
  let x := a.toNat / 2 ^ f.1 % 2 ^ f.2
  if f.2 = 0 then 0
  else if u || x < 2 ^ (f.2 - 1) then BitVec.ofNat 64 x
  else BitVec.ofInt 64 ((x : Int) - 2 ^ f.2)

/-- BFI (R198). -/
def bfiBits (n : Nat) (a b : DWord) (k : Word) : DWord :=
  let f := fieldOf n k
  let mask := BitVec.ofNat 64 ((2 ^ f.2 - 1) * 2 ^ f.1)
  (a &&& ~~~mask) ||| ((b <<< f.1) &&& mask)

/-- TERN on one word (R197). -/
def ternBits (tt : BitVec 8) (a b c : Word) : Word :=
  let bit (i : Nat) : Word :=
    (if tt.getLsbD i then BitVec.allOnes 32 else 0) &&&
    (if i % 2 = 1 then a else ~~~a) &&& (if i / 2 % 2 = 1 then b else ~~~b) &&&
    (if i / 4 = 1 then c else ~~~c)
  (natsFrom 0 8).foldl (fun y i => y ||| bit i) 0

/-! ### Meanings -/

/-- IADD (R194). -/
def execIadd (x : IntOp) (s : State) : Res := intRun x s fun a b _ => a + b
/-- ISUM3 (R194). -/
def execIsum3 (x : IntOp) (s : State) : Res := intRun x s fun a b c => a + b + c
/-- ISUB (R194). -/
def execIsub (x : IntOp) (s : State) : Res := intRun x s fun a b _ => a - b
/-- IMUL (R194). -/
def execImul (x : IntOp) (s : State) : Res := intRun x s fun a b _ => a * b
/-- IMULH (R194). -/
def execImulh (x : IntOp) (s : State) : Res := intRun x s fun a b _ => a * b / 2 ^ (intWidth x)
/-- IMAD (R194). -/
def execImad (x : IntOp) (s : State) : Res := intRun x s fun a b c => a * b + c
/-- IDIV (R194, R195). -/
def execIdiv (x : IntOp) (s : State) : Res := intRun x s fun a b _ => divInt x.u (intWidth x) a b
/-- IREM (R194, R195). -/
def execIrem (x : IntOp) (s : State) : Res := intRun x s fun a b _ => remInt a b
/-- IMIN (R194). -/
def execImin (x : IntOp) (s : State) : Res := intRun x s fun a b _ => min a b
/-- IMAX (R194). -/
def execImax (x : IntOp) (s : State) : Res := intRun x s fun a b _ => max a b
/-- IABS (R194). -/
def execIabs (x : IntOp) (s : State) : Res := intRun x s fun a _ _ => a.natAbs

/-- MOV (R199). -/
def execMov (x : IntOp) (s : State) : Res :=
  s.lanewise (intForm x) fun w t => t.setW x.w x.d.toNat (Src.wide x.w w x.im t x.a)

/-- MOVI, 96-bit form (R199). -/
def execMovi (x : MoviOp) (s : State) : Res :=
  s.lanewise { len := 16, g := x.g, uses := [(x.d.toNat, if x.w then 2 else 1)] } fun _ t =>
    t.setW x.w x.d.toNat (x.imm.signExtend 64)

/-- MOVI, 128-bit form (R199). -/
def execMovi64 (x : Movi64Op) (s : State) : Res :=
  s.lanewise { len := 16, g := x.g, uses := [(x.d.toNat, 2)] } fun _ t => t.setPair x.d.toNat x.imm

/-- LEA (R200): source A is 32 bits in both forms. -/
def execLea (x : LeaOp) (s : State) : Res :=
  let uses := (x.d.toNat, if x.w then 2 else 1) :: (Src.run 1 x.a ++ Src.runW x.w x.b)
  s.lanewise { len := lenOf x.im, g := x.g, uses := uses } fun w t =>
    let a := intVal x.u false w x.im t x.a
    t.setW x.w x.d.toNat
      (BitVec.ofInt 64 (a * 2 ^ x.sh.toNat + (Src.wide x.w w x.im t x.b).toNat))

/-- SEL (R200). -/
def execSel (x : SelOp) (s : State) : Res :=
  let uses := (x.d.toNat, if x.w then 2 else 1) :: [x.a, x.b].flatMap (Src.runW x.w)
  s.lanewise { len := lenOf x.im, g := x.g, uses := uses } fun w t =>
    t.setW x.w x.d.toNat
      (Src.wide x.w w x.im t (if t.pred x.pc.toNat != x.pn then x.a else x.b))

/-- SHL (R196). -/
def execShl (x : IntOp) (s : State) : Res :=
  intBits x s fun a n => if n ≥ (intWidth x) then 0 else a <<< n
/-- SHR (R196). -/
def execShr (x : IntOp) (s : State) : Res :=
  intBits x s fun a n => if n ≥ (intWidth x) then 0 else a >>> n
/-- SAR (R196). -/
def execSar (x : IntOp) (s : State) : Res :=
  intBits x s fun a n =>
    let y := if x.w then a else (a.setWidth 32).signExtend 64
    y.sshiftRight (min n ((intWidth x) - 1))
/-- AND (R196). -/
def execAnd (x : IntOp) (s : State) : Res := intLogic x s fun a b => a &&& b
/-- OR (R196). -/
def execOr (x : IntOp) (s : State) : Res := intLogic x s fun a b => a ||| b
/-- XOR (R196). -/
def execXor (x : IntOp) (s : State) : Res := intLogic x s fun a b => a ^^^ b
/-- NOT (R196). -/
def execNot (x : IntOp) (s : State) : Res := intLogic x s fun a _ => ~~~a

/-- TERN (R197). -/
def execTern (x : TernOp) (s : State) : Res :=
  let uses := (x.d.toNat, 1) :: runs [x.a, x.b, x.c]
  s.lanewise { len := lenOf x.im, g := x.g, uses := uses } fun w t =>
    let v := Src.int w x.im t
    t.setReg x.d.toNat (ternBits x.tt (v x.a) (v x.b) (v x.c))

/-- POPC (R196). -/
def execPopc (x : IntOp) (s : State) : Res := intCount x s popCount
/-- CLZ (R196). -/
def execClz (x : IntOp) (s : State) : Res := intCount x s leadingZeros
/-- BREV (R196). -/
def execBrev (x : IntOp) (s : State) : Res := intLogic x s fun a _ => revBits (intWidth x) a

/-- BFE (R198). -/
def execBfe (x : IntOp) (s : State) : Res :=
  intBits x s fun a k => bfeBits x.u (intWidth x) a (BitVec.ofNat 32 k)

/-- BFI (R198). -/
def execBfi (x : IntOp) (s : State) : Res :=
  let uses := (x.d.toNat, if x.w then 2 else 1) ::
    ([x.a, x.b].flatMap (Src.runW x.w) ++ Src.run 1 x.c)
  s.lanewise { (intForm x) with uses := uses } fun w t =>
    let v := Src.wide x.w w x.im t
    t.setW x.w x.d.toNat (bfiBits (intWidth x) (v x.a) (v x.b) (Src.int w x.im t x.c))

end Sys2Proof.Machine
end

