-- ==== Sys2Proof/Machine/Predicate.lean ====
section
/-! DEFINITION. Compare and predicate instructions (spec/08 R209 to R212). -/

namespace Sys2Proof.Machine

/-- An integer condition (R209). -/
def condHolds : Cond → Int → Int → Bool
  | .eq, a, b => a = b
  | .ne, a, b => a != b
  | .lt, a, b => a < b
  | .le, a, b => a ≤ b
  | .gt, a, b => b < a
  | .ge, a, b => b ≤ a

/-- How a result combines with the predicate source (R209). -/
def combine (c : Comb) (t p : Bool) : Bool :=
  match c with
  | .none => t
  | .and => t && p
  | .or => t || p
  | .xor => t != p

/-- ICMP (R209). -/
def execIcmp (x : IcmpOp) (s : State) : Res :=
  s.lanewise { len := lenOf x.im, g := x.g, uses := [x.a, x.b].flatMap (Src.runW x.w) } fun w t =>
    let v := intVal x.u x.w w x.im t
    let r := condHolds x.cond (v x.a) (v x.b)
    t.setPred x.pd.toNat (combine x.comb r (t.pred x.pc.toNat != x.ncp))

/-- An FP32 condition (R210): the ordered ones are false on a NaN, the unordered ones true. -/
def fcondHolds (c : FCond) (a b : Word) : Bool :=
  let n := isNan32 a || isNan32 b
  match c with
  | .eq => feq32 a b
  | .ne => !n && !feq32 a b
  | .lt => flt32 a b
  | .le => fle32 a b
  | .gt => flt32 b a
  | .ge => fle32 b a
  | .num => !n
  | .nan => n
  | .equ => n || feq32 a b
  | .neu => n || !feq32 a b
  | .ltu => n || flt32 a b
  | .leu => n || fle32 a b
  | .gtu => n || flt32 b a
  | .geu => n || fle32 b a

/-- FCMP (R210). -/
def execFcmp (x : FcmpOp) (s : State) : Res :=
  s.lanewise { len := lenOf x.im, g := x.g, uses := runs [x.a, x.b] } fun w t =>
    let v := Src.float w x.im t
    let r := fcondHolds x.cond (v x.a) (v x.b)
    t.setPred x.pd.toNat (combine x.comb r (t.pred x.pc.toNat != x.ncp))

/-- A predicate instruction of two sources (R211). -/
def predRun (x : PredOp) (s : State) (f : Bool → Bool → Bool) : Res :=
  s.lanewise { len := 8, g := x.g } fun _ t =>
    t.setPred x.pd.toNat (f (t.pred x.pa.toNat != x.na) (t.pred x.pb.toNat != x.nb) != x.nr)

/-- PAND (R211). -/
def execPand (x : PredOp) (s : State) : Res := predRun x s fun a b => a && b
/-- POR (R211). -/
def execPor (x : PredOp) (s : State) : Res := predRun x s fun a b => a || b
/-- PXOR (R211). -/
def execPxor (x : PredOp) (s : State) : Res := predRun x s fun a b => a != b

/-- PNOT (R211). -/
def execPnot (x : PnotOp) (s : State) : Res :=
  s.lanewise { len := 8, g := x.g } fun _ t => t.setPred x.pd.toNat (!t.pred x.pa.toNat)

/-- PMOV (R211). -/
def execPmov (x : PmovOp) (s : State) : Res :=
  s.lanewise { len := 8, g := x.g } fun _ t =>
    t.setPred x.pd.toNat (match x.src with
      | .pred neg p => t.pred p.toNat != neg
      | .const k => k != 0)

/-- The result of a vote over the passing lanes (R212). -/
def voteOf (m : VoteMode) (l : List Bool) : Bool :=
  match m with
  | .all => l.all id
  | .any => l.any id
  | .same => l.all id || !l.any id
  | .none => !l.any id

/-- VOTE (R212). -/
def execVote (x : VoteOp) (s : State) : Res :=
  s.issue { len := 8, g := x.g } fun h ls =>
    let r := voteOf x.mode (ls.map fun e => e.2.pred x.pa.toNat != x.na)
    s.doneLen h (h.wave.updLanes ls fun _ t => t.setPred x.pd.toNat r) 8

end Sys2Proof.Machine
end

