-- ==== Sys2Proof/Machine/Collective.lean ====
section
/-! DEFINITION. The collectives of a crew (spec/08 R213 to R218). -/

namespace Sys2Proof.Machine

/-- Issues an instruction that only a full crew may execute, else 0x02. -/
def State.issueCrew (s : State) (f : Form) (k : Here → Table Thread → State) : Res :=
  s.issue { f with uniform := true, cluster := true } fun h ls =>
    if h.wave.fullCrew then k h ls else s.raise h { code := 2, lane := lowLane ls }

/-! ### The crew and the engine (R297, R304) -/

/-- The crew of a wave. -/
def State.crewHere (s : State) (h : Here) : Option Crew :=
  h.wave.crew.bind fun id => Table.get? (s.core h.core).crews id

/-- Some operation of a crew is not complete. -/
def State.engineBusy (s : State) (core crewUid : Nat) : Bool :=
  (s.core core).ops.any fun e => match e.2.eng with
    | some o => o.crewUid = crewUid
    | none => false

/-- The pending sparsity fault of a crew is raised: the record names the MMAS (R304). -/
def State.raiseSparse (s : State) (h : Here) (f : SparseFault) : State :=
  s.raise { h with wave := { h.wave with pc := f.pc } }
    { code := 8, lane := some 0, detail := f.row % 256 + 256 * (f.group % 256) }

/-- What holds back a crew that yields, ends or stands down: a pending sparsity fault is raised (R304), and
an operation of the engine is waited for (log 15). Nothing outside a crew. -/
def State.crewStop (s : State) (h : Here) : Option State :=
  match s.crewHere h with
  | none => none
  | some c =>
    match c.pend with
    | some f => some (s.raiseSparse h f)
    | none => if s.engineBusy h.core c.uid then some s else none

/-- The crew of a wave has engine operations to wait for. -/
def State.crewBusy (s : State) (h : Here) : Bool :=
  match s.crewHere h with
  | none => false
  | some c => s.engineBusy h.core c.uid

/-! ### Collectives -/

/-- A collective that writes each lane's destination from the lanes as they stood at issue. -/
def State.collective (s : State) (f : Form) (k : Wave → Nat → Thread → Thread) : Res :=
  s.issueCrew f fun h ls => s.doneLen h (h.wave.updLanes ls (k h.wave)) f.len

/-- The source lane of XLANE (R214), computed exactly. -/
def xlaneSource (m : XMode) (l s : Nat) : Option Nat :=
  let j : Option Nat := match m with
    | .from => some s
    | .up => if s ≤ l then some (l - s) else none
    | .down => some (l + s)
    | .flip => some (l ^^^ s)
  match j with
  | some j => if j < 32 then some j else none
  | none => none

/-- XLANE (R214). -/
def execXlane (x : XlaneOp) (s : State) : Res :=
  let uses := (x.d.toNat, if x.w then 2 else 1) ::
    (Src.runW x.w x.a ++ Src.run 1 x.b ++ Src.runW x.w x.c)
  s.collective { len := lenOf x.im, g := x.g, uses := uses } fun w l t =>
    let fill := Src.wide x.w w x.im t x.c
    let r := match xlaneSource x.mode l (Src.int w x.im t x.b).toNat with
      | none => fill
      | some j =>
        match Table.get? w.lanes j with
        | some u => Src.wide x.w w x.im u x.a
        | none => fill
    t.setW x.w x.d.toNat r

/-- BCAST (R215). -/
def execBcast (x : BcastOp) (s : State) : Res :=
  s.issueCrew { len := lenOf x.im, g := x.g, uses := runs [x.a] } fun h ls =>
    match ls.head? with
    | none => s
    | some e =>
      let j := (Src.int h.wave x.im e.2 x.b).toNat % 32
      let v := match Table.get? h.wave.lanes j with
        | some u => Src.int h.wave x.im u x.a
        | none => 0
      s.doneLen h (h.wave.setReg x.wd.toNat v) (lenOf x.im)

/-- One combining step of REDX and SCANX (R216). -/
def redStep (op : RedOp) (a b : Word) : Word :=
  match op with
  | .iadd => a + b
  | .imin => if b.slt a then b else a
  | .imax => if a.slt b then b else a
  | .iminu => if b.ult a then b else a
  | .imaxu => if a.ult b then b else a
  | .and => a &&& b
  | .or => a ||| b
  | .xor => a ^^^ b
  | .fadd => fadd32 a b
  | .fmin => fmin32 a b
  | .fmax => fmax32 a b

/-- The identity of an operation (R216). -/
def redIdentity : RedOp → Word
  | .iadd => 0
  | .imin => 0x7FFFFFFF#32
  | .imax => 0x80000000#32
  | .iminu => 0xFFFFFFFF#32
  | .imaxu => 0
  | .and => 0xFFFFFFFF#32
  | .or => 0
  | .xor => 0
  | .fadd => 0
  | .fmin => inf32
  | .fmax => 0xFF800000#32

/-- One level of the tree: neighbours combine. -/
def redLevel (op : RedOp) : List Word → List Word
  | a :: b :: t => redStep op a b :: redLevel op t
  | l => l

/-- The fixed tree of five levels (R216). -/
def redTree (op : RedOp) (l : List Word) : Word :=
  listGet (redLevel op (redLevel op (redLevel op (redLevel op (redLevel op l))))) 0 0

/-- The operation is on FP32 values, so a short immediate is one (R172). -/
def floatRed : RedOp → Bool
  | .fadd => true
  | .fmin => true
  | .fmax => true
  | _ => false

/-- The values of source A in lane order. -/
def laneValues (op : RedOp) (w : Wave) (a : Src) : List Word :=
  w.lanes.map fun e => if floatRed op then Src.float w none e.2 a else Src.int w none e.2 a

/-- REDX (R216). -/
def execRedx (x : RedxOp) (s : State) : Res :=
  s.collective { len := 8, g := x.g, uses := (x.d.toNat, 1) :: runs [x.a] } fun w _ t =>
    t.setReg x.d.toNat (redTree x.op (laneValues x.op w x.a))

/-- The inclusive result of lane l: in ascending order from lane 0 (R217); a NaN is canonical. -/
def scanAt (op : RedOp) (l : List Word) (n : Nat) : Word :=
  match l.take (n + 1) with
  | [] => 0
  | y :: t =>
    let r := t.foldl (redStep op) y
    match op with
    | .fadd => if isNan32 r then nan32 else r
    | .fmin => if isNan32 r then nan32 else r
    | .fmax => if isNan32 r then nan32 else r
    | _ => r

/-- SCANX (R217). -/
def execScanx (x : RedxOp) (s : State) : Res :=
  s.collective { len := 8, g := x.g, uses := (x.d.toNat, 1) :: runs [x.a] } fun w l t =>
    let vs := laneValues x.op w x.a
    t.setReg x.d.toNat
      (if x.ex then (if l = 0 then redIdentity x.op else scanAt x.op vs (l - 1))
       else scanAt x.op vs l)

/-- The mask of the lanes that hold a property. -/
def laneMask (w : Wave) (f : Thread → Bool) : Word :=
  w.lanes.foldl (fun m e => if f e.2 then m ||| (1#32 <<< e.1) else m) 0

/-- BALLOT (R218). -/
def execBallot (x : BallotOp) (s : State) : Res :=
  s.collective { len := 8, g := x.g, uses := [(x.d.toNat, 1)] } fun w _ t =>
    t.setReg x.d.toNat (laneMask w fun u => u.pred x.pa.toNat != x.na)

/-- MATCH (R218). -/
def execMatchx (x : MatchOp) (s : State) : Res :=
  s.collective { len := 8, g := x.g, uses := (x.d.toNat, 1) :: Src.runW x.w x.a } fun w _ t =>
    let v := Src.wide x.w w none t x.a
    t.setReg x.d.toNat (laneMask w fun u => Src.wide x.w w none u x.a = v)

end Sys2Proof.Machine
end

