-- ==== Sys2Proof/Machine/Replay.lean ====
section
/-! DEFINITION. Record and replay (spec/20 R469, R470). -/

namespace Sys2Proof.Machine

/-- REPLAY of DBG_CTL (R454). -/
def DbgRegs.replay (d : DbgRegs) : Nat := (d.ctl.extractLsb' 15 2).toNat

/-- The address of event n of a cluster's part, if it lies within the part. -/
def State.eventAddr (s : State) (ctx cl n : Nat) : Option Nat :=
  let d := (s.ctx ctx).dbg
  let part := (d.recSize - 64) / 16
  let rank := cl - s.partOf ctx
  if 32 * (n + 1) ≤ part then some (d.recBase + 64 + rank * part + 32 * n) else none

/-- Counts an event of a cluster. -/
def State.countEvent (s : State) (ctx cl : Nat) : State :=
  s.updCtx ctx fun c =>
    { c with dbg := { c.dbg with recN := Table.put c.dbg.recN cl (Table.getD c.dbg.recN cl 0 + 1) } }

/-- The report of the first divergence of a context (R470): the header, DIVERGED, a class-9 record. -/
def State.reportDivergence (s : State) (ctx cl n : Nat) (expected found : Nat) : State :=
  let d := (s.ctx ctx).dbg
  let m1 := s.mem.agentWrite s.tick eventAgent d.recBase (bytesOf 8 s.tick ++ bytesOf 1 cl)
  let m2 := m1.agentWrite s.tick eventAgent (d.recBase + 16)
    (bytesOf 8 n ++ bytesOf 4 expected ++ bytesOf 4 found)
  let s1 := ({ s with mem := m2 }).updCluster cl fun c =>
    { c with dbg := { c.dbg with diverged := true } }
  (s1.updCtx ctx fun c => { c with dbg := { c.dbg with reported := true } }).trace ctx 9 0xFF 0xFF 0 0

/-- A divergence (R470): the context's first is reported. Replay mode 2 freezes the cluster, of a later divergence too
(DESIGN CHOICE, log 127); mode 3 ends checking and forcing in every cluster. -/
def State.diverge (s : State) (ctx cl n : Nat) (expected found : Nat) : State :=
  let d := (s.ctx ctx).dbg
  let s1 := if d.reported then s else s.reportDivergence ctx cl n expected found
  if d.replay = 2 then (s1.freeze cl 4 0 0 0 .none).traceAll cl 6
  else s1.updCtx ctx fun c => { c with dbg := { c.dbg with offReplay := true } }

/-- An event of a cluster (R469): recorded in mode 1, compared in modes 2 and 3. -/
def State.event (s : State) (ctx cl cls : Nat) (contents : List Nat) (value payload : Nat) : State :=
  let d := (s.ctx ctx).dbg
  let n := Table.getD d.recN cl 0
  let dig := (Config.eventDigest contents).toNat
  if d.replay = 0 then s
  else if d.replay = 1 then
    match s.eventAddr ctx cl n with
    | some a =>
      let m := s.mem.agentWrite s.tick eventAgent a (bytesOf 8 s.tick ++ bytesOf 8 cls ++
        bytesOf 4 dig ++ bytesOf 4 value ++ bytesOf 8 payload)
      ({ s with mem := m }).countEvent ctx cl
    | none => s.updCluster cl fun c => { c with dbg := { c.dbg with logFull := true } }
  else if d.offReplay then s
  else
    match s.eventAddr ctx cl n with
    | none => s
    | some a =>
      let c0 := s.mem.numD (a + 8) 1
      let d0 := s.mem.numD (a + 16) 4
      -- a part of which nothing more was recorded has ended
      if c0 = 0 then s
      else if c0 = cls && d0 = dig then s.countEvent ctx cl
      else (s.countEvent ctx cl).diverge ctx cl n d0 dig

/-- The payload of a class-4 event. -/
def inputPayload (pc kind lane : Nat) : Nat := pc + kind * 2 ^ 52 + lane * 2 ^ 56

/-- The outcome that replay forces on an input of a lane (R470): the next input of its cluster, or one further on. -/
def State.forced (s : State) (ctx cl pc kind lane : Nat) (further : Nat := 0) : Option Nat :=
  let d := (s.ctx ctx).dbg
  if d.replay < 2 || d.offReplay then none
  else
    match s.eventAddr ctx cl (Table.getD d.recN cl 0 + further) with
    | none => none
    | some a =>
      if s.mem.numD (a + 8) 1 = 4 && s.mem.numD (a + 24) 8 = inputPayload pc kind lane then
        some (s.mem.numD (a + 20) 4)
      else none

/-- A class-4 event: one input of one lane. -/
def State.input (s : State) (ctx cl pc kind lane value : Nat) : State :=
  s.event ctx cl 4 [pc, kind, lane, value] value (inputPayload pc kind lane)

end Sys2Proof.Machine
end

