-- ==== Sys2Proof/Machine/Access.lean ====
section
/-! DEFINITION. Memory accesses: the accesses of a thread instruction with
their checks in the order of spec/09 R239, what a load returns (spec/05 R129 to R131) and where a store
arrives (R120 to R122). -/

namespace Sys2Proof.Machine

/-! ### Addresses of a thread instruction -/

/-- Where an address leads (R112), or that it leads nowhere. -/
inductive Space where
  | global (va : Nat)
  | scratch (off : Int)
  | stash (off : Nat)
  | bad
deriving DecidableEq, Repr

/-- The space of a generic address (R112). -/
def spaceOf (a : Nat) : Space :=
  if a ≥ 2 ^ 52 then .bad
  else if a < windowBase then .global a
  else
    let o := a - windowBase
    if o < 2 ^ 20 then .scratch o else if o < 2 ^ 21 then .stash (o - 2 ^ 20) else .bad

/-- The address of the generic form (R238): a wrapping 64-bit sum. -/
def genericAddr (w : Wave) (im : Option Word) (t : Thread) (a b : Src) : Nat :=
  (Src.int64 w im t a + Src.int64 w im t b).toNat

/-- The offset of the scratch form (R238), computed exactly. -/
def scratchOff (w : Wave) (im : Option Word) (t : Thread) (a b : Src) : Int :=
  (Src.int w im t a).toNat + (Src.int w im t b).toInt

/-- One lane's access: the address its record would name, its space and size; `form` for the scratch,
tile and stash forms. -/
structure Req where
  lane : Nat
  t : Thread
  addr : Nat
  space : Space
  size : Nat
  form : Bool
deriving DecidableEq, Repr

/-- The 64-bit two's complement of an offset. -/
def offAddr (o : Int) : Nat := (o % 2 ^ 64).toNat

/-- The stash line of its block that an access reaches, and, through the stash window, its first byte in the core's
scratchpad. -/
structure StashHit where
  line : Nat
  win : Option Nat
deriving DecidableEq, Repr

/-- Where a checked access goes: a physical address, with the stash line that stands for it, or a byte
of the core's scratchpad. -/
inductive Spot where
  | mem (pa : Nat) (line : Option StashHit)
  | scr (byte : Nat)
deriving DecidableEq, Repr

/-- A lane's access with where it goes. -/
structure Acc where
  req : Req
  spot : Spot
deriving DecidableEq, Repr

/-- The scratch and stash sizes of a block (R92). -/
def State.sizes (s : State) (b : Block) : Nat × Nat :=
  match Table.get? s.grids b.kid with
  | some g => (g.lrec.s, g.lrec.t)
  | none => (0, 0)

/-- The block of a thread. -/
def State.blockOf (s : State) (t : Thread) : Option Block :=
  if t.ray.isSome then none else Table.get? s.blocks t.blockUid

/-- The stash line (counted in the stash part) and the mapped address of a stash offset (R103). -/
def Block.stashVa (b : Block) (off : Nat) : Option (Nat × Nat) :=
  (b.st.find? fun e => e.2.line ≤ off / 128 && off / 128 ≤ e.2.line + e.2.count).map fun e =>
    (off / 128, e.2.base + (off / 128 - e.2.line) * 128 + off % 128)

/-- The stash line that maps a global address (R103). -/
def Block.mappedLine (b : Block) (va : Nat) : Option Nat :=
  (b.st.find? fun e => e.2.base ≤ va && va < e.2.base + 128 * (e.2.count + 1)).map fun e =>
    e.2.line + (va - e.2.base) / 128

/-- A request reaches a window or form that only a compute thread's block has. -/
def Req.inBounds (s : State) (r : Req) : Bool :=
  match r.space with
  | .global _ => true
  | .bad => true
  | .scratch o =>
    match s.blockOf r.t with
    | some b => 0 ≤ o && o + r.size ≤ (s.sizes b).1
    | none => false
  | .stash o =>
    match s.blockOf r.t with
    | some b => o + r.size ≤ (s.sizes b).2 && (b.stashVa o).isSome
    | none => false

/-- The request is aligned to its size. -/
def Req.aligned (r : Req) : Bool :=
  match r.space with
  | .scratch o => o % r.size = 0
  | _ => r.addr % r.size = 0

/-- The watchpoint a request hits (R456). -/
def Req.watch (c : Ctx) (but : Skip) (r : Req) (reads writes : Bool) : Option Nat :=
  let va := match r.space with
    | .scratch o => windowBase + o.toNat
    | _ => r.addr
  (natsFrom 0 4).find? fun k =>
    let x := listGet c.dbg.wp k 0
    let kind := (x.extractLsb' 61 2).toNat
    let size := 2 ^ (max 2 (min 20 (x.extractLsb' 56 5).toNat))
    let base := x.toNat % 2 ^ 52 / size * size
    !but.covers (.watch k) && x.getLsbD 63 && ((kind % 2 = 1 && reads) || (kind / 2 = 1 && writes)) &&
      va < base + size && base < va + r.size

/-- The scratchpad lines of n bytes at a byte of a core. -/
def linesOf (byte n : Nat) : List Nat :=
  natsFrom (byte / 128) ((byte + n - 1) / 128 - byte / 128 + 1)

/-! ### Full/empty bits (R97) -/

/-- Whether a line was empty when this cc began. -/
def State.emptyBefore (s : State) (core line : Nat) : Bool :=
  match s.cc.lines.find? fun e => e.core = core && e.line = line with
  | some e => e.was
  | none => line ∈ (s.core core).empty

/-- An event of a row of R97's table makes lines empty or full. Of two events in one cc the later row decides; a
write that is issued after another has completed leaves the line with a write outstanding. -/
def State.setLines (s : State) (core row : Nat) (empty : Bool) (ls : List Nat) : State :=
  let held (l : Nat) : Bool :=
    s.cc.lines.any fun e => e.core = core && e.line = l && row < e.row && !(row = 2 && e.row = 3)
  let go := (ls.filter fun l => !held l).eraseDups
  let ev : List LineEvent := ls.eraseDups.map fun l =>
    { core := core, line := l, row := row, was := s.emptyBefore core l }
  ({ s with cc := { s.cc with lines := s.cc.lines ++ ev } }).updCore core fun k => { k with
    empty := if empty then k.empty ++ go.filter fun l => !(l ∈ k.empty)
      else k.empty.filter fun l => !(l ∈ go) }

/-- Where an access through the stash window goes (R103, R112): its line's place, with no translation. A line that is
absent has no place yet, and the access waits for its fill. -/
def Block.windowSpot (b : Block) (t off line : Nat) : Spot :=
  let pa := ((b.lines.find? fun y => y.line = line).map fun y => y.pa + off % 128).getD 0
  .mem pa (some { line := line, win := some (b.scratch + t + off) })

/-- Translates the requests in lane order; the first that fails ends the instruction (R239 step 5). -/
def translateAll : List Req → State → Here → Access → Except State (List Acc) × State
  | [], s, _, _ => (.ok [], s)
  | r :: t, s, h, kind =>
    let go (spot : Spot) (s : State) : Except State (List Acc) × State :=
      let u := translateAll t s h kind
      match u.1 with
      | .ok l => (.ok ({ req := r, spot := spot } :: l), u.2)
      | .error e => (.error e, u.2)
    let global (va : Nat) (line : Option Nat) : Except State (List Acc) × State :=
      let u := s.translate h.via h.wave.ctx va kind
      match u.1 with
      | .ok pa => go (.mem pa (line.map fun n => { line := n, win := none })) u.2
      | .absent l =>
        let x : PageMiss := { ctx := h.wave.ctx, va := va, level := l, kind := kind }
        (.error (u.2.parkPage h r.lane x 0), u.2)
      | .denied c =>
        (.error (u.2.raise h { code := 5, cause := c, lane := some r.lane, addr := va }), u.2)
      | .ecc l => (.error (u.2.raise h { code := 0x0E, lane := some r.lane, addr := l }), u.2)
    match r.space with
    | .bad => (.error (s.raise h { code := 5, lane := some r.lane, addr := r.addr }), s)
    | .scratch o =>
      match s.blockOf r.t with
      | some b => go (.scr (b.scratch + o.toNat)) s
      | none => (.error (s.raise h { code := 6, lane := some r.lane, addr := r.addr }), s)
    | .stash o =>
      match (s.blockOf r.t).bind fun b => (b.stashVa o).map fun e => b.windowSpot (s.sizes b).1 o e.1 with
      | some spot => go spot s
      | none => (.error (s.raise h { code := 6, lane := some r.lane, addr := r.addr }), s)
    | .global va =>
      match h.hand with
      | some _ =>
        if s.paValid va then go (.mem va none) s
        else (.error (s.raise h { code := 5, cause := 4, lane := some r.lane, addr := va }), s)
      | none => global va ((s.blockOf r.t).bind fun b => b.mappedLine va)

/-- Starts the fill of an absent stash line (R103): one engine write of its 128 bytes. -/
def State.startFill (s : State) (h : Here) (t : Thread) (b : Block) (line : Nat) : State :=
  let st := (s.sizes b).1
  let byte := b.scratch + st + 128 * line
  match b.stashVa (128 * line) with
  | none => s
  | some (_, va) =>
    let c : Copy :=
      { kind := .fill, uid := t.uid, episode := t.episode, batch := 0, blockUid := b.uid,
        kid := b.kid, ctx := h.wave.ctx, pc := h.wave.pc, id := s.uids, turn := s.uids,
        index := t.index, tidx := t.tidx, lane := none, stage := none, 
        runs := [{ idx := 0, g := va, inb := true, dense := byte, len := 128, data := none, done := false }],
        stuck := none, cancelled := false }
    (({ s with uids := s.uids + 1 }).updCore b.core fun k => { k with
      copies := Table.put k.copies (Table.nextKey k.copies) c }).setLines b.core 2 true [byte / 128]

/-- The absent stash lines that the accesses touch, with their threads. -/
def absentLines (s : State) (l : List Acc) : List (Thread × Block × Nat) :=
  (l.filterMap fun x =>
    match x.spot with
    | .mem _ (some n) =>
      match s.blockOf x.req.t with
      | some b => if b.lines.any fun y => y.line = n.line then none else some (x.req.t, b, n.line)
      | none => none
    | _ => none)

/-- A fill of the line is in progress. -/
def State.filling (s : State) (b : Block) (line : Nat) : Bool :=
  let byte := b.scratch + (s.sizes b).1 + 128 * line
  (s.core b.core).copies.any fun e =>
    e.2.kind = .fill && e.2.blockUid = b.uid && e.2.runs.any fun r => r.dense = byte && !r.done

/-- The memory-side cache records a present stash line: a commit of its block's gang has made bytes of it
visible at D since its fill (R104). -/
def State.recorded (s : State) (b : Block) (y : StashLine) : Bool :=
  s.mem.log.any fun x => y.pos < x.pos && x.party = .gang b.gangUid &&
    x.bytes.any fun w => w.addr / 128 = y.pa / 128

/-- An access would be served from a stash line of a frozen cluster, not its own (R104, R457). -/
def State.stashFrozen (s : State) (h : Here) (a : Acc) : Bool :=
  match a.spot with
  | .scr _ => false
  | .mem pa _ => s.blocks.any fun e =>
      e.2.placed && clusterOf e.2.core != clusterOf h.core &&
      (s.cluster (clusterOf e.2.core)).dbg.frozen &&
      e.2.lines.any fun y => y.pa / 128 = pa / 128 && s.recorded e.2 y

/-- The memory requests that a core has outstanding (R421): the lanes of its parked instructions, those of its
operations in flight, its placed stores that have not arrived, and its copies that wait. -/
def Core.requests (k : Core) : Nat :=
  (k.waves.foldl (fun n e => n + (match e.2.park with
    | .page _ _ _ => e.2.active.length
    | _ => 0)) 0) +
  (k.ops.foldl (fun n e => n + e.2.uids.length) 0) + k.stores.length + (k.copies.filter fun e => e.2.stuck.isSome).length

/-- The core of a memory instruction holds all the requests it can (R421). -/
def State.requestsFull (s : State) (h : Here) : Bool := h.hand.isNone && (s.core h.core).requests ≥ 8192

/-- An instruction that is not issued leaves its wave, which is not ready before what it waits for (R98, R101,
R421). -/
def State.notReady (s : State) (h : Here) (p : Park) : State := s.putWave h { h.wave with park := p }

/-- An instruction needs the lane port while another is between its passes (R94). -/
def State.portTaken (s : State) (h : Here) (rs : List Req) : Bool :=
  h.hand.isNone && (s.core h.core).port.isSome && rs.any fun r => match r.space with
    | .scratch _ => true
    | .stash _ => true
    | .global _ => false
    | .bad => false

/-- The places in the commit log that hold bytes which accesses would be served from (R118). -/
def State.logServed (s : State) (h : Here) (l : List Acc) : List Nat :=
  let places := s.mem.logEntries h.wave.kid
  if h.hand.isSome || places.isEmpty then []
  else
    (l.flatMap fun x => match x.spot with
      | .scr _ => []
      | .mem pa _ => (natsFrom pa x.req.size).filterMap fun a =>
          (s.mem.chainWhere (s.linksOf h x.req.t) .c a).bind fun e => places.idxOf? e).eraseDups

/-- The bytes of memory that an access reaches. -/
def Acc.pas (a : Acc) : List Nat :=
  match a.spot with
  | .mem pa _ => natsFrom pa a.req.size
  | .scr _ => []

/-- An access of a thread to bytes of an earlier placed store of its own waits for the store (R132). -/
def State.ownLate (s : State) (h : Here) (l : List Acc) : Bool :=
  h.hand.isNone && (s.core h.core).stores.any fun y => y.slot = h.slot &&
    l.any fun a => a.req.t.uid = y.uid && y.bytes.any fun b => b.addr ∈ a.pas

/-- Checks and translates the accesses of a thread instruction (R239): what they reach, or the state in
which the instruction has faulted, parked or not yet issued. -/
def State.prepare (s : State) (h : Here) (rs : List Req) (kind : Access) (reads : Bool) :
    Except State (List Acc) × State :=
  if s.requestsFull h then (.error (s.notReady h .requests), s)
  else if s.portTaken h rs then (.error s, s) else
  let fault (code : Nat) (r : Req) : Except State (List Acc) × State :=
    (.error (s.raise h { code := code, lane := some r.lane, addr := r.addr }), s)
  let c := s.ctx h.wave.ctx
  let point (r : Req) : Option Nat := r.watch c h.wave.skipHit reads (kind = .write)
  let watched := if h.hand.isSome then none else rs.find? fun r => (point r).isSome
  match watched with
  | some r =>
    let k := (point r).getD 0
    (.error (s.hit h (.watch k) ((rs.head?.map Req.lane).getD r.lane) r.lane (0x200 + k) r.addr), s)
  | none =>
    match rs.find? fun r => r.form && r.t.ray.isSome with
    | some r => fault 6 r
    | none =>
      match rs.find? fun r => r.space = .bad with
      | some r => fault 5 r
      | none =>
        match rs.find? fun r => !r.aligned with
        | some r => fault 3 r
        | none =>
          match rs.find? fun r => !r.inBounds s with
          | some r => fault 6 r
          | none =>
            let u := translateAll rs s h kind
            match u.1 with
            | .error e => (.error e, u.2)
            | .ok l =>
              match absentLines u.2 l with
              | [] =>
                if l.any fun a => u.2.stashFrozen h a then (.error u.2, u.2)
                else if u.2.ownLate h l then
                  (.error (u.2.landStores h.core h.slot (l.map fun a => a.req.t.uid)), u.2)
                else
                  let lm := if reads then (u.2.logServed h l).map fun n =>
                    (u.2.logBase h.wave.kid + 128 * n, Access.read) else []
                  match logWalk h.via h.wave.ctx lm u.2 with
                  | .ok s1 => (.ok l, s1)
                  | .error (e, k) => (.error (u.2.logFault h e k), u.2)
              | ab =>
                -- the first access to an absent line starts its fill; the wave waits (R98, R103)
                let s' := ab.foldl (fun s e =>
                  if s.filling e.2.1 e.2.2 then s else s.startFill h e.1 e.2.1 e.2.2) u.2
                let line (e : Thread × Block × Nat) : Nat := (e.2.1.scratch + (s.sizes e.2.1).1) / 128 + e.2.2
                (.error (s'.notReady h (.lines (ab.map line))), s')

/-- The scratchpad lines that accesses read and that are empty. -/
def State.emptyLines (s : State) (h : Here) (l : List Acc) : List Nat :=
  l.flatMap fun x =>
    match x.spot with
    | .scr b => (linesOf b x.req.size).filter fun n => n ∈ (s.core h.core).empty
    | .mem _ _ => []

/-- A scratchpad read meets an empty line, so the instruction does not issue (R98). -/
def State.meetsEmpty (s : State) (h : Here) (l : List Acc) : Bool := !(s.emptyLines h l).isEmpty

/-- The wave is not ready until the lines fill. -/
def State.awaitLines (s : State) (h : Here) (l : List Acc) : State := s.notReady h (.lines (s.emptyLines h l))

/-! ### Loads -/

/-- A byte with the releases it carries. -/
structure ByteRead where
  val : Byte
  marks : List Mark
deriving DecidableEq, Repr

/-- How a load is served at D. -/
inductive LoadKind where
  | plain
  | strong (x : Level)
deriving DecidableEq, Repr

/-- A page that a mapping of a block covers translates to the page of the byte, and the byte lies in the mapping. -/
def State.mapsByte (s : State) (b : Block) (e : StashEntry) (a : Nat) : Bool :=
  let ctx := ((Table.get? s.grids b.kid).map Grid.ctx).getD 0
  let last := e.base + 128 * e.count
  let via : Via := { core := some b.core, cl := clusterOf b.core }
  (natsFrom (e.base / 4096) (last / 4096 - e.base / 4096 + 1)).any fun p =>
    let va := 4096 * p + a % 4096
    e.base ≤ va && va < last + 128 && (s.routes via ctx (4096 * p) .read).any fun r =>
      match r.gives.1 with
      | .ok pa => pa / 4096 = a / 4096
      | _ => false

/-- The byte is stash-mapped by some block, its line present or not (R104, R122): a load at D returns the latest
value. -/
def State.stashStands (s : State) (a : Nat) : Bool :=
  s.blocks.any fun e =>
    (e.2.lines.any fun y => y.pa / 128 = a / 128) || e.2.st.any fun m => s.mapsByte e.2 m.2 a

/-- The bytes of an access that its thread's chain does not hold. -/
def State.beyondChain (s : State) (h : Here) (x : Acc) : List Nat :=
  match x.spot with
  | .scr _ => []
  | .mem pa _ =>
    if h.hand.isSome then natsFrom pa x.req.size
    else (natsFrom pa x.req.size).filter fun a => (s.mem.chainFind (s.linksOf h x.req.t) .c a).isNone

/-- The bytes that a plain load reads at D by R130: those that neither the chain nor a stash line serves. -/
def State.plainAddrs (s : State) (h : Here) (k : LoadKind) (x : Acc) : List Nat :=
  match k, x.spot with
  | .plain, .mem _ none =>
    if h.hand.isSome then [] else (s.beyondChain h x).filter fun a => !s.stashStands a
  | _, _ => []

/-- What a lane may be given for the bytes that its plain load reads at D (R130). -/
def State.reader (s : State) (h : Here) (k : LoadKind) (x : Acc) : Reader :=
  (fun a => s.mem.choices s.tick x.req.t.uid (s.dataFloor h) x.req.t.view a, s.plainAddrs h k x)

/-- The bytes a lane's access reads: its chain first, then D (R129 to R131), where `got` is what the instruction reads
for its plain loads. A stash line of the thread's own block serves every scope (R103). -/
def State.readAcc (s : State) (h : Here) (k : LoadKind) (got : List (Nat × Choice)) (x : Acc) : List ByteRead :=
  match x.spot with
  | .scr b => (natsFrom b x.req.size).map fun a =>
      { val := cellGet (s.core h.core).scratch a, marks := Table.getD (s.core h.core).smarks a [] }
  | .mem pa line =>
    let plain := s.plainAddrs h k x
    let d (a : Nat) (y : Byte) : ByteRead := { val := y, marks := (lastOf s.mem.log a).2 }
    let one (a : Nat) : ByteRead :=
      match h.hand with
      | some _ => d a (s.mem.atD a)
      | none =>
        match s.mem.chainFind (s.linksOf h x.req.t) .c a with
        | some y => { val := y.val, marks := y.marks }
        | none =>
          if k = .strong .s && line.isNone && isRemote a then d a (s.mem.atHome a)
          else
            match got.find? fun e => e.1 = a && a ∈ plain with
            | some e => { val := e.2.val, marks := e.2.marks }
            | none => d a (s.mem.atD a)
    (natsFrom pa x.req.size).map one

/-- A poisoned line that a load would be served from (R434). -/
def poisonHit (s : State) (h : Here) (l : List Acc) : Option (Acc × Nat) :=
  (l.findSome? fun x =>
    match x.spot with
    | .mem pa _ =>
      ((natsFrom pa x.req.size).find? fun a =>
        s.mem.poisoned a 1 &&
        (h.hand.isSome || (s.mem.chainFind (s.linksOf h x.req.t) .c a).isNone)).map fun a =>
          (x, a / 128 * 128)
    | .scr _ => none)

/-- A strong load's view: it rises to each value read at D, and, where that came with a commit step, to the whole
step (R116, R131). The home of a remote byte that D holds modified may be older. -/
def Memory.strongView (m : Memory) (x : Level) (as : List Nat) (v : View) : View :=
  as.foldl (fun v a =>
    if x = .s && (Table.get? m.dirty a).isSome then v
    else
      let v1 := v.raise a (lastOf m.log a).1
      match stepAt m.log a with
      | some y => v1.raiseAll y
      | none => v1) v

/-- A handler's loads are strong loads at D (R377). -/
def Here.loadKind (h : Here) (k : LoadKind) : LoadKind := if h.hand.isSome then .strong .d else k

/-- A thread after it has read bytes: it has seen the releases they carry; a strong load raises its
view and acquires (R131, R134). -/
def afterRead (s : State) (h : Here) (k : LoadKind) (t : Thread) (x : Acc) (bs : List ByteRead) :
    Thread :=
  let seen := bs.foldl (fun l b => addMarks l b.marks) t.seen
  match k with
  | .plain => { t with seen := seen }
  | .strong y =>
    let v := s.mem.strongView y (s.beyondChain h x) t.view
    { t with seen := seen, view := acquireView v (s.linksOf h t).chain y seen }

/-- The reads of an instruction in lane order: each byte at D is read once (R240). -/
def readAll (l : List Acc) (s : State) (h : Here) (k : LoadKind) : List (Acc × List ByteRead) × State :=
  let r := s.drawShared ((l.map fun x => s.reader h k x).filter fun q => !q.2.isEmpty)
  (l.map fun x => (x, s.readAcc h k r.1 x), r.2)

/-- The requests of an instruction that reach the memory-side cache (R110): whether a copy in the cluster's data ways
serves a plain load is open. The data ways hold the lines that plain loads have read (R106). -/
def reachAccs (k : LoadKind) : List Acc → State → Here → State
  | [], s, _ => s
  | x :: t, s, h =>
    match x.spot, x.req.space with
    | .mem pa _, .global va =>
      if h.hand.isSome || (s.beyondChain h x).isEmpty then reachAccs k t s h
      else
        let s1 := if k = .plain then s.putData (clusterOf h.core) pa else s
        if (s.rangeOf h.wave.ctx va).isNone then reachAccs k t s1 h
        else
          let r := if k = .plain then s1.pick 2 else (0, s1)
          reachAccs k t (if r.1 = 0 then r.2.reach (.loadStore h.core) h.wave.ctx va pa else r.2) h
    | _, _ => reachAccs k t s h

/-- Performs the loads of an instruction: each lane's bytes, and the wave with the threads after them. -/
def State.loadAll (s : State) (h : Here) (k' : LoadKind) (l : List Acc) :
    List (Acc × List Byte) × Wave × State :=
  let k := h.loadKind k'
  let u := readAll l s h k
  let w := u.1.foldl (fun w e =>
    w.updLanes [(e.1.req.lane, e.1.req.t)] fun _ t => afterRead s h k t e.1 e.2) h.wave
  (u.1.map fun e => (e.1, e.2.map ByteRead.val), w, reachAccs k l u.2 h)

/-! ### Plain loads that are performed later (R130, R132) -/

/-- What a plain load leaves to be read at D: nothing where its chain and the stash serve
every byte. -/
def State.lateRead (s : State) (h : Here) (d : Nat) (z : Size) (x : Acc) : Option LateRead :=
  let as := s.plainAddrs h .plain x
  match x.spot with
  | .scr _ => none
  | .mem pa _ =>
    if as.isEmpty then none
    else some
      { uid := x.req.t.uid, tick := s.tick, pos := s.mem.pos, floor := s.dataFloor h, view := x.req.t.view
        toW := false, d := d, z := z
        bytes := (natsFrom pa x.req.size).map fun a =>
          (a, if a ∈ as then none
            else some (((s.mem.chainFind (s.linksOf h x.req.t) .c a).map BufByte.val).getD (s.mem.atD a))) }

/-- The loads of an instruction that are performed after it has issued (R132): plain loads under a flag, which complete
later; whether one without a flag does is open. -/
def State.lateReads (s : State) (h : Here) (k : LoadKind) (sel : FlagSel) (d : Nat) (z : Size) (accs : List Acc) :
    List LateRead × State :=
  let l := accs.filterMap (s.lateRead h d z)
  if h.loadKind k != .plain || l.isEmpty then ([], s)
  else if (h.wave.flagOf sel).isSome then (l, s)
  else
    let r := s.pick 2
    (if r.1 = 1 then l else [], r.2)

/-! ### Stores -/

/-- One lane's store; a store through the stash window is placed at B (R247). -/
structure Put where
  hit : Acc
  bytes : List Byte
  window : Bool := false
deriving DecidableEq, Repr

/-- The byte addresses a store covers, in memory. -/
def Put.pas (p : Put) : List Nat :=
  match p.hit.spot with
  | .mem pa _ => natsFrom pa p.bytes.length
  | .scr _ => []

/-- The party whose buffer a store of a lane at a level arrives in. -/
def partyAt (k : Links) (x : Level) : Party :=
  match k.level x, k.b with
  | .c, _ => k.c.party
  | .b, some b => b.party
  | .b, none => k.c.party
  | .g, _ => k.g.party
  | .d, _ => .agent 0
  | .s, _ => .agent 0

/-- The level a lane's store arrives at. -/
def Put.level (p : Put) (x : Level) : Level := if p.window then .b else x

/-- The stores of other lanes that cover a byte in the same buffer. -/
def Put.meeting (p : Put) (s : State) (h : Here) (x : Level) (others : List Put) (a : Nat) : List Put :=
  let at' (q : Put) : Party := partyAt (s.linksOf h q.hit.req.t) (q.level x)
  others.filter fun q => at' q = at' p && a ∈ q.pas

/-- Bytes stored into a core's scratchpad, with the releases that they carry. -/
def Core.putScratch (k : Core) (b : Nat) (bs : List Byte) (marks : List Mark) : Core :=
  { k with
    scratch := cellSets k.scratch b bs
    smarks := (natsFrom b bs.length).foldl
      (fun t a =>
        let m := addMarks marks (Table.getD t a [])
        if m.isEmpty then t else Table.put t a m) k.smarks }

/-- One lane's store arrives (R120, R121); bytes that a higher lane also writes in the same buffer are
left to it, and only the storer's own lower copies take this lane's value. What arrives carries also the stores of
the lower lanes that it hides (R130, R132). A handler's store is placed at D, whatever scope it names (R377). -/
def storeOne (s : State) (h : Here) (x : Level) (lower higher : List Put) (p : Put) : Except Level State :=
  match p.hit.spot with
  | .scr b => .ok (s.updCore h.core fun k => k.putScratch b p.bytes p.hit.req.t.rel)
  | .mem pa _ =>
    let t := p.hit.req.t
    let y := p.level x
    let new (e : Nat × Byte) : NewByte :=
      let low := p.meeting s h x lower e.1
      { addr := e.1, val := e.2, who := addWho [t.uid] (low.map fun q => q.hit.req.t.uid)
        marks := low.foldl (fun m q => addMarks m q.hit.req.t.rel) t.rel }
    let bs : List NewByte := ((natsFrom pa p.bytes.length).zip p.bytes).map new
    match h.hand with
    | some _ => .ok { s with mem := s.mem.arriveD s.tick (.thread t.uid) bs }
    | none =>
      let k := s.linksOf h t
      let hidden (b : NewByte) : Bool := !(p.meeting s h x higher b.addr).isEmpty
      let mine := bs.filter fun b => !hidden b
      let m0 := (bs.filter hidden).foldl (fun m b => m.fixLower (k.below y)
        { addr := b.addr, val := b.val, who := [t.uid], marks := t.rel }) s.mem
      if mine.isEmpty then .ok { s with mem := m0 }
      else
        match m0.store s.tick k y mine with
        | .ok m => .ok { s with mem := m }
        | .error e => .error e

/-- The stores of an instruction after some have been made. -/
def storeGo : List Put → List Put → State → Here → Level → Except Level State
  | _, [], s, _, _ => .ok s
  | done, p :: t, s, h, x =>
    match storeOne s h x done t p with
    | .ok s' => storeGo (done ++ [p]) t s' h x
    | .error e => .error e

/-- The stores of an instruction in ascending lane order; the highest lane's value stands. -/
def storeAll (l : List Put) (s : State) (h : Here) (x : Level) : Except Level State := storeGo [] l s h x

end Sys2Proof.Machine
end

