-- ==== Sys2Proof/Machine/Scratch.lean ====
section
/-! DEFINITION. Scratchpad lines, tiles and their states (spec/04 R97 to R101). -/

namespace Sys2Proof.Machine

/-- The scratchpad lines a copy still writes (R97): those of its runs that are not done. -/
def Copy.writing (c : Copy) : List Nat :=
  match c.kind with
  | .tileIn => (c.runs.filter fun r => !r.done).flatMap fun r => linesOf r.dense r.len
  | .fill => (c.runs.filter fun r => !r.done).flatMap fun r => linesOf r.dense r.len
  | _ => []

/-- The scratchpad lines a copy reads until it completes (R100). -/
def Copy.reading (c : Copy) : List Nat :=
  match c.kind with
  | .tileOut => c.runs.flatMap fun r => linesOf r.dense r.len
  | _ => []

/-- Copies that are not held by a pre-emption, a rotation or a spill (R279, R439). -/
def Core.copiesGoing (k : Core) : List Copy := (k.copies.map Prod.snd).filter fun c => !c.cancelled

/-- Lines with an engine write outstanding. -/
def Core.writingLines (k : Core) : List Nat :=
  (k.copiesGoing.flatMap Copy.writing) ++
  k.ops.flatMap fun e => match e.2.eng with
    | some o => o.wlines
    | none => []

/-- Lines pinned by an engine read. -/
def Core.pinnedLines (k : Core) : List Nat :=
  (k.copiesGoing.flatMap Copy.reading) ++
  k.ops.flatMap fun e => match e.2.eng with
    | some o => o.lines
    | none => []

/-- Lines with an engine write outstanding or cancelled: none of them becomes full (R97). -/
def Core.unwritten (k : Core) : List Nat :=
  k.writingLines ++ ((k.copies.filter fun e => e.2.cancelled).flatMap fun e => e.2.writing)

/-- The state of a valid tile (R100). -/
inductive TileState where
  | empty | filling | ready | draining
deriving DecidableEq, Repr

/-- The core lines of a tile of a block. -/
def Block.tileLines (b : Block) (e : TileEntry) : List Nat :=
  natsFrom (b.scratch / 128 + e.base) (e.count + 1)

/-- The state of a tile, the first condition that holds (R100). -/
def State.tileState (s : State) (b : Block) (e : TileEntry) : TileState :=
  let k := s.core b.core
  let ls := b.tileLines e
  if ls.any fun l => l ∈ k.writingLines then .filling
  else if ls.any fun l => l ∈ k.pinnedLines then .draining
  else if ls.any fun l => l ∈ k.empty then .empty
  else .ready

/-- A tile entry a block may name (R101): within its tile count, and valid. -/
def State.tile? (s : State) (b : Block) (n : Nat) : Option TileEntry :=
  let count := ((Table.get? s.grids b.kid).map fun g => g.lrec.tiles).getD 0
  if n < count then Table.get? b.tl n else none

/-- A write to some lines has completed: those with no write outstanding become full (R97). -/
def State.fillLines (s : State) (core : Nat) (ls : List Nat) : State :=
  s.setLines core 3 false (ls.filter fun l => !(l ∈ (s.core core).unwritten))

/-- The blocks that lanes stand in, each once. -/
def State.blocksHere (s : State) (ls : Table Thread) : List Block := (ls.filterMap fun e => s.blockOf e.2).eraseDups

/-- The block of a wave's first lane; nothing for rays and handlers. -/
def State.blockHere (s : State) (ls : Table Thread) : Option Block :=
  match ls.head? with
  | some e => s.blockOf e.2
  | none => none

end Sys2Proof.Machine
end

