-- ==== Sys2Proof/Machine/Port.lean ====
section
/-! DEFINITION. The lane port of the scratchpad and its passes (spec/04 R94 to R96; spec/09 R245), with what a lane of
an atomic does (spec/09 R251 to R254; spec/05 R138 to R140). -/

namespace Sys2Proof.Machine

/-! ### Store data (R237) -/

/-- The bytes a store of a size takes from source C (R237). -/
def storeBytes (z : Size) (w : Wave) (im : Option Word) (t : Thread) (c : Src) : List Byte :=
  match z with
  | .w128 =>
    match c with
    | .w n => (natsFrom n.toNat 4).flatMap fun i => bytesOf 4 (w.reg i).toNat
    | .v n => (natsFrom n.toNat 4).flatMap fun i => bytesOf 4 (t.reg i).toNat
    | _ => bytesOf 16 0
  | .w64 => bytesOf 8 (Src.int64 w im t c).toNat
  | z => bytesOf (sizeBytes z) (Src.int w im t c).toNat

/-! ### The lanes of an atomic -/

/-- Op(m, x) on words of n bits (R251). -/
def atomOp (op : AtomOp) (n : Nat) (m x : Nat) : Nat :=
  let sg (v : Nat) : Int := if v ≥ 2 ^ (n - 1) then (v : Int) - 2 ^ n else v
  match op with
  | .add => (m + x) % 2 ^ n
  | .min => if sg x < sg m then x else m
  | .max => if sg m < sg x then x else m
  | .minu => min m x
  | .maxu => max m x
  | .and => m &&& x
  | .or => m ||| x
  | .xor => m ^^^ x
  | .xchg => x
  | .cas => m
  | .fadd => (fadd32 (BitVec.ofNat 32 m) (BitVec.ofNat 32 x)).toNat
  | .fmax => (fmax32 (BitVec.ofNat 32 m) (BitVec.ofNat 32 x)).toNat

/-- What an atomic makes of the value m, from a lane's operands: nothing where a compare-and-swap fails (R253).
AMAXSWP, which has no operation, writes +0.0 (R254). -/
def atomApply (op : Option AtomOp) (wide : Bool) (data : List Byte) (m : Nat) : Option Nat :=
  match op with
  | none => some 0
  | some .cas =>
    let n := if wide then 8 else 4
    if m = natOf (data.take n) then some (natOf (data.drop n)) else none
  | some y => some (atomOp y (if wide then 64 else 32) m (natOf data))

/-- The operands of a lane (R251, R253): source C, and for a compare-and-swap the comparand before the new value. -/
def atomData (op : AtomOp) (wide : Bool) (w : Wave) (im : Option Word) (c : Src) (t : Thread) : List Byte :=
  match op with
  | .cas =>
    let r := match c with
      | .v i => i.toNat
      | _ => 0
    if wide then bytesOf 8 (t.pair r).toNat ++ bytesOf 8 (t.pair (r + 2)).toNat
    else bytesOf 4 (t.reg r).toNat ++ bytesOf 4 (t.reg (r + 1)).toNat
  | .fadd => bytesOf 4 (Src.float w im t c).toNat
  | .fmax => bytesOf 4 (Src.float w im t c).toNat
  | _ => if wide then bytesOf 8 (Src.int64 w im t c).toNat else bytesOf 4 (Src.int w im t c).toNat

/-- What one lane does to the value. -/
abbrev AtomStep := Thread → Nat → Option Nat

/-- The step of ATOM and RED. -/
def AtomOp.step (op : AtomOp) (w : Wave) (im : Option Word) (wide : Bool) (c : Src) : AtomStep :=
  fun t m => atomApply (some op) wide (atomData op wide w im c t) m

/-- The current value of a word at a scope's level (R138), with the releases it carries. -/
def atomRead (s : State) (h : Here) (x : Level) (a : Acc) : List ByteRead :=
  match a.spot with
  | .scr b => (natsFrom b a.req.size).map fun i =>
      { val := cellGet (s.core h.core).scratch i, marks := Table.getD (s.core h.core).smarks i [] }
  | .mem pa _ => (natsFrom pa a.req.size).map fun i =>
      match h.hand with
      | some _ => { val := s.mem.atD i, marks := (lastOf s.mem.log i).2 }
      | none =>
        let r := s.mem.latest (s.linksOf h a.req.t) x i
        { val := r.1, marks := r.2 }

/-- One lane's turn: its arrival, the value before it, and its thread after it. -/
def atomLane (s : State) (h : Here) (x : Level) (k : AtomStep) (a : Acc) :
    Except Level (State × Nat × List ByteRead × Bool) :=
  let bs := atomRead s h x a
  let m := natOf (bs.map ByteRead.val)
  match k a.req.t m with
  | none => .ok (s, m, bs, false)
  | some y =>
    match storeOne s h x [] [] { hit := a, bytes := bytesOf a.req.size y } with
    | .error e => .error e
    | .ok s' => .ok (s', m, bs, true)

/-- The result of the lanes' turns. -/
structure AtomOut where
  s : State
  olds : List (Acc × Nat)
  reads : List (Acc × List ByteRead)
  wrote : List Acc

/-- The lanes in ascending order: equal addresses take consecutive positions (R138, R252). -/
def atomLanes : List Acc → State → Here → Level → AtomStep → Except Level AtomOut
  | [], s, _, _, _ => .ok { s := s, olds := [], reads := [], wrote := [] }
  | a :: t, s, h, x, k =>
    match atomLane s h x k a with
    | .error e => .error e
    | .ok (s', m, bs, w) =>
      match atomLanes t s' h x k with
      | .error e => .error e
      | .ok r => .ok { r with
          olds := (a, m) :: r.olds, reads := (a, bs) :: r.reads,
          wrote := if w then a :: r.wrote else r.wrote }

/-- The final value stands in the lower copies of every lane that wrote (R121, R252). -/
def settleCopies (s : State) (h : Here) (x : Level) (l : List Acc) : State :=
  match h.hand with
  | some _ => s
  | none =>
    l.foldl (fun s a =>
      match a.spot with
      | .scr _ => s
      | .mem pa _ =>
        let k := s.linksOf h a.req.t
        let fix (m : Memory) (i : Nat) : Memory :=
          m.fixLower (k.below x)
            { addr := i, val := (m.latest k x i).1, who := [a.req.t.uid], marks := [] }
        { s with mem := (natsFrom pa a.req.size).foldl fix s.mem }) s

/-! ### Passes (R94) -/

/-- The scratchpad access of a lane. -/
def Acc.scr (a : Acc) : Option Nat :=
  match a.spot with
  | .scr b => some b
  | .mem _ _ => none

/-- The first byte at the lane port: an access of the scratchpad, or of the stash through its window (R113). -/
def Acc.port (a : Acc) : Option Nat :=
  match a.spot with
  | .scr b => some b
  | .mem _ line => line.bind StashHit.win

/-- The distinct words that accesses touch at the lane port, rising. -/
def portWords (l : List Acc) : List Nat :=
  ((l.flatMap fun a => match a.port with
    | some b => natsFrom (b / 4) ((b + a.req.size - 1) / 4 - b / 4 + 1)
    | none => []).foldl (fun t w => Table.put t w ()) ([] : Table Unit)).map Prod.fst

/-- The pass that serves a word: each serves one word of a bank, in rising order. -/
def passOf (ws : List Nat) (w : Nat) : Nat := (ws.filter fun x => x < w && x % 32 = w % 32).length

/-- The passes that accesses take, each with its words. -/
def portPasses (l : List Acc) : List (List Nat) :=
  let ws := portWords l
  let n := ws.foldl (fun n w => max n (passOf ws w + 1)) 0
  (natsFrom 0 n).map fun i => ws.filter fun w => passOf ws w = i

/-- The accesses take no more than one pass. -/
def onePass (l : List Acc) : Bool := (portPasses l).length ≤ 1

/-- The accesses that are not at the lane port. -/
def offPort (l : List Acc) : List Acc := l.filter fun a => a.port.isNone

/-- An access of a lane touches a byte of some words. -/
def PortAcc.within (a : PortAcc) (ws : List Nat) : List Nat :=
  (natsFrom a.byte a.size).filter fun b => b / 4 ∈ ws

/-- The access of a lane's thread. -/
def PortAcc.acc (a : PortAcc) (t : Thread) : Acc :=
  { req := { lane := a.lane, t := t, addr := a.addr, space := .scratch a.byte, size := a.size, form := false }
    spot := match a.pa with
      | some pa => .mem pa (some { line := 0, win := some a.byte })
      | none => .scr a.byte }

/-- The access of a lane to the bytes of one word, with what it stores there. -/
def PortAcc.part (a : PortAcc) (v : Nat) : PortAcc :=
  let bs := a.within [v]
  let first := bs.headD a.byte
  { a with
    byte := first, size := bs.length, pa := a.pa.map fun p => p + (first - a.byte)
    data := (a.data.drop (first - a.byte)).take bs.length }

/-- What a pass serves of each access, word by word, with the lanes' threads. -/
def PortOp.parts (p : PortOp) (w : Wave) (ws : List Nat) : List (PortAcc × Thread) :=
  p.accs.flatMap fun a => ws.filterMap fun v =>
    if (a.within [v]).isEmpty then none else (Table.get? w.lanes a.lane).map fun t => (a.part v, t)

/-- The accesses whose last words a pass serves, with their threads. -/
def PortOp.lastParts (p : PortOp) (w : Wave) (ws : List Nat) (rest : List (List Nat)) : List (PortAcc × Thread) :=
  p.accs.filterMap fun a =>
    if (a.within ws).isEmpty || rest.any (fun v => !(a.within v).isEmpty) then none
    else (Table.get? w.lanes a.lane).map fun t => (a, t)

/-- The bytes of an access as a lane has read them. -/
def portBytes (lane : Option Nat) (byte : Nat) (bs : List ByteRead) : List PortByte :=
  (natsFrom byte bs.length).zip bs |>.map fun e => { lane := lane, byte := e.1, val := e.2.val, marks := e.2.marks }

/-- One pass (R94 to R96, R245, R252): it reads the bytes of its words, or stores them with the highest lane's value
standing, or performs the atomics whose last words it serves; LDF notes the words whose line was not full when the cc
began. A store through the stash window that exhausts the log faults (R119). -/
def State.passPort (s : State) (h : Here) (p : PortOp) : Except State (State × PortOp) :=
  match p.todo with
  | [] => .ok (s, p)
  | ws :: rest =>
    let parts := p.parts h.wave ws
    let served (a : PortAcc × Thread) : List PortByte :=
      portBytes (a.1.pa.map fun _ => a.1.lane) a.1.byte (s.readAcc h .plain [] (a.1.acc a.2))
    match p.kind with
    | .store =>
      let puts : List Put := parts.map fun a => { hit := a.1.acc a.2, bytes := a.1.data, window := true }
      match storeAll puts s h .b with
      | .error e => .error (s.overflow h ((puts.head?.map fun q => q.hit.req.lane).getD 0) e)
      | .ok s' => .ok (s', { p with todo := rest })
    | .atom op wide x _ =>
      let go := p.lastParts h.wave ws rest
      let data (t : Thread) : List Byte := ((go.find? fun a => a.2.uid = t.uid).map fun a => a.1.data).getD []
      match atomLanes (go.map fun a => a.1.acc a.2) s h x fun t m => atomApply op wide (data t) m with
      | .error e => .error (s.overflow h ((go.head?.map fun a => a.1.lane).getD 0) e)
      | .ok r => .ok (settleCopies r.s h x r.wrote, { p with
          todo := rest
          got := p.got ++ (go.zip (r.olds.zip r.reads)).flatMap fun e =>
            let olds := bytesOf e.1.1.size e.2.1.2
            let marks := e.2.2.2.foldl (fun m b => addMarks m b.marks) []
            portBytes (some e.1.1.lane) e.1.1.byte (olds.map fun b => { val := b, marks := marks }) })
    | .load _ _ _ => .ok (s, { p with todo := rest, got := p.got ++ (parts.flatMap served).eraseDups })
    | .ldf _ _ _ => .ok (s, { p with
        todo := rest, got := p.got ++ (parts.flatMap served).eraseDups
        short := p.short ++ ws.filter fun w => s.emptyBefore h.core (w / 32) })

/-- An instruction takes the lane port, and its first pass is served in the cc of its issue. -/
def State.takePort (s : State) (h : Here) (f : Form) (kind : PortKind) (w : Wave) (ls : Table Thread)
    (accs : List (Acc × List Byte)) (mem : List (Nat × List Byte)) : State :=
  let p : PortOp :=
    { slot := h.slot, since := (s.cluster (clusterOf h.core)).clock, len := f.len, sel := f.sel, kind := kind, lanes := ls.map Prod.fst
      accs := accs.filterMap fun e => e.1.port.map fun b =>
        { lane := e.1.req.lane, byte := b, size := e.1.req.size, addr := e.1.req.addr, data := e.2
          pa := match e.1.spot with
            | .mem pa _ => some pa
            | .scr _ => none }
      mem := mem, todo := portPasses (accs.map Prod.fst), got := [], short := [] }
  let w1 := { w with park := .port }
  match (s.putWave h w1).passPort { h with wave := w1 } p with
  | .error t => t
  | .ok (t, q) => t.updCore h.core fun k => { k with port := some q }

/-- What the passes have read for an access. -/
def PortOp.read (p : PortOp) (a : PortAcc) : List PortByte :=
  (natsFrom a.byte a.size).map fun b =>
    (p.got.find? fun g => g.byte = b && (g.lane.isNone || g.lane = some a.lane)).getD
      { lane := none, byte := b, val := 0, marks := [] }

/-- Every word of an access stood on a full line in the pass that served it (R245). -/
def PortOp.full (p : PortOp) (a : PortAcc) : Bool := (a.within p.short).isEmpty

/-- A thread after the bytes that passes have read for it. -/
def PortOp.seen (p : PortOp) (s : State) (h : Here) (k : LoadKind) (t : Thread) (a : PortAcc) : Thread :=
  afterRead s h k t (a.acc t) ((p.read a).map fun g => { val := g.val, marks := g.marks })

/-- The wave after the reads of the passes. -/
def PortOp.waveOf (p : PortOp) (s : State) (h : Here) (k : LoadKind) (accs : List PortAcc) (w : Wave) : Wave :=
  accs.foldl (fun w a => w.updLanes (w.lanes.filter fun e => e.1 = a.lane) fun _ t => p.seen s h k t a) w

/-- The bytes that a lane has been served: by the passes, or from memory. -/
def PortOp.bytesFor (p : PortOp) (lane : Nat) : List Byte :=
  match p.accs.find? fun a => a.lane = lane with
  | some a => (p.read a).map PortByte.val
  | none => ((p.mem.find? fun m => m.1 = lane).map Prod.snd).getD []

/-- The records of an ATOM's results (R469), in lane order. -/
def State.atomEvents (s : State) (h : Here) (l : List (Nat × Nat)) : State :=
  l.foldl (fun s e => s.event h.wave.ctx (clusterOf h.core) 2 [h.wave.pc.toNat, e.1, e.2] 0 0) s

/-- The register words of an atomic's old value (R252). -/
def oldWords (wide : Bool) (old : Nat) : List Word :=
  if wide then [BitVec.ofNat 32 old, BitVec.ofNat 32 (old / 2 ^ 32)] else [BitVec.ofNat 32 old]

/-- The instruction completes with its last pass. -/
def State.leavePort (s : State) (h : Here) (p : PortOp) : State :=
  let s := s.updCore h.core fun k => { k with port := none }
  let w := { h.wave with park := .none }
  let ls := w.lanes.filter fun e => e.1 ∈ p.lanes
  let stash := (p.accs.filter fun a => a.pa.isSome).map fun a => a.byte / 128
  let regs (d : Nat) (z : Size) (t : Thread) (bs : List Byte) : List PWrite := vWrites t d (loadWords z bs)
  match p.kind with
  | .store => s.doneLen h w p.len
  | .load x d z =>
    let k : LoadKind := match x with
      | some y => .strong y
      | none => .plain
    let ws := ls.flatMap fun e => regs d z e.2 (p.bytesFor e.1)
    s.doneWrites { h with wave := w } (p.waveOf s h k p.accs w) p.len p.sel ls ws [] true stash
  | .ldf d z pd =>
    let full (e : Nat × Thread) : Bool := p.accs.any fun a => a.lane = e.1 && p.full a
    let ws := ((ls.filter full).flatMap fun e => regs d z e.2 (p.bytesFor e.1)) ++
      ls.map fun e => PWrite.p e.2.uid pd (full e)
    s.doneWrites { h with wave := w } (p.waveOf s h .plain (p.accs.filter p.full) w) p.len p.sel ls ws [] true
  | .atom _ wide _ d =>
    let w1 := p.waveOf s h .plain p.accs w
    match d with
    | none => s.doneWrites { h with wave := w } w1 p.len p.sel ls [] [] true stash
    | some r =>
      let ws := ls.flatMap fun e => vWrites e.2 r (oldWords wide (natOf (p.bytesFor e.1)))
      (s.atomEvents h (p.accs.map fun a => (a.addr, natOf ((p.read a).map PortByte.val)))).doneWrites
        { h with wave := w } w1 p.len p.sel ls ws [] true stash

/-- One cc of a core's lane port: the next pass of an instruction that issued in an earlier cc is served. A pass whose
log access meets a page that is not present waits for it (R118). -/
def State.tickPort (s : State) (core : Nat) : State :=
  let free := s.updCore core fun k => { k with port := none }
  match (s.core core).port with
  | none => s
  | some p =>
    match Table.get? (s.core core).waves p.slot with
    | none => free
    | some w =>
      if w.park != .port then free
      else if (s.cluster (clusterOf core)).clock ≤ p.since || w.lanes.any (fun e => s.awaitsPage w.kid e.2.uid) then s
      else
        let h : Here := { wave := w, core := core, slot := p.slot, hand := none }
        match s.passPort h p with
        | .error t => t.updCore core fun k => { k with port := none }
        | .ok (t, q) =>
          match t.walkLog h.via w.ctx w.kid with
          | .error (e, kind) =>
            match w.lanes.head? with
            | some y => s.lateLogFault h y.1 y.2 e kind
            | none => s
          | .ok t =>
            if q.todo.isEmpty then t.leavePort h q else t.updCore core fun k => { k with port := some q }

end Sys2Proof.Machine
end

