-- ==== Sys2Proof/Machine/LoadStore.lean ====
section
/-! DEFINITION. Loads and stores (spec/09 R236 to R249). -/

namespace Sys2Proof.Machine

/-! ### Requests -/

/-- A request of the generic form (R238). -/
def genericReq (im : Option Word) (a b : Src) (n : Nat) (h : Here) (l : Nat) (t : Thread) : Req :=
  let x := genericAddr h.wave im t a b
  { lane := l, t := t, addr := x, space := spaceOf x, size := n, form := false }

/-- A request of the scratch form (R238). -/
def scratchReq (im : Option Word) (a b : Src) (n : Nat) (h : Here) (l : Nat) (t : Thread) : Req :=
  let o := scratchOff h.wave im t a b
  { lane := l, t := t, addr := offAddr o, space := .scratch o, size := n, form := true }

/-! ### Shared operations -/

/-- Some of the accesses are at the lane port. -/
def anyScr (accs : List Acc) : Bool := accs.any fun a => a.port.isSome

/-- The accesses that are not read late. -/
def readNow (late : List LateRead) (accs : List Acc) : List Acc :=
  accs.filter fun a => !(late.any fun l => l.uid = a.req.t.uid)

/-- The scratchpad lines of the stash that accesses reach (R104). -/
def State.stashLines (s : State) (accs : List Acc) : List Nat :=
  accs.filterMap fun a =>
    match a.spot, s.blockOf a.req.t with
    | .mem _ (some n), some b => some ((b.scratch + (s.sizes b).1) / 128 + n.line)
    | _, _ => none

/-- The requests that loads send over Rill, one for each lane that reads bytes of the peer's (R449); `wait` where the
thread waits for the answer. -/
def State.farLoads (s : State) (h : Here) (wait : Bool) (accs : List Acc) : State :=
  accs.foldl (fun t x => t.farRead (.thread x.req.t.uid) h.wave.kid wait (s.beyondChain h x)) s

/-- The requests of the loads of an instruction of which some are performed later (R110, R449). -/
def State.loadReqs (s0 s : State) (h : Here) (k : LoadKind) (sel : FlagSel) (late : List LateRead) (accs : List Acc) :
    State :=
  let t := reachAccs (h.loadKind k) (accs.filter fun a => late.any fun l => l.uid = a.req.t.uid) s h
  if s0.paired then t.farLoads h (h.hand.isSome || (h.wave.flagOf sel).isNone) accs else t

/-- Performs checked loads and ends the instruction. What a plain load that is performed later reads at D is read then
(R130, R132); accesses of several passes at the lane port take it (R94). -/
def State.finishLoad (s : State) (h : Here) (f : Form) (k : LoadKind) (d : Nat) (z : Size)
    (ls : Table Thread) (accs : List Acc) : State :=
  match poisonHit s h accs with
  | some (x, line) => s.raise h { code := 0x0E, lane := some x.req.lane, addr := line }
  | none =>
    if onePass accs then
      let late := s.lateReads h k f.sel d z accs
      let r := late.2.loadAll h k (readNow late.1 accs)
      let ws := r.1.flatMap fun e => vWrites e.1.req.t d (loadWords z e.2)
      (s.loadReqs r.2.2 h k f.sel late.1 accs).doneWrites h r.2.1 f.len f.sel ls ws late.1 (anyScr accs)
        (s.stashLines accs)
    else
      let r := s.loadAll h k (offPort accs)
      let x := match k with
        | .plain => none
        | .strong y => some y
      (s.loadReqs r.2.2 h k f.sel [] (offPort accs)).takePort h f (.load x d z) r.2.1 ls (accs.map fun a => (a, []))
        (r.1.map fun e => (e.1.req.lane, e.2))

/-- A load: checks, waits for empty lines, then reads (R239, R98). -/
def State.load (s : State) (f : Form) (k : LoadKind) (d : Nat) (z : Size)
    (req : Here → Nat → Thread → Req) : Res :=
  s.issue f fun h ls =>
    let u := s.prepare h (ls.map fun e => req h e.1 e.2) .read true
    match u.1 with
    | .error s' => s'
    | .ok accs => if u.2.meetsEmpty h accs then u.2.awaitLines h accs else u.2.finishLoad h f k d z ls accs

/-- The requests of stores that are placed at D or S reach the memory-side cache (R110). -/
def State.reachPuts (s : State) (h : Here) (x : Level) (ps : List Put) : State :=
  ps.foldl (fun s p =>
    match p.hit.spot, p.hit.req.space with
    | .mem pa _, .global va =>
      if h.hand.isNone && (p.level x = .d || p.level x = .s) then
        s.reach (.loadStore h.core) h.wave.ctx va pa
      else s
    | _, _ => s) s

/-- Placed stores whose arrival may be later (R132): those of global bytes that no stash line of the block stands for,
no two of which meet. A store at S of a remote byte arrives as it issues (DESIGN CHOICE, log 120). -/
def State.mayHold (s : State) (h : Here) (x : Level) (ps : List Put) : Bool :=
  h.hand.isNone && x != .c && ps.all fun p =>
    (match p.hit.spot with
      | .mem _ none => true
      | _ => false) &&
    p.pas.all fun a => !(x = .s && isRemote a) &&
      (p.meeting s h x (ps.filter fun q => q.hit.req.lane != p.hit.req.lane) a).isEmpty

/-- Whether placed stores arrive later, where they may, is open. -/
def State.holdsStores (s : State) (h : Here) (x : Level) (ps : List Put) : Bool × State :=
  if s.mayHold h x ps then
    let r := s.pick 2
    (r.1 = 1, r.2)
  else (false, s)

/-- A placed store that has not arrived. -/
def Put.late (p : Put) (s : State) (h : Here) (x : Level) : LateStore :=
  { slot := h.slot, uid := p.hit.req.t.uid, lane := p.hit.req.lane, pc := h.wave.pc, addr := p.hit.req.addr
    level := x, tick := s.tick
    bytes := (p.pas.zip p.bytes).map fun e =>
      { addr := e.1, val := e.2, who := [p.hit.req.t.uid], marks := p.hit.req.t.rel } }

/-- Placed stores issue and arrive later. -/
def State.holdStores (s : State) (h : Here) (x : Level) (ps : List Put) : State :=
  s.updCore h.core fun k => { k with stores := k.stores ++ ps.map fun p => p.late s h x }

/-- The accesses of stores that are not at the lane port. -/
def offPuts (ps : List Put) : List Put := ps.filter fun p => p.hit.port.isNone

/-- Performs checked stores and ends the instruction; stores of several passes at the lane port take it. Stores that
exhaust the log have no effect in any lane (R119). -/
def State.finishStore (s : State) (h : Here) (f : Form) (x : Level) (ps : List Put) : State :=
  let r := s.holdsStores h x ps
  if r.1 then ((r.2.holdStores h x ps).reachPuts h x ps).doneLen h h.wave f.len
  else
    match storeAll ps r.2 h x with
    | .error e => r.2.overflow h (((ps.head?).map fun p => p.hit.req.lane).getD 0) e
    | .ok s1 =>
      if onePass (ps.map Put.hit) then (s1.reachPuts h x ps).doneLen h h.wave f.len
      else
        match storeAll (offPuts ps) r.2 h x with
        | .error e => r.2.overflow h (((ps.head?).map fun p => p.hit.req.lane).getD 0) e
        | .ok s2 =>
          (s2.reachPuts h x (offPuts ps)).takePort h f .store h.wave
            (h.wave.lanes.filter fun e => ps.any fun p => p.hit.req.lane = e.1) (ps.map fun p => (p.hit, p.bytes)) []

/-- A request goes through the stash window. -/
def Req.window (r : Req) : Bool :=
  match r.space with
  | .stash _ => true
  | _ => false

/-- A store (R120 to R122, R239); one through the stash window is placed at B (R247). -/
def State.storeInstr (s : State) (f : Form) (x : Level) (z : Size) (im : Option Word) (c : Src)
    (req : Here → Nat → Thread → Req) : Res :=
  s.issue f fun h ls =>
    let u := s.prepare h (ls.map fun e => req h e.1 e.2) .write false
    match u.1 with
    | .error s' => s'
    | .ok accs =>
      u.2.finishStore h f x
        (accs.map fun a =>
          { hit := a, bytes := storeBytes z h.wave im a.req.t c, window := a.req.window })

/-- The form of a load. -/
def ldForm (x : LdOp) (regs : Nat) : Form :=
  { len := lenOf x.im, g := x.g, sel := x.sel,
    uses := (x.d.toNat, sizeRegs x.sz) :: Src.run regs x.a }

/-- LD (R240). -/
def execLd (x : LdOp) (s : State) : Res :=
  s.load (ldForm x 2) .plain x.d.toNat x.sz (genericReq x.im x.a x.b (sizeBytes x.sz))

/-- LD.S (R241). -/
def execLdStrong (x : LdOp) (s : State) : Res :=
  s.load (ldForm x 2) (.strong x.scope) x.d.toNat x.sz (genericReq x.im x.a x.b (sizeBytes x.sz))

/-- LDS (R242). -/
def execLds (x : LdOp) (s : State) : Res :=
  s.load { ldForm x 1 with cluster := true } .plain x.d.toNat x.sz
    (scratchReq x.im x.a x.b (sizeBytes x.sz))

/-- What LDW leaves to be read later: under a flag, what D serves. Without one it is performed as it issues (DESIGN
CHOICE, log 120). -/
def State.lateW (s : State) (h : Here) (sel : FlagSel) (d : Nat) (z : Size) (accs : List Acc) : List LateRead :=
  if h.hand.isSome || (h.wave.flagOf sel).isNone then []
  else (accs.filterMap (s.lateRead h d z)).map fun l => { l with toW := true }

/-- LDW (R243): the load of the lowest passing lane, written to w-registers. -/
def execLdw (x : LdOp) (s : State) : Res :=
  let f : Form := { len := lenOf x.im, g := x.g, sel := x.sel, uniform := true }
  s.issue f fun h ls =>
    let u := s.prepare h ((ls.take 1).map fun e => genericReq x.im x.a x.b (sizeBytes x.sz) h e.1 e.2)
      .read true
    match u.1 with
    | .error s' => s'
    | .ok accs =>
      if u.2.meetsEmpty h accs then u.2.awaitLines h accs
      else
        match poisonHit u.2 h accs with
        | some (a, line) => u.2.raise h { code := 0x0E, lane := some a.req.lane, addr := line }
        | none =>
          let late := u.2.lateW h f.sel x.d.toNat x.sz accs
          let r := u.2.loadAll h .plain (readNow late accs)
          let ws := r.1.flatMap fun e =>
            let vs := loadWords x.sz e.2
            (natsFrom x.d.toNat vs.length).zip vs |>.map fun p => PWrite.w p.1 p.2
          (u.2.loadReqs r.2.2 h .plain f.sel late accs).doneWrites h r.2.1 f.len f.sel ls ws late (anyScr accs)
            (u.2.stashLines accs)

/-- The tile that a thread names: its own block, and the entry of that block's table (R99). -/
def State.tileNamed (s : State) (t : Thread) (n : Nat) : Option (Block × TileEntry) :=
  (s.blockOf t).bind fun b => (s.tile? b n).map fun e => (b, e)

/-- A tile of a thread's block is ready. -/
def State.tileReady (s : State) (t : Thread) (n : Nat) : Bool :=
  match s.tileNamed t n with
  | some (b, e) => s.tileState b e = .ready
  | none => false

/-- The tiles of a number that lanes name, by block. -/
def tilesNamed (ls : Table Thread) (n : Nat) : List (Nat × Nat) :=
  (ls.map fun e => (e.2.blockUid, n)).eraseDups

/-- A tile-checked access (R244): within the tile of the lane's own block, and only while every such tile is ready
(R101). -/
def State.tiled (s : State) (f : Form) (tile : Nat) (im : Option Word) (a b : Src) (n : Nat)
    (kind : Access) (k : State → Here → Table Thread → List Acc → State) : Res :=
  s.issue f fun h ls =>
    let off (t : Thread) : Int := scratchOff h.wave im t a b
    let te (t : Thread) : TileEntry := ((s.tileNamed t tile).map Prod.snd).getD { base := 0, count := 0 }
    let fault (code : Nat) (e : Nat × Thread) : State :=
      s.raise h { code := code, lane := some e.1, addr := offAddr (off e.2) }
    match ls.find? fun e => (s.blockOf e.2).isNone with
    | some e => s.raise h { code := 6, lane := some e.1 }
    | none =>
      match ls.find? fun e => off e.2 % (n : Int) != 0 with
      | some e => fault 3 e
      | none =>
        match ls.find? fun e => (s.tileNamed e.2 tile).isNone with
        | some e => fault 6 e
        | none =>
          match ls.find? fun e => off e.2 < 0 || off e.2 + (n : Int) > (((te e.2).count + 1) * 128 : Nat) with
          | some e => fault 6 e
          | none =>
            let rs : List Req := ls.map fun e =>
              { lane := e.1, t := e.2, addr := offAddr (off e.2),
                space := .scratch (off e.2 + 128 * (te e.2).base), size := n, form := true }
            let u := s.prepare h rs kind (kind = .read)
            match u.1 with
            | .error s' => s'
            | .ok accs =>
              if ls.all fun e => s.tileReady e.2 tile then k u.2 h ls accs
              else u.2.notReady h (.tiles (tilesNamed ls tile))

/-- The sizes of LDT and STT. -/
def tsize : TSize → Size
  | .w32 => .w32
  | .w64 => .w64
  | .w128 => .w128

/-- LDT (R244). -/
def execLdt (x : LdtOp) (s : State) : Res :=
  let z := tsize x.sz
  let f : Form :=
    { len := lenOf x.im, g := x.g, sel := x.sel, cluster := true,
      uses := (x.d.toNat, sizeRegs z) :: Src.run 1 x.a }
  s.tiled f x.tile.toNat x.im x.a x.b (sizeBytes z) .read fun s h ls accs =>
    s.finishLoad h f .plain x.d.toNat z ls accs

/-- Every line of a scratchpad access was full when this cc began (R245). -/
def State.wasFull (s : State) (h : Here) (a : Acc) : Bool :=
  match a.scr with
  | some b => (linesOf b a.req.size).all fun l => !s.emptyBefore h.core l
  | none => true

/-- LDF (R245): reads where every line is full and says so; never waits. -/
def execLdf (x : LdfOp) (s : State) : Res :=
  let f : Form :=
    { len := lenOf x.im, g := x.g, sel := x.sel, cluster := true,
      uses := (x.d.toNat, sizeRegs x.sz) :: Src.run 1 x.a }
  s.issue f fun h ls =>
    let u := s.prepare h (ls.map fun e => scratchReq x.im x.a x.b (sizeBytes x.sz) h e.1 e.2) .read
      true
    match u.1 with
    | .error s' => s'
    | .ok accs =>
      if onePass accs then
        let full (a : Acc) : Bool := u.2.wasFull h a
        let r := u.2.loadAll h .plain (accs.filter full)
        let ws := (r.1.flatMap fun e => vWrites e.1.req.t x.d.toNat (loadWords x.sz e.2)) ++
          accs.map fun a => PWrite.p a.req.t.uid x.pd.toNat (full a)
        r.2.2.doneWrites h r.2.1 f.len f.sel ls ws [] true
      else
        u.2.takePort h f (.ldf x.d.toNat x.sz x.pd.toNat) h.wave ls (accs.map fun a => (a, [])) []

/-- PREF (R246): a hint; it raises only the faults of R181. -/
def execPref (x : PrefOp) (s : State) : Res :=
  s.issue { len := lenOf x.im, g := x.g, uses := Src.run 2 x.a } fun h _ =>
    s.doneLen h h.wave (lenOf x.im)

/-- ST (R247): plain at c, placed at the other levels. -/
def execSt (x : StOp) (s : State) : Res :=
  s.storeInstr { len := lenOf x.im, g := x.g, uses := Src.run 2 x.a ++ Src.run (sizeRegs x.sz) x.c }
    x.scope x.sz x.im x.c (genericReq x.im x.a x.b (sizeBytes x.sz))

/-- STS (R248). -/
def execSts (x : StOp) (s : State) : Res :=
  let f : Form :=
    { len := lenOf x.im, g := x.g, cluster := true,
      uses := Src.run 1 x.a ++ Src.run (sizeRegs x.sz) x.c }
  s.storeInstr f .b x.sz x.im x.c (scratchReq x.im x.a x.b (sizeBytes x.sz))

/-- STT (R244). -/
def execStt (x : SttOp) (s : State) : Res :=
  let z := tsize x.sz
  let f : Form :=
    { len := lenOf x.im, g := x.g, cluster := true,
      uses := Src.run 1 x.a ++ Src.run (sizeRegs z) x.c }
  s.tiled f x.tile.toNat x.im x.a x.b (sizeBytes z) .write fun s h _ accs =>
    s.finishStore h f .b
      (accs.map fun a => { hit := a, bytes := storeBytes z h.wave x.im a.req.t x.c })

/-- An earlier scratchpad access of a wave has not completed: a flagged one, or one of the matrix engine (R249,
R277). Copies are accesses of the copy engine (R97). -/
def State.scratchBusy (s : State) (h : Here) : Bool :=
  (s.core h.core).ops.any fun e => e.2.slot = h.slot && e.2.scr

/-- SETE (R249): the lines are empty in the cc it issues, once every earlier scratchpad access of the wave has
completed. -/
def execSete (x : SeteOp) (s : State) : Res :=
  let f : Form := { len := lenOf x.im, g := x.g, cluster := true, uses := Src.run 1 x.a }
  s.issue f fun h ls =>
    let u := s.prepare h (ls.map fun e => scratchReq x.im x.a x.b 1 h e.1 e.2) .read false
    match u.1 with
    | .error s' => s'
    | .ok accs =>
      if u.2.scratchBusy h then u.2
      else
        let lines := accs.filterMap fun a => a.scr.map (· / 128)
        (u.2.setLines h.core 5 true lines).doneLen h h.wave f.len

end Sys2Proof.Machine
end

