-- ==== Sys2Proof/Machine/Atomic.lean ====
section
/-! DEFINITION. Atomics (spec/09 R250 to R254; spec/05 R138 to R140). -/

namespace Sys2Proof.Machine

/-- The requests of an atomic, one for each distinct address (R252). -/
def distinctAddrs (accs : List Acc) : List Acc :=
  accs.foldl (fun l a => if l.any fun b => b.req.addr = a.req.addr then l else l ++ [a]) []

/-- What the lanes' turns leave: the memory, and the wave that has seen what they read. -/
def AtomOut.wave (r : AtomOut) (w : Wave) : Wave :=
  r.reads.foldl (fun w e =>
    w.updLanes [(e.1.req.lane, e.1.req.t)] fun _ t =>
      { t with seen := e.2.foldl (fun l b => addMarks l b.marks) t.seen }) w

/-- The requests of an atomic that are placed at D or S. -/
def State.reachAtoms (s : State) (h : Here) (x : Level) (accs : List Acc) : State :=
  s.reachPuts h x ((distinctAddrs accs).map fun a => { hit := a, bytes := [] })

/-- What an atomic is: its operation (none for AMAXSWP), of 8 bytes or 4, and the register that ATOM and AMAXSWP write
with the old value. -/
structure AtomKind where
  op : Option AtomOp
  wide : Bool
  c : Src
  d : Option Nat

/-- What a lane operates with. -/
def AtomKind.data (a : AtomKind) (w : Wave) (im : Option Word) (t : Thread) : List Byte :=
  match a.op with
  | some op => atomData op a.wide w im a.c t
  | none => []

/-- What a lane's old value writes. -/
def AtomKind.writes (a : AtomKind) (t : Thread) (old : Nat) : List PWrite :=
  match a.d with
  | some r => vWrites t r (oldWords a.wide old)
  | none => []

/-- An atomic on checked accesses, and what each lane's old value writes. Those of several passes at the lane port take
it (R94), once it is known that none exhausts the log (R119). -/
def State.atomicOn (s : State) (h : Here) (f : Form) (x : Level) (ls : Table Thread)
    (im : Option Word) (accs : List Acc) (a : AtomKind) : State :=
  let step : AtomStep := fun t m => atomApply a.op a.wide (a.data h.wave im t) m
  match poisonHit s h accs with
  | some (y, line) => s.raise h { code := 0x0E, lane := some y.req.lane, addr := line }
  | none =>
    match atomLanes accs s h x step, atomLanes (offPort accs) s h x step with
    | .error e, _ => s.overflow h ((lowLane ls).getD 0) e
    | _, .error e => s.overflow h ((lowLane ls).getD 0) e
    | .ok r, .ok q =>
      let events (s : State) (l : List (Acc × Nat)) : State :=
        if h.hand.isSome || a.d.isNone then s else s.atomEvents h (l.map fun e => (e.1.req.addr, e.2))
      if onePass accs then
        let s1 := (settleCopies r.s h x r.wrote).reachAtoms h x accs
        (events s1 r.olds).doneWrites h (r.wave h.wave) f.len f.sel ls
          (r.olds.flatMap fun e => a.writes e.1.req.t e.2) [] (anyScr accs) (s.stashLines accs)
      else
        let s1 := (settleCopies q.s h x q.wrote).reachAtoms h x (offPort accs)
        (events s1 q.olds).takePort h f (.atom a.op a.wide x a.d) (q.wave h.wave) ls
          (accs.map fun y => (y, a.data h.wave im y.req.t))
          (q.olds.map fun e => (e.1.req.lane, bytesOf e.1.req.size e.2))

/-- An atomic instruction (R252). It waits for no full line (R98). -/
def State.atomic (s : State) (f : Form) (sc : AScope) (im : Option Word) (a b : Src) (y : AtomKind) : Res :=
  let n := if y.wide then 8 else 4
  let req : Here → Nat → Thread → Req := match sc with
    | .sp => scratchReq im a b n
    | .lvl _ => genericReq im a b n
  let x : Level := match sc with
    | .sp => .b
    | .lvl x => x
  s.issue { f with cluster := f.cluster || sc = .sp } fun h ls =>
    let u := s.prepare h (ls.map fun e => req h e.1 e.2) .write true
    match u.1 with
    | .error s' => s'
    | .ok accs => u.2.atomicOn h f x ls im accs y

/-- The registers source C of an atomic names. -/
def atomUses (x : AtomOps) : List RegRun :=
  let regs := if x.op = .cas then (if x.w then 4 else 2) else if x.w then 2 else 1
  Src.run (if x.scope = .sp then 1 else 2) x.a ++ Src.run regs x.c

/-- ATOM (R250 to R253). -/
def execAtom (x : AtomOps) (s : State) : Res :=
  let f : Form :=
    { len := lenOf x.im, g := x.g, sel := x.sel,
      uses := (x.d.toNat, if x.w then 2 else 1) :: atomUses x }
  s.atomic f x.scope x.im x.a x.b { op := some x.op, wide := x.w, c := x.c, d := some x.d.toNat }

/-- RED (R250 to R252): the arrivals of ATOM, with no result. -/
def execRed (x : AtomOps) (s : State) : Res :=
  let f : Form := { len := lenOf x.im, g := x.g, sel := x.sel, uses := atomUses x }
  s.atomic f x.scope x.im x.a x.b { op := some x.op, wide := x.w, c := x.c, d := none }

/-- AMAXSWP (R254): +0.0 is written and the old value returned. -/
def execAmaxswp (x : AmaxOp) (s : State) : Res :=
  let f : Form :=
    { len := lenOf x.im, g := x.g, sel := x.sel,
      uses := (x.d.toNat, 1) :: Src.run (if x.scope = .sp then 1 else 2) x.a }
  s.atomic f x.scope x.im x.a x.b { op := none, wide := false, c := .k 0, d := some x.d.toNat }

end Sys2Proof.Machine
end

