-- ==== Sys2Proof/Machine/Commit.lean ====
section
/-! DEFINITION. Commits, aborts and fences (spec/09 R255 to R258; spec/05 R123 to R128, R133 to R135). -/

namespace Sys2Proof.Machine

/-! ### Releases and acquires -/

/-- A view raised to every arrival at D that carries the thread's own store (R130), and to every arrival that the
thread made: the commit steps it performed, with its siblings' bytes among them (R134). -/
def Memory.ownView (m : Memory) (uid : Nat) (v : View) : View :=
  m.log.foldl (fun v x =>
    if uid ∈ x.makers then v.raiseAll x
    else x.bytes.foldl (fun v b => if uid ∈ b.who then v.raise b.addr x.pos else v) v) v

/-- What a release by a thread at a scope leaves on its later arrivals (R134). -/
def State.markOf (s : State) (h : Here) (t : Thread) (x : Level) : Mark :=
  { who := (s.linksOf h t).chain, scope := x, view := s.mem.ownView t.uid t.view }

/-- A thread after a release: the mark replaces its own earlier one at the scope. -/
def Thread.release (t : Thread) (k : Mark) : Thread :=
  { t with rel := (t.rel.filter fun m => !(m.who = k.who && m.scope = k.scope)) ++ [k] }

/-- A thread after an acquire at a scope (R134). -/
def State.acquired (s : State) (h : Here) (t : Thread) (x : Level) : Thread :=
  { t with view := acquireView t.view (s.linksOf h t).chain x t.seen }

/-! ### Commits -/

/-- The scopes at which a commit up to a level is a release (R133). -/
def commitScopes : Level → List Level
  | .c => []
  | .b => [.b]
  | .g => [.b, .g]
  | .d => [.b, .g, .d]
  | .s => [.b, .g, .d, .s]

/-- Performs the steps of one executing party up to a level for its threads (R123), which release at
each step's level. A thread's view rises to the arrivals that carry its own stores (R130), those of the steps among
them. `more` are the other rays of a crew. -/
def State.commitParty (s : State) (h : Here) (ts : Table Thread) (x : Level) (more : List Links := []) :
    Except Level (State × Table Thread) :=
  match ts with
  | [] => .ok (s, [])
  | e :: _ =>
    let before := ts.flatMap fun e => e.2.rel
    let own := ts.flatMap fun e => (commitScopes x).map fun y => s.markOf h e.2 y
    match s.mem.commit s.tick (s.linksOf h e.2) x before own more with
    | .error l => .error l
    | .ok m =>
      let s1 := { s with mem := m }
      let after (t : Thread) : Thread :=
        let t1 := { t with view := m.ownView t.uid t.view }
        (commitScopes x).foldl (fun t y => t.release (s1.markOf h t y)) t1
      .ok (s1, ts.map fun e => (e.1, after e.2))

/-- The executing parties of an instruction (R256), in ascending lane order: one for a crew, and each passing
lane's thread outside a crew. -/
def partiesOf (h : Here) (ls : Table Thread) : List (Table Thread) :=
  if h.wave.crew.isSome then (if ls.isEmpty then [] else [ls]) else ls.map fun e => [e]

/-- The other rays of a ray's crew. Each keeps a C buffer of its own, and the crew's commit moves them all (R114, R256;
DEDUCED, log 49). -/
def State.mates (s : State) (h : Here) (e : Nat × Thread) : List Links :=
  if h.wave.crew.isSome && e.2.ray.isSome then
    (h.wave.lanes.filter fun y => y.1 != e.1).map fun y => s.linksOf h y.2
  else []

/-- Commits of the parties in order, unchecked or checked; the lanes whose check failed. -/
def commitAll : List (Table Thread) → State → Here → Level → Bool →
    Except Level (State × Table Thread × List Nat)
  | [], s, _, _, _ => .ok (s, [], [])
  | ts :: rest, s, h, x, chk =>
    match ts.head? with
    | none => commitAll rest s h x chk
    | some e =>
      let k := s.linksOf h e.2
      let more := s.mates h e
      let cs := if chk then s.mem.clashes k x more else []
      if cs.isEmpty then
        match s.commitParty h ts x more with
        | .error l => .error l
        | .ok (s1, ts1) =>
          match commitAll rest s1 h x chk with
          | .error l => .error l
          | .ok (s2, t2, bad) => .ok (s2, ts1 ++ t2, bad)
      else
        match commitAll rest { s with mem := s.mem.reopen k cs more } h x chk with
        | .error l => .error l
        | .ok (s2, t2, bad) => .ok (s2, ts ++ t2, ts.map Prod.fst ++ bad)

/-- A thread after a release at several scopes. -/
def State.releases (s : State) (h : Here) (t : Thread) (l : List Level) : Thread :=
  l.foldl (fun t y => t.release (s.markOf h t y)) t

/-- CMT (R255, R256). The steps of every executing party together must find room in the commit log before any is
performed. A handler's stores stand at D already: its commit moves no byte, orders them, and, at S, sends home what D
holds modified (R123). -/
def execCmt (x : CmtOp) (s : State) : Res :=
  s.issue { len := 8, g := x.g, orders := true } fun h ls =>
    match h.hand with
    | some _ =>
      let w := h.wave.updLanes ls fun _ t =>
        let t1 := s.releases h t (commitScopes x.lvl)
        match x.chk with
        | some p => t1.setPred p.toNat false
        | none => t1
      State.doneLen { s with mem := if x.lvl = .s then s.mem.sendHome else s.mem } h w 8
    | none =>
      match commitAll (partiesOf h ls) s h x.lvl false, commitAll (partiesOf h ls) s h x.lvl x.chk.isSome with
      | .error l, _ => s.overflow h ((lowLane ls).getD 0) l
      | _, .error l => s.overflow h ((lowLane ls).getD 0) l
      | .ok _, .ok (s1, ts, bad) =>
        let w := ts.foldl (fun w e =>
          w.setLane e.1 (match x.chk with
            | some p => e.2.setPred p.toNat (decide (e.1 ∈ bad))
            | none => e.2)) h.wave
        s1.doneLen h w 8

/-- The buffers of an executing party that ABT discards: at C those of every ray of a crew (R257). -/
def State.abortParty (s : State) (h : Here) (ts : Table Thread) (x : Level) : State :=
  match ts.head? with
  | some e =>
    let more := if x = .c then s.mates h e else []
    { s with mem := (s.linksOf h e.2 :: more).foldl (fun m k => m.abort k x) s.mem }
  | none => s

/-- ABT (R257). -/
def execAbt (x : AbtOp) (s : State) : Res :=
  s.issue { len := 8, g := x.g } fun h ls =>
    match h.hand with
    | some _ => s.doneLen h h.wave 8
    | none => ((partiesOf h ls).foldl (fun s ts => s.abortParty h ts x.lvl) s).doneLen h h.wave 8

/-! ### Fences -/

/-- An SC fence by one lane (R135): after every earlier one, it acquires from those whose scopes match,
and releases. -/
def State.scFence (s : State) (h : Here) (l : Nat) (t : Thread) (x : Level) (w : Wave) :
    State × Wave :=
  let k := (s.linksOf h t).chain
  let t1 := s.acquired h t x
  let v := s.mem.sc.foldl (fun v f =>
    if scopeHas f.scope f.who k && scopeHas x k f.who then v.join f.view else v) t1.view
  let t2 := { t1 with view := v }
  let m := s.markOf h t2 x
  let f : ScFence := { who := k, scope := x, view := m.view }
  ({ s with mem := { s.mem with sc := s.mem.sc ++ [f] } }, w.setLane l (t2.release m))

/-- The traversal runs in progress, by ray and episode: those of records that wait for a treelet, or that stand in
traversal with their run begun. -/
def State.runsInProgress (s : State) : List (Nat × Nat) :=
  s.clusters.flatMap fun c =>
    (c.bins.flatMap fun b => match b.2.target with
      | .treelet _ => b.2.recs.map fun t => (t.uid, t.episode)
      | _ => []) ++
    (c.trav.filterMap fun t => match t.2.ray with
      | some r => if r.phase != 0 then some (t.2.uid, t.2.episode) else none
      | none => none)

/-- A buffer of the thread's chain still holds a store of its own. -/
def State.ownBuffered (s : State) (h : Here) (t : Thread) : Bool :=
  let k := s.linksOf h t
  (k.below .d).any fun p => (s.mem.bytesOf p).any fun b => t.uid ∈ b.who

/-- The runs that a fence waits for: those in progress when it issued (R87). -/
def State.fenceRuns (s : State) (h : Here) : List (Nat × Nat) :=
  match h.wave.park with
  | .fence l => l.filter fun r => r ∈ s.runsInProgress
  | _ => s.runsInProgress

/-- FENCE (R258). FENCE.AS waits until the threads' stores have reached D and the runs in progress at its issue have
stopped, and invalidates what runs read through: the treelet copies, and the copies in the data ways, so that no run
ordered after it reads an older value (R87). -/
def execFence (x : FenceOp) (s : State) : Res :=
  s.issue { len := 8, g := x.g, orders := x.kind != .acq } fun h ls =>
    match x.kind with
    | .acq => s.doneLen h (h.wave.updLanes ls fun _ t => s.acquired h t x.scope) 8
    | .rel => s.doneLen h (h.wave.updLanes ls fun _ t => t.release (s.markOf h t x.scope)) 8
    | .sc =>
      let r := ls.foldl (fun r e => State.scFence r.1 h e.1 e.2 x.scope r.2) (s, h.wave)
      r.1.doneLen h r.2 8
    | .as =>
      let runs := s.fenceRuns h
      if !runs.isEmpty || ls.any (fun e => s.ownBuffered h e.2) then
        s.putWave h { h.wave with park := .fence runs }
      else
        let w := h.wave.updLanes ls fun _ t =>
          let t1 := s.acquired h t x.scope
          t1.release (s.markOf h t1 x.scope)
        let cold (c : Cluster) : Cluster := { c with treelets := [] }
        State.doneLen { s with clusters := s.clusters.map cold } h { w with park := .none } 8

end Sys2Proof.Machine
end

