-- ==== Sys2Proof/Machine/Cistern.lean ====
section
/-! DEFINITION. Records, bins and basins: how a thread leaves a wave and where its record goes (spec/02
R20 to R38, R57 to R59; spec/03 R83). -/

namespace Sys2Proof.Machine

/-! ### The coherence key of a ray (R83) -/

/-- Three FP32 components. -/
structure Vec3 where
  x : Word
  y : Word
  z : Word
deriving DecidableEq, Repr

/-- The word at a byte offset of a list of bytes. -/
def wordAt (bs : List Byte) (o : Nat) : Word := BitVec.ofNat 32 (natOf ((bs.drop o).take 4))

/-- A vector at a byte offset. -/
def vecAt (bs : List Byte) (o : Nat) : Vec3 :=
  { x := wordAt bs o, y := wordAt bs (o + 4), z := wordAt bs (o + 8) }

/-- One axis of the origin cell. -/
def cellAxis (p lo hi : Word) : Nat :=
  let q := fdiv32 (fmul32 0x41800000#32 (fsub32 p lo)) (fsub32 hi lo)
  if fle32 hi lo || isNan32 q then 0
  else
    match f32 q with
    | .fin s n d => (max 0 (min 15 (Real'.fin s n d).floor)).toNat
    | .inf s => if s then 0 else 15
    | .nan => 0

/-- The magnitude of a direction component; a NaN counts as 0. -/
def magnitude (x : Word) : Word := if isNan32 x then 0 else x &&& 0x7FFFFFFF#32

/-- The direction bin. -/
def dirBin (d : Vec3) : Nat :=
  let sgn (x : Word) : Nat := if x.getLsbD 31 then 1 else 0
  let oct := sgn d.x + 2 * sgn d.y + 4 * sgn d.z
  let a := magnitude d.x
  let b := magnitude d.y
  let c := magnitude d.z
  let axis := if fle32 b a && fle32 c a then 0 else if fle32 c b then 1 else 2
  let top := if axis = 0 then a else if axis = 1 then b else c
  let o1 := if axis = 0 then b else a
  let o2 := if axis = 2 then b else c
  let big := if fle32 o2 o1 then o1 else o2
  let elev := if fle32 top (fmul32 0x40000000#32 big) then 1 else 0
  oct + 8 * axis + 32 * elev

/-- The key of a ray record from its position and shader id; a header that cannot be read gives
cell 0. -/
def State.rayKey (s : State) (cl : Nat) (kid : Nat) (r : RayPart) (shader : Nat) (pos : Vec3) :
    Word × State :=
  let g := Table.get? s.grids kid
  let u := s.unitRead { core := none, cl := cl } ((g.map Grid.ctx).getD 0)
    ((g.map Grid.header).getD 0) 64
  let cell := match u.1 with
    | .ok bs =>
      let lo := vecAt bs 0
      let hi := vecAt bs 12
      cellAxis pos.x lo.x hi.x + 16 * cellAxis pos.y lo.y hi.y + 256 * cellAxis pos.z lo.z hi.z
    | .error _ => 0
  let bin := dirBin { x := r.dx, y := r.dy, z := r.dz }
  (BitVec.ofNat 32 (shader % 2 ^ 14 * 2 ^ 18 + cell * 64 + bin), u.2)

/-- The origin of a ray. -/
def RayPart.origin (r : RayPart) : Vec3 := { x := r.ox, y := r.oy, z := r.oz }

/-! ### The Cistern and its bins (R25) -/

/-- The records of a cluster's Cistern that hold a slot (R25). -/
def Cluster.slotsUsed (c : Cluster) : Nat :=
  let held (l : List Thread) : Nat := (l.filter fun t => !t.spilled).length
  held c.unbinned + held c.waiting + c.bins.foldl (fun n b => n + held b.2.recs) 0

/-- The spilled records of a cluster. -/
def Cluster.spilledCount (c : Cluster) : Nat :=
  let held (l : List Thread) : Nat := (l.filter fun t => t.spilled).length
  held c.unbinned + held c.waiting + c.bins.foldl (fun n b => n + held b.2.recs) 0

/-- Every record of a cluster's Cistern. -/
def Cluster.records (c : Cluster) : List Thread := c.unbinned ++ c.waiting ++ c.bins.flatMap fun e => e.2.recs

/-- The overflow places of a cluster that records of a context hold (R402). -/
def State.overflowed (s : State) (cl ctx : Nat) : List Nat :=
  ((s.cluster cl).records.filter fun t => t.spilled && s.ctxOfKid t.kid = ctx).map Thread.oslot

/-- The records that one context may have in a cluster's overflow area. -/
def overflowSize : Nat := 131072

/-- A slot that is free goes to a spilled record before a new one (R402). -/
def Cluster.slotFree (c : Cluster) : Nat := if c.spilledCount = 0 then 32768 - c.slotsUsed else 0

/-- Filing n records of a context finds room in the slots or in its overflow area (R402). -/
def State.canFile (s : State) (cl ctx n : Nat) : Bool :=
  n ≤ (s.cluster cl).slotFree + (overflowSize - (s.overflowed cl ctx).length)

/-- The core on which a crew stands, or stood when it was saved. -/
def State.crewCore (s : State) (uid : Nat) : Option Nat :=
  (s.cores.findIdx? fun k => k.crews.any fun e => e.2.uid = uid).or
    ((s.blocks.find? fun e => e.2.screws.any fun c => c.2.uid = uid).map fun e => e.2.core)

/-- What a record waits for (R25); a crew of rays returns to the core that holds its tiles (R37). -/
def State.targetOf (s : State) (t : Thread) : Target :=
  match s.blockOf t, t.crewRef with
  | some b, _ => .core b.core
  | none, some r => match s.crewCore r.uid with
    | some c => .core c
    | none => .cluster
  | none, none => .cluster

/-- Two records have one bin key (R25). -/
def sameKey (tgt : Thread → Target) (t u : Thread) : Bool :=
  u.kid = t.kid && u.pc = t.pc && u.ckey = t.ckey && tgt u = tgt t && u.crewRef.isNone

/-- The bin of a record's key that has room. -/
def Cluster.binFor (c : Cluster) (t : Thread) (x : Target) : Option Nat :=
  (c.bins.find? fun e =>
    e.2.kid = t.kid && e.2.pc = t.pc && e.2.ckey = t.ckey && e.2.target = x &&
    e.2.crew.isNone && e.2.recs.length < 32).map Prod.fst

/-- Opens a bin for records, if one of the 1,024 is free. -/
def Cluster.openBin (c : Cluster) (ts : List Thread) (x : Target) (crew : Option Nat) :
    Option Cluster :=
  match ts, Table.lowest c.bins 1024 0 with
  | t :: _, some k => some { c with
      bins := Table.put c.bins k
        { kid := t.kid, pc := t.pc, ckey := t.ckey, target := x, recs := ts, opened := c.clock,
          aged := false, crew := crew, starve := c.clock } }
  | _, _ => none

/-- Puts a record into its bin; nothing when no bin can be had. -/
def Cluster.bin (c : Cluster) (t : Thread) (x : Target) : Option Cluster :=
  let t := { t with wait := 0 }
  match c.binFor t x with
  | some k => some { c with bins := Table.upd c.bins k fun b => { b with recs := b.recs ++ [t] } }
  | none => c.openBin [t] x none

/-- The open bin that was opened first; of several opened in one cc, the first in the table (DESIGN CHOICE, log
121). -/
def Cluster.oldestBin (c : Cluster) : Option Nat :=
  (c.bins.foldl (fun (o : Option (Nat × Nat)) e =>
    match o with
    | some (k, t) => if e.2.opened < t then some (e.1, e.2.opened) else some (k, t)
    | none => some (e.1, e.2.opened)) none).map Prod.fst

/-- Marks the oldest open bin aged at once (R25). -/
def Cluster.ageOldest (c : Cluster) : Cluster :=
  match c.oldestBin with
  | some k => { c with bins := Table.upd c.bins k fun b => { b with aged := true } }
  | none => c

/-- A record takes a slot, or, where none is free to it, the lowest free place of its context's overflow area, where
its 256 bytes are written (R402, R443; the choice of the place: log 101). -/
def State.seat (s : State) (cl : Nat) (t : Thread) : Thread × State :=
  let c := s.cluster cl
  let t := { t with spilled := decide (c.slotFree = 0), oslot := 0, filedAt := c.clock }
  if !t.spilled then (t, s)
  else
    let ctx := s.ctxOfKid t.kid
    let used := s.overflowed cl ctx
    let o := ((natsFrom 0 (used.length + 1)).find? fun n => !(n ∈ used)).getD 0
    let u := s.recordBytes t t.pc t.ckey
    let a := (s.ctx ctx).saveArea + 0x1000000 + 0x5000000 * (cl - s.partOf ctx) + 256 * o
    ({ t with oslot := o },
      if s.paValid a then { u.2 with mem := u.2.mem.agentWrite s.tick 9 a u.1 } else u.2)

/-- Bins a record, or leaves it unbinned: records that wait unbinned enter bins before it (R25). -/
def Cluster.enter (c : Cluster) (tgt : Thread → Target) (t : Thread) : Cluster :=
  let x := tgt t
  let joins := (c.binFor t x).isSome && !c.unbinned.any fun u => sameKey tgt t u
  match (if joins || c.unbinned.isEmpty then c.bin t x else none) with
  | some c' => c'
  | none => ({ c with unbinned := c.unbinned ++ [t] }).ageOldest

/-- Files a record in the Cistern: binned, or unbinned while no bin is free (R25). -/
def State.file (s : State) (cl : Nat) (t : Thread) : State :=
  let r := s.seat cl t
  r.2.updCluster cl fun c => c.enter r.2.targetOf r.1

/-- Several records take their places in the Cistern, in order. -/
def takeAll : List Thread → State → Nat → List Thread × State
  | [], s, _ => ([], s)
  | t :: l, s, cl =>
    let r := s.seat cl t
    -- the record counts as held before the next takes its place
    let s1 := r.2.updCluster cl fun c => { c with waiting := c.waiting ++ [r.1] }
    let u := takeAll l s1 cl
    (r.1 :: u.1, u.2)

/-- A crew's records enter a bin of their own, which is full on arrival, or wait unbinned (R37). -/
def Cluster.enterCrew (c : Cluster) (ts : List Thread) (x : Target) (id : Nat) : Cluster :=
  let ts := ts.map fun t => { t with wait := 0 }
  match (if c.unbinned.isEmpty then c.openBin ts x (some id) else none) with
  | some c' => c'
  | none => ({ c with unbinned := c.unbinned ++ ts }).ageOldest

/-- Bins a crew's records, which hold their places, as one unit (R37). -/
def State.binCrew (s : State) (cl : Nat) (ts : List Thread) (id : Nat) : State :=
  match ts.head? with
  | none => s
  | some t0 => s.updCluster cl fun c => c.enterCrew ts (s.targetOf t0) id

/-- Files a crew's records as one unit (R37). -/
def State.fileCrew (s : State) (cl : Nat) (ts : List Thread) (id : Nat) : State :=
  let was := (s.cluster cl).waiting
  let r := takeAll ts s cl
  (r.2.updCluster cl fun c => { c with waiting := was }).binCrew cl r.1 id

/-- Files a record unbinned, to wait for a word or a phase (R227, R230). -/
def State.fileWaiting (s : State) (cl : Nat) (t : Thread) : State :=
  let r := s.seat cl t
  r.2.updCluster cl fun c => { c with waiting := c.waiting ++ [r.1] }

/-- Bins the waiting records whose condition holds (their descriptor is zero); a crew's records only
once every lane's does (R227). -/
def State.binWaiting (s : State) (cl : Nat) : State :=
  let all := (s.cluster cl).waiting
  let ready (t : Thread) : Bool :=
    match t.crewRef with
    | none => t.wait = 0
    | some r => all.all fun u =>
        (match u.crewRef with
          | some q => q.uid != r.uid
          | none => true) || u.wait = 0
  let go := all.filter ready
  let s1 := s.updCluster cl fun c => { c with waiting := c.waiting.filter fun t => !ready t }
  let s2 := (go.filter fun t => t.crewRef.isNone).foldl
    (fun s t => s.updCluster cl fun c => c.enter s.targetOf t) s1
  let crews := (go.filterMap fun t => t.crewRef.map CrewRef.uid).eraseDups
  crews.foldl (fun s u =>
    let ts := go.filter fun t => match t.crewRef with
      | some r => r.uid = u
      | none => false
    s.binCrew cl ts (((ts.head?.bind Thread.crewRef).map CrewRef.id).getD 0)) s2

/-! ### Basins (R28 to R30, R33) -/

/-- The key of a thread's basin at a PC. -/
def basinKey (t : Thread) (pc : Pc) : BasinKey :=
  { kid := t.kid, blockUid := if t.ray.isSome then 0 else t.blockUid, pc := pc }

/-- The basin of a key that has room. -/
def Core.basinFor (k : Core) (b : BasinKey) : Option Nat :=
  (k.basins.find? fun e => e.2.key = b && e.2.threads.length < 32).map Prod.fst

/-- A thread can be filed under a key now. -/
def Core.basinAvail (k : Core) (b : BasinKey) : Bool :=
  (k.basinFor b).isSome || (Table.lowest k.basins 64 0).isSome

/-- Marks the oldest basin eligible (R30); of several opened in one cc, the first in the table (DESIGN CHOICE, log
121). -/
def Core.forceOldest (k : Core) : Core :=
  let o := k.basins.foldl (fun (o : Option (Nat × Nat)) e =>
    match o with
    | some (i, t) => if e.2.opened < t then some (e.1, e.2.opened) else some (i, t)
    | none => some (e.1, e.2.opened)) none
  match o with
  | some (i, _) => { k with basins := Table.upd k.basins i fun b => { b with eligible := true } }
  | none => k

/-- A wave slot is free. -/
def Core.slotFree (k : Core) : Bool := (Table.lowest k.waves 64 0).isSome

/-- A thread is enrolled under a soft barrier (R32). A ray that a restore has taken to another core stays enrolled on
the one it left, until it arrives at an RCV, yields or ends. -/
def State.enrolled (s : State) (core : Nat) (t : Thread) (j : Nat) : Bool :=
  match s.blockOf t with
  | some b => (j, t.uid) ∈ b.soft
  | none => (natsFrom (8 * clusterOf core) 8).any fun c => (t.kid, j, t.uid) ∈ (s.core c).soft

/-- Enrols a thread, once. -/
def State.enrol (s : State) (core : Nat) (t : Thread) (j : Nat) : State :=
  if s.enrolled core t j then s
  else
    match s.blockOf t with
    | some b => s.updBlock b.uid fun b => { b with soft := b.soft ++ [(j, t.uid)] }
    | none => s.updCore core fun k => { k with soft := k.soft ++ [(t.kid, j, t.uid)] }

/-- Ends a thread's enrolment under one soft barrier, or under all. -/
def State.unenrol (s : State) (core : Nat) (t : Thread) (j : Option Nat) : State :=
  let keep (i uid : Nat) : Bool :=
    uid != t.uid || (match j with
      | some j => i != j
      | none => false)
  match s.blockOf t with
  | some b => s.updBlock b.uid fun b => { b with soft := b.soft.filter fun e => keep e.1 e.2 }
  | none => (natsFrom (8 * clusterOf core) 8).foldl (fun s c => s.updCore c fun k => { k with
      soft := k.soft.filter fun e => e.1 != t.kid || keep e.2.1 e.2.2 }) s

/-- Lanes still enrolled under the id of a basin. -/
def State.softLeft (s : State) (core : Nat) (b : BasinKey) (j : Nat) : Bool :=
  if b.blockUid = 0 then (s.core core).soft.any fun e => e.1 = b.kid && e.2.1 = j
  else
    match Table.get? s.blocks b.blockUid with
    | some x => x.soft.any fun e => e.1 = j
    | none => false

/-- A basin is eligible by what it holds (R29, R33): it is full, or, where an RCV files into it, its threshold is met or
nobody is left to come. -/
def State.basinDue (s : State) (core : Nat) (b : Basin) : Bool :=
  b.threads.length ≥ 32 ||
  match b.rcv with
  | some (t, j) => b.threads.length ≥ t || !s.softLeft core b.key j
  | none => false

/-- Judges the basins of a core, once all that one cc does to them and to the soft barriers has been applied (R222). -/
def State.judgeBasins (s : State) (core : Nat) : State :=
  s.updCore core fun k => { k with
    basins := k.basins.map fun e => (e.1, { e.2 with eligible := e.2.eligible || s.basinDue core e.2 }) }

/-- Files a thread with its registers into a basin (R28), which takes on an RCV's conditions (R33); nothing when no
basin can be had. -/
def State.fileBasin (s : State) (core : Nat) (t : Thread) (pc : Pc) (rcv : Option (Nat × Nat)) :
    Option State :=
  let k := s.core core
  let key := basinKey t pc
  let t := { t with st := .run, pc := pc }
  match k.basinFor key with
  | some i =>
    some (s.updCore core fun k => { k with
      basins := Table.upd k.basins i fun b =>
        { b with threads := b.threads ++ [t], rcv := b.rcv.or rcv } })
  | none =>
    match Table.lowest k.basins 64 0 with
    | none => none
    | some i =>
      let b : Basin :=
        { key := key, threads := [t], opened := (s.cluster (clusterOf core)).clock,
          eligible := false, rcv := rcv }
      some (s.updCore core fun k => { k with basins := Table.put k.basins i b })

/-! ### Ending an episode (R23) -/

/-- The carry count of a thread's kernel. -/
def State.carryOf (s : State) (t : Thread) : Nat :=
  if t.ray.isSome then 24 else ((Table.get? s.grids t.kid).map fun g => g.lrec.carry).getD 0

/-- The record of a thread that yields (R23): the carry set, the predicates of a compute thread, the
header. Its open batch is sealed (R278) and its pending bits cleared (R261). -/
def Thread.filed (t : Thread) (carry : Nat) (pc : Pc) (cause : BitVec 3) (key : Word) (wait : DWord) :
    Thread :=
  { t with
    v := t.v.filter fun e => e.1 < carry, p := if t.ray.isSome then 0 else t.p, flags := [], facq := []
    claimed := 0, depth := 0, key := none, pend := [], batch := 1, episode := t.episode + 1
    st := .run, pc := pc, ckey := key, cause := cause, wait := wait }

/-- The key a filing gives (R20, R83): KEY's value where it was set, else the ray's own, else zero. -/
def State.keyFor (s : State) (cl : Nat) (t : Thread) : Word × State :=
  match t.key, t.ray with
  | some k, _ => (k, s)
  | none, some r => s.rayKey cl t.kid r 0 r.origin
  | none, none => (0, s)

/-- The commit a thread makes as it yields (R127, R128): C to B outside a crew, C to G for a ray,
nothing for a crew. -/
def State.yieldCommit (s : State) (h : Here) (l : Nat) (t : Thread) : Except Level State :=
  if t.ray.isSome then (s.commitParty h [(l, t)] .g).map Prod.fst
  else if t.crewRef.isSome then .ok s
  else (s.commitParty h [(l, t)] .b).map Prod.fst

/-- The commits of several lanes, in lane order. -/
def yieldCommits : Table Thread → State → Here → Except Level State
  | [], s, _ => .ok s
  | e :: t, s, h =>
    match s.yieldCommit h e.1 e.2 with
    | .ok s' => yieldCommits t s' h
    | .error x => .error x

/-- Drops a crew with its tiles and id (R38). -/
def State.dissolve (s : State) (core id : Nat) : State :=
  s.updCore core fun k => { k with crews := Table.del k.crews id }

/-- Lanes leave a wave. When the last lane of a crew has left, the crew dissolves (R38). -/
def State.leave (s : State) (h : Here) (w : Wave) (ls : List Nat) : State × Wave :=
  let w' := w.dropLanes ls
  match w.crew with
  | some id => (if w'.lanes.isEmpty then s.dissolve h.core id else s, w')
  | none => (s, w')

/-- The commit C to B of a crew whose last lane leaves (R127). Where its lanes stand in several blocks, the B buffer is
that of the highest lane's block (DESIGN CHOICE, log 122). -/
def State.lastCommit (s : State) (h : Here) (ls : Table Thread) : Except Level State :=
  let left := h.wave.lanes.filter fun e => !(ls.any fun x => x.1 = e.1)
  match h.wave.crew, ls.getLast? with
  | some _, some e =>
    if left.isEmpty && e.2.ray.isNone then (s.commitParty h [e] .b).map Prod.fst else .ok s
  | _, _ => .ok s

/-- Every flag of the lanes is clear (R23). -/
def flagsClear (ls : Table Thread) : Bool := ls.all fun e => e.2.flagsClear

end Sys2Proof.Machine
end

