-- ==== Sys2Proof/Machine/Barrier.lean ====
section
/-! DEFINITION. Barriers and groups (spec/02 R42, R43; spec/05 R136; spec/09 R259 to R263). -/

namespace Sys2Proof.Machine

/-! ### Finding barriers -/

/-- The group a barrier is bound to at placement (R260). -/
def State.boundGroup (s : State) (kid : Nat) (gang : Bool) (n : Nat) : Nat :=
  match Table.get? s.grids kid with
  | some g => (if gang then g.lrec.gangGroups.toNat else g.lrec.hwGroups.toNat) / 16 ^ n % 16
  | none => 0

/-- The hardware or gang barriers a kernel's launch record gives it (R343). -/
def State.barCount (s : State) (kid : Nat) (gang : Bool) : Nat :=
  match Table.get? s.grids kid with
  | some g => if gang then g.lrec.gangBars else g.lrec.hwBars
  | none => 0

/-- A barrier before anything has used it. -/
def Barrier.fresh (group : Nat) : Barrier :=
  { group := group, arrived := [], phase := 0, view := View.zero, marks := [], past := [] }

/-- The barrier n of a block, or of its gang. -/
def State.barrier (s : State) (b : Block) (gang : Bool) (n : Nat) : Barrier :=
  let bars := if gang then ((Table.get? s.gangs b.gangUid).map Gang.bars).getD []
    else ((Table.get? s.blocks b.uid).map Block.bars).getD []
  (Table.get? bars n).getD (Barrier.fresh (s.boundGroup b.kid gang n))

/-- Stores a barrier. -/
def State.setBarrier (s : State) (b : Block) (gang : Bool) (n : Nat) (x : Barrier) : State :=
  if gang then s.updGang b.gangUid fun g => { g with bars := Table.put g.bars n x }
  else s.updBlock b.uid fun b => { b with bars := Table.put b.bars n x }

/-- The blocks a barrier spans. -/
def State.barBlocks (s : State) (b : Block) (gang : Bool) : List Block :=
  if gang then
    (((Table.get? s.gangs b.gangUid).map Gang.blocks).getD []).filterMap fun u =>
      Table.get? s.blocks u
  else
    match Table.get? s.blocks b.uid with
    | some x => [x]
    | none => []

/-- A thread is a member of a group of its block (R42). -/
def Block.member (b : Block) (uid g : Nat) : Bool :=
  match Table.get? b.live uid with
  | some m => g = 0 || m.getLsbD g
  | none => false

/-- The membership of a group over some blocks. -/
def membership (bs : List Block) (g : Nat) : Nat :=
  bs.foldl (fun n b => n + (b.live.filter fun e => g = 0 || e.2.getLsbD g).length) 0

/-! ### Copies an arrival waits for (R136) -/

/-- A batch was sealed before an arrival. -/
def sealedBy (a : BarArrival) (episode batch : Nat) : Bool :=
  episode < a.episode || (episode = a.episode && batch < a.batch)

/-- Copies of a block still in flight. -/
def State.copiesOf (s : State) (b : Block) : List Copy :=
  ((s.core b.core).copies.map Prod.snd).filter (fun c => c.blockUid = b.uid) ++ b.scopies

/-- Every batch the arrivers sealed before arriving has completed. -/
def State.batchesDone (s : State) (bs : List Block) (as : List BarArrival) : Bool :=
  bs.all fun b => (s.copiesOf b).all fun c =>
    c.stage.isSome || c.kind = .fill ||
    as.all fun a => c.uid != a.uid || !sealedBy a c.episode c.batch

/-- The views of the completed batches the arrivers sealed. -/
def batchView (bs : List Block) (as : List BarArrival) (v : View) : View :=
  bs.foldl (fun v b => b.done.foldl (fun v d =>
    if as.any fun a => d.uid = a.uid && sealedBy a d.episode d.batch then v.join d.view else v) v) v

/-! ### Completion (R262) -/

/-- The scope of a barrier (R262). -/
def barScope (gang : Bool) : Level := if gang then .g else .b

/-- The acquire that the completion of a phase is for a member (R133, R136): `v` is what the phase's arrivals
released. -/
def State.phaseView (s : State) (core : Nat) (gang : Bool) (v : View) (t : Thread) : Thread :=
  { t with view := (acquireView t.view (s.links core t).chain (barScope gang) t.seen).join v }

/-- A lane stops for a phase of a barrier of some blocks. -/
def Thread.stoppedAt (t : Thread) (blocks : List Nat) (gang : Bool) (n phase : Nat) : Bool :=
  match t.st with
  | .stopped g m p => g = gang && m = n && p = phase && t.blockUid ∈ blocks
  | _ => false

/-- Lanes stopped at a barrier are released (R43): in a crew they run on; otherwise in their wave where its next
instruction stands at their resume PC, as it does in a wave that is parked, and else through a basin. -/
def Wave.release (w : Wave) (blocks : List Nat) (gang : Bool) (n phase : Nat) (go : Thread → Thread) : Wave :=
  match w.lanes.find? fun e => e.2.stoppedAt blocks gang n phase with
  | none => w
  | some e0 =>
    let parked := w.crew.isNone && w.active.isEmpty
    let pc := if parked then e0.2.pc else w.pc
    { w with
      pc := pc, clause := if pc = w.pc then w.clause else none
      lanes := w.lanes.map fun e =>
        if e.2.stoppedAt blocks gang n phase then
          (e.1, { go e.2 with st := if w.crew.isSome || pc = e.2.pc then .run else .leaving e.2.pc none })
        else e }

/-- A record waiting for a phase (R228, R230): its descriptor is written back to zero. -/
def Thread.phaseDone (t : Thread) (gang : Bool) (n phase : Nat) (go : Thread → Thread) : Thread :=
  let d : Nat := 2 * 2 ^ 62 + (if gang then 2 ^ 61 else 0) + n * 2 ^ 57 + phase % 2 ^ 32
  if t.wait = BitVec.ofNat 64 d then { go t with wait := 0 } else t

/-- Completes a phase: the count advances, arrivals return to zero, and every waiting member goes on
with the acquire of R136. -/
def State.completePhase (s : State) (b : Block) (gang : Bool) (n : Nat) (x : Barrier) : State :=
  let bs := s.barBlocks b gang
  let v := batchView bs x.arrived (x.marks.foldl (fun v k => v.join k.view) View.zero)
  let y : Barrier :=
    { x with
      arrived := [], phase := (x.phase + 1) % 2 ^ 32, view := v, marks := []
      past := Table.put x.past x.phase v }
  let uids := bs.map Block.uid
  let s1 := s.setBarrier b gang n y
  let cores := (bs.map Block.core).eraseDups
  let go (core : Nat) (t : Thread) : Thread := s.phaseView core gang v t
  let rel (core : Nat) (w : Wave) : Wave := w.release uids gang n x.phase (go core)
  let s2 := cores.foldl (fun s c => s.updCore c fun k =>
    { k with waves := k.waves.map fun e => (e.1, rel c e.2) }) s1
  let s3 := uids.foldl (fun s u => s.updBlock u fun b => { b with swaves := b.swaves.map (rel b.core) }) s2
  let cls := (cores.map clusterOf).eraseDups
  cls.foldl (fun s cl =>
    let wake (t : Thread) : Thread :=
      if t.blockUid ∈ uids && t.ray.isNone then
        t.phaseDone gang n x.phase (go (((Table.get? s.blocks t.blockUid).map Block.core).getD 0))
      else t
    let s4 := s.updCluster cl fun c =>
      { c with
        waiting := c.waiting.map wake
        rotated := c.rotated.map fun r => { r with wave := rel r.core r.wave } }
    s4.binWaiting cl) s3

/-- Judges one barrier (R262). -/
def State.judgeBar (s : State) (b : Block) (gang : Bool) (n : Nat) : State :=
  let x := s.barrier b gang n
  let bs := s.barBlocks b gang
  if !x.arrived.isEmpty && x.arrived.length ≥ membership bs x.group && s.batchesDone bs x.arrived then
    s.completePhase b gang n x
  else s

/-- Judges every barrier of a block and of its gang. -/
def State.judgeBlock (s : State) (b : Block) : State :=
  let s1 := b.bars.foldl (fun s e => s.judgeBar b false e.1) s
  let gbars := ((Table.get? s1.gangs b.gangUid).map Gang.bars).getD []
  gbars.foldl (fun s e => s.judgeBar b true e.1) s1

/-- Judges the barriers of a cluster's blocks, once all that one cc does to them has been applied (R262). -/
def State.judgeBars (s : State) (cl : Nat) : State :=
  (s.blocks.filter fun e => clusterOf e.2.core = cl).foldl (fun s e => s.judgeBlock e.2) s

/-! ### Arriving and leaving -/

/-- An arrival by a thread: counted once, with its release, which its later arrivals carry too (R133). A thread that
arrives again after a yield, while its arrival stands (R261), has sealed more batches, which the phase waits for as
well (R136, R278). -/
def State.arrive (s : State) (h : Here) (t : Thread) (b : Block) (gang : Bool) (n : Nat) : State × Thread :=
  let x := s.barrier b gang n
  let k := s.markOf h t (barScope gang)
  (s.setBarrier b gang n
    { x with
      arrived := (x.arrived.filter fun a => a.uid != t.uid) ++
        [{ uid := t.uid, episode := t.episode, batch := t.batch }]
      marks := x.marks ++ [k] }, t.release k)

/-- The pending arrival of a thread at a barrier (R261). -/
def Thread.pending (t : Thread) (gang : Bool) (n : Nat) : Option PendArr :=
  t.pend.find? fun p => p.gang = gang && p.n = n

def Thread.dropPending (t : Thread) (gang : Bool) (n : Nat) : Thread :=
  { t with pend := t.pend.filter fun p => !(p.gang = gang && p.n = n) }

/-- Withdraws a thread's arrival in the current phase of a barrier (R263). -/
def Barrier.withdraw (x : Barrier) (uid : Nat) : Barrier :=
  { x with
    arrived := x.arrived.filter fun a => a.uid != uid
    marks := x.marks.filter fun k => k.who.uid != uid }

/-- Withdraws a thread's arrivals at every barrier bound to some groups (R231, R263). -/
def State.withdraw (s : State) (b : Block) (uid : Nat) (bound : Nat → Bool) : State :=
  let f (e : Nat × Barrier) : Nat × Barrier := if bound e.2.group then (e.1, e.2.withdraw uid) else e
  (s.updBlock b.uid fun b => { b with bars := b.bars.map f }).updGang b.gangUid fun g =>
    { g with bars := g.bars.map f }

/-- Binds a barrier to a group (R260); nothing when its phase has arrivals under another. -/
def State.bindBar (s : State) (b : Block) (gang : Bool) (n g : Nat) : Option State :=
  let x := s.barrier b gang n
  if x.arrived.isEmpty then some (s.setBarrier b gang n { x with group := g })
  else if x.group = g then some s
  else none

/-- What BAR does with a pending arrival (R261): nothing stands; one in the current phase; or one in a completed
phase, for which the thread acquires. -/
inductive Stands where
  | no | now | past (t : Thread)
deriving DecidableEq, Repr

/-- How a thread's pending arrival stands to a barrier's phase. -/
def State.stands (s : State) (h : Here) (t : Thread) (x : Barrier) (gang : Bool) (n : Nat) : Stands :=
  match t.pending gang n with
  | none => .no
  | some p =>
    if p.phase = x.phase then .now
    else
      .past (s.phaseView h.core gang ((Table.get? x.past p.phase).getD View.zero) (t.dropPending gang n))

/-- One lane of BAR or ARRIVE (R261). -/
def State.barLane (s : State) (h : Here) (w : Wave) (l : Nat) (t : Thread) (b : Block)
    (gang stop : Bool) (n : Nat) (pc : Pc) : State × Wave :=
  let x := s.barrier b gang n
  if !b.member t.uid x.group then (s, w)
  else
    let halt (t : Thread) : Thread := { t with st := .stopped gang n x.phase, pc := pc }
    let p : PendArr := { gang := gang, n := n, phase := x.phase }
    match s.stands h t x gang n, stop with
    | .now, true => (s, w.setLane l (halt (t.dropPending gang n)))
    | .now, false => (s, w)
    | .past t1, true => (s, w.setLane l t1)
    | .past _, false =>
      let r := s.arrive h (t.dropPending gang n) b gang n
      (r.1, w.setLane l { r.2 with pend := r.2.pend ++ [p] })
    | .no, true =>
      let r := s.arrive h t b gang n
      (r.1, w.setLane l (halt r.2))
    | .no, false =>
      let r := s.arrive h t b gang n
      (r.1, w.setLane l { r.2 with pend := r.2.pend ++ [p] })

/-- BAR and ARRIVE (R259 to R262). -/
def barRun (x : BarOp) (stop : Bool) (s : State) : Res :=
  s.issue { len := 8, g := x.g, cluster := true, orders := true } fun h ls =>
    let illegal (l : Nat) : State := s.raise h { code := 1, lane := some l }
    match ls.find? fun e => (s.blockOf e.2).isNone || x.n.toNat ≥ s.barCount h.wave.kid x.gang with
    | some e => illegal e.1
    | none =>
      let n := x.n.toNat
      let blocks := (ls.filterMap fun e => s.blockOf e.2).eraseDups
      let bound : Option State := match x.bind with
        | none => some s
        | some g => blocks.foldl (fun (o : Option State) b =>
            match o with
            | none => none
            | some s => s.bindBar b x.gang n g.toNat) (some s)
      match bound with
      | none => illegal ((lowLane ls).getD 0)
      | some s0 =>
        let pc := h.wave.after 8
        let r := ls.foldl (fun (r : State × Wave) e =>
          match s0.blockOf e.2 with
          | some b => State.barLane r.1 h r.2 e.1 e.2 b x.gang stop n pc
          | none => r) (s0, h.wave)
        r.1.done h r.2 pc

/-- BAR. -/
def execBar (x : BarOp) (s : State) : Res := barRun x true s

/-- ARRIVE. -/
def execArrive (x : BarOp) (s : State) : Res := barRun x false s

/-- JOIN and LEAVE (R42, R263). -/
def groupRun (x : GroupOp) (enter : Bool) (s : State) : Res :=
  s.issue { len := 8, g := x.g, cluster := true } fun h ls =>
    let g := x.grp.toNat
    match ls.find? fun e => (s.blockOf e.2).isNone || g = 0 with
    | some e => s.raise h { code := 1, lane := some e.1 }
    | none =>
      let bit : BitVec 16 := BitVec.ofNat 16 (2 ^ g)
      let one (r : State × Wave) (e : Nat × Thread) : State × Wave :=
        match r.1.blockOf e.2 with
        | none => r
        | some b =>
          let m := Table.getD b.live e.2.uid 0
          if enter then
            (r.1.updBlock b.uid fun b => { b with live := Table.put b.live e.2.uid (m ||| bit) }, r.2)
          else if !m.getLsbD g then r
          else
            let s1 := r.1.updBlock b.uid fun b =>
              { b with live := Table.put b.live e.2.uid (m &&& ~~~bit) }
            let gone (p : PendArr) : Bool :=
              let y := s1.barrier b p.gang p.n
              y.group = g && p.phase = y.phase
            let t := { e.2 with pend := e.2.pend.filter fun p => !gone p }
            (s1.withdraw b e.2.uid fun q => q = g, r.2.setLane e.1 t)
      let r := ls.foldl one (s, h.wave)
      r.1.doneLen h r.2 8

/-- JOIN. -/
def execJoin (x : GroupOp) (s : State) : Res := groupRun x true s

/-- LEAVE. -/
def execLeave (x : GroupOp) (s : State) : Res := groupRun x false s

end Sys2Proof.Machine
end

