-- ==== Sys2Proof/Machine/Control.lean ====
section
/-! DEFINITION. Control instructions (spec/08 R219 to R235; spec/02 R30 to R38; spec/07 R174). -/

namespace Sys2Proof.Machine

/-- BranchTarget (R190). -/
def branchTarget (pc : Pc) (off : Word) : Pc := pc + (off.signExtend 52) * 8

/-- NOP (R235). -/
def execNop (x : NullOp) (s : State) : Res :=
  s.issue { len := 8, g := x.g } fun h _ => s.doneLen h h.wave 8

/-- BRA (R220). -/
def execBra (x : BraOp) (s : State) : Res :=
  s.issue { len := 16, g := x.g, uniform := true, final := true } fun h _ =>
    s.done h h.wave (branchTarget h.wave.pc x.off)

/-! ### BRD and RCV -/

/-- The mask of some lanes. -/
def maskOf (ls : Table Thread) : BitVec 32 :=
  ls.foldl (fun m e => m ||| (1#32 <<< e.1)) 0

/-- The depth of the mask stack (R36): entries whose fall-through side has not run. -/
def Wave.depth (w : Wave) : Nat := (w.mask.filter fun e => !e.second).length

/-- Lanes leave for a basin at a PC (R28): they keep their place until their flags clear. -/
def Wave.leaving (w : Wave) (ls : Table Thread) (pc : Pc) (rcv : Option (Nat × Nat)) : Wave :=
  w.updLanes ls fun _ t => { t with st := .leaving pc rcv }

/-- The room that the basins of a key have. -/
def Core.basinRoom (k : Core) (b : BasinKey) : Nat :=
  k.basins.foldl (fun n e => if e.2.key = b then n + (32 - e.2.threads.length) else n) 0

/-- Basins can be had for some lanes at their PCs (R30). -/
def State.basinsFor (s : State) (core : Nat) (l : List (Thread × Pc)) : Bool :=
  let keys := l.map fun e => basinKey e.1 e.2
  let k := s.core core
  let fresh := (keys.eraseDups.filter fun b => k.basinRoom b < (keys.filter fun c => c = b).length).length
  fresh + k.basins.length ≤ 64

/-- Marks the oldest basin eligible, for a filing that waits (R30). -/
def State.forceBasin (s : State) (core : Nat) : State := s.updCore core Core.forceOldest

/-- Divides a wave that is no crew (R31): the larger group goes on, the other leaves. -/
def State.divide (s : State) (h : Here) (yes no : Table Thread) (tgt fall : Pc) : State :=
  if no.length ≥ yes.length then s.done h (h.wave.leaving yes tgt none) fall
  else s.done h (h.wave.leaving no fall none) tgt

/-- Divides a wave on its mask stack (R36): the taken lanes run on at the target. -/
def State.maskDivide (s : State) (h : Here) (j : BitVec 4) (no : Table Thread) (tgt fall : Pc) :
    State :=
  let e : MaskEntry := { id := j, other := maskOf no, pc := fall, second := false }
  s.done h { h.wave with mask := e :: h.wave.mask } tgt

/-- BRD (R221, R30, R31, R36). -/
def execBrd (x : BrdOp) (s : State) : Res :=
  s.issue { len := 16, g := .always, final := true } fun h ls =>
    let j := x.j.toNat
    let tgt := branchTarget h.wave.pc x.off
    let fall := h.wave.after 16
    let yes := ls.filter fun e => e.2.pred x.pa.toNat != x.neg
    let no := ls.filter fun e => !(e.2.pred x.pa.toNat != x.neg)
    let enrol (s : State) : State := ls.foldl (fun s e => s.enrol h.core e.2 j) s
    if h.hand.isSome then s.done h h.wave (if no.isEmpty then tgt else fall)
    else if no.isEmpty then (enrol s).done h h.wave tgt
    else if yes.isEmpty then (enrol s).done h h.wave fall
    else if h.wave.crew.isSome then
      if h.wave.depth ≥ 16 then s.raise h { code := 2, lane := lowLane ls }
      else (enrol s).maskDivide h x.j no tgt fall
    else
      let filed := if no.length ≥ yes.length then (yes, tgt) else (no, fall)
      let avail := s.basinsFor h.core (filed.1.map fun e => (e.2, filed.2))
      if h.wave.mask.isEmpty || h.wave.depth ≥ 16 then
        if avail then (enrol s).divide h yes no tgt fall
        else if h.wave.depth ≥ 16 || (s.core h.core).slotFree then s.forceBasin h.core
        else (enrol (s.forceBasin h.core)).maskDivide h x.j no tgt fall
      else (enrol s).maskDivide h x.j no tgt fall

/-- RCV where the id is on the top of the mask stack (R36). Once its first side waits, the entry stays on top as
`second` until the other side comes to the same RCV: meanwhile an RCV that names an enclosing id is a NOP, and a BRD
divides on the stack (DESIGN CHOICE, log 102). -/
def State.maskRcv (s : State) (h : Here) (ls : Table Thread) (e : MaskEntry) (t : List MaskEntry)
    (j : Nat) : State :=
  let s1 := ls.foldl (fun s x => s.unenrol h.core x.2 (some j)) s
  let pc := h.wave.after 8
  if e.second then s1.done h { h.wave with mask := t } pc
  else
    let e' : MaskEntry := { id := e.id, other := maskOf ls, pc := pc, second := true }
    s1.done h { h.wave with mask := e' :: t } e.pc

/-- RCV (R222, R33, R36). -/
def execRcv (x : RcvOp) (s : State) : Res :=
  s.issue { len := 8, g := x.g, final := true } fun h ls =>
    let j := x.j.toNat
    if h.hand.isSome then s.doneLen h h.wave 8
    else if h.wave.crew.isSome || !h.wave.mask.isEmpty then
      match h.wave.mask with
      | [] => s.doneLen h h.wave 8
      | e :: t =>
        -- the second side comes to the same RCV
        if e.id != x.j || (e.second && e.pc != h.wave.after 8) then s.doneLen h h.wave 8
        else if ls.length != h.wave.active.length then s.raise h { code := 2, lane := lowLane ls }
        else s.maskRcv h ls e t j
    else
      let pc := h.wave.after 8
      let come := ls.filter fun e => s.enrolled h.core e.2 j
      if come.isEmpty then s.doneLen h h.wave 8
      else if !s.basinsFor h.core (come.map fun e => (e.2, pc)) then s.forceBasin h.core
      else
        let s1 := come.foldl (fun s e => s.unenrol h.core e.2 (some j)) s
        s1.done h (h.wave.leaving come pc (some (x.t.toNat + 1, j))) pc

/-- REFORM (R223, R28, R30). -/
def execReform (x : NullOp) (s : State) : Res :=
  s.issue { len := 8, g := x.g, final := true } fun h ls =>
    let pc := h.wave.after 8
    if h.hand.isSome || h.wave.crew.isSome || !h.wave.mask.isEmpty then s.doneLen h h.wave 8
    else if s.basinsFor h.core (ls.map fun e => (e.2, pc)) then
      s.done h (h.wave.leaving ls pc none) pc
    else if (s.core h.core).slotFree then s.forceBasin h.core
    else (s.forceBasin h.core).doneLen h h.wave 8

/-! ### Yields -/

/-- A lane of a ray stands in a call-out episode (R226). -/
def inCallout (t : Thread) : Bool :=
  match t.ray with
  | some r => r.ep != .plain
  | none => false

/-- Where a yielded record goes. -/
inductive Filing where
  | bin
  | wait (d : DWord)
deriving DecidableEq, Repr

/-- Files the records of lanes that yield (R23): commits, seals, ends enrolments, and passes each record
to the Cistern. `place` says which wait, and with what. -/
def State.yieldLanes (s : State) (h : Here) (ls : Table Thread) (cause : BitVec 3) (pc : Pc)
    (place : Thread → Filing) : Except Level State :=
  let cl := clusterOf h.core
  match yieldCommits ls s h with
  | .error e => .error e
  | .ok s1 =>
    let s2 := ls.foldl (fun s e => s.unenrol h.core e.2 none) s1
    let whole := h.wave.crew.isSome
    let one (r : State × List Thread) (e : Nat × Thread) : State × List Thread :=
      let k := r.1.keyFor cl e.2
      let d := match place e.2 with
        | .bin => 0
        | .wait d => d
      let t := e.2.filed (k.2.carryOf e.2) pc cause k.1 d
      let t := { t with crewRef := if whole then t.crewRef else none }
      if whole then (k.2, r.2 ++ [t])
      else if d = 0 then (k.2.file cl t, r.2)
      else (k.2.fileWaiting cl t, r.2)
    let r := ls.foldl one (s2, [])
    let s3 :=
      if whole then
        if r.2.all fun t => t.wait = 0 then r.1.fileCrew cl r.2 (h.wave.crew.getD 0)
        else r.2.foldl (fun s t => s.fileWaiting cl t) r.1
      else r.1
    let w := h.wave.dropLanes (ls.map Prod.fst)
    .ok (s3.done h w pc)

/-- A filing of n records finds no room, and waits at its source (R402). -/
def State.noRoom (s : State) (h : Here) (n : Nat) : Bool :=
  h.hand.isNone && !s.canFile (clusterOf h.core) h.wave.ctx n

/-- The checks every yield makes before it acts, after those of R183: no call-out episode, clear flags, room in the
Cistern. Nothing when it may go on. -/
def State.yieldStop (s : State) (h : Here) (ls : Table Thread) : Option State :=
  match ls.find? fun e => inCallout e.2 with
  | some e => some (s.raise h { code := 1, lane := some e.1 })
  | none =>
    if !flagsClear ls then some s
    else if s.noRoom h ls.length then some (s.notReady h (.filing ls.length))
    else s.crewStop h

/-- A handler that yields: its one thread goes on at once, for no Cistern holds it. -/
def State.yieldRun (s : State) (h : Here) (ls : Table Thread) (cause : BitVec 3) (len : Nat)
    (place : Thread → Filing) : State :=
  match h.hand with
  | some _ => s.doneLen h h.wave len
  | none =>
    match s.yieldLanes h ls cause (h.wave.after len) place with
    | .ok s' => s'
    | .error e => s.overflow h ((lowLane ls).getD 0) e

/-- YIELD (R226). -/
def execYield (x : NullOp) (s : State) : Res :=
  s.issue { len := 8, g := x.g, final := true, whole := true, orders := true } fun h ls =>
    match s.yieldStop h ls with
    | some s' => s'
    | none => s.yieldRun h ls 1 8 fun _ => .bin

/-- A condition of AWAIT and CMPQ on words of n bits (R227). -/
def wcondHolds (c : WCond) (n : Nat) (a b : Nat) : Bool :=
  let sg (v : Nat) : Int := if v ≥ 2 ^ (n - 1) then (v : Int) - 2 ^ n else v
  match c with
  | .eq => a = b
  | .ne => a != b
  | .lt => sg a < sg b
  | .ge => sg b ≤ sg a
  | .ltu => a < b
  | .geu => b ≤ a

/-- The code of a condition (R227). -/
def wcondCode : WCond → Nat
  | .eq => 0
  | .ne => 1
  | .lt => 2
  | .ge => 3
  | .ltu => 4
  | .geu => 5

/-- The wait descriptor of AWAIT (R228). -/
def awaitDesc (c : WCond) (reg addr : Nat) : DWord :=
  let k := wcondCode c
  BitVec.ofNat 64 (2 ^ 62 + k / 4 * 2 ^ 61 + k % 4 * 2 ^ 59 + reg / 8 * 2 ^ 57 + reg % 8 * 2 ^ 54 +
    addr)

/-- AWAIT (R227): its checks, a first sample, then the filing. That v[C] lies in the carry set is tested before the
address is (DESIGN CHOICE, log 123). A handler, whose thread no Cistern holds, samples until
the condition holds. -/
def execAwait (x : AwaitOp) (s : State) : Res :=
  let f : Form :=
    { len := 16, g := x.g, final := true, whole := true, orders := true, uses := (x.c.toNat, 1) :: Src.run 2 x.a }
  s.issue f fun h ls =>
    let bad (t : Thread) : Bool := x.c.toNat ≥ s.carryOf t && h.hand.isNone
    match ls.find? fun e => bad e.2 with
    | some e => s.raise h { code := 1, lane := some e.1 }
    | none =>
      let addr (t : Thread) : Nat :=
        (Src.int64 h.wave none t x.a + x.off.signExtend 64).toNat
      let req (e : Nat × Thread) : Req :=
        { lane := e.1, t := e.2, addr := addr e.2, space := spaceOf (addr e.2), size := 4,
          form := false }
      let rs := ls.map req
      let fault (code : Nat) (r : Req) : State :=
        s.raise h { code := code, lane := some r.lane, addr := r.addr }
      -- EffAddr comes first; then the order of R227
      match rs.find? fun r => r.addr ≥ 2 ^ 52 with
      | some r => fault 5 r
      | none =>
        match rs.find? fun r => !r.aligned with
        | some r => fault 3 r
        | none =>
          match rs.find? fun r => match r.space with
            | .global _ => false
            | _ => true with
          | some r => fault 5 r
          | none =>
            let u := s.prepare h rs .read true
            match u.1 with
            | .error s' => s'
            | .ok accs =>
              match poisonHit u.2 h accs with
              | some (a, line) =>
                u.2.raise h { code := 0x0E, lane := some a.req.lane, addr := line }
              | none =>
                match u.2.yieldStop h ls with
                | some s' => s'
                | none =>
                  let r := u.2.loadAll h (.strong .d) accs
                  let val (t : Thread) : Nat := ((r.1.find? fun e => e.1.req.t.uid = t.uid).map
                    fun e => natOf e.2).getD 0
                  let met (t : Thread) : Bool :=
                    wcondHolds x.cond 32 (val t) (t.reg x.c.toNat).toNat
                  let w := r.2.1.updLanes ls fun l t => { t with alane := l }
                  let h' : Here := { h with wave := w }
                  let ls' := w.passing x.g
                  if h.hand.isSome && !ls'.all fun e => met e.2 then r.2.2.putWave h' w
                  else r.2.2.yieldRun h' ls' 2 16 fun t =>
                    if met t then .bin else .wait (awaitDesc x.cond x.c.toNat (addr t))

/-- One lane of PHASE (R230): the arrival of BAR, and where the record goes. The open batch is sealed before the
arrival (R278). -/
def State.phaseLane (s : State) (h : Here) (gang : Bool) (n : Nat) (t : Thread) : State × Thread × Filing :=
  match s.blockOf t with
  | none => (s, t, .bin)
  | some b =>
    let y := s.barrier b gang n
    let wait : Filing :=
      .wait (BitVec.ofNat 64 (2 * 2 ^ 62 + (if gang then 2 ^ 61 else 0) + n * 2 ^ 57 + y.phase))
    if !b.member t.uid y.group then (s, t, .bin)
    else
      match s.stands h t y gang n with
      | .past t1 => (s, t1, .bin)
      | .now => (s, t, wait)
      | .no =>
        let r := s.arrive h { t with batch := t.batch + 1 } b gang n
        (r.1, r.2, wait)

/-- PHASE (R230): the arrivals, then a yield that waits for the phase. -/
def execPhase (x : PhaseOp) (s : State) : Res :=
  s.issue { len := 16, g := x.g, final := true, cluster := true, whole := true, orders := true } fun h ls =>
    match ls.find? fun e => (s.blockOf e.2).isNone || x.n.toNat ≥ s.barCount h.wave.kid x.gang with
    | some e => s.raise h { code := 1, lane := some e.1 }
    | none =>
      match s.yieldStop h ls with
      | some s' => s'
      | none =>
        let one (r : State × List (Nat × Thread × Filing)) (e : Nat × Thread) :
            State × List (Nat × Thread × Filing) :=
          let u := r.1.phaseLane h x.gang x.n.toNat e.2
          (u.1, r.2 ++ [(e.1, u.2)])
        let r := ls.foldl one (s, [])
        let place (t : Thread) : Filing :=
          ((r.2.find? fun e => e.2.1.uid = t.uid).map fun e => e.2.2).getD .bin
        match r.1.yieldLanes h (r.2.map fun e => (e.1, e.2.1)) 3 (h.wave.after 16) place with
        | .ok s' => s'
        | .error e => s.overflow h ((lowLane ls).getD 0) e

/-! ### Calls and returns -/

/-- CALL (R224). -/
def execCall (x : CallOp) (s : State) : Res :=
  let f : Form := { len := 16, g := x.g, uniform := true, final := true, uses := [(x.d.toNat, 2)] }
  s.issue f fun h ls =>
    match ls.find? fun e => e.2.depth = 255 with
    | some e => s.raise h { code := 1, cause := 1, lane := some e.1 }
    | none =>
      let w := h.wave.updLanes ls fun _ t =>
        { t.setPair x.d.toNat ((h.wave.after 16).setWidth 64) with depth := t.depth + 1 }
      s.done h w (branchTarget h.wave.pc x.off)

/-- The target of an indirect jump (R225). -/
def jumpTarget (w : Wave) (t : Thread) (a : Src) : DWord := Src.int64 w none t a

/-- The target of a lane's jump as a PC. -/
def jumpPc (w : Wave) (a : Src) (t : Thread) : Pc := (jumpTarget w t a).setWidth 52

/-- The lanes that do not go where the lowest of them goes. -/
def Wave.apart (w : Wave) (ls : Table Thread) (a : Src) : Table Thread :=
  match ls.head? with
  | none => []
  | some e0 => ls.filter fun e => jumpPc w a e.2 != jumpPc w a e0.2

/-- What stops lanes that jump to their own targets (R225): an address fault, a crew whose targets differ, or basins
that are short. Nothing when they may go. -/
def State.jumpStop (s : State) (h : Here) (ls : Table Thread) (a : Src) : Option State :=
  match ls.find? fun e => (jumpTarget h.wave e.2 a).toNat ≥ 2 ^ 52 with
  | some e => some (s.raise h { code := 5, lane := some e.1, addr := (jumpTarget h.wave e.2 a).toNat })
  | none =>
    let others := h.wave.apart ls a
    if others.isEmpty then none
    else if h.wave.crew.isSome then some (s.raise h { code := 2, lane := lowLane ls })
    else if !s.basinsFor h.core (others.map fun e => (e.2, jumpPc h.wave a e.2)) then some (s.forceBasin h.core)
    else none

/-- Lanes jump (R225): those at the lowest lane's target go on, the others leave for basins. -/
def State.jumpGo (s : State) (h : Here) (ls : Table Thread) (a : Src) (after : Thread → Thread) : State :=
  match ls.head? with
  | none => s.done h h.wave (h.wave.after 8)
  | some e0 =>
    let w := (h.wave.updLanes ls fun _ t => after t).updLanes (h.wave.apart ls a) fun _ t =>
      { t with st := .leaving (jumpPc h.wave a t) none }
    s.done h w (jumpPc h.wave a e0.2)

/-- Lanes jump to their own targets, or are stopped. -/
def State.jumpLanes (s : State) (h : Here) (ls : Table Thread) (a : Src)
    (after : Thread → Thread) : State :=
  match s.jumpStop h ls a with
  | some s' => s'
  | none => s.jumpGo h ls a after

/-- JMPI (R225). -/
def execJmpi (x : JumpOp) (s : State) : Res :=
  s.issue { len := 8, g := x.g, uniform := true, final := true, uses := Src.run 2 x.a } fun h ls =>
    s.jumpLanes h ls x.a id

/-- The ray part after a closest-hit or miss episode has ended by RET (R82): the stack is empty. -/
def RayPart.returned (r : RayPart) : RayPart :=
  { r with stack := [], ret := none, cand := none, ep := .plain, shader := 0 }

/-- Rays whose closest-hit or miss episode ends by RET (R82): each record is filed at its return PC. -/
def State.endCallouts (s : State) (h : Here) (ls : Table Thread) : Except Level (State × Wave) :=
  let cl := clusterOf h.core
  match yieldCommits ls s h with
  | .error e => .error e
  | .ok s1 =>
    let one (s : State) (e : Nat × Thread) : State :=
      match e.2.ray with
      | none => s
      | some r =>
        let s := s.unenrol h.core e.2 none
        let k := s.keyFor cl { e.2 with ray := some r.returned }
        let t := e.2.filed 24 (r.ret.getD 0) 4 k.1 0
        k.2.file cl { t with ray := some r.returned, crewRef := none }
    let s2 := ls.foldl one s1
    .ok (s2.leave h h.wave (ls.map Prod.fst))

/-- RET (R225): at call depth zero in a closest-hit or miss episode it ends the episode. Nothing takes effect before
every lane of it can go. -/
def execRet (x : JumpOp) (s : State) : Res :=
  s.issue { len := 8, g := x.g, uniform := true, final := true, orders := true, uses := Src.run 2 x.a } fun h ls =>
    let ep (t : Thread) : Episode := ((t.ray.map RayPart.ep).getD .plain)
    match ls.find? fun e => e.2.depth = 0 && (ep e.2 = .anyHit || ep e.2 = .isect) with
    | some e => s.raise h { code := 1, lane := some e.1 }
    | none =>
      let ends := ls.filter fun e => e.2.depth = 0 && (ep e.2 = .closest || ep e.2 = .miss)
      let go := ls.filter fun e => !(ends.any fun x => x.1 = e.1)
      let after (t : Thread) : Thread := { t with depth := if t.depth = 0 then 0 else t.depth - 1 }
      match s.jumpStop h go x.a with
      | some s' => s'
      | none =>
        if ends.isEmpty then s.jumpGo h go x.a after
        else if !flagsClear ends || s.crewBusy h then s
        else if s.noRoom h ends.length then s.notReady h (.filing ends.length)
        else
          match s.endCallouts h ends with
          | .error e => s.overflow h ((lowLane ends).getD 0) e
          | .ok (s1, w) => s1.jumpGo { h with wave := w } go x.a after

/-! ### EXIT -/

/-- A ray retires: its commits go to D (R128). -/
def State.exitCommits : Table Thread → State → Here → Except Level State
  | [], s, _ => .ok s
  | e :: t, s, h =>
    let r : Except Level State :=
      if e.2.ray.isSome then (s.commitParty h [e] .d).map Prod.fst
      else s.yieldCommit h e.1 e.2
    match r with
    | .ok s' => State.exitCommits t s' h
    | .error x => .error x

/-- A thread retires: it leaves its groups and its arrivals, and its record is gone (R231). -/
def State.retire (s : State) (t : Thread) : State :=
  let v := t.facq.foldl (fun v e => v.join e.2) (s.mem.ownView t.uid t.view)
  let s1 := s.updGrid t.kid fun g => { g with retired := g.retired + 1, done := g.done.join v }
  match s1.blockOf t with
  | none => s1
  | some b =>
    (s1.withdraw b t.uid fun _ => true).updBlock b.uid fun b => { b with live := Table.del b.live t.uid }

/-- Lanes retire: their commits, their enrolments and memberships. -/
def State.exitLanes (s : State) (h : Here) (ls : Table Thread) : State :=
  match State.exitCommits ls s h with
  | .error e => s.overflow h ((lowLane ls).getD 0) e
  | .ok s0 =>
    match s0.lastCommit h ls with
    | .error e => s.overflow h ((lowLane ls).getD 0) e
    | .ok s1 =>
      let s2 := ls.foldl (fun s e => (s.unenrol h.core e.2 none).retire e.2) s1
      let r := s2.leave h h.wave (ls.map Prod.fst)
      r.1.done h r.2 (h.wave.after 8)

/-- EXIT (R231); on the control core it acts as TRET (R388). -/
def execExit (x : NullOp) (s : State) : Res :=
  s.issue { len := 8, g := x.g, final := true, orders := true } fun h ls =>
    match h.hand with
    | some f => s.ret f
    | none =>
      if !flagsClear ls then s
      else
        match s.crewStop h with
        | some s' => s'
        | none => s.exitLanes h ls

/-! ### Crews -/

/-- CREW (R35): the lanes' C buffers join the crew's. A ray thread keeps its own (R114). While all 64 crew ids of the
core are in use, the wave waits at its CREW (DESIGN CHOICE, log 103). A crew of lanes of several blocks counts with the
block of its lowest lane (DESIGN CHOICE, log 122). -/
def execCrew (x : NullOp) (s : State) : Res :=
  s.issue { len := 8, g := x.g, uniform := true, final := true, cluster := true } fun h ls =>
    if h.wave.crew.isSome || h.wave.active.length != 32 then s.raise h { code := 2, lane := lowLane ls }
    else
      match Table.lowest (s.core h.core).crews 64 0, ls.head? with
      | some id, some e0 =>
        let uid := s.uids
        let c : Crew :=
          { uid := uid, kid := e0.2.kid, blockUid := e0.2.blockUid, formed := s.mem.pos, tiles := [],
            sparse := false, pend := none }
        let s1 := ({ s with uids := uid + 1 }).updCore h.core fun k =>
          { k with crews := Table.put k.crews id c }
        let w := h.wave.updLanes ls fun l t =>
          { t with crewRef := some { uid := uid, id := id, lane := l } }
        let w := { w with crew := some id }
        let lanes := (ls.filter fun e => e.2.ray.isNone).map fun e => (s.linksOf h e.2).c.party
        match w.lanes.head? with
        | none => s
        | some e =>
          match s1.mem.joinCrew (s1.linksOf h e.2).c lanes with
          | some m => ({ s1 with mem := m }).doneLen h w 8
          | none => s.overflow h e0.1 .c
      | _, _ => s

/-- UNCREW (R38, R127): C to B, the tiles are lost, the lanes stand alone. The B buffer is that of the lowest lane's
block (DESIGN CHOICE, log 122). -/
def execUncrew (x : NullOp) (s : State) : Res :=
  s.issue { len := 8, g := x.g, uniform := true, final := true, cluster := true, orders := true } fun h ls =>
    let done : Except Level State :=
      match ls.head? with
      | some e => if e.2.ray.isSome then .ok s else (s.commitParty h ls .b).map Prod.fst
      | none => .ok s
    if !h.wave.fullCrew then s.raise h { code := 2, lane := lowLane ls }
    else
      match s.crewStop h with
      | some s' => s'
      | none =>
      match done with
      | .error e => s.overflow h ((lowLane ls).getD 0) e
      | .ok s1 =>
        let id := h.wave.crew.getD 0
        let w := h.wave.updLanes ls fun _ t => { t with crewRef := none }
        let s2 := s1.dissolve h.core id
        -- each thread's own window opens anew
        let s3 := ls.foldl (fun s e =>
          let k := s.links h.core { e.2 with crewRef := none }
          if e.2.ray.isSome then s
          else { s with mem := ({ s.mem with bufs := bufPut s.mem.bufs (s.mem.bufAt k.c) }).emptyBuf k.c.party }) s2
        s3.doneLen h { w with crew := none } 8

/-! ### Traps and clauses -/

/-- TRAP (R233). -/
def execTrap (x : TrapOp) (s : State) : Res :=
  s.issue { len := 8, g := x.g, final := true } fun h ls =>
    s.raise h { code := 0x0D, lane := lowLane ls, detail := x.n.toNat }

/-- BKPT (R234, R455): a hit; resumed from its freeze, it acts as NOP (R459). -/
def execBkpt (x : TrapOp) (s : State) : Res :=
  s.issue { len := 8, g := x.g, final := true } fun h ls =>
    let low := (lowLane ls).getD 0
    if h.wave.skipHit.covers .bkpt then s.doneLen h h.wave 8 else s.hit h .bkpt low low x.n.toNat 0

/-- A clause header (R174 to R176): it opens a body; within a body it faults. -/
def execClause (x : ClauseOp) (s : State) : Res :=
  match s.here with
  | none => .fault .noWave
  | some h =>
    match h.wave.clause with
    | some _ => .next (s.raise h { code := 1, lane := lowLane h.wave.active })
    | none =>
      let n := if x.count = 0 then 16 else x.count.toNat
      let c : Clause := { left := n, fa := x.fa, fb := x.fb, wait := x.wait }
      .next (s.putWave h { h.wave with clause := some c, pc := h.wave.after 8 })

end Sys2Proof.Machine
end

