-- ==== Sys2Proof/Machine/Reserve.lean ====
section
/-! DEFINITION. What blocks, rays, crews and tile tasks hold of a core: granules, accumulator tiles, block
area and wave slots (spec/02 R44 to R48; spec/17 R394, R398, R400). -/

namespace Sys2Proof.Machine

/-! ### Granules (R44) -/

/-- The granules of a core: 131,072 registers in groups of 8 (R11). -/
def coreGranules : Nat := 16384

/-- The accumulator tiles of a core (R105). -/
def coreTiles : Nat := 128

/-- The granules a thread with registers holds. -/
def Thread.granules (t : Thread) : Nat := t.base / 8 + t.claimed

/-- The threads that hold registers on a core: those of its waves and its basins. -/
def Core.holders (k : Core) : List Thread :=
  (k.waves.flatMap fun e => e.2.lanes.map Prod.snd) ++ k.basins.flatMap fun e => e.2.threads

/-- Granules held by some threads. -/
def granulesOf (l : List Thread) : Nat := l.foldl (fun n t => n + t.granules) 0

/-- The block whose reservation a thread's registers draw on: 0 for a ray (R41). -/
def Thread.home (t : Thread) : Nat := if t.ray.isSome then 0 else t.blockUid

/-- The granules that the threads of a block, or the rays (0), hold on a core. -/
def Core.blockGranules (k : Core) (uid : Nat) : Nat := granulesOf (k.holders.filter fun t => t.home = uid)

/-- The name of a holder in what a cc notes: a block, the rays of a core, or its tile tasks. -/
def holderKey (core uid : Nat) : Nat := if uid = 0 then 4 * core + 1 else 4 * uid
def taskKey (core : Nat) : Nat := 4 * core + 2

/-- The threads of saved waves whose registers a core holds already, and that wait for a slot alone (R52). -/
def State.returning (s : State) (core : Nat) : List Thread :=
  (s.cluster (clusterOf core)).rotated.flatMap fun r =>
    if r.held && r.core = core then r.wave.lanes.map Prod.snd else []

/-- The granules that the threads of a block, or the rays (0), hold of a core now. -/
def State.granulesNow (s : State) (core uid : Nat) : Nat :=
  (s.core core).blockGranules uid + granulesOf ((s.returning core).filter fun t => t.home = uid)

/-- The granules that are not to be had by others: those held, and those released in this cc (R47). -/
def State.granulesHeld (s : State) (core uid : Nat) : Nat :=
  max (s.granulesNow core uid) (Table.getD s.cc.granules (holderKey core uid) 0)

/-- The register floor of a record, at least one wave's base need (R44). -/
def LaunchRec.regFloor (r : LaunchRec) : Nat := max r.floor (r.base / 8 * 32)

/-- The launch record of a kernel, if it is live. -/
def State.lrec? (s : State) (kid : Nat) : Option LaunchRec := (Table.get? s.grids kid).map Grid.lrec

/-- The part of a ray batch on a core, as a spill or a save lifts it in the place of a block (R41). -/
def State.isBatch (s : State) (b : Block) : Bool := ((Table.get? s.grids b.kid).map Grid.ray).getD false

/-- The register floor of a block; a ray batch has none (R41). -/
def State.floorOf (s : State) (b : Block) : Nat :=
  if s.isBatch b then 0 else ((s.lrec? b.kid).map LaunchRec.regFloor).getD 0

/-- The block stands on its core: it is placed, and no save has taken it from there (R438). -/
def Block.stands (b : Block) : Bool := b.placed && !b.lifted

/-- The blocks placed on a core. -/
def State.blocksOn (s : State) (core : Nat) : List Block :=
  (s.blocks.map Prod.snd).filter fun b => b.stands && b.core = core

/-- What blocks that left a core in this cc held there (R405). -/
def State.goneOn (s : State) (core : Nat) : List HeldArea := s.cc.areas.filter fun a => a.core = core

/-- The common granules free on a core: those neither reserved to a block, nor held beyond a floor, nor
held by rays. -/
def State.commonGranules (s : State) (core : Nat) : Nat :=
  let blocks := (s.blocksOn core).foldl (fun n b => n + max (s.floorOf b) (s.granulesHeld core b.uid)) 0
  let gone := (s.goneOn core).foldl (fun n a => n + a.granules) 0
  coreGranules - blocks - gone - s.granulesHeld core 0

/-- The unused floor granules of a block. Nothing is reserved for a ray batch (log 21). -/
def State.floorFree (s : State) (b : Block) : Nat := s.floorOf b - s.granulesHeld b.core b.uid

/-! ### Accumulator tiles (R105) -/

/-- The tiles the crews of a block hold on a core; those of rays for block 0. -/
def Core.blockTiles (k : Core) (uid : Nat) : Nat :=
  (k.crews.filter fun e => e.2.blockUid = uid).foldl (fun n e => n + e.2.tiles.length) 0

/-- The tiles that are not to be had by others: those held, and those released in this cc. -/
def State.tilesHeld (s : State) (core uid : Nat) : Nat :=
  max ((s.core core).blockTiles uid) (Table.getD s.cc.tiles (holderKey core uid) 0)

/-- The accumulator floor of a block; a ray batch has none (R41). -/
def State.accFloorOf (s : State) (b : Block) : Nat :=
  if s.isBatch b then 0 else ((s.lrec? b.kid).map LaunchRec.accFloor).getD 0

/-- Tiles held by tile tasks. -/
def Core.taskTiles (k : Core) : Nat := (k.deps.filter fun e => e.2.acc).length

/-- The same, with those released in this cc. -/
def State.taskHeld (s : State) (core : Nat) : Nat :=
  max (s.core core).taskTiles (Table.getD s.cc.tiles (taskKey core) 0)

/-- The common accumulator tiles free on a core. -/
def State.commonTiles (s : State) (core : Nat) : Nat :=
  let blocks := (s.blocksOn core).foldl (fun n b => n + max (s.accFloorOf b) (s.tilesHeld core b.uid)) 0
  let gone := (s.goneOn core).foldl (fun n a => n + a.tiles) 0
  coreTiles - blocks - gone - s.tilesHeld core 0 - s.taskHeld core

/-- The unused accumulator floor of a block. -/
def State.accFree (s : State) (b : Block) : Nat := s.accFloorOf b - s.tilesHeld b.core b.uid

/-- A dependence of a tile task is met (R341): an entry stops being one when it completes. -/
def Core.depMet (k : Core) : TileDep → Bool
  | .entry _ => false
  | .lines a n => (natsFrom a n).all fun l => !(l ∈ k.empty)

/-- A tile task waits for an accumulator tile and for nothing else (R105). -/
def Core.wantsTile (k : Core) (t : TileTask) : Bool := t.mat && !t.started && !t.acc && t.deps.all k.depMet

/-! ### Asking for granules or tiles (R44, R47) -/

/-- What is asked for: for each block (0 for rays), how many. -/
abbrev Ask := Table Nat

/-- One more holder's share. -/
def Ask.add (a : Ask) (uid n : Nat) : Ask := Table.put a uid (Table.getD a uid 0 + n)

/-- What threads ask for, each for its own block. -/
def askOf (l : List Thread) (f : Thread → Nat) : Ask := l.foldl (fun (a : Ask) t => a.add t.home (f t)) []

/-- What a block still has of its own floor on a core. -/
def State.ownFree (s : State) (core : Nat) (acc : Bool) (uid : Nat) : Nat :=
  match (s.blocksOn core).find? fun b => b.uid = uid with
  | some b => if acc then s.accFree b else s.floorFree b
  | none => 0

/-- What an ask needs of a core's common supply: each block draws on its own unused floor first. -/
def State.beyond (s : State) (core : Nat) (acc : Bool) (a : Ask) : Nat :=
  a.foldl (fun n e => n + (e.2 - s.ownFree core acc e.1)) 0

/-- The common supply of a core. -/
def State.common (s : State) (core : Nat) (acc : Bool) : Nat :=
  if acc then s.commonTiles core else s.commonGranules core

/-- An ask can be met. -/
def State.meets (s : State) (core : Nat) (acc : Bool) (a : Ask) : Bool :=
  s.beyond core acc a ≤ s.common core acc

/-- Notes that an ask is met in this cc: what it takes adds to what is held, beside what was released. -/
def State.noteTaken (s : State) (core : Nat) (acc : Bool) (a : Ask) : State :=
  let held (e : Nat × Nat) : Nat × Nat :=
    (holderKey core e.1, (if acc then s.tilesHeld core e.1 else s.granulesHeld core e.1) + e.2)
  let put (t : Table Nat) : Table Nat := a.foldl (fun t e => Table.put t (held e).1 (held e).2) t
  { s with cc :=
      if acc then { s.cc with tiles := put s.cc.tiles } else { s.cc with granules := put s.cc.granules } }

/-- What a block holds of a core, as it leaves it. -/
def State.areaHeld (s : State) (b : Block) : HeldArea :=
  let r := s.lrec? b.kid
  { core := b.core, scratch := b.scratch
    size := ((r.map fun r => r.s + r.t).getD 0)
    granules := max (s.floorOf b) (s.granulesHeld b.core b.uid)
    tiles := max (s.accFloorOf b) (s.tilesHeld b.core b.uid) }

/-- Notes that a tile task takes an accumulator tile in this cc. -/
def State.noteTaskTile (s : State) (core : Nat) : State :=
  { s with cc := { s.cc with tiles := Table.put s.cc.tiles (taskKey core) (s.taskHeld core + 1) } }

/-- Notes that blocks leave their cores in this cc (R405). -/
def State.noteGone (s : State) (l : List Block) : State :=
  { s with cc := { s.cc with areas := s.cc.areas ++ (l.filter fun b => b.stands).map s.areaHeld } }

/-! ### Wave slots (R400, R405) -/

/-- The slots of a core that are not to be had: those held, and those freed in this cc. -/
def State.slotsHeld (s : State) (core : Nat) : List Nat :=
  let now := (s.core core).waves.map Prod.fst
  now ++ (Table.getD s.cc.slots core []).filter fun n => !(n ∈ now)

/-- The free slots of a core. -/
def State.freeSlots (s : State) (core : Nat) : Nat := 64 - (s.slotsHeld core).length

/-- The slot a new wave takes (R400): the lowest free one of the partition with the most free slots. -/
def State.newSlot (s : State) (core : Nat) : Option Nat :=
  let held := s.slotsHeld core
  let free (p : Nat) : List Nat := (natsFrom (16 * p) 16).filter fun n => !(n ∈ held)
  let best := (natsFrom 0 4).foldl (fun b p => if (free b).length < (free p).length then p else b) 0
  (free best).head?

/-! ### Claims (R45, R46) -/

/-- The age a claimant's block gives; for a ray, the issue of its batch. Where a wave that claims holds lanes of several
blocks, its lowest lane's block gives the age (DESIGN CHOICE, log 104: R46 speaks of the claimant's block); each lane's
granules still draw on its own block's floor. -/
def State.claimAge (s : State) (w : Wave) : Nat :=
  match w.lanes.head? with
  | none => 0
  | some e =>
    match s.blockOf e.2 with
    | some b => b.age
    | none => ((Table.get? s.grids w.kid).map Grid.issue).getD 0

end Sys2Proof.Machine
end

