-- ==== Sys2Proof/Machine/Engine.lean ====
section
/-! DEFINITION. The matrix engine's arithmetic on tiles and register matrices (spec/10 R297 to R310;
spec/06 R158 to R168). -/

namespace Sys2Proof.Machine

/-! ### Slots and shapes -/

/-- Format slot k of a kernel (R155). -/
def State.slotOf (s : State) (kid k : Nat) : Slot :=
  ((s.lrec? kid).map fun r => listGet r.slots k 0#128).getD 0#128

/-- The rows, columns and origin of a region (R297). -/
def regRows (r : Region) : Nat := 8 * 2 ^ r.mc.toNat
def regCols (r : Region) : Nat := 8 * 2 ^ r.nc.toNat

/-- A region lies within a tile. -/
def regFits (r : Region) : Bool :=
  8 * r.row.toNat + regRows r ≤ 64 && 8 * r.col.toNat + regCols r ≤ 64

/-- The tile element a region element stands at. -/
def regElem (r : Region) (i j : Nat) : Nat := 64 * (8 * r.row.toNat + i) + 8 * r.col.toNat + j

/-- Pairs (i, j) in ascending i, then ascending j. -/
def gridPairs (m n : Nat) : List (Nat × Nat) :=
  (natsFrom 0 m).flatMap fun i => (natsFrom 0 n).map fun j => (i, j)

/-- The formats MLD accepts (R306). -/
def Fmt.plain (f : Fmt) : Bool := !f.blocked

/-- The format of a slot, where the slot is valid and its format is accepted (R157). -/
def Slot.accepted (x : Slot) (ok : Fmt → Bool) : Option Fmt :=
  if x.valid then
    match x.fmt with
    | some f => if ok f then some f else none
    | none => none
  else none

/-- The MAC rate of a class (R299). -/
def macRate (fa fb : Fmt) : Nat :=
  if fa = .f32 || fb = .f32 then 2048
  else if fa = .bf16 || fa = .f16 || fb = .bf16 || fb = .f16 then 8192
  else if fa.blocked then 32768 else 16384

/-! ### Register matrices (R298) -/

/-- The registers a run of bytes occupies. -/
def runRegs (bytes : Nat) : Nat := (bytes + 127) / 128

/-- The bytes of a register matrix. -/
def Wave.matrix (w : Wave) (vb n : Nat) : List Byte :=
  (natsFrom 0 n).map fun b =>
    match Table.get? w.lanes (b / 4 % 32) with
    | some t => (t.reg (vb + b / 128)).extractLsb' (8 * (b % 4)) 8
    | none => 0

/-- The register writes of a register matrix: whole words. -/
def Wave.matrixWrites (w : Wave) (vb : Nat) (bs : List Byte) : List PWrite :=
  (natsFrom 0 (bs.length / 4)).filterMap fun k =>
    (Table.get? w.lanes (k % 32)).map fun t =>
      .v t.uid (vb + k / 32) (wordAt bs (4 * k))

/-- Nibble e of a run (R298). -/
def nibbleAt (bs : List Byte) (e : Nat) : Nat := (listGet bs (e / 2) 0).toNat / 16 ^ (e % 2) % 16

/-- The number an element of a size holds. -/
def elemAt (bs : List Byte) (e size : Nat) : Nat := natOf ((bs.drop (e * size)).take size)

/-- The code of a VQ2 weight: bytes 2c and 2c + 1. -/
def codeAt (bs : List Byte) (c : Nat) : Nat := elemAt bs c 2

/-- DecodeExact of element e of a run, with its scale byte's place (R158, R298); `shell` holds the magnitudes of each
code (R154). -/
def runElem (sl : Slot) (f : Fmt) (bs ss : List Byte) (shell : Table Nat) (e block : Nat) : Real' :=
  let scale := (listGet ss block 0).toNat
  match f with
  | .b4 => sl.decode f (nibbleAt bs e) scale
  | .vq2 =>
    let c := codeAt bs (e / 8)
    sl.decodeVq2 c (Table.getD shell (e / 8) 0) (e % 8) scale
  | f => sl.decode f (elemAt bs e f.size) 0

/-- The bytes of an M x K operand A in registers, and of its scale run (R298). -/
def aBytes (f : Fmt) (m k : Nat) : Nat :=
  match f with
  | .b4 => m * k / 2
  | .vq2 => m * k / 4
  | f => m * k * f.size

def scaleBytes (f : Fmt) (m k : Nat) : Nat := if f.blocked then m * k / 48 else 0

/-! ### MMA and MMAS (R300 to R304) -/

/-- K of an MMA. -/
def mmaK (x : MmaOp) : Nat := 8 * (x.kc.toNat + 1)

/-- The byte of its tile at which B[k][n] starts (R300). -/
def bByte (x : MmaOp) (f : Fmt) (k n : Nat) : Nat :=
  (x.base.toNat * 1024 / f.bits + k * x.rstride.toNat + n * x.cstride.toNat) * f.bits / 8

/-- The scratch bytes B's elements take, in ascending k then n. -/
def bSpots (x : MmaOp) (f : Fmt) (base : Nat) : List Nat :=
  (gridPairs (mmaK x) (regCols x.reg)).flatMap fun p => natsFrom (base + bByte x f p.1 p.2) f.size

/-- B's bytes end within its tile (R301 step 4). -/
def bFits (x : MmaOp) (f : Fmt) (extent : Nat) : Bool :=
  (gridPairs (mmaK x) (regCols x.reg)).all fun p => bByte x f p.1 p.2 + f.size ≤ extent

/-- The two positions of a group (R303). -/
def sparsePos (meta' : List Byte) (k i g : Nat) : Nat × Nat :=
  let n := nibbleAt meta' (i * k / 4 + g)
  (n % 4, n / 4)

/-- Element (i, k) of a sparse A at dense k (R303): zero where the group has none there, and for an
illegal group. -/
def sparseElem (x : MmaOp) (sl : Slot) (f : Fmt) (o : EngineOp) (i k : Nat) : Option Real' :=
  let kk := mmaK x
  let g := k / 4
  let p := sparsePos o.m kk i g
  let at' (h : Nat) : Real' := runElem sl f o.a o.s o.shell (i * (kk / 2) + 2 * g + h) (i * kk / 48 + k / 48)
  if p.1 ≥ p.2 then none
  else if k % 4 = p.1 then some (at' 0)
  else if k % 4 = p.2 then some (at' 1)
  else none

/-- A[i][k], negated as the instruction asks. A zero that stands for an absent element is +0 (log 22). -/
def aElem (x : MmaOp) (sparse : Bool) (sl : Slot) (f : Fmt) (o : EngineOp) (i k : Nat) : Real' :=
  let sgn (v : Real') : Real' := if x.na then v.neg else v
  if sparse then
    match sparseElem x sl f o i k with
    | some v => sgn v
    | none => .fin false 0 1
  else sgn (runElem sl f o.a o.s o.shell (i * mmaK x + k) (i * mmaK x / 48 + k / 48))

/-- B[k][j], negated as the instruction asks. -/
def bElem (x : MmaOp) (sl : Slot) (f : Fmt) (b : List Byte) (k j : Nat) : Real' :=
  let v := sl.decode f (elemAt b (k * regCols x.reg + j) f.size) 0
  if x.nb then v.neg else v

/-- The tile after an MMA or MMAS. -/
def mmaTile (x : MmaOp) (sparse : Bool) (sa sb : Slot) (fa fb : Fmt) (o : EngineOp) (b : List Byte)
    (tile : Table Word) : Table Word :=
  (gridPairs (regRows x.reg) (regCols x.reg)).foldl (fun t p =>
    let e := regElem x.reg p.1 p.2
    let ps := (natsFrom 0 (mmaK x)).map fun k =>
      (aElem x sparse sa fa o p.1 k).mul (bElem x sb fb b k p.2)
    Table.put t e (matAccumulate (groupSize fa fb) x.dis (Table.getD tile e 0) ps)) tile

/-- The first illegal group of an MMAS, in ascending i and then g (R304). -/
def firstIllegal (x : MmaOp) (o : EngineOp) : Option (Nat × Nat) :=
  (gridPairs (regRows x.reg) (mmaK x / 4)).find? fun p =>
    let q := sparsePos o.m (mmaK x) p.1 p.2
    q.1 ≥ q.2

/-! ### Moves and conversions (R306 to R310) -/

/-- The byte offset of element (i, j) of a pitched region. -/
def pitched (pitch size i j : Nat) : Nat := i * pitch + j * size

/-- The tile after MLD from the bytes of its elements, in order. -/
def mldTile (r : Region) (sl : Slot) (f : Fmt) (bs : List Byte) (tile : Table Word) : Table Word :=
  (gridPairs (regRows r) (regCols r)).foldl (fun t p =>
    Table.put t (regElem r p.1 p.2)
      (rne32 (sl.decode f (elemAt bs (p.1 * regCols r + p.2) f.size) 0))) tile

/-- The encoded elements of a region, in order (R160): `crd` gives the coordinates of (0, 0). -/
def encodeRegion (r : Region) (sl : Slot) (f : Fmt) (seed : DWord) (k : Nat) (crd : Word)
    (tile : Table Word) : List Byte :=
  let rb := (crd.extractLsb' 0 16).toNat
  let cb := (crd.extractLsb' 16 16).toNat
  (gridPairs (regRows r) (regCols r)).flatMap fun p =>
    bytesOf f.size (sl.encode f seed k (f32 (Table.getD tile (regElem r p.1 p.2) 0)) (rb + p.1)
      (cb + p.2))

/-- The amax value of a region. -/
def regionAmax (r : Region) (tile : Table Word) : Word :=
  amaxValue ((gridPairs (regRows r) (regCols r)).map fun p =>
    f32 (Table.getD tile (regElem r p.1 p.2) 0))

/-- CBDEC's output run (R309). -/
def cbdecBytes (ss sd : Slot) (fd : Fmt) (seed : DWord) (kd n : Nat) (a s : List Byte)
    (shell : Table Nat) : List Byte :=
  (natsFrom 0 (8 * n)).flatMap fun e =>
    let c := codeAt a (e / 8)
    let scale := (listGet s (e / 48) 0).toNat
    let v := ss.decodeVq2 c (Table.getD shell (e / 8) 0) (e % 8) scale
    if fd = .f32 then bytesOf 4 (rne32 v).toNat
    else bytesOf fd.size (sd.encode fd seed kd v 0 e)

/-- The tile after BSCALE (R310). -/
def bscaleTile (x : BscaleOp) (factors : List Byte) (tile : Table Word) : Table Word :=
  (gridPairs (regRows x.reg) (regCols x.reg)).foldl (fun t p =>
    let e := regElem x.reg p.1 p.2
    let f := wordAt factors (4 * (if x.col then p.2 else p.1))
    Table.put t e (fmul32 (Table.getD tile e 0) f)) tile

end Sys2Proof.Machine
end

