-- ==== Sys2Proof/Machine/Matrix.lean ====
section
/-! DEFINITION. The matrix instructions: their checks, the engine's queue, and what an operation does when
the engine performs it (spec/10 R297 to R310; spec/07 R178). -/

namespace Sys2Proof.Machine

/-! ### The queue of the engine -/

/-- The v-registers an engine operation writes (R308, R309), given how many bytes its run has. -/
def engineDest (i : Instr) (bytes : Nat) : List RegRun :=
  match i with
  | .mcvt x => [(x.d.toNat, runRegs bytes)]
  | .cbdec x => [(x.d.toNat, runRegs bytes)]
  | _ => []

/-- An operation as it stands at issue, with nothing captured. -/
def engineOp (s : State) (h : Here) (c : Crew) (i : Instr) : EngineOp :=
  { i := i, id := s.uids, crewUid := c.uid, blockUid := c.blockUid, kid := h.wave.kid,
    ctx := h.wave.ctx, pc := h.wave.pc, uids := h.wave.lanes.map fun e => e.2.uid, a := [], s := [],
    b := [], m := [], base := 0, mbase := 0, pas := [], shell := [], pos := s.mem.pos, crd := 0,
    lines := [], wlines := [], out := none }

/-- Queues an engine operation and ends its instruction. One that has register results and no flag
holds its wave until they are written (R178, log 15). The engine holds at most 8 (R436). -/
def State.queueOp (s : State) (h : Here) (len : Nat) (sel : FlagSel) (o : EngineOp) : State :=
  let flag := h.wave.flagOf sel
  let key := Table.nextKey (s.core h.core).ops
  let op : PendOp :=
    { slot := h.slot, flag := flag, uids := o.uids, writes := [], late := [],
      scr := !(o.lines ++ o.wlines).isEmpty, stash := [], eng := some o }
  let regs := !(engineDest o.i 128).isEmpty
  let held := ((s.core h.core).ops.filter fun e => e.2.eng.isSome).length
  let w := match flag with
    | some n => h.wave.updLanes h.wave.lanes fun _ t => t.flagUp n
    | none => if regs then { h.wave with park := .engine key } else h.wave
  if held ≥ 8 then s
  else
    ((({ s with uids := s.uids + 1 }).updCore h.core fun k => { k with ops := Table.put k.ops key op }).setLines
      h.core 2 true o.wlines).doneLen h w len

/-! ### Checks at issue -/

/-- The invalid-format-slot fault (R157). -/
def State.slotFault (s : State) (h : Here) (k : Nat) : State :=
  s.raise h { code := 9, lane := some 0, detail := k }

/-- The crew's lanes may address a run. -/
def crewInRange (ls : Table Thread) (l : List RegRun) : Bool := ls.all fun e => e.2.inRange l

/-- The tile is the crew's and holds the region (R297). -/
def tileHeld (c : Crew) (n : Nat) (r : Region) : Bool := n < c.tiles.length && regFits r

/-- Issues a matrix instruction: FullCrew, then its own part with the crew (R297). It reads registers of every lane, so
it waits for every load of the crew; one that reaches memory does not issue while its core holds all the requests it
can (R421). -/
def State.issueMatrix (s : State) (f : Form) (k : Here → Table Thread → Crew → State) (mem : Bool := false) : Res :=
  s.issueCrew { f with orders := true } fun h ls =>
    match s.crewHere h with
    | some c => if mem && s.requestsFull h then s.notReady h .requests else k h ls c
    | none => s.raise h { code := 2, lane := some 0 }

/-- The tiles of a wave's block that a matrix instruction names are ready, or the wave waits for them (R101). -/
def State.withTiles (s : State) (h : Here) (blk : Block) (ts : List (Nat × TileEntry)) (k : State) : State :=
  if ts.all fun e => s.tileState blk e.2 = .ready then k
  else s.notReady h (.tiles (ts.map fun e => (blk.uid, e.1)))

/-- The requests for the shell-table entries that codes index. -/
def State.reachShell (s : State) (h : Here) (base : Nat) (shell : Table Nat) : State :=
  s.reachLines (.loadStore h.core) h.wave.ctx (shell.map fun e => (base + 4 * e.1, e.2))

/-- Translates the shell-table entries that some codes index (R154): each entry's physical address. -/
def shellSpots : List Nat → State → Via → Nat → Nat → Except UnitErr (Table Nat) × State
  | [], s, _, _, _ => (.ok [], s)
  | n :: t, s, v, ctx, base =>
    let r := s.unitPa v ctx (base + 4 * n) .read
    match r.1 with
    | .error e => (.error e, r.2)
    | .ok pa =>
      let u := shellSpots t r.2 v ctx base
      match u.1 with
      | .error e => (.error e, u.2)
      | .ok l => (.ok (Table.put l n pa), u.2)

/-- The shell entries the codes of a run index. -/
def shellKeys (a : List Byte) : List Nat :=
  ((natsFrom 0 (a.length / 2)).map fun c => codeAt a c / 256).eraseDups

/-- The bytes of a core's scratchpad. -/
def State.scratchBytes (s : State) (core : Nat) (spots : List Nat) : List Byte :=
  spots.map fun a => cellGet (s.core core).scratch a

/-! ### MMA and MMAS (R300 to R303) -/

/-- The metadata tile of an MMAS with its number, and its first byte there, or that its record is refused (R303). -/
def State.metaSpot (s : State) (h : Here) (blk : Block) (x : MmaOp) : Option ((Nat × TileEntry) × Nat) :=
  let r := h.wave.reg x.wm.toNat
  if r.extractLsb' 19 13 != 0 then none
  else
    match s.tile? blk (r.extractLsb' 0 6).toNat with
    | none => none
    | some te =>
      let first := 128 * (r.extractLsb' 6 13).toNat
      if first + regRows x.reg * mmaK x / 8 ≤ (te.count + 1) * 128 then some (((r.extractLsb' 0 6).toNat, te), first) else none

/-- MMA and MMAS at issue (R301, R303). One whose A has the VQ2 format reads its shell table in memory. -/
def State.mmaIssue (s : State) (x : MmaOp) (sparse : Bool) (i : Instr) : Res :=
  let shells (h : Here) : Bool := (s.slotOf h.wave.kid x.aslot.toNat).fmt = some .vq2
  s.issueMatrix { len := 16, g := x.g, sel := x.sel } (mem := (s.here.map shells).getD false) fun h ls c =>
    let sa := s.slotOf h.wave.kid x.aslot.toNat
    let sb := s.slotOf h.wave.kid x.bslot.toNat
    let kk := mmaK x
    let m := regRows x.reg
    let n := regCols x.reg
    match sa.accepted fun f => !(sparse && f = .vq2) && !(f.blocked && kk % 48 != 0) with
    | none => s.slotFault h x.aslot.toNat
    | some fa =>
      match sb.accepted Fmt.plain with
      | none => s.slotFault h x.bslot.toNat
      | some fb =>
        let ka := if sparse then kk / 2 else kk
        let ab := aBytes fa m ka
        let sbytes := scaleBytes fa m kk
        let vsReg : Option Nat := match x.vs with
          | .v r => some r.toNat
          | _ => none
        let vsOk := if fa.blocked then vsReg.isSome else x.vs = .v 0
        let illegal (cause : Nat) : State := s.raise h { code := 1, cause := cause, lane := some 0 }
        if !vsOk || !crewInRange ls [(x.va.toNat, runRegs ab), (vsReg.getD 0, runRegs sbytes)] then
          illegal 0
        else if !tileHeld c x.acc.toNat x.reg then illegal 0
        else if m * n * kk > (if sparse then 128 else 64) * macRate fa fb then illegal 6
        else
          let bound : State := s.raise h { code := 6, lane := some 0 }
          match s.blockHere ls with
          | none => bound
          | some blk =>
            match s.tile? blk x.tile.toNat with
            | none => bound
            | some te =>
              if !bFits x fb ((te.count + 1) * 128) then bound
              else
                let md := if sparse then s.metaSpot h blk x else some ((x.tile.toNat, te), 0)
                match md with
                | none => bound
                | some ((mn, me), first) =>
                  s.withTiles h blk [(x.tile.toNat, te), (mn, me)] <|
                    let a := h.wave.matrix x.va.toNat ab
                    let base := blk.scratch + 128 * te.base
                    let mbase := blk.scratch + 128 * me.base + first
                    let mspots := if sparse then natsFrom mbase (m * kk / 8) else []
                    let spots := bSpots x fb base
                    let u := if fa = .vq2 then shellSpots (shellKeys a) s h.via h.wave.ctx sa.shell
                      else (.ok [], s)
                    match u.1 with
                    | .error e => u.2.unitFault h 0 0 e
                    | .ok shell =>
                      (u.2.reachShell h sa.shell shell).queueOp h 16 x.sel
                        { engineOp u.2 h c i with
                          a := a, s := h.wave.matrix (vsReg.getD 0) sbytes,
                          b := u.2.scratchBytes h.core spots,
                          m := u.2.scratchBytes h.core mspots, base := base, mbase := mbase,
                          shell := shell,
                          lines := ((spots ++ mspots).map (· / 128)).eraseDups }

/-- MMA (R300, R301). -/
def execMma (x : MmaOp) (s : State) : Res := s.mmaIssue x false (.mma x)

/-- MMAS (R303). -/
def execMmas (x : MmaOp) (s : State) : Res := s.mmaIssue x true (.mmas x)

/-! ### MLD, MST, MZERO, MCVT, CBDEC, BSCALE -/

/-- The physical addresses of a pitched region's bytes, row by row (R306). -/
def rowPas : Nat → State → Via → Nat → Nat → Nat → Nat → Access →
    Except UnitErr (List Nat) × State
  | 0, s, _, _, _, _, _, _ => (.ok [], s)
  | rows + 1, s, v, ctx, va, pitch, n, kind =>
    let r := s.unitPas v ctx va n kind
    match r.1 with
    | .error e => (.error e, r.2)
    | .ok l =>
      let u := rowPas rows r.2 v ctx (va + pitch) pitch n kind
      match u.1 with
      | .error e => (.error e, u.2)
      | .ok l' => (.ok (l ++ l'), u.2)

/-- The checks MLD shares with MST and what follows them: the slot, the tile, the global range and its
alignment, the translations (R306, R307). -/
def State.globalRegion (s : State) (x : MldOp) (i : Instr) (kind : Access) : Res :=
  s.issueMatrix { len := 16, g := x.g, sel := x.sel } (mem := true) fun h _ c =>
    match (s.slotOf h.wave.kid x.slot.toNat).accepted Fmt.plain with
    | none => s.slotFault h x.slot.toNat
    | some f =>
      if !tileHeld c x.acc.toNat x.reg then s.raise h { code := 1, lane := some 0 }
      else
        match h.wave.lanes.head? with
        | none => s
        | some e0 =>
          let base := (Src.int64 h.wave none e0.2 x.a).toNat
          let pitch := x.pitch.toNat
          let m := regRows x.reg
          let n := regCols x.reg * f.size
          let fault (code : Nat) : State := s.raise h { code := code, lane := some 0, addr := base }
          if base + (m - 1) * pitch + n > windowBase then fault 5
          else if base % f.size != 0 || pitch % f.size != 0 then fault 3
          else
            let u := rowPas m s h.via h.wave.ctx base pitch n kind
            match u.1 with
            | .error e => u.2.unitFault h 0 0 e kind
            | .ok pas =>
              let vas := (natsFrom 0 m).flatMap fun r => natsFrom (base + r * pitch) n
              let far (s : State) : State :=
                if kind = .read then s.farRead (.thread e0.2.uid) h.wave.kid false pas else s
              (far (u.2.reachLines (.loadStore h.core) h.wave.ctx (vas.zip pas))).queueOp h 16 x.sel
                { engineOp u.2 h c i with pas := pas, base := base, crd := Src.int h.wave none e0.2 x.crd }

/-- MLD (R306). -/
def execMld (x : MldOp) (s : State) : Res := s.globalRegion x (.mld x) .read

/-- MST, the global form (R307). -/
def execMst (x : MldOp) (s : State) : Res := s.globalRegion x (.mst x) .write

/-- MST, the scratch form (R307). -/
def execMstSp (x : MstSpOp) (s : State) : Res :=
  s.issueMatrix { len := 16, g := x.g, sel := x.sel } fun h ls c =>
    match (s.slotOf h.wave.kid x.slot.toNat).accepted Fmt.plain with
    | none => s.slotFault h x.slot.toNat
    | some f =>
      if !tileHeld c x.acc.toNat x.reg then s.raise h { code := 1, lane := some 0 }
      else
        let bound : State := s.raise h { code := 6, lane := some 0 }
        let last := pitched x.pitch.toNat f.size (regRows x.reg - 1) (regCols x.reg - 1) + f.size
        match s.blockHere ls, ls.head? with
        | some blk, some e0 =>
          match s.tile? blk x.tile.toNat with
          | none => bound
          | some te =>
            if last > (te.count + 1) * 128 then bound
            else
              s.withTiles h blk [(x.tile.toNat, te)] <|
              let base := blk.scratch + 128 * te.base
              let spots := (gridPairs (regRows x.reg) (regCols x.reg)).flatMap fun p =>
                natsFrom (base + pitched x.pitch.toNat f.size p.1 p.2) f.size
              s.queueOp h 16 x.sel { engineOp s h c (.mstSp x) with
                base := base, pas := spots, crd := Src.int h.wave none e0.2 x.crd,
                wlines := (spots.map (· / 128)).eraseDups }
        | _, _ => bound

/-- MZERO (R305). -/
def execMzero (x : MzeroOp) (s : State) : Res :=
  s.issueMatrix { len := 8, g := x.g } fun h _ c =>
    if x.d.toNat < c.tiles.length then s.queueOp h 8 .none (engineOp s h c (.mzero x))
    else s.raise h { code := 1, lane := some 0 }

/-- Changes a crew. -/
def State.updCrew (s : State) (core uid : Nat) (f : Crew → Crew) : State :=
  s.updCore core fun k =>
    { k with crews := k.crews.map fun e => if e.2.uid = uid then (e.1, f e.2) else e }

/-- MZERO.stat (R305): after every earlier matrix instruction of the crew. -/
def execMzeroStat (x : MzeroOp) (s : State) : Res :=
  s.issueMatrix { len := 8, g := x.g, uses := [(x.d.toNat, 1)] } fun h ls c =>
    if s.engineBusy h.core c.uid then s
    else
      match c.pend with
      | some f => s.raiseSparse h f
      | none =>
        let v : Word := if c.sparse then 1 else 0
        (s.updCrew h.core c.uid fun c => { c with sparse := false }).doneLen h
          (h.wave.updLanes ls fun _ t => t.setReg x.d.toNat v) 8

/-- MCVT (R308). -/
def execMcvt (x : McvtOp) (s : State) : Res :=
  s.issueMatrix { len := 16, g := x.g, sel := x.sel } (mem := x.amax.isSome) fun h ls c =>
    match (s.slotOf h.wave.kid x.slot.toNat).accepted Fmt.plain with
    | none => s.slotFault h x.slot.toNat
    | some f =>
      let bytes := regRows x.reg * regCols x.reg * f.size
      if !crewInRange ls (engineDest (.mcvt x) bytes) || !tileHeld c x.tile.toNat x.reg then
        s.raise h { code := 1, lane := some 0 }
      else
        match ls.head? with
        | none => s
        | some e0 =>
          let o := { engineOp s h c (.mcvt x) with crd := Src.int h.wave none e0.2 x.crd }
          match x.amax with
          | none => s.queueOp h 16 x.sel o
          | some a =>
            let va := (Src.int64 h.wave none e0.2 a).toNat
            let fault (code : Nat) : State := s.raise h { code := code, lane := some 0, addr := va }
            if va % 4 != 0 then fault 3
            else if va ≥ windowBase then fault 5
            else
              let u := s.unitPas h.via h.wave.ctx va 4 .write
              match u.1 with
              | .error e => u.2.unitFault h 0 0 e .write
              | .ok pas =>
                (u.2.reachLines (.loadStore h.core) h.wave.ctx ([va].zip pas)).queueOp h 16 x.sel { o with pas := pas }

/-- CBDEC (R309). -/
def execCbdec (x : CbdecOp) (s : State) : Res :=
  let n := x.n.toNat + 1
  let uses := [(x.a.toNat, runRegs (2 * n)), (x.b.toNat, runRegs ((n + 5) / 6))]
  s.issueMatrix { len := 16, g := x.g, sel := x.sel, uses := uses } (mem := true) fun h ls c =>
    let ss := s.slotOf h.wave.kid x.sslot.toNat
    match ss.accepted fun f => f = .vq2 with
    | none => s.slotFault h x.sslot.toNat
    | some _ =>
      match (s.slotOf h.wave.kid x.dslot.toNat).accepted Fmt.plain with
      | none => s.slotFault h x.dslot.toNat
      | some fd =>
        if !crewInRange ls (engineDest (.cbdec x) (8 * n * fd.size)) then
          s.raise h { code := 1, lane := some 0 }
        else
          let a := h.wave.matrix x.a.toNat (2 * n)
          let u := shellSpots (shellKeys a) s h.via h.wave.ctx ss.shell
          match u.1 with
          | .error e => u.2.unitFault h 0 0 e
          | .ok shell =>
            (u.2.reachShell h ss.shell shell).queueOp h 16 x.sel { engineOp u.2 h c (.cbdec x) with
              a := a, s := h.wave.matrix x.b.toNat ((n + 5) / 6), shell := shell }

/-- BSCALE (R310). -/
def execBscale (x : BscaleOp) (s : State) : Res :=
  let n := if x.col then regCols x.reg else regRows x.reg
  let uses := [(x.a.toNat, runRegs (4 * n))]
  s.issueMatrix { len := 16, g := x.g, sel := x.sel, uses := uses } fun h _ c =>
    if tileHeld c x.tile.toNat x.reg then
      s.queueOp h 16 x.sel { engineOp s h c (.bscale x) with a := h.wave.matrix x.a.toNat (4 * n) }
    else s.raise h { code := 1, lane := some 0 }

/-! ### The engine performs an operation -/

/-- B bytes that a lane store has changed since issue are old or new, each by itself (R96, R301). -/
def mixBytes : List Byte → List Byte → State → List Byte × State
  | a :: as, b :: bs, s =>
    let r := s.pickFrom [a, b] a
    let u := mixBytes as bs r.2
    (r.1 :: u.1, u.2)
  | _, _, s => ([], s)

/-- The value of a line of D at some moment from a position on (R141, R143): for each line touched since,
one position. -/
def linePoss : List Nat → Nat → State → Table Nat × State
  | [], _, s => ([], s)
  | l :: t, p0, s =>
    let hit := s.mem.log.any fun x => p0 < x.pos && x.bytes.any fun b => b.addr / 128 = l
    let r := if hit then s.pick (s.mem.pos - p0 + 1) else (0, s)
    let u := linePoss t p0 r.2
    (Table.put u.1 l (s.mem.pos - r.1), u.2)

/-- The bytes an engine reads at D between issue and now, each line as one snapshot. Nothing orders the reads of an MLD
after the writes of an earlier MST (DESIGN CHOICE, log 124). -/
def State.snapshot (s : State) (p0 : Nat) (pas : List Nat) : List Byte × State :=
  let u := linePoss (pas.map (· / 128)).eraseDups p0 s
  (pas.map fun a => s.mem.atPos (Table.getD u.1 (a / 128) s.mem.pos) a, u.2)

/-- A number of n bytes as one snapshot at some moment between a position and now (R154). -/
def State.numSince (s : State) (p0 pa n : Nat) : Nat × State :=
  let hit := s.mem.log.any fun x => p0 < x.pos && x.bytes.any fun b => pa ≤ b.addr && b.addr < pa + n
  let r := if hit then s.pick (s.mem.pos - p0 + 1) else (0, s)
  (natOf ((natsFrom pa n).map fun a => r.2.mem.atPos (s.mem.pos - r.1) a), r.2)

/-- The magnitudes that each code of a run gets, as it is decoded (R154): `spots` are the entries' addresses. -/
def shellDraw (a : List Byte) (spots : Table Nat) (p0 : Nat) : List Nat → State → Table Nat × State
  | [], s => ([], s)
  | k :: t, s =>
    let r := s.numSince p0 (Table.getD spots (codeAt a k / 256) 0) 4
    let u := shellDraw a spots p0 t r.2
    (Table.put u.1 k r.1, u.2)

/-- The fault record of an engine operation: it names lane 0 of the crew and its thread. -/
def State.engineRec (s : State) (core : Nat) (o : EngineOp) (code addr : Nat) : FaultRec :=
  let t := (s.core core).waves.findSome? fun w => w.2.lanes.findSome? fun e =>
    if some e.2.uid = o.uids.head? then some e.2 else none
  { FaultRec.blank code s.tick with
    block := BitVec.ofNat 32 ((t.map Thread.index).getD 0), thread := (t.map Thread.tidx).getD 0
    ctx := BitVec.ofNat 8 o.ctx, src := 6, core := BitVec.ofNat 8 core, lane := 0,
    pc := BitVec.ofNat 64 o.pc.toNat, addr := BitVec.ofNat 64 addr }

/-- Bytes with one entry an address, the last of the list standing: of MST elements that overlap in memory, the last in
row-major order (DESIGN CHOICE, log 105: the specification does not say which stands). -/
def lastEach : List (Nat × Byte) → List (Nat × Byte)
  | [] => []
  | e :: t => if t.any fun x => x.1 = e.1 then lastEach t else e :: lastEach t

/-- Tile n of an operation's crew. -/
def State.tileOf (s : State) (core : Nat) (o : EngineOp) (n : Nat) : Table Word :=
  match (s.core core).crews.find? fun e => e.2.uid = o.crewUid with
  | some e => listGet e.2.tiles n []
  | none => []

/-- Stores tile n of an operation's crew. -/
def State.setTile (s : State) (core : Nat) (o : EngineOp) (n : Nat) (t : Table Word) : State :=
  s.updCrew core o.crewUid fun c => { c with tiles := listSet c.tiles n t }

/-- What an operation that begins has read, and leaves to write: bytes of its result run, and bytes of memory. -/
structure Begun where
  s : State
  op : EngineOp
  regs : Option (Nat × List Byte)
  out : List (Nat × Byte)
deriving DecidableEq, Repr

/-- An amax update (R168): one arrival at D. -/
def State.amaxUpdate (s : State) (agent : Nat) (pas : List Nat) (v : Word) (rel : List Mark := []) : State :=
  match pas with
  | [] => s
  | pa :: _ =>
    let old := BitVec.ofNat 32 (s.mem.numD pa 4)
    { s with
      mem := s.mem.arriveD s.tick (.agent agent) (agentBytes pa (bytesOf 4 (amaxMerge old v).toNat) rel) }

/-- What an operation reads of the scratchpad and of its shell table between issue and now. -/
def State.engineReads (s : State) (core : Nat) (o : EngineOp) : EngineOp × State :=
  let m := mixBytes o.m (s.scratchBytes core (natsFrom o.mbase o.m.length)) s
  let u := shellDraw o.a o.shell o.pos (if o.shell.isEmpty then [] else natsFrom 0 (o.a.length / 2)) m.2
  ({ o with m := m.1, shell := u.1 }, u.2)

/-- The engine performs an operation: its tile changes now, its writes are left to make. -/
def State.begin (s0 : State) (core : Nat) (o0 : EngineOp) : Begun :=
  let rd := s0.engineReads core o0
  let o := rd.1
  let s := rd.2
  let slot (k : BitVec 3) : Slot := s.slotOf o.kid k.toNat
  let fmt (k : BitVec 3) : Fmt := ((slot k).fmt).getD .f32
  let seed := ((s.lrec? o.kid).map LaunchRec.seed).getD 0
  let just (s : State) : Begun := { s := s, op := o, regs := none, out := [] }
  let mma (x : MmaOp) (sparse : Bool) : Begun :=
    let spots := bSpots x (fmt x.bslot) o.base
    let u := mixBytes o.b (s.scratchBytes core spots) s
    just (u.2.setTile core o x.acc.toNat
      (mmaTile x sparse (slot x.aslot) (slot x.bslot) (fmt x.aslot) (fmt x.bslot) o u.1
        (s.tileOf core o x.acc.toNat)))
  let store (acc slotN : Nat) (r : Region) : Begun :=
    let sl := s.slotOf o.kid slotN
    let bs := encodeRegion r sl ((sl.fmt).getD .f32) seed slotN o.crd (s.tileOf core o acc)
    { s := s, op := o, regs := none, out := lastEach (o.pas.zip bs) }
  match o.i with
  | .mma x => mma x false
  | .mmas x => mma x true
  | .mld x =>
    let u := s.snapshot o.pos o.pas
    just (u.2.setTile core o x.acc.toNat
      (mldTile x.reg (slot x.slot) (fmt x.slot) u.1 (s.tileOf core o x.acc.toNat)))
  | .mst x => store x.acc.toNat x.slot.toNat x.reg
  | .mstSp x => store x.acc.toNat x.slot.toNat x.reg
  | .mzero x => just (s.setTile core o x.d.toNat [])
  | .mcvt x =>
    let t := s.tileOf core o x.tile.toNat
    let bs := encodeRegion x.reg (slot x.slot) (fmt x.slot) seed x.slot.toNat o.crd t
    { s := s.amaxUpdate o.id o.pas (regionAmax x.reg t), op := o, regs := some (x.d.toNat, bs), out := [] }
  | .cbdec x =>
    { s := s, op := o, out := [],
      regs := some (x.d.toNat, cbdecBytes (slot x.sslot) (slot x.dslot) (fmt x.dslot) seed
        x.dslot.toNat (x.n.toNat + 1) o.a o.s o.shell) }
  | .bscale x => just (s.setTile core o x.tile.toNat (bscaleTile x o.a (s.tileOf core o x.tile.toNat)))
  | _ => just s

/-- Everything that issued to the matrix engine before a turn has been performed whole: matrix instructions of crews
and tile tasks, in the order of their issue (R17, R297). -/
def Core.mayBegin (k : Core) (turn : Nat) : Bool :=
  (k.ops.all fun e => match e.2.eng with
    | some p => turn ≤ p.id || p.out = some []
    | none => true) &&
  k.deps.all fun e => !e.2.started || e.2.copy || turn ≤ e.2.turn || (e.2.out = some [] && e.2.pairs.isEmpty)

/-- The wave an operation writes to. -/
def State.waveAt (s : State) (core slot : Nat) : Option Wave := Table.get? (s.core core).waves slot

/-- Begins the operation of a key where it has not begun; nothing where it must wait, for its turn or for a line of its
operands that is not full (R98). A line that it reads and that is poisoned, the amax word's among them, makes it a fault
of the grid (R434). -/
def State.beginKey (s : State) (core key : Nat) (p : PendOp) (o : EngineOp) : Option State :=
  if o.out.isSome then some s
  else if !(s.core core).mayBegin o.id || o.lines.any fun l => l ∈ (s.core core).empty then none
  else
    let bad := match o.i with
      | .mld _ => o.pas.find? fun a => s.mem.poisoned a 1
      | .mcvt _ => o.pas.find? fun a => s.mem.poisoned a 1
      | _ => (o.shell.map Prod.snd).find? fun a => s.mem.poisoned a 4
    match bad with
    | some a =>
      let r := s.engineRec core o 0x0E (a / 128 * 128)
      some ((s.endGrid o.kid p.slot r).updCore core fun k => { k with
        ops := Table.put k.ops key { p with eng := some { o with out := some [] } } })
    | none =>
      let b := s.begin core o
      let ws : List PWrite := match b.regs, b.s.waveAt core p.slot with
        | some (d, bs), some w => w.matrixWrites d bs
        | _, _ => []
      some (b.s.updCore core fun k => { k with
        ops := Table.put k.ops key { p with writes := ws, eng := some { b.op with out := some b.out } } })

/-- The lines an operation still writes. -/
def EngineOp.outLines (o : EngineOp) : List Nat := ((o.out.getD []).map fun e => e.1 / 128).eraseDups

/-- The operation writes the scratchpad. -/
def EngineOp.toScratch (o : EngineOp) : Bool :=
  match o.i with
  | .mstSp _ => true
  | _ => false

/-- Writes one line of an operation's output: an arrival at D, or scratchpad bytes. -/
def State.outLine (s : State) (core key : Nat) (p : PendOp) (o : EngineOp) (l : Nat) : State :=
  let bs := (o.out.getD []).filter fun e => e.1 / 128 = l
  let o' := { o with
    out := some ((o.out.getD []).filter fun e => e.1 / 128 != l)
    wlines := o.wlines.filter fun n => n != l }
  let put (s : State) : State := s.updCore core fun k =>
    { k with ops := Table.put k.ops key { p with eng := some o' } }
  if o.toScratch then
    let s1 := put (s.updCore core fun k =>
      { k with scratch := bs.foldl (fun c e => cellSet c e.1 e.2) k.scratch })
    s1.fillLines core [l]
  else if s.farLost (bs.map Prod.fst) then
    -- the pair has ended since the region was translated (R480)
    put (s.endGrid o.kid p.slot { s.engineRec core o 5 o.base with cause := 4 })
  else
    put { s with
      mem := s.mem.arriveD s.tick (.agent o.id)
        (bs.map fun e => { addr := e.1, val := e.2, who := [], marks := [] }) }

/-- Writes every line left. -/
def outAll : List Nat → State → Nat → Nat → State
  | [], s, _, _ => s
  | l :: t, s, core, key =>
    match Table.get? (s.core core).ops key with
    | some p =>
      match p.eng with
      | some o => outAll t (s.outLine core key p o l) core key
      | none => s
    | none => s

/-- A view of every arrival an agent has made at D. -/
def Memory.agentView (m : Memory) (id : Nat) : View :=
  m.log.foldl (fun v x =>
    if x.party = .agent id then x.bytes.foldl (fun v b => v.raise b.addr x.pos) v else v) View.zero

/-- Ends an operation in flight: the rest of its register writes, its flag, its wave (R177, R178); its grid's end
acquires its arrivals (R137). -/
def State.endOp (s0 : State) (core key : Nat) (p : PendOp) : State :=
  let v := match p.eng with
    | some o => s0.mem.agentView o.id
    | none => View.zero
  let s := match p.eng with
    | some o => s0.updGrid o.kid fun g => { g with done := g.done.join v }
    | none => s0
  let lane (t : Thread) : Thread :=
    match p.flag with
    | some n =>
      if t.uid ∈ p.uids then
        { t.flagDown n with
          facq := if v = View.zero then t.facq else Table.put t.facq n ((Table.getD t.facq n View.zero).join v) }
      else t
    | none => t
  let wave (w : Wave) : Wave :=
    let w1 := w.writes p.writes
    { w1 with
      lanes := w1.lanes.map fun e => (e.1, lane e.2)
      park := if w1.park = .engine key then .none else w1.park }
  let s1 := s.updCore core fun k => { k with
    waves := Table.upd k.waves p.slot wave
    ops := Table.del k.ops key }
  match p.eng with
  | none => s1
  | some o =>
    match o.i with
    | .mmas x =>
      match firstIllegal x o with
      | none => s1
      | some (i, g) =>
        let trap := (s.slotOf o.kid x.aslot.toNat).sptrap
        s1.updCrew core o.crewUid fun c =>
          { c with
            sparse := true
            pend := if trap && c.pend.isNone then some { pc := o.pc, row := i, group := g } else c.pend }
    | _ => s1

/-- Removes the kth element of a list. -/
def dropNth {α : Type} (l : List α) (k : Nat) : List α := l.take k ++ l.drop (k + 1)

/-- FLAG_OP_COMPLETE (R177, R178): with k, one of the writes left is made early, in any order, or the reads are made;
without, all of them, and the operation is complete. A load without a flag is performed whole (R132). -/
def execFlagOpComplete (x : CoreItem) (k : Option Nat) (s : State) : Res :=
  let core := coreNum x.core
  s.live (clusterOf core) <|
  match Table.get? (s.core core).ops x.n with
  | none => .next s
  | some p0 =>
    let begun : Option State := match p0.eng with
      | some o => s.beginKey core x.n p0 o
      | none => some s
    match begun with
    | none => .next s
    | some s1 =>
      match Table.get? (s1.core core).ops x.n with
      | none => .next s1
      | some p =>
        match k with
        | some j =>
          match p.writes[j]? with
          | some w =>
            .next (s1.updCore core fun c => { c with
              waves := Table.upd c.waves p.slot fun v => v.write w
              ops := Table.put c.ops x.n { p with writes := dropNth p.writes j } })
          | none =>
            match p.eng with
            | none => .next (s1.landOp core x.n)
            | some o =>
              match o.outLines[j - p.writes.length]? with
              | some l => .next (s1.outLine core x.n p o l)
              | none => .next s1
        | none =>
          if s1.linkHolds p.uids then .next s1
          else
          let s2 := match p.eng with
            | some o => outAll o.outLines s1 core x.n
            | none => s1.landLate core x.n p
          match Table.get? (s2.core core).ops x.n with
          | some p => .next (s2.endOp core x.n p)
          | none => .next s2

end Sys2Proof.Machine
end

