-- ==== Sys2Proof/Machine/Resource.lean ====
section
/-! DEFINITION. Register and accumulator claims, and RQUERY (spec/02 R44 to R48; spec/09 R264, R265). -/

namespace Sys2Proof.Machine

/-! ### The claim queues (R46) -/

/-- A parked claim: the age of its block, the tick it parked at, its slot. -/
structure ClaimAt where
  age : Nat
  tick : Nat
  slot : Nat
deriving DecidableEq, Repr

/-- The order of the queue: by the age of the block, then by park tick, then by slot. The park tick orders the claims of
blocks of equal age too (DESIGN CHOICE, log 121). -/
def ClaimAt.before (a b : ClaimAt) : Bool :=
  a.age < b.age || (a.age = b.age && (a.tick < b.tick || (a.tick = b.tick && a.slot < b.slot)))

/-- The claims parked on a core. -/
def State.claims (s : State) (core : Nat) (acc : Bool) : List ClaimAt :=
  (s.core core).waves.filterMap fun e =>
    match e.2.park with
    | .claim a _ t => if a = acc then some { age := s.claimAge e.2, tick := t, slot := e.1 } else none
    | _ => none

/-- The head of the queue. -/
def State.claimHead (s : State) (core : Nat) (acc : Bool) : Option Nat :=
  ((s.claims core acc).foldl (fun (o : Option ClaimAt) c =>
    match o with
    | none => some c
    | some d => if c.before d then some c else some d) none).map ClaimAt.slot

/-- Registers that n more granules make addressable read zero (R45). -/
def Thread.claim (t : Thread) (n : Nat) : Thread :=
  { t with
    v := t.v.filter fun e => !(t.limit ≤ e.1 && e.1 < t.limit + 8 * n)
    claimed := t.claimed + n }

/-- The granules or tiles a claim asks for: for registers, n for each active lane, of its own block; for tiles, n of
the crew's block. -/
def State.claimAsk (s : State) (core : Nat) (w : Wave) (acc : Bool) (n : Nat) : Ask :=
  if acc then
    match w.crew.bind fun id => Table.get? (s.core core).crews id with
    | some c => [(c.blockUid, n)]
    | none => []
  else askOf (w.active.map Prod.snd) fun _ => n

/-- Satisfies the claim a wave is parked with. -/
def State.satisfy (s : State) (core slot : Nat) (w : Wave) (acc : Bool) (n : Nat) : State :=
  let s := s.noteTaken core acc (s.claimAsk core w acc n)
  if acc then
    let s1 := s.updCore core fun k => { k with waves := Table.put k.waves slot { w with park := .none } }
    match w.crew with
    | some id => s1.updCore core fun k => { k with
        crews := Table.upd k.crews id fun c => { c with tiles := c.tiles ++ List.replicate n [] } }
    | none => s1
  else
    let w1 := w.updLanes w.active fun _ t => t.claim n
    s.updCore core fun k => { k with waves := Table.put k.waves slot { w1 with park := .none } }

/-- A tile task waits for an accumulator tile ahead of a claim: it ranks as a block whose age is the tick
of its issue (R105). -/
def State.taskAhead (s : State) (core : Nat) (acc : Bool) (w : Wave) : Bool :=
  acc && (s.core core).deps.any fun e => (s.core core).wantsTile e.2 && e.2.age < s.claimAge w

/-- Satisfies the head of a queue where it fits; `only` names the one slot that is looked at. -/
def State.tryClaim (s : State) (core : Nat) (acc : Bool) (only : Option Nat) : State :=
  match s.claimHead core acc with
  | none => s
  | some slot =>
    if only.isSome && only != some slot then s
    else
      match Table.get? (s.core core).waves slot with
      | none => s
      | some w =>
        match w.park with
        | .claim _ n _ =>
          if !s.taskAhead core acc w && s.meets core acc (s.claimAsk core w acc n) then
            (s.satisfy core slot w acc n).updCore core fun k => { k with deadFrom := s.tick }
          else s
        | _ => s

/-- CLAIM_SATISFIED (R46). -/
def execClaimSatisfied (x : CoreId) (acc : Bool) (s : State) : Res :=
  s.live x.cl.toNat (.next (s.tryClaim (coreNum x) acc none))

/-! ### The instructions (R264) -/

/-- Issues a claim or release: in a crew, only as a full crew. -/
def State.issueRes (s : State) (g : Guard) (needCrew : Bool) (k : Here → Table Thread → State) : Res :=
  s.issue { len := 8, g := g, uniform := true, cluster := true } fun h ls =>
    if (needCrew || h.wave.crew.isSome) && !h.wave.fullCrew then
      s.raise h { code := 2, lane := lowLane ls }
    else k h ls

/-- Parks a claim, or satisfies it at once where it comes to stand at the head and fits. The claim has issued: the
core's deadlock count starts anew (R49). -/
def State.parkClaim (s : State) (h : Here) (acc : Bool) (n : Nat) : State :=
  ((s.doneLen h { h.wave with park := .claim acc n s.tick } 8).updCore h.core fun k =>
    { k with deadFrom := s.tick }).tryClaim h.core acc (some h.slot)

/-- REGCLM (R45). -/
def execRegclm (x : CountOp) (s : State) : Res :=
  s.issueRes x.g false fun h ls =>
    let n := x.n.toNat
    let ceil := ((s.lrec? h.wave.kid).map LaunchRec.ceil).getD 0
    match ls.find? fun e => e.2.base + 8 * (e.2.claimed + n) > ceil with
    | some e => s.raise h { code := 0x0A, lane := some e.1 }
    | none => s.parkClaim h false n

/-- A register write in flight goes to a register above a limit. -/
def PWrite.above (lim : Nat → Option Nat) (p : PWrite) : Bool :=
  match p with
  | .v uid r _ => match lim uid with
    | some l => l ≤ r
    | none => false
  | _ => false

/-- The bytes of an engine operation's result run. -/
def State.resultBytes (s : State) (o : EngineOp) : Nat :=
  let size (k : BitVec 3) : Nat := (((s.slotOf o.kid k.toNat).fmt).getD .f32).size
  match o.i with
  | .mcvt x => regRows x.reg * regCols x.reg * size x.slot
  | .cbdec x => 8 * (x.n.toNat + 1) * size x.dslot
  | _ => 0

/-- REGREL (R47): it waits for operations in flight that write a register it releases. -/
def execRegrel (x : CountOp) (s : State) : Res :=
  s.issueRes x.g false fun h ls =>
    let after (t : Thread) : Nat := t.claimed - x.n.toNat
    let lim (uid : Nat) : Option Nat :=
      (ls.find? fun e => e.2.uid = uid).map fun e => e.2.base + 8 * after e.2
    let writes (p : PendOp) : Bool :=
      (p.writes.any fun w => w.above lim) ||
      (p.late.any fun l => !l.toW && match lim l.uid with
        | some n => n < l.d + sizeRegs l.z
        | none => false) ||
      match p.eng with
      | some o => p.uids.any fun u => (engineDest o.i (s.resultBytes o)).any fun r =>
          match lim u with
          | some l => l < r.1 + r.2
          | none => false
      | none => false
    if (s.core h.core).ops.any fun e => e.2.slot = h.slot && writes e.2 then s
    else
      let drop (t : Thread) : Thread :=
        { t with
          claimed := after t
          v := t.v.filter fun e => e.1 < t.base + 8 * after t }
      s.doneLen h (h.wave.updLanes ls fun _ t => drop t) 8

/-- ACCLM (R45). -/
def execAcclm (x : CountOp) (s : State) : Res :=
  s.issueRes x.g true fun h ls =>
    let n := x.n.toNat
    let ceil := ((s.lrec? h.wave.kid).map LaunchRec.accCeil).getD 0
    match s.crewHere h with
    | none => s.raise h { code := 2, lane := lowLane ls }
    | some c =>
      if c.tiles.length + n > ceil then s.raise h { code := 0x0A, lane := lowLane ls }
      else s.parkClaim h true n

/-- ACCREL (R47): after the crew's engine operations (log 15). -/
def execAccrel (x : CountOp) (s : State) : Res :=
  s.issueRes x.g true fun h ls =>
    match s.crewHere h with
    | none => s.raise h { code := 2, lane := lowLane ls }
    | some c =>
      if s.engineBusy h.core c.uid then s
      else
        (s.updCrew h.core c.uid fun c =>
          { c with tiles := c.tiles.take (c.tiles.length - x.n.toNat) }).doneLen h h.wave 8

/-- The value RQUERY gives a lane (R265). -/
def State.rquery (s : State) (h : Here) (sel : Nat) (t : Thread) : Nat :=
  let rec' := s.lrec? h.wave.kid
  match sel with
  | 0 => t.base
  | 1 => t.claimed
  | 2 => ((s.crewHere h).map fun c => c.tiles.length).getD 0
  | 3 => s.commonGranules h.core
  | 4 => s.commonTiles h.core
  | 5 => (rec'.map LaunchRec.ceil).getD 0
  | 6 => (rec'.map LaunchRec.accCeil).getD 0
  | 7 => ((s.blockOf t).map s.floorFree).getD 0
  | 8 => h.core
  | _ => if h.wave.crew.isSome then 1 else 0

/-- RQUERY (R265). -/
def execRquery (x : QueryOp) (s : State) : Res :=
  s.issue { len := 8, g := x.g, cluster := true, uses := [(x.d.toNat, 1)] } fun h ls =>
    s.doneLen h (h.wave.updLanes ls fun _ t =>
      t.setReg x.d.toNat (BitVec.ofNat 32 (s.rquery h x.sel.toNat t))) 8

end Sys2Proof.Machine
end

