-- ==== Sys2Proof/Machine/Copy.lean ====
section
/-! DEFINITION. Copy programs, copies and their batches, stages, tile and stash definition (spec/09 R266 to
R279; spec/04 R97 to R104; spec/05 R141, R142; spec/11 R347, R348). -/

namespace Sys2Proof.Machine

/-! ### Copy programs (R266 to R268) -/

/-- An AXIS micro-operation. -/
structure Axis where
  a : Nat
  origin : Int
  extent : Nat
  stride : Int
deriving DecidableEq, Repr

/-- A LOOP micro-operation. -/
structure LoopStep where
  a : Nat
  step : Int
  count : Nat
deriving DecidableEq, Repr

/-- The parts of a copy program. -/
structure Prog where
  axes : List Axis
  loops : List LoopStep
  groups : List (Nat × Int)
  runs : List (Nat × Nat)
  raw : List Byte
deriving DecidableEq, Repr

/-- Adds one micro-operation; nothing when its kind or a reserved bit is illegal (R266). -/
def Prog.micro (p : Prog) (w : DWord) : Option Prog :=
  let a := (w.extractLsb' 4 2).toNat
  let lo := (w.extractLsb' 8 8).toInt
  let mid := (w.extractLsb' 16 16).toNat
  let hi := (w.extractLsb' 32 32).toInt
  match (w.extractLsb' 0 4).toNat with
  | 1 =>
    if w.extractLsb' 6 2 = 0#2 then
      some { p with axes := p.axes ++ [{ a := a, origin := lo, extent := mid, stride := hi }] }
    else none
  | 2 =>
    if w.extractLsb' 6 2 = 0#2 && w.extractLsb' 32 32 = 0#32 then
      some { p with loops := p.loops ++ [{ a := a, step := lo, count := mid }] }
    else none
  | 3 =>
    if w.extractLsb' 4 12 = 0#12 then some { p with groups := p.groups ++ [(mid, hi)] } else none
  | 4 =>
    if w.extractLsb' 6 10 = 0#10 && w.extractLsb' 32 32 = 0#32 then
      some { p with runs := p.runs ++ [(2 ^ a, mid)] }
    else none
  | _ => none

/-- The micro-operations before the first END. -/
def parseMicro : Nat → List Byte → Prog → Option Prog
  | 0, _, p => some p
  | n + 1, bs, p =>
    let w := BitVec.ofNat 64 (natOf (bs.take 8))
    if w.extractLsb' 0 4 = 0#4 then some p
    else
      match p.micro w with
      | some q => parseMicro n (bs.drop 8) q
      | none => none

/-- A program that R267 does not make invalid. -/
def Prog.ok (p : Prog) : Bool :=
  p.runs.length = 1 && p.loops.length ≤ 4 && p.groups.length ≤ 1 &&
  (p.axes.map Axis.a).eraseDups.length = p.axes.length &&
  (p.loops.all fun l => l.count != 0 && p.axes.any fun x => x.a = l.a) &&
  (p.groups.all fun g => g.1 != 0) && p.runs.all fun r => r.2 != 0

/-- The valid program 64 bytes hold. -/
def parseProg (bs : List Byte) : Option Prog :=
  match parseMicro 8 bs { axes := [], loops := [], groups := [], runs := [], raw := bs } with
  | some p => if p.ok then some p else none
  | none => none

/-- The element size and the bytes of a run. -/
def Prog.esize (p : Prog) : Nat := ((p.runs.head?).map Prod.fst).getD 1
def Prog.runBytes (p : Prog) : Nat := ((p.runs.head?).map fun r => r.1 * r.2).getD 0

/-- The coordinates the loops add to each axis, the first loop outermost. -/
def loopCoords : List LoopStep → List (Table Int)
  | [] => [[]]
  | l :: t =>
    let rest := loopCoords t
    (natsFrom 0 l.count).flatMap fun (i : Nat) => rest.map fun c =>
      Table.put c l.a (Table.getD c l.a 0 + (i : Int) * l.step)

/-- CopyRuns (R268): the address and the bounds of each run, in order. -/
def Prog.emit (p : Prog) (gbase : Nat) : List (Nat × Bool) :=
  let g := (p.groups.head?).getD (1, 0)
  let coords := loopCoords p.loops
  (natsFrom 0 g.1).flatMap fun (cg : Nat) => coords.map fun c =>
    let at' (x : Axis) : Int := x.origin + Table.getD c x.a 0
    let inb := p.axes.all fun x => x.extent = 0 || (0 ≤ at' x && at' x < (x.extent : Int))
    let off : Int := p.axes.foldl (fun n x => n + at' x * x.stride) ((cg : Int) * g.2)
    ((((gbase : Int) + (p.esize : Int) * off) % 2 ^ 64).toNat, inb)

/-- Divides a run at the lines of both its sides. -/
def splitRun : Nat → Run → List Run
  | 0, _ => []
  | fuel + 1, r =>
    if r.len = 0 then []
    else
      let room := min (128 - r.dense % 128) (if r.inb then 128 - r.g % 128 else 128)
      let k := min r.len room
      { r with len := k } ::
        splitRun fuel { r with g := r.g + k, dense := r.dense + k, len := r.len - k }

/-- The pieces of a copy: the runs laid densely from a byte (R268). -/
def Prog.pieces (p : Prog) (gbase dense : Nat) : List Run :=
  let rs := p.emit gbase
  ((natsFrom 0 rs.length).zip rs).flatMap fun e =>
    splitRun p.runBytes
      { idx := e.1, g := e.2.1, inb := e.2.2, dense := dense + e.1 * p.runBytes, len := p.runBytes,
        data := none, done := false }

/-! ### Issue (R269 to R271) -/

/-- What one copy asks for: the lane and thread, the program's address, the base it runs over, the other
global base of ACOPYG, and the tile offset of ACOPY. -/
structure CopyReq where
  lane : Nat
  t : Thread
  prog : Nat
  gbase : Nat
  other : Nat
  so : Nat
deriving DecidableEq, Repr

/-- The lowest request that breaks a condition, and the address that does. -/
def badAddr (l : List CopyReq) (f : CopyReq → List Nat) (bad : Nat → Bool) : Option (Nat × Nat) :=
  l.findSome? fun r => ((f r).find? bad).map fun a => (r.lane, a)

/-- An address outside translated global memory (R113). -/
def offGlobal (a : Nat) : Bool := a ≥ windowBase

/-- Reads the programs of some copies at D, in lane order: the programs (none where invalid), or the lane
and error at which the read stops. -/
def readProgs : List CopyReq → State → Via → Nat →
    Except (Nat × UnitErr) (List (CopyReq × Option Prog)) × State
  | [], s, _, _ => (.ok [], s)
  | r :: t, s, v, ctx =>
    let u := s.unitRead v ctx r.prog 64
    match u.1 with
    | .error e => (.error (r.lane, e), u.2)
    | .ok bs =>
      let w := readProgs t u.2 v ctx
      match w.1 with
      | .error e => (.error e, w.2)
      | .ok l => (.ok ((r, parseProg bs) :: l), w.2)

/-- Why a copy is refused (R271): code, cause, lane and address. -/
structure CopyFlt where
  code : Nat
  cause : Nat
  lane : Nat
  addr : Nat
deriving DecidableEq, Repr

/-- What the checks of R271 give. -/
inductive CopyChk where
  | ok (l : List (CopyReq × Prog))
  | fault (f : CopyFlt)
  | unit (lane : Nat) (e : UnitErr)
deriving DecidableEq, Repr

/-- The checks of R271 from step 2 on, each over every copy before the next; `tile` is the bytes of the
tile that an ACOPY's copy names, or that it names none. -/
def State.checkCopies (s : State) (v : Via) (ctx : Nat) (acopy : Bool) (tile : CopyReq → Option Nat)
    (l : List CopyReq) : CopyChk × State :=
  let bases (r : CopyReq) : List Nat := if acopy then [r.gbase] else [r.gbase, r.other]
  match badAddr l (fun r => r.prog :: bases r) offGlobal with
  | some (n, a) => (.fault { code := 5, cause := 0, lane := n, addr := a }, s)
  | none =>
    match badAddr l (fun r => [r.prog]) fun a => a % 64 != 0 with
    | some (n, a) => (.fault { code := 3, cause := 0, lane := n, addr := a }, s)
    | none =>
      let u := readProgs l s v ctx
      match u.1 with
      | .error (n, e) => (.unit n e, u.2)
      | .ok ps =>
        match ps.find? fun e => e.2.isNone with
        | some e => (.fault { code := 1, cause := 2, lane := e.1.lane, addr := e.1.prog }, u.2)
        | none =>
          let qs : List (CopyReq × Prog) := ps.filterMap fun e => e.2.map fun p => (e.1, p)
          let emits := qs.map fun e => (e, (e.2.emit e.1.gbase).filter Prod.snd)
          match emits.findSome? fun e =>
              (e.2.find? fun x => offGlobal x.1).map fun x => (e.1.1.lane, x.1) with
          | some (n, a) => (.fault { code := 5, cause := 0, lane := n, addr := a }, u.2)
          | none =>
            match emits.findSome? fun e =>
                if acopy && e.1.1.so % e.1.2.esize != 0 then some (e.1.1.lane, e.1.1.so)
                else (e.2.find? fun x => x.1 % e.1.2.esize != 0).map fun x => (e.1.1.lane, x.1) with
            | some (n, a) => (.fault { code := 3, cause := 0, lane := n, addr := a }, u.2)
            | none =>
              if !acopy then (.ok qs, u.2)
              else
                match l.find? fun r => (tile r).isNone with
                | some r => (.fault { code := 6, cause := 0, lane := r.lane, addr := 0 }, u.2)
                | none =>
                  match qs.find? fun e =>
                      e.1.so + (e.2.emit e.1.gbase).length * e.2.runBytes > (tile e.1).getD 0 with
                  | some e => (.fault { code := 6, cause := 0, lane := e.1.lane, addr := e.1.so }, u.2)
                  | none => (.ok qs, u.2)

/-- A copy of a thread, before it is queued; `turn` is its instruction's place in the engine's order. -/
def copyOf (s : State) (h : Here) (turn : Nat) (r : CopyReq) (kind : CopyKind) (pieces : List Run) : Copy :=
  { kind := kind, uid := r.t.uid, episode := r.t.episode, batch := r.t.batch,
    blockUid := if r.t.ray.isSome then 0 else r.t.blockUid, kid := h.wave.kid, ctx := h.wave.ctx,
    pc := h.wave.pc, id := s.uids, turn := turn, index := r.t.index, tidx := r.t.tidx, lane := some r.lane,
    stage := none, runs := pieces, stuck := none, cancelled := false }

/-- Runs that do nothing are left out: out-of-bounds runs of `.out` and `.scatter`. -/
def CopyKind.live (k : CopyKind) (r : Run) : Bool :=
  r.inb || (match k with
    | .tileOut => false
    | .scatter => false
    | _ => true)

/-- Queues a copy on a core: the lines it writes are empty from now (R97). -/
def State.queueCopy (s : State) (core : Nat) (c : Copy) : State :=
  let c := { c with runs := c.runs.filter c.kind.live }
  (({ s with uids := s.uids + 1 }).updCore core fun k => { k with
    copies := Table.put k.copies (Table.nextKey k.copies) c }).setLines core 2 true c.writing

/-- The copy engine of a core has room for n more copies (R271). R271 gives its queue no size: it holds the copies of
one instruction, and how many more is the device's own (log 97). -/
def State.queueRoom (s : State) (core n : Nat) : Bool :=
  ((s.core core).copies.filter fun e => e.2.kind != .fill).length + n ≤ 32 + Config.copyQueue

/-- Raises what the checks of an ACOPY or ACOPYG found. -/
def State.copyStop (s : State) (h : Here) (c : CopyChk) : State :=
  match c with
  | .fault f => s.raise h { code := f.code, cause := f.cause, lane := some f.lane, addr := f.addr }
  | .unit n e => s.unitFault h n 0 e
  | .ok _ => s

/-- ACOPY (R269): each lane's copy runs to or from the tile of its own block (R99). -/
def execAcopy (x : AcopyOp) (s : State) : Res :=
  let uses := Src.run 2 x.ga ++ Src.run 1 x.so ++ Src.run 2 x.pa
  s.issue { len := 16, g := x.g, cluster := true, orders := true, uses := uses } fun h ls =>
    match ls.find? fun e => e.2.ray.isSome with
    | some e => s.raise h { code := 6, lane := some e.1 }
    | none =>
      let te (t : Thread) : Option (Block × TileEntry) := s.tileNamed t x.tile.toNat
      let rs : List CopyReq := ls.map fun e =>
        { lane := e.1, t := e.2, prog := (Src.int64 h.wave none e.2 x.pa).toNat,
          gbase := (Src.int64 h.wave none e.2 x.ga).toNat, other := 0,
          so := (Src.int h.wave none e.2 x.so).toNat }
      if s.requestsFull h then s.notReady h .requests
      else
        let u := s.checkCopies h.via h.wave.ctx true (fun r => (te r.t).map fun e => (e.2.count + 1) * 128) rs
        match u.1 with
        | .ok l =>
          if ls.any fun e => !u.2.tileReady e.2 x.tile.toNat then
            u.2.notReady h (.tiles (tilesNamed ls x.tile.toNat))
          else if !u.2.queueRoom h.core ls.length then u.2
          else
            let base (t : Thread) : Nat := ((te t).map fun e => e.1.scratch + 128 * e.2.base).getD 0
            let kind : CopyKind := if x.out then .tileOut else .tileIn
            (l.foldl (fun s e =>
              s.queueCopy h.core
                (copyOf s h u.2.uids e.1 kind (e.2.pieces e.1.gbase (base e.1.t + e.1.so)))) u.2).doneLen h h.wave 16
        | c => u.2.copyStop h c

/-- ACOPYG (R270). -/
def execAcopyg (x : AcopygOp) (s : State) : Res :=
  let uses := Src.run 2 x.sb ++ Src.run 2 x.db ++ Src.run 2 x.pa
  s.issue { len := 16, g := x.g, cluster := true, orders := true, uses := uses } fun h ls =>
    if s.requestsFull h then s.notReady h .requests else
    let rs : List CopyReq := ls.map fun e =>
      let sb := (Src.int64 h.wave none e.2 x.sb).toNat
      let db := (Src.int64 h.wave none e.2 x.db).toNat
      { lane := e.1, t := e.2, prog := (Src.int64 h.wave none e.2 x.pa).toNat,
        gbase := if x.scatter then db else sb, other := if x.scatter then sb else db, so := 0 }
    let u := s.checkCopies h.via h.wave.ctx false (fun _ => none) rs
    match u.1 with
    | .ok l =>
      let kind : CopyKind := if x.scatter then .scatter else .gather
      if !u.2.queueRoom h.core ls.length then u.2
      else (l.foldl (fun s e =>
        s.queueCopy h.core (copyOf s h u.2.uids e.1 kind (e.2.pieces e.1.gbase e.1.other))) u.2).doneLen
        h h.wave 16
    | c => u.2.copyStop h c

/-! ### The copy engine performs a copy (R141) -/

/-- The fault record of a copy (R428, R433). -/
def State.copyRec (s : State) (core : Nat) (c : Copy) (x : CopyFlt) : FaultRec :=
  { FaultRec.blank x.code s.tick with
    cause := BitVec.ofNat 8 x.cause, ctx := BitVec.ofNat 8 c.ctx, src := 1,
    core := BitVec.ofNat 8 core
    lane := match c.lane with
      | some l => BitVec.ofNat 8 l
      | none => 0xFF
    pc := BitVec.ofNat 64 c.pc.toNat, addr := BitVec.ofNat 64 x.addr,
    block := BitVec.ofNat 32 c.index, thread := c.tidx
    seq := match Table.get? s.grids (s.rootOf c.kid) with
      | some g => BitVec.ofNat 64 g.seq
      | none => 0
    kid := match Table.get? s.grids c.kid with
      | some g => 0#4 ++ g.kernel
      | none => 0 }

/-- A translation or memory error met by a copy: a page not present holds it, anything else is a fault of
its task (R271). -/
def State.copyErr (s : State) (core key : Nat) (c : Copy) (kind : Access) (e : UnitErr) : State :=
  let x : CopyFlt := { code := 5, cause := 0, lane := 0, addr := 0 }
  match e with
  | .absent va l =>
    let m : PageMiss := { ctx := c.ctx, va := va, level := l, kind := kind }
    let p := s.pageFault m (s.copyRec core c { x with code := 4 }) []
    p.2.updCore core fun k => { k with
      copies := Table.upd k.copies key fun y => { y with stuck := some p.1 } }
  | .denied n va => s.endGrid c.kid 0 (s.copyRec core c { x with cause := n, addr := va })
  | .window va => s.endGrid c.kid 0 (s.copyRec core c { x with addr := va })
  | .ecc l => s.endGrid c.kid 0 (s.copyRec core c { x with code := 0x0E, addr := l })

/-- The line that a run is read from: none where it takes no source byte. -/
def CopyKind.source (k : CopyKind) (r : Run) : Option Nat :=
  match k with
  | .tileOut => some (r.dense / 128)
  | .scatter => some (r.dense / 128)
  | _ => if r.inb then some (r.g / 128) else none

/-- The first source byte, and the first destination byte, of a run. -/
def CopyKind.from (k : CopyKind) (r : Run) : Nat :=
  match k with
  | .tileOut => r.dense
  | .scatter => r.dense
  | _ => r.g
def CopyKind.to (k : CopyKind) (r : Run) : Nat :=
  match k with
  | .tileOut => r.g
  | .scatter => r.g
  | _ => r.dense

/-- The virtual address of a line that a run of a copy is read from or written to, and its translation, counted as one
request of the copy engine (R110, R419). -/
def State.copyLine (s : State) (core ctx a : Nat) (kind : Access) : Except UnitErr Nat × State :=
  let line := a / 128 * 128
  let u := s.unitPa { core := some core, cl := clusterOf core } ctx line kind
  match u.1 with
  | .error e => (.error e, u.2)
  | .ok pa => (.ok pa, u.2.reach (.copyEngine core) ctx line pa)

/-- Reads the source line of a run, as one snapshot, for every run of the copy that takes bytes of it (R141, R270);
a read of the scratchpad waits while the line is empty (R98). -/
def State.readCopyLine (s : State) (core key : Nat) (c : Copy) (r : Run) : State :=
  let took (s : State) (f : Run → List Byte) : State :=
    s.updCore core fun k => { k with copies := Table.upd k.copies key fun y => { y with
      runs := y.runs.map fun q =>
        if q.data.isNone && !q.done && c.kind.source q = c.kind.source r then { q with data := some (f q) }
        else q } }
  match c.kind, c.kind.source r with
  | _, none => took s fun q => List.replicate q.len 0
  | .tileOut, some l =>
    if l ∈ (s.core core).empty then s
    else took s fun q => s.scratchBytes core (natsFrom q.dense q.len)
  | k, some _ =>
    let u := s.copyLine core c.ctx (k.from r) .read
    match u.1 with
    | .error e => u.2.copyErr core key c .read e
    | .ok pa =>
      if u.2.mem.poisoned pa 128 then u.2.copyErr core key c .read (.ecc (pa / 128 * 128))
      else took (u.2.farRead (.copy c.id) c.kid false (natsFrom pa 128)) fun q =>
        u.2.mem.readD (pa + k.from q % 128) q.len

/-- Marks runs done, and the scratchpad lines full whose last engine write this was (R97). -/
def State.doneCopy (s : State) (core key : Nat) (c : Copy) (f : Run → Bool) : State :=
  (s.updCore core fun k => { k with copies := Table.upd k.copies key fun y => { y with
    runs := y.runs.map fun r => if f r then { r with data := none, done := true } else r } }).fillLines core
      (({ c with runs := c.runs.filter f }).writing)

/-- The last value of each byte of a list, in order. -/
def lastBytes (l : List (Nat × Byte)) : List (Nat × Byte) :=
  (l.foldl (fun (t : Table Byte) e => Table.put t e.1 e.2) []).map fun e => (e.1, e.2)

/-- Writes the destination line of a run, once every run into it has been read: one arrival at D, or bytes of the
scratchpad (R141). -/
def State.writeCopyLine (s : State) (core key : Nat) (c : Copy) (r : Run) : State :=
  let mine (q : Run) : Bool := !q.done && c.kind.to q / 128 = c.kind.to r / 128
  let go := c.runs.filter mine
  let bs := lastBytes (go.flatMap fun q =>
    let d := q.data.getD []
    (natsFrom (c.kind.to q) d.length).zip d)
  if go.any fun q => q.data.isNone then s
  else if c.kind = .tileIn then
    (s.updCore core fun k =>
      { k with scratch := bs.foldl (fun l e => cellSet l e.1 e.2) k.scratch }).doneCopy core key c mine
  else
    let u := s.copyLine core c.ctx (c.kind.to r) .write
    match u.1 with
    | .error e => u.2.copyErr core key c .write e
    | .ok pa =>
      let ws : List NewByte := bs.map fun e =>
        { addr := pa + e.1 % 128, val := e.2, who := [], marks := [] }
      ({ u.2 with mem := u.2.mem.arriveD u.2.tick (.agent c.id) ws }).doneCopy core key c mine

/-- The copy engine of a core has performed whole what issued to it before a turn: the copies of earlier instructions and
stages, and copy tile tasks (R17). What is cancelled has left the engine. -/
def Core.copyTurn (k : Core) (turn : Nat) : Bool :=
  (k.copies.all fun e =>
    e.2.kind = .fill || e.2.cancelled || turn ≤ e.2.turn || e.2.runs.all fun r => r.done) &&
  k.deps.all fun e => !e.2.started || !e.2.copy || turn ≤ e.2.turn || (e.2.out = some [] && e.2.pairs.isEmpty)

/-- ENGINE_WRITE_COMPLETE (R97, R141): in its turn, the copy engine goes on with one run of a copy: it reads the run's source line,
or, once what goes into the run's destination line has been read, writes that line. -/
def execEngineWriteComplete (x : CoreItem) (run : Nat) (s : State) : Res :=
  let core := coreNum x.core
  s.live (clusterOf core) <|
  match Table.get? (s.core core).copies x.n with
  | none => .next s
  | some c =>
    match c.runs[run]? with
    | none => .next s
    | some r =>
      if r.done || c.kind = .fill || c.cancelled || c.stuck.isSome || !(s.core core).copyTurn c.turn then .next s
      else if r.data.isNone then .next (s.readCopyLine core x.n c r)
      else .next (s.writeCopyLine core x.n c r)

/-- COPY_COMPLETE (R141): every run is done, and the peer has answered every read (R449). -/
def execCopyComplete (x : CoreItem) (s : State) : Res :=
  let core := coreNum x.core
  s.live (clusterOf core) <|
  match Table.get? (s.core core).copies x.n with
  | none => .next s
  | some c =>
    if c.kind = .fill || c.cancelled || !(c.runs.all fun r => r.done) || s.linkBusy (.copy c.id) then .next s
    else
      let d : DoneCopy :=
        { uid := c.uid, episode := c.episode, batch := c.batch, blockUid := c.blockUid,
          stage := c.stage, view := s.mem.agentView c.id }
      let s1 := s.updCore core fun k => { k with copies := Table.del k.copies x.n }
      match Table.get? s.blocks c.blockUid with
      | none => .next (s1.updCluster (clusterOf core) fun k => { k with rdone := k.rdone ++ [d] })
      | some b =>
        .next (s1.updBlock b.uid fun b => { b with done := b.done ++ [d] })

/-! ### Batches (R272, R273) -/

/-- SEAL (R272). -/
def execSeal (x : SealOp) (s : State) : Res :=
  s.issue { len := 8, g := x.g, cluster := true, uses := [(x.d.toNat, 1)] } fun h ls =>
    match ls.find? fun e => e.2.batch ≥ 2 ^ 32 with
    | some e => s.raise h { code := 1, lane := some e.1 }
    | none =>
      s.doneLen h (h.wave.updLanes ls fun _ t =>
        { t.setReg x.d.toNat (BitVec.ofNat 32 t.batch) with batch := t.batch + 1 }) 8

/-- The completed copies a thread's waits can name. -/
def State.doneOf (s : State) (cl : Nat) (t : Thread) : List DoneCopy :=
  match s.blockOf t with
  | some b => b.done
  | none => (s.cluster cl).rdone

/-- A batch up to m of a thread's episode is still in flight, on whichever core its copies stand (R279). -/
def State.batchBusy (s : State) (t : Thread) (m : Nat) : Bool :=
  let own := s.cores.flatMap fun k => k.copies.map Prod.snd
  let l := match s.blockOf t with
    | some b => own ++ b.scopies
    | none => own
  l.any fun c => c.stage.isNone && c.kind != .fill && c.uid = t.uid && c.episode = t.episode &&
    c.batch ≤ m

/-- WAITB (R273): it waits while a batch it names is in flight, then acquires their arrivals. -/
def execWaitb (x : OneSrcOp) (s : State) : Res :=
  s.issue { len := lenOf x.im, g := x.g, cluster := true, uses := runs [x.a] } fun h ls =>
    let m (t : Thread) : Nat := min (Src.int h.wave x.im t x.a).toNat (t.batch - 1)
    if ls.any fun e => s.batchBusy e.2 (m e.2) then s
    else
      let got (t : Thread) : Thread :=
        { t with
          view := (s.doneOf (clusterOf h.core) t).foldl (fun v d =>
            if d.stage.isNone && d.uid = t.uid && d.episode = t.episode && d.batch ≤ m t then
              v.join d.view
            else v) t.view }
      s.doneLen h (h.wave.updLanes ls fun _ t => got t) (lenOf x.im)

/-! ### Stages (R274, R347, R348) -/

/-- Releases the stages of a block up to n (R274). -/
def Block.release (b : Block) (n : Nat) (pc : Pc) : Block :=
  let m := max b.stage n
  { b with stage := m, stagePc := b.stagePc ++ List.replicate (m - b.stage) pc }

/-- What the completed stages of a thread's block have written (R142). -/
def State.stageView (s : State) (t : Thread) : View :=
  match s.blockOf t with
  | some b => b.done.foldl (fun v d => if d.stage.isSome then v.join d.view else v) View.zero
  | none => View.zero

/-- STAGE (R274): it counts in the block of every lane. -/
def execStage (x : CountOp) (s : State) : Res :=
  s.issue { len := 8, g := x.g, uniform := true, cluster := true } fun h ls =>
    match ls.find? fun e => (s.blockOf e.2).isNone with
    | some e => s.raise h { code := 1, lane := some e.1 }
    | none =>
      let count := ((s.lrec? h.wave.kid).map LaunchRec.stages).getD 0
      let s1 := (s.blocksHere ls).foldl (fun s b =>
        s.updBlock b.uid fun b => b.release (min x.n.toNat count) h.wave.pc) s
      s1.doneLen h (h.wave.updLanes ls fun _ t => { t with view := t.view.join (s.stageView t) }) 8

/-- A stage's descriptor (R347). Its reserved bytes are read as zero (R7); a direction that R347 does not name makes
it no descriptor (`ok`, log 58). -/
structure StageDesc where
  base : Nat
  prog : Nat
  stride : Int
  tile : Nat
  out : Bool
  off : Nat
  ok : Bool
deriving DecidableEq, Repr

def parseStage (bs : List Byte) : StageDesc :=
  let q (o : Nat) : Nat := natOf ((bs.drop o).take 8)
  let b (o : Nat) : Nat := (listGet bs o 0).toNat
  { base := q 0, prog := q 8, stride := (BitVec.ofNat 64 (q 16)).toInt, tile := b 24,
    out := b 25 = 1, off := (wordAt bs 28).toNat, ok := b 25 < 2 }

/-- The copy of a stage, before its program is read. -/
def stageCopy (s : State) (b : Block) (k : Nat) : Copy :=
  { kind := .tileIn, uid := 0, episode := 0, batch := 0, blockUid := b.uid, kid := b.kid,
    ctx := ((Table.get? s.grids b.kid).map Grid.ctx).getD 0, pc := listGet b.stagePc (k - 1) 0,
    id := s.uids, turn := s.uids, index := b.idx, tidx := 0, lane := none, stage := some k, runs := [],
    stuck := none, cancelled := false }

/-- An error met before a stage's copy is issued: a page not present is recorded and the stage tried
again; anything else is a fault of the launching task (R348). -/
def State.stageErr (s : State) (b : Block) (c : Copy) (e : UnitErr) : State :=
  let x : CopyFlt := { code := 5, cause := 0, lane := 0, addr := 0 }
  match e with
  | .absent va l =>
    let m : PageMiss := { ctx := c.ctx, va := va, level := l, kind := .read }
    let r := s.copyRec b.core c { x with code := 4 }
    (s.pageFault m r [{ kid := b.kid, uid := b.uid, src := 1, frec := r }]).2
  | .denied n va => s.endGrid c.kid 0 (s.copyRec b.core c { x with cause := n, addr := va })
  | .window va => s.endGrid c.kid 0 (s.copyRec b.core c { x with addr := va })
  | .ecc l => s.endGrid c.kid 0 (s.copyRec b.core c { x with code := 0x0E, addr := l })

/-- Issues the copy of a released stage of a block (R348). -/
def State.issueStage (s : State) (b : Block) : State :=
  let k := b.stageIssued + 1
  let c := stageCopy s b k
  let v : Via := { core := some b.core, cl := clusterOf b.core }
  let sched := ((s.lrec? b.kid).map LaunchRec.sched).getD 0
  let u := s.unitRead v c.ctx (sched + 32 * (k - 1)) 32
  match u.1 with
  | .error e => u.2.stageErr b c e
  | .ok bs =>
    let d := parseStage bs
    let fault (x : CopyFlt) : State := u.2.endGrid c.kid 0 (u.2.copyRec b.core c x)
    if !d.ok then fault { code := 1, cause := 0, lane := 0, addr := sched + 32 * (k - 1) }
    else
      let te := u.2.tile? b d.tile
      let ga := (((d.base : Int) + d.stride * (b.idx : Int)) % 2 ^ 64).toNat
      let none' : Thread :=
        { uid := 0, kid := b.kid, blockUid := b.uid, index := b.idx, tidx := 0, base := 0,
          claimed := 0, v := [], p := 0, flags := [], facq := [], depth := 0, key := none, pend := [],
          batch := 0, episode := 0, view := View.zero, rel := [], seen := [], st := .run, pc := c.pc,
          ckey := 0, cause := 0, wait := 0, spilled := false, oslot := 0, filedAt := 0, alane := 0, crewRef := none
          ray := none }
      let r : CopyReq := { lane := 0, t := none', prog := d.prog, gbase := ga, other := 0, so := d.off }
      let w := u.2.checkCopies v c.ctx true (fun _ => te.map fun t => (t.count + 1) * 128) [r]
      match w.1, te with
      | .unit _ e, _ => w.2.stageErr b c e
      | .fault x, _ => w.2.endGrid c.kid 0 (w.2.copyRec b.core c x)
      | .ok l, some t =>
        if w.2.tileState b t != .ready || !w.2.queueRoom b.core 1 then w.2
        else
          let dense := b.scratch + 128 * t.base + d.off
          let kind : CopyKind := if d.out then .tileOut else .tileIn
          let ps := l.flatMap fun e => e.2.pieces ga dense
          (w.2.queueCopy b.core { c with kind := kind, runs := ps }).updBlock b.uid fun b =>
            { b with stageIssued := k }
      | .ok _, none => w.2

/-- STAGE_COPY_ISSUE (R348): the next released stage of a block; one that has met a page that is not present waits
until its record is resolved (R421, R424). -/
def execStageCopyIssue (x : CoreItem) (s : State) : Res :=
  s.live x.core.cl.toNat <|
  match Table.get? s.blocks x.n with
  | none => .next s
  | some b =>
    let ending := ((Table.get? s.grids b.kid).map Grid.ending).getD true
    if b.placed && b.core = coreNum x.core && b.stageIssued < b.stage && !ending &&
        !s.awaitsPage b.kid b.uid then
      .next (s.issueStage b)
    else .next s

/-! ### Tile and stash definition (R275 to R277) -/

/-- Some copy or engine operation uses a line of a tile that is defined: it is filling or draining. -/
def State.tileMoves (s : State) (b : Block) (n : Nat) : Bool :=
  match Table.get? b.tl n with
  | none => false
  | some e => s.tileState b e = .filling || s.tileState b e = .draining

/-- Every passing lane stands in a block; the lowest that does not (a ray) takes 0x06 (R277). -/
def State.inBlocks (s : State) (h : Here) (ls : Table Thread) (k : List Block → State) : State :=
  match ls.find? fun e => (s.blockOf e.2).isNone with
  | some e => s.raise h { code := 6, lane := some e.1 }
  | none => k (s.blocksHere ls)

/-- TILEDEF, the tile-table form (R275): it writes the entry of the block of every lane (R99). -/
def execTiledef (x : TiledefOp) (s : State) : Res :=
  s.issue { len := 16, g := x.g, uniform := true, cluster := true } fun h ls =>
    s.inBlocks h ls fun bs =>
      let bound : State := s.raise h { code := 6, lane := lowLane ls }
      let n := x.tile.toNat
      let count := ((s.lrec? h.wave.kid).map LaunchRec.tiles).getD 0
      let entry : Option TileEntry := if x.inv then none else some { base := x.base.toNat, count := x.count.toNat }
      if n ≥ count then bound
      else if !x.inv && bs.any fun b => x.base.toNat + x.count.toNat ≥ (s.sizes b).1 / 128 then bound
      else if (bs.any fun b => s.tileMoves b n) || s.scratchBusy h then s
      else
        (bs.foldl (fun s b => s.updBlock b.uid fun b => { b with
          tl := match entry with
            | none => Table.del b.tl n
            | some e => Table.put b.tl n e }) s).doneLen h h.wave 16

/-- Two ranges of lines or addresses share one. -/
def overlaps (a n b m : Nat) : Bool := a < b + m && b < a + n

/-- A mapping that R102 refuses. -/
def State.mapRefused (s : State) (b : Block) (k : Nat) (e : StashEntry) : Bool :=
  e.line + e.count ≥ (s.sizes b).2 / 128 ||
  b.st.any fun o => o.1 != k &&
    (overlaps e.line (e.count + 1) o.2.line (o.2.count + 1) ||
     overlaps e.base (128 * (e.count + 1)) o.2.base (128 * (o.2.count + 1)))

/-- The first scratchpad line of a block's stash part. -/
def State.stashFirst (s : State) (b : Block) : Nat := (b.scratch + (s.sizes b).1) / 128

/-- A fill of a line of a mapping is in progress, or an access of one is outstanding (R104): of an operation in flight,
or at the lane port. -/
def State.mapBusy (s : State) (b : Block) (e : StashEntry) : Bool :=
  let k := s.core b.core
  let mine (l : Nat) : Bool := s.stashFirst b + e.line ≤ l && l ≤ s.stashFirst b + e.line + e.count
  ((natsFrom e.line (e.count + 1)).any fun l => s.filling b l) ||
  (k.ops.any fun o => o.2.stash.any mine) ||
  match k.port with
  | some p => p.accs.any fun a => a.pa.isSome && mine (a.byte / 128)
  | none => false

/-- Forgets the present lines of a mapping; their bytes stand at D already (log 18). -/
def Block.dropLines (b : Block) (e : StashEntry) : Block :=
  { b with lines := b.lines.filter fun y => !(e.line ≤ y.line && y.line ≤ e.line + e.count) }

/-- The entry k of a block's stash map is cleared. -/
def Block.unmap (b : Block) (k : Nat) : Block :=
  match Table.get? b.st k with
  | some o => { b.dropLines o with st := Table.del b.st k }
  | none => b

/-- The entry k of a block's stash map is written: its lines are empty and absent (R102). -/
def State.mapStash (s : State) (b : Block) (k : Nat) (e : StashEntry) : State :=
  (s.updBlock b.uid fun b =>
    let b1 := (b.unmap k).dropLines e
    { b1 with st := Table.put b1.st k e }).setLines b.core 7 true (natsFrom (s.stashFirst b + e.line) (e.count + 1))

/-- TILEDEF, the stash form (R276, R104): it writes the entry of the block of every lane. -/
def execTiledefSt (x : TiledefStOp) (s : State) : Res :=
  s.issue { len := 16, g := x.g, uniform := true, cluster := true } fun h ls =>
    s.inBlocks h ls fun bs =>
      let fault (code addr : Nat) : State := s.raise h { code := code, lane := lowLane ls, addr := addr }
      let k := x.entry.toNat
      let va := ((ls.head?.map fun e => Src.int64 h.wave none e.2 x.a).getD 0).toNat
      let e : StashEntry := { line := x.line.toNat, count := x.count.toNat, base := va }
      let busy := bs.any fun b => ((Table.get? b.st k).map fun o => s.mapBusy b o).getD false
      if x.inv then
        if busy then s else (bs.foldl (fun s b => s.updBlock b.uid fun b => b.unmap k) s).doneLen h h.wave 16
      else if offGlobal va then fault 5 va
      else if va % 128 != 0 then fault 3 va
      else if bs.any fun b => s.mapRefused b k e then fault 6 va
      else if busy then s
      else (bs.foldl (fun s b => s.mapStash b k e) s).doneLen h h.wave 16

/-- TILEST (R277): it sets the tile of the block of every lane. -/
def execTilest (x : TilestOp) (s : State) : Res :=
  s.issue { len := 8, g := x.g, uniform := true, cluster := true } fun h ls =>
    let n := x.tile.toNat
    match ls.find? fun e => (s.tileNamed e.2 n).isNone with
    | some e => s.raise h { code := 6, lane := some e.1 }
    | none =>
      let bs := s.blocksHere ls
      if (bs.any fun b => s.tileMoves b n) || s.scratchBusy h then s
      else
        (bs.foldl (fun s b => match s.tile? b n with
          | some t => s.setLines b.core 6 (!x.ready) (b.tileLines t)
          | none => s) s).doneLen h h.wave 8

/-- STASH_FILL_COMPLETE (R103): the line of a block is present and full; a fill that meets a page not
present waits, and any other error ends the grid. -/
def execStashFillComplete (x : CoreItem) (line : Nat) (s : State) : Res :=
  let core := coreNum x.core
  s.live (clusterOf core) <|
  match Table.get? s.blocks x.n with
  | none => .next s
  | some b =>
    let byte := b.scratch + (s.sizes b).1 + 128 * line
    match (s.core core).copies.find? fun e =>
        e.2.kind = .fill && e.2.blockUid = b.uid && e.2.runs.any fun r => r.dense = byte with
    | none => .next s
    | some (key, c) =>
      if c.cancelled || c.stuck.isSome then .next s
      else
        match c.runs.head? with
        | none => .next s
        | some r =>
          let u := s.copyLine core c.ctx r.g .read
          match u.1 with
          | .error e => .next (u.2.copyErr core key c .read e)
          | .ok pa =>
            if u.2.mem.poisoned pa 128 then .next (u.2.copyErr core key c .read (.ecc (pa / 128 * 128)))
            else
              let y : StashLine := { line := line, pa := pa, pos := u.2.mem.pos }
              .next (((u.2.updBlock b.uid fun b => { b with lines := b.lines ++ [y] }).updCore core
                fun k => { k with copies := Table.del k.copies key }).fillLines core [byte / 128])

/-- STASH_RECALL (R104): a recorded line is written back and is absent again. -/
def execStashRecall (x : CoreItem) (line : Nat) (s : State) : Res :=
  s.live x.core.cl.toNat <|
  match Table.get? s.blocks x.n with
  | none => .next s
  | some b =>
    match b.lines.find? fun y => y.line = line with
    | none => .next s
    | some y =>
      if b.placed && b.core = coreNum x.core && s.recorded b y then
        .next ((s.updBlock b.uid fun b =>
          { b with lines := b.lines.filter fun y => y.line != line }).setLines b.core 7 true
            [(b.scratch + (s.sizes b).1) / 128 + line])
      else .next s

end Sys2Proof.Machine
end

