-- ==== Sys2Proof/Machine/Ray.lean ====
section
/-! DEFINITION. The ray instructions (spec/10 R280 to R290; spec/03 R60 to R66, R82, R85). -/

namespace Sys2Proof.Machine

/-! ### Fields of the ray part -/

/-- A hit that is none (R63). -/
def Hit.none : Hit := { t := 0, u := 0, v := 0, inst := 0, kind := 0, prim := 0, geom := 0 }

/-- The traversal state word (R62). -/
def RayPart.stateWord (r : RayPart) : Word :=
  r.phase ++ r.stop ++ (if r.dropped then 1#1 else 0#1) ++ (if r.clipped then 1#1 else 0#1) ++ 0#1 ++
    r.inst

/-- The field RAYGET reads (R281). -/
def RayPart.get (r : RayPart) (sel : Nat) : Word :=
  match sel with
  | 0 => r.ox
  | 1 => r.oy
  | 2 => r.oz
  | 3 => r.dx
  | 4 => r.dy
  | 5 => r.dz
  | 6 => r.tmin
  | 7 => r.tmax
  | 8 => r.flags.setWidth 32
  | 9 => r.mask.setWidth 32
  | 10 => r.sel.setWidth 32
  | _ => r.stateWord

/-- The field RAYSET writes (R281). -/
def RayPart.put (r : RayPart) (sel : Nat) (x : Word) : RayPart :=
  match sel with
  | 0 => { r with ox := x }
  | 1 => { r with oy := x }
  | 2 => { r with oz := x }
  | 3 => { r with dx := x }
  | 4 => { r with dy := x }
  | 5 => { r with dz := x }
  | 6 => { r with tmin := x }
  | 7 => { r with tmax := x }
  | 8 => { r with flags := x.setWidth 10 }
  | 9 => { r with mask := x.setWidth 8 }
  | _ => { r with sel := x.setWidth 8 }

/-- RAYSET's other effects (R282): phase 0, bits [29:25] clear, no hit. -/
def RayPart.fresh (r : RayPart) : RayPart :=
  { r with phase := 0, stop := 0, dropped := false, clipped := false, hit := Hit.none, group := 0 }

/-- The hit HITGET reads (R66): the candidate in an any-hit or intersection episode. -/
def RayPart.seenHit (r : RayPart) : Hit :=
  match r.ep, r.cand with
  | .anyHit, some c => c
  | .isect, some c => c
  | _, _ => r.hit

/-- The episode of a thread; `plain` for a compute thread. -/
def Thread.ep (t : Thread) : Episode := (t.ray.map RayPart.ep).getD .plain

/-- Issues an instruction that only some threads may execute, else 0x01. -/
def State.issueRay (s : State) (f : Form) (bad : Thread → Bool) (k : Here → Table Thread → State) :
    Res :=
  s.issue { f with cluster := true } fun h ls =>
    match ls.find? fun e => e.2.ray.isNone || bad e.2 with
    | some e => s.raise h { code := 1, lane := some e.1 }
    | none => k h ls

/-- Changes the ray part of a thread. -/
def Thread.updRay (t : Thread) (f : RayPart → RayPart) : Thread := { t with ray := t.ray.map f }

/-- RAYGET (R281). -/
def execRayget (x : QueryOp) (s : State) : Res :=
  s.issueRay { len := 8, g := x.g, uses := [(x.d.toNat, 1)] } (fun _ => false) fun h ls =>
    s.doneLen h (h.wave.updLanes ls fun _ t =>
      t.setReg x.d.toNat ((t.ray.map fun r => r.get x.sel.toNat).getD 0)) 8

/-- RAYSET (R281, R282). -/
def execRayset (x : RaysetOp) (s : State) : Res :=
  let callout (t : Thread) : Bool := t.ep = .anyHit || t.ep = .isect
  s.issueRay { len := 8, g := x.g, uses := runs [x.a] } callout fun h ls =>
    let n := x.sel.toNat
    let v (t : Thread) : Word := if n < 8 then Src.float h.wave none t x.a else Src.int h.wave none t x.a
    s.doneLen h (h.wave.updLanes ls fun _ t => t.updRay fun r => (r.put n (v t)).fresh) 8

/-! ### Snapshots of a line at D, bounded as a plain load (R130, R283, R296) -/

/-- The positions of arrivals that touch a line, newest first. -/
def touching (l : Nat) (log : List Arrival) : List Arrival :=
  log.filter fun x => x.bytes.any fun b => b.addr / 128 = l

/-- One moment at which a thread may see a line whole, as a plain load served at D could: none before `least`. -/
def State.linePos (s : State) (t : Thread) (least l : Nat) : Nat × State :=
  let v := s.mem.ownView t.uid t.view
  let xs := touching l s.mem.log
  let seen (x : Arrival) : Bool :=
    x.tick + staleBound (128 * l) ≤ s.tick || x.pos ≤ least ||
    x.bytes.any fun b => b.addr / 128 = l && (x.pos ≤ v.at b.addr || t.uid ∈ b.who)
  let floor := xs.foldl (fun n x => if seen x then max n x.pos else n) 0
  let later := xs.filter fun x => floor < x.pos
  let r := s.pick (later.length + 1)
  match later[r.1]? with
  | some x => (x.pos, r.2)
  | none => (floor, r.2)

/-- A moment for each of some lines. -/
def lineMoments : List Nat → State → Thread → Nat → Table Nat × State
  | [], s, _, _ => ([], s)
  | l :: rest, s, t, least =>
    let r := s.linePos t least l
    let u := lineMoments rest r.2 t least
    (Table.put u.1 l r.1, u.2)

/-- No commit step is seen in part (R116): a line that is seen with a step takes the other lines of the step along. -/
def wholeMoments (log : List Arrival) (m : Table Nat) : Table Nat :=
  log.foldl (fun m x =>
    let mine (e : Nat × Nat) : Bool := x.bytes.any fun b => b.addr / 128 = e.1
    if x.step && m.any (fun e => mine e && x.pos ≤ e.2) then
      m.map fun e => if mine e then (e.1, max e.2 x.pos) else e
    else m) m

/-- Reads bytes at D for a thread through a cluster, each line as one snapshot; the physical line that is poisoned where
there is one (R434). -/
def State.snapRead (s : State) (cl : Nat) (t : Thread) (pas : List Nat) : Except UnitErr (List Byte) × State :=
  match pas.find? fun a => s.mem.poisoned a 1 with
  | some a => (.error (.ecc (a / 128 * 128)), s)
  | none =>
    let u := lineMoments (pas.map (· / 128)).eraseDups s t (s.cluster cl).dataFloor
    let m := wholeMoments s.mem.log u.1
    (.ok (pas.map fun a => s.mem.atPos (Table.getD m (a / 128) 0) a), u.2)

/-- Translates and reads n bytes for a thread, as requests of its core's load-store unit (R110). -/
def State.snapVa (s : State) (v : Via) (ctx : Nat) (t : Thread) (va n : Nat) :
    Except UnitErr (List Byte) × State :=
  let r := s.unitPas v ctx va n .read
  match r.1 with
  | .error e => (.error e, r.2)
  | .ok pas => (r.2.reachLines (.loadStore (v.core.getD (8 * v.cl))) ctx ((natsFrom va n).zip pas)).snapRead v.cl t pas

/-! ### HITGET (R283) -/

/-- The address of record data word k of the episode's shader-table entry (R79). -/
def State.dataVa (s : State) (kid : Nat) (r : RayPart) (k : Nat) : Nat :=
  ((Table.get? s.grids kid).map Grid.table).getD 0 + 32 * r.shader.toNat + 24 + 4 * k

/-- The value of a selector that reads no memory. -/
def RayPart.hitWord (r : RayPart) (sel : Nat) : Word :=
  let c := r.seenHit
  match sel with
  | 0 => c.t
  | 1 => c.u
  | 2 => c.v
  | 3 => c.inst.setWidth 32
  | 4 => c.kind.setWidth 32
  | 5 => c.prim.setWidth 32
  | 6 => c.geom.setWidth 32
  | 9 => if r.ep = .plain then 0 else r.shader.setWidth 32
  | _ => r.inst.setWidth 32

/-- The lanes' words for HITGET, in lane order, or the lane and error at which a read stops. -/
def hitWords : Table Thread → State → Here → Nat →
    Except (Nat × UnitErr) (Table Word) × State
  | [], s, _, _ => (.ok [], s)
  | e :: t, s, h, sel =>
    let go (w : Word) (s : State) : Except (Nat × UnitErr) (Table Word) × State :=
      let u := hitWords t s h sel
      match u.1 with
      | .ok l => (.ok ((e.1, w) :: l), u.2)
      | .error x => (.error x, u.2)
    match e.2.ray with
    | none => go 0 s
    | some r =>
      if (sel = 7 || sel = 8) && r.ep != .plain then
        let u := s.snapVa h.via h.wave.ctx e.2 (s.dataVa e.2.kid r (sel - 7)) 4
        match u.1 with
        | .ok bs => go (wordAt bs 0) u.2
        | .error x => (.error (e.1, x), u.2)
      else go (if sel = 7 || sel = 8 then 0 else r.hitWord sel) s

/-- HITGET (R283). -/
def execHitget (x : QueryOp) (s : State) : Res :=
  s.issueRay { len := 8, g := x.g, uses := [(x.d.toNat, 1)] } (fun _ => false) fun h ls =>
    let u := hitWords ls s h x.sel.toNat
    match u.1 with
    | .error (l, e) => u.2.unitFault h l 0 e
    | .ok ws =>
      u.2.doneLen h (h.wave.updLanes ls fun l t => t.setReg x.d.toNat (Table.getD ws l 0)) 8

/-! ### Leaving for traversal (R284 to R287, R82) -/

/-- Lanes whose records pass to a traversal unit: their commits, the end of their enrolments, and their
place in traversal. Nothing while flags are pending or the crew's engine is busy. -/
def State.toTraversal (s : State) (h : Here) (ls : Table Thread) (len : Nat)
    (pc : Thread → Pc) (f : Thread → RayPart → RayPart) : State :=
  if !flagsClear ls || s.crewBusy h then s
  else
    match yieldCommits ls s h with
    | .error e => s.overflow h ((lowLane ls).getD 0) e
    | .ok s1 =>
      let cl := clusterOf h.core
      let one (s : State) (e : Nat × Thread) : State :=
        let s := s.unenrol h.core e.2 none
        let t := { (e.2.filed 24 (pc e.2) 4 e.2.ckey 0).updRay (f e.2) with crewRef := none }
        s.updCluster cl fun c => { c with trav := Table.put c.trav t.uid t }
      let s2 := ls.foldl one s1
      let r := s2.leave h h.wave (ls.map Prod.fst)
      r.1.doneLen h r.2 len

/-- TRACE (R284, R285). -/
def execTrace (x : TraceOp) (s : State) : Res :=
  s.issueRay { len := 16, g := x.g, final := true, orders := true, uses := Src.run 2 x.a } (fun t => t.ep != .plain)
    fun h ls =>
      let addr (e : Nat × Thread) : Nat := (Src.int64 h.wave none e.2 x.a).toNat
      let head := ((Table.get? s.grids h.wave.kid).map Grid.header).getD 0
      let fault (code cause : Nat) (e : Nat × Thread) : State :=
        s.raise h { code := code, cause := cause, lane := some e.1, addr := addr e }
      match ls.find? fun e => addr e ≥ windowBase with
      | some e => fault 5 0 e
      | none =>
        match ls.find? fun e => addr e % 64 != 0 with
        | some e => fault 3 0 e
        | none =>
          match ls.find? fun e => addr e != head with
          | some e => fault 1 3 e
          | none =>
            s.toTraversal h ls 16 (fun _ => h.wave.after 16) fun _ r =>
              { r.fresh with
                flags := x.flags.getD r.flags, mask := x.mask.getD r.mask, sel := x.sel.getD r.sel,
                stack := [], trail := 0 }

/-- A record that resumes its run (R82): the return PC from entry 7, entries 4 to 7 invalid. -/
def RayPart.resumed (r : RayPart) : RayPart :=
  { r with stack := r.stack.take 4, ret := none, cand := none, ep := .plain, shader := 0 }

/-- Commits a hit to the hit part; with ray flag [2] set the run goes to finish (R77). -/
def RayPart.commitHit (r : RayPart) (c : Hit) (group : BitVec 14) : RayPart :=
  { r with hit := c, group := group, phase := if r.flags.getLsbD 2 then 3 else r.phase }

/-- Ends an any-hit or intersection episode of the lanes. -/
def State.endHit (s : State) (h : Here) (ls : Table Thread) (len : Nat)
    (f : Thread → RayPart → RayPart) : State :=
  let back (t : Thread) : Pc := ((t.ray.bind RayPart.ret)).getD 0
  s.toTraversal h ls len back fun t r => (f t r).resumed

/-- ACCEPT (R286). -/
def execAccept (x : NullOp) (s : State) : Res :=
  s.issueRay { len := 8, g := x.g, final := true, orders := true } (fun t => t.ep != .anyHit) fun h ls =>
    s.endHit h ls 8 fun _ r => match r.cand with
      | some c => r.commitHit c r.shader
      | none => r

/-- IGNORE (R286). -/
def execIgnore (x : NullOp) (s : State) : Res :=
  s.issueRay { len := 8, g := x.g, final := true, orders := true } (fun t => t.ep != .anyHit && t.ep != .isect)
    fun h ls => s.endHit h ls 8 fun _ r => r

/-- A REPORT commits its hit (R287). -/
def RayPart.reports (r : RayPart) (t : Word) : Bool :=
  fle32 r.tmin t && fle32 t r.tmax && (r.hit.kind = 0 || flt32 t r.hit.t)

/-- REPORT (R287). -/
def execReport (x : ReportOp) (s : State) : Res :=
  s.issueRay { len := lenOf x.im, g := x.g, final := true, orders := true, uses := runs [x.a, x.b, x.c] }
    (fun t => t.ep != .isect) fun h ls =>
      s.endHit h ls (lenOf x.im) fun t r =>
        let tt := Src.float h.wave x.im t x.a
        match r.cand with
        | none => r
        | some c =>
          if r.reports tt then
            r.commitHit { c with
              t := tt, u := Src.float h.wave x.im t x.b, v := Src.float h.wave x.im t x.c,
              kind := x.kind } r.shader
          else r

/-! ### KEY, ACCUM and RNG (R288 to R290) -/

/-- KEY (R288). -/
def execKey (x : OneSrcOp) (s : State) : Res :=
  s.lanewise { len := lenOf x.im, g := x.g, cluster := true, uses := runs [x.a] } fun w t =>
    { t with key := some (Src.int w x.im t x.a) }

/-- One pixel after the additions of some threads, in order (R289). -/
def accumPixel (c : Nat) (ts : List Thread) (old : List Byte) : List Byte :=
  let add (p : Word × Word × Word × Word) (t : Thread) : Word × Word × Word × Word :=
    (fadd32 p.1 (t.reg c), fadd32 p.2.1 (t.reg (c + 1)), fadd32 p.2.2.1 (t.reg (c + 2)),
     p.2.2.2 + t.reg (c + 3))
  let r := ts.foldl add (wordAt old 0, wordAt old 4, wordAt old 8, wordAt old 12)
  bytesOf 4 r.1.toNat ++ bytesOf 4 r.2.1.toNat ++ bytesOf 4 r.2.2.1.toNat ++ bytesOf 4 r.2.2.2.toNat

/-- One arrival at D for the lanes at one address: it carries the highest lane's store and raises the
view of every lane (R138, R289). -/
def State.accumOne (s : State) (h : Here) (c pa : Nat) (l : List Acc) : Except Level (State × Wave) :=
  match l.getLast? with
  | none => .ok (s, h.wave)
  | some a =>
    let old := s.mem.readD pa 16
    let new := accumPixel c (l.map fun a => a.req.t) old
    let under : List Put := l.dropLast.map fun b => { hit := b, bytes := new }
    match storeOne s h .d under [] { hit := a, bytes := new } with
    | .error e => .error e
    | .ok s1 =>
      let s2 := settleCopies s1 h .d l
      let seen (t : Thread) : Thread := { t with
        view := (natsFrom pa 16).foldl (fun v b => v.raise b s2.mem.pos) t.view }
      .ok (s2, h.wave.updLanes (l.map fun a => (a.req.lane, a.req.t)) fun _ t => seen t)

/-- Every distinct address in turn. -/
def accumAll : List Nat → State → Here → Nat → List Acc → Except Level (State × Wave)
  | [], s, h, _, _ => .ok (s, h.wave)
  | pa :: t, s, h, c, l =>
    let here := l.filter fun a => a.spot = .mem pa none || (match a.spot with
      | .mem p _ => p = pa
      | .scr _ => false)
    match s.accumOne h c pa here with
    | .error e => .error e
    | .ok r => accumAll t r.1 { h with wave := r.2 } c l

/-- ACCUM (R289). -/
def execAccum (x : AccumOp) (s : State) : Res :=
  let uses := (x.c.toNat, 4) :: Src.run 2 x.a
  s.issue { len := 8, g := x.g, cluster := true, uses := uses } fun h ls =>
    let rs := ls.map fun e => genericReq none x.a x.b 16 h e.1 e.2
    match rs.find? fun r => match r.space with
      | .global _ => false
      | _ => true with
    | some r => s.raise h { code := 5, lane := some r.lane, addr := r.addr }
    | none =>
      let u := s.prepare h rs .write true
      match u.1 with
      | .error s' => s'
      | .ok accs =>
        match poisonHit u.2 h accs with
        | some (a, line) => u.2.raise h { code := 0x0E, lane := some a.req.lane, addr := line }
        | none =>
          let pas := (accs.filterMap fun a => match a.spot with
            | .mem pa _ => some pa
            | .scr _ => none).eraseDups
          match accumAll pas u.2 h x.c.toNat accs with
          | .error e => u.2.overflow h ((lowLane ls).getD 0) e
          | .ok r => (r.1.reachAtoms h .d accs).doneLen h r.2 8

/-- The random word of RNG (R290). -/
def rngWord (a b c : Word) (dim : Nat) : Word :=
  let x := mix (a ^^^ 0x68E31DA4#32)
  let x := mix (x ^^^ b ^^^ 0xB5297A4D#32)
  let x := mix (x ^^^ c ^^^ 0x1B56C4E9#32)
  mix (x ^^^ BitVec.ofNat 32 dim ^^^ 0x7F4A7C15#32)

/-- RNG (R290). -/
def execRng (x : RngOp) (s : State) : Res :=
  s.lanewise { len := 8, g := x.g, cluster := true, uses := (x.d.toNat, 1) :: runs [x.a, x.b, x.c] }
    fun w t =>
      let r := rngWord (Src.int w none t x.a) (Src.int w none t x.b) (Src.int w none t x.c) x.dim.toNat
      t.setReg x.d.toNat
        (if x.f then rne32 (Real'.scaled false (r.toNat / 256) (-24)) else r)

end Sys2Proof.Machine
end

