-- ==== Sys2Proof/Machine/Launch.lean ====
section
/-! DEFINITION. Launch records, the pending-launch pool and the launch instructions (spec/10 R311 to R314;
spec/11 R342 to R349). -/

namespace Sys2Proof.Machine

/-! ### Launch records (R342, R343) -/

/-- The number at an offset of some bytes. -/
def fieldAt (bs : List Byte) (o n : Nat) : Nat := natOf ((bs.drop o).take n)

/-- Parses a launch record. -/
def parseLaunch (bs : List Byte) : LaunchRec :=
  let f := fieldAt bs
  { entry := BitVec.ofNat 52 (f 0 8), gx := f 8 4, gy := f 12 4, gz := f 16 4, bdx := f 20 2, bdy := f 22 2
    bdz := f 24 2, gp := f 26 1, gf := f 27 1, base := f 28 2, ceil := f 30 2, floor := f 32 2
    carry := f 34 1, kind := f 35 1, s := f 36 4, t := f 40 4, accFloor := f 44 1, accCeil := f 45 1
    tiles := f 46 1, prio := f 47 1, nest := f 48 1, hwBars := f 49 1, gangBars := f 50 1
    stages := f 51 1, hwGroups := BitVec.ofNat 64 (f 52 8), gangGroups := BitVec.ofNat 32 (f 60 4)
    logSize := f 64 8, logAddr := f 72 8, sched := f 80 8, seed := BitVec.ofNat 64 (f 88 8)
    param := BitVec.ofNat 64 (f 96 8)
    slots := (natsFrom 0 8).map fun k => BitVec.ofNat 128 (f (128 + 16 * k) 16) }

/-- The bytes of a launch record: what a pool entry holds (R443). -/
def LaunchRec.bytes (r : LaunchRec) : List Byte :=
  bytesOf 8 r.entry.toNat ++ bytesOf 4 r.gx ++ bytesOf 4 r.gy ++ bytesOf 4 r.gz ++ bytesOf 2 r.bdx ++
  bytesOf 2 r.bdy ++ bytesOf 2 r.bdz ++ bytesOf 1 r.gp ++ bytesOf 1 r.gf ++ bytesOf 2 r.base ++
  bytesOf 2 r.ceil ++ bytesOf 2 r.floor ++ bytesOf 1 r.carry ++ bytesOf 1 r.kind ++ bytesOf 4 r.s ++
  bytesOf 4 r.t ++ bytesOf 1 r.accFloor ++ bytesOf 1 r.accCeil ++ bytesOf 1 r.tiles ++
  bytesOf 1 r.prio ++ bytesOf 1 r.nest ++ bytesOf 1 r.hwBars ++ bytesOf 1 r.gangBars ++
  bytesOf 1 r.stages ++ bytesOf 8 r.hwGroups.toNat ++ bytesOf 4 r.gangGroups.toNat ++
  bytesOf 8 r.logSize ++ bytesOf 8 r.logAddr ++ bytesOf 8 r.sched ++ bytesOf 8 r.seed.toNat ++
  bytesOf 8 r.param.toNat ++ bytesOf 24 0 ++ r.slots.flatMap fun x => bytesOf 16 x.toNat

def LaunchRec.threads (r : LaunchRec) : Nat := r.bdx * r.bdy * r.bdz
def LaunchRec.gridSize (r : LaunchRec) : Nat := r.gx * r.gy * r.gz

/-- What both kinds of record must meet (R343). -/
def LaunchRec.commonOk (r : LaunchRec) : Bool :=
  8 ≤ r.base && r.base ≤ 256 && r.base % 8 = 0 && r.base ≤ r.ceil && r.ceil ≤ 256 &&
  r.floor ≤ 16384 && r.s % 4096 = 0 && r.t % 4096 = 0 && r.s + r.t ≤ 2 ^ 20 &&
  r.accFloor ≤ 128 && r.accCeil ≤ 128 && r.tiles ≤ 64 && r.prio ≤ 7 && r.nest ≤ 16 &&
  r.hwBars ≤ 16 && r.gangBars ≤ 8 && r.logSize % 4096 = 0 && r.logAddr % 128 = 0 &&
  (r.stages = 0 || (r.sched != 0 && r.sched % 32 = 0))

/-- What a grid's record must meet. -/
def LaunchRec.gridOk (r : LaunchRec) : Bool :=
  let dim (n : Nat) : Bool := 1 ≤ n && n ≤ 1024
  r.gridSize != 0 && r.gridSize < 2 ^ 32 && dim r.bdx && dim r.bdy && dim r.bdz && r.threads ≤ 1024 &&
  1 ≤ r.gp && r.gp ≤ 8 && 1 ≤ r.gf && r.gf ≤ r.gp && r.carry ≤ 32 && r.carry ≤ r.base

/-- What a ray batch's record must meet. -/
def LaunchRec.rayOk (r : LaunchRec) : Bool :=
  r.gx = 0 && r.gy = 0 && r.gz = 0 && r.bdx = 0 && r.bdy = 0 && r.bdz = 0 && r.gp = 0 && r.gf = 0 &&
  r.s = 0 && r.t = 0 && r.tiles = 0 && r.hwBars = 0 && r.gangBars = 0 && r.stages = 0 &&
  r.hwGroups = 0 && r.gangGroups = 0 && r.sched = 0 && r.base ≥ 24

/-- The record for a grid or a ray batch that these bytes hold; nothing when it is invalid (R343). A
record of the other kind is invalid. -/
def launchRec (ray : Bool) (bs : List Byte) : Option LaunchRec :=
  let r := parseLaunch bs
  let pc := fieldAt bs 0 8
  let ok := pc < 2 ^ 52 && pc % 8 = 0 && fieldAt bs 104 24 = 0 && r.commonOk &&
    (if ray then r.kind = 1 && r.rayOk else r.kind = 0 && r.gridOk)
  if ok then some r else none

/-! ### Argument areas (R345) -/

/-- The agent number of argument areas in the D order. -/
def launchAgent : Nat := 3

/-- The 128 bytes of an argument area. -/
def argBytes (args : List (Nat × Nat)) (param : DWord) (seq handle : Nat) : List Byte :=
  let op (i : Nat) : List Byte :=
    let a := listGet args i (0, 0)
    bytesOf 8 a.1 ++ bytesOf 8 a.2
  op 0 ++ op 1 ++ op 2 ++ op 3 ++ bytesOf 8 param.toNat ++ bytesOf 8 seq ++ bytesOf 4 handle ++
    bytesOf 44 0

/-! ### Grids -/

/-- A grid or batch that has just been launched, at a tick and a position of the D order. -/
def Grid.fresh (kid : Nat) (kernel : BitVec 12) (ctx seq : Nat) (pc : Pc) (r : LaunchRec) (tick : Nat) (pos : Nat := 0) :
    Grid :=
  { kid := kid, kernel := kernel, ctx := ctx, seq := seq, pc := pc, root := kid, parent := none
    depth := 0, lrec := r, ray := false, header := 0, table := 0, stride := 0, cmask := 0
    count := r.gridSize, next := 0, retired := 0, gangs := 0, blocks := [], pool := none, argAddr := 0
    args := [], issue := tick, waitFrom := tick, failed := none, expired := false, bonus := 0
    tested := false, fetched := [], ending := false, fault := none, faultSlot := 0, ended := false
    view := View.zero, done := View.zero, formed := pos }

/-- The lowest kernel id that no grid uses; 0 when all 4,096 are in use (log 16). -/
def State.newKernel (s : State) : BitVec 12 :=
  let used (n : Nat) : Bool := s.grids.any fun e => !e.2.ended && e.2.kernel.toNat = n
  BitVec.ofNat 12 (((natsFrom 0 4096).find? fun n => !used n).getD 0)

/-- A grid is another, or lies below it. -/
def aboveGo : Nat → State → Nat → Nat → Bool
  | 0, _, _, _ => false
  | n + 1, s, kid, k =>
    k = kid ||
    match (Table.get? s.grids k).bind Grid.parent with
    | some p => aboveGo n s kid p
    | none => false

/-- The grids of a family from one down. -/
def State.descend (s : State) (kid : Nat) : Table Grid :=
  s.grids.filter fun e => aboveGo 18 s kid e.1

/-- A grid and every grid launched below it have ended (R312). -/
def State.complete (s : State) (kid : Nat) : Bool := (s.descend kid).all fun e => e.2.ended

/-- Every arrival at D of a grid and the grids below it, once they have ended (R137). -/
def State.endView (s : State) (kid : Nat) : View :=
  (s.descend kid).foldl (fun v e => v.join e.2.done) View.zero

/-! ### The pool (R311, R312) -/

/-- A pool entry is held: its child is not complete, or stands in the image of a saved context (R349). -/
def State.poolHeld (s : State) (i : Nat) : Bool :=
  let is (g : Grid) : Bool := match g.pool with
    | some (k, _) => k = i
    | none => false
  (s.grids.any fun e => is e.2 && !s.complete e.1) ||
  s.ctxs.any fun c => c.st = .saved &&
    s.images.any fun m => m.area = c.saveArea &&
      m.grids.any fun e => is e.2 && !State.complete { s with grids := m.grids } e.1

/-- A free pool entry, any of them (log 16). -/
def State.poolFree (s : State) : Option Nat × State :=
  match (natsFrom 0 4096).find? fun i => !s.poolHeld i with
  | none => (none, s)
  | some low =>
    let r := s.pick 4096
    (some (if s.poolHeld r.1 then low else r.1), r.2)

/-- The next generation of an entry, never zero. -/
def nextGen (g : Nat) : Nat := if g + 1 < 2 ^ 20 then g + 1 else 1

/-- The grid a handle names: where an image was loaded twice, that of the asking context first. -/
def State.byHandle (s : State) (c h : Nat) : Option Nat :=
  let l := s.grids.filter fun e => e.2.pool = some (h % 4096, h / 4096 % 2 ^ 20)
  match l.find? fun e => e.2.ctx = c with
  | some e => some e.1
  | none => (l.head?).map Prod.fst

/-- The child a handle names has not completed (R313). -/
def State.childOpen (s : State) (c h : Nat) : Bool :=
  match s.byHandle c h with
  | some k => !s.complete k
  | none => false

/-- The nesting limit of a grid's family (R312). -/
def State.nestLimit (s : State) (g : Grid) : Nat :=
  min 16 (((Table.get? s.grids g.root).map fun r => r.lrec.nest).getD 0)

/-- Places a child in the pool: its handle and the state; nothing when it is refused. Its view holds the parent's
arrivals (R137) and what the launch has written into its argument area (R345). -/
def State.launchChild (s : State) (g : Grid) (r : LaunchRec) (view : View) : Option (Nat × State) :=
  if g.depth ≥ s.nestLimit g then none
  else
    let u := s.poolFree
    match u.1 with
    | none => none
    | some i =>
      let s1 := u.2
      let gen := nextGen (Table.getD s1.dev.gens i 0)
      let handle := i + 4096 * gen
      let addr := s1.dev.poolBase + 128 * i
      let kid := s1.uids
      let m := s1.mem.agentWrite s1.tick launchAgent addr (argBytes [] r.param g.seq handle)
      let child := { Grid.fresh kid s1.newKernel g.ctx g.seq g.pc r s1.tick m.pos with
        root := g.root, parent := some g.kid, depth := g.depth + 1, pool := some (i, gen)
        argAddr := addr, view := m.seeLast view }
      some (handle, { s1 with
        uids := kid + 1
        dev := { s1.dev with gens := Table.put s1.dev.gens i gen }
        grids := Table.put s1.grids kid child
        mem := m })

/-! ### LAUNCH, LWAIT and PROG -/

/-- The launch records of the lanes, read in order, each with the record it holds if that is valid; or the lane at
which reading stopped. -/
def launchRecs (h : Here) (addr : Thread → Nat) :
    Table Thread → State → Except (Nat × UnitErr) (List (Nat × Thread × Option LaunchRec)) × State
  | [], s => (.ok [], s)
  | e :: t, s =>
    let u := s.unitFetch h.via h.wave.ctx (addr e.2) 256
    match u.1 with
    | .error x => (.error (e.1, x), u.2)
    | .ok y =>
      let q := launchRecs h addr t
        (u.2.reachLines (.loadStore h.core) h.wave.ctx ((natsFrom (addr e.2) 256).zip y.1))
      match q.1 with
      | .error x => (.error x, q.2)
      | .ok l => (.ok ((e.1, e.2, launchRec false y.2) :: l), q.2)

/-- LAUNCH for one lane (R311, R312, R469, R470): it releases at D (R133). -/
def State.launchLane (s : State) (h : Here) (pd d : Nat) (w : Wave) (l : Nat) (t : Thread)
    (r : LaunchRec) : State × Wave :=
  let cl := clusterOf h.core
  let pc := h.wave.pc.toNat
  let refused := s.forced h.wave.ctx cl pc 0 l = some 0
  let m := s.markOf h t .d
  let got : Option (Nat × State) :=
    match Table.get? s.grids t.kid with
    | some g => if refused then none else s.launchChild g r m.view
    | none => none
  match got with
  | some (hd, s1) =>
    (s1.input h.wave.ctx cl pc 0 l 1,
      w.setLane l (((t.release m).setPred pd true).setReg d (BitVec.ofNat 32 hd)))
  | none =>
    (s.input h.wave.ctx cl pc 0 l 0, w.setLane l (((t.release m).setPred pd false).setReg d 0))

/-- LAUNCH (R311): a release, which waits for every earlier load and placed store of its lanes (R133). -/
def execLaunch (x : LaunchOp) (s : State) : Res :=
  let f : Form := { len := 8, g := x.g, cluster := true, orders := true, uses := (x.d.toNat, 1) :: Src.run 2 x.a }
  s.issue f fun h ls =>
    let addr (t : Thread) : Nat := (Src.int64 h.wave none t x.a).toNat
    let fault (code cause : Nat) (e : Nat × Thread) : State :=
      s.raise h { code := code, cause := cause, lane := some e.1, addr := addr e.2 }
    match ls.find? fun e => addr e.2 ≥ windowBase with
    | some e => fault 5 0 e
    | none =>
      match ls.find? fun e => addr e.2 % 256 != 0 with
      | some e => fault 3 0 e
      | none =>
        let u := launchRecs h addr ls s
        match u.1 with
        | .error (l, e) => u.2.unitFault h l 0 e
        | .ok rs =>
          match rs.find? fun e => e.2.2.isNone with
          | some e => u.2.raise h { code := 1, cause := 5, lane := some e.1, addr := addr e.2.1 }
          | none =>
            let r := rs.foldl (fun r e =>
              match e.2.2 with
              | some y => State.launchLane r.1 h x.pd.toNat x.d.toNat r.2 e.1 e.2.1 y
              | none => r) (u.2, h.wave)
            r.1.doneLen h r.2 8

/-- A lane acquires at D what a completed child did (R133, R137): the child's own stores, and what its threads had
acquired (R362). -/
def State.acquireChild (s : State) (h : Here) (t : Thread) (handle : Nat) : Thread :=
  let t1 := s.acquired h t .d
  match s.byHandle h.wave.ctx handle with
  | some k => { t1 with view := t1.view.join (((Table.get? s.grids k).map Grid.done).getD View.zero) }
  | none => t1

/-- Those of some lanes' children that have not completed. -/
def State.openChildren (s : State) (c : Nat) (hs : List Nat) : List Nat :=
  (hs.filter fun h => s.childOpen c h).filterMap fun h => s.byHandle c h

/-- LWAIT, plain form (R313): the wave waits, and is not ready, until the child of every passing lane is complete. -/
def execLwait (x : LwaitOp) (s : State) : Res :=
  s.issue { len := 8, g := x.g, cluster := true, uses := runs [x.a] } fun h ls =>
    let hd (t : Thread) : Nat := (Src.int h.wave none t x.a).toNat
    match s.openChildren h.wave.ctx (ls.map fun e => hd e.2) with
    | k :: ks => s.putWave h { h.wave with park := .child (k :: ks) }
    | [] =>
      s.doneLen h { h.wave.updLanes ls (fun _ t => s.acquireChild h t (hd t)) with park := .none } 8

/-- LWAIT, test form (R313): a predicate that replay forces to 1 waits for the completion (R470). -/
def execLwaitTest (x : LwaitTestOp) (s : State) : Res :=
  s.issue { len := 8, g := x.g, cluster := true, uses := runs [x.a] } fun h ls =>
    let cl := clusterOf h.core
    let pc := h.wave.pc.toNat
    let hd (t : Thread) : Nat := (Src.int h.wave none t x.a).toNat
    -- the lanes' inputs are recorded one after another
    let waits (x : Nat × Nat × Thread) : Bool :=
      s.forced h.wave.ctx cl pc 1 x.2.1 x.1 = some 1 && s.childOpen h.wave.ctx (hd x.2.2)
    if ((natsFrom 0 ls.length).zip ls).any waits then s
    else
      let one (r : State × Wave) (e : Nat × Thread) : State × Wave :=
        let b := State.forced r.1 h.wave.ctx cl pc 1 e.1 != some 0 && !s.childOpen h.wave.ctx (hd e.2)
        let t := if b then s.acquireChild h e.2 (hd e.2) else e.2
        (r.1.input h.wave.ctx cl pc 1 e.1 (if b then 1 else 0),
          r.2.setLane e.1 (t.setPred x.pd.toNat b))
      let r := ls.foldl one (s, h.wave)
      r.1.doneLen h r.2 8

/-- PROG (R314, R452); what an SWR has written in the same cc stands. -/
def execProg (x : ProgOp) (s : State) : Res :=
  s.issue { len := 8, g := x.g, cluster := true } fun h _ =>
    (if s.swrStands (0x060 + x.n.toNat) h.wave.ctx then s
      else s.updCtx h.wave.ctx fun c => { c with
        prog := listUpd c.prog x.n.toNat fun v => v + 1 }).doneLen h h.wave 8

end Sys2Proof.Machine
end

