-- ==== Sys2Proof/Machine/Arena.lean ====
section
/-! DEFINITION. The arena of a stream and its free lists (spec/11 R326 to R328). A buffer is its address
and its size class; the free list is ordered by address. -/

namespace Sys2Proof.Machine

/-- The bytes of a size class. -/
def classSize (n : Nat) : Nat := 4096 * 4 ^ n

/-- The smallest class of at least b bytes. -/
def classFor (b : Nat) : Option Nat := (natsFrom 0 12).find? fun n => b ≤ classSize n

/-- The largest class that fits at an address below an end and whose alignment the address meets. -/
def classAt (a stop : Nat) : Option Nat :=
  ((natsFrom 0 12).reverse).find? fun n => a % classSize n = 0 && a + classSize n ≤ stop

/-- Covers the space from an address upward. -/
def divideGo : Nat → Nat → Nat → List (Nat × Nat)
  | 0, _, _ => []
  | fuel + 1, a, stop =>
    match classAt a stop with
    | none => []
    | some n => (a, n) :: divideGo fuel (a + classSize n) stop

/-- The initial division: the rest of the arena after the 16 KiB of argument areas (R326). -/
def divideArena (base size : Nat) : List (Nat × Nat) :=
  divideGo (size / 4096) (base + 16384) (base + size)

/-- Inserts a buffer by address. -/
def insertBuf (b : Nat × Nat) : List (Nat × Nat) → List (Nat × Nat)
  | [] => [b]
  | x :: t => if b.1 < x.1 then b :: x :: t else x :: insertBuf b t

/-- The lowest free buffer of a class. -/
def lowestBuf (l : List (Nat × Nat)) (n : Nat) : Option (Nat × Nat) := l.find? fun b => b.2 = n

/-- The four quarters of a buffer. -/
def quarters (a n : Nat) : List (Nat × Nat) := (natsFrom 0 4).map fun k => (a + k * classSize (n - 1), n - 1)

/-- Splits a buffer of class n repeatedly until one of class k exists, and takes the lowest quarter. -/
def splitBuf : Nat → List (Nat × Nat) → Nat → Nat → Nat → List (Nat × Nat)
  | 0, l, _, _, _ => l
  | fuel + 1, l, a, n, k =>
    if n ≤ k then l
    else splitBuf fuel ((quarters a n).tail.foldl (fun l b => insertBuf b l) l) a (n - 1) k

/-- Takes a buffer of class k (R327): its address and what stays free. -/
def takeBuf (l : List (Nat × Nat)) (k : Nat) : Option (Nat × List (Nat × Nat)) :=
  let from' := ((natsFrom k (12 - k)).find? fun n => (lowestBuf l n).isSome)
  match from' with
  | none => none
  | some n =>
    match lowestBuf l n with
    | none => none
    | some b => some (b.1, splitBuf 12 (l.filter fun x => x != b) b.1 n k)

/-- Merges four free quarters into their parent, repeatedly (R327). -/
def mergeBuf : Nat → List (Nat × Nat) → Nat → Nat → List (Nat × Nat)
  | 0, l, _, _ => l
  | fuel + 1, l, a, n =>
    let p := a / classSize (n + 1) * classSize (n + 1)
    let qs := quarters p (n + 1)
    if n < 11 && qs.all fun q => q ∈ l then
      mergeBuf fuel (insertBuf (p, n + 1) (l.filter fun x => !(x ∈ qs))) p (n + 1)
    else l

/-- Frees a buffer. -/
def giveBuf (l : List (Nat × Nat)) (b : Nat × Nat) : List (Nat × Nat) :=
  mergeBuf 12 (insertBuf b l) b.1 b.2

/-- Some aligned buffer of a class could stand in the arena: it has one in its initial division, or a
larger one to split (R328). -/
def arenaHolds (base size k : Nat) : Bool := (divideArena base size).any fun b => k ≤ b.2

/-- The stream at its start (R317). Its view holds what has arrived at D by then, so that what it launches sees what the
host wrote before it started the stream (R361; DEDUCED, log 107). -/
def Stream.start (n : Stream) (view : View) : Stream :=
  { n with
    view := view, rel := []
    spcS := BitVec.ofNat 52 n.base, spcR := BitVec.ofNat 52 n.base, seq := 0, qS := [], qR := []
    stackS := [], stackR := [], hS := [], hR := [], freeBufs := divideArena n.arenaBase n.arenaSize
    win := [], stopDecode := false, stuck := none
    status := if n.base < n.limit then .running else .waiting }

end Sys2Proof.Machine
end

