-- ==== Sys2Proof/Machine/Context.lean ====
section
/-! DEFINITION. Contexts: their states and requests (spec/16 R379, R381; spec/17 R389 to R391). -/

namespace Sys2Proof.Machine

/-- The contexts of a partition that run, in ascending number. -/
def State.runningIn (s : State) (f : Nat) : List Nat :=
  (natsFrom 0 64).filter fun c => (s.ctx c).bound && s.partOf c = f && (s.ctx c).st = .running

/-- WEIGHT as it acts (R381). -/
def Ctx.w (c : Ctx) : Nat := max 1 c.weight.toNat

/-- The window shares of a partition are to be computed again in the next cc (R391). -/
def State.reshare (s : State) (f : Nat) : State := { s with cc := { s.cc with reshare := f :: s.cc.reshare } }

/-- Computes the window shares of a partition (R391). -/
def State.setShares (s : State) (f : Nat) : State :=
  let run := s.runningIn f
  let sum := run.foldl (fun n c => n + (s.ctx c).w) 0
  run.foldl (fun s c =>
    s.updCtx c fun x => { x with share := max 1 (128 * x.w / max 1 sum) }) s

/-- A change of a context's state: every handler of its partition sees it (R388 WAITI). -/
def State.changed (s : State) (c : Nat) : State :=
  let f := s.partOf c
  let s1 := s.updHandler f fun h => { h with changed := true }
  (s1.updHandler 16 fun h => { h with changed := true }).reshare f

/-- A context starts running (R317, R390). -/
def State.startRun (s : State) (c : Nat) (start : Bool) : State :=
  (s.updCtx c fun x => { x with
    st := .running, runFrom := s.tick, reqHeld := false, byDevice := false
    stream := if start then x.stream.start s.mem.nowView else x.stream }).changed c

/-- REQ run (R379): a held or pending request is marked by `reqHeld`. The caller refuses it for a free
context. -/
def State.reqRun (s : State) (c : Nat) : State :=
  match (s.ctx c).st with
  | .stopped => s.startRun c true
  | .stopping => s.updCtx c fun x => { x with reqHeld := true }
  | .saved => s.updCtx c fun x => { x with reqHeld := true }
  | .running => s
  | .free => s

/-- Some of a list, at most n: which, is a free choice. -/
def pickSome : List Nat → Nat → State → List Nat × State
  | [], _, s => ([], s)
  | _ :: _, 0, s => ([], s)
  | x :: t, n + 1, s =>
    let r := s.pick 2
    if r.1 = 0 then
      let u := pickSome t n r.2
      (x :: u.1, u.2)
    else pickSome t (n + 1) r.2

/-- The rays of a context whose runs are in progress in a cluster's traversal units (R88, R89): of those that stand in
traversal, any that its sixteen units can hold (R11). -/
def State.runsNow (s : State) (c cl : Nat) : List Nat × State :=
  let mine := (s.cluster cl).trav.filter fun e => s.ctxOfKid e.2.kid = c && (match e.2.ray with
    | some r => r.stop != 5
    | none => false)
  pickSome (mine.map Prod.fst) 16 s

/-- The same in several clusters. -/
def runsIn (c : Nat) : List Nat → State → List Nat × State
  | [], s => ([], s)
  | cl :: t, s =>
    let r := s.runsNow c cl
    let u := runsIn c t r.2
    (r.1 ++ u.1, u.2)

/-- The turn of a context in its lane ends at once, and the next context's starts in the next cc (R390). -/
def State.endTurn (s : State) (f c : Nat) : State :=
  if (s.part f).turn = 0 || (s.part f).cursor != c then s
  else { (s.updPart f fun p => { p with turn := 0 }) with cc := { s.cc with turned := f :: s.cc.turned } }

/-- REQ stop (R379, R435): a running context becomes stopping, and its turn ends (R390). -/
def State.reqStop (s : State) (c : Nat) : State :=
  match (s.ctx c).st with
  | .running =>
    let f := s.partOf c
    let run := runsIn c ((natsFrom 0 16).filter fun cl => s.inPart f cl) s
    let s1 := (run.2.updCtx c fun x => { x with
      st := .stopping, reqTick := s.tick, budget := (s.part f).stepBudget, halted := []
      inRun := run.1 }).endTurn f c
    -- the request clears the deadlock counts (R49)
    let clear (s : State) (k : Nat) : State :=
      if s.inPart f (clusterOf k) then s.updCore k fun x => { x with deadFrom := s.tick } else s
    ((natsFrom 0 128).foldl clear s1).changed c
  | .free => s
  | .stopped => s
  -- software asked for the stop too, so the device does not run it again (R393)
  | .stopping => s.updCtx c fun x => { x with byDevice := false }
  | .saved => s.updCtx c fun x => { x with byDevice := false }

/-- Some context is bound to a partition. -/
def State.anyBound (s : State) (f : Nat) : Bool :=
  (natsFrom 0 64).any fun c => (s.ctx c).bound && s.partOf c = f

/-- BOUND is set (R381): the events are zeroed and the context is stopped. -/
def State.bindCtx (s : State) (c : Nat) (p : BitVec 4) : State :=
  ((s.dropTlb c none fun _ => true).updCtx c fun x => { x with
    bound := true, part := p, st := .stopped, events := List.replicate 64 0 }).changed c

/-- BOUND is cleared (R379, R417). -/
def State.unbindCtx (s : State) (c : Nat) : State :=
  ((s.dropTlb c none fun _ => true).updCtx c fun x => { x with bound := false, st := .free }).changed c

/-- PART of a stopped context changes (R381, R417). -/
def State.movePart (s : State) (c : Nat) (p : BitVec 4) : State :=
  let f := s.partOf c
  ((s.dropTlb c none fun _ => true).updCtx c fun x => { x with part := p }).reshare f

/-- WEIGHT is written (R391). -/
def State.setWeight (s : State) (c : Nat) (w : BitVec 8) : State :=
  (s.updCtx c fun x => { x with weight := w }).reshare (s.partOf c)

end Sys2Proof.Machine
end

