-- ==== Sys2Proof/Machine/Debug.lean ====
section
/-! DEFINITION. Debugging: freezes, the skid buffer, stepping, precise stops, trace and sample records, and
DBG_CTL (spec/20 R452 to R467). -/

namespace Sys2Proof.Machine

/-! ### Freezes (R457 to R460) -/

/-- The clusters of a partition. -/
def State.clustersOf (s : State) (f : Nat) : List Nat :=
  (natsFrom 0 16).filter fun c => s.inPart f c

/-- The stopping wave of a frozen cluster issues next with no new check for the hit that stopped it (R459). -/
def State.passHit (s : State) (cl : Nat) : State :=
  let d := (s.cluster cl).dbg
  if d.hit = .none then s
  else
    (s.updCore (8 * cl + d.core.toNat) fun k => { k with
      waves := Table.upd k.waves d.slot.toNat fun w => { w with skipHit := d.hit } }).updCluster cl fun c =>
        { c with dbg := { c.dbg with hit := .none } }

/-- A stop of WHY 1 to 3 names a wave that the hit stopped. -/
def DbgStatus.byHit (d : DbgStatus) : Bool := d.why = 1 || d.why = 2 || d.why = 3

/-- A freeze and what ends it clear the deadlock counts of a cluster's cores (R49). -/
def State.clearDead (s : State) (cl : Nat) : State :=
  (natsFrom (8 * cl) 8).foldl (fun s k => s.updCore k fun x => { x with deadFrom := s.tick }) s

/-! ### The skid buffer (R453, R457, R458) -/

/-- A write of ARM. -/
def State.skidWrite (s : State) (arm : Bool) : State :=
  { s with dev := { s.dev with
      skidArm := arm, skidActive := s.dev.skidActive && (arm || s.dev.skidLines != 0) } }

/-- The operations of a cluster whose replies are still to come, and that no engine performs. -/
def State.awaited (s : State) (cl : Nat) : List (Nat × Nat) :=
  (natsFrom (8 * cl) 8).flatMap fun k =>
    ((s.core k).ops.filter fun e =>
      e.2.eng.isNone && !(s.cluster cl).skid.any fun r => r.core = k && r.key = e.1).map fun e => (k, e.1)

/-- The lines of an operation's reply. -/
def PendOp.replyLines (p : PendOp) : Nat :=
  max 1 ((p.late.flatMap fun l => (l.bytes.filter fun e => e.2.isNone).map fun e => e.1 / 128).eraseDups).length

/-- The buffer is full (R458): every other cluster of the partition freezes. -/
def State.spread (s : State) (cl : Nat) : State :=
  match s.partAt cl with
  | none => s
  | some f => (s.clustersOf f).foldl (fun s c =>
      if (s.cluster c).dbg.frozen then s
      else ((s.freeze c 5 0 0 0 .none).updCluster c fun x =>
        { x with dbg := { x.dbg with spread := true } }).traceAll c 6) s

/-- A reply for a frozen cluster is captured (R457), if one is outstanding: which, is a free choice. What it carries has
been read by then. -/
def State.skidCapture (s : State) (cl : Nat) : State :=
  let l := s.awaited cl
  if !(s.cluster cl).dbg.frozen || !s.dev.skidActive || s.dev.stopped || l.isEmpty then s
  else
    let u := s.pick l.length
    let x := listGet l u.1 (0, 0)
    match Table.get? (s.core x.1).ops x.2 with
    | none => s
    | some p =>
      let n := p.replyLines
      if 65536 < s.dev.skidLines + n then u.2.spread cl
      else
        let s1 : State := { u.2 with dev := { u.2.dev with skidLines := s.dev.skidLines + n } }
        (s1.landLate x.1 x.2 p).updCluster cl fun c =>
          { c with skid := c.skid ++ [{ core := x.1, key := x.2, lines := n }] }

/-- A captured reply is delivered. -/
def State.deliver (s : State) (r : SkidReply) : State :=
  match Table.get? (s.core r.core).ops r.key with
  | some p => s.endOp r.core r.key p
  | none => s

/-- The skid buffer of a cluster drains, in the order of arrival (R457). -/
def State.drainSkid (s : State) (cl : Nat) : State :=
  let l := (s.cluster cl).skid
  let n := l.foldl (fun n r => n + r.lines) 0
  let s1 := s.updCluster cl fun c => { c with skid := [] }
  l.foldl State.deliver { s1 with dev := { s1.dev with skidLines := s1.dev.skidLines - n } }

/-! ### Resuming (R459) -/

/-- Frees one frozen cluster: its skid buffer drains. -/
def State.thaw (s : State) (cl : Nat) : State :=
  let c := s.cluster cl
  if !c.dbg.frozen then s
  else
    let wave := Table.get? (s.core (8 * cl + c.dbg.core.toNat)).waves c.dbg.slot.toNat
    let s1 := ((s.passHit cl).drainSkid cl).updCluster cl fun c => { c with
      dbg := { c.dbg with
        frozen := false, spread := false, why := 0, step := none, haltc := false } }
    let s2 := s1.clearDead cl
    match c.dbg.byHit, wave with
    | true, some w => s2.trace w.ctx 7 (8 * cl + c.dbg.core.toNat) c.dbg.slot.toNat 0 w.pc.toNat
    | _, _ => s2.traceAll cl 7

/-- OP 1 of DBG_CMD (R459, R463): every frozen cluster of the partition of a cluster resumes; after a
precise stop, the whole die. -/
def State.dbgResume (s : State) (cl : Nat) : State :=
  if s.dev.phase = 4 then s
  else if s.dev.stopped then
    let s1 := { s with dev := { s.dev with stopped := false } }
    (natsFrom 0 16).foldl (fun s c => s.thaw c) s1
  else
    match s.partAt cl with
    | some f => (s.clustersOf f).foldl (fun s c => s.thaw c) s
    | none => s.thaw cl

/-! ### Stepping (R461, R462) -/

/-- STEPFAIL (R461). -/
def State.stepFails (s : State) (cl : Nat) : State :=
  s.updCluster cl fun c => { c with dbg := { c.dbg with stepFail := true } }

/-- OP 2 (R461): the cluster's clocks run, its skid buffer drains, and one wave alone may issue, with no check for
hits. The third part of `step` is twice the tick it began at, plus one once the wave has issued. -/
def State.dbgStep (s : State) (core slot : Nat) : State :=
  let cl := clusterOf core
  if !(s.cluster cl).dbg.frozen || s.dev.stopped then s
  else if (Table.get? (s.core core).waves slot).isNone then s.stepFails cl
  else
    let s1 := (s.drainSkid cl).updCluster cl fun c => { c with
      dbg := { c.dbg with
        frozen := false, stepFail := false, step := some (core, slot, 2 * s.tick) } }
    (s1.clearDead cl).updCore core fun k => { k with
      waves := Table.upd k.waves slot fun w => { w with skipHit := .all } }

/-- A one-lane wave for a thread drawn from a basin (R29). Its age is a tick; the counts of a core's wave go by the
clock of its cluster. -/
def Wave.ofThreads (ctx kid : Nat) (pc : Pc) (ts : List Thread) (tick : Nat) (clock : Nat := 0) : Wave :=
  { ctx := ctx, kid := kid, mode := .user, pc := pc
    lanes := (natsFrom 0 ts.length).zip ts |>.map fun e => (e.1, { e.2 with st := .run })
    w := [], mask := [], crew := none, clause := none, park := .none, resident := true, since := clock
    age := tick, issued := clock, elevated := false, debt := 0, skipHit := .none, newborn := false }

/-- What a thread still has outstanding completes: its operations, and its stores. -/
def State.finishOf (s : State) (core slot uid : Nat) : State :=
  let keys := ((s.core core).ops.filter fun e =>
    e.2.slot = slot && e.2.eng.isNone && uid ∈ e.2.uids).map Prod.fst
  let one (s : State) (key : Nat) : State :=
    match Table.get? (s.core core).ops key with
    | none => s
    | some p =>
      let s1 := s.landLate core key p
      match Table.get? (s1.core core).ops key with
      | none => s1
      | some q => s1.endOp core key q
  (keys.foldl one s).landStores core slot [uid]

/-- OP 3 (R462): the lane is filed at its PC, drawn at once as a one-lane wave, and that wave steps. What the lane has
outstanding completes first, as any filing waits for it (R28; DEDUCED, log 133). -/
def State.dbgStepLane (s0 : State) (core slot lane : Nat) : State :=
  let cl := clusterOf core
  if !(s0.cluster cl).dbg.frozen || s0.dev.stopped then s0
  else
    match Table.get? (s0.core core).waves slot with
    | none => s0.stepFails cl
    | some w0 =>
      match Table.get? w0.active lane, s0.newSlot core with
      | some t0, some n =>
        if w0.crew.isSome || (s0.core core).basins.length ≥ 64 then s0.stepFails cl
        else
          let s := (s0.drainSkid cl).finishOf core slot t0.uid
          let w := (Table.get? (s.core core).waves slot).getD w0
          let t := (Table.get? w.lanes lane).getD t0
          let rest := (w.dropLanes [lane]).settle
          let new := Wave.ofThreads w.ctx w.kid w.pc [{ t with pc := w.pc }] s.tick (s.cluster cl).clock
          let s1 := s.updCore core fun k => { k with
            waves := Table.put
              (if rest.lanes.isEmpty then Table.del k.waves slot else Table.put k.waves slot rest) n new }
          s1.dbgStep core n
      | _, _ => s0.stepFails cl

/-- The end of a step (R461): the cluster refreezes. A step that has failed has issued nothing, and its wave is checked
for hits as before. -/
def State.refreeze (s : State) (cl : Nat) (fail : Bool) : State :=
  let s1 := (s.updCluster cl fun c => { c with
    dbg := { c.dbg with frozen := true, step := none, stepFail := c.dbg.stepFail || fail } }).clearDead cl
  match fail, (s.cluster cl).dbg.step with
  | true, some (core, slot, _) => s1.updCore core fun k => { k with
      waves := Table.upd k.waves slot fun w => { w with skipHit := .none } }
  | _, _ => s1

/-- The instruction that a step has issued is not complete: its wave stands at it, or has loads without a flag, engine
operations without one, or stores outstanding (R461). -/
def State.stepBusy (s : State) (core slot : Nat) : Bool :=
  let k := s.core core
  match Table.get? k.waves slot with
  | none => false
  | some w =>
    w.park = .port || (match w.park with
      | .engine _ => true
      | _ => false) ||
    (w.park = .none && ((k.ops.any fun e => e.2.slot = slot && e.2.flag.isNone) ||
      k.stores.any fun x => x.slot = slot))

/-- The step of a cluster is over: it has issued and its instruction is complete or parks. -/
def State.stepDone (s : State) (cl : Nat) : Bool :=
  match (s.cluster cl).dbg.step with
  | some (core, slot, n) => n % 2 = 1 && !s.stepBusy core slot
  | none => false

/-- The step of a cluster has issued nothing within 65,536 cc of its command, at a tick, or has no wave. -/
def State.stepLate (s : State) (cl tick : Nat) : Bool :=
  match (s.cluster cl).dbg.step with
  | some (core, slot, n) =>
    n % 2 = 0 && ((Table.get? (s.core core).waves slot).isNone || n / 2 + 65536 ≤ tick)
  | none => false

/-- The end of a cc ends a step that is over (R461). -/
def State.endStep (s : State) (cl : Nat) : State :=
  if s.stepDone cl then s.refreeze cl false
  else if s.stepLate cl (s.tick + 1) then s.refreeze cl true
  else s

/-! ### The precise stop (R463) -/

/-- The clocks of one cluster stop with the die; one in a step keeps what the stop before it said. -/
def State.gate (s : State) (cl : Nat) : State :=
  let d := (s.cluster cl).dbg
  if d.frozen then s
  else if d.step.isSome then
    ((s.updCluster cl fun c => { c with dbg := { c.dbg with frozen := true, why := 6 } }).clearDead cl).traceAll cl 6
  else (s.freeze cl 6 0 0 0 .none).traceAll cl 6

/-- A precise stop (R463). -/
def State.preciseStop (s : State) : State :=
  (natsFrom 0 16).foldl (fun s cl => s.gate cl) { s with dev := { s.dev with stopped := true, spent := true } }

/-- The stop is due: armed, not spent, and the tick is DBG_STOPTICK. -/
def State.stopDue (s : State) : Bool :=
  s.dev.armed && !s.dev.spent && !s.dev.stopped && s.dev.stopTick.toNat = s.tick

/-- An arm whose tick has passed stops nothing until it is disarmed. -/
def State.spendArm (s : State) : State :=
  if s.dev.armed && s.dev.stopTick.toNat < s.tick then { s with dev := { s.dev with spent := true } } else s

/-- OP 4 and OP 5 (R459). -/
def State.arm (s : State) : State := State.spendArm { s with dev := { s.dev with armed := true } }
def State.disarm (s : State) : State := { s with dev := { s.dev with armed := false, spent := false } }

/-! ### DBG_CTL and the trace area (R454, R460, R464) -/

/-- A write of DBG_CTL: DIVERGED and LOGFULL are cleared, and a change of REPLAY starts the events of every
cluster anew. -/
def State.dbgCtl (s : State) (c : Nat) (x : DWord) : State :=
  let f := s.partOf c
  let x := x &&& 0xFFFFC000#64
  let s1 := s.updCtx c fun k =>
    let same := k.dbg.ctl.extractLsb' 15 2 = x.extractLsb' 15 2
    { k with dbg := { k.dbg with
        ctl := x, recN := if same then k.dbg.recN else [], offReplay := same && k.dbg.offReplay
        reported := same && k.dbg.reported } }
  (s.clustersOf f).foldl (fun s cl => s.updCluster cl fun k => { k with
    dbg := { k.dbg with logFull := false, diverged := false } }) s1

/-- A write of DBG_TRACE_BASE: both counts become zero. -/
def State.traceBase (s : State) (c base : Nat) : State :=
  { (s.updCtx c fun k => { k with
      dbg := { k.dbg with traceBase := base, traceN := 0, traceDrop := 0 } }) with
    mem := s.mem.agentWrite s.tick eventAgent base (bytesOf 16 0) }

/-! ### Sample records (R465) -/

/-- Why a wave has issued or not in the cc that ends. Where it waits for what R465 does not list, the reason is a free
value (log 132). -/
def State.sampleWhy (s : State) (core : Nat) (w : Wave) : Nat × State :=
  let stopped := w.lanes.any fun e => match e.2.st with
    | .stopped _ _ _ => true
    | _ => false
  if w.issued = (s.cluster (clusterOf core)).clock && !w.newborn then (0, s)
  else if s.tick % 64 ≥ s.dev.allow then (6, s)
  else if !w.waitMet then (2, s)
  else
    match w.park with
    | .claim _ _ _ => (5, s)
    | .engine _ => (1, s)
    | .lines _ => (3, s)
    | .tiles _ => (3, s)
    | _ => if stopped then (4, s) else s.pick (2 ^ 32)

/-- The oldest resident wave of a context in an issue partition of a core. -/
def Core.oldestOf (k : Core) (ctx p : Nat) : Option (Nat × Wave) :=
  (k.waves.filter fun e => e.1 / 16 = p && e.2.ctx = ctx && e.2.resident).foldl
    (fun (o : Option (Nat × Wave)) e =>
      match o with
      | none => some e
      | some x => if e.2.age < x.2.age then some e else some x) none

/-- SPER as a period. -/
def DbgRegs.period (d : DbgRegs) : Nat := 2 ^ ((d.ctl.extractLsb' 20 4).toNat + 10)

/-- The issue partition that the samples of a tick are about. -/
def DbgRegs.samplePart (d : DbgRegs) (tick : Nat) : Nat := tick / d.period % 4

/-- A core's sample for a context is due in this cc, and not yet written. -/
def State.sampleDue (s : State) (core ctx : Nat) : Bool :=
  let d := (s.ctx ctx).dbg
  (s.ctx ctx).bound && d.ctl.getLsbD 19 && s.tick % d.period = 0 &&
  Table.getD (s.core core).sampled ctx 0 ≤ s.tick

/-- One class-8 record of a core for a context, where its sample is due. -/
def State.sample (s : State) (core ctx : Nat) : State :=
  if !s.sampleDue core ctx then s
  else
    let d := (s.ctx ctx).dbg
    -- the record is written whatever TRACE says
    let on (x : DWord) : DWord := x ||| 0x40000#64
    let s1 := s.updCtx ctx fun k => { k with dbg := { k.dbg with ctl := on k.dbg.ctl } }
    let s2 := match (s.core core).oldestOf ctx (d.samplePart s.tick) with
      | some (n, w) =>
        let y := s1.sampleWhy core w
        y.2.trace ctx 8 core n y.1 w.pc.toNat
      | none => s1.trace ctx 8 core 0xFF 7 0
    (s2.updCtx ctx fun k => { k with dbg := { k.dbg with ctl := d.ctl } }).updCore core fun k =>
      { k with sampled := Table.put k.sampled ctx (s.tick + 1) }

/-- The samples that a cluster's cores have not written by the end of the cc they are due in. -/
def State.samples (s : State) (cl : Nat) : State :=
  (natsFrom 0 64).foldl (fun s c =>
    if s.inPart (s.partOf c) cl && (s.ctx c).bound && (s.ctx c).dbg.ctl.getLsbD 19 then
      (natsFrom (8 * cl) 8).foldl (fun s k => s.sample k c) s
    else s) s

end Sys2Proof.Machine
end

