-- ==== Sys2Proof/Machine/Rill.lean ====
section
/-! DEFINITION. The Rill endpoint: tags, retransmission and link failure, pairing, and the merge unit
(spec/19 R449, R450; spec/21 R479 to R483). The peer's memory answers at once (log 11). -/

namespace Sys2Proof.Machine

/-- The agent number of requests from the peer. -/
def peerAgent : Nat := 4

/-- The wave a thread stands in. -/
def State.waveOf (s : State) (uid : Nat) : Option (Here × Nat) :=
  let lane (w : Wave) : Option Nat := (w.lanes.find? fun l => l.2.uid = uid).map Prod.fst
  let at' (c : Nat) : Option (Here × Nat) :=
    (s.core c).waves.findSome? fun e =>
      (lane e.2).map fun l => ({ wave := e.2, core := c, slot := e.1, hand := none }, l)
  let hand (f : Nat) : Option (Here × Nat) :=
    (s.handler f).wave.bind fun w =>
      (lane w).map fun l => ({ wave := w, core := 0, slot := 0, hand := some f }, l)
  match (natsFrom 0 128).findSome? at' with
  | some x => some x
  | none => (natsFrom 0 17).findSome? hand

/-- The records of threads that stand in no slot, with their cores where they have one: those of basins, of the records
and runs of a cluster, and those that are saved. -/
def State.asideOf (s : State) : List (Option Nat × Thread) :=
  ((natsFrom 0 s.cores.length).zip s.cores).flatMap (fun e =>
    e.2.basins.flatMap fun b => b.2.threads.map fun t => (some e.1, t)) ++
  s.clusters.flatMap (fun c =>
    (c.unbinned ++ c.waiting ++ (c.bins.flatMap fun b => b.2.recs) ++ c.trav.map Prod.snd).map (fun t => (none, t)) ++
    c.rotated.flatMap fun r => r.wave.lanes.map fun l => (some r.core, l.2)) ++
  s.blocks.flatMap fun b =>
    (b.2.swaves.flatMap fun w => w.lanes.map fun l => (some b.2.core, l.2)) ++
    b.2.sbasins.flatMap fun x => x.threads.map fun t => (some b.2.core, t)

/-- The record of a request that fails: 0x0F at the endpoint (R428, R450). -/
def State.lostRec (s : State) (kid : Nat) (core : Option Nat) : FaultRec := { s.kidRec kid 7 0x0F core with detail := 1 }

/-- A request that has been sent fails with 0x0F on its requester (R450). -/
def State.failReq (s : State) (q : RillReq) : State :=
  match q.who with
  | .thread uid =>
    match s.waveOf uid with
    | some (h, l) => s.raise h { code := 0x0F, lane := some l, detail := 1, src := 7 }
    | none =>
      s.endGrid q.kid 0xFF (match s.asideOf.find? fun e => e.2.uid = uid with
        | some e => { s.lostRec q.kid e.1 with
            pc := BitVec.ofNat 64 e.2.pc.toNat, block := BitVec.ofNat 32 e.2.index, thread := e.2.tidx }
        | none => s.lostRec q.kid none)
  | .copy id =>
    let all : List (Nat × Copy) := ((natsFrom 0 s.cores.length).zip s.cores).flatMap fun e => e.2.copies.map fun c => (e.1, c.2)
    s.endGrid q.kid 0xFF (match all.find? fun e => e.2.id = id with
      | some e => { e.2.missRec e.1 (s.lostRec q.kid none) with src := 7 }
      | none => s.lostRec q.kid none)
  | .task c seq => s.failEntry c seq (s.lostRec q.kid none)

/-- What the peer has not applied of the requests with no response is taken back, the last first: the bytes that they
wrote there stand as before. -/
def State.takeBack (s : State) (l : List RillReq) : State :=
  l.reverse.foldl (fun s q =>
    if q.old.isEmpty then s
    else
      let m := s.mem.arriveHome s.tick (.agent peerAgent)
        (q.old.map fun e => { addr := e.1, val := e.2, who := [], marks := [] })
      { s with mem := { m with dirty := s.mem.dirty } }) s

/-- The pair has ended, in the failed state or down (R450, R480): every outstanding request fails; of those with no
response the peer has applied the first ones, and how many is a free choice (log 134). -/
def State.endPair (s : State) (st : BitVec 3) : State :=
  let u := s.pick (s.rill.out.length + 1)
  let s1 := s.rill.out.foldl (fun s q => s.failReq q) (u.2.takeBack (s.rill.out.drop u.1))
  s1.updRill fun r => { r with
    st := st, primary := false, peerCap := 0, lanes := 0, nextTag := 0, expect := 0, out := []
    cache := [], early := [], resp := [], pairs := [], hold := 0 }

/-- RILL_RESPONSE_RECEIVE (R449). -/
def execRillResponseReceive (tag : Word) (s : State) : Res :=
  if s.dev.stopped || s.rill.st != 2 then .next s
  else
    .next (s.updRill fun r => { r with
      out := r.out.filter fun q => q.tag != tag.toNat, heard := s.tick })

/-- RILL_RETRANSMIT (R449): 12,800 cc after the last send. -/
def execRillRetransmit (tag : Word) (s : State) : Res :=
  if s.dev.stopped || s.rill.st != 2 then .next s
  else
    let again (q : RillReq) : RillReq :=
      if q.tag = tag.toNat && q.sent + 12800 ≤ s.tick then { q with sent := s.tick } else q
    .next (s.updRill fun r => { r with out := r.out.map again })

/-- LINK_RETRAIN (R449): every request with no response is sent again. -/
def execLinkRetrain (s : State) : Res :=
  if s.dev.stopped || s.rill.st != 2 then .next s
  else .next (s.updRill fun r => { r with out := r.out.map fun q => { q with sent := s.tick } })

/-- The link of a pair has delivered nothing for 1 ms (R450). -/
def State.linkDead (s : State) : Bool := s.rill.st = 2 && s.rill.heard + 1600000 ≤ s.tick

/-- RILL_LINK_FAILURE (R450). -/
def execRillLinkFailure (s : State) : Res :=
  .next (if s.linkDead then s.endPair 3 else s)

/-- HOST_READ_COMPLETE (R481): the nth read to the host that is outstanding. -/
def execHostReadComplete (x : Nat) (s : State) : Res :=
  .next (s.updRill fun r => { r with
    hostOut := r.hostOut.take x ++ r.hostOut.drop (x + 1) })

/-! ### The merge unit (R482) -/

/-- ATOM.fadd placed at D (R138) by the merge unit. -/
def State.mergeAdd (s : State) (a : Nat) (x : Word) : State :=
  let old := BitVec.ofNat 32 (s.mem.numD a 4)
  { s with mem := s.mem.arriveD s.tick (.agent peerAgent) (agentBytes a (bytesOf 4 (fadd32 old x).toNat)) }

/-- A pair is merged, takes a free entry, or takes the overflow path. -/
def State.mergePair (s : State) (task a : Nat) (x : Word) : State :=
  if s.rill.merge.any fun e => e.task = task && e.addr = a then
    s.updRill fun r => { r with
      merge := r.merge.map fun e =>
        if e.task = task && e.addr = a then { e with x := fadd32 e.x x } else e }
  else if s.rill.merge.length < 65536 then
    s.updRill fun r => { r with merge := r.merge ++ [{ task := task, addr := a, x := x }] }
  else s.mergeAdd a x

/-- A flush applies every entry of a task and frees it. -/
def State.mergeFlush (s : State) (task : Nat) : State :=
  let mine := s.rill.merge.filter fun e => e.task = task
  let s1 := mine.foldl (fun s e => s.mergeAdd e.addr e.x) s
  s1.updRill fun r => { r with merge := r.merge.filter fun e => e.task != task }

/-! ### Requests from the peer (R449) -/

/-- The operation of an atomic by number; AMAXSWP has none. -/
def peerOp (n : Nat) : Option AtomOp :=
  [AtomOp.add, .min, .max, .minu, .maxu, .and, .or, .xor, .xchg, .cas, .fadd, .fmax][n]?

/-- The model's own code of a request (log 11): [2:0] says what, and the rest is by kind. -/
def decodeReq (p : Nat) : PeerReq :=
  let q := p / 8
  let a := q % 2 ^ 48
  let x := q / 2 ^ 48
  match p % 8 with
  | 0 => .read a (x % 129)
  | 1 => .write a (bytesOf (x % 129) (x / 2 ^ 8))
  | 2 => .atom (peerOp (x % 16)) ((x / 16) % 2 = 1) a (bytesOf 16 (x / 32))
  | 3 => .step ((natsFrom 0 (q % 256)).map fun i =>
      let e := q / 2 ^ (8 + 56 * i)
      (e % 2 ^ 48, BitVec.ofNat 8 (e / 2 ^ 48)))
  | 4 => .pair (x / 2 ^ 32) a (BitVec.ofNat 32 x)
  | 5 => .flush q
  | _ => .other

/-- An arrival of the peer's at D. -/
def State.peerWrite (s : State) (l : List (Nat × Byte)) (step : Bool := false) : State :=
  let bs : List NewByte := l.map fun e => { addr := e.1, val := e.2, who := [], marks := [] }
  { s with mem := s.mem.arriveD s.tick (.agent peerAgent) bs step }

/-- Applies a request: its response, and the state after it. One whose bytes do not all lie in this module's memory does
nothing. -/
def State.applyReq (s : State) (x : PeerReq) : Nat × State :=
  let within (a n : Nat) : Bool := a + n ≤ s.capacity
  let put (a : Nat) (bs : List Byte) : State := s.peerWrite ((natsFrom a bs.length).zip bs)
  match x with
  | .read a n => (if within a n then s.mem.numD a n else 0, s)
  | .write a bs => (0, if within a bs.length then put a bs else s)
  | .atom op wide a data =>
    let n := if wide then 8 else 4
    if a % n != 0 || !within a n then (0, s)
    else
      let old := s.mem.numD a n
      (old, match atomApply op wide data old with
        | some y => put a (bytesOf n y)
        | none => s)
  | .step l => (0, if l.all fun e => within e.1 1 then s.peerWrite l true else s)
  | .pair task a x => (0, if a % 4 = 0 && within a 4 then s.mergePair task a x else s)
  | .flush task => (0, s.mergeFlush task)
  | .other => (0, s)

/-- Applies the requests that have come, in ascending tag order; each response is kept, and goes to the peer. -/
def applyEarly : Nat → State → State
  | 0, s => s
  | n + 1, s =>
    match s.rill.early.find? fun e => e.1 = s.rill.expect with
    | none => s
    | some e =>
      let r := s.applyReq e.2
      applyEarly n (r.2.updRill fun k => { k with
        expect := (k.expect + 1) % 2 ^ 32, early := k.early.filter fun y => y.1 != e.1
        cache := ((e.1, r.1) :: k.cache).take 4096, resp := k.resp ++ [(e.1, r.1)] })

/-- A tag stands before another of its series, which wraps at 2^32. -/
def tagBefore (t u : Nat) : Bool := t != u && (u + 2 ^ 32 - t) % 2 ^ 32 < 2 ^ 31

/-- A request arrives (R449): an early one is held, and a duplicate is never applied again, but its response is sent
again while it is kept. -/
def State.receive (s : State) (t : Nat) (x : PeerReq) : State :=
  let s1 := s.updRill fun r => { r with heard := s.tick }
  if tagBefore t s.rill.expect then
    match s.rill.cache.find? fun e => e.1 = t with
    | some e => s1.updRill fun r => { r with resp := r.resp ++ [e] }
    | none => s1
  else if s.rill.early.any fun e => e.1 = t then s1
  else
    let s2 := s1.updRill fun r => { r with early := r.early ++ [(t, x)] }
    applyEarly s2.rill.early.length s2

/-- The peer acknowledges every response up to a tag: they are released (R449). -/
def State.acknowledged (s : State) (t : Nat) : State :=
  let later (e : Nat × Nat) : Bool := tagBefore t e.1
  s.updRill fun r => { r with cache := r.cache.filter later, resp := r.resp.filter later }

/-- RILL_REQUEST_RECEIVE (R449). The payload holds, below the request, an acknowledgement: [0] whether there is one, and
[32:1] its tag (log 11). -/
def execRillRequestReceive (tag : Word) (payload : Nat) (s : State) : Res :=
  if s.dev.stopped || s.rill.st != 2 then .next s
  else
    let s1 := if payload % 2 = 1 then s.acknowledged (payload / 2 % 2 ^ 32) else s
    .next (s1.receive tag.toNat (decodeReq (payload / 2 ^ 33)))

/-- MERGE_PAIR (R482, R449): a pair for an element homed on this module, under its tag. -/
def execMergePair (task : PeerTask) (addr : Nat) (x : Word) (s : State) : Res :=
  .next (if s.dev.stopped || s.rill.st != 2 then s else s.receive task.tag.toNat (.pair task.task addr x))

/-- MERGE_FLUSH (R482, R449). -/
def execMergeFlush (task : PeerTask) (s : State) : Res :=
  .next (if s.dev.stopped || s.rill.st != 2 then s else s.receive task.tag.toNat (.flush task.task))

/-! ### Pairing (R479, R480) -/

/-- DEV_RILL.PAIR (R479, R483). -/
def State.pair (s : State) : State :=
  if s.rill.st = 0 || s.rill.st = 3 then s.updRill fun r => { r with st := 1 } else s

/-- DEV_RILL.UNPAIR (R480). -/
def State.unpair (s : State) : State :=
  if s.rill.st = 0 then s else s.endPair 0

/-- RILL_PAIRED (R479). The secondary's tick becomes the primary's; where its own count is the higher, it holds its count
until the primary's has caught up. -/
def execRillPaired (peer : DWord) (cap : BitVec 20) (tick : Nat) (lanes : BitVec 6) (s : State) : Res :=
  if s.dev.stopped || s.rill.st != 1 then .next s
  else if peer = Config.serial then .next (s.updRill fun r => { r with st := 3 })
  else if lanes = 0 || lanes.toNat > 32 then .next s
  else
    let primary : Bool := Config.serial.toNat < peer.toNat
    let t := if primary then s.tick else max s.tick tick
    .next { s with
      tick := t
      rill := { s.rill with
        st := 2, primary := primary, peerCap := cap, lanes := lanes, nextTag := 0, expect := 0
        out := [], cache := [], early := [], resp := [], pairs := [], heard := t
        hold := if primary then 0 else s.tick - tick } }

end Sys2Proof.Machine
end

