-- ==== Sys2Proof/Machine/Registers.lean ====
section
/-! DEFINITION. The privileged registers: numbers, rights, fields, and what a read gives and a write does
(spec/16 R380 to R384; spec/04 R109, R111; spec/20 R452 to R460; spec/21 R474 to R477, R483 to R487). -/

namespace Sys2Proof.Machine

/-! ### Rights and refusals (R380) -/

/-- Who accesses: the host, or a handler slot; slot 16 is the firmware's. -/
inductive Who where
  | host
  | slot (f : Nat)
deriving DecidableEq, Repr

/-- Firmware rights. -/
def Who.fw : Who → Bool
  | .host => false
  | .slot f => f = 16

/-- Why an access is refused: a fault code and its cause. -/
structure RegErr where
  code : Nat
  cause : Nat := 0
deriving DecidableEq, Repr

/-- What an instance number names. -/
inductive RegKind where
  | dev | part | cluster | ctx
deriving DecidableEq, Repr

/-- The kind of a register number; nothing for an unassigned one. -/
def regKind (n : Nat) : Option RegKind :=
  if n = 0x00C then some .part
  else if n ≤ 0x00F || n = 0x018 || n = 0x100 || n = 0x101 then some .dev
  else if 0x010 ≤ n && n ≤ 0x014 then some .part
  else if n = 0x020 || n = 0x102 || n = 0x103 then some .cluster
  else if (0x040 ≤ n && n ≤ 0x048) || (0x050 ≤ n && n ≤ 0x06F) || (0x080 ≤ n && n ≤ 0x0BF) ||
    (0x110 ≤ n && n ≤ 0x121) then some .ctx
  else none

/-- A kind has an instance. -/
def RegKind.has (k : RegKind) (i : Nat) : Bool :=
  match k with
  | .dev => i = 0
  | .part => i < 16
  | .cluster => i < 16
  | .ctx => i < 64

/-- A supervisor slot reaches its own partition, clusters and contexts alone. -/
def State.mayReach (s : State) (w : Who) (k : RegKind) (i : Nat) : Bool :=
  match w with
  | .host => true
  | .slot f =>
    f = 16 ||
    match k with
    | .dev => true
    | .part => i = f
    | .cluster => s.inPart f i
    | .ctx => (s.ctx i).bound && s.partOf i = f

/-- The checks every access makes before its register's own. -/
def State.regCheck (s : State) (w : Who) (n i : Nat) : Option RegErr :=
  match regKind n with
  | none => some { code := 1, cause := 10 }
  | some k =>
    if !k.has i then some { code := 1, cause := 10 }
    else if !s.mayReach w k i then some { code := 5 }
    else none

/-! ### Reads -/

/-- Bits [hi:lo] of a value, in place. -/
def keepBits (x : DWord) (lo n : Nat) : Nat := x.toNat / 2 ^ lo % 2 ^ n * 2 ^ lo

/-- The code of a context state (R381). -/
def CtxState.code : CtxState → Nat
  | .free => 0
  | .stopped => 1
  | .running => 2
  | .stopping => 3
  | .saved => 4

/-- The code of a stream status (R381). -/
def StreamStatus.code : StreamStatus → Nat
  | .running => 0
  | .waiting => 1
  | .halted => 2
  | .faulted => 3

/-- CAP of DEV_ID: valid while PHASE is 3 (R484). -/
def State.capField (s : State) : Nat :=
  if s.dev.phase = 3 then s.capacity / 1000000 else Config.earlyCap.toNat

/-- DBG_STATUS (R460). -/
def DbgStatus.word (d : DbgStatus) : Nat :=
  flagBit d.frozen 31 + flagBit d.spread 30 + flagBit d.stepFail 29 + flagBit d.logFull 28 +
  flagBit d.diverged 27 + d.why.toNat * 2 ^ 24 + d.core.toNat * 2 ^ 21 + d.slot.toNat * 2 ^ 15 +
  d.lane.toNat * 2 ^ 10

/-- The device registers. -/
def State.devReg (s : State) (n : Nat) : Nat :=
  let d := s.dev
  let r := s.rill
  match n with
  | 0x000 => 0x4358 * 2 ^ 48 + 2 ^ 40 + Config.stepping.toNat * 2 ^ 32 + s.capField * 2 ^ 12
  | 0x001 => flagBit d.herr 7 + flagBit s.paired 6 + flagBit d.eccOn 5 + d.phase.toNat
  | 0x002 => d.poolBase
  | 0x003 => d.func.toNat
  | 0x004 => d.temp.toNat * 2 ^ 56 + flagBit d.hot 55 + d.allow * 2 ^ 40 + d.pmode.toNat
  | 0x005 => flagBit d.eccEn 63 + d.thresh.toNat * 2 ^ 16 + d.ceCount.toNat
  | 0x006 => flagBit d.skidArm 63 + flagBit d.skidActive 62 + d.skidLines
  | 0x007 => r.st.toNat * 2 ^ 61 + flagBit r.primary 60 +
      (if s.paired then r.peerCap.toNat else 0) * 2 ^ 32 + r.lanes.toNat
  | 0x008 => d.qbase
  | 0x009 => d.qtail + d.qcount * 2 ^ 8
  | 0x00A => d.qhead
  | 0x00D => d.sigPend.toNat
  | 0x00E => d.win * 2 ^ 30
  | 0x00F => Config.serial.toNat
  | 0x018 => d.irqPend.toNat
  | 0x100 => s.tick
  | 0x101 => d.stopTick.toNat
  | _ => 0

/-- The partition registers (R381, R382, R386). -/
def State.partReg (s : State) (n f : Nat) : Nat :=
  let p := s.part f
  match n with
  | 0x010 => flagBit p.valid 63 + p.size.toNat * 2 ^ 60 + p.chan.toNat * 2 ^ 44 + p.sarea.toNat * 2 ^ 32
  | 0x011 => p.binAge.toNat * 2 ^ 48 + p.basinAge.toNat * 2 ^ 36 + p.treelet.toNat * 2 ^ 30 +
      p.quantum.toNat * 2 ^ 20 + p.stepBudget.toNat
  | 0x012 => p.vbase
  | 0x013 => p.fqbase
  | 0x014 => p.ring.length
  | _ => 0

/-- The cluster registers (R383, R460). -/
def State.clusterReg (s : State) (n i : Nat) : Nat :=
  let c := s.cluster i
  match n with
  | 0x020 => flagBit c.pendMode.isSome 2 + c.mode.toNat
  | 0x103 => c.dbg.word
  | _ => 0

/-- The context registers. -/
def State.ctxReg (s : State) (n i : Nat) : Nat :=
  let c := s.ctx i
  let t := c.stream
  let d := c.dbg
  if 0x050 ≤ n && n ≤ 0x05F then
    let k := (n - 0x050) / 2
    if n % 2 = 0 then (listGet c.resBase k 0).toNat
    else (listGet c.resCtl k 0).toNat + s.granted i k * 2 ^ 52
  else if 0x060 ≤ n && n ≤ 0x06F then (listGet c.prog (n - 0x060) 0).toNat
  else if 0x080 ≤ n && n ≤ 0x0BF then (listGet c.events (n - 0x080) 0).toNat
  else if 0x111 ≤ n && n ≤ 0x114 then (listGet d.bp (n - 0x111) 0).toNat
  else if 0x115 ≤ n && n ≤ 0x118 then (listGet d.wp (n - 0x115) 0).toNat
  else
    match n with
    | 0x040 => c.st.code * 2 ^ 36 + flagBit c.gran 33 + flagBit c.bound 32 + c.part.toNat * 2 ^ 28 +
        c.weight.toNat
    | 0x041 => t.base
    | 0x042 => t.limit
    | 0x043 => t.spcR.toNat
    | 0x044 => t.status.code
    | 0x045 => t.arenaBase
    | 0x046 => t.arenaSize
    | 0x047 => c.root
    | 0x048 => c.saveArea
    | 0x110 => d.ctl.toNat
    | 0x119 => d.traceBase
    | 0x11A => d.traceSize
    | 0x11B => d.recBase
    | 0x11C => d.recSize
    | 0x11D => d.dumpBase
    | 0x11E => d.dumpSize
    | 0x11F => d.cxLo.toNat
    | 0x120 => d.cxHi.toNat
    | 0x121 => d.cxHits.toNat
    | _ => 0

/-- A read of a register, after its checks. -/
def State.regRead (s : State) (n i : Nat) : DWord :=
  BitVec.ofNat 64 (match regKind n with
    | some .dev => s.devReg n
    | some .part => s.partReg n i
    | some .cluster => s.clusterReg n i
    | some .ctx => s.ctxReg n i
    | none => 0)

/-! ### Writes -/

/-- What a write gives. -/
abbrev RegRes := Except RegErr State

/-- A write of a field of level F that would change it needs firmware rights. -/
def fwOnly (w : Who) (same : Bool) (k : RegRes) : RegRes :=
  if w.fw || same then k else .error { code := 0x11 }

/-- A host write that acknowledges vectors: those whose condition stays true are sent again (R477). -/
def State.acked (s : State) (w : Who) (vs : List Nat) : State :=
  match w with
  | .host => { s with dev := { s.dev with msix := s.dev.msix ++ vs.filter fun v => s.dev.cond v } }
  | .slot _ => s

/-- A write of HOST_QHEAD (R477): the records it passes are acknowledged. -/
def State.qhead (s : State) (w : Who) (x : DWord) : State :=
  let v := bitsOf x 0 8
  let n := min s.dev.qcount ((v + 256 - s.dev.qhead) % 256)
  ((s.setDev { s.dev with qhead := v, qcount := s.dev.qcount - n }).acked w [0]).drainHost

/-- A write of HOST_QDONE (R476): it resolves the unresolved record in a slot. -/
def State.qdone (s : State) (x : DWord) : State :=
  let slot := bitsOf x 0 8
  match s.dev.hostRing.find? fun e => e.1 = slot with
  | some (_, q) =>
    match q.page with
    | some id => s.resolvePage id (bitsOf x 32 32)
    | none => s
  | none => s

/-- A host doorbell (R385, R475): class 0x19, and the mark WAITI looks at. -/
def State.doorbell (s : State) (f : Nat) : State :=
  let s1 := s.updHandler f fun h => { h with bell := true }
  let s2 := s1.updHandler 16 fun h => { h with bell := true }
  s2.post f { frec := FaultRec.blank 0x19 s.tick, page := none }

/-- Writes of device registers. -/
def State.devWrite (s : State) (w : Who) (n : Nat) (x : DWord) : RegRes :=
  let d := s.dev
  match n with
  | 0x001 => .ok { s with dev := { d with herr := d.herr && !x.getLsbD 7 } }
  | 0x002 =>
    let v := keepBits x 16 36
    fwOnly w (v = d.poolBase) (.ok { s with dev := { d with poolBase := v } })
  | 0x003 =>
    let v := x.setWidth 6
    fwOnly w (v = d.func) (.ok { s with dev := { d with func := v } })
  | 0x004 =>
    let v := x.setWidth 2
    fwOnly w (v = d.pmode) (.ok { s with dev := { d with pmode := v } })
  | 0x005 =>
    let d' := { d with
      eccEn := x.getLsbD 63, thresh := x.extractLsb' 16 16, ceCount := x.setWidth 16 }
    fwOnly w (d' = d) (.ok { s with dev := d' })
  | 0x006 => fwOnly w (x.getLsbD 63 = d.skidArm) (.ok (s.skidWrite (x.getLsbD 63)))
  | 0x007 =>
    -- PAIR and UNPAIR hold no value to keep: a one in either is a change
    let s1 := if x.getLsbD 59 then s.pair else s
    fwOnly w (!x.getLsbD 59 && !x.getLsbD 58) (.ok (if x.getLsbD 58 then s1.unpair else s1))
  | 0x008 => .ok { s with dev := { d with qbase := keepBits x 14 38 } }
  | 0x00A => .ok (s.qhead w x)
  | 0x00B => .ok (s.qdone x)
  | 0x00D => .ok ((s.setDev { d with sigPend := d.sigPend &&& ~~~x }).acked w [1])
  | 0x00E => .ok { s with dev := { d with win := bitsOf x 30 22 } }
  | 0x018 =>
    let m : Word := x.setWidth 32
    .ok ((s.setDev { d with irqPend := d.irqPend &&& ~~~m }).acked w
      ((natsFrom 0 32).filter fun v => m.getLsbD v))
  | 0x101 => fwOnly w (x = d.stopTick) (.ok (State.spendArm { s with dev := { d with stopTick := x } }))
  | _ => .ok s

/-- The clusters of a partition of a size. -/
def partSpan (f size : Nat) : List Nat := natsFrom f (2 ^ size)

/-- A write of PART_CFG (R381). -/
def State.partCfg (s : State) (w : Who) (f : Nat) (x : DWord) : RegRes :=
  let p := s.part f
  let p' := { p with
    valid := x.getLsbD 63, size := x.extractLsb' 60 3, chan := x.extractLsb' 44 8
    sarea := x.extractLsb' 32 4 }
  let size := p'.size.toNat
  let bad : RegRes := .error { code := 1, cause := 13 }
  let clash := (natsFrom 0 16).any fun g =>
    g != f && (s.part g).valid &&
    (partSpan g (s.part g).size.toNat).any fun c => c ∈ partSpan f size
  fwOnly w (p' = p)
    (if p'.valid && (size > 4 || f % 2 ^ size != 0 || p'.chan = 0 || clash) then bad
    else if p.valid && p' != p && s.anyBound f then bad
    else .ok (s.updPart f fun _ => p'))

/-- Writes of partition registers. -/
def State.partWrite (s : State) (w : Who) (n f : Nat) (x : DWord) : RegRes :=
  match n with
  | 0x00C => .ok (s.doorbell f)
  | 0x010 => s.partCfg w f x
  | 0x011 => .ok (s.updPart f fun p => { p with
      binAge := x.extractLsb' 48 16, basinAge := x.extractLsb' 36 12, treelet := x.extractLsb' 30 6
      quantum := x.extractLsb' 20 10, stepBudget := x.setWidth 16 })
  | 0x012 => .ok (s.updPart f fun p => { p with vbase := keepBits x 8 44 })
  | 0x013 => .ok (s.updPart f fun p => { p with fqbase := keepBits x 14 38 })
  | _ => .ok s

/-- DBG_CMD (R459). -/
def State.dbgCmd (s : State) (w : Who) (cl : Nat) (x : DWord) : RegRes :=
  let core := 8 * cl + bitsOf x 3 3
  let slot := bitsOf x 6 6
  match bitsOf x 0 3 with
  | 1 => .ok (s.dbgResume cl)
  | 2 => .ok (s.dbgStep core slot)
  | 3 => .ok (s.dbgStepLane core slot (bitsOf x 12 5))
  | 4 => fwOnly w false (.ok s.arm)
  | 5 => fwOnly w false (.ok s.disarm)
  | _ => .ok s

/-- Writes of cluster registers. -/
def State.clusterWrite (s : State) (w : Who) (n i : Nat) (x : DWord) : RegRes :=
  match n with
  | 0x020 =>
    if bitsOf x 0 2 = 3 then .error { code := 1 }
    else .ok (s.updCluster i fun c => { c with pendMode := some (x.setWidth 2) })
  | 0x102 => s.dbgCmd w i x
  | _ => .ok s

/-- A write of CTX_CTL (R379, R381). -/
def State.ctxCtl (s : State) (w : Who) (i : Nat) (x : DWord) : RegRes :=
  let c := s.ctx i
  let bound := x.getLsbD 32
  let part : BitVec 4 := x.extractLsb' 28 4
  let state : RegRes := .error { code := 1, cause := 12 }
  let wide (s : State) : State := s.updCtx i fun c => { c with gran := x.getLsbD 33 }
  fwOnly w (bound = c.bound && part = c.part)
    (if bound && !(s.part part.toNat).valid then .error { code := 1, cause := 13 }
    else if bound && c.bound && part != c.part && c.st != .stopped then state
    else if !bound && c.bound && c.st != .free && c.st != .stopped then state
    else if bitsOf x 34 2 = 1 && !bound then state
    else
      let s1 :=
        if bound && !c.bound then s.bindCtx i part
        else if !bound && c.bound then
          (s.unbindCtx i).updCtx i fun c => { c with part := part }
        else if part != c.part then s.movePart i part
        else s
      let s2 := (wide s1).setWeight i (x.setWidth 8)
      .ok (if bitsOf x 34 2 = 1 then s2.reqRun i
        else if bitsOf x 34 2 = 2 then s2.reqStop i
        else s2))

/-- Registers that may be written only in the stopped and saved states. -/
def Ctx.settled (c : Ctx) : Bool := c.st = .stopped || c.st = .saved

/-- The bytes a save area takes (R442). -/
def State.areaBytes (s : State) (i : Nat) : Nat :=
  16 * 2 ^ 20 + 80 * 2 ^ 20 * 2 ^ (s.part (s.partOf i)).size.toNat

/-- A physical range lies in device memory. -/
def State.inDevice (s : State) (a n : Nat) : Bool := a + n ≤ s.capacity

/-- Writes of the stream registers of a context. -/
def State.streamWrite (s : State) (n i : Nat) (x : DWord) : RegRes :=
  let c := s.ctx i
  let state : RegRes := .error { code := 1, cause := 12 }
  let upd (f : Stream → Stream) : RegRes := .ok (s.updCtx i fun c => { c with stream := f c.stream })
  let settled (k : RegRes) : RegRes := if c.settled then k else state
  let arena (f : Stream → Stream) : RegRes :=
    settled (if !c.stream.win.isEmpty then state
      else upd fun t =>
        let t := f t
        { t with hS := [], hR := [], freeBufs := divideArena t.arenaBase t.arenaSize })
  match n with
  | 0x041 => settled (upd fun t => { t with base := keepBits x 4 48 })
  | 0x042 => upd fun t => ({ t with limit := keepBits x 4 48 }).judge
  | 0x043 =>
    if c.stream.status = .running || c.stream.status = .waiting then state
    else upd fun t =>
      { t with spcS := BitVec.ofNat 52 (keepBits x 4 48), spcR := BitVec.ofNat 52 (keepBits x 4 48) }
  | 0x044 =>
    if x.getLsbD 7 && (c.stream.status = .halted || c.stream.status = .faulted) then
      upd fun t => ({ t with status := .running, stopDecode := false }).judge
    else .ok s
  | 0x045 => arena fun t => { t with arenaBase := keepBits x 12 40 }
  | 0x046 => arena fun t => { t with arenaSize := keepBits x 12 40 }
  | 0x047 => settled (.ok (s.updCtx i fun c => { c with root := keepBits x 12 40 }))
  | _ =>
    let a := keepBits x 12 40
    settled (if !s.inDevice a (s.areaBytes i) then .error { code := 5, cause := 4 }
      else .ok (s.updCtx i fun c => { c with saveArea := a }))

/-- Writes of the debug registers of a context (R452). -/
def State.dbgWrite (s : State) (n i : Nat) (x : DWord) : RegRes :=
  let c := s.ctx i
  let upd (f : DbgRegs → DbgRegs) : RegRes := .ok (s.updCtx i fun c => { c with dbg := f c.dbg })
  let a := keepBits x 12 40
  let addr (k : RegRes) : RegRes := if s.paValid a then k else .error { code := 5, cause := 4 }
  let pc : DWord := BitVec.ofNat 64 (keepBits x 3 49)
  if 0x111 ≤ n && n ≤ 0x114 then
    upd fun d => { d with
      bp := listSet d.bp (n - 0x111) (BitVec.ofNat 64 (keepBits x 3 49 + bitsOf x 0 1)) }
  else if 0x115 ≤ n && n ≤ 0x118 then
    upd fun d => { d with wp := listSet d.wp (n - 0x115) (x &&& 0xFF0FFFFFFFFFFFFF#64) }
  else
    match n with
    | 0x110 =>
      if x.extractLsb' 15 2 != c.dbg.ctl.extractLsb' 15 2 && c.st = .running then
        .error { code := 1, cause := 12 }
      else .ok (s.dbgCtl i x)
    | 0x119 => addr (.ok (s.traceBase i a))
    | 0x11A => upd fun d => { d with traceSize := a }
    | 0x11B => addr (upd fun d => { d with recBase := a })
    | 0x11C => upd fun d => { d with recSize := a }
    | 0x11D => addr (upd fun d => { d with dumpBase := a })
    | 0x11E => upd fun d => { d with dumpSize := a }
    | 0x11F => upd fun d => { d with cxLo := pc }
    | 0x120 => upd fun d => { d with cxHi := pc }
    | _ => upd fun d => { d with cxHits := x }

/-- Writes of context registers. -/
def State.ctxWrite (s : State) (w : Who) (n i : Nat) (x : DWord) : RegRes :=
  if n = 0x040 then s.ctxCtl w i x
  else if n ≤ 0x048 then s.streamWrite n i x
  else if n ≤ 0x05F then
    let k := (n - 0x050) / 2
    let v : DWord := if n % 2 = 0 then x &&& 0x000FFFFFFFFFF000#64 else x &&& 0x800FFFFFFFFFFF07#64
    let c := s.ctx i
    let same := listGet (if n % 2 = 0 then c.resBase else c.resCtl) k 0 = v
    -- a register that changes gives its lines up (R110)
    let s1 := s.updCtx i fun c =>
      if n % 2 = 0 then { c with resBase := listSet c.resBase k v }
      else { c with resCtl := listSet c.resCtl k v }
    .ok (if same then s1 else s1.dropKept i k)
  else if n ≤ 0x06F then .ok (s.updCtx i fun c => { c with prog := listSet c.prog (n - 0x060) x })
  else if n ≤ 0x0BF then .ok (s.updCtx i fun c => { c with events := listSet c.events (n - 0x080) x })
  else s.dbgWrite n i x

/-- A write of a register with its checks (R380). -/
def State.regWrite (s : State) (w : Who) (n i : Nat) (x : DWord) : RegRes :=
  match s.regCheck w n i with
  | some e => .error e
  | none =>
    match regKind n with
    | some .dev => s.devWrite w n x
    | some .part => s.partWrite w n i x
    | some .cluster => s.clusterWrite w n i x
    | some .ctx => s.ctxWrite w n i x
    | none => .ok s

/-- What a host read through BAR0 gives (R380, R484): before PHASE 3 only DEV_ID and DEV_STATUS answer. A read changes
nothing; one that R380 refuses gives zero (DESIGN CHOICE, log 108). -/
def State.hostRead (s : State) (n i : Nat) : DWord :=
  if s.dev.phase != 3 && !(n = 0x000 || n = 0x001) then 0
  else if (s.regCheck .host n i).isSome then 0
  else s.regRead n i

/-- A host write through BAR0 (R475, R484): dropped before PHASE 3; one that is refused is dropped and
sets HERR. -/
def State.hostWrite (s : State) (n i : Nat) (x : DWord) : State :=
  if s.dev.phase != 3 && n != 0x001 then s
  else
    match s.regWrite .host n i x with
    | .ok s' => s'
    | .error _ => { s with dev := { s.dev with herr := true } }

/-- The register at a 64-bit word of BAR0 (R474): its number and instance. -/
def regAt (w : Nat) : Option (Nat × Nat) :=
  if 0x40000 ≤ w then some ((w - 0x40000) % 0x1000, (w - 0x40000) / 0x1000) else none

/-- A word of BAR0 stands in the MSI-X table (R474). -/
def inMsix (w : Nat) : Bool := w < 0x200

/-- A host write of a word of BAR0 (R474): a register, or the MSI-X table; the pending bits are the device's, and every
other offset is reserved. -/
def State.bar0Write (s : State) (w : Nat) (x : DWord) : State :=
  match regAt w with
  | some (n, i) => s.hostWrite n i x
  | none =>
    if s.dev.phase = 3 && inMsix w then
      { s with dev := { s.dev with
          msixTab := ((natsFrom (8 * w) 8).zip (bytesOf 8 x.toNat)).foldl (fun t e => Table.put t e.1 e.2) s.dev.msixTab } }
    else s

/-- A host read of a word of BAR0 (R474). No message is held back, so every pending bit is clear (log 135). -/
def State.bar0Read (s : State) (w : Nat) : DWord :=
  match regAt w with
  | some (n, i) => s.hostRead n i
  | none =>
    if s.dev.phase = 3 && inMsix w then
      BitVec.ofNat 64 (natOf ((natsFrom (8 * w) 8).map fun a => Table.getD s.dev.msixTab a 0))
    else 0

/-- A write by firmware outside any handler; one that is refused has no effect. -/
def State.fwWrite (s : State) (n i : Nat) (x : DWord) : State :=
  match s.regWrite (.slot 16) n i x with
  | .ok s' => s'
  | .error _ => s

/-! ### Events that are writes of registers -/

/-- REGISTER_WRITE (R380, R474, R475). -/
def execRegisterWrite (x : RegWrite) (s : State) : Res := .next (s.bar0Write x.word.toNat x.x)

/-- CTX_CTL as it stands, with a request. -/
def State.ctlWith (s : State) (c req : Nat) : DWord :=
  BitVec.ofNat 64 ((s.regRead 0x040 c).toNat + req * 2 ^ 34)

/-- CTX_REQ_RUN (R379). -/
def execCtxReqRun (ctx : BitVec 6) (s : State) : Res :=
  .next (s.hostWrite 0x040 ctx.toNat (s.ctlWith ctx.toNat 1))

/-- CTX_REQ_STOP (R379). -/
def execCtxReqStop (ctx : BitVec 6) (s : State) : Res :=
  .next (s.hostWrite 0x040 ctx.toNat (s.ctlWith ctx.toNat 2))

/-- CTX_CTL with BOUND, PART and WEIGHT given and GRAN as it stands. -/
def State.ctlBound (s : State) (c : Nat) (bound : Bool) (part : BitVec 4) (w : BitVec 8) : DWord :=
  BitVec.ofNat 64 (flagBit (s.ctx c).gran 33 + flagBit bound 32 + part.toNat * 2 ^ 28 + w.toNat)

/-- CTX_BOUND_SET (R381): firmware binds the context to a partition. -/
def execCtxBoundSet (ctx : BitVec 6) (part : BitVec 4) (s : State) : Res :=
  .next (s.fwWrite 0x040 ctx.toNat (s.ctlBound ctx.toNat true part (s.ctx ctx.toNat).weight))

/-- CTX_BOUND_CLEAR (R381, R417). -/
def execCtxBoundClear (ctx : BitVec 6) (s : State) : Res :=
  let c := s.ctx ctx.toNat
  .next (s.fwWrite 0x040 ctx.toNat (s.ctlBound ctx.toNat false c.part c.weight))

/-- CTX_WEIGHT_WRITE (R391). -/
def execCtxWeightWrite (ctx : BitVec 6) (w : BitVec 8) (s : State) : Res :=
  let c := s.ctx ctx.toNat
  .next (s.hostWrite 0x040 ctx.toNat (s.ctlBound ctx.toNat c.bound c.part w))

/-- STREAM_RESUME (R381). -/
def execStreamResume (ctx : BitVec 6) (s : State) : Res := .next (s.hostWrite 0x044 ctx.toNat 0x80)

/-- CTX_SPC_WRITE (R380). -/
def execCtxSpcWrite (ctx : BitVec 6) (x : DWord) (s : State) : Res :=
  .next (s.hostWrite 0x043 ctx.toNat x)

/-- STREAM_LIMIT_WRITE (R316). -/
def execStreamLimitWrite (ctx : BitVec 6) (x : DWord) (s : State) : Res :=
  .next (s.hostWrite 0x042 ctx.toNat x)

/-- ARENA_WRITE (R326): the base, then the size. -/
def execArenaWrite (ctx : BitVec 6) (base size : DWord) (s : State) : Res :=
  .next ((s.hostWrite 0x045 ctx.toNat base).hostWrite 0x046 ctx.toNat size)

/-- PART_CFG_WRITE (R381): by firmware. -/
def execPartCfgWrite (f : BitVec 4) (x : DWord) (s : State) : Res := .next (s.fwWrite 0x010 f.toNat x)

/-- CL_MODE_WRITE (R107, R383). -/
def execClModeWrite (cl : BitVec 4) (x : DWord) (s : State) : Res := .next (s.hostWrite 0x020 cl.toNat x)

/-- RESIDENCY_WRITE (R109, R111): a write of CTX_RES_CTL_n. -/
def execResidencyWrite (ctx : BitVec 6) (n : BitVec 3) (x : DWord) (s : State) : Res :=
  .next (s.hostWrite (0x051 + 2 * n.toNat) ctx.toNat x)

/-- HOST_QDONE (R476). -/
def execHostQdone (x : DWord) (s : State) : Res := .next (s.hostWrite 0x00B 0 x)

/-- HOST_QHEAD_WRITE (R477). -/
def execHostQheadWrite (x : DWord) (s : State) : Res := .next (s.hostWrite 0x00A 0 x)

/-- HOST_DOORBELL (R475). -/
def execHostDoorbell (f : BitVec 4) (s : State) : Res := .next (s.hostWrite 0x00C f.toNat 0)

/-- HOST_SIGPEND_CLEAR (R477). -/
def execHostSigpendClear (x : DWord) (s : State) : Res := .next (s.hostWrite 0x00D 0 x)

/-- HOST_IRQPEND_CLEAR (R477). -/
def execHostIrqpendClear (x : DWord) (s : State) : Res := .next (s.hostWrite 0x018 0 x)

/-- RILL_PAIR (R479): by firmware. -/
def execRillPair (s : State) : Res := .next (s.fwWrite 0x007 0 (BitVec.ofNat 64 (2 ^ 59)))

/-- RILL_UNPAIR (R480): by firmware. -/
def execRillUnpair (s : State) : Res := .next (s.fwWrite 0x007 0 (BitVec.ofNat 64 (2 ^ 58)))

/-- DEV_SKID_WRITE (R453): by firmware. -/
def execDevSkidWrite (x : DWord) (s : State) : Res := .next (s.fwWrite 0x006 0 x)

/-- SKID_ACTIVE (R453): way 15 has been emptied. -/
def execSkidActive (s : State) : Res :=
  .next (if s.dev.skidArm then { s with dev := { s.dev with skidActive := true } } else s)

/-- SKID_DISARM_APPLY (R453): a pending disarm, once no line is held. -/
def execSkidDisarmApply (s : State) : Res :=
  .next (if !s.dev.skidArm && s.dev.skidLines = 0 then
    { s with dev := { s.dev with skidActive := false } } else s)

/-- SKID_REPLY_CAPTURE (R457, R458). -/
def execSkidReplyCapture (cl : BitVec 4) (s : State) : Res := .next (s.skidCapture cl.toNat)

/-- DBG_CTL_WRITE (R454). -/
def execDbgCtlWrite (ctx : BitVec 6) (x : DWord) (s : State) : Res :=
  .next (s.hostWrite 0x110 ctx.toNat x)

/-- DBG_TRACE_BASE_WRITE (R464). -/
def execDbgTraceBaseWrite (ctx : BitVec 6) (x : DWord) (s : State) : Res :=
  .next (s.hostWrite 0x119 ctx.toNat x)

/-- DBG_RESUME (R459). -/
def execDbgResume (cl : BitVec 4) (s : State) : Res := .next (s.hostWrite 0x102 cl.toNat 1)

/-- The fields of DBG_CMD that name a wave (R459). -/
def cmdWord (x : SlotId) (lane op : Nat) : DWord :=
  BitVec.ofNat 64 (lane * 2 ^ 12 + x.slot.toNat * 2 ^ 6 + x.core.co.toNat * 2 ^ 3 + op)

/-- DBG_STEP (R461). -/
def execDbgStep (x : SlotId) (s : State) : Res :=
  .next (s.hostWrite 0x102 x.core.cl.toNat (cmdWord x 0 2))

/-- DBG_STEP_LANE (R462). -/
def execDbgStepLane (x : LaneId) (s : State) : Res :=
  .next (s.hostWrite 0x102 x.wave.core.cl.toNat (cmdWord x.wave x.lane.toNat 3))

/-- DBG_ARM_STOP (R463): by firmware. -/
def execDbgArmStop (s : State) : Res := .next (s.fwWrite 0x102 0 4)

/-- DBG_DISARM (R459): by firmware. -/
def execDbgDisarm (s : State) : Res := .next (s.fwWrite 0x102 0 5)

/-- STEP_COMPLETE (R461): the stepped wave has issued, in an earlier cc, and its instruction is complete or parks. -/
def execStepComplete (cl : BitVec 4) (s : State) : Res :=
  let now := match (s.cluster cl.toNat).dbg.step with
    | some (core, slot, _) => decide ((core, slot / 16) ∈ s.cc.issued)
    | none => false
  .next (if s.stepDone cl.toNat && !now && !s.dev.stopped then s.refreeze cl.toNat false else s)

/-- STEP_TIMEOUT (R461): no issue within 65,536 cc, or no wave in the slot. -/
def execStepTimeout (cl : BitVec 4) (s : State) : Res :=
  .next (if s.stepLate cl.toNat s.tick && !s.dev.stopped then s.refreeze cl.toNat true else s)

/-- PRECISE_STOP (R463). -/
def execPreciseStop (s : State) : Res := .next (if s.stopDue then s.preciseStop else s)

/-- SAMPLE_RECORD (R465): once the issue partition that the sample is about has issued in its cc. A sample that is not
written so is written as the cc ends. -/
def execSampleRecord (x : CoreId) (ctx : BitVec 6) (s : State) : Res :=
  let core := coreNum x
  let part := (s.ctx ctx.toNat).dbg.samplePart s.tick
  s.live (clusterOf core) <|
    .next (if s.inPart (s.partOf ctx.toNat) (clusterOf core) && (core, part) ∈ s.cc.issued then s.sample core ctx.toNat
      else s)

end Sys2Proof.Machine
end

