-- ==== Sys2Proof/Machine/Sched.lean ====
section
/-! DEFINITION. The distributor, the coherence engines' bins, the basins and waiting records (spec/17 R394 to
R404; spec/02 R25 to R30, R54, R55; spec/08 R229). -/

namespace Sys2Proof.Machine

/-! ### Room on a core (R394, R398) -/

/-- The end of the block area. -/
def Core.area (k : Core) : Nat := 2 ^ 20 - 65536 * min k.sarea 4

/-- Inserts an extent by its start. -/
def insertExtent (e : Nat × Nat) : List (Nat × Nat) → List (Nat × Nat)
  | [] => [e]
  | x :: t => if e.1 < x.1 then e :: x :: t else x :: insertExtent e t

/-- The scratchpad extents that are not to be had on a core, in rising order: those of the blocks placed there, and of
blocks that have left it in this cc (R405). -/
def State.extents (s : State) (core : Nat) : List (Nat × Nat) :=
  (s.blocksOn core).foldl (fun l b =>
    let n := (s.sizes b).1 + (s.sizes b).2
    if n = 0 then l else insertExtent (b.scratch, n) l) ((s.goneOn core).foldl (fun l a =>
      if a.size = 0 then l else insertExtent (a.scratch, a.size) l) [])

/-- The gaps between extents from an address to an end. -/
def gapsGo : List (Nat × Nat) → Nat → Nat → List (Nat × Nat)
  | [], a, stop => if a < stop then [(a, stop - a)] else []
  | e :: t, a, stop => (if a < e.1 then [(a, e.1 - a)] else []) ++ gapsGo t (max a (e.1 + e.2)) stop

/-- The free runs of a core's block area. -/
def State.freeRuns (s : State) (core : Nat) : List (Nat × Nat) :=
  gapsGo (s.extents core) 0 (s.core core).area

/-- The greatest contiguous free run. -/
def State.largestRun (s : State) (core : Nat) : Nat := (s.freeRuns core).foldl (fun n r => max n r.2) 0

/-- What a block needs of a core: bytes, granules and accumulator tiles. -/
structure Need where
  bytes : Nat
  granules : Nat
  tiles : Nat
deriving DecidableEq, Repr

/-- What a fresh block of a kernel needs. -/
def LaunchRec.need (r : LaunchRec) : Need :=
  { bytes := r.s + r.t, granules := r.regFloor, tiles := r.accFloor }

/-- The lowest run that holds some bytes. -/
def State.runFor (s : State) (core bytes : Nat) : Option Nat :=
  if bytes = 0 then some 0 else ((s.freeRuns core).find? fun r => bytes ≤ r.2).map Prod.fst

/-- A block fits a core. -/
def State.fitsCore (s : State) (core : Nat) (n : Need) : Bool :=
  (s.blocksOn core).length + (s.goneOn core).length < 16 && (s.runFor core n.bytes).isSome &&
  n.granules ≤ s.commonGranules core && n.tiles ≤ s.commonTiles core

/-- The core of a cluster a block goes to (R398). -/
def State.pickCore (s : State) (cl : Nat) (n : Need) : Option Nat :=
  ((natsFrom (8 * cl) 8).foldl (fun (o : Option (Nat × Nat)) c =>
    if !s.fitsCore c n then o
    else
      match o with
      | none => some (c, s.largestRun c)
      | some b => if b.2 < s.largestRun c then some (c, s.largestRun c) else some b) none).map Prod.fst

/-- The granules a wave holds. -/
def Wave.granules (w : Wave) : Nat := granulesOf (w.lanes.map Prod.snd)

/-- What a lifted block needs of a core (R52): its scratchpad, its floors, its saved threads' registers and
its crews' tiles. -/
def State.needOf (s : State) (b : Block) : Need :=
  let held := b.swaves.foldl (fun n w => n + w.granules) 0 +
    b.sbasins.foldl (fun n x => n + granulesOf x.threads) 0
  { bytes := (s.sizes b).1 + (s.sizes b).2, granules := max (s.floorOf b) held
    tiles := max (s.accFloorOf b) (b.screws.foldl (fun n e => n + e.2.tiles.length) 0) }

/-- A core can hold a lifted block, its crew ids among the rest. A ray batch's part counts as none of its sixteen
blocks (R41). -/
def State.canHold (s : State) (core : Nat) (b : Block) : Bool :=
  let n := s.needOf b
  (if s.isBatch b then n.granules ≤ s.commonGranules core && n.tiles ≤ s.commonTiles core else s.fitsCore core n) &&
  (s.core core).crews.length + b.screws.length ≤ 64

/-- The core a lifted block returns to (R52). -/
def State.homeFor (s : State) (b : Block) : Option Nat :=
  if s.canHold b.core b then some b.core
  else
    ((natsFrom (8 * clusterOf b.core) 8).foldl (fun (o : Option (Nat × Nat)) c =>
      if !s.canHold c b then o
      else
        match o with
        | none => some (c, s.largestRun c)
        | some y => if y.2 < s.largestRun c then some (c, s.largestRun c) else some y) none).map Prod.fst

/-! ### Blocks and their threads (R14, R39, R92, R345) -/

/-- A block as it is placed. -/
def Block.fresh (uid kid idx gang core scratch tick pos : Nat) (threads : List Nat) : Block :=
  { uid := uid, kid := kid, idx := idx, gangUid := gang, core := core, scratch := scratch, placed := true
    lifted := false, tl := [], st := [], lines := [], stage := 0, stagePc := [], stageIssued := 0, bars := [], soft := []
    live := threads.map fun t => (t, 1#16), age := tick, formed := pos, spilledAt := 0, done := []
    sbytes := [], sempty := [], swaves := [], sbasins := [], screws := [], scopies := [] }

/-- Every byte of an allocation reads zero and every line of it is full (R92, R97). -/
def Core.clearArea (k : Core) (a n : Nat) : Core :=
  { k with
    scratch := k.scratch.filter fun e => !(a ≤ e.1 && e.1 < a + n)
    smarks := k.smarks.filter fun e => !(a ≤ e.1 && e.1 < a + n)
    empty := k.empty.filter fun l => !(a ≤ 128 * l && 128 * l < a + n) }

/-- Places a block on a core, with its reservation. Its threads take the numbers after its own. -/
def State.addBlock (s : State) (kid idx gang core : Nat) (r : LaunchRec) : State :=
  let uid := s.uids
  let a := (s.runFor core (r.s + r.t)).getD 0
  let b := Block.fresh uid kid idx gang core a s.tick s.mem.pos (natsFrom (uid + 1) r.threads)
  { s with
    uids := uid + 1 + r.threads
    blocks := Table.put s.blocks uid b
    cores := listUpd s.cores core fun k => k.clearArea a (r.s + r.t) }

/-- The index of thread n of a block (R21): x fastest (R14). -/
def threadIdx (r : LaunchRec) (n : Nat) : Word :=
  let x := n % r.bdx
  let y := n / r.bdx % r.bdy
  let z := n / (r.bdx * r.bdy)
  BitVec.ofNat 32 (x + 1024 * y + 1048576 * z)

/-- A thread's record at launch (R345): v0 to v3 within the carry count, everything else zero. -/
def launchThread (g : Grid) (uid blockUid idx : Nat) (tidx : Word) (carry : Nat) (ray : Option RayPart) :
    Thread :=
  let v : Table Word :=
    [(0, BitVec.ofNat 32 g.argAddr), (1, BitVec.ofNat 32 (g.argAddr / 2 ^ 32)), (2, BitVec.ofNat 32 idx),
     (3, tidx)]
  { uid := uid, kid := g.kid, blockUid := blockUid, index := idx, tidx := tidx, base := g.lrec.base
    claimed := 0, v := v.filter fun e => e.1 < carry, p := 0, flags := [], facq := [], depth := 0
    key := none, pend := [], batch := 1, episode := 0, view := g.view, rel := [], seen := [], st := .run
    pc := g.lrec.entry, ckey := 0, cause := 0, wait := 0, spilled := false, oslot := 0, filedAt := 0, alane := 0
    crewRef := none
    ray := ray }

/-- Writes the records of a placed block into its cluster's Cistern (R398). -/
def State.fileBlock (s : State) (g : Grid) (uid idx cl : Nat) : State :=
  (natsFrom 0 g.lrec.threads).foldl (fun s n =>
    s.file cl (launchThread g (uid + 1 + n) uid idx (threadIdx g.lrec n) g.lrec.carry none)) s

/-! ### Gangs (R395 to R398) -/

/-- The linear indices of a grid's next n blocks. -/
def Grid.nextBlocks (g : Grid) (n : Nat) : List Nat := natsFrom g.next (min n (g.count - g.next))

/-- The blocks of a gang one after another on a cluster, each counted before the next; nothing when one
finds no core. -/
def placeBlocks (g : Grid) (gang cl : Nat) : List Nat → State → Option State
  | [], s => some s
  | i :: t, s =>
    match s.pickCore cl g.lrec.need with
    | none => none
    | some c => placeBlocks g gang cl t (s.addBlock g.kid i gang c g.lrec)

/-- The blocks of a gang that find no core of a cluster (R397). -/
def missingBlocks (g : Grid) (cl : Nat) : List Nat → State → Nat
  | [], _ => 0
  | i :: t, s =>
    match s.pickCore cl g.lrec.need with
    | none => 1 + missingBlocks g cl t s
    | some c => missingBlocks g cl t (s.addBlock g.kid i 0 c g.lrec)

/-- The machine with every core empty. -/
def State.emptied (s : State) : State :=
  { s with blocks := [], cc := ThisCc.zero, cores := s.cores.map fun k => { Core.reset with sarea := k.sarea } }

/-- A gang of n blocks fits an empty cluster of a partition (R399). -/
def State.fitsEmpty (s : State) (f : Nat) (g : Grid) (n : Nat) : Bool :=
  (s.clustersOf f).any fun cl => (placeBlocks g 0 cl (natsFrom 0 n) s.emptied).isSome

/-- A block of a context waits on a cluster for restore (R447). -/
def State.waitsRestore (s : State) (ctx cl : Nat) : Bool :=
  s.blocks.any fun e => !e.2.placed && clusterOf e.2.core = cl &&
    ((Table.get? s.grids e.2.kid).map Grid.ctx).getD 64 = ctx

/-- The free wave slots of a cluster. -/
def State.slotsOf (s : State) (cl : Nat) : Nat :=
  (natsFrom (8 * cl) 8).foldl (fun n c => n + s.freeSlots c) 0

/-- A gang may be placed on a cluster: it is not frozen, nor reserved for another grid, holds no block of the
context that waits for restore, and has room for the records. -/
def State.mayPlace (s : State) (f : Nat) (g : Grid) (n cl : Nat) : Bool :=
  !(s.cluster cl).dbg.frozen && !s.waitsRestore g.ctx cl && s.canFile cl g.ctx (n * g.lrec.threads) &&
  (match (s.part f).reserved with
    | some (k, c) => k = g.kid || c != cl
    | none => true)

/-- The cluster a gang of n blocks goes to, with the state that has its blocks placed. -/
def State.gangSite (s : State) (f : Nat) (g : Grid) (n : Nat) : Option (Nat × State) :=
  let gang := s.uids
  let s0 := { s with uids := gang + 1 }
  let bs := g.nextBlocks n
  ((s.clustersOf f).filter fun cl => s.mayPlace f g bs.length cl).foldl
    (fun (o : Option (Nat × State)) cl =>
      match placeBlocks g gang cl bs s0 with
      | none => o
      | some s1 =>
        match o with
        | none => some (cl, s1)
        | some x => if s.slotsOf x.1 < s.slotsOf cl then some (cl, s1) else some x) none

/-- Places the next gang of a grid with n blocks; nothing when it fits no cluster. -/
def State.placeGang (s : State) (f : Nat) (g : Grid) (n : Nat) : Option State :=
  match s.gangSite f g n with
  | none => none
  | some (cl, s1) =>
    let gang := s.uids
    let uids := (s1.blocks.filter fun e => e.2.gangUid = gang && e.2.kid = g.kid).map fun e => (e.1, e.2.idx)
    let gg : Gang :=
      { uid := gang, kid := g.kid, cluster := cl, blocks := uids.map Prod.fst, bars := []
        formed := s.mem.pos }
    let s2 := { s1 with gangs := Table.put s1.gangs gang gg }
    let s3 := uids.foldl (fun s u => s.fileBlock g u.1 u.2 cl) s2
    let s4 := s3.updGrid g.kid fun g => { g with
      next := g.next + uids.length, gangs := g.gangs + 1, blocks := g.blocks ++ uids.map Prod.fst
      waitFrom := s.tick, failed := none, expired := false, bonus := 0 }
    let s5 := s4.updPart f fun p => { p with
      reserved := if (p.reserved.map Prod.fst) = some g.kid then none else p.reserved }
    some (if g.next = 0 then s5.trace g.ctx 3 0xFF 0xFF 0 g.seq else s5)

/-! ### The order of events in a cc (R405) -/

/-- The order of a cc has come this far: what stands before it does not happen in the cc any more. -/
def State.orderTo (s : State) (n : Nat) : State := { s with cc := { s.cc with order := max s.cc.order n } }

/-! ### The order of pending gangs (R397) -/

/-- The effective priority of a grid's pending gang. -/
def Grid.prio (g : Grid) : Nat := min 7 (g.lrec.prio + g.bonus)

/-- The order of the distributor. -/
def Grid.before (a b : Grid) : Bool :=
  b.prio < a.prio || (a.prio = b.prio &&
    (a.issue < b.issue || (a.issue = b.issue &&
      (a.ctx < b.ctx || (a.ctx = b.ctx && a.kid < b.kid)))))

/-- Inserts a grid into the order. -/
def insertGrid (g : Grid) : List Grid → List Grid
  | [] => [g]
  | x :: t => if g.before x then g :: x :: t else x :: insertGrid g t

/-- A grid with a gang still to place, whose context runs on a partition. -/
def State.pendingGrid (s : State) (f : Nat) (g : Grid) : Bool :=
  !g.ray && !g.ended && !g.ending && g.next < g.count && (s.ctx g.ctx).st = .running && s.partOf g.ctx = f

/-- The pending gangs of a partition in their order. -/
def State.pendingOf (s : State) (f : Nat) : List Grid :=
  (s.grids.filter fun e => s.pendingGrid f e.2).foldl (fun l e => insertGrid e.2 l) []

/-- Changes every grid with a pending gang. -/
def State.updPending (s : State) (f : Nat) (u : Grid → Grid) : State :=
  { s with grids := s.grids.map fun e => if s.pendingGrid f e.2 then (e.1, u e.2) else e }

/-- Each full 65,536 cc of waiting raises a gang's effective priority by one. -/
def State.ageGangs (s : State) (f : Nat) : State :=
  s.updPending f fun g => { g with bonus := max g.bonus ((s.tick - g.waitFrom) / 65536) }

/-- 2,048 cc after its first failure a pending gang may take the fallback size (R396). -/
def State.expireGangs (s : State) (f : Nat) : State :=
  s.updPending f fun g => { g with
    expired := g.expired || (match g.failed with
      | some t => t + 2048 ≤ s.tick
      | none => false) }

/-- GANG_PRIORITY_AGE (R397). -/
def execGangPriorityAge (part : BitVec 4) (s : State) : Res :=
  .next (if s.dev.stopped then s else s.ageGangs part.toNat)

/-- GANG_FALLBACK_EXPIRY (R396). -/
def execGangFallbackExpiry (part : BitVec 4) (s : State) : Res :=
  .next (if s.dev.stopped then s else s.expireGangs part.toNat)

/-- The record of an unplaceable grid (R399). -/
def State.unplaceable (s : State) (g : Grid) : State :=
  let root := (Table.get? s.grids g.root).getD g
  s.endGrid g.kid 0xFF { FaultRec.blank 1 s.tick with
    cause := 14, ctx := BitVec.ofNat 8 g.ctx, src := 4, pc := BitVec.ofNat 64 root.pc.toNat }

/-- The preferred size never fits (R396); a grid of fewer blocks counts as one gang of them. -/
def State.prefNever (s : State) (f : Nat) (g : Grid) : Bool := !s.fitsEmpty f g (min g.lrec.gp g.count)

/-- Tests a child at its first consideration (R399). -/
def State.testGrid (s : State) (f : Nat) (g : Grid) : State :=
  if g.tested then s
  else
    let s1 := s.updGrid g.kid fun g => { g with tested := true }
    if s.fitsEmpty f g (min g.lrec.gf g.count) then s1 else s1.unplaceable g

/-- A partition has placed its gang of this cc. -/
def State.notePlaced (s : State) (f : Nat) : State := { s with cc := { s.cc with gangs := f :: s.cc.gangs } }

/-- Tries the pending gangs in order and places the first that fits; the others tried have failed. -/
def tryGangs (f : Nat) : List Grid → State → State
  | [], s => s
  | g0 :: t, s =>
    let s1 := s.testGrid f g0
    match Table.get? s1.grids g0.kid with
    | none => tryGangs f t s1
    | some g =>
      if g.ending then tryGangs f t s1
      else
        let never := s1.prefNever f g
        match (if never then none else s1.placeGang f g g.lrec.gp) with
        | some s2 => s2.notePlaced f
        | none =>
          let s2 := s1.updGrid g.kid fun g => { g with failed := g.failed.or (some s.tick) }
          if never || g.expired then
            match s2.placeGang f { g with failed := g.failed.or (some s.tick) } g.lrec.gf with
            | some s3 => s3.notePlaced f
            | none => tryGangs f t s2
          else tryGangs f t s2

/-- A reservation for a grid that no longer waits ends. -/
def State.checkReserved (s : State) (f : Nat) : State :=
  s.updPart f fun p => { p with
    reserved := match p.reserved with
      | some (k, c) =>
        match Table.get? s.grids k with
        | some g => if s.pendingGrid f g then some (k, c) else none
        | none => none
      | none => none }

/-- GANG_PLACEMENT (R397): at most one gang of a partition in a cc, before the cc's dispatches (R405). -/
def execGangPlacement (part : BitVec 4) (s : State) : Res :=
  let f := part.toNat
  if s.dev.stopped || !(s.part f).valid || 1 < s.cc.order || f ∈ s.cc.gangs then .next s
  else
    let s1 := (((s.ageGangs f).expireGangs f).checkReserved f).orderTo 1
    .next (tryGangs f (s1.pendingOf f) s1)

/-- CLUSTER_RESERVATION (R397): for the head, the cluster with the fewest blocks missing. -/
def execClusterReservation (part : BitVec 4) (s : State) : Res :=
  let f := part.toNat
  if s.dev.stopped || !(s.part f).valid then .next s
  else
    let s1 := (s.ageGangs f).checkReserved f
    match s1.pendingOf f with
    | [] => .next s1
    | g :: _ =>
      if g.waitFrom + 8192 ≤ s.tick && (s1.part f).reserved.isNone then
        let n := if s1.prefNever f g then g.lrec.gf else g.lrec.gp
        let best := (s1.clustersOf f).foldl (fun (o : Option (Nat × Nat)) cl =>
          let m := missingBlocks g cl (g.nextBlocks n) s1
          match o with
          | none => some (cl, m)
          | some b => if m < b.2 then some (cl, m) else some b) none
        match best with
        | some b => .next (s1.updPart f fun p => { p with reserved := some (g.kid, b.1) })
        | none => .next s1
      else .next s1

/-! ### Fairness between contexts (R393) -/

/-- Work of a context has waited 2^20 cc for resources: a gang, a spilled block, a tile task that lacks an accumulator
tile, or one that no dependency table has taken. -/
def State.starved (s : State) (f c : Nat) : Bool :=
  let long (t : Nat) : Bool := t + 2 ^ 20 ≤ s.tick
  (s.ctx c).st = .running &&
  ((s.grids.any fun e => e.2.ctx = c && s.pendingGrid f e.2 && long e.2.waitFrom) ||
   (s.blocks.any fun e => !e.2.placed && long e.2.spilledAt && s.ctxOfKid e.2.kid = c) ||
   (s.cores.any fun k => k.deps.any fun e => e.2.ctx = c && k.wantsTile e.2 && long e.2.waitFrom) ||
   (s.ctx c).stream.win.any fun e => e.st = .issued && !e.tiles.isEmpty && long e.issueTick)

/-- The machine as it would be if other contexts held nothing of it. -/
def State.alone (s : State) (c : Nat) : State :=
  let mine (kid : Nat) : Bool := s.ctxOfKid kid = c
  let rec' (t : Thread) : Bool := mine t.kid
  let core (k : Core) : Core :=
    { k with
      waves := k.waves.filter fun e => e.2.ctx = c, basins := k.basins.filter fun e => mine e.2.key.kid
      crews := k.crews.filter fun e => mine e.2.kid, deps := k.deps.filter fun e => e.2.ctx = c }
  let cluster (k : Cluster) : Cluster :=
    { k with
      unbinned := k.unbinned.filter rec', waiting := k.waiting.filter rec', bins := k.bins.filter fun e => mine e.2.kid
      rotated := k.rotated.filter fun e => e.wave.ctx = c }
  { s with
    blocks := s.blocks.filter fun e => mine e.2.kid, cores := s.cores.map core, clusters := s.clusters.map cluster
    parts := s.parts.map fun p => { p with reserved := none }, cc := ThisCc.zero }

/-- Work of a context that has waited so long could go on now if other contexts held nothing: a gang or a spilled block
finds a place, or a tile task has an accumulator tile or a place in a dependency table to take. -/
def State.keptOut (s : State) (f c : Nat) : Bool :=
  let t := s.alone c
  let long (n : Nat) : Bool := n + 2 ^ 20 ≤ s.tick
  let others (k : Core) : Bool := k.deps.any fun e => e.2.ctx != c
  let fits (s : State) (g : Grid) : Bool :=
    (s.placeGang f g (if s.prefNever f g || g.expired then g.lrec.gf else g.lrec.gp)).isSome
  (s.ctx c).st = .running &&
  ((s.grids.any fun e => e.2.ctx = c && s.pendingGrid f e.2 && long e.2.waitFrom && !fits s e.2 && fits t e.2) ||
   (s.blocks.any fun e => !e.2.placed && long e.2.spilledAt && s.ctxOfKid e.2.kid = c && (s.homeFor e.2).isNone &&
      (t.homeFor e.2).isSome) ||
   ((natsFrom 0 s.cores.length).any fun n => (s.core n).deps.any fun e =>
      e.2.ctx = c && (s.core n).wantsTile e.2 && long e.2.waitFrom && s.commonTiles n = 0 && t.commonTiles n != 0) ||
   ((s.ctx c).stream.win.any fun e => e.st = .issued && !e.tiles.isEmpty && long e.issueTick) &&
      (s.clustersOf f).any fun cl => (natsFrom (8 * cl) 8).any fun n => others (s.core n))

/-- A tile task that lacks anything but an accumulator tile has not begun to wait for one (R393). -/
def Core.tickTiles (k : Core) (next : Nat) : Core :=
  { k with deps := k.deps.map fun e =>
      if k.wantsTile e.2 then e else (e.1, { e.2 with waitFrom := next }) }

/-- The running context, other than one, with the greatest ratio of cc run to WEIGHT. -/
def State.longestRun (s : State) (f a : Nat) : Option Nat :=
  ((s.runningIn f).filter fun c => c != a).foldl (fun (o : Option Nat) c =>
    match o with
    | none => some c
    | some b =>
      let x := s.ctx c
      let y := s.ctx b
      if (s.tick - y.runFrom) * x.w ≤ (s.tick - x.runFrom) * y.w then some c else some b) none

/-- CONTEXT_FAIRNESS_STOP (R393): for the lowest context whose work others keep out. -/
def execContextFairnessStop (part : BitVec 4) (s : State) : Res :=
  let f := part.toNat
  if s.dev.stopped || s.dev.func.getLsbD 1 || (s.part f).stopped.isSome then .next s
  else
    match (s.runningIn f).find? fun c => s.keptOut f c with
    | none => .next s
    | some a =>
      match s.longestRun f a with
      | none => .next s
      | some b =>
        .next (((s.reqStop b).updCtx b fun x => { x with byDevice := true }).updPart f fun p =>
          { p with stopped := some (a, b, 0) })

/-- CONTEXT_FAIRNESS_RUN (R393): the work that waited has been placed, or the time is over. The third part of `stopped` is one more than the tick at which the context
became saved, or zero before. -/
def execContextFairnessRun (part : BitVec 4) (s : State) : Res :=
  let f := part.toNat
  if s.dev.stopped then .next s
  else
    match (s.part f).stopped with
    | none => .next s
    | some (a, b, t) =>
      if ((s.ctx a).st = .running && !s.starved f a) || (t != 0 && t + 2 ^ 20 ≤ s.tick + 1) then
        let s1 := s.updPart f fun p => { p with stopped := none }
        .next (if (s.ctx b).byDevice && !s.dev.func.getLsbD 1 then s1.reqRun b else s1)
      else .next s

/-! ### Bins (R25 to R27, R401, R402) -/

/-- A grid's threads may run: its context runs and it is not ending. -/
def State.runs (s : State) (kid : Nat) : Bool :=
  match Table.get? s.grids kid with
  | some g => !g.ending && (s.ctx g.ctx).st = .running
  | none => false

/-- A full or aged bin (R26). -/
def Bin.eligible (b : Bin) : Bool := b.recs.length ≥ 32 || b.crew.isSome || b.aged

/-- BIN_AGED (R26). -/
def execBinAged (x : ClItem) (s : State) : Res :=
  let cl := x.cl.toNat
  s.live cl <|
  match Table.get? (s.cluster cl).bins x.n, s.partAt cl with
  | some b, some f =>
    if (s.part f).binLimit < (s.cluster cl).clock - b.opened then
      .next (s.updCluster cl fun c => { c with
        bins := Table.upd c.bins x.n fun b => { b with aged := true } })
    else .next s
  | _, _ => .next s

/-- A target has a free wave slot (R401), one that was freed in this cc among them (R23). -/
def State.targetFree (s : State) (cl : Nat) : Target → Bool
  | .core n => (s.core n).waves.length < 64
  | .cluster => (natsFrom (8 * cl) 8).any fun n => (s.core n).waves.length < 64
  | .treelet _ => false

/-- The end of a cc for the bins of a cluster: one whose target has no free slot counts anew, and one whose target has
had one at the end of 64 cc is marked aged, and so issues from the next cc. -/
def State.starveBins (s : State) (cl : Nat) : State :=
  let one (clock : Nat) (b : Bin) : Bin :=
    match b.target with
    | .treelet _ => b
    | _ =>
      if !s.targetFree cl b.target then { b with starve := clock }
      else if b.starve + 64 ≤ clock then { b with aged := true } else b
  s.updCluster cl fun c => { c with bins := c.bins.map fun e => (e.1, one c.clock e.2) }

/-- BIN_STARVED (R401): the mark of a bin whose 64 cc have ended (`State.starveBins` makes it as the last one ends). -/
def execBinStarved (x : ClItem) (s : State) : Res :=
  let cl := x.cl.toNat
  s.live cl <|
  match Table.get? (s.cluster cl).bins x.n with
  | some b =>
    if s.targetFree cl b.target && b.starve + 64 < (s.cluster cl).clock then
      .next (s.updCluster cl fun c => { c with
        bins := Table.upd c.bins x.n fun b => { b with aged := true } })
    else .next s
  | none => .next s

/-- Granules can be had for a dispatch on a core (R47): from the blocks' own floors at once, else while no
register claim waits. -/
def State.granulesFit (s : State) (core : Nat) (a : Ask) : Bool :=
  s.beyond core false a = 0 || ((s.claims core false).isEmpty && s.meets core false a)

/-- The granules the base registers of some records need. -/
def baseAsk (ts : List Thread) : Ask := askOf ts fun t => t.base / 8

/-- The blocks of some records stand on a core. -/
def State.standsOn (s : State) (core : Nat) (ts : List Thread) : Bool :=
  ts.all fun t => match s.blockOf t with
    | some b => b.stands && b.core = core
    | none => true

/-- A bin can be dispatched to a core. -/
def State.binFits (s : State) (core : Nat) (b : Bin) : Bool :=
  (s.newSlot core).isSome && s.granulesFit core (baseAsk b.recs) && s.standsOn core b.recs

/-- The coherence engine of a cluster can dispatch to a core in this cc (R400): it has dispatched fewer than two waves,
and none to the core. -/
def State.maySend (s : State) (core : Nat) : Bool :=
  (s.cc.sent.filter fun c => clusterOf c = clusterOf core).length < 2 && !(core ∈ s.cc.sent)

/-- The core a bin goes to (R27): of those that the engine can still dispatch to in this cc. -/
def State.binCore (s : State) (cl : Nat) (b : Bin) : Option Nat :=
  match b.target with
  | .core n => if s.binFits n b then some n else none
  | .cluster => ((natsFrom (8 * cl) 8).foldl (fun (o : Option (Nat × Nat)) c =>
      if !s.binFits c b || !s.maySend c then o
      else
        match o with
        | none => some (c, s.freeSlots c)
        | some y => if y.2 < s.freeSlots c then some (c, s.freeSlots c) else some y) none).map Prod.fst
  | .treelet _ => none

/-- What a saved wave needs of a core's registers. -/
def Wave.ask (w : Wave) : Ask := askOf (w.lanes.map Prod.snd) Thread.granules

/-- The crew of a wave, where it has one, stands on a core. -/
def State.crewStands (s : State) (core : Nat) (w : Wave) : Bool :=
  match w.crew with
  | none => true
  | some id => match Table.get? (s.core core).crews id with
    | some c => w.lanes.any fun e => e.2.crewRef.map CrewRef.uid = some c.uid
    | none => false

/-- A saved wave can return to a core: there is a slot, and granules, which a wave that a restore has reserved them for
has already (R52); its blocks and its crew stand there. -/
def State.waveFits (s : State) (core : Nat) (r : SavedWave) : Bool :=
  (s.newSlot core).isSome && ((r.held && r.core = core) || s.granulesFit core r.wave.ask) &&
  s.standsOn core (r.wave.lanes.map Prod.snd) && s.crewStands core r.wave

/-- The core a saved wave returns to (R52): the one it left, or, where that cannot hold it and it is no block's and no
crew's, another. -/
def State.returnTo (s : State) (r : SavedWave) (core : Nat) : Nat :=
  let free := !r.held && r.wave.crew.isNone && r.wave.lanes.all fun l => l.2.ray.isSome
  if s.waveFits r.core r || !free then r.core else core

/-- A saved wave can return in this cc, to the core it left or to another. -/
def State.mayReturn (s : State) (r : SavedWave) (core : Nat) : Bool :=
  s.runs r.wave.kid && s.waveFits (s.returnTo r core) r && s.maySend (s.returnTo r core)

/-- The time a bin and a saved wave have, by which they go in order of age (R54): since the bin opened, on its cluster's
clock, and since the wave first took a slot (DESIGN CHOICE, log 121). -/
def State.binTime (s : State) (cl : Nat) (b : Bin) : Nat := (s.cluster cl).clock - b.opened
def State.waveTime (s : State) (r : SavedWave) : Nat := s.tick - r.wave.age

/-- A bin may issue: eligible, its records all in slots (R402), its grid running. -/
def State.binReady (s : State) (b : Bin) : Bool :=
  b.eligible && s.runs b.kid && b.recs.all fun t => !t.spilled

/-- The wave of a bin: lanes in order of entry, or crew lanes. -/
def Bin.wave (b : Bin) (ctx tick clock : Nat) : Wave :=
  let w := Wave.ofThreads ctx b.kid b.pc b.recs tick clock
  let lanes : Table Thread := match b.crew with
    | none => w.lanes
    | some _ => b.recs.foldl (fun t r =>
        Table.put t ((r.crewRef.map CrewRef.lane).getD 0) { r with st := .run }) []
  { w with lanes := lanes, crew := b.crew, resident := false, elevated := b.aged, newborn := true }

/-- A coherence engine dispatches a wave to a core in this cc. -/
def State.noteSent (s : State) (core : Nat) : State :=
  ({ s with cc := { s.cc with sent := core :: s.cc.sent } }).orderTo 2

/-- Dispatches a bin to a core (R469: a class-1 event). -/
def State.dispatchBin (s : State) (cl n core : Nat) (b : Bin) : State :=
  match s.newSlot core with
  | none => s
  | some slot =>
    let ctx := ((Table.get? s.grids b.kid).map Grid.ctx).getD 0
    let w := b.wave ctx s.tick (s.cluster cl).clock
    let s1 := ((s.noteTaken core false (baseAsk b.recs)).noteSent core).updCluster cl fun c =>
      { c with bins := Table.del c.bins n }
    let s2 := s1.updCore core fun k => { k with
      waves := Table.put k.waves slot w, deadFrom := s.tick }
    s2.event ctx cl 1 (b.pc.toNat :: b.ckey.toNat :: b.recs.map fun t => t.index) 0 0

/-- A bin can be dispatched in this cc. -/
def State.binGoes (s : State) (cl : Nat) (b : Bin) : Bool :=
  s.binReady b && (match s.binCore cl b with
    | some c => s.maySend c
    | none => false)

/-- A rotated wave of a cluster can return that has more time than some entry, and so goes before it (R54). -/
def State.waveFirst (s : State) (cl n : Nat) : Bool :=
  (s.cluster cl).rotated.any fun r => n < s.waveTime r && (natsFrom (8 * cl) 8).any fun c => s.mayReturn r c

/-- BIN_ISSUE (R26, R27, R400): of the bins of a cluster that can issue, the oldest, of whatever target, and of the
rotated waves (R54), before the cc's issues (R405). -/
def execBinIssue (x : ClItem) (s : State) : Res :=
  let cl := x.cl.toNat
  s.live cl <|
  match Table.get? (s.cluster cl).bins x.n with
  | none => .next s
  | some b =>
    match s.binCore cl b with
    | none => .next s
    | some core =>
      let older := (s.cluster cl).bins.any fun e => e.2.opened < b.opened && s.binGoes cl e.2
      if s.cc.order ≤ 2 && s.binGoes cl b && !older && !s.waveFirst cl (s.binTime cl b) then
        .next (s.dispatchBin cl x.n core b)
      else .next s

/-- DISPATCH_COMPLETE (R58). -/
def execDispatchComplete (x : SlotId) (s : State) : Res :=
  let core := coreNum x.core
  s.live (clusterOf core) <|
  .next (s.updCore core fun k => { k with
    waves := Table.upd k.waves x.slot.toNat fun w =>
      if w.resident then w
      else { w with resident := true, since := (s.cluster (clusterOf core)).clock } })

/-- RECORD_BINNED (R25): unbinned records enter bins in their order of arrival, a crew's as one unit. -/
def execRecordBinned (c4 : BitVec 4) (s : State) : Res :=
  let cl := c4.toNat
  s.live cl <|
  match (s.cluster cl).unbinned with
  | [] => .next s
  | t :: rest =>
    match t.crewRef with
    | none =>
      match ({ s.cluster cl with unbinned := rest }).bin t (s.targetOf t) with
      | some c => .next (s.updCluster cl fun _ => c)
      | none => .next s
    | some r =>
      let mine (u : Thread) : Bool := (u.crewRef.map CrewRef.uid) = some r.uid
      let ts := (t :: rest).filter mine
      match ({ s.cluster cl with unbinned := rest.filter fun u => !mine u }).openBin ts (s.targetOf t)
          (some r.id) with
      | some c => .next (s.updCluster cl fun _ => c)
      | none => .next s

/-- The spilled record that returns next (R402): one of the oldest eligible bin, else the one filed
earliest. -/
def Cluster.nextBack (c : Cluster) : Option Nat :=
  let bin := c.bins.foldl (fun (o : Option Bin) e =>
    if e.2.eligible && e.2.recs.any fun t => t.spilled then
      match o with
      | none => some e.2
      | some y => if e.2.opened < y.opened then some e.2 else some y
    else o) none
  match bin with
  | some b => (b.recs.find? fun t => t.spilled).map Thread.uid
  | none =>
    ((c.unbinned ++ c.waiting ++ c.bins.flatMap fun e => e.2.recs).foldl (fun (o : Option Thread) t =>
      if !t.spilled then o
      else
        match o with
        | none => some t
        | some y => if t.filedAt < y.filedAt then some t else some y) none).map Thread.uid

/-- SPILLED_RECORD_RETURN (R402). -/
def execSpilledRecordReturn (c4 : BitVec 4) (s : State) : Res :=
  let cl := c4.toNat
  s.live cl <|
  let c := s.cluster cl
  match c.nextBack with
  | none => .next s
  | some u =>
    if c.slotsUsed ≥ 32768 then .next s
    else
      let back (t : Thread) : Thread := if t.uid = u then { t with spilled := false, oslot := 0 } else t
      let bin (e : Nat × Bin) : Nat × Bin := (e.1, { e.2 with recs := e.2.recs.map back })
      .next (s.updCluster cl fun c => { c with
        unbinned := c.unbinned.map back, waiting := c.waiting.map back, bins := c.bins.map bin })

/-! ### Basins (R28 to R30, R59) -/

/-- LANE_FILED (R28): a leaving lane whose flags are clear; what it still has outstanding without one completes first. -/
def execLaneFiled (x : LaneId) (s0 : State) : Res :=
  let core := coreNum x.wave.core
  let slot := x.wave.slot.toNat
  let lane := x.lane.toNat
  s0.live (clusterOf core) <|
  match Table.get? (s0.core core).waves slot with
  | none => .next s0
  | some w0 =>
    let out := match Table.get? w0.lanes lane with
      | some t => t.flagsClear && s0.outstanding core slot [t.uid]
      | none => false
    let s := if out then s0.settle core slot ((w0.lanes.filter fun e => e.1 = lane).map fun e => e.2.uid) else s0
    let w := (Table.get? (s.core core).waves slot).getD w0
    match Table.get? w.lanes lane with
    | none => .next s
    | some t =>
      match t.st with
      | .leaving pc rcv =>
        if !t.flagsClear || s.outstanding core slot [t.uid] then .next s
        else
          match s.fileBasin core t pc rcv with
          | none => .next (s.updCore core Core.forceOldest)
          | some s1 =>
            let h : Here := { wave := w, core := core, slot := slot, hand := none }
            .next (s1.putWave h (w.dropLanes [lane]))
      | _ => .next s

/-- BASIN_AGED (R29, R33). -/
def execBasinAged (x : CoreItem) (s : State) : Res :=
  let core := coreNum x.core
  let cl := clusterOf core
  s.live cl <|
  match Table.get? (s.core core).basins x.n, s.partAt cl with
  | some b, some f =>
    if (s.part f).basinLimit < (s.cluster cl).clock - b.opened then
      .next (s.updCore core fun k => { k with
        basins := Table.upd k.basins x.n fun b => { b with eligible := true } })
    else .next s
  | _, _ => .next s

/-- Draws a basin into a new wave, elevated where the basin has aged (R55). -/
def State.drawBasin (s : State) (core n slot : Nat) (b : Basin) : State :=
  let cl := clusterOf core
  let ctx := ((Table.get? s.grids b.key.kid).map Grid.ctx).getD 0
  let clock := (s.cluster cl).clock
  let w := Wave.ofThreads ctx b.key.kid b.key.pc b.threads s.tick clock
  let aged := match s.partAt cl with
    | some f => decide ((s.part f).basinLimit < clock - b.opened)
    | none => false
  let s1 := (s.orderTo 2).updCore core fun k => { k with
    basins := Table.del k.basins n, deadFrom := s.tick
    waves := Table.put k.waves slot { w with elevated := aged, newborn := true } }
  s1.event ctx cl 1 (b.key.pc.toNat :: 0 :: b.threads.map fun t => t.index) 0 0

/-- BASIN_DRAW (R29): the oldest eligible basin, before the cc's issues (R405). -/
def execBasinDraw (x : CoreItem) (s : State) : Res :=
  let core := coreNum x.core
  s.live (clusterOf core) <|
  match Table.get? (s.core core).basins x.n, s.newSlot core with
  | some b, some slot =>
    let older (y : Basin) : Bool := y.eligible && y.opened < b.opened && s.runs y.key.kid
    if s.cc.order ≤ 2 && b.eligible && s.runs b.key.kid && !(s.core core).basins.any fun e => older e.2 then
      .next (s.drawBasin core x.n slot b)
    else .next s
  | _, _ => .next s

/-! ### Ready waves (R23, R43, R54, R55, R404) -/

/-- The context of a wave lets it issue: it runs, or it is stopping and the wave is a ray wave that runs on
under call-out granularity (R89, R438). -/
def State.ctxLets (s : State) (w : Wave) : Bool :=
  let c := s.ctx w.ctx
  c.st = .running ||
  (c.st = .stopping && c.gran && w.lanes.any fun e => e.2.ray.isSome)

/-- What a wave waits for at its instruction does not hold it: nothing, children that have completed (R313),
traversal runs that have stopped and stores that have reached D (R87), lines that are full (R98), tiles that are ready
(R101), requests that its core can take (R421), or room in the Cistern (R402). -/
def State.unheld (s : State) (core slot : Nat) (w : Wave) : Bool :=
  match w.park with
  | .none => true
  | .child l => l.all s.complete
  | .lines l => l.all fun n => !(n ∈ (s.core core).empty)
  | .tiles l => l.all fun e => match Table.get? s.blocks e.1 with
    | some b => match s.tile? b e.2 with
      | some t => s.tileState b t = .ready
      | none => true
    | none => true
  | .requests => (s.core core).requests < 8192
  | .filing n => s.canFile (clusterOf core) w.ctx n
  | .fence l =>
    let h : Here := { wave := w, core := core, slot := slot, hand := none }
    l.all (fun r => !(r ∈ s.runsInProgress)) && w.active.all fun e => !s.ownBuffered h e.2
  | _ => false

/-- A wave in a slot is ready but for its operands. -/
def State.ready (s : State) (core slot : Nat) (w : Wave) : Bool :=
  let stopped (t : Thread) : Bool := match t.st with
    | .stopped _ _ _ => true
    | _ => false
  w.resident && s.unheld core slot w && s.ctxLets w && w.debt = 0 && w.waitMet && !w.active.isEmpty &&
  !(w.crew.isSome && w.lanes.any fun e => stopped e.2) &&
  (match Table.get? s.grids w.kid with
    | some g => !g.ending
    | none => false) &&
  !(w.lanes.any fun e => s.awaitsLink e.2.uid) && s.tick % 64 < s.dev.allow

/-- ELEVATED_PRIORITY (R55). -/
def execElevatedPriority (x : SlotId) (s : State) : Res :=
  let core := coreNum x.core
  s.live (clusterOf core) <|
  .next (s.updCore core fun k => { k with
    waves := Table.upd k.waves x.slot.toNat fun w =>
      if s.ready core x.slot.toNat w && w.issued + 256 ≤ (s.cluster (clusterOf core)).clock then { w with elevated := true } else w })

/-! ### Waiting AWAIT records (R229, R469, R470) -/

/-- Replay lets an AWAIT of a cluster wake now: its event stands next in the log, or the log has ended. -/
def State.mayWake (s : State) (ctx cl pc lane : Nat) : Bool :=
  let d := (s.ctx ctx).dbg
  if d.replay < 2 || d.offReplay then true
  else
    match s.eventAddr ctx cl (Table.getD d.recN cl 0) with
    | none => true
    | some a =>
      let c := s.mem.numD (a + 8) 1
      c = 0 || (c = 4 && s.mem.numD (a + 24) 8 = inputPayload pc 2 lane)

/-- The condition of a wait descriptor. -/
def descCond (d : Nat) : WCond :=
  match d / 2 ^ 59 % 8 with
  | 0 => .eq
  | 1 => .ne
  | 2 => .lt
  | 3 => .ge
  | 4 => .ltu
  | _ => .geu

/-- Changes one waiting record. -/
def State.updWaiting (s : State) (cl n : Nat) (f : Thread → Thread) : State :=
  s.updCluster cl fun c => { c with waiting := listUpd c.waiting n f }

/-- A sample that faults: the record, or its whole crew, goes back to the AWAIT. -/
def State.awaitBack (s : State) (cl : Nat) (t : Thread) : State :=
  let mine (u : Thread) : Bool :=
    u.uid = t.uid || (t.crewRef.isSome && u.crewRef.map CrewRef.uid = t.crewRef.map CrewRef.uid)
  (s.updCluster cl fun c => { c with
    waiting := c.waiting.map fun u => if mine u then { u with wait := 0, pc := t.pc - 16 } else u }).binWaiting
    cl

/-- The core whose thread a waiting record is: that of its block, or of its crew; none for another ray. -/
def State.coreOf (s : State) (t : Thread) : Option Nat :=
  ((s.blockOf t).map Block.core).or (t.crewRef.bind fun r => s.crewCore r.uid)

/-- A sample meets a page that is not present: the record waits for it (R421). -/
def State.awaitPage (s : State) (ctx va level : Nat) (kind : Access) (t : Thread) : State :=
  let m : PageMiss := { ctx := ctx, va := va, level := level, kind := kind }
  let r := { s.kidRec t.kid 0 4 (s.coreOf t) with
    pc := BitVec.ofNat 64 (t.pc - 16).toNat, block := BitVec.ofNat 32 t.index, thread := t.tidx }
  (s.pageFault m r [{ kid := t.kid, uid := t.uid, src := 0, frec := r }]).2

/-- The sample of a waiting record: a load at D through its chain (R229), with its log accesses (R118) and its request
at the memory-side cache, from its core, or, for a ray, the cluster's first (R110; DESIGN CHOICE, log 131). -/
def State.awaitRun (s : State) (cl n ctx : Nat) (t : Thread) : State :=
  let d := t.wait.toNat
  let va := d % 2 ^ 52
  let u := s.unitPa { core := s.coreOf t, cl := cl } ctx va .read
  match u.1 with
  | .error (.absent a l) => u.2.awaitPage ctx a l .read t
  | .error _ => u.2.awaitBack cl t
  | .ok pa =>
    let h : Here :=
      { wave := Wave.ofThreads ctx t.kid t.pc [t] s.tick, core := (s.coreOf t).getD (8 * cl), slot := 0, hand := none }
    let req : Req := { lane := 0, t := t, addr := va, space := .global va, size := 4, form := false }
    let acc : Acc := { req := req, spot := .mem pa none }
    if (poisonHit u.2 h [acc]).isSome then u.2.awaitBack cl t
    else
      let logs := (u.2.logServed h [acc]).map fun i => (u.2.logBase t.kid + 128 * i, Access.read)
      match logWalk h.via ctx logs u.2 with
      | .error (.absent a l, kind) => u.2.awaitPage ctx a l kind t
      | .error _ => u.2.awaitBack cl t
      | .ok s1 =>
        let r := s1.loadAll h (.strong .d) [acc]
        let s2 := r.2.2.farLoads h false [acc]
        let val := natOf (r.1.flatMap Prod.snd)
        let t1 := { ((Table.get? r.2.1.lanes 0).getD t) with st := t.st }
        let reg := (d / 2 ^ 57 % 4) * 8 + d / 2 ^ 54 % 8
        let pc := (t.pc - 16).toNat
        if wcondHolds (descCond d) 32 val (t.reg reg).toNat && s.mayWake ctx cl pc t.alane then
          ((s2.input ctx cl pc 2 t.alane val).updWaiting cl n fun _ => { t1 with wait := 0 }).binWaiting cl
        else s2.updWaiting cl n fun _ => t1

/-- AWAIT_SAMPLE (R229): the nth waiting record of a cluster; one that has met a page that is not present waits for
it (R421). -/
def execAwaitSample (x : ClItem) (s : State) : Res :=
  let cl := x.cl.toNat
  s.live cl <|
  match (s.cluster cl).waiting[x.n]? with
  | none => .next s
  | some t =>
    match Table.get? s.grids t.kid with
    | none => .next s
    | some g =>
      if t.wait.toNat / 2 ^ 62 = 1 && s.runs t.kid && !s.awaitsPage t.kid t.uid then .next (s.awaitRun cl x.n g.ctx t) else .next s

/-! ### The end of blocks, gangs and grids (R127, R278, R119) -/

/-- The record of a step at a block's end that exhausts the log (R119). -/
def State.endOverflow (s : State) (b : Block) (l : Level) : State :=
  s.endGrid b.kid 0xFF { FaultRec.blank 7 s.tick with
    src := 5, core := BitVec.ofNat 8 b.core, block := BitVec.ofNat 32 b.idx
    ctx := BitVec.ofNat 8 (((Table.get? s.grids b.kid).map Grid.ctx).getD 0)
    detail := BitVec.ofNat 32 (levelCode l) }

/-- The links of a block that has no thread left: those of one of its threads. -/
def State.blockLinks (s : State) (b : Block) : Links :=
  s.links b.core (launchThread (Grid.fresh b.kid 0 0 0 0 (parseLaunch []) 0) b.uid b.uid 0 0 0 none)

/-- Everything of a block is done: its threads, its stages and its copies. -/
def State.blockOver (s : State) (b : Block) : Bool :=
  b.stands && b.live.isEmpty && b.stage ≤ b.stageIssued && (s.copiesOf b).isEmpty

/-- Frees a block, and ends its gang or grid where it is the last. -/
def State.freeBlock (s : State) (b : Block) : State :=
  let v := b.done.foldl (fun v d => v.join d.view) View.zero
  let s1 := { s.noteGone [b] with
    blocks := Table.del s.blocks b.uid
    gangs := Table.upd s.gangs b.gangUid fun g => { g with blocks := g.blocks.filter fun u => u != b.uid }
    mem := { s.mem with bufs := s.mem.bufs.filter fun x => x.party != Party.block b.uid } }
  let s2 := s1.updGrid b.kid fun g => { g with
    blocks := g.blocks.filter fun u => u != b.uid, done := g.done.join v }
  let last := (((Table.get? s2.gangs b.gangUid).map Gang.blocks).getD []).isEmpty
  let s3 := if last then
      { s2 with
        gangs := Table.del s2.gangs b.gangUid
        mem := { s2.mem with bufs := s2.mem.bufs.filter fun x => x.party != Party.gang b.gangUid } }
    else s2
  match Table.get? s3.grids b.kid with
  | none => s3
  | some g =>
    if g.blocks.isEmpty && g.next = g.count then
      (s3.updGrid b.kid fun g => { g with ended := true }).trace g.ctx 4 0xFF 0xFF 0 g.seq
    else s3

/-- A log access of a block's end that cannot be made (R118): the block waits at its end for a page that is not present,
and any other error ends its grid. -/
def State.endMiss (s : State) (b : Block) (e : UnitErr) (kind : Access) : State :=
  let r (code cause addr : Nat) : FaultRec :=
    { s.kidRec b.kid 5 code (some b.core) with
      cause := BitVec.ofNat 8 cause, addr := BitVec.ofNat 64 addr, block := BitVec.ofNat 32 b.idx }
  match e with
  | .absent va l =>
    (s.pageFault { ctx := s.ctxOfKid b.kid, va := va, level := l, kind := kind } (r 4 0 va)
      [{ kid := b.kid, uid := b.uid, src := 5, frec := r 4 0 va }]).2
  | .denied c va => s.endGrid b.kid 0xFF (r 5 c va)
  | .window va => s.endGrid b.kid 0xFF (r 5 0 va)
  | .ecc l => s.endGrid b.kid 0xFF (r 0x0E 0 l)

/-- The commits of a block's end, with their log accesses, then its resources. -/
def State.endBlock (s : State) (b : Block) : State :=
  let k := s.blockLinks b
  let last := (((Table.get? s.gangs b.gangUid).map Gang.blocks).getD []) = [b.uid]
  match k.b with
  | none => s.freeBlock b
  | some site =>
    match s.mem.stepInto site k.g (.block b.uid) [] with
    | .error l => s.endOverflow b l
    | .ok m1 =>
      let m2 := if last then m1.stepD s.tick k.g [] [] else m1
      match State.walkLog { s with mem := m2 } { core := some b.core, cl := clusterOf b.core } (s.ctxOfKid b.kid) b.kid with
      | .error (e, kind) => s.endMiss b e kind
      | .ok s1 =>
        (s1.updGrid b.kid fun g => { g with
          done := (m2.log.filter fun x => s.mem.pos < x.pos).foldl View.raiseAll g.done }).freeBlock b

/-- BLOCK_END (R278), before the placements, dispatches and issues of its cc (R405). -/
def execBlockEnd (x : CoreItem) (s : State) : Res :=
  s.live x.core.cl.toNat <|
  match Table.get? s.blocks x.n with
  | none => .next s
  | some b =>
    let ending := ((Table.get? s.grids b.kid).map Grid.ending).getD true
    if s.cc.order = 0 && b.core = coreNum x.core && s.blockOver b && !ending && !s.awaitsPage b.kid b.uid then .next (s.endBlock b) else .next s

/-! ### Cluster-cache modes and stream areas (R107, R381) -/

/-- CACHE_MODE_APPLY (R107): once no gang-buffer way holds an entry and no wave is resident; the treelet and data ways
are invalidated. -/
def execCacheModeApply (c4 : BitVec 4) (s : State) : Res :=
  let cl := c4.toNat
  s.live cl <|
  match (s.cluster cl).pendMode with
  | none => .next s
  | some m =>
    let waves := (natsFrom (8 * cl) 8).any fun c => !(s.core c).waves.isEmpty
    if waves || s.mem.entriesAt .g cl != 0 then .next s
    else .next (s.updCluster cl fun c =>
      { c with mode := m, pendMode := none, treelets := [], dataFloor := s.mem.pos })

/-- SAREA_APPLY (R381). -/
def execSareaApply (x : CoreId) (s : State) : Res :=
  let core := coreNum x
  match s.partAt x.cl.toNat with
  | none => .next s
  | some f =>
    if (s.blocksOn core).isEmpty then
      .next (s.updCore core fun k => { k with sarea := (s.part f).sarea.toNat })
    else .next s

/-! ### Ray batches (R346, R403) -/

/-- A ray part before RAYSET: every byte zero. -/
def RayPart.zero : RayPart :=
  { ox := 0, oy := 0, oz := 0, dx := 0, dy := 0, dz := 0, tmin := 0, tmax := 0, flags := 0, mask := 0
    sel := 0, phase := 0, stop := 0, dropped := false, clipped := false, inst := 0, hit := Hit.none
    cand := none, ret := none, stack := [], trail := 0, ep := .plain, shader := 0, group := 0 }

/-- The clusters a batch uses, in ascending order. -/
def State.rayClusters (s : State) (g : Grid) : List Nat :=
  (s.clustersOf (s.partOf g.ctx)).filter fun c => g.cmask = 0 || g.cmask.getLsbD c

/-- RAY_RECORD_WRITE (R346, R403): the next ray's record, while its cluster keeps 2,048 slots free. -/
def execRayRecordWrite (kid : Nat) (s : State) : Res :=
  match Table.get? s.grids kid with
  | none => .next s
  | some g =>
    let cls := s.rayClusters g
    match cls[g.next / 32 % max 1 cls.length]? with
    | none => .next s
    | some cl =>
      s.live cl <|
      if g.ray && s.runs kid && g.next < g.count && 2048 < (s.cluster cl).slotFree then
        let t := launchThread g s.uids 0 g.next 0 24 (some RayPart.zero)
        let s1 := (({ s with uids := s.uids + 1 }).file cl t).updGrid kid fun g =>
          { g with next := g.next + 1 }
        .next (if g.next = 0 then s1.trace g.ctx 3 0xFF 0xFF 0 g.seq else s1)
      else .next s

end Sys2Proof.Machine
end

