-- ==== Sys2Proof/Machine/Traversal.lean ====
section
/-! DEFINITION. Traversal of acceleration structures by the traversal units (spec/03 R67 to R88). -/

namespace Sys2Proof.Machine

/-! ### Records of the structures (R67 to R71) -/

/-- A structure header: its arrays and its root (R67). Its kind byte is read as the reference expects. -/
structure AsHdr where
  nodes : Nat
  leaves : Nat
  root : Nat
deriving DecidableEq, Repr

/-- The number at n bytes from an offset. -/
def numAt (bs : List Byte) (o n : Nat) : Nat := natOf ((bs.drop o).take n)

/-- Parses a header. -/
def parseHdr (bs : List Byte) : AsHdr :=
  { nodes := numAt bs 24 8 / 4096 * 4096, leaves := numAt bs 32 8 / 16 * 16, root := numAt bs 40 4 }

/-- An instance record (R70). -/
structure AsInst where
  m : List Word
  bot : Nat
  id : BitVec 24
  mask : BitVec 8
  off : Nat
  flags : BitVec 8
deriving DecidableEq, Repr

/-- Parses an instance record. -/
def parseInst (bs : List Byte) : AsInst :=
  { m := (natsFrom 0 12).map fun i => wordAt bs (4 * i), bot := numAt bs 48 8 % 2 ^ 52 / 64 * 64
    id := BitVec.ofNat 24 (numAt bs 56 3), mask := BitVec.ofNat 8 (numAt bs 59 1)
    off := numAt bs 60 3, flags := BitVec.ofNat 8 (numAt bs 63 1) }

/-- A child of a ranked list (R76); the kind is that of a stack entry (R64). -/
structure Child where
  entry : Word
  kind : BitVec 2
  ptr : Word
  cnt : Nat
deriving DecidableEq, Repr

/-! ### Arithmetic (R69, R72, R73) -/

/-- The near and far distances of one slab, or a miss. -/
def slab (lo hi o d : Word) : Option (Word × Word) :=
  if feq32 d 0 then (if fle32 lo o && fle32 o hi then some (fneg32 inf32, inf32) else none)
  else
    let inv := fdiv32 one32 d
    let at' (mode : Rounding) (l : Word) : Word :=
      toF32 mode (((f32 l).add (f32 o).neg).mul (f32 inv))
    if flt32 inv 0 then some (at' .down hi, at' .up lo) else some (at' .down lo, at' .up hi)

/-- A vector holds a NaN. -/
def Vec3.nan (v : Vec3) : Bool := isNan32 v.x || isNan32 v.y || isNan32 v.z

/-- The box test: the entry distance, or a miss. -/
def boxTest (o d : Vec3) (tmin tmax lim : Word) (lo hi : Vec3) : Option Word :=
  if o.nan || d.nan || isNan32 tmin || isNan32 tmax then none
  else
    match slab lo.x hi.x o.x d.x, slab lo.y hi.y o.y d.y, slab lo.z hi.z o.z d.z with
    | some x, some y, some z =>
      let e := fmax32 (fmax32 (fmax32 x.1 y.1) z.1) tmin
      let f := fmin32 (fmin32 (fmin32 x.2 y.2) z.2) lim
      if fle32 e f then some e else none
    | _, _, _ => none

/-- One bound of a quantised box. -/
def quantised (mode : Rounding) (origin : Word) (q e : Nat) : Word :=
  if e = 255 then (if mode = .down then fneg32 inf32 else inf32)
  else toF32 mode ((f32 origin).add (Real'.scaled false q ((e : Int) - 127)))

/-- The object-space ray of an instance (R72). -/
def objectRay (m : List Word) (o d : Vec3) : Vec3 × Vec3 :=
  let g (i : Nat) : Word := listGet m i 0
  let po (i : Nat) : Word :=
    fma32 (g (4 * i + 2)) o.z (fma32 (g (4 * i + 1)) o.y (fma32 (g (4 * i)) o.x (g (4 * i + 3))))
  let pd (i : Nat) : Word :=
    fma32 (g (4 * i + 2)) d.z (fma32 (g (4 * i + 1)) d.y (fmul32 (g (4 * i)) d.x))
  ({ x := po 0, y := po 1, z := po 2 }, { x := pd 0, y := pd 1, z := pd 2 })

def Vec3.sub (a b : Vec3) : Vec3 := { x := fsub32 a.x b.x, y := fsub32 a.y b.y, z := fsub32 a.z b.z }

/-- The cross product of R73. -/
def Vec3.cross (a b : Vec3) : Vec3 :=
  { x := fma32 a.y b.z (fneg32 (fmul32 a.z b.y)), y := fma32 a.z b.x (fneg32 (fmul32 a.x b.z))
    z := fma32 a.x b.y (fneg32 (fmul32 a.y b.x)) }

/-- The dot product of R73. -/
def Vec3.dot (a b : Vec3) : Word := fma32 a.z b.z (fma32 a.y b.y (fmul32 a.x b.x))

/-- A triangle's hit: t, u, v and whether it faces the ray. -/
structure TriHit where
  t : Word
  u : Word
  v : Word
  front : Bool
deriving DecidableEq, Repr

/-- The triangle test (R73). -/
def triTest (o d : Vec3) (tmin tmax : Word) (lim : Option Word) (flip : Bool) (a b c : Vec3) :
    Option TriHit :=
  let ab := b.sub a
  let ac := c.sub a
  let s := o.sub a
  let pv := d.cross ac
  let det := ab.dot pv
  if feq32 det 0 || isNan32 det then none
  else
    let inv := fdiv32 one32 det
    let u := fmul32 (s.dot pv) inv
    let qv := s.cross ab
    let v := fmul32 (d.dot qv) inv
    let t := fmul32 (ac.dot qv) inv
    let near := match lim with
      | some l => flt32 t l
      | none => true
    if fle32 0 u && fle32 0 v && fle32 (fadd32 u v) one32 && fle32 tmin t && fle32 t tmax && near then
      some { t := t, u := u, v := v, front := flt32 0 det != flip }
    else none

/-! ### Reads of a traversal unit (R75, R84, R86) -/

/-- One of the traversal units of a cluster, two of each core (R11), with the ray that it runs and its kernel. -/
structure TravUnit where
  core : Nat
  unit : Nat
  ray : Nat := 0
  kid : Nat := 0
deriving DecidableEq, Repr

/-- The cluster of a traversal unit, where it translates, and as a source of requests (R110). -/
def TravUnit.cl (u : TravUnit) : Nat := clusterOf u.core
def TravUnit.via (u : TravUnit) : Via := { core := some u.core, cl := u.cl }
def TravUnit.src (u : TravUnit) : Source := .traversal u.core u.unit

/-- The unit that takes a run: any of the cluster's (R78). -/
def State.travUnit (s : State) (cl : Nat) : TravUnit × State :=
  let r := s.pick 16
  ({ core := 8 * cl + r.1 / 2, unit := r.1 % 2 }, r.2)

/-- The bytes of one record as the cluster's copy holds them: one snapshot of D, no earlier than the copy
was last known to be, for a copy may be fetched again at any time (R84, R86). -/
def State.copyRead (s : State) (x : TravUnit) (ctx va : Nat) (node : Bool) (pas : List Nat) : List Byte × State :=
  let keys := (pas.map (copyKey node)).eraseDups
  let tab := (s.cluster x.cl).treelets
  let held := keys.all fun k => (Table.get? tab k).isSome
  let base := keys.foldl (fun n k => max n (Table.getD tab k s.mem.pos)) 0
  let later := s.mem.log.filter fun x => base < x.pos && x.bytes.any fun b => b.addr ∈ pas
  let r := s.pick (later.length + 1)
  let p := match later[r.1]? with
    | some x => x.pos
    | none => base
  let s1 := r.2.updCluster x.cl fun c => { c with
    treelets := keys.foldl (fun t k => Table.put t k (max p (Table.getD t k p))) c.treelets }
  let s2 := if node then s1 else State.trimData keys.length s1 x.cl
  (pas.map fun a => s.mem.atPos p a,
    if held && p = base then s2 else (s2.reach x.src ctx va (pas.headD 0)).farRead (.thread x.ray) x.kid false pas)

/-- A treelet takes its place in the treelet ways (R84, R106). Where they are full one leaves, and one may where as many
are held as share a set; treelets with rays in bins are kept in preference. Which leaves is a free choice. -/
def State.putTreelet (s : State) (cl pa : Nat) : State :=
  let c := s.cluster cl
  let key := copyKey true pa
  let held := (c.treelets.filter fun e => e.1 % 2 = 0 && e.1 != key).map Prod.fst
  let wanted (k : Nat) : Bool := c.bins.any fun e => match e.2.target with
    | .treelet va =>
      match (s.translate { core := none, cl := cl } (s.ctxOfKid e.2.kid) va .read).1 with
      | .ok p => copyKey true p = k
      | _ => false
    | _ => false
  let out := if held.all wanted then held else held.filter fun k => !wanted k
  let opts : List (Option Nat) :=
    if (Table.get? c.treelets key).isSome then [none]
    else if held.length ≥ treeletRoom c.mode then out.map some
    else if held.length ≥ treeletWays c.mode then none :: out.map some
    else [none]
  let r := s.pickFrom opts none
  r.2.updCluster cl fun c => { c with
    treelets := Table.put (match r.1 with
      | some k => Table.del c.treelets k
      | none => c.treelets) key s.mem.pos }

/-- What stops a run before its next step. -/
inductive TravStop where
  | err (e : UnitErr)
  | treelet (va : Nat)
  | budget
deriving DecidableEq, Repr

/-- Reads one record; a node stands in its treelet, which the cluster must hold (R84). -/
def State.readHere (x : TravUnit) (ctx va n : Nat) (node : Bool) (s : State) : Except TravStop (List Nat) × State :=
  let u := s.unitPas x.via ctx va n .read
  match u.1 with
  | .error e => (.error (.err e), u.2)
  | .ok pas =>
    if node && !((u.2.cluster x.cl).treelets.any fun e => e.1 = copyKey true (pas.headD 0)) then
      (.error (.treelet (va / 4096 * 4096)), u.2)
    else
      match pas.find? fun a => u.2.mem.poisoned a 1 with
      | some a => (.error (.err (.ecc (a / 128 * 128))), u.2)
      | none =>
        let r := u.2.copyRead x ctx va node pas
        (.ok (r.1.map BitVec.toNat), r.2)

/-- Reads one record, once in a run that waits for pages (R421). -/
def State.readOnce (s : State) (x : TravUnit) (ctx va n : Nat) (node : Bool) : Except TravStop (List Byte) × State :=
  let r := s.once (State.readHere x ctx va n node)
  (r.1.map fun l => l.map (BitVec.ofNat 8), r.2)

/-- Reads one record that is no node. -/
def State.readRec (s : State) (x : TravUnit) (ctx va n : Nat) : Except TravStop (List Byte) × State :=
  s.readOnce x ctx va n false

/-- Reads a node. -/
def State.readNode (s : State) (x : TravUnit) (ctx va : Nat) : Except TravStop (List Byte) × State :=
  s.readOnce x ctx va 128 true

/-! ### A run -/

/-- A run of one record: the record, where it runs, the headers, the instance with its ray, the record to
fall back to while a restart is not complete (R77, R88), and the steps left under a pre-emption. -/
structure TravRun where
  r : RayPart
  t : Thread
  u : TravUnit
  ctx : Nat
  top : AsHdr
  bot : AsHdr
  inst : Option AsInst
  undo : Option RayPart
  left : Option Nat
deriving DecidableEq, Repr

/-- What a run does next. -/
inductive TravDo where
  | start
  | pop
  | enter (e : StackEntry) (entry : Option Word)
  | restart
  | finish (miss : Bool)
deriving DecidableEq, Repr

/-- What one action of a run gives: the next action; a record that leaves traversal at a call-out or
return, with its shader id and position of the key; or a record that stands, and why. -/
inductive TravOut where
  | next (x : TravRun) (d : TravDo)
  | leave (t : Thread) (r : RayPart) (shader : Nat) (pos : Vec3)
  | stand (r : RayPart) (why : TravStop)
deriving DecidableEq, Repr

/-- A push onto the short stack (R64). -/
def RayPart.push (r : RayPart) (e : StackEntry) : RayPart :=
  { r with stack := (e :: r.stack).take 8, dropped := r.dropped || r.stack.length ≥ 8 }

/-- T[L] (R65). -/
def RayPart.trailAt (r : RayPart) (l : Nat) : Nat := r.trail.toNat / 16 ^ l % 16

/-- T[L] := k, and zero above (R77). -/
def RayPart.setTrail (r : RayPart) (l k : Nat) : RayPart :=
  { r with trail := BitVec.ofNat 128 (r.trail.toNat % 16 ^ l + k * 16 ^ l) }

/-- The committed t, where a hit is committed (R63). -/
def RayPart.committed (r : RayPart) : Option Word := if r.hit.kind = 0 then none else some r.hit.t

/-- The direction of a ray. -/
def RayPart.dir (r : RayPart) : Vec3 := { x := r.dx, y := r.dy, z := r.dz }

/-- The ray in the space of the structure being traversed. -/
def TravRun.ray (x : TravRun) : Vec3 × Vec3 :=
  match x.inst with
  | some i => if x.r.phase = 2 then objectRay i.m x.r.origin x.r.dir else (x.r.origin, x.r.dir)
  | none => (x.r.origin, x.r.dir)

/-- The header of the structure being traversed. -/
def TravRun.hdr (x : TravRun) : AsHdr := if x.r.phase = 2 then x.bot else x.top

/-- The record that stands when a step cannot be made: the child still to be entered is pushed (R88), or,
inside a restart, the restart is to be made afresh. -/
def TravRun.pend (x : TravRun) (e : StackEntry) : RayPart := x.undo.getD (x.r.push e)

/-- Takes one step of the budget; a step that was taken before a page wait counts no more. -/
def TravRun.spend (x : TravRun) (s : State) : Option TravRun :=
  if !s.heard.isEmpty then some x
  else
    match x.left with
    | none => some x
    | some 0 => none
    | some (n + 1) => some { x with left := some n }

/-- A child as a stack entry. -/
def childEntry (c : Child) (l rank : Nat) (bottom : Bool) : StackEntry :=
  { bottom := bottom, leaf := BitVec.ofNat 3 (c.cnt - 1), kind := c.kind, rank := BitVec.ofNat 3 rank
    level := BitVec.ofNat 5 l, ptr := c.ptr }

/-- Inserts a child by entry distance, after those at an equal one. -/
def insertChild (c : Child) : List Child → List Child
  | [] => [c]
  | x :: t => if flt32 c.entry x.entry then c :: x :: t else x :: insertChild c t

/-- The kind and record count a child's kind byte gives in a top or bottom node (R68). -/
def childKind (k : Nat) (top : Bool) : Option (BitVec 2 × Nat) :=
  if k = 0x80 then some (0, 1)
  else if k = 0x40 && top then some (2, 1)
  else if 1 ≤ k && k ≤ 8 && !top then some (1, k)
  else none

/-- The box test of child n of a node (R69), limited by tmin and tmax alone (R76). -/
def nodeChild (x : TravRun) (bs : List Byte) (n : Nat) : Option Child :=
  let b (o : Nat) : Nat := numAt bs (o + n) 1
  let e (i : Nat) : Nat := numAt bs (12 + i) 1
  let org := vecAt bs 0
  match childKind (b 16) (x.r.phase != 2) with
  | none => none
  | some (k, cnt) =>
    if org.nan || b 32 > b 56 || b 40 > b 64 || b 48 > b 72 then none
    else
      let lo : Vec3 :=
        { x := quantised .down org.x (b 32) (e 0), y := quantised .down org.y (b 40) (e 1)
          z := quantised .down org.z (b 48) (e 2) }
      let hi : Vec3 :=
        { x := quantised .up org.x (b 56) (e 0), y := quantised .up org.y (b 64) (e 1)
          z := quantised .up org.z (b 72) (e 2) }
      (boxTest x.ray.1 x.ray.2 x.r.tmin x.r.tmax x.r.tmax lo hi).map fun d =>
        { entry := d, kind := k, ptr := wordAt bs (80 + 4 * n), cnt := cnt }

/-- Reads an instance record. -/
def TravRun.readInst (x : TravRun) (s : State) (i : Nat) : Except TravStop AsInst × State :=
  let u := s.readRec x.u x.ctx (x.top.leaves + 64 * i) 64
  match u.1 with
  | .ok bs => (.ok (parseInst bs), u.2)
  | .error e => (.error e, u.2)

/-- The ranked list (R76): an instance leaf whose mask test fails is missed. -/
def rankGo (x : TravRun) (bs : List Byte) : List Nat → State → List Child →
    Except TravStop (List Child) × State
  | [], s, acc => (.ok acc, s)
  | n :: rest, s, acc =>
    match nodeChild x bs n with
    | none => rankGo x bs rest s acc
    | some c =>
      if c.kind = 2 then
        let u := x.readInst s c.ptr.toNat
        match u.1 with
        | .error e => (.error e, u.2)
        | .ok i => rankGo x bs rest u.2 (if i.mask &&& x.r.mask = 0 then acc else insertChild c acc)
      else rankGo x bs rest s (insertChild c acc)

/-- What a visit of a node gives. -/
structure Visited where
  x : TravRun
  list : List Child
deriving DecidableEq, Repr

/-- Visits a node at level L (R77): one step. -/
def TravRun.visit (x : TravRun) (s : State) (node l : Nat) : Except TravStop Visited × State :=
  let u := s.readNode x.u x.ctx (x.hdr.nodes + 128 * node)
  match u.1 with
  | .error e => (.error e, u.2)
  | .ok bs =>
    match x.spend u.2 with
    | none => (.error .budget, u.2)
    | some x1 =>
      let q := rankGo x1 bs (natsFrom 0 8) u.2 []
      match q.1 with
      | .error e => (.error e, q.2)
      | .ok cs =>
        let keep := if l = 31 then cs.filter fun c => c.kind = 1 else cs
        let r := { x1.r with clipped := x1.r.clipped || keep.length != cs.length }
        (.ok { x := { x1 with r := r }, list := keep }, q.2)

/-- Pushes the children of a ranked list from the last down to rank k (R77). -/
def pushFrom (r : RayPart) (cs : List Child) (l k : Nat) (bottom : Bool) : RayPart :=
  ((natsFrom 0 cs.length).zip cs |>.filter fun e => k ≤ e.1).reverse.foldl
    (fun r e => r.push (childEntry e.2 l e.1 bottom)) r

/-- Enter(node, L, list, k) (R77). -/
def TravRun.enterList (x : TravRun) (cs : List Child) (l k : Nat) (bottom : Bool) : TravOut :=
  match cs[k]? with
  | none => .next x .pop
  | some c =>
    let r := (pushFrom x.r cs l (k + 1) bottom).setTrail l (k + 1)
    .next { x with r := r } (.enter (childEntry c l k bottom) (some c.entry))

/-- Visits a node and enters its first child. -/
def TravRun.visitEnter (x : TravRun) (s : State) (node l : Nat) (stand : RayPart) : TravOut × State :=
  let u := x.visit s node l
  match u.1 with
  | .error e => (.stand stand e, u.2)
  | .ok v =>
    let y := { v.x with undo := none }
    (if v.list.isEmpty then .next y .pop else y.enterList v.list l 0 (y.r.phase = 2), u.2)

/-- Enters an instance (R72): its bottom header and ray. -/
def TravRun.intoInst (x : TravRun) (s : State) (i : Nat) (rec' : AsInst) :
    Except TravStop TravRun × State :=
  let u := s.readRec x.u x.ctx rec'.bot 64
  match u.1 with
  | .error e => (.error e, u.2)
  | .ok bs => (.ok { x with
      r := { x.r with phase := 2, inst := BitVec.ofNat 24 i }
      bot := parseHdr bs, inst := some rec' }, u.2)

/-! ### Leaves (R73, R74, R77, R80) -/

/-- The PC of a field of a shader-table entry (R79); zero where the shader is absent. -/
def TravRun.shaderPc (x : TravRun) (s : State) (id field : Nat) : Except TravStop Nat × State :=
  let tab := ((Table.get? s.grids x.t.kid).map Grid.table).getD 0
  let u := s.readRec x.u x.ctx (tab + 32 * id + 8 * field) 8
  match u.1 with
  | .error e => (.error e, u.2)
  | .ok bs => (.ok (natOf bs % 2 ^ 52), u.2)

/-- A primitive is opaque (R74). -/
def opaquePrim (r : RayPart) (i : AsInst) (flags : BitVec 8) : Bool :=
  if r.flags.getLsbD 0 then true
  else if r.flags.getLsbD 1 then false
  else if i.flags.getLsbD 0 then true
  else if i.flags.getLsbD 1 then false
  else flags.getLsbD 0

/-- The hit-group id of a primitive (R79). -/
def groupId (r : RayPart) (i : AsInst) (geom stride : Nat) : Nat :=
  (i.off + geom * stride + r.sel.toNat % 16) % 2 ^ 14

/-- What one record of a leaf gives: missed; a hit that is committed; or a hit that stops at a call-out
if its shader is present. -/
inductive LeafHit where
  | miss
  | hit (c : Hit)
  | ask (c : Hit) (stop : BitVec 3) (field : Nat)
deriving DecidableEq, Repr

/-- Tests one record of a leaf (R73, R74, R61). -/
def testRecord (x : TravRun) (i : AsInst) (bs : List Byte) : LeafHit :=
  let flags := BitVec.ofNat 8 (numAt bs 42 1)
  let proc := flags.getLsbD 1
  let op := opaquePrim x.r i flags
  let ids (t u v : Word) (k : BitVec 8) : Hit :=
    { t := t, u := u, v := v, inst := i.id, kind := k, prim := BitVec.ofNat 25 (numAt bs 36 4)
      geom := BitVec.ofNat 16 (numAt bs 40 2) }
  if x.r.flags.getLsbD (if proc then 9 else 8) then .miss
  else if x.r.flags.getLsbD (if op then 6 else 7) then .miss
  else if proc then
    let lim := match x.r.committed with
      | some c => fmin32 x.r.tmax c
      | none => x.r.tmax
    match boxTest x.ray.1 x.ray.2 x.r.tmin x.r.tmax lim (vecAt bs 0) (vecAt bs 12) with
    | none => .miss
    | some e => .ask (ids e 0 0 0) 4 2
  else
    match triTest x.ray.1 x.ray.2 x.r.tmin x.r.tmax x.r.committed (i.flags.getLsbD 3)
        (vecAt bs 0) (vecAt bs 12) (vecAt bs 24) with
    | none => .miss
    | some h =>
      if !i.flags.getLsbD 2 && x.r.flags.getLsbD (if h.front then 5 else 4) then .miss
      else
        let c := ids h.t h.u h.v (if h.front then 0xFE else 0xFF)
        if op then .hit c else .ask c 3 1

/-- The entry for the records of a leaf from the nth on (R77). -/
def restOf (e : StackEntry) (n cnt : Nat) : StackEntry :=
  { e with ptr := e.ptr + BitVec.ofNat 32 n, leaf := BitVec.ofNat 3 (cnt - n - 1) }

/-- The point at t along a ray (R83). -/
def RayPart.pointAt (r : RayPart) (t : Word) : Vec3 :=
  { x := fma32 t r.dx r.ox, y := fma32 t r.dy r.oy, z := fma32 t r.dz r.oz }

/-- A call-out of kind 3 or 4 (R81). -/
def TravRun.callHit (x : TravRun) (r : RayPart) (c : Hit) (stop : BitVec 3) (id pc : Nat) : TravOut :=
  let r' := { r with
    stop := stop, cand := some c, ret := some x.t.pc, stack := r.stack.take 4
    dropped := r.dropped || r.stack.length > 4
    ep := if stop = 3 then .anyHit else .isect, shader := BitVec.ofNat 14 id }
  .leave { x.t with pc := BitVec.ofNat 52 pc, cause := 5 } r' id (r.pointAt c.t)

/-- TestLeaf (R77): records n, n + 1, ... of a leaf of cnt records, in index order. -/
def TravRun.leafGo : Nat → TravRun → State → StackEntry → AsInst → Nat → Nat → TravOut × State
  | 0, x, s, _, _, _, _ => (.next { x with undo := none } .pop, s)
  | fuel + 1, x, s, e, i, n, cnt =>
    let stand := if n = 0 then x.pend e else x.r.push (restOf e n cnt)
    let u := s.readRec x.u x.ctx (x.hdr.leaves + 48 * (e.ptr.toNat + n)) 48
    match u.1 with
    | .error w => (.stand stand w, u.2)
    | .ok bs =>
      let stride := ((Table.get? s.grids x.t.kid).map Grid.stride).getD 0
      let id := groupId x.r i (numAt bs 40 2) stride
      let more (y : TravRun) (s : State) : TravOut × State := leafGo fuel y s e i (n + 1) cnt
      let commit (c : Hit) (s : State) : TravOut × State :=
        let y := { x with r := x.r.commitHit c (BitVec.ofNat 14 id) }
        if y.r.flags.getLsbD 2 then (.next { y with undo := none } (.finish false), s) else more y s
      match testRecord x i bs with
      | .miss => more x u.2
      | .hit c => commit c u.2
      | .ask c stop field =>
        let q := x.shaderPc u.2 id field
        match q.1 with
        | .error w => (.stand stand w, q.2)
        | .ok pc =>
          if pc != 0 then
            let r := if n + 1 < cnt then x.r.push (restOf e (n + 1) cnt) else x.r
            (x.callHit r c stop id pc, q.2)
          else if stop = 3 then commit c q.2
          else more x q.2

/-! ### Restart and finish (R77, R80, R81) -/

/-- The re-visit of the path (R77), from a node at level L with the lists of the levels above, each with
its bottom flag: the lists down to the level it ends at. -/
def revisitGo : Nat → TravRun → State → Nat → Nat → Nat → List (List Child × Bool) →
    Except TravStop (TravRun × List (List Child × Bool)) × State
  | 0, x, s, _, _, _, ls => (.ok (x, ls), s)
  | fuel + 1, x, s, node, l, d, ls =>
    let u := x.visit s node l
    match u.1 with
    | .error e => (.error e, u.2)
    | .ok v =>
      let ls' := ls ++ [(v.list, decide (v.x.r.phase = 2))]
      if l = d then (.ok (v.x, ls'), u.2)
      else
        let k := v.x.r.trailAt l
        let cut : TravRun := { v.x with r := v.x.r.setTrail l k }
        match (if k = 0 then none else v.list[k - 1]?) with
        | none => (.ok (cut, ls'), u.2)
        | some c =>
          if c.kind = 0 then revisitGo fuel v.x u.2 c.ptr.toNat (l + 1) d ls'
          else if c.kind = 2 then
            let i := v.x.readInst u.2 c.ptr.toNat
            match i.1 with
            | .error e => (.error e, i.2)
            | .ok ir =>
              let y := v.x.intoInst i.2 c.ptr.toNat ir
              match y.1 with
              | .error e => (.error e, y.2)
              | .ok z => revisitGo fuel z y.2 z.bot.root (l + 1) d ls'
          else (.ok (cut, ls'), u.2)

/-- The highest level of the trail in use (R77). -/
def RayPart.deepest (r : RayPart) : Option Nat :=
  (natsFrom 0 32).foldl (fun o l => if r.trailAt l = 0 then o else some l) none

/-- A restart (R77). -/
def TravRun.doRestart (x : TravRun) (s : State) : TravOut × State :=
  match x.r.deepest with
  | none => (.next { x with r := { x.r with dropped := false } } (.finish false), s)
  | some d =>
    let x0 := { x with r := { x.r with phase := 1 } }
    let u := revisitGo 32 x0 s x.top.root 0 d []
    match u.1 with
    | .error e => (.stand x.r e, u.2)
    | .ok (y, ls) =>
      let r0 := { y.r with dropped := false }
      let p := ((natsFrom 0 ls.length).zip ls).foldl
        (fun (o : Option (Nat × List Child × Bool)) e =>
          if r0.trailAt e.1 < e.2.1.length then some (e.1, e.2.1, e.2.2) else o) none
      match p with
      | none => (.next { y with r := r0, undo := none } (.finish false), u.2)
      | some (l, cs, b) =>
        let r1 := ((natsFrom 0 l).zip ls).foldl
          (fun r e => pushFrom r e.2.1 e.1 (r0.trailAt e.1) e.2.2) r0
        let z := { y with r := { r1 with phase := if b then 2 else 1 }, undo := some x.r }
        (z.enterList cs l (r0.trailAt l) b, u.2)

/-- Finish (R77, R80, R81). -/
def TravRun.doFinish (x : TravRun) (s : State) (miss : Bool) : TravOut × State :=
  let r : RayPart := { x.r with phase := 3 }
  let hit := !miss && r.hit.kind != 0
  let id := if hit then r.group.toNat else 16368 + (r.sel >>> 4).toNat
  let back (s : State) : TravOut × State :=
    (.leave { x.t with cause := 4 } { r with stop := 6 } 0 r.origin, s)
  if hit && r.flags.getLsbD 3 then back s
  else
    let q := x.shaderPc s id 0
    match q.1 with
    | .error e => (.stand r e, q.2)
    | .ok pc =>
      if pc = 0 then back q.2
      else
        let r' := { r with
          stop := if hit then 1 else 2, ret := some x.t.pc, cand := none, stack := []
          ep := if hit then .closest else .miss, shader := BitVec.ofNat 14 id }
        (.leave { x.t with pc := BitVec.ofNat 52 pc, cause := 5 } r' id
          (if hit then r.pointAt r.hit.t else r.origin), q.2)

/-! ### The run (R77) -/

/-- Go(c, L, fromPop) (R77), after the check of the committed t. -/
def TravRun.go (x : TravRun) (s : State) (e : StackEntry) : TravOut × State :=
  let l := e.level.toNat + 1
  if e.kind = 0 then x.visitEnter s e.ptr.toNat l (x.pend e)
  else if e.kind = 1 then
    match x.inst, x.spend s with
    | none, _ => (.next x .pop, s)
    | some _, none => (.stand (x.pend e) .budget, s)
    | some i, some y => TravRun.leafGo (e.leaf.toNat + 1) y s e i 0 (e.leaf.toNat + 1)
  else if e.kind = 2 then
    let u := x.readInst s e.ptr.toNat
    match u.1 with
    | .error w => (.stand (x.pend e) w, u.2)
    | .ok i =>
      if i.mask &&& x.r.mask = 0 then (.next x .pop, u.2)
      else
        let y := x.intoInst u.2 e.ptr.toNat i
        match y.1 with
        | .error w => (.stand (x.pend e) w, y.2)
        | .ok z => z.visitEnter y.2 z.bot.root l (x.pend e)
  else (.next x .pop, s)

/-- The start of a run (R77): fresh, at pop, or as a miss where the trail holds a reserved value (R65). A record does
not hold what its run had read: a run that goes on in phase 2 reads its instance and the bottom header again at its
start, before pop (DESIGN CHOICE, log 106). A stop before the first step of a fresh run leaves the record as it was, in
phase 0, and it starts afresh on resumption (DESIGN CHOICE, log 129). -/
def TravRun.begin (x : TravRun) (s : State) : TravOut × State :=
  if x.r.phase = 0 then
    let y := { x with r := { x.r with phase := 1, trail := 0, dropped := false } }
    y.visitEnter s x.top.root 0 x.r
  else if (natsFrom 0 32).any fun l => x.r.trailAt l > 8 then (.next x (.finish true), s)
  else if x.r.phase = 3 then (.next x (.finish false), s)
  else if x.r.phase = 2 then
    let u := x.readInst s x.r.inst.toNat
    match u.1 with
    | .error w => (.stand x.r w, u.2)
    | .ok i =>
      let y := x.intoInst u.2 x.r.inst.toNat i
      match y.1 with
      | .error w => (.stand x.r w, y.2)
      | .ok z => (.next z .pop, y.2)
  else (.next x .pop, s)

/-- pop (R77). -/
def TravRun.doPop (x : TravRun) : TravOut :=
  match x.r.stack with
  | e :: rest =>
    let r := { x.r with stack := rest }.setTrail e.level.toNat (e.rank.toNat + 1)
    let r := if !e.bottom && r.phase = 2 then { r with phase := 1 } else r
    .next { x with r := r } (.enter e none)
  | [] => if x.r.dropped then .next x .restart else .next x (.finish false)

/-- One action of a run. -/
def TravRun.act (x : TravRun) (s : State) : TravDo → TravOut × State
  | .start => x.begin s
  | .pop => (x.doPop, s)
  | .enter e entry =>
    let past : Bool := match entry, x.r.committed with
      | some d, some t => flt32 t d
      | _, _ => false
    if past then (.next x .pop, s) else x.go s e
  | .restart => x.doRestart s
  | .finish miss => x.doFinish s miss

/-- A run until it leaves or stands. -/
def travGo : Nat → TravRun → State → TravDo → TravOut × State
  | 0, x, s, _ => (.stand x.r .budget, s)
  | fuel + 1, x, s, d =>
    let o := x.act s d
    match o.1 with
    | .next y e => travGo fuel y o.2 e
    | .leave t r i p => (.leave t r i p, o.2)
    | .stand r w => (.stand r w, o.2)

/-- More actions than any run makes: levels end at 31 and every node has at most 8 children. -/
def travFuel : Nat := 2 ^ 128

/-- The run of a record in a unit. The top header is read first, in a run that goes on too (DESIGN CHOICE, log 128). -/
def State.runFrom (s : State) (x : TravUnit) (ctx : Nat) (g : Grid) (t : Thread) (r : RayPart) (left : Option Nat) :
    TravOut × State :=
  let u := s.readRec x ctx g.header 64
  match u.1 with
  | .error e => (.stand r e, u.2)
  | .ok bs =>
    let h := parseHdr bs
    travGo travFuel
      { r := r, t := t, u := x, ctx := ctx, top := h, bot := h, inst := none, undo := none, left := left }
      u.2 .start

/-- The run of a record, from the point at which it has waited for a page (R421). -/
def State.runRay (s : State) (x : TravUnit) (ctx : Nat) (g : Grid) (t : Thread) (r : RayPart) (left : Option Nat) :
    TravOut × State :=
  let p := (Table.get? (s.cluster x.cl).paused t.uid).getD { ray := r, said := [] }
  let o := (s.hear p.said).runFrom x ctx g t p.ray left
  let s1 := o.2.updCluster x.cl fun c => { c with paused := match o.1 with
    | .stand _ (.err (.absent _ _)) => Table.put c.paused t.uid { p with said := o.2.said }
    | _ => Table.del c.paused t.uid }
  (o.1, s1.unhear)

/-! ### Where the record goes -/

/-- A record waits in a bin for a treelet (R84); it stays in traversal when no bin is free (R25). -/
def State.fileTreelet (s : State) (cl : Nat) (t : Thread) (va : Nat) : State :=
  let c := s.cluster cl
  let room := c.bins.find? fun e =>
    e.2.kid = t.kid && e.2.target = .treelet va && e.2.recs.length < 32
  match room, Table.lowest c.bins 1024 0 with
  | none, none => s.updCluster cl fun c => ({ c with trav := Table.put c.trav t.uid t }).ageOldest
  | e, k =>
    let u := (s.updCluster cl fun c => { c with trav := Table.del c.trav t.uid }).seat cl t
    u.2.updCluster cl fun c => { c with
      bins := match e, k with
        | some e, _ => Table.upd c.bins e.1 fun b => { b with recs := b.recs ++ [u.1] }
        | none, some k => Table.put c.bins k
            { kid := t.kid, pc := 0, ckey := 0, target := .treelet va, recs := [u.1], opened := c.clock
              aged := false, crew := none, starve := c.clock }
        | none, none => c.bins }

/-- The fault record of a traversal read (R428). -/
def State.travRec (s : State) (core ctx : Nat) (g : Grid) (t : Thread) (code cause addr : Nat) : FaultRec :=
  { FaultRec.blank code s.tick with
    cause := BitVec.ofNat 8 cause, ctx := BitVec.ofNat 8 ctx, src := 2
    core := BitVec.ofNat 8 core, seq := BitVec.ofNat 64 g.seq, pc := BitVec.ofNat 64 t.pc.toNat, addr := BitVec.ofNat 64 addr
    block := BitVec.ofNat 32 t.index, thread := t.tidx, kid := 0#4 ++ g.kernel }

/-- A traversal read that cannot be made: a page that is not present is waited for, any other error ends
the grid (R421, R431). -/
def State.travErr (s : State) (core ctx : Nat) (g : Grid) (t : Thread) (e : UnitErr) : State :=
  let stop (code cause addr : Nat) : State := s.endGrid t.kid 0xFF (s.travRec core ctx g t code cause addr)
  match e with
  | .absent va l =>
    let r := s.travRec core ctx g t 4 0 va
    (s.pageFault { ctx := ctx, va := va, level := l, kind := .read } r
      [{ kid := t.kid, uid := t.uid, src := 2, frec := r }]).2
  | .denied c va => stop 5 c va
  | .window va => stop 5 0 va
  | .ecc l => stop 0x0E 0 l

/-- Settles what a run on a core's unit gave. -/
def State.settleRay (s : State) (core ctx : Nat) (g : Grid) (t : Thread) (o : TravOut) : State :=
  let cl := clusterOf core
  let keep (s : State) (r : RayPart) : State :=
    s.updCluster cl fun c => { c with trav := Table.put c.trav t.uid { t with ray := some r } }
  match o with
  | .next _ _ => s
  | .leave t' r id pos =>
    let k := s.rayKey cl t.kid r id pos
    let s1 := k.2.updCluster cl fun c => { c with trav := Table.del c.trav t.uid }
    s1.file cl { t' with ray := some r, ckey := k.1, wait := 0 }
  | .stand r (.err e) => (keep s r).travErr core ctx g { t with ray := some r } e
  | .stand r (.treelet va) => (keep s r).fileTreelet cl { t with ray := some r } va
  | .stand r .budget => keep s { r with stop := 5 }

/-- The record of a cluster's traversal that can run: its grid goes on and no page is awaited. -/
def State.travReady (s : State) (cl uid : Nat) : Option (Grid × Thread × RayPart) :=
  match Table.get? (s.cluster cl).trav uid with
  | none => none
  | some t =>
    match Table.get? s.grids t.kid, t.ray with
    | some g, some r =>
      if g.ending || s.awaitsPage t.kid uid || !s.canFile cl g.ctx 1 then none else some (g, t, r)
    | _, _ => none

/-- TRAVERSAL_RUN (R77): `n` names the record by its thread. No new run starts after a pre-emption request
(R89). -/
def execTraversalRun (x : ClItem) (s : State) : Res :=
  let cl := x.cl.toNat
  s.live cl <|
    match s.travReady cl x.n with
    | none => .next s
    | some (g, t, r) =>
      if (s.ctx g.ctx).st != .running then .next s
      else
        let u := s.travUnit cl
        let o := u.2.runRay { u.1 with ray := t.uid, kid := t.kid } g.ctx g t r none
        .next (o.2.settleRay u.1.core g.ctx g t o.1)

/-- STEP_BUDGET_STOP (R88, R89): a run in progress at the request takes the steps it had still to take by then,
which are open, and the step budget; a treelet that misses is not fetched. A page that is not present is
waited for in the saved state. -/
def execStepBudgetStop (x : ClItem) (s : State) : Res :=
  let cl := x.cl.toNat
  s.live cl <|
    match s.travReady cl x.n with
    | none => .next s
    | some (g, t, r) =>
      if (s.ctx g.ctx).st != .stopping || r.stop = 5 || !(x.n ∈ (s.ctx g.ctx).inRun) then .next s
      else
        let more := s.pick (2 ^ 32)
        let budget := (s.ctx g.ctx).budget.toNat
        let u := more.2.travUnit cl
        let o := u.2.runRay { u.1 with ray := t.uid, kid := t.kid } g.ctx g t r (some (budget + more.1))
        let out : TravOut := match o.1 with
          | .stand r (.treelet _) => .stand r .budget
          | y => y
        .next (o.2.settleRay u.1.core g.ctx g t out)

/-- A bin waits for a treelet. -/
def Bin.treeletVa (b : Bin) : Option Nat :=
  match b.target with
  | .treelet a => some a
  | _ => none

/-- TREELET_FETCH_COMPLETE (R84): `n` names a bin of the key; the fetch is made once a bin of the key holds
the threshold or has aged, and serves every bin of the key. While the context stops the treelet comes, and the bins
stay as they are (R88). -/
def execTreeletFetchComplete (x : ClItem) (s : State) : Res :=
  let cl := x.cl.toNat
  s.live cl <|
    match Table.get? (s.cluster cl).bins x.n with
    | none => .next s
    | some b =>
      match b.treeletVa, Table.get? s.grids b.kid with
      | some va, some g =>
        let same (y : Bin) : Bool := y.kid = b.kid && y.target = b.target
        let need := (s.part (s.partOf g.ctx)).treeletNeed
        let due := (s.cluster cl).bins.any fun e => same e.2 && (e.2.aged || e.2.recs.length ≥ need)
        if !due || g.ending then .next s
        else
          let w := s.travUnit cl
          let u := w.2.unitPa w.1.via g.ctx va .read
          let s1 := match u.1 with
            | .ok pa => (u.2.putTreelet cl pa).reachAll w.1.src g.ctx
                ((natsFrom 0 32).map fun i => (va + 128 * i, pa + 128 * i))
            | .error _ => u.2
          if (s.ctx g.ctx).st != .running then .next s1
          else
            let back := (s1.cluster cl).bins.flatMap fun e => if same e.2 then e.2.recs else []
            .next (s1.updCluster cl fun c => { c with
              bins := c.bins.filter fun e => !same e.2
              trav := back.foldl (fun t r => Table.put t r.uid { r with spilled := false }) c.trav })
      | _, _ => .next s

end Sys2Proof.Machine
end

