-- ==== Sys2Proof/Machine/Save.lean ====
section
/-! DEFINITION. What is saved and restored: rotated waves, spilled blocks, and whole contexts with their
images (spec/02 R49 to R54; spec/19 R435 to R448). An image is kept typed beside the bytes the specification
lays out (log 12). -/

namespace Sys2Proof.Machine

/-! ### Copies (R279, R439) -/

/-- The first run of a copy that is not wholly written. -/
def Copy.restart (c : Copy) : Option Nat :=
  (c.runs.filter fun r => !r.done).foldl (fun (o : Option Nat) r =>
    match o with
    | none => some r.idx
    | some n => some (min n r.idx)) none

/-- A cancelled copy: it is to be issued again from its restart point. -/
def Copy.cancel (c : Copy) : Copy :=
  { c with
    cancelled := true, stuck := none
    runs := match c.restart with
      | some n => c.runs.map fun r => if n ≤ r.idx then { r with done := false, data := none } else r
      | none => c.runs }

/-- A copy that is issued again. -/
def Copy.resume (c : Copy) : Copy := { c with cancelled := false }

/-- Cancels the copies of a core that a test names. -/
def Core.cancelCopies (k : Core) (p : Copy → Bool) : Core :=
  let one (e : Nat × Copy) : Nat × Copy := if p e.2 then (e.1, e.2.cancel) else e
  { k with copies := k.copies.map one }

/-- Resumes the cancelled copies of a core that a test names: the lines they write are empty again. -/
def State.resumeCopies (s : State) (core : Nat) (p : Copy → Bool) : State :=
  let go := (s.core core).copies.filter fun (e : Nat × Copy) => e.2.cancelled && p e.2
  let one (e : Nat × Copy) : Nat × Copy :=
    if e.2.cancelled && p e.2 then (e.1, e.2.resume) else e
  (s.updCore core fun k => { k with copies := k.copies.map one }).setLines core 2 true
    (go.flatMap fun e => e.2.resume.writing)

/-- Brings the cancelled copies of a core that a test names to another core of its cluster. -/
def State.bringCopies (s : State) (p : Copy → Bool) (dest core : Nat) : State :=
  if core = dest then s
  else
    let mine (e : Nat × Copy) : Bool := e.2.cancelled && p e.2
    let go := (s.core core).copies.filter mine
    (s.updCore core fun k => { k with copies := k.copies.filter fun e => !mine e }).updCore dest fun k =>
      { k with copies := go.foldl (fun (t : Table Copy) e => Table.put t (Table.nextKey t) e.2) k.copies }

/-! ### Views (R145) -/

def Thread.fresh (t : Thread) (v : View) : Thread := { t with view := v }
def Wave.fresh (w : Wave) (v : View) : Wave :=
  { w with lanes := w.lanes.map fun e => (e.1, Thread.fresh e.2 v) }
def Basin.fresh (b : Basin) (v : View) : Basin := { b with threads := b.threads.map fun t => Thread.fresh t v }
def Bin.fresh (b : Bin) (v : View) : Bin := { b with recs := b.recs.map fun t => Thread.fresh t v }

/-! ### Rotation (R54) -/

/-- An operation in flight belongs to a wave, or a store of it has still to arrive, or it is between its passes at the
lane port. -/
def Core.inFlight (k : Core) (slot : Nat) : Bool :=
  (k.ops.any fun e => e.2.slot = slot) || (k.stores.any fun x => x.slot = slot) || (k.port.any fun p => p.slot = slot)

/-- A filing of a cluster waits on a full overflow area (R402): a wave or a traversal unit holds the record. -/
def State.filingWaits (s : State) (cl : Nat) : Bool :=
  ((natsFrom (8 * cl) 8).any fun c => (s.core c).waves.any fun e => match e.2.park with
    | .filing n => s.runs e.2.kid && !s.canFile cl e.2.ctx n
    | _ => false) ||
  (s.cluster cl).trav.any fun e => s.runs e.2.kid && !s.canFile cl (s.ctxOfKid e.2.kid) 1

/-- A bin or basin that is eligible cannot dispatch to a core for want of a slot or granules, or a filing
waits on a full overflow area (R402). -/
def State.wantsRoom (s : State) (core : Nat) : Bool :=
  let cl := clusterOf core
  let k := s.core core
  let lacks (c : Nat) (b : Bin) : Bool := !(s.core c).slotFree || !s.granulesFit c (baseAsk b.recs)
  let bin (b : Bin) : Bool :=
    s.binReady b && (match b.target with
      | .core n => n = core && s.standsOn n b.recs && lacks n b
      | .cluster => (natsFrom (8 * cl) 8).all fun c => lacks c b
      | .treelet _ => false)
  (s.cluster cl).bins.any (fun e => bin e.2) ||
  (!k.slotFree && k.basins.any fun e => e.2.eligible && s.runs e.2.key.kid) ||
  (!k.slotFree && (s.cluster cl).rotated.any fun e => e.core = core && s.runs e.wave.kid) ||
  s.filingWaits cl

/-- A ready wave of an issue partition has gone 1,024 cc without issuing. -/
def State.wantsIssue (s : State) (core p : Nat) : Bool :=
  (s.core core).waves.any fun e =>
    e.1 / 16 = p && s.ready core e.1 e.2 && e.2.issued + 1024 ≤ (s.cluster (clusterOf core)).clock

/-- A wave that waits at an instruction it has not issued, for what its core holds, comes back to it anew. -/
def Park.aside : Park → Park
  | .lines _ => .none
  | .tiles _ => .none
  | .requests => .none
  | .filing _ => .none
  | p => p

/-- A wave as it leaves its core; its debt is cleared (R467). -/
def Wave.aside (w : Wave) : Wave := { w with debt := 0, park := w.park.aside }

/-- Saves a wave into the image area of its cluster and frees its slot; its copies are cancelled. -/
def State.rotateOut (s : State) (core slot : Nat) (w : Wave) : State :=
  let mine (c : Copy) : Bool := w.lanes.any fun e => e.2.uid = c.uid
  let s1 := s.updCore core fun k =>
    { k.cancelCopies mine with waves := Table.del k.waves slot }
  s1.updCluster (clusterOf core) fun c =>
    { c with rotated := c.rotated ++ [{ core := core, wave := w.aside, slot := slot, held := false }] }

/-- WAVE_ROTATION (R54): the wave longest resident, of the core, or, where a wave waits for an issue, of that wave's
partition, once it has been so for the quantum. -/
def execWaveRotation (x : SlotId) (s : State) : Res :=
  let core := coreNum x.core
  let slot := x.slot.toNat
  let cl := clusterOf core
  s.live cl <|
  match Table.get? (s.core core).waves slot, s.partAt cl with
  | some w, some f =>
    let k := s.core core
    let long := w.since + (s.part f).rotation ≤ (s.cluster cl).clock
    let older (p : Nat → Bool) : Bool :=
      k.waves.any fun e => p e.1 && e.2.resident && e.2.since < w.since && !k.inFlight e.1
    if w.resident && long && !k.inFlight slot && s.runs w.kid &&
        ((s.wantsRoom core && !older fun _ => true) ||
          (s.wantsIssue core (slot / 16) && !older fun n => n / 16 = slot / 16)) then
      .next (s.rotateOut core slot w)
    else .next s
  | _, _ => .next s

/-- Buffers of threads come to a core with them. -/
def Memory.buffersTo (m : Memory) (uids : List Nat) (crews : List Nat) (core : Nat) : Memory :=
  let mine (p : Party) : Bool := match p with
    | .thread u => u ∈ uids
    | .crew u => u ∈ crews
    | _ => false
  { m with bufs := m.bufs.map fun x => if x.level = .c && mine x.party then { x with place := core } else x }

/-- Puts a saved wave into a slot; the copies of its threads go on there (R279). A rotated wave keeps its age (R404), and
one whose granules a restore had reserved takes one anew. -/
def State.waveIn (s : State) (core : Nat) (r : SavedWave) : State :=
  match s.newSlot core with
  | none => s
  | some slot =>
    let w := r.wave
    let clock := (s.cluster (clusterOf core)).clock
    let w1 := { w.fresh s.mem.nowView with
      since := clock, issued := clock, resident := true, newborn := true, age := if r.held then s.tick else w.age }
    let mine (c : Copy) : Bool := w.lanes.any fun e => e.2.uid = c.uid
    let s0 := if r.held then s else s.noteTaken core false w.ask
    let uids := w.lanes.map fun (e : Nat × Thread) => e.2.uid
    let s1 := (natsFrom (8 * clusterOf core) 8).foldl (fun (s : State) c => s.bringCopies mine core c)
      { s0 with mem := s0.mem.buffersTo uids [] core }
    (s1.resumeCopies core mine).updCore core fun k =>
      { k with waves := Table.put k.waves slot w1, deadFrom := s.tick }

/-- ROTATED_WAVE_RESTORE (R54, R52): the nth saved wave of the core's cluster returns, the earliest by the age it kept
of those that can, and before it any bin that is older; the core named is the other one. -/
def execRotatedWaveRestore (x : CoreItem) (s : State) : Res :=
  let core := coreNum x.core
  let cl := clusterOf core
  s.live cl <|
  match (s.cluster cl).rotated[x.n]? with
  | none => .next s
  | some e =>
    let older (y : SavedWave) : Bool := y.wave.age < e.wave.age && s.mayReturn y core
    let bin (b : Bin) : Bool := s.waveTime e < s.binTime cl b && s.binGoes cl b
    if s.cc.order ≤ 2 && s.mayReturn e core && !(s.cluster cl).rotated.any older &&
        !(s.cluster cl).bins.any fun b => bin b.2 then
      let s1 := (s.updCluster cl fun c => { c with rotated := dropNth c.rotated x.n }).noteSent (s.returnTo e core)
      .next (s1.waveIn (s.returnTo e core) e)
    else .next s

/-! ### Spilling and restoring a block (R50 to R53) -/

/-- The part of a ray batch on a core, as it is lifted in the place of a block (R41). -/
def State.batchPart (s : State) (core kid : Nat) : Block :=
  Block.fresh s.uids kid 0 0 core 0 (((Table.get? s.grids kid).map Grid.issue).getD 0) s.mem.pos []

/-- The ray batches that hold something of a core. -/
def State.batchesOn (s : State) (core : Nat) : List Nat :=
  let k := s.core core
  ((k.waves.filterMap fun e => if e.2.lanes.any fun l => l.2.ray.isSome then some e.2.kid else none) ++
    (k.basins.filterMap fun e => if e.2.key.blockUid = 0 then some e.2.key.kid else none) ++
    ((s.returning core).filterMap fun t => if t.ray.isSome then some t.kid else none) ++
    k.crews.filterMap fun e => if e.2.blockUid = 0 then some e.2.kid else none).eraseDups

/-- A thread belongs to a block, or to the part of a ray batch. -/
def State.ownsThread (s : State) (b : Block) (t : Thread) : Bool :=
  if s.isBatch b then t.ray.isSome && t.kid = b.kid else t.ray.isNone && t.blockUid = b.uid

/-- What a core holds for a kernel and a block (0 for rays) belongs to a block, or to the part of a ray batch. -/
def State.ownsItem (s : State) (b : Block) (kid uid : Nat) : Bool :=
  if s.isBatch b then kid = b.kid && uid = 0 else uid = b.uid

/-- The lanes of a wave that leave with a block: all of a crew's, else those of the block's own threads (R50). -/
def Wave.leaves (w : Wave) (mine : Thread → Bool) : Nat × Thread → Bool :=
  fun e => if w.crew.isSome then w.lanes.any fun l => mine l.2 else mine e.2

/-- A wave with some of its lanes; none without lanes. -/
def Wave.only (w : Wave) (p : Nat × Thread → Bool) : Option Wave :=
  let w1 := ({ w with lanes := w.lanes.filter p }).settle
  if w1.lanes.isEmpty then none else some w1

/-- Every instruction that a block's waves have issued is complete. -/
def State.blockStill (s : State) (b : Block) : Bool :=
  let k := s.core b.core
  !(k.waves.any fun e => (e.2.lanes.any fun l => s.ownsThread b l.2) &&
    (k.inFlight e.1 || !e.2.resident || e.2.park = .port)) &&
  !(k.ops.any fun e => match e.2.eng with
    | some o => s.ownsItem b o.kid o.blockUid
    | none => false)

/-- Copies whose dense side stands in the scratchpad, moved by a change of the block's base. -/
def Copy.moveTo (c : Copy) (old new : Nat) : Copy :=
  match c.kind with
  | .gather => c
  | .scatter => c
  | _ => { c with runs := c.runs.map fun r => { r with dense := r.dense - old + new } }

/-- Moves everything a block, or the part of a ray batch, holds on its core into its record. A rotated wave whose granules
are not reserved stays where it is. -/
def State.lift (s : State) (b : Block) : State :=
  let k := s.core b.core
  let cl := clusterOf b.core
  let n := (s.sizes b).1 + (s.sizes b).2
  let inside (a : Nat) : Bool := b.scratch ≤ a && a < b.scratch + n
  let mine := s.ownsThread b
  let ours := s.ownsItem b
  let out' (w : Wave) : Option Wave := w.only (w.leaves mine)
  let stay (w : Wave) : Option Wave := w.only fun e => !w.leaves mine e
  let kept (r : SavedWave) : Bool := r.held && r.core = b.core
  let soft (e : Nat × Nat × Nat) : Bool := s.isBatch b && e.1 = b.kid
  let out : Block := { b with
    lifted := true
    sbytes := (k.scratch.filter fun e => inside e.1).map fun e => (e.1 - b.scratch, e.2)
    sempty := (k.empty.filter fun l => inside (128 * l)).map fun l => l - b.scratch / 128
    swaves := (((k.waves.filterMap fun e => out' e.2) ++
      (s.cluster cl).rotated.filterMap fun e => if kept e then out' e.wave else none)).map Wave.aside
    sbasins := (k.basins.filter fun e => ours e.2.key.kid e.2.key.blockUid).map fun e =>
      { e.2 with opened := (s.cluster cl).clock - e.2.opened }
    screws := k.crews.filter fun e => ours e.2.kid e.2.blockUid
    scopies := (k.copies.filter fun e => ours e.2.kid e.2.blockUid).map fun e => e.2.cancel
    soft := b.soft ++ (k.soft.filter soft).map Prod.snd }
  let s1 := s.updCore b.core fun k =>
    { k.clearArea b.scratch n with
      waves := k.waves.filterMap fun e => (stay e.2).map fun w => (e.1, w)
      basins := k.basins.filter fun e => !ours e.2.key.kid e.2.key.blockUid
      crews := k.crews.filter fun e => !ours e.2.kid e.2.blockUid
      copies := k.copies.filter fun e => !ours e.2.kid e.2.blockUid
      soft := k.soft.filter fun e => !soft e }
  let s2 := s1.updCluster cl fun c =>
    { c with rotated := c.rotated.filterMap fun e =>
        if kept e then (stay e.wave).map fun w => { e with wave := w } else some e }
  { s2 with blocks := Table.put s2.blocks b.uid out, uids := max s2.uids (b.uid + 1) }

/-- Spills a block (R50). -/
def State.spill (s : State) (b : Block) : State :=
  (s.lift b).updBlock b.uid fun b => { b with placed := false, spilledAt := s.tick }

/-- Puts crews on a core under the lowest free ids: the core's crews, and the new id of each crew. -/
def giveCrewIds : List Crew → Table Crew → Table Nat → Table Crew × Table Nat
  | [], t, m => (t, m)
  | c :: rest, t, m =>
    let id := (Table.lowest t 64 0).getD 0
    giveCrewIds rest (Table.put t id c) (Table.put m c.uid id)

/-- A record after its crew has taken a new id. -/
def Thread.reCrew (t : Thread) (m : Table Nat) : Thread :=
  { t with
    crewRef := t.crewRef.map fun r => { r with id := Table.getD m r.uid r.id } }

/-- The crew of some records, where it is one of a core's. -/
def crewAt (m : Table Nat) (ts : List Thread) : Option Nat :=
  (ts.head?.bind fun t => t.crewRef.map CrewRef.uid).bind fun u => Table.get? m u

/-- A wave after its crew has taken a new id. -/
def Wave.reCrew (w : Wave) (m : Table Nat) : Wave :=
  { w with
    lanes := w.lanes.map fun e => (e.1, e.2.reCrew m)
    crew := if w.crew.isSome then (crewAt m (w.lanes.map Prod.snd)).or w.crew else none }

/-- The records of a cluster, and its bins and rotated waves, after crews have come to a core, or taken new ids there. -/
def Cluster.reCrew (c : Cluster) (core : Nat) (m : Table Nat) : Cluster :=
  let fix (t : Thread) : Thread := t.reCrew m
  let bin (b : Bin) : Bin :=
    match b.crew, crewAt m b.recs with
    | some _, some id => { b with recs := b.recs.map fix, crew := some id, target := .core core }
    | _, _ => { b with recs := b.recs.map fix }
  let wave (r : SavedWave) : SavedWave :=
    match r.wave.crew, crewAt m (r.wave.lanes.map Prod.snd) with
    | some _, some _ => { r with core := core, wave := r.wave.reCrew m }
    | _, _ => r
  { c with
    unbinned := c.unbinned.map fix, waiting := c.waiting.map fix, trav := c.trav.map fun e => (e.1, fix e.2)
    bins := c.bins.map fun e => (e.1, bin e.2), rotated := c.rotated.map wave }

/-- The records of a block, wherever they wait in its cluster: a bin that holds no other is one of the new core now, and
from any other bin they enter one of the new core anew (R53); and so with its rotated waves. -/
def Cluster.reRecs (c : Cluster) (tgt : Thread → Target) (mine : Thread → Bool) (old core : Nat) : Cluster :=
  let whole (b : Bin) : Bool := b.recs.all mine || b.target = .core core
  let bin (e : Nat × Bin) : Nat × Bin :=
    let b := e.2
    if !b.recs.any mine then e
    else if whole b then (e.1, { b with target := .core core })
    else (e.1, { b with recs := b.recs.filter fun t => !mine t })
  let out := c.bins.flatMap fun e => if whole e.2 then [] else e.2.recs.filter mine
  let part (r : SavedWave) (core : Nat) (p : Nat × Thread → Bool) : List SavedWave :=
    match r.wave.only p with
    | some w => [{ r with core := core, wave := w }]
    | none => []
  let wave (r : SavedWave) : List SavedWave :=
    if r.core != old || r.wave.crew.isSome then [r]
    else part r core (fun e => mine e.2) ++ part r old fun e => !mine e.2
  let c1 := { c with bins := c.bins.map bin, rotated := c.rotated.flatMap wave }
  out.foldl (fun c t => c.enter tgt t) c1

/-- Puts a basin back, eligible (R59); where no basin is free its threads return as a wave that waits for a slot. -/
def State.basinIn (s : State) (core : Nat) (b : Basin) : State :=
  let cl := clusterOf core
  let c := s.cluster cl
  match Table.lowest (s.core core).basins 64 0 with
  | some i => s.updCore core fun k => { k with
      basins := Table.put k.basins i { b with eligible := true, opened := c.clock - b.opened } }
  | none =>
    let w := Wave.ofThreads (s.ctxOfKid b.key.kid) b.key.kid b.key.pc b.threads s.tick c.clock
    s.updCluster cl fun c => { c with rotated := c.rotated ++ [{ core := core, wave := w, slot := 0, held := true }] }

/-- Restores a lifted block, or the part of a ray batch, to a core, its whole reservation in one step (R52): its waves
hold their granules and wait for slots; its basins, records and copies are still to come. -/
def State.settleBlock (s : State) (core : Nat) (b : Block) : State :=
  let n := s.needOf b
  let a := (s.runFor core n.bytes).getD 0
  let ids := giveCrewIds (b.screws.map Prod.snd) (s.core core).crews []
  let uids := (b.live.map Prod.fst) ++ (b.swaves.flatMap fun w => w.lanes.map fun e => e.2.uid) ++
    b.sbasins.flatMap fun x => x.threads.map Thread.uid
  let nb : Block := { b with
    core := core, scratch := a, placed := true, lifted := false, sbytes := [], sempty := [], swaves := [], sbasins := []
    screws := [], scopies := [] }
  let s1 := { s with
    blocks := if s.isBatch b then Table.del s.blocks b.uid else Table.put s.blocks b.uid nb
    mem := s.mem.buffersTo uids (b.screws.map fun (e : Nat × Crew) => e.2.uid) core }
  let s2 := s1.updCore core fun k =>
    let k1 := k.clearArea a n.bytes
    { k1 with
      scratch := b.sbytes.foldl (fun (l : List Host.Cell) (e : Host.Cell) => cellSet l (a + e.1) e.2) k1.scratch
      empty := k1.empty ++ b.sempty.map fun (l : Nat) => l + a / 128
      crews := ids.1
      soft := k1.soft ++ if s.isBatch b then b.soft.map fun e => (b.kid, e) else []
      copies := b.scopies.foldl (fun (t : Table Copy) (c : Copy) =>
        Table.put t (Table.nextKey t) (c.moveTo b.scratch a)) k1.copies }
  let v := s.mem.nowView
  s2.updCluster (clusterOf core) fun c => { c with
    rotated := c.rotated ++ b.swaves.map fun (w : Wave) =>
      ({ core := core, wave := (w.reCrew ids.2).fresh v, slot := 0, held := true } : SavedWave) }

/-- The records of a restored block follow it to its core, and its crews' to theirs. -/
def State.fixRecs (s : State) (core : Nat) (b : Block) : State :=
  let ids := (s.core core).crews.map fun e => (e.2.uid, e.1)
  let s1 := s.updCluster (clusterOf core) fun c => c.reCrew core ids
  if s.isBatch b || b.core = core then s1
  else s1.updCluster (clusterOf core) fun c => c.reRecs s1.targetOf (s1.ownsThread b) b.core core

/-- The saved basins of a block come back. -/
def State.basinsBack (s : State) (core : Nat) (b : Block) : State :=
  b.sbasins.foldl (fun s x => s.basinIn core (x.fresh s.mem.nowView)) s

/-- The cancelled copies of a block go on. -/
def State.copiesBack (s : State) (core : Nat) (b : Block) : State :=
  s.resumeCopies core fun c => b.scopies.any fun y => y.id = c.id

/-- The saved waves of a cluster that hold their granules take slots (R400), while there are any. -/
def State.seatHeld (s : State) (cl : Nat) (p : SavedWave → Bool) : State :=
  ((s.cluster cl).rotated.filter fun r => r.held && p r).foldl (fun s r =>
    if (s.newSlot r.core).isSome then
      (s.updCluster cl fun c => { c with rotated := c.rotated.filter fun y => y != r }).waveIn r.core r
    else s) s

/-- BLOCK_RESTORE (R52): `n` names the block. -/
def execBlockRestore (x : ClItem) (s : State) : Res :=
  let cl := x.cl.toNat
  s.live cl <|
  match Table.get? s.blocks x.n with
  | none => .next s
  | some b =>
    if b.placed || clusterOf b.core != cl || !s.runs b.kid then .next s
    else
      match s.homeFor b with
      | some core =>
        let s1 := ((s.settleBlock core b).fixRecs core b).seatHeld cl fun r => r.wave.kid = b.kid
        .next ((s1.basinsBack core b).copiesBack core b)
      | none => .next s

/-! ### Resource deadlock (R49 to R51) -/

/-- The head claimant of a core: its slot and which queue. -/
def State.deadHead (s : State) (core : Nat) : Option (Nat × Bool) :=
  match s.claimHead core false with
  | some n => some (n, false)
  | none => (s.claimHead core true).map fun n => (n, true)

/-- The head claim fits now. -/
def State.headFits (s : State) (core slot : Nat) (acc : Bool) : Bool :=
  match Table.get? (s.core core).waves slot with
  | none => false
  | some w =>
    match w.park with
    | .claim _ n _ => s.meets core acc (s.claimAsk core w acc n)
    | _ => false

/-- The blocks and ray batches (R41) of a core other than the head claimant's. -/
def State.others (s : State) (core : Nat) (w : Wave) : List Block :=
  let head (b : Block) : Bool := (w.lanes.head?).any fun e => s.ownsThread b e.2
  (s.blocksOn core ++ (s.batchesOn core).map fun kid => s.batchPart core kid).filter fun b => !head b

/-- The youngest of some blocks; of several of one age, the one of the highest name (DESIGN CHOICE, log 121). -/
def youngest (l : List Block) : Option Block :=
  l.foldl (fun (o : Option Block) b =>
    match o with
    | none => some b
    | some y => if y.age < b.age || (y.age = b.age && y.uid < b.uid) then some b else some y) none

/-- Spills blocks, youngest first, until the head claim can be satisfied; a claim that no spill can help
raises 0x0A with cause 1 (R51). -/
def deadlockGo : Nat → State → Nat → Nat → Bool → State
  | 0, s, _, _, _ => s
  | n + 1, s, core, slot, acc =>
    match Table.get? (s.core core).waves slot with
    | none => s
    | some w =>
      if s.headFits core slot acc then s.tryClaim core acc (some slot)
      else
        match youngest (s.others core w) with
        | some b => if s.blockStill b then deadlockGo n (s.spill b) core slot acc else s
        | none =>
          let h : Here := { wave := w, core := core, slot := slot, hand := none }
          s.raise h { code := 0x0A, cause := 1, lane := lowLane w.active }

/-- DEADLOCK_DETECT (R49, R50): a core has at most 16 blocks and 64 waves, and each spill takes one block or batch. -/
def execDeadlockDetect (x : CoreId) (s : State) : Res :=
  let core := coreNum x
  s.live (clusterOf core) <|
  match s.deadHead core with
  | none => .next s
  | some (slot, acc) =>
    if (s.core core).deadFrom + 4096 ≤ s.tick then
      .next (deadlockGo ((s.blocksOn core).length + (s.batchesOn core).length + 2) s core slot acc)
    else .next s

/-! ### Halting a core for a context (R435, R436, R438) -/

/-- CALLOUT_GRAN_TIMEOUT (R438): a ray wave that has not yielded 4,000 cc after the request. -/
def execCalloutGranTimeout (x : SlotId) (s : State) : Res :=
  let core := coreNum x.core
  s.live (clusterOf core) <|
  .next (s.updCore core fun k => { k with
    waves := Table.upd k.waves x.slot.toNat fun w =>
      let c := s.ctx w.ctx
      if c.st = .stopping && c.gran && (w.lanes.any fun e => e.2.ray.isSome) &&
          c.reqTick + 4000 ≤ s.tick && w.park = .none then { w with park := .system }
      else w })

/-- A wave stands at a boundary and issues no more: a ray wave under call-out granularity once it has been halted, or
waits at its instruction when its time is over (R438). -/
def Wave.halted (w : Wave) (gran late : Bool) : Bool :=
  w.resident && (!gran || w.park = .system || (late && w.park != .none) || !w.lanes.any fun e => e.2.ray.isSome)

/-- A record in traversal has reached its budget stop, or waits for a page, or no run of it was in progress at the
request (R88, R89). -/
def State.travHalted (s : State) (t : Thread) (inRun : List Nat) : Bool :=
  match t.ray with
  | some r => r.stop = 5 || !(t.uid ∈ inRun) || s.awaitsPage t.kid t.uid
  | none => true

/-- An access of a thread to the peer or the host has no answer yet (R436, R438). -/
def State.linkOpen (s : State) (uid : Nat) : Bool := s.awaitsLink uid || s.linkBusy (.thread uid)

/-- A core may be halted for a context. -/
def State.canHalt (s : State) (core c : Nat) : Bool :=
  let k := s.core core
  let cl := s.cluster (clusterOf core)
  let x := s.ctx c
  !(k.waves.any fun e => e.2.ctx = c && (!e.2.halted x.gran (x.reqTick + 4000 ≤ s.tick) || k.inFlight e.1 ||
    e.2.lanes.any fun l => s.linkOpen l.2.uid)) &&
  !(k.ops.any fun e => match e.2.eng with
    | some o => o.ctx = c
    | none => false) &&
  !(k.deps.any fun e => e.2.ctx = c && e.2.started) &&
  cl.trav.all fun e => s.ctxOfKid e.2.kid != c || s.travHalted e.2 x.inRun

/-- Tile tasks not yet started go back to their window entries. -/
def State.withdrawTiles (s : State) (core c : Nat) : State :=
  let mine := (s.core core).deps.filter fun e => e.2.ctx = c && !e.2.started
  let s1 := s.updCore core fun k => { k with deps := k.deps.filter fun e => e.2.ctx != c || e.2.started }
  mine.foldl (fun s e => s.updCtx c fun x => { x with
    stream := { x.stream with
      win := x.stream.win.map fun y =>
        if y.seq = e.2.seq then
          { y with tiles := y.tiles ++ [(e.2.row, e.2.col)], inFlight := y.inFlight - 1 }
        else y } }) s1

/-- What a context's blocks and ray batches hold of a core goes into their records, and the core has it for others
(R438); it is free from the next cc (R405). -/
def State.liftCore (s : State) (core c : Nat) : State :=
  let k := s.core core
  let bs := (s.blocksOn core).filter fun b => s.ctxOfKid b.kid = c
  let rays := ((s.batchesOn core ++ (k.soft.map Prod.fst) ++
    k.copies.filterMap fun e => if e.2.blockUid = 0 then some e.2.kid else none).eraseDups).filter fun kid =>
      s.ctxOfKid kid = c
  rays.foldl (fun s kid => s.lift (s.batchPart core kid)) (bs.foldl State.lift (s.noteGone bs))

/-- CORE_HALTED (R435): the core's part of the image is taken (R438). -/
def execCoreHalted (x : CoreId) (c6 : BitVec 6) (s : State) : Res :=
  let core := coreNum x
  let c := c6.toNat
  s.live (clusterOf core) <|
  if (s.ctx c).st = .stopping && s.inPart (s.partOf c) (clusterOf core) && !((s.ctx c).halted.any fun k => k = core) &&
      s.canHalt core c then
    let s1 := s.updCore core fun k => k.cancelCopies fun y => y.ctx = c
    .next (((s1.withdrawTiles core c).liftCore core c).updCtx c fun y => { y with halted := y.halted ++ [core] })
  else .next s

/-! ### Saving a context (R435, R440, R443 to R445) -/

/-- A wave as an image holds it: parked waves re-execute after restore (R425, R436). -/
def Wave.saved (w : Wave) : Wave :=
  { w with
    debt := 0
    park := match w.park with
      | .page _ _ _ => .none
      | .system => .none
      | p => p }

/-- A block as an image holds it: its core counted from the partition's first. -/
def Block.saved (b : Block) (base : Nat) : Block :=
  { b with
    core := b.core - base
    swaves := b.swaves.map Wave.saved
    scopies := b.scopies.map Copy.cancel }

/-- What a cluster holds of a context's records and rotated waves; the records of treelet bins are saved in traversal
(R88). -/
def State.clusterImage (s : State) (c base cl : Nat) : ClImage :=
  let k := s.cluster cl
  let mine (t : Thread) : Bool := s.ctxOfKid t.kid = c
  let tree (b : Bin) : Bool := match b.target with
    | .treelet _ => true
    | _ => false
  let bins := k.bins.filter fun e => s.ctxOfKid e.2.kid = c
  let rel (t : Target) : Target := match t with
    | .core n => .core (n - base)
    | y => y
  let age (b : Bin) : Bin := { b with
    opened := k.clock - b.opened, starve := k.clock - b.starve, target := rel b.target }
  { unbinned := k.unbinned.filter mine
    waiting := k.waiting.filter mine
    bins := (bins.filter fun e => !tree e.2).map fun e => (e.1, age e.2)
    trav := ((bins.filter fun e => tree e.2).flatMap fun e => e.2.recs).foldl
      (fun t r => Table.put t r.uid r) (k.trav.filter fun e => mine e.2)
    rotated := (k.rotated.filter fun e => e.wave.ctx = c).map fun e =>
      { e with core := e.core - base, wave := e.wave.saved } }

/-- A cluster without a context's records. -/
def Cluster.without (k : Cluster) (mine : Nat → Bool) (c : Nat) : Cluster :=
  { k with
    unbinned := k.unbinned.filter fun t => !mine t.kid
    waiting := k.waiting.filter fun t => !mine t.kid
    bins := k.bins.filter fun e => !mine e.2.kid
    trav := k.trav.filter fun e => !mine e.2.kid
    paused := k.paused.filter fun p => !k.trav.any fun e => e.1 = p.1 && mine e.2.kid
    rotated := k.rotated.filter fun e => e.wave.ctx != c }

/-- A grid as an image holds it: its waiting times as ages (R399). -/
def Grid.saved (g : Grid) (tick : Nat) : Grid :=
  { g with waitFrom := tick - g.waitFrom, failed := g.failed.map fun t => tick - t }

def Grid.unsaved (g : Grid) (tick : Nat) : Grid :=
  { g with waitFrom := tick - g.waitFrom, failed := g.failed.map fun t => tick - t }

/-- A buffer as an image holds it. -/
def Buf.rel (b : Buf) (place : Nat → Level → Nat) : Buf := { b with place := place b.place b.level }

/-! ### The architected bytes of an image (R444, R445) -/

/-- Bytes at an offset. -/
def bytesAt (o n x : Nat) : List Host.Cell := (natsFrom o n).zip (bytesOf n x)

/-- A handle-map entry (R445). -/
def Handle.bytes (o : Nat) : Handle → List Host.Cell
  | .renamed a k n => bytesAt o 8 (a + k * 2 ^ 56 + 2 ^ 62) ++ bytesAt (o + 8) 8 n
  | .bound a n => bytesAt o 8 (a + 2 * 2 ^ 62) ++ bytesAt (o + 8) 8 n

/-- One handle map: undefined entries are zero. -/
def mapBytes (o : Nat) (h : Table Handle) : List Host.Cell :=
  (natsFrom 0 256).flatMap fun n =>
    match Table.get? h n with
    | some x => Handle.bytes (o + 16 * n) x
    | none => bytesAt (o + 16 * n) 16 0

/-- A return stack, entry 0 the oldest. -/
def stackBytes (o : Nat) (l : List Pc) : List Host.Cell :=
  (natsFrom 0 8).flatMap fun k => bytesAt (o + 8 * k) 8 (listGet l.reverse k 0).toNat

/-- Scalar registers. -/
def qBytes (o : Nat) (q : Table DWord) : List Host.Cell :=
  (natsFrom 0 32).flatMap fun n => bytesAt (o + 8 * n) 8 (Table.getD q n 0).toNat

/-- The stream section (R445) at an offset; bytes not named are zero. -/
def Ctx.streamBytes (c : Ctx) (o : Nat) : List Host.Cell :=
  let n := c.stream
  let st := n.status.code + n.stackR.length * 2 ^ 8 + n.stackS.length * 2 ^ 12
  bytesAt o 8 n.base ++ bytesAt (o + 8) 8 n.limit ++ bytesAt (o + 0x10) 8 n.spcR.toNat ++
  bytesAt (o + 0x18) 8 n.spcS.toNat ++ bytesAt (o + 0x20) 8 n.seq ++ bytesAt (o + 0x28) 8 st ++
  bytesAt (o + 0x30) 16 0 ++ stackBytes (o + 0x40) n.stackR ++ stackBytes (o + 0x80) n.stackS ++
  bytesAt (o + 0xC0) 64 0 ++ qBytes (o + 0x100) n.qR ++ qBytes (o + 0x200) n.qS ++
  ((natsFrom 0 64).flatMap fun k => bytesAt (o + 0x300 + 8 * k) 8 (listGet c.events k 0).toNat) ++
  bytesAt (o + 0x500) 8 n.arenaBase ++ bytesAt (o + 0x508) 8 n.arenaSize ++ bytesAt (o + 0x510) 8 c.root ++
  bytesAt (o + 0x518) 2792 0

/-- The counts of a cluster entry (R444). -/
structure ClCounts where
  used : Nat
  blocks : Nat
  waves : Nat
  crews : Nat
  recs : Nat
  spilt : Nat
  bufs : Nat
deriving DecidableEq, Repr

/-- What a typed image holds of one cluster, counted. -/
def Image.counts (m : Image) (j used : Nat) : ClCounts :=
  let k := m.clusters[j]?
  let bs := (m.blocks.map Prod.snd).filter fun b => clusterOf b.core = j
  let batch (b : Block) : Bool := ((Table.get? m.grids b.kid).map Grid.ray).getD false
  let all : List Thread := (k.map fun k =>
    k.unbinned ++ k.waiting ++ k.bins.flatMap fun e => e.2.recs).getD []
  { used := used
    blocks := (bs.filter fun b => !batch b).length
    waves := bs.foldl (fun n b => n + b.swaves.length) 0 + (k.map fun k => k.rotated.length).getD 0
    crews := bs.foldl (fun n b => n + b.screws.length) 0
    recs := (all.filter fun t => !t.spilled).length
    spilt := (all.filter fun t => t.spilled).length
    bufs := ((m.bufs.filter fun b => b.level = .g && b.place = j).foldl
      (fun n b => n + b.entries.length) 0) }

/-- A cluster entry. -/
def ClCounts.bytes (x : ClCounts) (o : Nat) : List Host.Cell :=
  bytesAt o 8 x.used ++ bytesAt (o + 8) 4 x.blocks ++ bytesAt (o + 12) 4 x.waves ++
  bytesAt (o + 16) 4 x.crews ++ bytesAt (o + 20) 4 x.recs ++ bytesAt (o + 24) 4 x.spilt ++
  bytesAt (o + 28) 4 x.bufs ++ bytesAt (o + 32) 32 0

/-- The header but for its digest (R444). -/
def headerBytes (c : Ctx) (n f tick : Nat) (m : Image) (used : List Nat) : List Host.Cell :=
  let flags := (if c.stream.status = .faulted then 1 else 0) + if c.gran then 2 else 0
  bytesAt 0 4 0x53564354 ++ bytesAt 4 4 1 ++ bytesAt 8 1 n ++ bytesAt 9 1 f ++
  bytesAt 10 1 m.size.toNat ++ bytesAt 11 1 flags ++ bytesAt 12 4 0 ++ bytesAt 16 8 tick ++
  bytesAt 24 8 c.reqTick ++ bytesAt 40 24 0 ++
  ((natsFrom 0 8).flatMap fun k => bytesAt (64 + 16 * k) 8 (listGet c.resBase k 0).toNat ++
    bytesAt (72 + 16 * k) 8 (listGet c.resCtl k 0).toNat) ++
  ((natsFrom 0 16).flatMap fun k => bytesAt (192 + 8 * k) 8 (listGet c.prog k 0).toNat) ++
  bytesAt 320 704 0 ++
  ((natsFrom 0 m.clusters.length).flatMap fun j => (m.counts j (listGet used j 0)).bytes (1024 + 64 * j)) ++
  bytesAt (1024 + 64 * m.clusters.length) (3072 - 64 * m.clusters.length) 0

/-- The pool section: the copies of the launch records held (R443), as long as the entry is (R312). -/
def State.poolBytes (s : State) (c : Nat) : List Host.Cell :=
  (s.grids.filter fun e => e.2.ctx = c).flatMap fun e =>
    match e.2.pool with
    | some (i, _) =>
      if s.complete e.1 then []
      else (natsFrom (0x100000 + 256 * i) 256).zip e.2.lrec.bytes
    | none => []

/-- The bytes of an area other than zero, by their offsets. -/
def Memory.areaBytes (m : Memory) (area n : Nat) : List Host.Cell :=
  let inside (a : Nat) : Bool := area ≤ a && a < area + n
  let offs := (m.cells.filter fun e => inside e.1).map (fun e => e.1 - area) ++
    (m.dirty.filter fun e => inside e.1).map fun e => e.1 - area
  offs.foldl (fun l o => cellSet l o (m.atD (area + o))) []

/-- The digest over the bytes of an area other than its own (R444): the function is not architected (log 12). -/
def digestOf (l : List Host.Cell) : DWord :=
  Config.imageDigest ((l.filter fun e => !(32 ≤ e.1 && e.1 < 40)).flatMap fun e => [e.1, e.2.toNat])

/-- The bytes of a save area for a partition size (R442). -/
def saveBytes (size : BitVec 3) : Nat := 2 ^ 24 + 80 * 2 ^ 20 * 2 ^ size.toNat

/-- The agent number of save images in the D order. -/
def saveAgent : Nat := 5

/-- Draws the bytes each cluster image uses: its layout is not architected. -/
def drawUsed : Nat → State → List Nat × State
  | 0, s => ([], s)
  | n + 1, s =>
    let r := s.pick 50331649
    let u := drawUsed n r.2
    (r.1 :: u.1, u.2)

/-- The pool section's bytes that hold something else and are to be zero. -/
def staleBytes (cells : List Host.Cell) (area : Nat) (mine : List Host.Cell) : List Nat :=
  (cells.filter fun e => area + 0x100000 ≤ e.1 && e.1 < area + 0x200000 &&
    !mine.any fun x => area + x.1 = e.1).map Prod.fst

/-- An image stands for what an area holds now. An image that stood there before may have been copied elsewhere, and is
kept under no area. -/
def State.putImage (s : State) (m : Image) : State :=
  let old (y : Image) : Image := if y.area = m.area then { y with area := 2 ^ 64 } else y
  { s with images := m :: s.images.map old }

/-- Writes an image's bytes into its area, and then its digest. -/
def State.writeImage (s : State) (m : Image) : State :=
  let old := staleBytes s.mem.cells m.area m.bytes
  let new (e : Host.Cell) : NewByte := { addr := m.area + e.1, val := e.2, who := [], marks := [] }
  let m1 := s.mem.arriveD s.tick (.agent saveAgent) (m.bytes.map new ++ old.map fun a => new (a - m.area, 0))
  let n := saveBytes m.size
  let m2 := m1.arriveD s.tick (.agent saveAgent)
    ((bytesAt 32 8 (digestOf (m1.areaBytes m.area n)).toNat).map new)
  { s with mem := m2 }.putImage { m with bytes := m2.areaBytes m.area n }

/-- The typed image of a context, all of whose cores have halted. -/
def State.imageOf (s : State) (c : Nat) : Image :=
  let x := s.ctx c
  let f := s.partOf c
  let base := 8 * f
  let mine (kid : Nat) : Bool := s.ctxOfKid kid = c
  let place (p : Nat) (l : Level) : Nat := match l with
    | .c => p - base
    | .g => p - f
    | _ => p
  { area := x.saveArea, ctx := c, size := (s.part f).size, bytes := []
    resBase := x.resBase, resCtl := x.resCtl, prog := x.prog, events := x.events
    stream := { x.stream with stuck := none }
    grids := (s.grids.filter fun e => e.2.ctx = c).map fun e => (e.1, e.2.saved s.tick)
    blocks := (s.blocks.filter fun e => mine e.2.kid).map fun e => (e.1, e.2.saved base)
    gangs := (s.gangs.filter fun e => mine e.2.kid).map fun e =>
      (e.1, { e.2 with cluster := e.2.cluster - f })
    bufs := (s.mem.bufs.filter fun b => mine b.kid).map fun b => b.rel place
    clusters := (s.clustersOf f).map fun cl => s.clusterImage c base cl }

/-- Takes a context's state out of the device. -/
def State.strip (s : State) (c : Nat) : State :=
  let mine (kid : Nat) : Bool := s.ctxOfKid kid = c
  { s with
    grids := s.grids.filter fun e => e.2.ctx != c
    blocks := s.blocks.filter fun e => !mine e.2.kid
    gangs := s.gangs.filter fun e => !mine e.2.kid
    mem := { s.mem with bufs := s.mem.bufs.filter fun b => !mine b.kid }
    clusters := s.clusters.map fun k => k.without mine c
    pages := s.pages.map fun p => if p.ctx = c then { p with who := [] } else p }

/-- Writes the image and makes the context saved. -/
def State.saveCtx (s0 : State) (c : Nat) : State :=
  let f := s0.partOf c
  let m0 := s0.imageOf c
  let u := drawUsed m0.clusters.length s0
  let x := s0.ctx c
  let head := headerBytes x c f s0.tick m0 u.1
  let body := Ctx.streamBytes x 0x1000 ++ mapBytes 0x2000 x.stream.hR ++ mapBytes 0x3000 x.stream.hS ++
    s0.poolBytes c
  let s2 := (u.2.strip c).writeImage { m0 with bytes := head ++ body }
  let s3 := s2.updCtx c fun x => { x with
    st := .saved, halted := [], stream := { x.stream with stuck := none } }
  (s3.updPart f fun p => { p with
    stopped := match p.stopped with
      | some (a, b, t) => if b = c then some (a, b, s0.tick + 1) else some (a, b, t)
      | none => none }).changed c

/-- A grid of a context is ending. -/
def State.ctxEnding (s : State) (c : Nat) : Bool := s.grids.any fun e => e.2.ctx = c && e.2.ending

/-- CONTEXT_SAVED (R435). -/
def execContextSaved (c6 : BitVec 6) (s : State) : Res :=
  let c := c6.toNat
  let f := s.partOf c
  let cores := (s.clustersOf f).flatMap fun cl => natsFrom (8 * cl) 8
  let frozen := (s.clustersOf f).any fun cl => (s.cluster cl).dbg.frozen
  if (s.ctx c).st = .stopping && !s.dev.stopped && !frozen && !s.ctxEnding c &&
      cores.all fun k => (s.ctx c).halted.any fun n => n = k then
    .next (s.saveCtx c)
  else .next s

/-! ### Restoring a context (R446, R448) -/

/-! ### Names in an image loaded once more (log 16) -/

/-- A model name in an image loaded once more: names are new, and zero names nothing (log 16). -/
def newName (n u : Nat) : Nat := if u = 0 then 0 else u + n

def Party.rename (n : Nat) : Party → Party
  | .thread u => .thread (newName n u)
  | .crew u => .crew (newName n u)
  | .block u => .block (newName n u)
  | .gang u => .gang (newName n u)
  | .batch k c => .batch (newName n k) c
  | .agent u => .agent u

def Chain.rename (n : Nat) (x : Chain) : Chain :=
  { uid := newName n x.uid, c := x.c.rename n, b := x.b.rename n, g := x.g.rename n }

def Mark.rename (n : Nat) (m : Mark) : Mark := { m with who := m.who.rename n }

def Thread.rename (n : Nat) (t : Thread) : Thread :=
  { t with
    uid := newName n t.uid, kid := newName n t.kid, blockUid := newName n t.blockUid
    rel := t.rel.map fun m => Mark.rename n m, seen := t.seen.map fun m => Mark.rename n m
    crewRef := t.crewRef.map fun r => { r with uid := newName n r.uid } }

def Park.rename (n : Nat) : Park → Park
  | .child l => .child (l.map (newName n))
  | .fence l => .fence (l.map fun r => (newName n r.1, r.2))
  | x => x

def Wave.rename (n : Nat) (w : Wave) : Wave :=
  { w with
    kid := newName n w.kid, lanes := w.lanes.map fun e => (e.1, Thread.rename n e.2), park := w.park.rename n }

def Basin.rename (n : Nat) (b : Basin) : Basin :=
  { b with
    key := { b.key with kid := newName n b.key.kid, blockUid := newName n b.key.blockUid }
    threads := b.threads.map fun t => Thread.rename n t }

def Bin.rename (n : Nat) (b : Bin) : Bin :=
  { b with kid := newName n b.kid, recs := b.recs.map fun t => Thread.rename n t }

def Crew.rename (n : Nat) (c : Crew) : Crew :=
  { c with uid := newName n c.uid, kid := newName n c.kid, blockUid := newName n c.blockUid }

def Copy.rename (n : Nat) (c : Copy) : Copy :=
  { c with
    uid := newName n c.uid, kid := newName n c.kid, blockUid := newName n c.blockUid
    id := newName n c.id }

def DoneCopy.rename (n : Nat) (c : DoneCopy) : DoneCopy :=
  { c with uid := newName n c.uid, blockUid := newName n c.blockUid }

def Barrier.rename (n : Nat) (b : Barrier) : Barrier :=
  { b with
    arrived := b.arrived.map fun a => { a with uid := newName n a.uid }
    marks := b.marks.map fun m => Mark.rename n m }

def Block.rename (n : Nat) (b : Block) : Block :=
  { b with
    uid := newName n b.uid, kid := newName n b.kid, gangUid := newName n b.gangUid
    bars := b.bars.map fun e => (e.1, Barrier.rename n e.2)
    soft := b.soft.map fun e => (e.1, newName n e.2)
    live := b.live.map fun e => (newName n e.1, e.2)
    done := b.done.map fun c => DoneCopy.rename n c
    swaves := b.swaves.map fun w => Wave.rename n w
    sbasins := b.sbasins.map fun x => Basin.rename n x
    screws := b.screws.map fun e => (e.1, Crew.rename n e.2)
    scopies := b.scopies.map fun c => Copy.rename n c }

def Gang.rename (n : Nat) (g : Gang) : Gang :=
  { g with
    uid := newName n g.uid, kid := newName n g.kid, blocks := g.blocks.map fun u => newName n u
    bars := g.bars.map fun e => (e.1, Barrier.rename n e.2) }

def Grid.rename (n : Nat) (g : Grid) : Grid :=
  { g with
    kid := newName n g.kid, root := newName n g.root, parent := g.parent.map fun u => newName n u
    blocks := g.blocks.map fun u => newName n u }

def BufByte.rename (n : Nat) (b : BufByte) : BufByte :=
  { b with who := b.who.map fun u => newName n u, marks := b.marks.map fun m => Mark.rename n m }

def Buf.rename (n : Nat) (b : Buf) : Buf :=
  { b with
    party := b.party.rename n, kid := newName n b.kid
    entries := b.entries.map fun e => { e with bytes := e.bytes.map fun x => BufByte.rename n x }
    arrivals := b.arrivals.map fun a => { a with party := a.party.rename n } }

def SavedWave.rename (n : Nat) (w : SavedWave) : SavedWave := { w with wave := w.wave.rename n }

def ClImage.rename (n : Nat) (k : ClImage) : ClImage :=
  { unbinned := k.unbinned.map fun t => Thread.rename n t
    waiting := k.waiting.map fun t => Thread.rename n t
    bins := k.bins.map fun e => (e.1, Bin.rename n e.2)
    trav := k.trav.map fun e => (newName n e.1, Thread.rename n e.2)
    rotated := k.rotated.map fun w => SavedWave.rename n w }

/-- An image under new names, for the context that takes it. -/
def Image.rename (n c : Nat) (m : Image) : Image :=
  let entry (e : Entry) : Entry := { e with
    kid := e.kid.map fun u => newName n u, agent := newName n e.agent }
  { m with
    ctx := c
    stream := { m.stream with
      win := m.stream.win.map entry, rel := m.stream.rel.map fun k => Mark.rename n k }
    grids := m.grids.map fun e => (newName n e.1, Grid.rename n e.2)
    blocks := m.blocks.map fun e => (newName n e.1, Block.rename n e.2)
    gangs := m.gangs.map fun e => (newName n e.1, Gang.rename n e.2)
    bufs := m.bufs.map fun b => Buf.rename n b
    clusters := m.clusters.map fun k => ClImage.rename n k }

/-- The image at an address, for a partition size (R446): its bytes are those of an image that was saved, at this address
or at another, and so its magic, version and digest are right. Bytes that no save has written are no image (log 12). -/
def State.imageAt (s : State) (area : Nat) (size : BitVec 3) : Option Image :=
  let now := s.mem.areaBytes area (saveBytes size)
  let is (m : Image) : Bool := m.size = size && m.bytes = now
  (s.images.find? fun m => m.area = area && is m).or (s.images.find? is)

/-- The record of an image that is rejected (R446). -/
def State.rejectImage (s : State) (c : Nat) : State :=
  (s.post (s.partOf c) { frec := { FaultRec.blank 1 s.tick with cause := 15, ctx := BitVec.ofNat 8 c, src := 4 }
                         page := none }).updCtx c fun x => { x with reqHeld := false }

/-- Names of an image are in use: of a grid, or of a task of another context. -/
def State.namesLive (s : State) (m : Image) : Bool :=
  (m.grids.any fun e => (Table.get? s.grids e.1).isSome) ||
  s.ctxs.any fun x => x.st != .saved && x.stream.win.any fun e => m.stream.win.any fun y => y.agent = e.agent

/-- An image as a context restores it: under new names where it was saved elsewhere or its names are in use. -/
def State.imageFor (s : State) (c : Nat) (m : Image) : Image × State :=
  if m.area = (s.ctx c).saveArea && !s.namesLive m then (m, s)
  else (m.rename s.uids c, { s with uids := 2 * s.uids })

/-- A record whose run was stopped by the budget goes on at its pop (R88). -/
def Thread.goesOn (t : Thread) : Thread :=
  { t with ray := t.ray.map fun r => if r.stop = 5 then { r with stop := 0 } else r }

/-- A cluster after the bins and Cistern records of an image have come back, their ages kept. -/
def Cluster.putBack (k : Cluster) (m : ClImage) (base : Nat) (v : View) : Cluster :=
  let fr (t : Thread) : Thread := Thread.fresh t v
  let dest (t : Target) : Target := match t with
    | .core n => .core (n + base)
    | y => y
  let un (b : Bin) : Bin := { b.fresh v with
    opened := k.clock - b.opened, starve := k.clock - b.starve, target := dest b.target }
  let k1 := { k with
    unbinned := k.unbinned ++ m.unbinned.map fr
    waiting := k.waiting ++ m.waiting.map fr }
  -- a bin for which none is free leaves its records unbinned
  m.bins.foldl (fun k e =>
    match Table.lowest k.bins 1024 0 with
    | some i => { k with bins := Table.put k.bins i (un e.2) }
    | none => { k with unbinned := k.unbinned ++ e.2.recs.map fr }) k1

/-- Every block that was placed at the save is restored; nothing when one finds no core. With each comes the core it
went to. -/
def settleAll : List Block → State → Option (List (Nat × Block) × State)
  | [], s => some ([], s)
  | b :: t, s =>
    match s.homeFor b with
    | none => none
    | some core =>
      (settleAll t (s.settleBlock core b)).map fun r => ((core, b) :: r.1, r.2)

/-- Gives a context the registers of an image; its stream's view is raised to the restore tick (R440). -/
def Ctx.fromImage (x : Ctx) (m : Image) (root : Nat) (v : View) : Ctx :=
  { x with
    resBase := m.resBase, resCtl := m.resCtl, prog := m.prog, events := m.events, stream := { m.stream with view := v }
    root := root }

/-- What an image holds outside its clusters' cores: the header and the stream section, and the grids, gangs, buffers,
rotated waves and waiting blocks that stand in no core. -/
def State.openImage (s : State) (c : Nat) (m : Image) : State :=
  let f := s.partOf c
  let base := 8 * f
  let v := s.mem.nowView
  let abs (p : Nat) (l : Level) : Nat := match l with
    | .c => p + base
    | .g => p + f
    | _ => p
  let s1 := { (s.updCtx c fun x => x.fromImage m (s.mem.numD (x.saveArea + 0x1510) 8) v) with
    grids := m.grids.foldl (fun (t : Table Grid) (e : Nat × Grid) =>
      Table.put t e.1 { e.2.unsaved s.tick with ctx := c }) s.grids
    gangs := m.gangs.foldl (fun (t : Table Gang) (e : Nat × Gang) =>
      Table.put t e.1 { e.2 with cluster := e.2.cluster + f }) s.gangs
    blocks := (m.blocks.filter fun e => !e.2.placed).foldl (fun (t : Table Block) (e : Nat × Block) =>
      Table.put t e.1 { e.2 with core := e.2.core + base, spilledAt := s.tick }) s.blocks
    mem := { s.mem with bufs := s.mem.bufs ++ m.bufs.map fun (b : Buf) => b.rel abs } }
  ((s.clustersOf f).zip m.clusters).foldl (fun s e => s.updCluster e.1 fun k => { k with
    rotated := k.rotated ++ e.2.rotated.map fun r =>
      { r with core := r.core + base, wave := { r.wave.fresh v with ctx := c } } }) s1

/-- Restores a context from its image, in the order of R448: nothing while a block of it finds no core (R52). -/
def State.restoreCtx (s0 : State) (c : Nat) (m0 : Image) : Option State :=
  let y := s0.imageFor c m0
  let m := y.1
  let s := y.2
  let cls := s.clustersOf (s.partOf c)
  let base := 8 * s.partOf c
  let v := s.mem.nowView
  let blocks := ((m.blocks.filter fun e => e.2.placed).map Prod.snd).map fun b => { b with
    core := b.core + base, swaves := b.swaves.map (fun w => { w with ctx := c })
    scopies := b.scopies.map fun y => { y with ctx := c } }
  match settleAll blocks (s.openImage c m) with
  | none => none
  | some r =>
    let each (f : State → Nat × Block → State) (s : State) : State := r.1.foldl f s
    let s1 := cls.foldl (fun s cl => s.seatHeld cl fun w => w.wave.ctx = c) r.2
    let s2 := each (fun s e => s.basinsBack e.1 e.2) s1
    let s3 := (cls.zip m.clusters).foldl (fun s e => s.updCluster e.1 fun k => k.putBack e.2 base v) s2
    let s4 := each (fun s e => s.fixRecs e.1 e.2) s3
    let s5 := (cls.zip m.clusters).foldl (fun s e => s.updCluster e.1 fun k => { k with
      trav := e.2.trav.foldl (fun t x => Table.put t x.1 (Thread.fresh x.2 v).goesOn) k.trav }) s4
    some ((each (fun s e => s.copiesBack e.1 e.2) s5).startRun c false)

/-- CONTEXT_RESTORED (R446, R448). -/
def execContextRestored (c6 : BitVec 6) (s : State) : Res :=
  let c := c6.toNat
  let x := s.ctx c
  if x.st != .saved || !x.reqHeld || s.dev.stopped then .next s
  else
    match s.imageAt x.saveArea (s.part (s.partOf c)).size with
    | none => .next (s.rejectImage c)
    | some m =>
      match s.restoreCtx c m with
      | none => .next s
      | some s1 => .next s1

end Sys2Proof.Machine
end

