-- ==== Sys2Proof/Machine/Dump.lean ====
section
/-! DEFINITION. Core dumps (spec/20 R471, R472). Addresses of a dump are physical. -/

namespace Sys2Proof.Machine

/-! ### Sections (R471) -/

/-- A section before its header: type, cluster, core, index, body. -/
structure Section' where
  kind : Nat
  cl : Nat
  core : Nat
  index : Nat
  body : List Byte
deriving DecidableEq, Repr

/-- The bytes of a section with its header. -/
def Section'.bytes (x : Section') : List Byte :=
  bytesOf 1 x.kind ++ bytesOf 1 x.cl ++ bytesOf 1 x.core ++ [0] ++ bytesOf 4 x.index ++
  bytesOf 8 (x.body.length + 16) ++ x.body

/-- A thread in a dump: its cluster and core, whether it holds its registers, its PC and key. -/
structure DumpThread where
  cl : Nat
  core : Nat
  held : Bool
  pc : Pc
  t : Thread
deriving DecidableEq, Repr

/-- What a dump of a context shows besides its stream and records. -/
structure DumpSet where
  blocks : List (Nat × Nat × List Byte)
  crews : List (Nat × Nat × Crew)
  threads : List DumpThread
deriving DecidableEq, Repr

/-- Scratch and stash bytes with one bit a line, set where the line is full. -/
def blockBody (bytes : List Byte) (empty : Nat → Bool) : List Byte :=
  let lines := bytes.length / 128
  bytes ++ (natsFrom 0 ((lines + 7) / 8)).map fun k =>
    BitVec.ofNat 8 ((natsFrom 0 8).foldl (fun n i =>
      if 8 * k + i < lines && !empty (8 * k + i) then n + 2 ^ i else n) 0)

/-- A block's body, placed or lifted. -/
def State.blockDump (s : State) (b : Block) : List Byte :=
  let n := (s.sizes b).1 + (s.sizes b).2
  if b.stands then
    blockBody (s.scratchBytes b.core (natsFrom b.scratch n)) fun l =>
      (s.core b.core).empty.any fun e => e = b.scratch / 128 + l
  else blockBody ((natsFrom 0 n).map fun a => cellGet b.sbytes a) fun l => b.sempty.any fun e => e = l

/-- Where a lane of a wave goes on: the wave's PC, but for a lane that leaves, or that waits in the mask stack (R36). -/
def Wave.lanePc (w : Wave) (n : Nat) (t : Thread) : Pc :=
  match t.st with
  | .leaving pc _ => pc
  | _ => ((w.mask.find? fun e => e.other.getLsbD n).map MaskEntry.pc).getD w.pc

/-- The threads of a wave. -/
def waveDump (core : Nat) (w : Wave) : List DumpThread :=
  w.lanes.map fun e => { cl := clusterOf core, core := core % 8, held := true, pc := w.lanePc e.1 e.2, t := e.2 }

/-- Threads that wait as records. -/
def fileDump (cl : Nat) (l : List Thread) : List DumpThread :=
  l.map fun t => { cl := cl, core := 0xFF, held := false, pc := t.pc, t := t }

/-- The threads of a basin. -/
def basinDump (core : Nat) (b : Basin) : List DumpThread :=
  b.threads.map fun t => { cl := clusterOf core, core := core % 8, held := true, pc := b.key.pc, t := t }

/-- Everything of a lifted block. -/
def liftedThreads (core : Nat) (b : Block) : List DumpThread :=
  (b.swaves.flatMap fun w => waveDump core w) ++ b.sbasins.flatMap fun x => basinDump core x

/-- Inserts a block by its number. -/
def insertBlock (b : Block) : List Block → List Block
  | [] => [b]
  | x :: t => if b.idx < x.idx then b :: x :: t else x :: insertBlock b t

/-- The blocks of some list, by core and number. -/
def State.blockSections (s : State) (base : Nat) (l : List Block) : List (Nat × Nat × List Byte) :=
  let mine (c : Nat) : List Block := l.filter fun b => b.core + base = c && !s.isBatch b
  (natsFrom 0 128).flatMap fun c =>
    ((mine c).foldl (fun t b => insertBlock b t) []).map fun b => (c, b.idx, s.blockDump b)

/-- What a context holds on the device. -/
def State.dumpLive (s : State) (c : Nat) : DumpSet :=
  let mine (kid : Nat) : Bool := s.ctxOfKid kid = c
  let blocks := (s.blocks.map Prod.snd).filter fun b => mine b.kid
  let cls := s.clustersOf (s.partOf c)
  let lifted (k : Nat) : List Block := blocks.filter fun b => !b.stands && b.core = k
  { blocks := s.blockSections 0 blocks
    crews := cls.flatMap fun cl => (natsFrom (8 * cl) 8).flatMap fun k =>
      (((s.core k).crews.filter fun e => mine e.2.kid).map fun e => (k, e.1, e.2)) ++
      (lifted k).flatMap fun b => b.screws.map fun e => (k, e.1, e.2)
    threads := cls.flatMap fun cl =>
      let x := s.cluster cl
      let recs := (x.unbinned ++ x.waiting ++ (x.bins.flatMap fun e => e.2.recs) ++
        x.trav.map Prod.snd).filter fun t => mine t.kid
      ((natsFrom (8 * cl) 8).flatMap fun k =>
        (((s.core k).waves.filter fun e => e.2.ctx = c).flatMap fun e => waveDump k e.2) ++
        (((s.core k).basins.filter fun e => mine e.2.key.kid).flatMap fun e => basinDump k e.2) ++
        (lifted k).flatMap fun b => liftedThreads k b) ++
      ((x.rotated.filter fun e => e.wave.ctx = c).flatMap fun e => waveDump e.core e.wave) ++
      fileDump cl recs }

/-- What an image holds (R471). -/
def State.dumpImage (s : State) (f : Nat) (m : Image) : DumpSet :=
  let base := 8 * f
  let blocks := m.blocks.map Prod.snd
  let cls := (natsFrom 0 m.clusters.length).zip m.clusters
  { blocks := s.blockSections base (blocks.map fun b => { b with lifted := true })
    crews := blocks.flatMap fun b => b.screws.map fun e => (b.core + base, e.1, e.2)
    threads := (blocks.flatMap fun b => liftedThreads (b.core + base) b) ++
      cls.flatMap fun e =>
        (e.2.rotated.flatMap fun x => waveDump (x.core + base) x.wave) ++
        fileDump (e.1 + f) (e.2.unbinned ++ e.2.waiting ++ (e.2.bins.flatMap fun x => x.2.recs) ++
          e.2.trav.map Prod.snd) }

/-- What a dump of a context shows. -/
def State.dumpSet (s : State) (c : Nat) : DumpSet :=
  if (s.ctx c).st = .saved then
    match s.images.find? fun m => m.area = (s.ctx c).saveArea with
    | some m => s.dumpImage (s.partOf c) m
    | none => { blocks := [], crews := [], threads := [] }
  else s.dumpLive c

/-- The bytes of a tile image (R105). -/
def tileImage (t : Table Word) : List Byte :=
  (natsFrom 0 4096).flatMap fun k => bytesOf 4 (Table.getD t k 0).toNat

/-- The sections of the threads, each under its number in the dump. -/
def threadSections : List DumpThread → Nat → State → List Section' × State
  | [], _, s => ([], s)
  | x :: l, n, s =>
    let key := if x.held && x.t.ray.isNone then x.t.key.getD 0 else x.t.ckey
    let r := s.recordBytes x.t x.pc key
    let regs := if x.held then (natsFrom 0 x.t.limit).flatMap fun k => bytesOf 4 (Table.getD x.t.v k 0).toNat
      else []
    let u := threadSections l (n + 1) r.2
    ({ kind := 5, cl := x.cl, core := x.core, index := n, body := r.1 ++ regs } :: u.1, u.2)

/-- The state with the grids and blocks of a saved context's image in their tables. -/
def State.withImage (s : State) (c : Nat) : State :=
  if (s.ctx c).st = .saved then
    match s.images.find? fun m => m.area = (s.ctx c).saveArea with
    | some m => { s with grids := m.grids, blocks := m.blocks }
    | none => s
  else s

/-- The sections of a dump, in their order (R471). -/
def State.dumpSections (s0 : State) (c : Nat) : List Section' × State :=
  let s := s0.withImage c
  let x := s.ctx c
  let d := s.dumpSet c
  let body := (Ctx.streamBytes x 0 ++ mapBytes 0x1000 x.stream.hR ++ mapBytes 0x2000 x.stream.hS).map Prod.snd
  let recs := ((s.part (s.partOf c)).ring.filter fun e => e.2.frec.ctx.toNat = c).flatMap fun e =>
    e.2.frec.bytes
  let t := threadSections d.threads 0 s
  ([{ kind := 1, cl := 0, core := 0, index := 0, body := body },
    { kind := 2, cl := 0, core := 0, index := 0, body := recs }] ++
   (d.blocks.map fun b => { kind := 3, cl := b.1 / 8, core := b.1 % 8, index := b.2.1, body := b.2.2 }) ++
   (d.crews.map fun e => { kind := 4, cl := e.1 / 8, core := e.1 % 8, index := e.2.1
                           body := e.2.2.tiles.flatMap tileImage }) ++ t.1, { s0 with fresh := t.2.fresh })

/-! ### Writing (R472) -/

/-- The agent number of dumps in the D order. -/
def dumpAgent : Nat := 7

/-- The header of a dump (R471). -/
def dumpHeader (c tick len need flags sections bytes fault : Nat) : List Byte :=
  bytesOf 4 0x504D5544 ++ bytesOf 4 1 ++ bytesOf 1 c ++ bytesOf 1 flags ++ bytesOf 2 sections ++
  bytesOf 4 0 ++ bytesOf 8 tick ++ bytesOf 8 bytes ++ bytesOf 8 fault ++ bytesOf 8 len ++ bytesOf 8 need ++
  bytesOf 72 0

/-- A write of a dump fails: its address is not valid (R407), or it is the peer's and the link has delivered nothing for
so long that the endpoint answers 0x0F (R450). -/
def State.dumpFails (s : State) (a : Nat) : Bool := !s.paValid a || (peerHomed a && s.linkDead)

/-- Writes bytes up to the first that fails: how many, and the state. -/
def State.writeValid (s : State) (a : Nat) (bs : List Byte) : Nat × State :=
  let n := ((natsFrom 0 bs.length).find? fun k => s.dumpFails (a + k)).getD bs.length
  if n = 0 then (0, s)
  else (n, { s with mem := s.mem.agentWrite s.tick dumpAgent a (bs.take n) })

/-- How far a dump has come. -/
structure DumpRun where
  s : State
  sections : Nat
  bytes : Nat
  flags : Nat
  fault : Nat
deriving DecidableEq, Repr

/-- Writes the sections in order, none that does not fit whole. -/
def writeSections (base len : Nat) : List Section' → DumpRun → DumpRun
  | [], r => { r with flags := r.flags + 4 }
  | x :: t, r =>
    let bs := x.bytes
    if r.bytes + bs.length > len then { r with flags := r.flags + 1 }
    else
      let u := r.s.writeValid (base + r.bytes) bs
      if u.1 < bs.length then
        { r with s := u.2, bytes := r.bytes + u.1, flags := r.flags + 2, fault := base + r.bytes + u.1 }
      else writeSections base len t { r with s := u.2, sections := r.sections + 1, bytes := r.bytes + u.1 }

/-- What a dump gives: the state, the bytes written, whether its first header was written, and the address of
the write that failed, if one did. -/
structure Dumped where
  s : State
  bytes : Nat
  head : Bool
  fault : Option Nat
deriving DecidableEq, Repr

/-- Dumps a context into a buffer (R471, R472). -/
def State.dump (s0 : State) (c base len : Nat) : Dumped :=
  let l := s0.dumpSections c
  let s := l.2
  let need := 128 + l.1.foldl (fun n x => n + x.bytes.length) 0
  if len < 128 then { s := s, bytes := 0, head := false, fault := none }
  else
    let h := s.writeValid base (dumpHeader c s.tick len need 0 0 0 0)
    if h.1 < 128 then { s := h.2, bytes := h.1, head := false, fault := some (base + h.1) }
    else
      let r := writeSections base len l.1 { s := h.2, sections := 0, bytes := 128, flags := 0, fault := 0 }
      let e := r.s.writeValid base (dumpHeader c s.tick len need r.flags r.sections r.bytes r.fault)
      { s := e.2, bytes := r.bytes, head := true
        fault := if r.flags / 2 % 2 = 1 then some r.fault else none }

end Sys2Proof.Machine
end

