-- ==== Sys2Proof/Machine/System.lean ====
section
/-! DEFINITION. The system instructions and the start of a handler (spec/16 R386 to R388; spec/19 R446). -/

namespace Sys2Proof.Machine

/-! ### Issuing -/

/-- The form of a system instruction (R387): uniform guard, and a level. -/
def sysForm (len : Nat) (g : Guard) (level : Mode) (uses : List RegRun) : Form :=
  { len := len, g := g, uniform := true, level := level, uses := uses }

/-- The slot of the issuing handler; at firmware level, slot 16. -/
def Here.who (h : Here) : Nat := h.hand.getD 16

/-- Issues a system instruction with the thread of its one lane. -/
def State.system (s : State) (f : Form) (k : Here → Nat → Thread → State) : Res :=
  s.issue f fun h ls =>
    match ls.head? with
    | some e => k h e.1 e.2
    | none => s

/-- Ends a system instruction whose thread has changed. -/
def State.doneThread (s : State) (h : Here) (lane : Nat) (t : Thread) (len : Nat) : State :=
  s.doneLen h (h.wave.setLane lane t) len

/-- A context operand (R387): none above 63, and none of another partition at supervisor level. -/
def State.ctxOperand (s : State) (h : Here) (x : Word) : Except RegErr Nat :=
  if x.toNat > 63 then .error { code := 1 }
  else if !s.mayReach (.slot h.who) .ctx x.toNat then .error { code := 5 }
  else .ok x.toNat

/-- A cluster mask (R387). -/
def State.maskOperand (s : State) (h : Here) (x : Word) : Except RegErr (List Nat) :=
  let l := (natsFrom 0 16).filter fun n => x.getLsbD n
  if l.all fun c => s.mayReach (.slot h.who) .cluster c then .ok l else .error { code := 5 }

/-- A refused operand is a fault of the handler (R386). -/
def State.refuse (s : State) (h : Here) (e : RegErr) : State :=
  s.raise h { code := e.code, cause := e.cause, lane := lowLane h.wave.active }

/-! ### Registers -/

/-- SRD (R388). -/
def execSrd (x : SrdOp) (s : State) : Res :=
  s.system (sysForm 16 x.g .supervisor [(x.d.toNat, 2)]) fun h lane t =>
    match s.regCheck (.slot h.who) x.n.toNat x.i.toNat with
    | some e => s.refuse h e
    | none => s.doneThread h lane (t.setPair x.d.toNat (s.regRead x.n.toNat x.i.toNat)) 16

/-- SWR (R388): the thread's stores are at D already, for a handler's stores are placed there. The register is noted for
the rest of the cc, in which the device does not change what it has been given. -/
def execSwr (x : SwrOp) (s : State) : Res :=
  s.system (sysForm 16 x.g .supervisor (Src.run 2 x.a)) fun h _ t =>
    match s.regWrite (.slot h.who) x.n.toNat x.i.toNat (Src.int64 h.wave none t x.a) with
    | .error e => s.refuse h e
    | .ok s' => State.doneLen { s' with cc := { s'.cc with swr := (x.n.toNat, x.i.toNat) :: s'.cc.swr } } h h.wave 16

/-- TRET (R388). -/
def execTret (x : NullOp) (s : State) : Res :=
  s.system (sysForm 8 x.g .supervisor []) fun h _ _ => s.ret h.who

/-! ### Caches -/

/-- An access in flight of a context on a core still uses a translation it began with (R420): a load at D under a flag, a
matrix-engine operation that has addresses to use, or a tile task with writes to make. -/
def Core.translated (k : Core) (c : Nat) : Bool :=
  (k.ops.any fun e =>
    (!e.2.late.isEmpty && (Table.get? k.waves e.2.slot).any fun w => w.ctx = c) ||
    match e.2.eng with
    | some o => o.ctx = c && (match o.out with
        | none => !o.pas.isEmpty || !o.shell.isEmpty
        | some l => !l.isEmpty && !o.toScratch)
    | none => false) ||
  k.deps.any fun e => e.2.ctx = c && (!(e.2.out.getD []).isEmpty || !e.2.pairs.isEmpty)

/-- TLBINV (R388, R420): the entries go at once; the instruction completes when no access in flight uses one. -/
def execTlbinv (x : TlbinvOp) (s : State) : Res :=
  let page := match x.page with
    | some a => Src.run 2 a
    | none => []
  s.system (sysForm 8 x.g .supervisor (runs [x.c] ++ page)) fun h _ t =>
    match s.ctxOperand h (Src.int h.wave none t x.c) with
    | .error e => s.refuse h e
    | .ok c =>
      let f := s.partOf c
      let va := x.page.map fun a => (Src.int64 h.wave none t a).toNat
      let s1 := s.dropTlb c va fun cl => s.inPart f cl
      if s1.cores.any fun k => k.translated c then s1 else s1.doneLen h h.wave 8

/-- CINV (R388): the lines are clean, so nothing is written back. From here on no copy in the data ways is older than
D is now (R107); the traversal units' data lines stand beside the treelets, under odd keys. -/
def execCinv (x : CinvOp) (s : State) : Res :=
  s.system (sysForm 8 x.g .supervisor (runs [x.m])) fun h _ t =>
    match s.maskOperand h (Src.int h.wave none t x.m) with
    | .error e => s.refuse h e
    | .ok l =>
      let drop (c : Cluster) : Cluster := match x.kind with
        | .code => { c with fcache := [] }
        | .tree => { c with treelets := c.treelets.filter fun e => e.1 % 2 = 1 }
        | .data => { c with
            treelets := c.treelets.filter fun e => e.1 % 2 = 0, dataFloor := s.mem.pos }
      (l.foldl (fun s cl => s.updCluster cl drop) s).doneLen h h.wave 8

/-! ### Freezing and dumping -/

/-- HALTC freezes a cluster, as a hit does (R457); a step in progress ends. -/
def State.haltCluster (s : State) (cl : Nat) : State :=
  let s1 := s.updCluster cl fun c => { c with
    dbg := { c.dbg with frozen := true, step := none, haltc := true } }
  if (s.cluster cl).dbg.frozen then s1 else (s1.clearDead cl).traceAll cl 6

/-- HALTC (R388). -/
def execHaltc (x : HaltcOp) (s : State) : Res :=
  s.system (sysForm 8 x.g .firmware (runs [x.m])) fun h _ t =>
    match s.maskOperand h (Src.int h.wave none t x.m) with
    | .error e => s.refuse h e
    | .ok l =>
      let s1 := if x.resume then l.foldl (fun s cl => s.thaw cl) s
        else l.foldl (fun s cl => s.haltCluster cl) s
      s1.doneLen h h.wave 8

/-- DUMP (R388, R471). -/
def execDump (x : DumpOp) (s : State) : Res :=
  let uses := (x.d.toNat, 2) :: (runs [x.c] ++ Src.run 2 x.a ++ Src.run 2 x.l)
  s.system (sysForm 8 x.g .supervisor uses) fun h lane t =>
    match s.ctxOperand h (Src.int h.wave none t x.c) with
    | .error e => s.refuse h e
    | .ok c =>
      if !(s.ctx c).settled then s.refuse h { code := 1, cause := 11 }
      else
        let va := (Src.int64 h.wave none t x.a).toNat
        let r := s.dump c va (Src.int64 h.wave none t x.l).toNat
        match r.fault with
        | some a => r.s.raise h { code := 5, cause := 4, lane := some lane, addr := a }
        | none => r.s.doneThread h lane (t.setPair x.d.toNat (BitVec.ofNat 64 r.bytes)) 8

/-! ### Images: copies of them, and their names (R388, R446) -/

/-- The first address of a range that is not valid (R407): ranges of one region end where it ends. -/
def State.rangeBad (s : State) (a n : Nat) : Option Nat :=
  let limit := match paRegion a with
    | 0 => s.capacity
    | 4 => if s.paired then s.peerCapacity else 0
    | 8 => 2 ^ 48
    | _ => 0
  let off := a % 2 ^ 48
  if a ≥ 2 ^ 52 || limit ≤ off then some a
  else if off + n > limit then some (a + (limit - off))
  else none

/-- A poisoned line within a range (R434). -/
def Memory.poisonIn (m : Memory) (a n : Nat) : Option Nat :=
  (m.poison.filter fun l => l < a + n && a < l + 128).foldl (fun (o : Option Nat) l =>
    match o with
    | none => some l
    | some k => some (min k l)) none

/-- Copies a range at D to another as one arrival: what reads as zero on both sides is left out. -/
def State.copyImage (s : State) (src dst n : Nat) : State :=
  let inside (a x : Nat) : Bool := a ≤ x && x < a + n
  let offs := ((s.mem.cells.filter fun e => inside src e.1).map fun e => e.1 - src) ++
    ((s.mem.dirty.filter fun e => inside src e.1).map fun e => e.1 - src) ++
    ((s.mem.cells.filter fun e => inside dst e.1).map fun e => e.1 - dst) ++
    (s.mem.dirty.filter fun e => inside dst e.1).map fun e => e.1 - dst
  let bs : List NewByte := offs.eraseDups.map fun o =>
    { addr := dst + o, val := s.mem.atD (src + o), who := [], marks := [] }
  { s with mem := s.mem.arriveD s.tick (.agent saveAgent) bs }

/-- CTXSAVE (R388): it waits for the saved state. -/
def execCtxsave (x : CtxImgOp) (s : State) : Res :=
  s.system (sysForm 8 x.g .firmware (runs [x.c] ++ Src.run 2 x.a)) fun h lane t =>
    match s.ctxOperand h (Src.int h.wave none t x.c) with
    | .error e => s.refuse h e
    | .ok c =>
      let va := (Src.int64 h.wave none t x.a).toNat
      let k := s.ctx c
      let n := s.areaBytes c
      if k.st = .running then s.reqStop c
      else if k.st != .saved then s
      else
        match s.rangeBad va n, s.mem.poisonIn k.saveArea n with
        | some a, _ => s.raise h { code := 5, cause := 4, lane := some lane, addr := a }
        | none, some l => s.raise h { code := 0x0E, lane := some lane, addr := l }
        | none, none =>
          (s.copyImage k.saveArea va n).doneLen h h.wave 8

/-- CTXLOAD (R388, R446): the image at va is checked before any byte is written. -/
def execCtxload (x : CtxImgOp) (s : State) : Res :=
  s.system (sysForm 8 x.g .firmware (runs [x.c] ++ Src.run 2 x.a)) fun h lane t =>
    match s.ctxOperand h (Src.int h.wave none t x.c) with
    | .error e => s.refuse h e
    | .ok c =>
      let va := (Src.int64 h.wave none t x.a).toNat
      let k := s.ctx c
      let n := s.areaBytes c
      if !k.bound || !k.settled then s.refuse h { code := 1, cause := 12 }
      else
        match s.rangeBad va n, s.mem.poisonIn va n with
        | some a, _ => s.raise h { code := 5, cause := 4, lane := some lane, addr := a }
        | none, some l => s.raise h { code := 0x0E, lane := some lane, addr := l }
        | none, none =>
          match s.imageAt va (s.part (s.partOf c)).size with
          | none => s.refuse h { code := 1, cause := 15 }
          | some m =>
            let s1 := (s.copyImage va k.saveArea n).putImage
              { m.rename s.uids c with area := k.saveArea }
            let s2 := { s1 with uids := 2 * s.uids }
            ((s2.updCtx c fun y => { y with st := .saved }).changed c).doneLen h h.wave 8

/-! ### Handlers and their queue (R386, R388) -/

/-- Pops the oldest record of a partition's queue and holds its slot: the record's address and class. -/
def State.pop (s : State) (f : Nat) : Option (Nat × Nat) × State :=
  let p := s.part f
  match p.ring with
  | [] => (none, s)
  | e :: rest =>
    (some (p.fqbase + 64 * e.1, e.2.frec.cls.toNat),
      s.updPart f fun p => { p with ring := rest, held := some e })

/-- FQPOP (R388). Slot 16 serves no partition, so it finds no record. -/
def execFqpop (x : FqpopOp) (s : State) : Res :=
  s.system (sysForm 8 x.g .supervisor [(x.d.toNat, 2)]) fun h lane t =>
    let f := h.who
    let r := if f < 16 then (s.releaseHeld f).pop f else (none, s)
    match r.1 with
    | some y => r.2.doneThread h lane
        ((t.setPred x.pd.toNat true).setPair x.d.toNat (BitVec.ofNat 64 y.1)) 8
    | none => r.2.doneThread h lane (t.setPred x.pd.toNat false) 8

/-- HOSTIRQ (R388, R477). -/
def execHostirq (x : HostirqOp) (s : State) : Res :=
  s.system (sysForm 8 x.g .supervisor []) fun h _ _ =>
    (s.setDev { s.dev with irqPend := s.dev.irqPend ||| BitVec.ofNat 32 (2 ^ x.n.toNat) }).doneLen h
      h.wave 8

/-- A condition of WAITI holds for a slot. -/
def State.waitiMet (s : State) (f : Nat) (x : WaitiOp) : Bool :=
  (x.state && (s.handler f).changed) || (x.bell && (s.handler f).bell) ||
  (x.queue && f < 16 && !(s.part f).ring.isEmpty)

/-- WAITI (R388): what occurred since the last one counts once. -/
def execWaiti (x : WaitiOp) (s : State) : Res :=
  s.system (sysForm 8 x.g .supervisor []) fun h _ _ =>
    if s.waitiMet h.who x then
      (s.updHandler h.who fun y => { y with bell := false, changed := false }).doneLen h h.wave 8
    else s

/-- The thread of a handler: base count 32, every register zero but v0 to v3. -/
def handlerThread (uid addr cls f : Nat) : Thread :=
  let pc : Pc := 0
  let v : Table Word :=
    [(0, BitVec.ofNat 32 addr), (1, BitVec.ofNat 32 (addr / 2 ^ 32)), (2, BitVec.ofNat 32 cls),
      (3, BitVec.ofNat 32 f)]
  { uid := uid, kid := 0, blockUid := 0, index := 0, tidx := 0, base := 32, claimed := 0, v := v, p := 0
    flags := [], facq := [], depth := 0, key := none, pend := [], batch := 1, episode := 0
    view := View.zero, rel := [], seen := [], st := .run, pc := pc, ckey := 0, cause := 0, wait := 0
    spilled := false, oslot := 0, filedAt := 0, alane := 0, crewRef := none, ray := none }

/-- HANDLER_START (R386): an idle slot and a queue that is not empty. The control core is part of the management
controller, whose clock goes on under a precise stop (R463). -/
def execHandlerStart (f5 : BitVec 5) (s : State) : Res :=
  let f := f5.toNat
  if f ≥ 16 || (s.handler f).wave.isSome then .next s
  else
    let r := s.pop f
    match r.1 with
    | none => .next s
    | some y =>
      let t := handlerThread r.2.uids y.1 y.2 f
      let w : Wave := { Wave.ofThreads 64 0 (BitVec.ofNat 52 (s.vector f y.2)) [t] s.tick with
        mode := .supervisor }
      .next (({ r.2 with uids := r.2.uids + 1 }).updHandler f fun _ =>
        { wave := some w, bell := false, changed := false })

end Sys2Proof.Machine
end

