-- ==== Sys2Proof/Machine/Power.lean ====
section
/-! DEFINITION. The host's window, bring-up, power and heat, memory errors, and walks that complete (spec/18
R413; spec/19 R434; spec/21 R474, R475, R484, R486 to R489). -/

namespace Sys2Proof.Machine

/-! ### Walks and memory errors -/

/-- TRANSLATION_WALK (R413): a walk for a core completes, its entries cached. -/
def execTranslationWalk (x : CoreId) (ctx : BitVec 6) (va : BitVec 52) (s : State) : Res :=
  let core := coreNum x
  let c := ctx.toNat
  s.live (clusterOf core) <|
  if (s.ctx c).bound && s.inPart (s.partOf c) (clusterOf core) && va.toNat < windowBase then
    .next (s.translate { core := some core, cl := clusterOf core } c va.toNat .read).2
  else .next s

/-- Queues an event that names no context: in the lowest valid partition, or for the host (log 27). -/
def State.postDevice (s : State) (r : FaultRec) : State :=
  match (natsFrom 0 16).find? fun f => (s.part f).valid with
  | some f => s.post f { frec := r, page := none }
  | none => s.postHost { frec := r, page := none }

/-- ECC_ERROR_NO_REQUESTER (R434): the line is poisoned, and a record says so. -/
def execEccErrorNoRequester (line : Nat) (s : State) : Res :=
  let l := line / 128 * 128
  if !s.paValid l then .next s
  else
    let r := { FaultRec.blank 0x0E s.tick with src := 8, addr := BitVec.ofNat 64 l }
    let m := { s.mem with
      poison := if s.mem.poison.any fun k => k = l then s.mem.poison else s.mem.poison ++ [l] }
    .next (({ s with mem := m }).postDevice { r with detail := r.detailNow })

/-- ECC_CORRECTABLE_ERROR (R486): the count, and class 0x1B where it reaches the threshold; a count that an SWR has
written in the same cc stands (R388). -/
def execEccCorrectableError (line : Nat) (s : State) : Res :=
  let n := s.dev.ceCount
  if n = 0xFFFF || !s.paValid line || s.swrStands 0x005 0 then .next s
  else
    let s1 := { s with dev := { s.dev with ceCount := n + 1 } }
    .next (if s.dev.thresh != 0 && n + 1 = s.dev.thresh then
      s1.postDevice { FaultRec.blank 0x1B s.tick with src := 8 } else s1)

/-! ### BAR2 (R474, R475) -/

/-- The host's agent number in the D order. -/
def hostAgent : Nat := 6

/-- Where a BAR2 access of some bytes lands: nothing where it completes as an Unsupported Request. The host gives the BAR
a size of 1 GiB to 512 GiB (R474), which is open (log 135). -/
def State.bar2Pa (s : State) (off n : Nat) : Option Nat :=
  let a := s.dev.win * 2 ^ 30 + off
  if s.dev.phase = 3 && off + n ≤ 2 ^ (30 + Config.bar2Size s.tick % 10) && a + n ≤ s.capacity then some a else none

/-- BAR2_WRITE: a placed store at S. -/
def execBar2Write (off : Nat) (bytes : List Byte) (s : State) : Res :=
  match s.bar2Pa off bytes.length with
  | some a => .next (if bytes.isEmpty then s
      else { s with mem := s.mem.agentWrite s.tick hostAgent a bytes })
  | none => .next s

/-- BAR2_READ: a strong load at D; the host gets no byte of a poisoned line (R434). -/
def execBar2Read (off n : Nat) (s : State) : Res :=
  .next (match s.bar2Pa off n with
    | some a => { s with dev := { s.dev with
        bar2 := if s.mem.poisoned a n then [] else s.mem.readD a n } }
    | none => { s with dev := { s.dev with bar2 := [] } })

/-! ### Bring-up (R484, R486) -/

/-- DEVICE_RESET: the machine as after reset; what stands in memory stays, DEV_ECC.EN is kept for the bring-up
that samples it, and no free choice and no name is used twice (log 28). -/
def execDeviceReset (s : State) : Res :=
  .next { State.reset with
    mem := { Memory.reset with cells := s.mem.cells, poison := s.mem.poison }
    dev := { Device.reset with eccEn := s.dev.eccEn }
    agenda := s.agenda, fresh := s.fresh, uids := s.uids }

/-- MEMORY_TRAINING_DONE: PHASE 2, with EN sampled. -/
def execMemoryTrainingDone (s : State) : Res :=
  .next (if s.dev.phase = 1 then
    { s with dev := { s.dev with phase := 2, eccOn := s.dev.eccEn } } else s)

/-- FIRMWARE_READY: PHASE 3. -/
def execFirmwareReady (s : State) : Res :=
  .next (if s.dev.phase = 2 then { s with dev := { s.dev with phase := 3 } } else s)

/-- BRINGUP_FAILURE: PHASE 4, which only a reset leaves. -/
def execBringupFailure (s : State) : Res :=
  .next (if s.dev.phase = 1 || s.dev.phase = 2 then { s with dev := { s.dev with phase := 4 } } else s)

/-! ### Power and heat (R384, R488, R489) -/

/-- Thermal control is host-assisted: the device throttles only at its hard limit (R384). -/
def Device.hostThermal (d : Device) : Bool := d.func.getLsbD 4

/-- ALLOW_RECOMPUTE (R488): every 1,024 cc, a value the controller finds, unless the hard limit holds; while the
allowance is reduced at 100 °C it does not rise (R489). -/
def execAllowRecompute (a : BitVec 8) (s : State) : Res :=
  let d := s.dev
  if s.tick % 1024 != 0 || d.hot || a = 0 || a.toNat > 64 then .next s
  else
    .next { s with dev := if d.hostThermal then { d with allow := 64 } else
      match d.throttle with
      | none => { d with allow := a.toNat }
      | some r => { d with allow := min a.toNat r, throttle := some (min a.toNat r) } }

/-- In hardware mode the allowance is reduced from 100 °C on (R489); by how much is the controller's choice. -/
def State.reduce (s : State) : State :=
  if s.dev.hostThermal || s.dev.throttle.isSome then s
  else
    let r := s.pick (s.dev.allow - 1)
    let n := min s.dev.allow (r.1 + 1)
    { r.2 with dev := { r.2.dev with throttle := some n, allow := if s.dev.hot then s.dev.allow else n } }

/-- THERMAL_ALERT (R489): 100 °C. -/
def execThermalAlert (t : BitVec 8) (s : State) : Res :=
  if t.toNat < 100 then .next s
  else
    let s1 := { s with dev := { s.dev with temp := t } }
    .next (if s.dev.hostThermal then s1.postHost { frec := FaultRec.blank 0x1A s.tick, page := none } else s1.reduce)

/-- THERMAL_HARD_LIMIT (R489): 105 °C. -/
def execThermalHardLimit (t : BitVec 8) (s : State) : Res :=
  if t.toNat < 105 then .next s
  else
    let s1 := s.reduce
    .next { s1 with dev := { s1.dev with temp := t, hot := true, allow := 16 } }

/-- The allowance once the hard limit has fallen away: in hardware mode that of the reduction while it lasts, else any
value until it is computed again. -/
def State.release (s : State) : State :=
  if s.dev.hostThermal then { s with dev := { s.dev with allow := 64 } }
  else
    match s.dev.throttle with
    | some n => { s with dev := { s.dev with allow := n } }
    | none =>
      let r := s.pick 64
      { r.2 with dev := { r.2.dev with allow := r.1 + 1 } }

/-- THERMAL_RECOVER (R489): below 100 °C the limit of 16 falls away, and at 95 °C the reduction. -/
def execThermalRecover (t : BitVec 8) (s : State) : Res :=
  if t.toNat ≥ 100 then .next s
  else
    let held := if t.toNat ≤ 95 then none else s.dev.throttle
    let s1 := { s with dev := { s.dev with temp := t, hot := false, throttle := held } }
    .next (if s.dev.hot || held != s.dev.throttle then s1.release else s1)

/-- THERMAL_SHUTDOWN (R489): every clock but the tick and the management controller stops. -/
def execThermalShutdown (t : BitVec 8) (s : State) : Res :=
  .next (if t.toNat < 115 then s
    else { s with dev := { s.dev with temp := t, phase := 4, stopped := true } })

end Sys2Proof.Machine
end

