-- ==== Sys2Proof/Machine/Stream.lean ====
section
/-! DEFINITION. The instructions of a stream at their decoding: scalar control, handles, events, fences and
launches (spec/11 R315 to R334, R342 to R346). Each is decoded at the SPC of the stream in `cur`. -/

namespace Sys2Proof.Machine

/-! ### Decoding -/

/-- Performs the decoding of an instruction for the stream in `cur`. -/
def State.onStream (s : State) (k : Nat → Stream → State) : Res :=
  match s.cur with
  | .stream c => .next (k c (s.ctx c).stream)
  | .idle => .fault .noWave
  | .wave _ _ => .fault .noWave
  | .handler _ => .fault .noWave

/-- The instruction at SPC faults at decode (R319, R433). -/
def State.decodeFault (s : State) (c code cause addr : Nat) : State :=
  s.streamFault c { FaultRec.blank code s.tick with
    cause := BitVec.ofNat 8 cause, src := 4, addr := BitVec.ofNat 64 addr }

/-- Where a stream's reads are translated. -/
def State.laneVia (s : State) (c : Nat) : Via := { core := none, cl := s.partOf c }

/-- A read of the lane that fails: a page not present holds the stream (R316), anything else is a fault of the
instruction at SPC. -/
def State.streamErr (s : State) (c : Nat) (e : UnitErr) : State :=
  let n := (s.ctx c).stream
  match e with
  | .absent va l =>
    let m : PageMiss := { ctx := c, va := va, level := l, kind := .read }
    let p := s.pageFault m
      { FaultRec.blank 4 s.tick with
        ctx := BitVec.ofNat 8 c, src := 4, seq := BitVec.ofNat 64 n.seq, pc := BitVec.ofNat 64 n.spcS.toNat }
      []
    p.2.updCtx c fun x => { x with stream := { x.stream with stuck := some p.1 } }
  | .denied k va => s.decodeFault c 5 k va
  | .window va => s.decodeFault c 5 0 va
  | .ecc l => s.decodeFault c 0x0E 0 l

/-- Reads bytes at D for the instruction at SPC. -/
def State.streamRead (s : State) (c va n : Nat) (k : State → List Byte → State) : State :=
  let r := s.unitRead (s.laneVia c) c va n
  match r.1 with
  | .error e => r.2.streamErr c e
  | .ok bs => k r.2 bs

/-- The value of a 64-bit operand (R318 IQ). -/
def Stream.val (n : Stream) : QSrc → DWord
  | .imm x => x
  | .q i => Table.getD n.qS i.toNat 0

/-- A scalar register, speculative copy. -/
def Stream.q (n : Stream) (i : BitVec 5) : DWord := Table.getD n.qS i.toNat 0

/-- An entry is complete: its effects are made, or it has faulted (R329). -/
def Entry.complete (e : Entry) : Bool := e.st = .done || e.st = .faulted

/-! ### Scalar control (R321) -/

/-- NOPQ (R321). -/
def execNopq (s : State) : Res := s.onStream fun c _ => s.enter c (some .nopq) id id

/-- HALTQ (R321): decoding stops after it. -/
def execHaltq (s : State) : Res :=
  s.onStream fun c _ => s.enter c (some .haltq) id fun n => { n with stopDecode := true }

/-- A scalar instruction that writes a register (R322). -/
def State.setQ (s : State) (c : Nat) (i : Instr) (d : BitVec 5) (v : DWord) (f : Stream → Stream) : State :=
  s.enter c (some i) (fun e => { e with qw := some (d.toNat, v) }) fun n =>
    { f n with qS := Table.put n.qS d.toNat v }

/-- SETQ (R321). -/
def execSetq (x : SetqOp) (s : State) : Res := s.onStream fun c _ => s.setQ c (.setq x) x.d x.imm id

/-- MOVQ (R321). -/
def execMovq (x : MovqOp) (s : State) : Res := s.onStream fun c n => s.setQ c (.movq x) x.d (n.q x.a) id

/-- ADDQ (R321). -/
def execAddq (x : AddqOp) (s : State) : Res :=
  s.onStream fun c n => s.setQ c (.addq x) x.d (n.q x.a + n.val x.b) id

/-- CMPQ (R321). -/
def execCmpq (x : CmpqOp) (s : State) : Res :=
  s.onStream fun c n =>
    s.setQ c (.cmpq x) x.d (if wcondHolds x.cond 64 (n.q x.a).toNat (n.val x.b).toNat then 1 else 0) id

/-- The party a stream stands for where it acquires. -/
def streamChain : Chain :=
  { uid := 0, c := .agent 6, b := .agent 6, g := .agent 6 }

/-- A stream's view after it has loaded bytes strongly at D (R131, R134). -/
def State.streamAcquire (s : State) (v : View) (pas : List Nat) : View :=
  let v1 := s.mem.strongView .d pas v
  acquireView v1 streamChain .d (pas.foldl (fun l a => addMarks l (lastOf s.mem.log a).2) [])

/-- LDQ (R321): it stalls until every older entry has completed. -/
def execLdq (x : LdqOp) (s : State) : Res :=
  s.onStream fun c n =>
    let va := (n.q x.a + x.imm).toNat
    if !n.win.all Entry.complete then s
    else if va ≥ windowBase then s.decodeFault c 5 0 va
    else if va % 8 != 0 then s.decodeFault c 3 0 va
    else
      let r := s.unitFetch (s.laneVia c) c va 8
      match r.1 with
      | .error e => r.2.streamErr c e
      | .ok y => r.2.setQ c (.ldq x) x.d (BitVec.ofNat 64 (natOf y.2)) fun m =>
          { m with view := r.2.streamAcquire m.view y.1 }

/-- The target of a branch (R321). -/
def Stream.target (n : Stream) (off : DWord) : Pc := n.spcS + off.setWidth 52

/-- An IMM that is no offset of instructions raises 0x01 with cause 0 (R321). -/
def State.withTarget (s : State) (c : Nat) (off : DWord) (k : State) : State :=
  if off.extractLsb' 0 4 != 0#4 then s.decodeFault c 1 0 0 else k

/-- BRQ (R321). -/
def execBrq (x : BrqOp) (s : State) : Res :=
  s.onStream fun c n =>
    s.withTarget c x.off (s.enter c (some (.brq x))
      (fun e => if (n.q x.a != 0) != x.z then { e with nextPc := n.target x.off } else e) id)

/-- JMPQ (R321). -/
def execJmpq (off : DWord) (s : State) : Res :=
  s.onStream fun c n =>
    s.withTarget c off (s.enter c (some (.jmpq off)) (fun e => { e with nextPc := n.target off }) id)

/-- CALLQ (R321): the newest entry of the stack stands first. -/
def execCallq (off : DWord) (s : State) : Res :=
  s.onStream fun c n =>
    s.withTarget c off
      (if n.stackS.length ≥ 8 then s.decodeFault c 1 8 0
        else s.enter c (some (.callq off))
          (fun e => { e with nextPc := n.target off, stack := (n.spcS + 16) :: n.stackS }) id)

/-- RETQ (R321). -/
def execRetq (s : State) : Res :=
  s.onStream fun c n =>
    match n.stackS with
    | [] => s.decodeFault c 1 8 0
    | a :: t => s.enter c (some .retq) (fun e => { e with nextPc := a, stack := t }) id

/-! ### Handles (R323 to R325) -/

/-- The buffer a change of a handle displaces. -/
def Stream.displaced (n : Stream) (h : Nat) : List (Nat × Nat) :=
  match Table.get? n.hS h with
  | some (.renamed a k _) => [(a, k)]
  | _ => []

/-- Changes a handle in an entry and in the speculative map. -/
def Entry.mapTo (e : Entry) (n : Stream) (h : Nat) (v : Option Handle) : Entry :=
  { e with maps := [(h, v)], displaced := n.displaced h }

def Stream.mapTo (n : Stream) (h : Nat) (v : Option Handle) : Stream :=
  { n with hS := match v with
      | some x => Table.put n.hS h x
      | none => Table.del n.hS h }

/-- BIND (R324). A region of no byte overlaps nothing (R329). -/
def execBind (x : BindOp) (s : State) : Res :=
  s.onStream fun c n =>
    let base := (n.q x.a).toNat
    let len := (n.q x.b).toNat
    let inArena := base < n.arenaBase + n.arenaSize && n.arenaBase < base + len
    if base ≥ 2 ^ 52 || base + len > 2 ^ 52 then s.decodeFault c 5 0 base
    else if len = 0 then s.decodeFault c 1 9 0
    else if base + len > windowBase || inArena then s.decodeFault c 5 0 base
    else
      let v : Option Handle := some (.bound base len)
      s.enter c (some (.bind x)) (fun e => e.mapTo n x.h.toNat v) fun m => m.mapTo x.h.toNat v

/-- FREE (R324). -/
def execFree (h : BitVec 8) (s : State) : Res :=
  s.onStream fun c n =>
    s.enter c (some (.free h)) (fun e => e.mapTo n h.toNat none) fun m => m.mapTo h.toNat none

/-- The entry that produces a buffer, while it is in the window (R325). -/
def Stream.producer (n : Stream) (a : Nat) : List Nat :=
  (n.win.filter fun e => match e.buf with
    | some b => b.1 = a
    | none => false).map Entry.seq

/-- What a source or launch handle gives: its region, and the producer of its buffer. -/
structure HRegion where
  base : Nat
  len : Nat
  bound : Bool
  deps : List Nat
  room : Nat
deriving DecidableEq, Repr

/-- The region of a handle; none where it is undefined. `room` is all its bytes: a buffer's are those of its class. -/
def Stream.region (n : Stream) (h : Nat) : Option HRegion :=
  match Table.get? n.hS h with
  | some (.bound a l) => some { base := a, len := l, bound := true, deps := [], room := l }
  | some (.renamed a k l) => some { base := a, len := l, bound := false, deps := n.producer a, room := classSize k }
  | none => none

/-! ### Fences and events (R331) -/

/-- FENCET (R331): it completes by TASK_COMPLETE. -/
def execFencet (b : Bool) (s : State) : Res :=
  s.onStream fun c _ => s.enter c (some (.fencet b)) (fun e => { e with st := .decoded }) id

/-- WAITE (R331): it completes by EVENT_WAIT_SATISFIED. -/
def execWaite (x : WaiteOp) (s : State) : Res :=
  s.onStream fun c n =>
    s.enter c (some (.waite x)) (fun e => { e with st := .decoded, val := n.val x.val }) id

/-- SIGNAL (R331): its effect is made at retirement. -/
def execSignal (x : SignalOp) (s : State) : Res :=
  s.onStream fun c n => s.enter c (some (.signal x)) (fun e => { e with val := n.val x.val }) id

/-! ### Launches (R342 to R346) -/

/-- The handles a launch names: their regions, and whether each is written; nothing where one is undefined
(R325). -/
def launchArgs (n : Stream) : List HArg → Option (List (Option (HRegion × Bool)))
  | [] => some []
  | a :: t =>
    match launchArgs n t with
    | none => none
    | some l =>
      match a with
      | .none => some (none :: l)
      | .h k wr =>
        match n.region k.toNat with
        | some r => some (some (r, wr) :: l)
        | none => none

/-- Enters a launch with its record. -/
def State.enterLaunch (s : State) (c : Nat) (i : Instr) (x : LaunchqOp) (d : LDesc) : State :=
  match launchArgs (s.ctx c).stream [x.h0, x.h1, x.h2, x.h3] with
  | none => s.decodeFault c 1 7 0
  | some l =>
    let rs := l.filterMap id
    s.enter c (some i) (fun e => { e with
      st := .decoded
      deps := rs.flatMap fun r => r.1.deps
      raws := rs.map fun r => (r.1.base, r.1.len, r.2)
      launch := some { d with
        args := l.map fun o => match o with
          | some r => (r.1.base, r.1.len)
          | none => (0, 0) } }) id

/-- The launch description of a grid. -/
def LDesc.ofGrid (r : LaunchRec) : LDesc :=
  { lrec := r, header := 0, table := 0, stride := 0, cmask := 0, count := r.gridSize, args := [] }

/-- Reads a launch record of 256 bytes; an invalid one faults with 0x01, cause 5 (R343). -/
def State.withRecord (s : State) (c : Nat) (ray : Bool) (a : Nat) (k : State → LaunchRec → State) : State :=
  s.streamRead c a 256 fun s1 bs =>
    match launchRec ray bs with
    | none => s1.decodeFault c 1 5 a
    | some r => k s1 r

/-- KLAUNCH (R342, R345). -/
def execKlaunch (x : LaunchqOp) (s : State) : Res :=
  s.onStream fun c n =>
    let a := (n.val x.desc).toNat
    if a ≥ windowBase then s.decodeFault c 5 0 a
    else if a % 256 != 0 then s.decodeFault c 3 0 a
    else s.withRecord c false a fun s1 r => s1.enterLaunch c (.klaunch x) x (LDesc.ofGrid r)

/-- A cluster mask selects a cluster of the partition, or all of them (R346). -/
def State.maskOk (s : State) (f : Nat) (m : Nat) : Bool :=
  m = 0 || (s.clustersOf f).any fun cl => m / 2 ^ cl % 2 = 1

/-- RLAUNCH (R346). -/
def execRlaunch (x : LaunchqOp) (s : State) : Res :=
  s.onStream fun c n =>
    let a := (n.val x.desc).toNat
    if a ≥ windowBase then s.decodeFault c 5 0 a
    else if a % 64 != 0 then s.decodeFault c 3 0 a
    else s.streamRead c a 64 fun s1 bs =>
      let f := fieldAt bs
      if f 0 8 % 256 != 0 || f 8 8 % 64 != 0 || f 16 8 % 32 != 0 then s1.decodeFault c 3 0 a
      else if f 34 30 != 0 || f 24 4 = 0 || !s1.maskOk (s1.partOf c) (f 32 2) then s1.decodeFault c 1 5 a
      else s1.withRecord c true (f 0 8) fun s2 r =>
        s2.enterLaunch c (.rlaunch x) x
          { lrec := r, header := f 8 8, table := f 16 8, stride := f 28 4
            cmask := BitVec.ofNat 16 (f 32 2), count := f 24 4, args := [] }

end Sys2Proof.Machine
end

