-- ==== Sys2Proof/Machine/Tensor.lean ====
section
/-! DEFINITION. Tensor tasks: their descriptors at decode, and their tile tasks on the cores (spec/11 R335 to
R341). A tile task reads and writes at D; a byte that an unordered task changes meanwhile reads as any of the
values it has had since the tile task started (R330). -/

namespace Sys2Proof.Machine

/-! ### Descriptors (R335, R336) -/

/-- What an opcode uses of its descriptor. -/
structure TaskUse where
  views : List Nat
  slots : List Nat
  seed : Bool
  amax : Bool
  opw0 : Bool
  opw1 : Bool
  opw2 : Bool
deriving DecidableEq, Repr

/-- View i of a descriptor, its handle's base still to come. -/
def parseView (bs : List Byte) (i : Nat) : TView :=
  let f := fieldAt bs
  { base := 0, off := f (24 * i) 8, rows := f (24 * i + 8) 4, cols := f (24 * i + 12) 4
    pitch := f (24 * i + 16) 8 }

/-- The unused fields are zero (R335). -/
def TaskUse.unusedOk (u : TaskUse) (bs : List Byte) : Bool :=
  let f := fieldAt bs
  let zero (used : Bool) (o n : Nat) : Bool := used || f o n = 0
  (natsFrom 0 3).all (fun i => zero (u.views.any fun v => v = i) (24 * i) 24) &&
  (natsFrom 0 3).all (fun i => zero (u.slots.any fun v => v = i) (72 + 8 * i) 8) &&
  zero u.seed 96 8 && zero u.amax 104 8 && zero u.opw0 112 4 && zero u.opw1 116 4 && zero u.opw2 120 8

/-- A descriptor with the slots it names. -/
def parseTask (bs : List Byte) (slots : Table (BitVec 128)) : TDesc :=
  let f := fieldAt bs
  { v0 := parseView bs 0, v1 := parseView bs 1, v2 := parseView bs 2, f0 := Table.getD slots 0 0
    f1 := Table.getD slots 1 0, f2 := Table.getD slots 2 0, seed := BitVec.ofNat 64 (f 96 8)
    amax := f 104 8, opw0 := BitVec.ofNat 32 (f 112 4), opw1 := BitVec.ofNat 32 (f 116 4)
    opw2 := BitVec.ofNat 64 (f 120 8), prev := none, prog := [] }

def TDesc.view (d : TDesc) (i : Nat) : TView := if i = 0 then d.v0 else if i = 1 then d.v1 else d.v2
def TDesc.slot (d : TDesc) (i : Nat) : Slot := if i = 0 then d.f0 else if i = 1 then d.f1 else d.f2

/-- Gives a view the base of its handle. -/
def TDesc.setBase (d : TDesc) (i base : Nat) : TDesc :=
  if i = 0 then { d with v0 := { d.v0 with base := base } }
  else if i = 1 then { d with v1 := { d.v1 with base := base } }
  else { d with v2 := { d.v2 with base := base } }

/-- The format a view's elements are laid out in: bytes for CPYT (R339), FP32 for REDT (R340), else that of
its slot. -/
def layoutOf (i : Instr) (d : TDesc) (k : Nat) : Option Fmt :=
  match i with
  | .cpyt _ => some .n8
  | .redt _ => some .f32
  | _ => (d.slot k).fmt

/-- The bytes of n elements of a row that start on a byte (R152). -/
def elemBytes (f : Fmt) (n : Nat) : Nat := n * f.bits / 8

/-- The blocks of a row. -/
def TView.blocks (v : TView) : Nat := (v.cols + 47) / 48

/-- The extent of a view (R336). -/
def TView.extent (v : TView) (f : Option Fmt) : Nat :=
  v.rows * v.pitch + (match f with
    | some g => if g.blocked then v.rows * v.blocks else 0
    | none => 0)

/-- A view has a valid shape (R336). -/
def TView.shapeOk (v : TView) (f : Option Fmt) : Bool :=
  v.rows != 0 && v.cols != 0 && (match f with
    | some g => elemBytes g v.cols ≤ v.pitch && !(g = .b4 && v.cols % 2 = 1) && !(g = .vq2 && v.cols % 8 != 0)
    | none => true)

/-- REDT adds pairs (R340 mode 1). -/
def TDesc.pairsMode (d : TDesc) : Bool := d.opw0.extractLsb' 0 2 = 1#2

/-- What is wrong with the shapes and operation words of a task: code and cause. -/
def taskFault (i : Instr) (d : TDesc) : Option (Nat × Nat) :=
  let misfit : Option (Nat × Nat) := some (1, 9)
  match i with
  | .mmt _ =>
    if d.opw0 &&& 0xFFFFFF08#32 != 0 then some (1, 0)
    else if d.v1.rows != d.v0.rows || d.v1.cols != d.v2.rows || d.v2.cols != d.v0.cols then misfit
    else none
  | .cnvt _ => if d.v0.rows != d.v1.rows || d.v0.cols != d.v1.cols then misfit else none
  | .amaxt _ => if d.amax = 0 then some (1, 0) else none
  | .redt _ =>
    if d.pairsMode then
      if d.opw0 &&& 0xFFFFFFFC#32 != 0 then some (1, 0)
      else if d.v1.cols != 2 || d.v0.rows != 1 then misfit else none
    else if d.opw0 &&& 0xFFFFFECF#32 != 0 || d.opw0.extractLsb' 4 2 = 3#2 then some (1, 0)
    else if d.v0.rows != 1 || d.v0.cols != d.v1.cols then misfit else none
  | _ => none

/-- The offset or pitch of a view is not a multiple of 16, or the amax address not one of 4 (R336, R338). -/
def TDesc.askew (d : TDesc) (u : TaskUse) : Bool :=
  (u.views.any fun k => (d.view k).off % 16 != 0 || (d.view k).pitch % 16 != 0) || d.amax % 4 != 0

/-- Reads the format slots a descriptor names, at decode: the size of a destination depends on them (R336). -/
def State.readSlots (s : State) (c : Nat) : List (Nat × Nat) → Table (BitVec 128) →
    (State → Table (BitVec 128) → State) → State
  | [], t, k => k s t
  | (i, a) :: r, t, k => s.streamRead c a 16 fun s1 bs =>
      s1.readSlots c r (Table.put t i (BitVec.ofNat 128 (natOf bs))) k

/-! ### Handles and buffers (R325 to R328) -/

/-- The regions of the sources, by view. -/
def sourceRegions (n : Stream) : List (Nat × BitVec 8) → Option (List (Nat × HRegion))
  | [] => some []
  | e :: t =>
    match n.region e.2.toNat, sourceRegions n t with
    | some r, some l => some ((e.1, r) :: l)
    | _, _ => none

/-- The task reads what its destination held before. -/
def usesOld (i : Instr) (d : TDesc) : Bool :=
  match i with
  | .mmt _ => d.opw0.getLsbD 0
  | .redt _ => !d.pairsMode && d.opw0.getLsbD 8
  | _ => false

/-- An accumulating MMT whose C is undefined names an undefined source (R325, R337). -/
def lacksOld (i : Instr) (d : TDesc) (r : Option HRegion) : Bool :=
  match i with
  | .mmt _ => usesOld i d && r.isNone
  | _ => false

/-- Allocates a buffer for a destination (R327, R328): 0x10, a stall, or the buffer and what stays free. -/
def Stream.alloc (n : Stream) (need : Nat) : Except Bool (Nat × Nat × List (Nat × Nat)) :=
  match classFor need with
  | none => .error true
  | some k =>
    if !arenaHolds n.arenaBase n.arenaSize k then .error true
    else
      match takeBuf n.freeBufs k with
      | some b => .ok (b.1, k, b.2)
      | none => .error n.win.isEmpty

/-- Resolves the handles of a task and enters it (R325). -/
def State.enterTask (s : State) (c : Nat) (i : Instr) (d : TDesc) (dst : Option (BitVec 8))
    (srcs : List (Nat × BitVec 8)) : State :=
  let n := (s.ctx c).stream
  match sourceRegions n srcs with
  | none => s.decodeFault c 1 7 0
  | some rs =>
    let d1 := rs.foldl (fun (d : TDesc) (e : Nat × HRegion) => d.setBase e.1 e.2.base) d
    let deps := rs.flatMap fun e => e.2.deps
    let raws := (rs.filter fun e => e.2.bound).map fun e => (e.2.base, e.2.len, false)
    let put (e : Entry) (d : TDesc) : Entry :=
      { e with st := .decoded, deps := deps, raws := raws, task := some d }
    match dst with
    | none => s.enter c (some i) (fun e => put e d1) id
    | some h =>
      let ext := d.v0.extent (layoutOf i d 0)
      let need := d.v0.off + ext
      let old := n.region h.toNat
      let prev := old.map fun r => (r.base, r.room)
      if (old.map HRegion.bound).getD false then
        let base := (old.map HRegion.base).getD 0
        if need > (old.map HRegion.len).getD 0 then s.decodeFault c 5 0 base
        else
          s.enter c (some i) (fun e =>
            { put e { d1.setBase 0 base with prev := prev } with
              raws := raws ++ [(base + d.v0.off, ext, true)] }) id
      else if (match i with
          | .redt _ => d.pairsMode
          | _ => false) then s.decodeFault c 1 9 0
      else
        match n.alloc need with
        | .error true => s.decodeFault c 0x10 0 0
        | .error false => s
        | .ok (a, k, rest) =>
          let v : Option Handle := some (.renamed a k need)
          let more := if usesOld i d then (old.map HRegion.deps).getD [] else []
          s.enter c (some i) (fun e =>
            { (put e { d1.setBase 0 a with prev := prev }).mapTo n h.toNat v with
              deps := deps ++ more, buf := some (a, k) })
            fun m => { m.mapTo h.toNat v with freeBufs := rest }

/-- A tensor task at decode (R329, R335 to R338): its descriptor is read and its fields and views are checked, then its
handles are resolved (log 29). A slot address that is no multiple of 16 raises 0x03, as a misaligned offset does
(DESIGN CHOICE, log 109: R335 names no fault for it). -/
def State.tensorTask (s : State) (i : Instr) (u : TaskUse) (desc : QSrc) (dst : Option (BitVec 8))
    (srcs : List (Nat × BitVec 8)) : Res :=
  s.onStream fun c n =>
    let a := (n.val desc).toNat
    if a ≥ windowBase then s.decodeFault c 5 0 a
    else if a % 128 != 0 then s.decodeFault c 3 0 a
    else s.streamRead c a 128 fun s1 bs =>
      let addrs := u.slots.map fun k => (k, fieldAt bs (72 + 8 * k) 8)
      if !u.unusedOk bs then s1.decodeFault c 1 0 a
      else if addrs.any fun e => e.2 % 16 != 0 then s1.decodeFault c 3 0 a
      else s1.readSlots c addrs [] fun s2 slots =>
        let d := parseTask bs slots
        if !(u.views.all fun k => (d.view k).shapeOk (layoutOf i d k)) then s2.decodeFault c 1 9 a
        else
          match taskFault i d with
          | some f => s2.decodeFault c f.1 f.2 a
          | none =>
            if d.askew u then s2.decodeFault c 3 0 a
            else if lacksOld i d (dst.bind fun h => n.region h.toNat) then s2.decodeFault c 1 7 0
            else s2.enterTask c i d dst srcs

/-- What each opcode uses (R337 to R340). -/
def useMmt : TaskUse :=
  { views := [0, 1, 2], slots := [0, 1, 2], seed := true, amax := false, opw0 := true, opw1 := false
    opw2 := false }
def useCnvt : TaskUse :=
  { views := [0, 1], slots := [0, 1], seed := true, amax := true, opw0 := false, opw1 := false
    opw2 := false }
def useCpyt : TaskUse :=
  { views := [0, 1], slots := [], seed := false, amax := false, opw0 := false, opw1 := false
    opw2 := true }
def useRedt : TaskUse :=
  { views := [0, 1], slots := [], seed := false, amax := false, opw0 := true, opw1 := false
    opw2 := false }
def useFillt : TaskUse :=
  { views := [0], slots := [0], seed := false, amax := false, opw0 := false, opw1 := true, opw2 := true }
def useAmaxt : TaskUse :=
  { views := [1], slots := [1], seed := false, amax := true, opw0 := false, opw1 := false, opw2 := false }

/-- MMT (R337). -/
def execMmt (x : MmtOp) (s : State) : Res :=
  s.tensorTask (.mmt x) useMmt x.desc (some x.c) [(1, x.a), (2, x.b)]

/-- CNVT (R338). -/
def execCnvt (x : TwoTOp) (s : State) : Res :=
  s.tensorTask (.cnvt x) useCnvt x.desc (some x.d) [(1, x.s)]

/-- CPYT (R339). -/
def execCpyt (x : TwoTOp) (s : State) : Res :=
  s.tensorTask (.cpyt x) useCpyt x.desc (some x.d) [(1, x.s)]

/-- REDT (R340). -/
def execRedt (x : TwoTOp) (s : State) : Res :=
  s.tensorTask (.redt x) useRedt x.desc (some x.d) [(1, x.s)]

/-- FILLT (R339). -/
def execFillt (x : OneTOp) (s : State) : Res := s.tensorTask (.fillt x) useFillt x.desc (some x.h) []

/-- AMAXT (R338). -/
def execAmaxt (x : OneTOp) (s : State) : Res := s.tensorTask (.amaxt x) useAmaxt x.desc none [(1, x.h)]

/-! ### Reading for a tile task (R330) -/

/-- The values a byte of D held before each arrival later than a position. -/
def valuesSince (p0 : Nat) : List Arrival → Nat → List Byte
  | [], _ => []
  | x :: t, a =>
    if x.pos ≤ p0 then []
    else
      match x.writeAt a with
      | some w => w.old :: valuesSince p0 t a
      | none => valuesSince p0 t a

/-- Bytes of D, each any value it has held since a position. -/
def raceBytes (p0 : Nat) : List Nat → State → List Byte × State
  | [], s => ([], s)
  | a :: t, s =>
    let r := s.pickFrom (s.mem.atD a :: valuesSince p0 s.mem.log a) 0
    let u := raceBytes p0 t r.2
    (r.1 :: u.1, u.2)

/-- Who reads and writes for a task: where its accesses are translated, the task, the position of the D order since which
its reads race, and the source of its requests at the memory-side cache (R110), which the Weir is not. -/
structure TaskUnit where
  via : Via
  ctx : Nat
  seq : Nat
  pos : Nat
  src : Option Source

/-- The accesses of a task reach the memory-side cache. -/
def State.reachTask (s : State) (q : TaskUnit) (va : Nat) (pas : List Nat) : State :=
  match q.src with
  | some x => s.reachLines x q.ctx ((natsFrom va pas.length).zip pas)
  | none => s

/-- Translates a span for a task. -/
def State.taskPas (s : State) (q : TaskUnit) (va n : Nat) (kind : Access) : Except UnitErr (List Nat) × State :=
  if va + n > windowBase then (.error (.window va), s) else s.unitPas q.via q.ctx va n kind

/-- Reads one span of virtual bytes: a run, at which a task that waits for a page goes on (R421). -/
def State.readSpan (s : State) (q : TaskUnit) (e : Nat × Nat) : Except UnitErr (List Nat) × State :=
  s.once fun s =>
    let r := s.taskPas q e.1 e.2 .read
    match r.1 with
    | .error x => (.error x, r.2)
    | .ok pas =>
      match pas.find? fun a => r.2.mem.poisoned a 1 with
      | some a => (.error (.ecc (a / 128 * 128)), r.2)
      | none =>
        let b := raceBytes q.pos pas ((r.2.reachTask q e.1 pas).farRead (.task q.ctx q.seq) 0 false pas)
        (.ok (b.1.map BitVec.toNat), b.2)

/-- Reads spans of virtual bytes into a table by address. -/
def readSpans (q : TaskUnit) : List (Nat × Nat) → State → Except UnitErr (Table Byte) × State
  | [], s => (.ok [], s)
  | e :: t, s =>
    let r := s.readSpan q e
    match r.1 with
    | .error x => (.error x, r.2)
    | .ok bs =>
      let u := readSpans q t r.2
      match u.1 with
      | .error x => (.error x, u.2)
      | .ok tab =>
        (.ok (((natsFrom e.1 e.2).zip bs).foldl (fun (t : Table Byte) (y : Nat × Nat) =>
          Table.put t y.1 (BitVec.ofNat 8 y.2)) tab), u.2)

/-- Goes on with what a read gave. -/
def thenRead {α β : Type} (r : Except UnitErr α × State) (k : α → State → Except UnitErr β × State) :
    Except UnitErr β × State :=
  match r.1 with
  | .error e => (.error e, r.2)
  | .ok a => k a r.2

/-- The number n bytes of a table hold; a byte not in it is zero. -/
def tabNum (t : Table Byte) (a n : Nat) : Nat := natOf ((natsFrom a n).map fun k => Table.getD t k 0)

/-! ### Elements of a view (R336, R152) -/

/-- Where element (r, c) starts, and the scale byte of its block. -/
def TView.elemAt (v : TView) (f : Fmt) (r c : Nat) : Nat :=
  v.base + v.off + r * v.pitch + elemBytes f (if f = .vq2 then c / 8 * 8 else c)
def TView.scaleAt (v : TView) (r c : Nat) : Nat :=
  v.base + v.off + v.rows * v.pitch + r * v.blocks + c / 48

/-- A part of a view: first row and column, rows and columns. -/
structure Part4 where
  r : Nat
  c : Nat
  nr : Nat
  nc : Nat
deriving DecidableEq, Repr

/-- The bytes of a part: elements, then scale bytes. -/
def TView.spans (v : TView) (f : Fmt) (p : Part4) : List (Nat × Nat) :=
  (natsFrom p.r p.nr).flatMap fun r =>
    (v.elemAt f r p.c, elemBytes f p.nc) ::
      (if f.blocked then [(v.scaleAt r p.c, (p.c + p.nc - 1) / 48 - p.c / 48 + 1)] else [])

/-- DecodeExact of an element (R158); `shell` gives the magnitudes of each code by where the code stands. -/
def TView.elem (v : TView) (sl : Slot) (f : Fmt) (t : Table Byte) (shell : Table Nat) (r c : Nat) : Real' :=
  let a := v.elemAt f r c
  let scale := tabNum t (v.scaleAt r c) 1
  match f with
  | .b4 => sl.decode f (tabNum t a 1 / 16 ^ (c % 2) % 16) scale
  | .vq2 =>
    let code := tabNum t a 2
    sl.decodeVq2 code (Table.getD shell a 0) (c % 8) scale
  | f => sl.decode f (tabNum t a f.size) 0

/-- The codes of a part: where each stands, and the shell entry that it indexes. -/
def TView.codes (v : TView) (f : Fmt) (t : Table Byte) (p : Part4) : List (Nat × Nat) :=
  if f = .vq2 then
    (natsFrom p.r p.nr).flatMap fun r => (natsFrom 0 (p.nc / 8)).map fun k =>
      let a := v.elemAt f r (p.c + 8 * k)
      (a, tabNum t a 2 / 256)
  else []

/-- The magnitudes of each code: its shell entry, read at D as one snapshot when the code is decoded (R154). -/
def codeDraw (q : TaskUnit) (base : Nat) : List (Nat × Nat) → State → Except UnitErr (Table Nat) × State
  | [], s => (.ok [], s)
  | e :: t, s =>
    let va := base + 4 * e.2
    let r := s.once fun s =>
      let u := s.taskPas q va 4 .read
      match u.1 with
      | .error x => (.error x, u.2)
      | .ok pas =>
        if u.2.mem.poisoned (listGet pas 0 0) 4 then (.error (.ecc (listGet pas 0 0 / 128 * 128)), u.2)
        else
          let v := ((u.2.reachTask q va pas).farRead (.task q.ctx q.seq) 0 false pas).numSince q.pos (listGet pas 0 0) 4
          (.ok [v.1], v.2)
    match r.1 with
    | .error x => (.error x, r.2)
    | .ok l =>
      let u := codeDraw q base t r.2
      match u.1 with
      | .error x => (.error x, u.2)
      | .ok tab => (.ok (Table.put tab e.1 (listGet l 0 0)), u.2)

/-- Reads a part of a view, and the shell entries that its codes need (R154). -/
def State.readPart (s : State) (q : TaskUnit) (v : TView) (sl : Slot) (f : Fmt) (p : Part4) :
    Except UnitErr (Table Byte × Table Nat) × State :=
  thenRead (readSpans q (v.spans f p) s) fun t s1 =>
    thenRead (codeDraw q sl.shell (v.codes f t p) s1) fun u s2 => (.ok (t, u), s2)

/-- What the destination held before: the bytes of spans that its old region has (R325). -/
def TDesc.oldSpans (d : TDesc) (l : List (Nat × Nat)) : List (Nat × Nat) :=
  match d.prev with
  | none => []
  | some (a, n) => (l.filter fun e => e.1 < a + n).map fun e => (e.1, min e.2 (a + n - e.1))

/-- View 0 as it stood in its old region. -/
def TDesc.oldView (d : TDesc) : TView := { d.v0 with base := (d.prev.map Prod.fst).getD 0 }

/-! ### Encoding into view 0 (R160, R161) -/

/-- Two nibbles a byte. -/
def packNibbles : List Nat → List Byte
  | a :: b :: t => BitVec.ofNat 8 (a + 16 * b) :: packNibbles t
  | [a] => [BitVec.ofNat 8 a]
  | [] => []

/-- The bytes of one B4 block that starts at a column. -/
def encodeBlock (v : TView) (sl : Slot) (seed : DWord) (r c : Nat) (xs : List Real') :
    List (Nat × List Byte) :=
  let e := sl.encodeB4 seed 0 r (xs.map sl.prepare) (natsFrom c xs.length)
  [(v.elemAt .b4 r c, packNibbles e.2), (v.scaleAt r c, [BitVec.ofNat 8 e.1])]

/-- The bytes of some elements of a row of view 0, from a column where a block starts. -/
def encodeRow (v : TView) (sl : Slot) (f : Fmt) (seed : DWord) (r c : Nat) (xs : List Real') :
    List (Nat × List Byte) :=
  if f = .b4 then
    (natsFrom 0 ((xs.length + 47) / 48)).flatMap fun b =>
      encodeBlock v sl seed r (c + 48 * b) ((xs.drop (48 * b)).take 48)
  else
    [(v.elemAt f r c, ((natsFrom c xs.length).zip xs).flatMap fun e =>
      bytesOf f.size (sl.encode f seed 0 e.2 r e.1))]

/-! ### What a tile task computes (R337 to R340) -/

/-- What a tile task gives: bytes to store by virtual address, the amax value of its elements, and the pairs it
adds. -/
structure TileOut where
  spans : List (Nat × List Byte)
  amax : Word
  pairs : List (Nat × Word)
deriving DecidableEq, Repr

/-- The columns of a tile: a multiple of a block where a format has blocks. -/
def tileStep (i : Instr) (d : TDesc) : Nat :=
  let blocked (k : Nat) : Bool := ((layoutOf i d k).map Fmt.blocked).getD false
  match i with
  | .mmt _ => if blocked 0 then 48 else 64
  | .cnvt _ => if blocked 0 || blocked 1 then 48 else 64
  | .fillt _ => if blocked 0 then 48 else 64
  | .amaxt _ => if blocked 1 then 48 else 64
  | _ => 64

/-- The rows and columns that the tile tasks divide: those of view 0, of view 1 for AMAXT; CPYT fills view 0
densely over its pitch. -/
def tileArea (i : Instr) (d : TDesc) : Nat × Nat :=
  match i with
  | .amaxt _ => (d.v1.rows, d.v1.cols)
  | .cpyt _ => (d.v0.rows, d.v0.pitch)
  | _ => (d.v0.rows, d.v0.cols)

/-- The part of a tile task. -/
def tilePart (i : Instr) (d : TDesc) (t : TileTask) : Part4 :=
  let a := tileArea i d
  { r := t.row, c := t.col, nr := min 64 (a.1 - t.row), nc := min (tileStep i d) (a.2 - t.col) }

/-- The tile tasks of a task (R341): first rows and columns. -/
def tilesOf (i : Instr) (d : TDesc) : List (Nat × Nat) :=
  let a := tileArea i d
  let w := tileStep i d
  (natsFrom 0 ((a.1 + 63) / 64)).flatMap fun r =>
    (natsFrom 0 ((a.2 + w - 1) / w)).map fun c => (64 * r, w * c)

/-- Divides n groups into ranges whose sizes differ by at most one; which are the larger is a free choice. -/
def splitRanges : Nat → Nat → Nat → State → List (Nat × Nat) × State
  | 0, _, _, s => ([], s)
  | r + 1, lo, n, s =>
    let q := n / (r + 1)
    let more := n % (r + 1)
    let u : Nat × State := if more = 0 then (0, s) else s.pick 2
    let k := q + u.1
    let t := splitRanges r (lo + k) (n - k) u.2
    ((lo, lo + k) :: t.1, t.2)

/-- Adds the sums of ranges of products in an order that is not defined (R337). -/
def sumRanges (g : Nat) (prod : Nat → Real') : Nat → List (Nat × Nat) → Word → State → Word × State
  | 0, _, acc, s => (acc, s)
  | n + 1, l, acc, s =>
    let r := s.pick l.length
    match l[r.1]? with
    | none => (acc, r.2)
    | some e =>
      let part := matAccumulate g false 0 ((natsFrom e.1 (e.2 - e.1)).map prod)
      sumRanges g prod n (dropNth l r.1) (fadd32 acc part) r.2

/-- One element of an MMT (R337): `ranges` are ranges of k. -/
def mmtElem (g kk : Nat) (ranges : List (Nat × Nat)) (acc : Word) (prod : Nat → Real') (s : State) :
    Word × State :=
  if ranges.length ≤ 1 then (matAccumulate g false acc ((natsFrom 0 kk).map prod), s)
  else sumRanges g prod ranges.length ranges acc s

/-- The elements of one row. -/
def mmtCols (f : Nat → State → Word × State) : List Nat → State → List Word × State
  | [], s => ([], s)
  | c :: t, s =>
    let r := f c s
    let u := mmtCols f t r.2
    (r.1 :: u.1, u.2)

/-- The rows of a tile, encoded. -/
def mmtRows (f : Nat → Nat → State → Word × State) (enc : Nat → List Word → List (Nat × List Byte))
    (cols : List Nat) : List Nat → State → List (Nat × List Byte) × State
  | [], s => ([], s)
  | r :: t, s =>
    let x := mmtCols (f r) cols s
    let u := mmtRows f enc cols t x.2
    (enc r x.1 ++ u.1, u.2)

/-- MMT over a part of C. -/
def mmtTile (s : State) (q : TaskUnit) (d : TDesc) (p : Part4) :
    Except UnitErr TileOut × State :=
  let fmt (k : Nat) : Fmt := ((d.slot k).fmt).getD .f32
  let kk := d.v1.cols
  let neg (b : Bool) (x : Real') : Real' := if b then x.neg else x
  let pa : Part4 := { r := p.r, c := 0, nr := p.nr, nc := kk }
  let pb : Part4 := { r := 0, c := p.c, nr := kk, nc := p.nc }
  thenRead (s.readPart q d.v1 d.f1 (fmt 1) pa) fun a s1 =>
  thenRead (s1.readPart q d.v2 d.f2 (fmt 2) pb) fun b s2 =>
  let old := if d.opw0.getLsbD 0 then d.oldSpans (d.oldView.spans (fmt 0) p) else []
  thenRead (readSpans q old s2) fun o s3 =>
    let g := groupSize (fmt 1) (fmt 2)
    let unit := if (fmt 1).blocked then 48 else g
    let u := splitRanges ((d.opw0.extractLsb' 4 4).toNat + 1) 0 ((kk + unit - 1) / unit) s3
    let ranges := u.1.map fun e => (min kk (unit * e.1), min kk (unit * e.2))
    let one (r k : Nat) (s : State) : Word × State :=
      let acc : Word :=
        if d.opw0.getLsbD 0 then rne32 (d.oldView.elem d.f0 (fmt 0) o [] r k) else 0
      mmtElem g kk ranges acc (fun j =>
        (neg (d.opw0.getLsbD 1) (d.v1.elem d.f1 (fmt 1) a.1 a.2 r j)).mul
          (neg (d.opw0.getLsbD 2) (d.v2.elem d.f2 (fmt 2) b.1 b.2 j k))) s
    let enc (r : Nat) (l : List Word) : List (Nat × List Byte) :=
      encodeRow d.v0 d.f0 (fmt 0) d.seed r p.c (l.map f32)
    let m := mmtRows one enc (natsFrom p.c p.nc) (natsFrom p.r p.nr) u.2
    (.ok { spans := m.1, amax := 0, pairs := [] }, m.2)

/-- CNVT and AMAXT over a part of view 1 (R338). -/
def cnvtTile (s : State) (q : TaskUnit) (d : TDesc) (p : Part4) (conv : Bool) :
    Except UnitErr TileOut × State :=
  let fmt (k : Nat) : Fmt := ((d.slot k).fmt).getD .f32
  thenRead (s.readPart q d.v1 d.f1 (fmt 1) p) fun a s1 =>
    let row (r : Nat) : List Real' :=
      (natsFrom p.c p.nc).map fun k => d.v1.elem d.f1 (fmt 1) a.1 a.2 r k
    let rows := natsFrom p.r p.nr
    (.ok { spans := if conv then rows.flatMap fun r =>
               encodeRow d.v0 d.f0 (fmt 0) d.seed r p.c ((row r).map fun x => f32 (rne32 x))
             else []
           amax := amaxValue (rows.flatMap row), pairs := [] }, s1)

/-- FILLT over a part of view 0 (R339). The rule uses the low bits of opw2 that the format has and opw1[7:0]; the model
ignores the bits above them (DESIGN CHOICE, log 110: the rule does not say that they must be zero). -/
def filltTile (d : TDesc) (p : Part4) : TileOut :=
  let f := ((d.slot 0).fmt).getD .f32
  let x := d.opw2.toNat
  let n := elemBytes f p.nc
  let byte (k : Nat) : Byte :=
    match f with
    | .b4 => BitVec.ofNat 8 (x % 16 * 17)
    | .vq2 => BitVec.ofNat 8 (x / 256 ^ (k % 2))
    | _ => BitVec.ofNat 8 (x / 256 ^ (k % f.size))
  let sc := (d.opw1.extractLsb' 0 8 : Byte)
  { spans := (natsFrom p.r p.nr).flatMap fun r =>
      (d.v0.elemAt f r p.c, (natsFrom 0 n).map byte) ::
        (if f.blocked then
          [(d.v0.scaleAt r p.c, List.replicate ((p.c + p.nc - 1) / 48 - p.c / 48 + 1) sc)]
        else [])
    amax := 0, pairs := [] }

/-- The combining step of REDT mode 0 (R340). -/
def redtStep (d : TDesc) (a b : Word) : Word :=
  match (d.opw0.extractLsb' 4 2).toNat with
  | 0 => fadd32 a b
  | 1 => fmax32 a b
  | _ => fmin32 a b

/-- REDT mode 0 over some columns (R340). -/
def redtTile (s : State) (q : TaskUnit) (d : TDesc) (p : Part4) :
    Except UnitErr TileOut × State :=
  let all : Part4 := { r := 0, c := p.c, nr := d.v1.rows, nc := p.nc }
  thenRead (readSpans q (d.v1.spans .f32 all) s) fun a s1 =>
  let old := if d.opw0.getLsbD 8 then d.oldSpans (d.oldView.spans .f32 p) else []
  thenRead (readSpans q old s1) fun o s2 =>
    let at' (r k : Nat) : Word := BitVec.ofNat 32 (tabNum a (d.v1.elemAt .f32 r k) 4)
    let col (k : Nat) : Word :=
      let l := (natsFrom 0 d.v1.rows).map fun r => at' r k
      let l := if d.opw0.getLsbD 8 then BitVec.ofNat 32 (tabNum o (d.oldView.elemAt .f32 0 k) 4) :: l else l
      match l with
      | [] => 0
      | x :: t => t.foldl (redtStep d) x
    (.ok { spans := [(d.v0.elemAt .f32 0 p.c, (natsFrom p.c p.nc).flatMap fun k =>
             bytesOf 4 (col k).toNat)]
           amax := 0, pairs := [] }, s2)

/-- The pairs of view 1 (R340 mode 1): index and value. -/
def pairList (d : TDesc) (t : Table Byte) : List (Nat × Word) :=
  (natsFrom 0 d.v1.rows).map fun r =>
    (tabNum t (d.v1.elemAt .f32 r 0) 4, BitVec.ofNat 32 (tabNum t (d.v1.elemAt .f32 r 1) 4))

/-- The bytes of the list of pairs. -/
def pairSpans (d : TDesc) : List (Nat × Nat) := d.v1.spans .f32 { r := 0, c := 0, nr := d.v1.rows, nc := 2 }

/-- REDT mode 1: the pairs for some columns. -/
def pairTile (s : State) (q : TaskUnit) (d : TDesc) (p : Part4) :
    Except UnitErr TileOut × State :=
  thenRead (readSpans q (pairSpans d) s) fun a s1 =>
    let mine := (pairList d a).filter fun e => p.c ≤ e.1 && e.1 < p.c + p.nc
    (.ok { spans := [], amax := 0, pairs := mine.map fun e => (d.v0.elemAt .f32 0 e.1, e.2) }, s1)

/-- The source of dense byte k of a CPYT: an address, zero out of bounds, or nothing beyond the runs (R339). -/
def cpytSource (runs : List (Nat × Bool)) (len k : Nat) : Option (Option Nat) :=
  (runs[k / len]?).map fun r => if r.2 then some (r.1 + k % len) else none

/-- CPYT over a part of view 0. -/
def cpytTile (s : State) (q : TaskUnit) (d : TDesc) (p : Part4) :
    Except UnitErr TileOut × State :=
  match parseProg d.prog with
  | none => (.ok { spans := [], amax := 0, pairs := [] }, s)
  | some g =>
    let runs := g.emit (d.v1.base + d.v1.off)
    let ks := (natsFrom p.r p.nr).flatMap fun r => (natsFrom p.c p.nc).map fun k => r * d.v0.pitch + k
    let src := ks.filterMap fun k => (cpytSource runs g.runBytes k).map fun a => (k, a)
    thenRead (readSpans q (src.filterMap fun e => e.2.map fun a => (a, 1)) s) fun b s1 =>
      (.ok { spans := src.map fun e => (d.v0.base + d.v0.off + e.1,
               [match e.2 with
                | some a => Table.getD b a 0
                | none => 0])
             amax := 0, pairs := [] }, s1)

/-- What a tile task computes. -/
def computeTile (s : State) (q : TaskUnit) (i : Instr) (d : TDesc) (p : Part4) : Except UnitErr TileOut × State :=
  match i with
  | .mmt _ => mmtTile s q d p
  | .cnvt _ => cnvtTile s q d p true
  | .amaxt _ => cnvtTile s q d p false
  | .fillt _ => (.ok (filltTile d p), s)
  | .redt _ => if d.pairsMode then pairTile s q d p else redtTile s q d p
  | .cpyt _ => cpytTile s q d p
  | _ => (.ok { spans := [], amax := 0, pairs := [] }, s)

/-- The physical addresses of a span that a task writes. -/
def State.writeSpan (s : State) (q : TaskUnit) (va n : Nat) : Except UnitErr (List Nat) × State :=
  s.once fun s =>
    let r := s.taskPas q va n .write
    match r.1 with
    | .error x => (.error x, r.2)
    | .ok pas => (.ok pas, r.2.reachTask q va pas)

/-- The physical addresses of the bytes a tile task stores. -/
def writeSpans (q : TaskUnit) : List (Nat × List Byte) → State → Except UnitErr (List (Nat × Byte)) × State
  | [], s => (.ok [], s)
  | e :: t, s =>
    thenRead (s.writeSpan q e.1 e.2.length) fun pas s1 =>
      thenRead (writeSpans q t s1) fun l s2 => (.ok (pas.zip e.2 ++ l), s2)

/-- The physical addresses of the elements that pairs are added to. -/
def pairPas (q : TaskUnit) : List (Nat × Word) → State → Except UnitErr (List (Nat × Word)) × State
  | [], s => (.ok [], s)
  | e :: t, s =>
    thenRead (s.writeSpan q e.1 4) fun pas s1 =>
      thenRead (pairPas q t s1) fun l s2 => (.ok ((listGet pas 0 0, e.2) :: l), s2)

/-! ### Tile tasks on the cores (R341) -/

/-- The engine a tile task runs on, as a fault's source (R428). -/
def tileSource (i : Instr) : Nat :=
  match i with
  | .cpyt _ => 1
  | _ => 6

/-- The window entry of a tile task. -/
def State.entryOf (s : State) (ctx seq : Nat) : Option Entry :=
  (s.ctx ctx).stream.win.find? fun e => e.seq = seq

def State.updEntry (s : State) (ctx seq : Nat) (f : Entry → Entry) : State :=
  s.updCtx ctx fun x => { x with
    stream := { x.stream with win := x.stream.win.map fun e => if e.seq = seq then f e else e } }

/-- A task's access waits for a page: the waiter is named by `uid` (R421). -/
def State.taskWaits (s : State) (ctx seq uid : Nat) : Bool :=
  s.pages.any fun p => p.who.any fun w => w.task = some (ctx, seq) && w.uid = uid

/-- An access of a task fails: a page not present holds it, anything else is a fault of the task. -/
def State.taskErr (s : State) (c seq uid src core : Nat) (kind : Access) (e : UnitErr) : State :=
  let r (code cause addr : Nat) : FaultRec :=
    { FaultRec.blank code s.tick with
      cause := BitVec.ofNat 8 cause, ctx := BitVec.ofNat 8 c, src := BitVec.ofNat 8 src
      core := BitVec.ofNat 8 core, addr := BitVec.ofNat 64 addr, seq := BitVec.ofNat 64 seq
      pc := BitVec.ofNat 64 (((s.entryOf c seq).map fun y => y.pc.toNat).getD 0) }
  match e with
  | .absent va l =>
    (s.pageFault { ctx := c, va := va, level := l, kind := kind } (r 4 0 0)
      [{ kid := 0, uid := uid, src := src, task := some (c, seq), frec := r 4 0 va }]).2
  | .denied k va => s.failEntry c seq (r 5 k va)
  | .window va => s.failEntry c seq (r 5 0 va)
  | .ecc l => s.failEntry c seq (r 0x0E 0 l)

/-- The page wait of a tile task. -/
def tileWaiter (core key : Nat) : Nat := 64 * core + key

/-- A tile task leaves its core: no entry depends on it any more, and the lines of the stream area that it has written
are full (R97). -/
def State.endTile (s : State) (core key : Nat) (t : TileTask) : State :=
  let free (e : Nat × TileTask) : Nat × TileTask := (e.1, { e.2 with deps := e.2.deps.filter fun d => d != .entry key })
  ((s.updCore core fun k => { k with deps := (Table.del k.deps key).map free }).setLines core 3 false t.wlines).updEntry t.ctx t.seq fun e =>
    { e with inFlight := e.inFlight - 1 }

/-- A tile task's access fails. -/
def State.tileErr (s : State) (core key : Nat) (t : TileTask) (i : Instr) (kind : Access) (e : UnitErr) :
    State :=
  let s1 := s.taskErr t.ctx t.seq (tileWaiter core key) (tileSource i) core kind e
  match e with
  | .absent _ _ => s1
  | _ => s1.endTile core key t

/-- Tile a ranks before tile b in its table. -/
def TileTask.before (a b : TileTask) : Bool := a.age < b.age

/-- A tile task's dependences are met, and an accumulator tile that it needs is common, with no claim ahead of
it in the queue (R105, R46). -/
def State.taskReady (s : State) (core : Nat) (t : TileTask) : Bool :=
  !t.started && (s.ctx t.ctx).st = .running && t.deps.all (s.core core).depMet &&
  (!t.mat || (1 ≤ s.commonTiles core && (s.claims core true).all fun c => t.age < c.age))

/-- TILE_TASK_ISSUE (R341): the oldest entry whose dependences are met takes its place in the order of its engine
(R17), and the lines that it writes become empty (R97). -/
def execTileTaskIssue (x : CoreItem) (s : State) : Res :=
  let core := coreNum x.core
  s.live (clusterOf core) <|
  match Table.get? (s.core core).deps x.n with
  | none => .next s
  | some t =>
    let older := (s.core core).deps.any fun e => s.taskReady core e.2 && e.2.before t
    if s.taskReady core t && !older then
      let s1 := if t.mat then s.noteTaskTile core else s
      .next (({ s1 with uids := s.uids + 1 }.updCore core fun k => { k with
        deps := Table.put k.deps x.n { t with started := true, turn := s.uids, acc := t.mat, pos := s.mem.pos } }).setLines
          core 2 true t.wlines)
    else .next s

/-- The unit that performs a tile task; it is the copy engine for a CPYT, and for any other the core's load-store unit
that makes its requests (DESIGN CHOICE, log 131). -/
def tileUnit (core : Nat) (i : Instr) (t : TileTask) : TaskUnit :=
  { via := { core := some core, cl := clusterOf core }, ctx := t.ctx, seq := t.seq, pos := t.pos
    src := some (if tileSource i = 1 then .copyEngine core else .loadStore core) }

/-- What a tile task has to write once it has computed: bytes and pairs, by physical address, and its amax value. -/
structure TileDone where
  out : List (Nat × Byte)
  pairs : List (Nat × Word)
  amax : Word

/-- A tile task computes; an error comes with the kind of access that met it. -/
def runTile (s : State) (q : TaskUnit) (i : Instr) (d : TDesc) (p : Part4) : Except (UnitErr × Access) TileDone × State :=
  let r := computeTile s q i d p
  match r.1 with
  | .error e => (.error (e, .read), r.2)
  | .ok o =>
    let u := writeSpans q o.spans r.2
    match u.1 with
    | .error e => (.error (e, .write), u.2)
    | .ok out =>
      let w := pairPas q o.pairs u.2
      match w.1 with
      | .error e => (.error (e, .write), w.2)
      | .ok ps => (.ok { out := out, pairs := ps, amax := o.amax }, w.2)

/-- The engine computes a tile task, from the point at which it has waited for a page (R421); its amax value joins that
of its task. -/
def State.beginTile (s : State) (core key : Nat) (t : TileTask) (i : Instr) (d : TDesc) : State :=
  let r := runTile (s.hear t.said) (tileUnit core i t) i d (tilePart i d t)
  let put (t : TileTask) : State := (r.2.updCore core fun k => { k with deps := Table.put k.deps key t }).unhear
  match r.1 with
  | .error e => (put { t with said := r.2.said }).tileErr core key t i e.2 e.1
  | .ok o =>
    (put { t with said := [], out := some o.out, pairs := o.pairs }).updEntry t.ctx t.seq
      fun e => { e with val := (amaxMerge (e.val.setWidth 32) o.amax).setWidth 64 }

/-- An addition at the home of a peer's element, with the bytes that stood there. -/
def State.addAtPeer (s : State) (agent pa : Nat) (x : Word) (rel : List Mark) : List (Nat × Byte) × State :=
  let was := (natsFrom pa 4).map fun a => (a, s.mem.atHome a)
  let old := BitVec.ofNat 32 (natOf (was.map Prod.snd))
  (was, { s with
    mem := s.mem.arriveHome s.tick (.agent agent) (agentBytes pa (bytesOf 4 (fadd32 old x).toNat) rel) })

/-- A pair goes to the merge unit of the peer as a tagged request (R482, R449): it is added into its entry there, takes a
free entry, or takes the overflow path. There the task goes by its number at D. -/
def State.pairToPeer (s : State) (ctx seq task pa : Nat) (x : Word) (rel : List Mark) : State :=
  let send (s : State) (old : List (Nat × Byte)) : State := s.rillSend (.task ctx seq) 0 false old
  if s.rill.pairs.any fun e => e.task = task && e.addr = pa then
    send (s.updRill fun r => { r with
      pairs := r.pairs.map fun e => if e.task = task && e.addr = pa then { e with x := fadd32 e.x x } else e }) []
  else if s.rill.pairs.length < 65536 then
    send (s.updRill fun r => { r with pairs := r.pairs ++ [{ task := task, addr := pa, x := x }] }) []
  else
    let u := s.addAtPeer task pa x rel
    send u.2 u.1

/-- The flush of a task (R482): the peer's merge unit applies every entry of it and frees them. -/
def State.flushToPeer (s : State) (ctx seq task : Nat) (rel : List Mark) : State :=
  let one (r : List (Nat × Byte) × State) (e : MergeEntry) : List (Nat × Byte) × State :=
    let u := r.2.addAtPeer task e.addr e.x rel
    (r.1 ++ u.1, u.2)
  let r := (s.rill.pairs.filter fun e => e.task = task).foldl one ([], s)
  (r.2.updRill fun k => { k with pairs := k.pairs.filter fun e => e.task != task }).rillSend (.task ctx seq) 0 false r.1

/-- An atomic addition of a pair (R340, R138): at S for a remote region, at D otherwise. -/
def State.addPair (s : State) (ctx seq agent pa : Nat) (x : Word) (rel : List Mark) : State :=
  if peerHomed pa then s.pairToPeer ctx seq agent pa x rel
  else
    let old := BitVec.ofNat 32 (s.mem.numD pa 4)
    { s with
      mem := s.mem.arriveD s.tick (.agent agent) (agentBytes pa (bytesOf 4 (fadd32 old x).toNat) rel) }

/-- The next write of a tile task meets a pair that has ended since it was translated (R480). -/
def State.tileLost (s : State) (core key : Nat) (t : TileTask) (pa : Nat) : State :=
  (s.failEntry t.ctx t.seq { FaultRec.blank 5 s.tick with
    cause := 4, ctx := BitVec.ofNat 8 t.ctx, src := 6, core := BitVec.ofNat 8 core, addr := BitVec.ofNat 64 pa }).endTile
      core key t

/-- Makes one of the writes a tile task has left: one line, or one pair, which waits while its requester holds all the
requests it can over Rill (R449). The arrivals carry what the stream's SIGNALs have released (R331). -/
def State.writeTile (s : State) (core key agent : Nat) (t : TileTask) (out : List (Nat × Byte)) : State :=
  let put (s : State) (t : TileTask) : State :=
    s.updCore core fun k => { k with deps := Table.put k.deps key t }
  let rel := (s.ctx t.ctx).stream.rel
  match (out.map fun e => e.1 / 128).eraseDups with
  | l :: ls =>
    let r := s.pick (ls.length + 1)
    let line := listGet (l :: ls) r.1 l
    let bs := out.filter fun e => e.1 / 128 = line
    if s.farLost (bs.map Prod.fst) then s.tileLost core key t (128 * line)
    else
      let s1 := { r.2 with
        mem := r.2.mem.arriveD r.2.tick (.agent agent)
          (bs.map fun e => { addr := e.1, val := e.2, who := [], marks := rel }) }
      put s1 { t with out := some (out.filter fun e => e.1 / 128 != line) }
  | [] =>
    let r := s.pick t.pairs.length
    match t.pairs[r.1]? with
    | none => s
    | some (pa, x) =>
      if s.farLost [pa] then s.tileLost core key t pa
      else if peerHomed pa && 4096 ≤ s.rill.out.length then s
      else put (r.2.addPair t.ctx t.seq agent pa x rel) { t with pairs := dropNth t.pairs r.1 }

/-- TILE_TASK_COMPLETE (R341): the tile task computes, in its turn at its engine (R17), makes its writes one by one, and
leaves its core. One of a task that has faulted ends where it has not computed (R332). -/
def execTileTaskComplete (x : CoreItem) (s : State) : Res :=
  let core := coreNum x.core
  s.live (clusterOf core) <|
  match Table.get? (s.core core).deps x.n with
  | none => .next s
  | some t =>
    match s.entryOf t.ctx t.seq with
    | none => .next s
    | some e =>
      match e.i, e.task with
      | some i, some d =>
        if !t.started || s.taskWaits t.ctx t.seq (tileWaiter core x.n) then .next s
        else
          match t.out with
          | none =>
            if e.st = .faulted then .next (s.endTile core x.n t)
            else
              let k := s.core core
              .next (if (if t.copy then k.copyTurn t.turn else k.mayBegin t.turn) then s.beginTile core x.n t i d else s)
          | some out =>
            if out.isEmpty && t.pairs.isEmpty then .next (s.endTile core x.n t)
            else .next (s.writeTile core x.n e.agent t out)
      | _, _ => .next s

end Sys2Proof.Machine
end

