-- ==== Sys2Proof/Machine/Texture.lean ====
section
/-! DEFINITION. The texture instructions TEX2 and TEXG (spec/10 R291 to R296). -/

namespace Sys2Proof.Machine

/-! ### The descriptor (R291) -/

/-- A texture descriptor. -/
structure TexDesc where
  base : Nat
  w : Nat
  h : Nat
  fmt : Nat
  levels : Nat
  wrap : Nat
  filter : Nat
  zero : Bool
deriving DecidableEq, Repr

/-- Parses a descriptor; `zero` says that every reserved bit is zero. -/
def parseTex (bs : List Byte) : TexDesc :=
  let n (o k : Nat) : Nat := natOf ((bs.drop o).take k)
  { base := n 0 8, w := n 8 2 + 1, h := n 10 2 + 1, fmt := n 12 1, levels := n 13 1 % 16 + 1
    wrap := n 14 1, filter := n 15 1
    zero := n 13 1 < 16 && n 14 1 < 16 && n 15 1 < 4 && n 16 16 = 0 }

def TexDesc.bilinear (d : TexDesc) : Bool := d.filter % 2 = 1
def TexDesc.linear (d : TexDesc) : Bool := d.filter / 2 % 2 = 1

/-- The bytes of a texel. -/
def texelSize (fmt : Nat) : Nat := if fmt = 1 then 8 else if fmt = 2 then 16 else 4

/-- Rounds up to a multiple. -/
def upTo (n k : Nat) : Nat := (n + k - 1) / k * k

def TexDesc.width (d : TexDesc) (l : Nat) : Nat := max 1 (d.w / 2 ^ l)
def TexDesc.height (d : TexDesc) (l : Nat) : Nat := max 1 (d.h / 2 ^ l)
def TexDesc.pitch (d : TexDesc) (l : Nat) : Nat := upTo (d.width l * texelSize d.fmt) 128

/-- The offset of a level from the base. -/
def TexDesc.levelOff (d : TexDesc) : Nat → Nat
  | 0 => 0
  | l + 1 => upTo (d.levelOff l + d.pitch l * d.height l) 256

/-- The address of a texel. -/
def TexDesc.addr (d : TexDesc) (l i j : Nat) : Nat :=
  d.base + d.levelOff l + d.pitch l * j + texelSize d.fmt * i

/-- A wrapped index; nothing at the border (R294). -/
def wrapIdx (mode : Nat) (i : Int) (w : Nat) : Option Nat :=
  if mode = 0 then some (i % (w : Int)).toNat
  else if mode = 1 then some (min (max i 0) ((w : Int) - 1)).toNat
  else if mode = 2 then
    let m := (i % (2 * (w : Int))).toNat
    some (if m < w then m else 2 * w - 1 - m)
  else if 0 ≤ i && i < (w : Int) then some i.toNat else none

/-- The address of a texel by its unwrapped indexes; nothing where the border is read. -/
def TexDesc.texel (d : TexDesc) (l : Nat) (i j : Int) : Option Nat :=
  match wrapIdx (d.wrap % 4) i (d.width l), wrapIdx (d.wrap / 4 % 4) j (d.height l) with
  | some a, some b => some (d.addr l a b)
  | _, _ => none

/-- Components R, G, B and A. -/
structure Rgba where
  r : Word
  g : Word
  b : Word
  a : Word
deriving DecidableEq, Repr

/-- A component by number. -/
def Rgba.get (c : Rgba) (n : Nat) : Word := if n = 0 then c.r else if n = 1 then c.g else if n = 2 then c.b else c.a

/-- Applies a function to each component. -/
def Rgba.map3 (f : Word → Word → Word → Word) (x y z : Rgba) : Rgba :=
  { r := f x.r y.r z.r, g := f x.g y.g z.g, b := f x.b y.b z.b, a := f x.a y.a z.a }

/-- A NaN component becomes the canonical one. -/
def cleanNan (x : Word) : Word := if isNan32 x then nan32 else x

/-- Decodes a texel (R291). -/
def decodeTexel (fmt : Nat) (bs : List Byte) : Rgba :=
  let u8 (o : Nat) : Word := rne32 (Real'.frac false (natOf ((bs.drop o).take 1)) 255)
  let f16 (o : Nat) : Word := rne32 (fpF16.decode (natOf ((bs.drop o).take 2)))
  if fmt = 0 then { r := u8 0, g := u8 1, b := u8 2, a := u8 3 }
  else if fmt = 1 then { r := f16 0, g := f16 2, b := f16 4, a := f16 6 }
  else if fmt = 2 then { r := wordAt bs 0, g := wordAt bs 4, b := wordAt bs 8, a := wordAt bs 12 }
  else { r := wordAt bs 0, g := 0, b := 0, a := one32 }

/-! ### Where a sample lies (R293, R294) -/

/-- Texels that a sample at one level reads: the corner, and the weights where it is bilinear. -/
structure Tap where
  level : Nat
  i : Int
  j : Int
  al : Real'
  be : Real'
  four : Bool
deriving DecidableEq, Repr

/-- The floor of an FP32 value and the exact rest. Where the value overflowed, both are open (log 24). -/
def State.texelFloor (s : State) (x : Word) : Int × Real' × State :=
  match f32 x with
  | .fin g n d =>
    let i := (Real'.fin g n d).floor
    (i, (Real'.fin g n d).add (Real'.ofInt i).neg, s)
  | _ =>
    let a := s.pick (2 ^ 64)
    let b := a.2.pick (2 ^ 24)
    ((a.1 : Int) - 2 ^ 63, Real'.scaled false b.1 (-24), b.2)

/-- A coordinate that is not finite is taken as 0. -/
def finite0 (x : Word) : Word :=
  match f32 x with
  | .fin _ _ _ => x
  | _ => 0

/-- The tap at a level (R294). -/
def State.tap (s : State) (d : TexDesc) (l : Nat) (four : Bool) (u v : Word) : Tap × State :=
  let size (n : Nat) : Word := rne32 (Real'.ofInt n)
  let pos (c : Word) (n : Nat) : Word :=
    if four then fma32 c (size n) 0xBF000000#32 else fmul32 c (size n)
  let x := s.texelFloor (pos (finite0 u) (d.width l))
  let y := x.2.2.texelFloor (pos (finite0 v) (d.height l))
  ({ level := l, i := x.1, j := y.1, al := x.2.1, be := y.2.1, four := four }, y.2.2)

/-- The texels of a tap, t00, t10, t01, t11. -/
def Tap.texels (t : Tap) (d : TexDesc) : List (Option Nat) :=
  let at' (i j : Int) : Option Nat := d.texel t.level (t.i + i) (t.j + j)
  if t.four then [at' 0 0, at' 1 0, at' 0 1, at' 1 1] else [at' 0 0]

/-- The level parameter (R293). -/
def texLambda (x : TexMode) (bias : Word) (t : Thread) (c : Nat) (d : TexDesc) : Word :=
  let lam : Word :=
    match x with
    | .base => bias
    | .lod => fadd32 (t.reg (c + 2)) bias
    | .grad =>
      let len (a b : Word) : Word :=
        let sx := fmul32 a (rne32 (Real'.ofInt d.w))
        let tx := fmul32 b (rne32 (Real'.ofInt d.h))
        fsqrt32 (fma32 sx sx (fmul32 tx tx))
      let px := len (t.reg (c + 2)) (t.reg (c + 3))
      let py := len (t.reg (c + 4)) (t.reg (c + 5))
      fadd32 (flog2Bits (fmax32 px py)) bias
  if isNan32 lam then 0
  else fmin32 (fmax32 lam 0) (rne32 (Real'.ofInt ((d.levels : Int) - 1)))

/-- The taps of TEX2 with the weight between them. -/
def State.taps (s : State) (d : TexDesc) (lam u v : Word) : List Tap × Real' × State :=
  if d.linear then
    let l0 := (f32 lam).floor.toNat
    let l1 := min (l0 + 1) (d.levels - 1)
    let a := s.tap d l0 d.bilinear u v
    let b := a.2.tap d l1 d.bilinear u v
    ([a.1, b.1], (f32 lam).add (Real'.ofInt l0).neg, b.2)
  else
    let l := (f32 (fadd32 lam 0x3F000000#32)).floor.toNat
    let a := s.tap d l d.bilinear u v
    ([a.1], Real'.ofInt 0, a.2)

/-- Blends b over a with an exact weight: fma(w, b - a, a). -/
def blend (w : Real') (a b : Word) : Word := rne32 (Real'.fma w (f32 (fsub32 b a)) (f32 a))

/-- Blends every component. -/
def blendAll (w : Real') (a b : Rgba) : Rgba := Rgba.map3 (fun x y _ => blend w x y) a b a

/-- A sample from the texels of its tap (R294). -/
def Tap.sample (t : Tap) (cs : List Rgba) : Rgba :=
  let c (n : Nat) : Rgba := listGet cs n { r := 0, g := 0, b := 0, a := 0 }
  if t.four then blendAll t.be (blendAll t.al (c 0) (c 1)) (blendAll t.al (c 2) (c 3)) else c 0

/-! ### Executing -/

/-- What one lane samples. -/
structure TexLane where
  lane : Nat
  t : Thread
  addr : Nat
  d : TexDesc
  taps : List Tap
  w : Real'
deriving DecidableEq, Repr

/-- An address a descriptor may have: in global memory, and aligned. -/
def texAddrOk (a : Nat) : Bool := a < windowBase && a % 32 = 0

/-- Reads the descriptors that stand where one may, in lane order, and places their samples: these lanes, and the first
lane whose read is stopped. -/
def texLanes (h : Here) (addr : Thread → Nat)
    (place : State → Thread → TexDesc → List Tap × Real' × State) :
    Table Thread → State → List TexLane × Option (Nat × UnitErr) × State
  | [], s => ([], none, s)
  | e :: rest, s =>
    if !texAddrOk (addr e.2) then texLanes h addr place rest s
    else
      let u := s.snapVa h.via h.wave.ctx e.2 (addr e.2) 32
      match u.1 with
      | .error x =>
        let q := texLanes h addr place rest u.2
        (q.1, some (e.1, x), q.2.2)
      | .ok bs =>
        let d := parseTex bs
        let p := place u.2 e.2 d
        let q := texLanes h addr place rest p.2.2
        ({ lane := e.1, t := e.2, addr := addr e.2, d := d, taps := p.1, w := p.2.1 } :: q.1, q.2)

/-- The texel addresses of a lane. -/
def TexLane.addrs (x : TexLane) : List Nat :=
  (x.taps.flatMap fun t => t.texels x.d).filterMap id

/-- A format code is reserved, or a reserved descriptor bit is set. -/
def TexDesc.reserved (d : TexDesc) : Bool := d.fmt > 3 || !d.zero

/-- The first address of a lane that leads nowhere (R296). A reserved format gives a texel no size, and no address. -/
def TexLane.badAddr (x : TexLane) : Option Nat :=
  if x.d.base ≥ 2 ^ 52 then some x.d.base
  else if x.d.fmt > 3 then none
  else x.addrs.find? fun a => a + texelSize x.d.fmt > windowBase

/-- Translates several texels. -/
def texPas (v : Via) (ctx n : Nat) : List Nat → State → Except UnitErr (List Nat) × State
  | [], s => (.ok [], s)
  | a :: rest, s =>
    let u := s.unitPas v ctx a n .read
    match u.1 with
    | .error e => (.error e, u.2)
    | .ok l =>
      let q := texPas v ctx n rest u.2
      match q.1 with
      | .error e => (.error e, q.2)
      | .ok m => (.ok (l ++ m), q.2)

/-- Reads the texels of the lanes in order, each line of a lane as one snapshot. -/
def readTexels (h : Here) : List TexLane → State →
    Except (Nat × UnitErr) (List (TexLane × List Rgba)) × State
  | [], s => (.ok [], s)
  | x :: rest, s =>
    let n := texelSize x.d.fmt
    let p := texPas h.via h.wave.ctx n x.addrs s
    match p.1 with
    | .error e => (.error (x.lane, e), p.2)
    | .ok pas =>
      let vas := x.addrs.flatMap fun a => natsFrom a n
      let u := (p.2.reachLines (.loadStore h.core) h.wave.ctx (vas.zip pas)).snapRead h.via.cl x.t pas
      match u.1 with
      | .error e => (.error (x.lane, e), u.2)
      | .ok bs =>
        -- the bytes stand in the order of the texels that are read
        let step (r : List Rgba × List Byte) (a : Option Nat) : List Rgba × List Byte :=
          match a with
          | none => (r.1 ++ [{ r := 0, g := 0, b := 0, a := 0 }], r.2)
          | some _ => (r.1 ++ [decodeTexel x.d.fmt (r.2.take n)], r.2.drop n)
        let cs := ((x.taps.flatMap fun t => t.texels x.d).foldl step ([], bs)).1
        let q := readTexels h rest u.2
        match q.1 with
        | .error e => (.error e, q.2)
        | .ok l => (.ok ((x, cs) :: l), q.2)

/-- Texture instructions: their checks in order (R296), their reads, and their four results. -/
def State.texRun (s : State) (f : Form) (a : Src) (d : Nat)
    (place : State → Thread → TexDesc → List Tap × Real' × State)
    (result : TexLane → List Rgba → List Word) : Res :=
  s.issue { f with cluster := true } fun h ls =>
    if s.requestsFull h then s.notReady h .requests else
    let addr (t : Thread) : Nat := (Src.int64 h.wave none t a).toNat
    let fault (s : State) (code cause lane at' : Nat) : State :=
      s.raise h { code := code, cause := cause, lane := some lane, addr := at', src := 3 }
    let u := texLanes h addr place ls s
    let of (l : Nat) : Option TexLane := u.1.find? fun x => x.lane = l
    -- the address of a lane that breaks a condition: of its descriptor, or of what the descriptor leads to
    let nowhere (e : Nat × Thread) : Option Nat :=
      if addr e.2 ≥ windowBase then some (addr e.2) else (of e.1).bind TexLane.badAddr
    let askew (e : Nat × Thread) : Option Nat :=
      if addr e.2 % 32 != 0 then some (addr e.2)
      else (of e.1).bind fun x => if x.d.base % 256 != 0 then some x.d.base else none
    match ls.find? fun e => (nowhere e).isSome with
    | some e => fault u.2.2 5 0 e.1 ((nowhere e).getD 0)
    | none =>
      match ls.find? fun e => (askew e).isSome with
      | some e => fault u.2.2 3 0 e.1 ((askew e).getD 0)
      | none =>
        match u.1.find? fun x => x.d.reserved with
        | some x => fault u.2.2 1 4 x.lane x.addr
        | none =>
          match u.2.1 with
          | some (l, e) => u.2.2.unitFault h l 3 e
          | none =>
            let q := readTexels h u.1 u.2.2
            match q.1 with
            | .error (l, e) => q.2.unitFault h l 3 e
            | .ok rs =>
              let ws := rs.flatMap fun e => vWrites e.1.t d ((result e.1 e.2).map cleanNan)
              q.2.doneWrites h h.wave f.len f.sel ls ws

/-- The words of a sample. -/
def Rgba.words (c : Rgba) : List Word := [c.r, c.g, c.b, c.a]

/-- TEX2 (R292 to R294, R296). -/
def execTex2 (x : Tex2Op) (s : State) : Res :=
  let c := x.c.toNat
  let n := match x.mode with
    | .base => 2
    | .lod => 3
    | .grad => 6
  let f : Form :=
    { len := 16, g := x.g, sel := x.sel, uses := (x.d.toNat, 4) :: (c, n) :: Src.run 2 x.a }
  let place (s : State) (t : Thread) (d : TexDesc) : List Tap × Real' × State :=
    s.taps d (texLambda x.mode x.bias t c d) (t.reg c) (t.reg (c + 1))
  let result (y : TexLane) (cs : List Rgba) : List Word :=
    match y.taps with
    | [t] => (t.sample cs).words
    | t0 :: t1 :: _ =>
      let k := if t0.four then 4 else 1
      (blendAll y.w (t0.sample (cs.take k)) (t1.sample (cs.drop k))).words
    | [] => []
  s.texRun f x.a x.d.toNat place result

/-- TEXG (R295, R296). -/
def execTexg (x : TexgOp) (s : State) : Res :=
  let c := x.c.toNat
  let f : Form :=
    { len := 16, g := x.g, sel := x.sel, uses := (x.d.toNat, 4) :: (c, 2) :: Src.run 2 x.a }
  let place (s : State) (t : Thread) (d : TexDesc) : List Tap × Real' × State :=
    let r := s.tap d (min x.level.toNat (d.levels - 1)) true (t.reg c) (t.reg (c + 1))
    ([r.1], Real'.ofInt 0, r.2)
  let result (_ : TexLane) (cs : List Rgba) : List Word := cs.map fun q => q.get x.comp.toNat
  s.texRun f x.a x.d.toNat place result

end Sys2Proof.Machine
end

