-- ==== Sys2Proof/Machine/Weir.lean ====
section
/-! DEFINITION. The Weir: the issue, completion and retirement of window entries, the report of a task's fault,
and the end of a grid that has faulted (spec/11 R329 to R334, R345; spec/19 R430 to R433). -/

namespace Sys2Proof.Machine

/-! ### Readiness (R329) -/

/-- The entries older than one. -/
def Stream.older (n : Stream) (e : Entry) : List Entry := n.win.takeWhile fun o => o.seq != e.seq

/-- FENCET or WAITE. -/
def Entry.holds (e : Entry) : Bool :=
  match e.i with
  | some (.fencet _) => true
  | some (.waite _) => true
  | _ => false

/-- Raw regions overlap, and one of them is written. -/
def rawClash (a b : Nat × Nat × Bool) : Bool :=
  (a.2.2 || b.2.2) && a.1 < b.1 + b.2.1 && b.1 < a.1 + a.2.1

/-- A task is ready. -/
def Stream.isReady (n : Stream) (e : Entry) : Bool :=
  let old := n.older e
  (old.all fun o => o.complete || !(e.deps.any fun p => p = o.seq)) &&
  !(old.any fun o => o.raws.any fun a => e.raws.any fun b => rawClash a b) &&
  (!(e.raws.any fun r => r.2.2) || old.all fun o => o.st = .done) &&
  (old.all fun o => o.complete || !o.holds) &&
  (match e.i with
    | some (.fencet _) => old.all Entry.complete
    | _ => true)

/-- The oldest entry has faulted and waits for its report. -/
def Stream.reporting (n : Stream) : Bool := (n.win.head?.map fun e => decide (e.st = .faulted)).getD false

/-- The context's entries still move: it runs, or it is stopping and completes what has been issued. -/
def State.ctxMoves (s : State) (c : Nat) : Bool :=
  !s.dev.stopped && ((s.ctx c).st = .running || (s.ctx c).st = .stopping)

/-! ### Issue (R329, R345) -/

/-- The fault of a task at its issue: by the stream, or by an engine. -/
def State.issueFault (s : State) (c seq src code cause addr detail : Nat) : State :=
  s.failEntry c seq { FaultRec.blank code s.tick with
    cause := BitVec.ofNat 8 cause, src := BitVec.ofNat 8 src, addr := BitVec.ofNat 64 addr
    detail := BitVec.ofNat 32 detail }

/-- The page waits of a task that are no tile's. -/
def issueWaiter : Nat := 8192
def finishWaiter : Nat := 8193

/-- Issues a launch: its argument area is written, and its grid, whose threads see the area as it was written, goes to
the distributor (R345, R399). -/
def State.issueLaunch (s : State) (c : Nat) (e : Entry) (d : LDesc) : State :=
  let n := (s.ctx c).stream
  let va := n.arenaBase + 128 * e.slot
  let r := s.unitPas (s.laneVia c) c va 128 .write
  match r.1 with
  | .error x => r.2.taskErr c e.seq issueWaiter 4 0xFF .write x
  | .ok pas =>
    let s1 := r.2
    let kid := s1.uids
    let ray := match e.i with
      | some (.rlaunch _) => true
      | _ => false
    let bs : List NewByte := (pas.zip (argBytes d.args d.lrec.param e.seq 0)).map fun x =>
      { addr := x.1, val := x.2, who := [], marks := n.rel }
    let m := s1.mem.arriveD s1.tick (.agent launchAgent) bs
    let g : Grid := { Grid.fresh kid s1.newKernel c e.seq e.pc d.lrec s1.tick m.pos with
      ray := ray, header := d.header, table := d.table, stride := d.stride, cmask := d.cmask
      count := d.count, argAddr := va, args := d.args, view := m.seeLast n.view }
    let s2 := { s1 with uids := kid + 1, grids := Table.put s1.grids kid g, mem := m }
    let s3 := (s2.updEntry c e.seq fun y =>
      { y with st := .issued, kid := some kid, issueTick := s.tick }).trace c 1 0xFF 0xFF 0 e.seq
    if ray then s3 else s3.testGrid (s3.partOf c) g

/-- The formats a task accepts for the slot of a view (R337 to R339, R157); an A in blocks has a K that is a multiple of
48 (R299). -/
def taskAccepts (i : Instr) (d : TDesc) (k : Nat) (f : Fmt) : Bool :=
  match i with
  | .mmt _ =>
    if k = 0 then f != .vq2 else if k = 2 then !f.blocked else !f.blocked || d.v1.cols % 48 = 0
  | .cnvt _ => k != 0 || f != .vq2
  | _ => true

/-- The slots a task names. -/
def slotViews (i : Instr) : List Nat :=
  match i with
  | .mmt _ => useMmt.slots
  | .cnvt _ => useCnvt.slots
  | .fillt _ => useFillt.slots
  | .amaxt _ => useAmaxt.slots
  | _ => []

/-- The dependences a tile task takes on a core (R341), up to four: which of its task's earlier entries there, and whether
a stream tile, is a free choice; and so is whether it writes the stream tile (R97), where the core has a stream area. -/
def State.drawDeps (s : State) (core c seq : Nat) : (List TileDep × List Nat) × State :=
  let k := s.core core
  let mine := (k.deps.filter fun e => e.2.ctx = c && e.2.seq = seq).map Prod.fst
  let r := pickSome mine 3 s
  let u := r.2.pick (if k.sarea = 0 then 1 else 2)
  let w := u.2.pick (if k.sarea = 0 then 1 else 2)
  ((r.1.map TileDep.entry ++ (if u.1 = 1 then [.lines (k.area / 128) 1] else []),
    if w.1 = 1 then [k.area / 128] else []), w.2)

/-- Puts the tile tasks of an entry on cores of the partition while there is room; which core is a free choice
(R341). -/
def placeTilesGo : Nat → State → Nat → Nat → State
  | 0, s, _, _ => s
  | n + 1, s, c, seq =>
    match s.entryOf c seq with
    | none => s
    | some e =>
      match e.tiles with
      | [] => s
      | t :: rest =>
        let room := ((s.clustersOf (s.partOf c)).flatMap fun cl => natsFrom (8 * cl) 8).filter fun k =>
          (Table.lowest (s.core k).deps 64 0).isSome
        let r := s.pick room.length
        match room[r.1]? with
        | none => s
        | some core =>
          let mat := match e.i with
            | some (.mmt _) => true
            | _ => false
          let copy := (e.i.map fun i => decide (tileSource i = 1)).getD false
          let u := r.2.drawDeps core c seq
          let tile : TileTask :=
            { ctx := c, seq := seq, row := t.1, col := t.2, age := e.issueTick, waitFrom := s.tick, deps := u.1.1
              mat := mat, copy := copy, started := false, turn := 0, acc := false, pos := 0, said := [], out := none
              pairs := [], wlines := u.1.2 }
          let s1 := u.2.updCore core fun k =>
            match Table.lowest k.deps 64 0 with
            | some key => { k with deps := Table.put k.deps key tile }
            | none => k
          placeTilesGo n (s1.updEntry c seq fun y => { y with tiles := rest, inFlight := y.inFlight + 1 }) c seq

/-- Places what it can of an entry's tile tasks. -/
def State.placeTiles (s : State) (c seq : Nat) : State :=
  placeTilesGo (((s.entryOf c seq).map fun e => e.tiles.length).getD 0) s c seq

/-- Issues a tensor task to the dependency tables. -/
def State.startTask (s : State) (c : Nat) (e : Entry) (i : Instr) (d : TDesc) : State :=
  let s1 := ({ s with uids := s.uids + 1 }).updEntry c e.seq fun y =>
    { y with st := .issued, tiles := tilesOf i d, agent := s.uids, task := some d, issueTick := s.tick }
  (s1.trace c 1 0xFF 0xFF 0 e.seq).placeTiles c e.seq

/-- The request a CPYT makes of the checks of copies (R339, R271). -/
def cpytReq (d : TDesc) : CopyReq :=
  { lane := 0, t := launchThread (Grid.fresh 0 0 0 0 0 (parseLaunch []) 0) 0 0 0 0 0 none
    prog := d.opw2.toNat, gbase := d.v1.base + d.v1.off, other := d.v0.base + d.v0.off, so := 0 }

/-- Checks and issues a CPYT (R339). -/
def State.issueCpyt (s : State) (c : Nat) (e : Entry) (i : Instr) (d : TDesc) : State :=
  let u := s.checkCopies (s.laneVia c) c false (fun _ => none) [cpytReq d]
  match u.1 with
  | .fault f => u.2.issueFault c e.seq 1 f.code f.cause f.addr 0
  | .unit _ x => u.2.taskErr c e.seq issueWaiter 1 0xFF .read x
  | .ok l =>
    let total := l.foldl (fun n q => n + (q.2.emit q.1.gbase).length * q.2.runBytes) 0
    if total > d.v0.extent (some .n8) then u.2.issueFault c e.seq 1 1 9 d.opw2.toNat 0
    else u.2.startTask c e i { d with prog := ((l.head?).map fun q => q.2.raw).getD [] }

/-- The Weir as it reads and writes for a task itself. -/
def State.laneUnit (s : State) (c seq : Nat) : TaskUnit :=
  { via := s.laneVia c, ctx := c, seq := seq, pos := s.mem.pos, src := none }

/-- A task waits for a page in what the Weir does for it: it goes on from there (R421). -/
def State.entrySaid (s : State) (c seq : Nat) : State :=
  (s.updEntry c seq fun y => { y with said := s.said }).unhear

/-- Checks and issues a REDT of pairs: an index beyond view 0 raises 0x05 before any pair is applied (R340). -/
def State.issuePairs (s : State) (c : Nat) (e : Entry) (i : Instr) (d : TDesc) : State :=
  let a := d.v0.base + d.v0.off
  if a % 4 != 0 then s.issueFault c e.seq 6 3 0 a 0
  else
    let r := readSpans (s.laneUnit c e.seq) (pairSpans d) (s.hear e.said)
    match r.1 with
    | .error x => (r.2.entrySaid c e.seq).taskErr c e.seq issueWaiter 6 0xFF .read x
    | .ok t =>
      let s1 := r.2.unhear.updEntry c e.seq fun y => { y with said := [] }
      match (pairList d t).find? fun p => d.v0.cols ≤ p.1 with
      | some p => s1.issueFault c e.seq 6 5 0 (a + 4 * p.1) 0
      | none => s1.startTask c { e with said := [] } i d

/-- Issues a tensor task: its slots are checked now (R157, R336). -/
def State.issueTask (s : State) (c : Nat) (e : Entry) (i : Instr) (d : TDesc) : State :=
  match (slotViews i).find? fun k => ((d.slot k).accepted (taskAccepts i d k)).isNone with
  | some k => s.issueFault c e.seq 4 9 0 0 (k + 8)
  | none =>
    match i with
    | .cpyt _ => s.issueCpyt c e i d
    | .redt _ => if d.pairsMode then s.issuePairs c e i d else s.startTask c e i d
    | _ => s.startTask c e i d

/-- A context's tasks may issue. -/
def State.streamIssues (s : State) (c : Nat) : Bool :=
  let x := s.ctx c
  !s.dev.stopped && x.st = .running && !x.stream.reporting

/-- A task that can issue. -/
def State.issuable (s : State) (c : Nat) (e : Entry) : Bool :=
  s.streamIssues c && !s.taskWaits c e.seq issueWaiter && e.st = .decoded && (s.ctx c).stream.isReady e &&
  (e.launch.isSome || e.task.isSome)

/-- The order in which the Weir takes ready tasks (R392). -/
def taskBefore (a b : Nat × Entry) : Bool :=
  a.2.decodeTick < b.2.decodeTick || (a.2.decodeTick = b.2.decodeTick &&
    (a.1 < b.1 || (a.1 = b.1 && a.2.seq < b.2.seq)))

/-- The tasks of a lane that can issue. -/
def State.issuables (s : State) (f : Nat) : List (Nat × Entry) :=
  ((natsFrom 0 64).filter fun c => (s.ctx c).bound && s.partOf c = f && s.streamIssues c).flatMap fun c =>
    ((s.ctx c).stream.win.filter fun e => s.issuable c e).map fun e => (c, e)

/-- Counts a task that a lane issues in this cc. -/
def State.noteTask (s : State) (f : Nat) : State :=
  { s with cc := { s.cc with tasks := Table.put s.cc.tasks f (Table.getD s.cc.tasks f 0 + 1) } }

/-- TASK_ISSUE (R329, R392): of a lane's ready tasks the first in their order, at most four in a cc, goes to the
distributor or the dependency tables; tile tasks held back by full tables follow (R341). -/
def execTaskIssue (x : EntryId) (s : State) : Res :=
  let c := x.ctx.toNat
  let f := s.partOf c
  match s.entryOf c x.seq with
  | none => .next s
  | some e =>
    if e.st = .issued && s.streamIssues c then .next (s.placeTiles c x.seq)
    else if !s.issuable c e || 4 ≤ Table.getD s.cc.tasks f 0 ||
        (s.issuables f).any (fun y => taskBefore y (c, e)) then .next s
    else
      let s1 := s.noteTask f
      match e.launch, e.i, e.task with
      | some d, _, _ => .next (s1.issueLaunch c e d)
      | none, some i, some d => .next (s1.issueTask c e i d)
      | none, _, _ => .next s

/-! ### Completion (R329 to R331) -/

/-- The bytes of a renamed destination's buffer that its task leaves unwritten, as offsets and lengths (R325). -/
def padSpans (i : Instr) (d : TDesc) (size : Nat) : List (Nat × Nat) :=
  let v := d.v0
  let ext := v.off + v.extent (layoutOf i d 0)
  let head := [(0, v.off), (ext, size - ext)]
  let body : List (Nat × Nat) :=
    match i with
    | .cpyt _ =>
      let total := ((parseProg d.prog).map fun g =>
        (g.emit (d.v1.base + d.v1.off)).length * g.runBytes).getD 0
      [(v.off + total, v.extent (some .n8) - total)]
    | _ =>
      let row := elemBytes ((layoutOf i d 0).getD .f32) v.cols
      (natsFrom 0 v.rows).map fun r => (v.off + r * v.pitch + row, v.pitch - row)
  (head ++ body).filter fun e => e.2 != 0

/-- The bytes of the buffer that a task has taken. -/
def Entry.bufSize (e : Entry) : Nat := (e.buf.map fun b => classSize b.2).getD 0

/-- The bytes that fill some spans of a new buffer: those of the buffer its handle had before, or zeros. -/
def padBytes (q : TaskUnit) (prev : Option (Nat × Nat)) : List (Nat × Nat) → State →
    Except UnitErr (List (Nat × List Byte)) × State
  | [], s => (.ok [], s)
  | p :: t, s =>
    let old (k : Nat) : Nat × Nat := match prev with
      | some (a, n) => (a + p.1, if p.1 < n then min k (n - p.1) else 0)
      | none => (0, 0)
    let o := old p.2
    thenRead (if o.2 = 0 then (.ok [], s) else s.readSpan q o) fun bs s1 =>
      let all := bs.map (BitVec.ofNat 8) ++ List.replicate (p.2 - o.2) 0
      thenRead (padBytes q prev t s1) fun l s2 => (.ok ((p.1, all) :: l), s2)

/-- An arrival of a task's, with what the stream's SIGNALs have released; nothing goes to a peer whose pair has ended
(R480). -/
def State.taskWrite (s : State) (c : Nat) (e : Entry) (l : List (Nat × Byte)) : Except (UnitErr × Access) Unit × State :=
  if l.isEmpty then (.ok (), s)
  else if s.farLost (l.map Prod.fst) then (.error (.denied 4 ((l.head?.map Prod.fst).getD 0), .write), s)
  else (.ok (), { s with
    mem := s.mem.arriveD s.tick (.agent e.agent)
      (l.map fun b => { addr := b.1, val := b.2, who := [], marks := (s.ctx c).stream.rel }) })

/-- Fills the bytes a task left unwritten from the buffer its handle had before, or with zeros; an error comes with the
kind of access that met it. -/
def State.padTask (s : State) (c : Nat) (e : Entry) (i : Instr) (d : TDesc) :
    Except (UnitErr × Access) Unit × State :=
  let q := s.laneUnit c e.seq
  let r := padBytes q d.prev (padSpans i d e.bufSize) s
  match r.1 with
  | .error x => (.error (x, .read), r.2)
  | .ok bs =>
    let u := writeSpans q (bs.map fun p => (d.v0.base + p.1, p.2)) r.2
    match u.1 with
    | .error x => (.error (x, .write), u.2)
    | .ok l => u.2.taskWrite c e l

/-- The buffer a destination's handle had before is still being written. -/
def Stream.padWaits (n : Stream) (e : Entry) (i : Instr) (d : TDesc) : Bool :=
  !(padSpans i d e.bufSize).isEmpty && (match d.prev with
    | some (a, _) => (n.older e).any fun o => !o.complete && (match o.buf with
        | some b => b.1 = a
        | none => false)
    | none => false)

/-- The amax update of CNVT and AMAXT (R338, R168); it reads the word, so a poisoned line is a fault (R434). -/
def State.amaxTask (s : State) (c : Nat) (e : Entry) (d : TDesc) : Except (UnitErr × Access) Unit × State :=
  if d.amax = 0 then (.ok (), s)
  else
    let r := s.writeSpan (s.laneUnit c e.seq) d.amax 4
    match r.1 with
    | .error x => (.error (x, .write), r.2)
    | .ok pas =>
      let pa := listGet pas 0 0
      if r.2.mem.poisoned pa 4 then (.error (.ecc (pa / 128 * 128), .write), r.2)
      else if r.2.farLost [pa] then (.error (.denied 4 d.amax, .write), r.2)
      else (.ok (), r.2.amaxUpdate e.agent [pa] (e.val.setWidth 32) (s.ctx c).stream.rel)

/-- What the Weir does for a tensor task whose tile tasks have completed. -/
def State.lastOfTask (s : State) (c : Nat) (e : Entry) (i : Instr) (d : TDesc) : Except (UnitErr × Access) Unit × State :=
  let r := if e.buf.isSome then s.padTask c e i d else (.ok (), s)
  match r.1 with
  | .error x => (.error x, r.2)
  | .ok () => r.2.amaxTask c e d

/-- The last part of a tensor task whose tile tasks have completed, from the point at which it has waited for a page
(R421). -/
def State.finishTask (s : State) (c : Nat) (e : Entry) (i : Instr) (d : TDesc) : State :=
  let r := (s.hear e.said).lastOfTask c e i d
  match r.1 with
  | .error x => (r.2.entrySaid c e.seq).taskErr c e.seq finishWaiter (tileSource i) 0xFF x.2 x.1
  | .ok () =>
    let s1 := r.2.unhear
    (s1.updEntry c e.seq fun y => { y with st := .done, said := [] }).updCtx c fun y => { y with
      stream := { y.stream with view := y.stream.view.join (s1.mem.agentView e.agent) } }

/-- A REDT of pairs whose destination is the peer's still has to send its flush (R482). -/
def State.flushes (s : State) (e : Entry) (i : Instr) (d : TDesc) : Bool :=
  match i with
  | .redt _ => d.pairsMode && !e.sent && s.rill.pairs.any fun p => p.task = e.agent
  | _ => false

/-- The flush of a task; it waits while the endpoint holds all the requests it can. -/
def State.flushTask (s : State) (c : Nat) (e : Entry) : State :=
  if 4096 ≤ s.rill.out.length then s
  else (s.flushToPeer c e.seq e.agent (s.ctx c).stream.rel).updEntry c e.seq fun y => { y with sent := true }

/-- The final step of FENCET.s (R331, R123): what D holds modified of the peer's bytes goes home, as one request; a read
to the host follows where bytes have gone there (R481). With no pair its bytes have nowhere to go (R450). -/
def State.sendFence (s : State) (c : Nat) (e : Entry) : State :=
  let old := s.mem.dirty.map fun b => (b.1, s.mem.atHome b.1)
  let host := s.mem.log.any fun x => x.bytes.any fun b => paRegion b.addr = 8
  if !old.isEmpty && !s.paired then s.failEntry c e.seq { s.lostRec 0 none with ctx := BitVec.ofNat 8 c }
  else if !old.isEmpty && 4096 ≤ s.rill.out.length then s
  else
    let s1 := if old.isEmpty then s
      else State.rillSend { s with mem := s.mem.sendHome } (.task c e.seq) 0 true old
    let name := s1.uids
    let s2 := if host then ({ s1 with uids := name + 1 }.updRill fun r => { r with hostOut := r.hostOut ++ [name] }) else s1
    s2.updEntry c e.seq fun y => { y with sent := true, agent := if host then name else 0 }

/-- A FENCET.s whose step is made waits for the acknowledgement of every request of the context, and of its own. -/
def State.fenceOpen (s : State) (c : Nat) (e : Entry) : Bool :=
  (s.rill.out.any fun q => q.ctx = c) || (e.agent != 0 && e.agent ∈ s.rill.hostOut)

/-- A ray batch ends when every ray has retired and its copies are complete (R346). -/
def State.endBatch (s : State) (kid : Nat) : State :=
  match Table.get? s.grids kid with
  | none => s
  | some g =>
    let copies := s.cores.any fun k => k.copies.any fun e => e.2.kid = kid
    if g.ray && !g.ended && g.next = g.count && g.retired = g.count && !copies then
      (s.updGrid kid fun g => { g with ended := true }).trace g.ctx 4 0xFF 0xFF 0 g.seq
    else s

/-- The grids of a family. -/
def State.family (s : State) (root : Nat) : List Nat :=
  (s.grids.filter fun e => e.2.root = root).map Prod.fst

/-- Removes a family from the tables. -/
def State.dropFamily (s : State) (fam : List Nat) : State :=
  let mine (k : Nat) : Bool := fam.any fun x => x = k
  { s with
    grids := s.grids.filter fun e => !mine e.1
    mem := fam.foldl (fun m k => m.dropKid k) s.mem
    cores := s.cores.map fun k => { k with soft := k.soft.filter fun e => !mine e.1 } }

/-- Completes a launch whose grid and descendants are complete (R312, R345, R346). -/
def State.finishLaunch (s : State) (c seq kid : Nat) : State :=
  let s1 := s.endBatch kid
  let ending := ((Table.get? s1.grids kid).map Grid.ending).getD true
  if ending || !s1.complete kid then s1
  else
    let v := s1.endView kid
    ((s1.dropFamily (s1.family kid)).updEntry c seq fun y => { y with st := .done, kid := none }).updCtx c
      fun y => { y with stream := { y.stream with view := y.stream.view.join v } }

/-- TASK_COMPLETE (R329): a tensor task, a launch, or FENCET (R331). -/
def execTaskComplete (x : EntryId) (s : State) : Res :=
  let c := x.ctx.toNat
  let n := (s.ctx c).stream
  if !s.ctxMoves c || s.taskWaits c x.seq finishWaiter then .next s
  else
    match s.entryOf c x.seq with
    | none => .next s
    | some e =>
      match e.st, e.i with
      | .decoded, some (.fencet far) =>
        if !n.isReady e then .next s
        else if far && !e.sent then .next (s.sendFence c e)
        else if far && s.fenceOpen c e then .next s
        else .next (s.updEntry c x.seq fun y => { y with st := .done })
      | .issued, some i =>
        match e.kid, e.task with
        | some kid, _ => .next (s.finishLaunch c x.seq kid)
        | none, some d =>
          if !e.tiles.isEmpty || e.inFlight != 0 || n.padWaits e i d then .next s
          else if s.flushes e i d then .next (s.flushTask c e)
          else if s.linkBusy (.task c x.seq) then .next s
          else .next (s.finishTask c e i d)
        | none, none => .next s
      | _, _ => .next s

/-- The condition of a WAITE (R331). -/
def waiteHolds (w : WaiteOp) (ev val : DWord) : Bool :=
  if w.eq then ev = val else val.toNat ≤ ev.toNat

/-- Completes a WAITE whose event satisfies it (R331). -/
def State.judgeWaite (s : State) (c : Nat) (e : Entry) : State :=
  match e.st, e.i with
  | .decoded, some (.waite w) =>
    if (s.ctx c).stream.isReady e && waiteHolds w (listGet (s.ctx c).events w.ev.toNat 0) e.val then
      s.updEntry c e.seq fun y => { y with st := .done }
    else s
  | _, _ => s

/-- EVENT_WAIT_SATISFIED (R331). -/
def execEventWaitSatisfied (x : EntryId) (s : State) : Res :=
  let c := x.ctx.toNat
  if s.dev.stopped || (s.ctx c).st != .running then .next s
  else
    match s.entryOf c x.seq with
    | none => .next s
    | some e => .next (s.judgeWaite c e)

/-- Completes every WAITE of a context whose event satisfies it as a cc ends. -/
def State.judgeWaites (s : State) (c : Nat) : State :=
  if s.dev.stopped || (s.ctx c).st != .running then s
  else (s.ctx c).stream.win.foldl (fun s e => s.judgeWaite c e) s

/-! ### Retirement (R322, R323, R329, R331) -/

/-- Copies an entry's changes to the retired state and frees displaced buffers. -/
def Stream.retire (n : Stream) (e : Entry) : Stream :=
  { n with
    win := n.win.filter fun o => o.seq != e.seq
    qR := match e.qw with
      | some (d, v) => Table.put n.qR d v
      | none => n.qR
    hR := e.maps.foldl (fun (h : Table Handle) (m : Nat × Option Handle) =>
      match m.2 with
      | some v => Table.put h m.1 v
      | none => Table.del h m.1) n.hR
    freeBufs := e.displaced.foldl giveBuf n.freeBufs
    stackR := e.stack
    spcR := e.nextPc }

/-- What the retirement of some instructions does besides. A SIGNAL is a release at S for the arrivals of the older
entries (R331): the stream's later arrivals carry it. -/
def State.retireEffect (s : State) (c : Nat) (e : Entry) : State :=
  match e.i with
  | some (.signal x) =>
    let ev := x.ev.toNat
    let stands := s.swrStands (0x080 + ev) c
    let s1 := s.updCtx c fun y => { y with
      events := if stands then y.events else listUpd y.events ev fun v => if x.add then v + e.val else e.val
      stream := { y.stream with rel := [{ who := streamChain, scope := .s, view := y.stream.view }] } }
    if x.irq then s1.setDev { s1.dev with sigPend := s1.dev.sigPend ||| (1#64 <<< c) } else s1
  | some .haltq =>
    let s1 := s.updCtx c fun y => { y with stream := { y.stream with status := .halted } }
    s1.post (s1.partOf c)
      { frec := { FaultRec.blank 0x18 s.tick with
          ctx := BitVec.ofNat 8 c, src := 4, seq := BitVec.ofNat 64 e.seq
          pc := BitVec.ofNat 64 e.pc.toNat }
        page := none }
  | _ => s

/-- Retires the oldest entry. A task's retirement is a replay event of the partition's first cluster (R469). -/
def State.retireEntry (s : State) (c : Nat) (e : Entry) : State :=
  let s1 := s.updCtx c fun y => { y with stream := y.stream.retire e }
  let s2 := s1.retireEffect c e
  if e.task.isSome || e.launch.isSome then
    (s2.event c (s2.partOf c) 3 [e.seq, e.pc.toNat] 0 0).trace c 2 0xFF 0xFF 0 e.seq
  else s2

/-! ### The report of a fault (R332, R333, R430) -/

/-- Ends a family without a fault of its own (R332). -/
def State.stopFamily (s : State) (root : Nat) : State :=
  { s with grids := s.grids.map fun e => if e.2.root = root then (e.1, { e.2 with ending := true }) else e }

/-- Grids launched by some entries that still run. -/
def State.runningGrids (s : State) (l : List Entry) : List Nat :=
  (l.filterMap Entry.kid).filter fun k => match Table.get? s.grids k with
    | some g => !g.ending
    | none => false

/-- A grid of some entries has not been freed, or a tile task of the context has started. -/
def State.stillStopping (s : State) (c : Nat) (l : List Entry) : Bool :=
  ((l.filterMap Entry.kid).any fun k => (Table.get? s.grids k).isSome) ||
  s.cores.any fun k => k.deps.any fun e => e.2.ctx = c && e.2.started

/-- Withdraws the tile tasks of a context that have not started, from every core. -/
def State.withdrawAll (s : State) (c : Nat) : State :=
  (natsFrom 0 s.cores.length).foldl (fun s k => s.withdrawTiles k c) s

/-- The stream after a report: the speculative state is the retired one, and SPC holds the address of the
entry that faulted. -/
def Stream.report (n : Stream) (e : Entry) : Stream :=
  let bufs := n.win.filterMap Entry.buf
  { n with
    status := .faulted, win := [], stuck := none, qS := n.qR, hS := n.hR, stackS := n.stackR
    spcS := e.pc, spcR := e.pc, freeBufs := bufs.foldl giveBuf n.freeBufs }

/-- Reports the fault of the oldest entry, which is dumped before in hardware mode (R384). -/
def State.report (s : State) (c : Nat) (e : Entry) (r : FaultRec) : State :=
  let g := (s.ctx c).dbg
  let d : Dumped :=
    if s.dev.func.getLsbD 3 then { s := s, bytes := 0, head := false, fault := none }
    else s.dump c g.dumpBase g.dumpSize
  let s1 := d.s
  let fr := { r with flags := 4 + (if d.head then 8 else 0) }
  (s1.updCtx c fun y => { y with stream := y.stream.report e }).post (s1.partOf c) { frec := fr, page := none }

/-- ENTRY_RETIRE (R329): the oldest entry retires, or its fault is reported once younger work has stopped. -/
def execEntryRetire (c6 : BitVec 6) (s : State) : Res :=
  let c := c6.toNat
  let n := (s.ctx c).stream
  if !s.ctxMoves c then .next s
  else
    match n.win with
    | [] => .next s
    | e :: rest =>
      match e.st, e.fault with
      | .done, _ => .next (s.retireEntry c e)
      | .faulted, some r =>
        let s1 := ((s.runningGrids rest).foldl State.stopFamily s).withdrawAll c
        if s1.stillStopping c (e :: rest) then .next s1 else .next (s1.report c e r)
      | _, _ => .next s

/-! ### The end of a grid that has faulted (R431 to R433) -/

/-- Accesses of a family's threads to the peer or the host have no answer yet (R436). -/
def State.familyLinks (s : State) (mine : Nat → Bool) : Bool :=
  (s.rill.out.any fun q => mine q.kid) ||
  s.cores.any fun k => k.waves.any fun e => mine e.2.kid && e.2.lanes.any fun l => s.awaitsLink l.2.uid

/-- Work in flight of a family: engine operations, operations of its waves and their stores, and one at the lane port. -/
def Core.familyBusy (k : Core) (mine : Nat → Bool) : Bool :=
  let of (slot : Nat) : Bool := match Table.get? k.waves slot with
    | some w => mine w.kid
    | none => false
  (k.port.any fun p => of p.slot) || (k.stores.any fun x => of x.slot) ||
  k.ops.any fun e =>
    (match e.2.eng with
      | some o => mine o.kid
      | none => false) || of e.2.slot

/-- The records, bins, claims, copies, scratchpad, tiles and buffers of a family are freed, and its copies and
accesses that wait for pages are forgotten. -/
def State.freeFamily (s : State) (fam : List Nat) : State :=
  let mine (k : Nat) : Bool := fam.any fun x => x = k
  let core (k : Core) : Core :=
    { k with
      waves := k.waves.filter fun e => !mine e.2.kid
      basins := k.basins.filter fun e => !mine e.2.key.kid
      crews := k.crews.filter fun e => !mine e.2.kid
      copies := k.copies.filter fun e => !mine e.2.kid }
  let cluster (c : Cluster) : Cluster :=
    { c with
      unbinned := c.unbinned.filter fun t => !mine t.kid
      waiting := c.waiting.filter fun t => !mine t.kid
      bins := c.bins.filter fun e => !mine e.2.kid
      trav := c.trav.filter fun e => !mine e.2.kid
      paused := c.paused.filter fun p => !c.trav.any fun e => e.1 = p.1 && mine e.2.kid
      rotated := c.rotated.filter fun e => !mine e.wave.kid }
  let page (p : PageRec) : PageRec := { p with who := p.who.filter fun w => w.task.isSome || !mine w.kid }
  let areas := s.blocks.filter fun e => mine e.2.kid && e.2.stands
  let s1 := areas.foldl (fun s e =>
    s.updCore e.2.core fun k => k.clearArea e.2.scratch ((s.sizes e.2).1 + (s.sizes e.2).2))
    (s.noteGone (areas.map Prod.snd))
  let s2 := { s1 with
    cores := s1.cores.map core
    clusters := s1.clusters.map cluster
    blocks := s1.blocks.filter fun e => !mine e.2.kid
    gangs := s1.gangs.filter fun e => !mine e.2.kid
    pages := s1.pages.map page }
  s2.dropFamily fam

/-- A cluster of a context's partition is frozen (R457). -/
def State.partFrozen (s : State) (c : Nat) : Bool :=
  (s.clustersOf (s.partOf c)).any fun cl => (s.cluster cl).dbg.frozen

/-- GRID_ENDING_COMPLETE (R431): the family of an ending grid has stopped and is freed; its fault goes to the
entry of the launching task (R433). -/
def execGridEndingComplete (kid : Nat) (s : State) : Res :=
  match Table.get? s.grids kid with
  | none => .next s
  | some g =>
    let fam := s.family kid
    let mine (k : Nat) : Bool := fam.any fun x => x = k
    if g.root != kid || !g.ending || s.dev.stopped || s.partFrozen g.ctx ||
        s.familyLinks mine || s.cores.any (fun k => k.familyBusy mine) then .next s
    else
      let s1 := s.freeFamily fam
      .next (s1.updEntry g.ctx g.seq fun e =>
        match g.fault with
        | some r => { e with st := .faulted, fault := some r, kid := none }
        | none => e)

end Sys2Proof.Machine
end

