-- ==== Sys2Proof/Machine/Dispatch.lean ====
section
/-! DEFINITION. One arm for each instruction, each a direct call of its meaning. -/

namespace Sys2Proof.Machine

def exec (i : Instr) (s : State) : Host.Outcome State Fault Refusal :=
  match i with
  | .nop x => Sys2Proof.Machine.execNop x s
  | .bra x => Sys2Proof.Machine.execBra x s
  | .brd x => Sys2Proof.Machine.execBrd x s
  | .rcv x => Sys2Proof.Machine.execRcv x s
  | .reform x => Sys2Proof.Machine.execReform x s
  | .yield x => Sys2Proof.Machine.execYield x s
  | .await x => Sys2Proof.Machine.execAwait x s
  | .phase x => Sys2Proof.Machine.execPhase x s
  | .call x => Sys2Proof.Machine.execCall x s
  | .ret x => Sys2Proof.Machine.execRet x s
  | .jmpi x => Sys2Proof.Machine.execJmpi x s
  | .exit x => Sys2Proof.Machine.execExit x s
  | .crew x => Sys2Proof.Machine.execCrew x s
  | .uncrew x => Sys2Proof.Machine.execUncrew x s
  | .trap x => Sys2Proof.Machine.execTrap x s
  | .bkpt x => Sys2Proof.Machine.execBkpt x s
  | .clause x => Sys2Proof.Machine.execClause x s
  | .iadd x => Sys2Proof.Machine.execIadd x s
  | .isum3 x => Sys2Proof.Machine.execIsum3 x s
  | .isub x => Sys2Proof.Machine.execIsub x s
  | .imul x => Sys2Proof.Machine.execImul x s
  | .imulh x => Sys2Proof.Machine.execImulh x s
  | .imad x => Sys2Proof.Machine.execImad x s
  | .idiv x => Sys2Proof.Machine.execIdiv x s
  | .irem x => Sys2Proof.Machine.execIrem x s
  | .imin x => Sys2Proof.Machine.execImin x s
  | .imax x => Sys2Proof.Machine.execImax x s
  | .iabs x => Sys2Proof.Machine.execIabs x s
  | .mov x => Sys2Proof.Machine.execMov x s
  | .movi x => Sys2Proof.Machine.execMovi x s
  | .movi64 x => Sys2Proof.Machine.execMovi64 x s
  | .lea x => Sys2Proof.Machine.execLea x s
  | .sel x => Sys2Proof.Machine.execSel x s
  | .shl x => Sys2Proof.Machine.execShl x s
  | .shr x => Sys2Proof.Machine.execShr x s
  | .sar x => Sys2Proof.Machine.execSar x s
  | .and x => Sys2Proof.Machine.execAnd x s
  | .or x => Sys2Proof.Machine.execOr x s
  | .xor x => Sys2Proof.Machine.execXor x s
  | .not x => Sys2Proof.Machine.execNot x s
  | .tern x => Sys2Proof.Machine.execTern x s
  | .popc x => Sys2Proof.Machine.execPopc x s
  | .clz x => Sys2Proof.Machine.execClz x s
  | .brev x => Sys2Proof.Machine.execBrev x s
  | .bfe x => Sys2Proof.Machine.execBfe x s
  | .bfi x => Sys2Proof.Machine.execBfi x s
  | .fadd x => Sys2Proof.Machine.execFadd x s
  | .fmul x => Sys2Proof.Machine.execFmul x s
  | .ffma x => Sys2Proof.Machine.execFfma x s
  | .fdiv x => Sys2Proof.Machine.execFdiv x s
  | .fmin x => Sys2Proof.Machine.execFmin x s
  | .fmax x => Sys2Proof.Machine.execFmax x s
  | .frcp x => Sys2Proof.Machine.execFrcp x s
  | .frsq x => Sys2Proof.Machine.execFrsq x s
  | .fsqrt x => Sys2Proof.Machine.execFsqrt x s
  | .fexp2 x => Sys2Proof.Machine.execFexp2 x s
  | .flog2 x => Sys2Proof.Machine.execFlog2 x s
  | .fsin x => Sys2Proof.Machine.execFsin x s
  | .fcos x => Sys2Proof.Machine.execFcos x s
  | .pkadd x => Sys2Proof.Machine.execPkadd x s
  | .pkmul x => Sys2Proof.Machine.execPkmul x s
  | .pkfma x => Sys2Proof.Machine.execPkfma x s
  | .cvt x => Sys2Proof.Machine.execCvt x s
  | .icmp x => Sys2Proof.Machine.execIcmp x s
  | .fcmp x => Sys2Proof.Machine.execFcmp x s
  | .pand x => Sys2Proof.Machine.execPand x s
  | .por x => Sys2Proof.Machine.execPor x s
  | .pxor x => Sys2Proof.Machine.execPxor x s
  | .pnot x => Sys2Proof.Machine.execPnot x s
  | .pmov x => Sys2Proof.Machine.execPmov x s
  | .vote x => Sys2Proof.Machine.execVote x s
  | .xlane x => Sys2Proof.Machine.execXlane x s
  | .bcast x => Sys2Proof.Machine.execBcast x s
  | .redx x => Sys2Proof.Machine.execRedx x s
  | .scanx x => Sys2Proof.Machine.execScanx x s
  | .ballot x => Sys2Proof.Machine.execBallot x s
  | .matchx x => Sys2Proof.Machine.execMatchx x s
  | .ld x => Sys2Proof.Machine.execLd x s
  | .ldStrong x => Sys2Proof.Machine.execLdStrong x s
  | .lds x => Sys2Proof.Machine.execLds x s
  | .ldw x => Sys2Proof.Machine.execLdw x s
  | .ldt x => Sys2Proof.Machine.execLdt x s
  | .ldf x => Sys2Proof.Machine.execLdf x s
  | .pref x => Sys2Proof.Machine.execPref x s
  | .st x => Sys2Proof.Machine.execSt x s
  | .sts x => Sys2Proof.Machine.execSts x s
  | .stt x => Sys2Proof.Machine.execStt x s
  | .sete x => Sys2Proof.Machine.execSete x s
  | .atom x => Sys2Proof.Machine.execAtom x s
  | .red x => Sys2Proof.Machine.execRed x s
  | .amaxswp x => Sys2Proof.Machine.execAmaxswp x s
  | .cmt x => Sys2Proof.Machine.execCmt x s
  | .abt x => Sys2Proof.Machine.execAbt x s
  | .fence x => Sys2Proof.Machine.execFence x s
  | .bar x => Sys2Proof.Machine.execBar x s
  | .arrive x => Sys2Proof.Machine.execArrive x s
  | .join x => Sys2Proof.Machine.execJoin x s
  | .leave x => Sys2Proof.Machine.execLeave x s
  | .acopy x => Sys2Proof.Machine.execAcopy x s
  | .acopyg x => Sys2Proof.Machine.execAcopyg x s
  | .seal x => Sys2Proof.Machine.execSeal x s
  | .waitb x => Sys2Proof.Machine.execWaitb x s
  | .stage x => Sys2Proof.Machine.execStage x s
  | .tiledef x => Sys2Proof.Machine.execTiledef x s
  | .tiledefSt x => Sys2Proof.Machine.execTiledefSt x s
  | .tilest x => Sys2Proof.Machine.execTilest x s
  | .regclm x => Sys2Proof.Machine.execRegclm x s
  | .regrel x => Sys2Proof.Machine.execRegrel x s
  | .acclm x => Sys2Proof.Machine.execAcclm x s
  | .accrel x => Sys2Proof.Machine.execAccrel x s
  | .rquery x => Sys2Proof.Machine.execRquery x s
  | .rayset x => Sys2Proof.Machine.execRayset x s
  | .rayget x => Sys2Proof.Machine.execRayget x s
  | .hitget x => Sys2Proof.Machine.execHitget x s
  | .trace x => Sys2Proof.Machine.execTrace x s
  | .accept x => Sys2Proof.Machine.execAccept x s
  | .ignore x => Sys2Proof.Machine.execIgnore x s
  | .report x => Sys2Proof.Machine.execReport x s
  | .key x => Sys2Proof.Machine.execKey x s
  | .accum x => Sys2Proof.Machine.execAccum x s
  | .rng x => Sys2Proof.Machine.execRng x s
  | .mma x => Sys2Proof.Machine.execMma x s
  | .mmas x => Sys2Proof.Machine.execMmas x s
  | .mld x => Sys2Proof.Machine.execMld x s
  | .mst x => Sys2Proof.Machine.execMst x s
  | .mstSp x => Sys2Proof.Machine.execMstSp x s
  | .mzero x => Sys2Proof.Machine.execMzero x s
  | .mzeroStat x => Sys2Proof.Machine.execMzeroStat x s
  | .mcvt x => Sys2Proof.Machine.execMcvt x s
  | .cbdec x => Sys2Proof.Machine.execCbdec x s
  | .bscale x => Sys2Proof.Machine.execBscale x s
  | .tex2 x => Sys2Proof.Machine.execTex2 x s
  | .texg x => Sys2Proof.Machine.execTexg x s
  | .launch x => Sys2Proof.Machine.execLaunch x s
  | .lwait x => Sys2Proof.Machine.execLwait x s
  | .lwaitTest x => Sys2Proof.Machine.execLwaitTest x s
  | .prog x => Sys2Proof.Machine.execProg x s
  | .srd x => Sys2Proof.Machine.execSrd x s
  | .swr x => Sys2Proof.Machine.execSwr x s
  | .tret x => Sys2Proof.Machine.execTret x s
  | .tlbinv x => Sys2Proof.Machine.execTlbinv x s
  | .cinv x => Sys2Proof.Machine.execCinv x s
  | .haltc x => Sys2Proof.Machine.execHaltc x s
  | .dump x => Sys2Proof.Machine.execDump x s
  | .ctxsave x => Sys2Proof.Machine.execCtxsave x s
  | .ctxload x => Sys2Proof.Machine.execCtxload x s
  | .fqpop x => Sys2Proof.Machine.execFqpop x s
  | .hostirq x => Sys2Proof.Machine.execHostirq x s
  | .waiti x => Sys2Proof.Machine.execWaiti x s
  | .nopq => Sys2Proof.Machine.execNopq s
  | .haltq => Sys2Proof.Machine.execHaltq s
  | .setq x => Sys2Proof.Machine.execSetq x s
  | .movq x => Sys2Proof.Machine.execMovq x s
  | .addq x => Sys2Proof.Machine.execAddq x s
  | .cmpq x => Sys2Proof.Machine.execCmpq x s
  | .ldq x => Sys2Proof.Machine.execLdq x s
  | .brq x => Sys2Proof.Machine.execBrq x s
  | .jmpq off => Sys2Proof.Machine.execJmpq off s
  | .callq off => Sys2Proof.Machine.execCallq off s
  | .retq => Sys2Proof.Machine.execRetq s
  | .bind x => Sys2Proof.Machine.execBind x s
  | .free h => Sys2Proof.Machine.execFree h s
  | .fencet sw => Sys2Proof.Machine.execFencet sw s
  | .waite x => Sys2Proof.Machine.execWaite x s
  | .signal x => Sys2Proof.Machine.execSignal x s
  | .klaunch x => Sys2Proof.Machine.execKlaunch x s
  | .rlaunch x => Sys2Proof.Machine.execRlaunch x s
  | .mmt x => Sys2Proof.Machine.execMmt x s
  | .cnvt x => Sys2Proof.Machine.execCnvt x s
  | .cpyt x => Sys2Proof.Machine.execCpyt x s
  | .redt x => Sys2Proof.Machine.execRedt x s
  | .fillt x => Sys2Proof.Machine.execFillt x s
  | .amaxt x => Sys2Proof.Machine.execAmaxt x s
  | .taskIssue x => Sys2Proof.Machine.execTaskIssue x s
  | .tileTaskIssue x => Sys2Proof.Machine.execTileTaskIssue x s
  | .tileTaskComplete x => Sys2Proof.Machine.execTileTaskComplete x s
  | .taskComplete x => Sys2Proof.Machine.execTaskComplete x s
  | .eventWaitSatisfied x => Sys2Proof.Machine.execEventWaitSatisfied x s
  | .entryRetire ctx => Sys2Proof.Machine.execEntryRetire ctx s
  | .gangPlacement part => Sys2Proof.Machine.execGangPlacement part s
  | .gangFallbackExpiry part => Sys2Proof.Machine.execGangFallbackExpiry part s
  | .gangPriorityAge part => Sys2Proof.Machine.execGangPriorityAge part s
  | .clusterReservation part => Sys2Proof.Machine.execClusterReservation part s
  | .contextFairnessStop part => Sys2Proof.Machine.execContextFairnessStop part s
  | .contextFairnessRun part => Sys2Proof.Machine.execContextFairnessRun part s
  | .recordBinned cl => Sys2Proof.Machine.execRecordBinned cl s
  | .spilledRecordReturn cl => Sys2Proof.Machine.execSpilledRecordReturn cl s
  | .binAged x => Sys2Proof.Machine.execBinAged x s
  | .binStarved x => Sys2Proof.Machine.execBinStarved x s
  | .binIssue x => Sys2Proof.Machine.execBinIssue x s
  | .dispatchComplete x => Sys2Proof.Machine.execDispatchComplete x s
  | .laneFiled x => Sys2Proof.Machine.execLaneFiled x s
  | .basinAged x => Sys2Proof.Machine.execBasinAged x s
  | .basinDraw x => Sys2Proof.Machine.execBasinDraw x s
  | .elevatedPriority x => Sys2Proof.Machine.execElevatedPriority x s
  | .waveRotation x => Sys2Proof.Machine.execWaveRotation x s
  | .rotatedWaveRestore x => Sys2Proof.Machine.execRotatedWaveRestore x s
  | .claimSatisfied x acc => Sys2Proof.Machine.execClaimSatisfied x acc s
  | .deadlockDetect x => Sys2Proof.Machine.execDeadlockDetect x s
  | .blockRestore x => Sys2Proof.Machine.execBlockRestore x s
  | .awaitSample x => Sys2Proof.Machine.execAwaitSample x s
  | .flagOpComplete x k => Sys2Proof.Machine.execFlagOpComplete x k s
  | .copyComplete x => Sys2Proof.Machine.execCopyComplete x s
  | .engineWriteComplete x run => Sys2Proof.Machine.execEngineWriteComplete x run s
  | .stageCopyIssue x => Sys2Proof.Machine.execStageCopyIssue x s
  | .stashFillComplete x line => Sys2Proof.Machine.execStashFillComplete x line s
  | .stashRecall x line => Sys2Proof.Machine.execStashRecall x line s
  | .blockEnd x => Sys2Proof.Machine.execBlockEnd x s
  | .cacheModeApply cl => Sys2Proof.Machine.execCacheModeApply cl s
  | .sareaApply x => Sys2Proof.Machine.execSareaApply x s
  | .rayRecordWrite kid => Sys2Proof.Machine.execRayRecordWrite kid s
  | .traversalRun x => Sys2Proof.Machine.execTraversalRun x s
  | .treeletFetchComplete x => Sys2Proof.Machine.execTreeletFetchComplete x s
  | .stepBudgetStop x => Sys2Proof.Machine.execStepBudgetStop x s
  | .gridEndingComplete kid => Sys2Proof.Machine.execGridEndingComplete kid s
  | .translationWalk x ctx va => Sys2Proof.Machine.execTranslationWalk x ctx va s
  | .eccErrorNoRequester line => Sys2Proof.Machine.execEccErrorNoRequester line s
  | .eccCorrectableError line => Sys2Proof.Machine.execEccCorrectableError line s
  | .handlerStart f => Sys2Proof.Machine.execHandlerStart f s
  | .coreHalted x ctx => Sys2Proof.Machine.execCoreHalted x ctx s
  | .contextSaved ctx => Sys2Proof.Machine.execContextSaved ctx s
  | .calloutGranTimeout x => Sys2Proof.Machine.execCalloutGranTimeout x s
  | .contextRestored ctx => Sys2Proof.Machine.execContextRestored ctx s
  | .rillRequestReceive tag payload => Sys2Proof.Machine.execRillRequestReceive tag payload s
  | .rillResponseReceive tag => Sys2Proof.Machine.execRillResponseReceive tag s
  | .rillRetransmit tag => Sys2Proof.Machine.execRillRetransmit tag s
  | .rillLinkFailure => Sys2Proof.Machine.execRillLinkFailure s
  | .rillPaired peer cap tick lanes => Sys2Proof.Machine.execRillPaired peer cap tick lanes s
  | .mergePair task addr x => Sys2Proof.Machine.execMergePair task addr x s
  | .mergeFlush task => Sys2Proof.Machine.execMergeFlush task s
  | .bar2Write off bytes => Sys2Proof.Machine.execBar2Write off bytes s
  | .bar2Read off n => Sys2Proof.Machine.execBar2Read off n s
  | .registerWrite x => Sys2Proof.Machine.execRegisterWrite x s
  | .ctxReqRun ctx => Sys2Proof.Machine.execCtxReqRun ctx s
  | .ctxReqStop ctx => Sys2Proof.Machine.execCtxReqStop ctx s
  | .ctxBoundSet ctx part => Sys2Proof.Machine.execCtxBoundSet ctx part s
  | .ctxBoundClear ctx => Sys2Proof.Machine.execCtxBoundClear ctx s
  | .ctxWeightWrite ctx w => Sys2Proof.Machine.execCtxWeightWrite ctx w s
  | .streamResume ctx => Sys2Proof.Machine.execStreamResume ctx s
  | .ctxSpcWrite ctx x => Sys2Proof.Machine.execCtxSpcWrite ctx x s
  | .streamLimitWrite ctx x => Sys2Proof.Machine.execStreamLimitWrite ctx x s
  | .arenaWrite ctx base size => Sys2Proof.Machine.execArenaWrite ctx base size s
  | .partCfgWrite f x => Sys2Proof.Machine.execPartCfgWrite f x s
  | .clModeWrite cl x => Sys2Proof.Machine.execClModeWrite cl x s
  | .residencyWrite ctx n x => Sys2Proof.Machine.execResidencyWrite ctx n x s
  | .hostQdone x => Sys2Proof.Machine.execHostQdone x s
  | .hostQheadWrite x => Sys2Proof.Machine.execHostQheadWrite x s
  | .hostDoorbell f => Sys2Proof.Machine.execHostDoorbell f s
  | .hostSigpendClear x => Sys2Proof.Machine.execHostSigpendClear x s
  | .hostIrqpendClear x => Sys2Proof.Machine.execHostIrqpendClear x s
  | .rillPair => Sys2Proof.Machine.execRillPair s
  | .rillUnpair => Sys2Proof.Machine.execRillUnpair s
  | .devSkidWrite x => Sys2Proof.Machine.execDevSkidWrite x s
  | .skidActive => Sys2Proof.Machine.execSkidActive s
  | .skidDisarmApply => Sys2Proof.Machine.execSkidDisarmApply s
  | .skidReplyCapture cl => Sys2Proof.Machine.execSkidReplyCapture cl s
  | .dbgCtlWrite ctx x => Sys2Proof.Machine.execDbgCtlWrite ctx x s
  | .dbgTraceBaseWrite ctx x => Sys2Proof.Machine.execDbgTraceBaseWrite ctx x s
  | .dbgResume cl => Sys2Proof.Machine.execDbgResume cl s
  | .dbgStep x => Sys2Proof.Machine.execDbgStep x s
  | .dbgStepLane x => Sys2Proof.Machine.execDbgStepLane x s
  | .dbgArmStop => Sys2Proof.Machine.execDbgArmStop s
  | .dbgDisarm => Sys2Proof.Machine.execDbgDisarm s
  | .stepComplete cl => Sys2Proof.Machine.execStepComplete cl s
  | .stepTimeout cl => Sys2Proof.Machine.execStepTimeout cl s
  | .preciseStop => Sys2Proof.Machine.execPreciseStop s
  | .sampleRecord x ctx => Sys2Proof.Machine.execSampleRecord x ctx s
  | .deviceReset => Sys2Proof.Machine.execDeviceReset s
  | .memoryTrainingDone => Sys2Proof.Machine.execMemoryTrainingDone s
  | .firmwareReady => Sys2Proof.Machine.execFirmwareReady s
  | .bringupFailure => Sys2Proof.Machine.execBringupFailure s
  | .allowRecompute a => Sys2Proof.Machine.execAllowRecompute a s
  | .thermalAlert t => Sys2Proof.Machine.execThermalAlert t s
  | .thermalHardLimit t => Sys2Proof.Machine.execThermalHardLimit t s
  | .thermalRecover t => Sys2Proof.Machine.execThermalRecover t s
  | .thermalShutdown t => Sys2Proof.Machine.execThermalShutdown t s
  | .hostReadComplete x => Sys2Proof.Machine.execHostReadComplete x s
  | .linkRetrain => Sys2Proof.Machine.execLinkRetrain s

end Sys2Proof.Machine
end

