-- ==== Sys2Proof/WellFormed.lean ====
section
/-! DEFINITION. Which instructions are well formed: the encoding conditions of spec/07 R181 that
depend on the instruction alone, and the operand rules each description states. The conditions that
need the thread (register range, clause context) are checked by the meanings. -/

namespace Sys2Proof

/-! ### Operands -/

/-- A source of 32 bits (R172): a w index is below 64. -/
def Src.ok32 : Src → Bool
  | .v _ => true
  | .w n => n.toNat < 64
  | .k _ => true
  | .long _ => true

/-- A source of 64 bits (R8, R193): a register names an even pair. -/
def Src.ok64 : Src → Bool
  | .v n => n.toNat % 2 = 0
  | .w n => n.toNat % 2 = 0 && n.toNat < 64
  | .k _ => true
  | .long _ => true

/-- A source of 32 or 64 bits, by W. -/
def Src.okW (w : Bool) (s : Src) : Bool := if w then s.ok64 else s.ok32

/-- A base address (R238): an even pair of kind 0 or 1. -/
def Src.okPair : Src → Bool
  | .v n => n.toNat % 2 = 0
  | .w n => n.toNat % 2 = 0 && n.toNat < 64
  | .k _ => false
  | .long _ => false

/-- A base pair of kind 1. -/
def Src.okWPair : Src → Bool
  | .w n => n.toNat % 2 = 0 && n.toNat < 64
  | _ => false

/-- A scratch base (R238): one register of kind 0 or 1. -/
def Src.okReg : Src → Bool
  | .v _ => true
  | .w n => n.toNat < 64
  | .k _ => false
  | .long _ => false

/-- An offset (R238): kind 2 or 3. -/
def Src.isImm : Src → Bool
  | .k _ => true
  | .long _ => true
  | _ => false

/-- Kind 3. -/
def Src.isLong : Src → Bool
  | .long _ => true
  | _ => false

/-- A source the opcode does not read (R172). -/
def Src.unused (s : Src) : Bool := s = .v 0

/-- A 32-bit source of kind 0, 1 or 2. -/
def Src.okShort (s : Src) : Bool := s.ok32 && !s.isLong

/-- Long immediates (R181): none without the immediate word, and at most one. -/
def longOk (im : Option Word) (l : List Src) : Bool :=
  (l.filter Src.isLong).length ≤ (if im.isSome then 1 else 0)

/-- Alignment of a register operand by access size (R237). -/
def Size.regOk (z : Size) (n : BitVec 8) : Bool :=
  match z with
  | .w64 => n.toNat % 2 = 0
  | .w128 => n.toNat % 4 = 0
  | _ => true

/-- Store data by size (R237). -/
def Size.dataOk (z : Size) (s : Src) : Bool :=
  match s with
  | .v n => z.regOk n
  | .w n => z.regOk n && n.toNat < 64
  | .k _ => z != .w128
  | .long _ => z != .w128

/-- The tile sizes as sizes (R244). -/
def TSize.size : TSize → Size
  | .w32 => .w32
  | .w64 => .w64
  | .w128 => .w128

/-! ### Families -/

/-- Integer and bit instructions: `n` sources, what the modifiers may be, whether the 96-bit form
exists (R193 to R198). -/
def IntOp.wf (x : IntOp) (n : Nat) (sat u wide : Bool) : Bool :=
  (sat || !x.sat) && (u || !x.u) && (wide || x.im.isNone) &&
  x.a.okW x.w && (if n ≥ 2 then x.b.okW x.w else x.b.unused) &&
  (if n ≥ 3 then x.c.okW x.w else x.c.unused) &&
  (!x.w || x.d.toNat % 2 = 0) && longOk x.im [x.a, x.b, x.c]

/-- SHL, SHR, SAR (R196) and BFE (R198): source B is read as 32 bits. -/
def IntOp.wfShift (x : IntOp) (u : Bool) : Bool :=
  !x.sat && (u || !x.u) && x.a.okW x.w && x.b.ok32 && x.c.unused &&
  (!x.w || x.d.toNat % 2 = 0) && longOk x.im [x.a, x.b, x.c]

/-- BFI (R198): source C is read as 32 bits. -/
def IntOp.wfBfi (x : IntOp) : Bool :=
  !x.sat && !x.u && x.a.okW x.w && x.b.okW x.w && x.c.ok32 &&
  (!x.w || x.d.toNat % 2 = 0) && longOk x.im [x.a, x.b, x.c]

/-- POPC and CLZ (R196): the destination is one register. -/
def IntOp.wfCount (x : IntOp) : Bool :=
  !x.sat && !x.u && x.im.isNone && x.a.okW x.w && !x.a.isLong && x.b.unused && x.c.unused

/-- FP32 instructions: `n` sources and what the modifiers may be (R201). -/
def FOp.wf (x : FOp) (n : Nat) (tz sat wide : Bool) : Bool :=
  (tz || !x.tz) && (sat || !x.sat) && (n ≥ 2 || (!x.ab && !x.nb)) && (n ≥ 3 || !x.nc) &&
  (wide || x.im.isNone) && x.a.ok32 && (if n ≥ 2 then x.b.ok32 else x.b.unused) &&
  (if n ≥ 3 then x.c.ok32 else x.c.unused) && longOk x.im [x.a, x.b, x.c]

/-- Packed instructions (R206). -/
def PkOp.wf (x : PkOp) (n : Nat) : Bool :=
  (n ≥ 3 || !x.nc) && x.a.ok32 && x.b.ok32 && (if n ≥ 3 then x.c.ok32 else x.c.unused) &&
  longOk x.im [x.a, x.b, x.c]

/-- The width of a CVT type in bits (R207). -/
def CvtType.bits : CvtType → Nat
  | .f32 => 32 | .bf16 => 16 | .f16 => 16 | .e4m3 => 8 | .e5m2 => 8 | .i8 => 8 | .n8 => 8
  | .i16 => 16 | .n16 => 16 | .i32 => 32 | .n32 => 32 | .i64 => 64 | .n64 => 64

/-- A part field within a type's parts (R207). -/
def CvtType.partOk (t : CvtType) (p : BitVec 2) : Bool :=
  match t.bits with
  | 8 => true
  | 16 => p.toNat < 2
  | _ => p = 0

/-- CVT (R207). -/
def CvtOp.wf (x : CvtOp) : Bool :=
  x.st.partOk x.sp && x.dt.partOk x.dp && x.a.okW (x.st.bits = 64) && !x.a.isLong &&
  (x.dt.bits != 64 || x.d.toNat % 2 = 0)

/-- A predicate source that COMB does not read (R209). -/
def combOk (c : Comb) (ncp : Bool) (pc : BitVec 4) : Bool := c != .none || (!ncp && pc = 0)

/-- An address and offset of the generic form (R238). -/
def genericOk (im : Option Word) (a b : Src) : Bool := a.okPair && b.isImm && longOk im [a, b]

/-- An address and offset of the scratch form (R238). -/
def scratchOk (im : Option Word) (a b : Src) : Bool := a.okReg && b.isImm && longOk im [a, b]

/-- The address of an atomic (R250). -/
def AScope.addrOk (s : AScope) (im : Option Word) (a b c : Src) : Bool :=
  (match s with
   | .lvl _ => a.okPair
   | .sp => a.okReg) && b.isImm && longOk im [a, b, c]

/-- Source C of an atomic (R250, R253). -/
def AtomOps.dataOk (x : AtomOps) : Bool :=
  match x.op with
  | .cas =>
    (match x.c with
     | .v n => n.toNat % (if x.w then 4 else 2) = 0
     | _ => false)
  | .fadd => !x.w && x.c.ok32
  | .fmax => !x.w && x.c.ok32
  | _ => x.c.okW x.w

/-- The one well-formedness predicate. Events and stream instructions of one form are always well
formed. -/
def Instr.wf : Instr → Bool
  | .nop _ => true
  | .bra _ => true
  | .brd _ => true
  | .rcv _ => true
  | .reform _ => true
  | .yield _ => true
  | .await x => x.a.okPair
  | .phase x => !x.gang || x.n.toNat < 8
  | .call x => x.d.toNat % 2 = 0
  | .ret x => x.a.okPair
  | .jmpi x => x.a.okPair
  | .exit _ => true
  | .crew _ => true
  | .uncrew _ => true
  | .trap _ => true
  | .bkpt _ => true
  | .clause x => x.fa != x.fb || x.fa.toNat ≥ 12
  | .iadd x => x.wf 2 true true true
  | .isum3 x => x.wf 3 true true true
  | .isub x => x.wf 2 true true true
  | .imul x => x.wf 2 true true true
  | .imulh x => x.wf 2 false true true
  | .imad x => x.wf 3 true true true
  | .idiv x => x.wf 2 false true true
  | .irem x => x.wf 2 false true true
  | .imin x => x.wf 2 false true true
  | .imax x => x.wf 2 false true true
  | .iabs x => x.wf 1 true false false
  | .mov x => x.wf 1 false false false
  | .movi x => !x.w || x.d.toNat % 2 = 0
  | .movi64 x => x.d.toNat % 2 = 0
  | .lea x => (if x.w then x.a.ok32 && x.b.ok64 && x.d.toNat % 2 = 0 else x.a.ok32 && x.b.ok32) &&
      longOk x.im [x.a, x.b]
  | .sel x => x.a.okW x.w && x.b.okW x.w && (!x.w || x.d.toNat % 2 = 0) && longOk x.im [x.a, x.b]
  | .shl x => x.wfShift false
  | .shr x => x.wfShift false
  | .sar x => x.wfShift false
  | .and x => x.wf 2 false false true
  | .or x => x.wf 2 false false true
  | .xor x => x.wf 2 false false true
  | .not x => x.wf 1 false false false
  | .tern x => x.a.ok32 && x.b.ok32 && x.c.ok32 && longOk x.im [x.a, x.b, x.c]
  | .popc x => x.wfCount
  | .clz x => x.wfCount
  | .brev x => x.wf 1 false false false
  | .bfe x => x.wfShift true
  | .bfi x => x.wfBfi
  | .fadd x => x.wf 2 true true true
  | .fmul x => x.wf 2 true true true
  | .ffma x => x.wf 3 true true true
  | .fdiv x => x.wf 2 true true true
  | .fmin x => x.wf 2 false false true
  | .fmax x => x.wf 2 false false true
  | .frcp x => x.wf 1 true true false
  | .frsq x => x.wf 1 false true false
  | .fsqrt x => x.wf 1 true true false
  | .fexp2 x => x.wf 1 false true false
  | .flog2 x => x.wf 1 false true false
  | .fsin x => x.wf 1 false true false
  | .fcos x => x.wf 1 false true false
  | .pkadd x => x.wf 2
  | .pkmul x => x.wf 2
  | .pkfma x => x.wf 3
  | .cvt x => x.wf
  | .icmp x => x.a.okW x.w && x.b.okW x.w && combOk x.comb x.ncp x.pc && longOk x.im [x.a, x.b]
  | .fcmp x => x.a.ok32 && x.b.ok32 && combOk x.comb x.ncp x.pc && longOk x.im [x.a, x.b]
  | .pand _ => true
  | .por _ => true
  | .pxor _ => true
  | .pnot _ => true
  | .pmov _ => true
  | .vote _ => true
  | .xlane x => x.a.okW x.w && x.b.ok32 && x.c.okW x.w && (!x.w || x.d.toNat % 2 = 0) &&
      longOk x.im [x.a, x.b, x.c]
  | .bcast x => x.wd.toNat < 64 && x.a.ok32 && longOk x.im [x.a, x.b] &&
      (match x.b with
       | .v _ => false
       | .w n => n.toNat < 64
       | _ => true)
  | .redx x => !x.ex && x.a.okShort
  | .scanx x => x.a.okShort
  | .ballot _ => true
  | .matchx x => x.a.okW x.w && !x.a.isLong
  | .ld x => x.scope = .c && genericOk x.im x.a x.b && x.sz.regOk x.d
  | .ldStrong x => genericOk x.im x.a x.b && x.sz.regOk x.d
  | .lds x => x.scope = .c && scratchOk x.im x.a x.b && x.sz.regOk x.d
  | .ldw x => x.scope = .c && x.a.okWPair && x.b.isImm && longOk x.im [x.a, x.b] && x.sz.regOk x.d &&
      x.d.toNat < 64
  | .ldt x => scratchOk x.im x.a x.b && x.sz.size.regOk x.d
  | .ldf x => scratchOk x.im x.a x.b && x.sz.regOk x.d
  | .pref x => genericOk x.im x.a x.b
  | .st x => x.a.okPair && x.b.isImm && x.sz.dataOk x.c && longOk x.im [x.a, x.b, x.c]
  | .sts x => x.scope = .c && x.a.okReg && x.b.isImm && x.sz.dataOk x.c && longOk x.im [x.a, x.b, x.c]
  | .stt x => x.a.okReg && x.b.isImm && x.sz.size.dataOk x.c && longOk x.im [x.a, x.b, x.c]
  | .sete x => scratchOk x.im x.a x.b
  | .atom x => x.scope.addrOk x.im x.a x.b x.c && x.dataOk && (!x.w || x.d.toNat % 2 = 0)
  | .red x => x.scope.addrOk x.im x.a x.b x.c && x.dataOk && x.op != .xchg && x.op != .cas && x.d = 0
  | .amaxswp x => x.scope.addrOk x.im x.a x.b (.v 0)
  | .cmt x => x.lvl != .c
  | .abt x => x.lvl = .c || x.lvl = .b || x.lvl = .g
  | .fence x => x.kind != .as || x.scope = .d || x.scope = .s
  | .bar x => !x.gang || x.n.toNat < 8
  | .arrive x => !x.gang || x.n.toNat < 8
  | .join x => x.grp != 0
  | .leave x => x.grp != 0
  | .acopy x => x.ga.okPair && x.so.okShort && x.pa.okPair
  | .acopyg x => x.sb.okPair && x.db.okPair && x.pa.okPair
  | .seal _ => true
  | .waitb x => x.im.isNone && x.a.okShort
  | .stage _ => true
  | .tiledef x => !x.inv || (x.base = 0 && x.count = 0)
  | .tiledefSt x => if x.inv then x.a.unused && x.count = 0 && x.line = 0 else x.a.okWPair
  | .tilest _ => true
  | .regclm x => 1 ≤ x.n.toNat && x.n.toNat ≤ 31
  | .regrel x => x.n.toNat ≤ 31
  | .acclm x => 1 ≤ x.n.toNat && x.n.toNat ≤ 32
  | .accrel x => x.n.toNat ≤ 32
  | .rquery x => x.sel.toNat ≤ 9
  | .rayset x => x.sel.toNat ≤ 10 && x.a.okShort
  | .rayget x => x.sel.toNat ≤ 11
  | .hitget x => x.sel.toNat ≤ 10
  | .trace x => x.a.okPair
  | .accept _ => true
  | .ignore _ => true
  | .report x => 1 ≤ x.kind.toNat && x.kind.toNat ≤ 0x7F && x.a.ok32 && x.b.ok32 && x.c.ok32 &&
      longOk x.im [x.a, x.b, x.c]
  | .key x => x.a.ok32 && longOk x.im [x.a]
  | .accum x => x.a.okPair && x.c.toNat % 4 = 0 &&
      (match x.b with
       | .k _ => true
       | _ => false)
  | .rng x => x.a.okShort && x.b.okShort && x.c.okShort
  | .mma x => x.wm = 0 && x.vs.okShort
  | .mmas x => x.wm.toNat < 64 && x.vs.okShort
  | .mld x => x.a.okWPair && x.crd.unused
  | .mst x => x.a.okWPair &&
      (match x.crd with
       | .w n => n.toNat < 64
       | .k _ => true
       | _ => false)
  | .mstSp x =>
      (match x.crd with
       | .w n => n.toNat < 64
       | .k _ => true
       | _ => false)
  | .mzero _ => true
  | .mzeroStat _ => true
  | .mcvt x =>
      (match x.crd with
       | .w n => n.toNat < 64
       | .k _ => true
       | _ => false) &&
      (match x.amax with
       | .none => true
       | .some s => s.okWPair)
  | .cbdec _ => true
  | .bscale _ => true
  | .tex2 x => x.d.toNat % 4 = 0 && x.a.okPair
  | .texg x => x.d.toNat % 4 = 0 && x.a.okPair
  | .launch x => x.a.okPair
  | .lwait x => x.a.okReg
  | .lwaitTest x => x.a.okReg
  | .prog _ => true
  | .srd x => x.d.toNat % 2 = 0
  | .swr x => x.a.okPair
  | .tret _ => true
  | .tlbinv x => x.c.okShort &&
      (match x.page with
       | .none => true
       | .some s => s.okPair)
  | .cinv x => x.m.okShort
  | .haltc x => x.m.okShort
  | .dump x => x.d.toNat % 2 = 0 && x.c.okShort && x.a.okPair && x.l.okPair
  | .ctxsave x => x.c.okShort && x.a.okPair
  | .ctxload x => x.c.okShort && x.a.okPair
  | .fqpop x => x.d.toNat % 2 = 0
  | .hostirq _ => true
  | .waiti x => x.state || x.bell || x.queue
  | .brq x => x.off.toNat % 16 = 0
  | .jmpq off => off.toNat % 16 = 0
  | .callq off => off.toNat % 16 = 0
  | _ => true

end Sys2Proof
end

