-- ==== Sys2Proof/Decode.lean ====
section
/-! DEFINITION. The decoder and the encoder. A word is an instruction exactly when it is the encoding
of a well-formed one: decoding takes the common fields apart (spec/07 R171, spec/11 R318), builds the
instruction that the opcode names, and accepts it when it is well formed and encodes to the same
fields, so every reserved bit is checked. -/

namespace Sys2Proof

/-- Why a word is no instruction (R181): unassigned opcode or a length it does not permit; a nonzero
pad word; a reserved bit or value; operands that are not well formed. Each is fault 0x01. -/
inductive DecodeError where
  | unassigned | pad | reserved | operands
deriving DecidableEq, Repr

/-! ### Thread instructions -/

/-- The fields of R171 with the immediate word and the extension, zero where the length has none. -/
structure Fields where
  len : BitVec 2
  op : BitVec 8
  gidx : BitVec 4
  gneg : Bool
  gen : Bool
  d : BitVec 8
  fa : BitVec 8
  fb : BitVec 8
  fc : BitVec 8
  fs : BitVec 2
  ka : BitVec 2
  kb : BitVec 2
  kc : BitVec 2
  md : BitVec 8
  im : Word
  ext : DWord
deriving DecidableEq, Repr

/-- The low 64 bits of an instruction, most significant field first. -/
def Fields.lo (f : Fields) : DWord :=
  f.md ++ f.kc ++ f.kb ++ f.ka ++ f.fs ++ f.fc ++ f.fb ++ f.fa ++ f.d ++ BitVec.ofBool f.gen ++
    BitVec.ofBool f.gneg ++ f.gidx ++ f.op ++ f.len

/-- The high 64 bits: the immediate word under a zero pad word, the extension, or nothing (R169). -/
def Fields.hi (f : Fields) : DWord :=
  if f.len = 1 then 0#32 ++ f.im else if f.len = 2 then f.ext else 0

/-- The fields of a slot's bits. -/
def Fields.of (lo hi : DWord) : Fields :=
  let len := lo.extractLsb' 0 2
  { len := len
    op := lo.extractLsb' 2 8
    gidx := lo.extractLsb' 10 4
    gneg := lo.getLsbD 14
    gen := lo.getLsbD 15
    d := lo.extractLsb' 16 8
    fa := lo.extractLsb' 24 8
    fb := lo.extractLsb' 32 8
    fc := lo.extractLsb' 40 8
    fs := lo.extractLsb' 48 2
    ka := lo.extractLsb' 50 2
    kb := lo.extractLsb' 52 2
    kc := lo.extractLsb' 54 2
    md := lo.extractLsb' 56 8
    im := if len = 1 then hi.extractLsb' 0 32 else 0
    ext := if len = 2 then hi else 0 }

/-- A blank instruction of an opcode and length. -/
def Fields.blank (op : BitVec 8) (len : BitVec 2) : Fields :=
  { len := len, op := op, gidx := 0, gneg := false, gen := false, d := 0, fa := 0, fb := 0, fc := 0,
    fs := 0, ka := 0, kb := 0, kc := 0, md := 0, im := 0, ext := 0 }

/-- The kind of a source (R172). -/
def Src.kind : Src → BitVec 2
  | .v _ => 0
  | .w _ => 1
  | .k _ => 2
  | .long _ => 3

/-- The field of a source (R172). -/
def Src.field : Src → BitVec 8
  | .v n => n
  | .w n => n
  | .k x => x
  | .long x => x

/-- The source a kind and a field name. -/
def Src.of (k : BitVec 2) (f : BitVec 8) : Src :=
  if k = 0 then .v f else if k = 1 then .w f else if k = 2 then .k f else .long f

/-- Sets the guard bits (R173). -/
def Fields.guard (f : Fields) : Guard → Fields
  | .always => f
  | .pred neg p => { f with gen := true, gneg := neg, gidx := p }

/-- The guard of the fields. -/
def Fields.g (f : Fields) : Guard := if f.gen then .pred f.gneg f.gidx else .always

def Fields.a (f : Fields) : Src := Src.of f.ka f.fa
def Fields.b (f : Fields) : Src := Src.of f.kb f.fb
def Fields.c (f : Fields) : Src := Src.of f.kc f.fc

def Fields.setA (f : Fields) (s : Src) : Fields := { f with ka := s.kind, fa := s.field }
def Fields.setB (f : Fields) (s : Src) : Fields := { f with kb := s.kind, fb := s.field }
def Fields.setC (f : Fields) (s : Src) : Fields := { f with kc := s.kind, fc := s.field }

/-- The immediate word as an operand: present in the 96-bit form. -/
def Fields.imm (f : Fields) : Option Word := if f.len = 1 then some f.im else none

/-- A blank 64-bit or 96-bit instruction, by whether it has an immediate word. -/
def Fields.blankIm (op : BitVec 8) : Option Word → Fields
  | none => Fields.blank op 0
  | some w => { Fields.blank op 1 with im := w }

/-- Bit i of the modifier byte. -/
def Fields.m (f : Fields) (i : Nat) : Bool := f.md.getLsbD i

/-- The low n bits of the modifier byte. -/
def Fields.ml (f : Fields) (n : Nat) : BitVec n := f.md.extractLsb' 0 n

/-- One bit. -/
abbrev bit1 (b : Bool) : BitVec 1 := BitVec.ofBool b

def FlagSel.bits : FlagSel → BitVec 2
  | .none => 0
  | .a => 1
  | .b => 2

def FlagSel.of (x : BitVec 2) : Option FlagSel :=
  if x = 0 then some .none else if x = 1 then some .a else if x = 2 then some .b else Option.none

def Level.bits : Level → BitVec 3
  | .c => 0
  | .b => 1
  | .g => 2
  | .d => 3
  | .s => 4

def Level.of (x : BitVec 3) : Option Level :=
  if x = 0 then some .c else if x = 1 then some .b else if x = 2 then some .g
  else if x = 3 then some .d else if x = 4 then some .s else none

/-- LVL of CMT (R255). -/
def Level.cmtBits : Level → BitVec 2
  | .c => 0
  | .b => 0
  | .g => 1
  | .d => 2
  | .s => 3

def Level.ofCmt (x : BitVec 2) : Level :=
  if x = 0 then .b else if x = 1 then .g else if x = 2 then .d else .s

/-- LVL of ABT (R255). -/
def Level.abtBits : Level → BitVec 2
  | .c => 0
  | .b => 1
  | .g => 2
  | .d => 3
  | .s => 3

def Level.ofAbt (x : BitVec 2) : Option Level :=
  if x = 0 then some .c else if x = 1 then some .b else if x = 2 then some .g else none

def AScope.bits : AScope → BitVec 3
  | .lvl l => l.bits
  | .sp => 5

def AScope.of (x : BitVec 3) : Option AScope :=
  if x = 5 then some .sp else (Level.of x).map .lvl

def Size.bits : Size → BitVec 3
  | .w32 => 0
  | .n8 => 1
  | .i8 => 2
  | .n16 => 3
  | .i16 => 4
  | .w64 => 5
  | .w128 => 6

def Size.of (x : BitVec 3) : Option Size :=
  if x = 0 then some .w32 else if x = 1 then some .n8 else if x = 2 then some .i8
  else if x = 3 then some .n16 else if x = 4 then some .i16 else if x = 5 then some .w64
  else if x = 6 then some .w128 else none

def TSize.bits : TSize → BitVec 2
  | .w32 => 0
  | .w64 => 1
  | .w128 => 2

def TSize.of (x : BitVec 2) : Option TSize :=
  if x = 0 then some .w32 else if x = 1 then some .w64 else if x = 2 then some .w128 else none

def Cond.bits : Cond → BitVec 3
  | .eq => 0
  | .ne => 1
  | .lt => 2
  | .le => 3
  | .gt => 4
  | .ge => 5

def Cond.of (x : BitVec 3) : Option Cond :=
  if x = 0 then some .eq else if x = 1 then some .ne else if x = 2 then some .lt
  else if x = 3 then some .le else if x = 4 then some .gt else if x = 5 then some .ge else none

def Comb.bits : Comb → BitVec 2
  | .none => 0
  | .and => 1
  | .or => 2
  | .xor => 3

def Comb.of (x : BitVec 2) : Comb :=
  if x = 0 then .none else if x = 1 then .and else if x = 2 then .or else .xor

def FCond.bits : FCond → BitVec 4
  | .eq => 0
  | .ne => 1
  | .lt => 2
  | .le => 3
  | .gt => 4
  | .ge => 5
  | .num => 6
  | .nan => 7
  | .equ => 8
  | .neu => 9
  | .ltu => 10
  | .leu => 11
  | .gtu => 12
  | .geu => 13

def FCond.of (x : BitVec 4) : Option FCond :=
  if x = 0 then some .eq else if x = 1 then some .ne else if x = 2 then some .lt
  else if x = 3 then some .le else if x = 4 then some .gt else if x = 5 then some .ge
  else if x = 6 then some .num else if x = 7 then some .nan else if x = 8 then some .equ
  else if x = 9 then some .neu else if x = 10 then some .ltu else if x = 11 then some .leu
  else if x = 12 then some .gtu else if x = 13 then some .geu else none

def WCond.bits : WCond → BitVec 3
  | .eq => 0
  | .ne => 1
  | .lt => 2
  | .ge => 3
  | .ltu => 4
  | .geu => 5

def WCond.of (x : BitVec 3) : Option WCond :=
  if x = 0 then some .eq else if x = 1 then some .ne else if x = 2 then some .lt
  else if x = 3 then some .ge else if x = 4 then some .ltu else if x = 5 then some .geu else none

def VoteMode.bits : VoteMode → BitVec 2
  | .all => 0
  | .any => 1
  | .same => 2
  | .none => 3

def VoteMode.of (x : BitVec 2) : VoteMode :=
  if x = 0 then .all else if x = 1 then .any else if x = 2 then .same else .none

def XMode.bits : XMode → BitVec 2
  | .from => 0
  | .up => 1
  | .down => 2
  | .flip => 3

def XMode.of (x : BitVec 2) : XMode :=
  if x = 0 then .from else if x = 1 then .up else if x = 2 then .down else .flip

def RedOp.bits : RedOp → BitVec 4
  | .iadd => 0
  | .imin => 1
  | .imax => 2
  | .iminu => 3
  | .imaxu => 4
  | .and => 5
  | .or => 6
  | .xor => 7
  | .fadd => 8
  | .fmin => 9
  | .fmax => 10

def RedOp.of (x : BitVec 4) : Option RedOp :=
  if x = 0 then some .iadd else if x = 1 then some .imin else if x = 2 then some .imax
  else if x = 3 then some .iminu else if x = 4 then some .imaxu else if x = 5 then some .and
  else if x = 6 then some .or else if x = 7 then some .xor else if x = 8 then some .fadd
  else if x = 9 then some .fmin else if x = 10 then some .fmax else none

def AtomOp.bits : AtomOp → BitVec 4
  | .add => 0
  | .min => 1
  | .max => 2
  | .minu => 3
  | .maxu => 4
  | .and => 5
  | .or => 6
  | .xor => 7
  | .xchg => 8
  | .cas => 9
  | .fadd => 10
  | .fmax => 11

def AtomOp.of (x : BitVec 4) : Option AtomOp :=
  if x = 0 then some .add else if x = 1 then some .min else if x = 2 then some .max
  else if x = 3 then some .minu else if x = 4 then some .maxu else if x = 5 then some .and
  else if x = 6 then some .or else if x = 7 then some .xor else if x = 8 then some .xchg
  else if x = 9 then some .cas else if x = 10 then some .fadd else if x = 11 then some .fmax else none

def FenceKind.bits : FenceKind → BitVec 2
  | .acq => 0
  | .rel => 1
  | .sc => 2
  | .as => 3

def FenceKind.of (x : BitVec 2) : FenceKind :=
  if x = 0 then .acq else if x = 1 then .rel else if x = 2 then .sc else .as

def CvtType.code : CvtType → BitVec 4
  | .f32 => 0
  | .bf16 => 1
  | .f16 => 2
  | .e4m3 => 3
  | .e5m2 => 4
  | .i8 => 5
  | .n8 => 6
  | .i16 => 7
  | .n16 => 8
  | .i32 => 9
  | .n32 => 10
  | .i64 => 11
  | .n64 => 12

def CvtType.of (x : BitVec 4) : Option CvtType :=
  if x = 0 then some .f32 else if x = 1 then some .bf16 else if x = 2 then some .f16
  else if x = 3 then some .e4m3 else if x = 4 then some .e5m2 else if x = 5 then some .i8
  else if x = 6 then some .n8 else if x = 7 then some .i16 else if x = 8 then some .n16
  else if x = 9 then some .i32 else if x = 10 then some .n32 else if x = 11 then some .i64
  else if x = 12 then some .n64 else none

def Hint.bits : Hint → BitVec 2
  | .none => 0
  | .keep => 1
  | .stream => 2

def Hint.of (x : BitVec 2) : Option Hint :=
  if x = 0 then some .none else if x = 1 then some .keep else if x = 2 then some .stream
  else Option.none

def TexMode.bits : TexMode → BitVec 2
  | .base => 0
  | .lod => 1
  | .grad => 2

def TexMode.of (x : BitVec 2) : Option TexMode :=
  if x = 0 then some .base else if x = 1 then some .lod else if x = 2 then some .grad else none

def CacheKind.bits : CacheKind → BitVec 2
  | .code => 0
  | .tree => 1
  | .data => 2

def CacheKind.of (x : BitVec 2) : Option CacheKind :=
  if x = 0 then some .code else if x = 1 then some .tree else if x = 2 then some .data else none

/-! #### From instructions to fields -/

def IntOp.fields (op : BitVec 8) (x : IntOp) : Fields :=
  { ((((Fields.blankIm op x.im).guard x.g).setA x.a).setB x.b).setC x.c with
    d := x.d, md := 0#5 ++ bit1 x.sat ++ bit1 x.u ++ bit1 x.w }

def FOp.fields (op : BitVec 8) (x : FOp) : Fields :=
  { ((((Fields.blankIm op x.im).guard x.g).setA x.a).setB x.b).setC x.c with
    d := x.d
    md := 0#1 ++ bit1 x.tz ++ bit1 x.sat ++ bit1 x.ab ++ bit1 x.aa ++ bit1 x.nc ++ bit1 x.nb ++
      bit1 x.na }

def PkOp.fields (op : BitVec 8) (x : PkOp) : Fields :=
  { ((((Fields.blankIm op x.im).guard x.g).setA x.a).setB x.b).setC x.c with
    d := x.d
    md := 0#3 ++ bit1 x.tz ++ bit1 x.nc ++ bit1 x.nb ++ bit1 x.na ++ bit1 x.bf }

def PredOp.fields (op : BitVec 8) (x : PredOp) : Fields :=
  { (Fields.blank op 0).guard x.g with
    d := 0#4 ++ x.pd, fa := 0#4 ++ x.pa, fb := 0#4 ++ x.pb
    md := 0#5 ++ bit1 x.nr ++ bit1 x.nb ++ bit1 x.na }

def NullOp.fields (op : BitVec 8) (x : NullOp) : Fields := (Fields.blank op 0).guard x.g

def TrapOp.fields (op : BitVec 8) (x : TrapOp) : Fields :=
  { (Fields.blank op 0).guard x.g with md := x.n }

def CountOp.fields (op : BitVec 8) (x : CountOp) : Fields :=
  { (Fields.blank op 0).guard x.g with md := x.n }

def JumpOp.fields (op : BitVec 8) (x : JumpOp) : Fields := ((Fields.blank op 0).guard x.g).setA x.a

def RedxOp.fields (op : BitVec 8) (x : RedxOp) : Fields :=
  { ((Fields.blank op 0).guard x.g).setA x.a with
    d := x.d, md := 0#3 ++ bit1 x.ex ++ x.op.bits }

def LdOp.fields (op : BitVec 8) (x : LdOp) : Fields :=
  { (((Fields.blankIm op x.im).guard x.g).setA x.a).setB x.b with
    d := x.d, fs := x.sel.bits, md := 0#1 ++ x.scope.bits ++ 0#1 ++ x.sz.bits }

def StOp.fields (op : BitVec 8) (x : StOp) : Fields :=
  { ((((Fields.blankIm op x.im).guard x.g).setA x.a).setB x.b).setC x.c with
    md := 0#1 ++ x.scope.bits ++ 0#1 ++ x.sz.bits }

def AtomOps.fields (op : BitVec 8) (x : AtomOps) : Fields :=
  { ((((Fields.blankIm op x.im).guard x.g).setA x.a).setB x.b).setC x.c with
    d := x.d, fs := x.sel.bits, md := x.scope.bits ++ bit1 x.w ++ x.op.bits }

def BarOp.fields (op : BitVec 8) (x : BarOp) : Fields :=
  match x.bind with
  | none => { (Fields.blank op 0).guard x.g with md := 0#2 ++ 0#1 ++ bit1 x.gang ++ x.n }
  | some g =>
    { (Fields.blank op 0).guard x.g with
      md := 0#2 ++ 1#1 ++ bit1 x.gang ++ x.n, ka := 2, fa := 0#4 ++ g }

def GroupOp.fields (op : BitVec 8) (x : GroupOp) : Fields :=
  { (Fields.blank op 0).guard x.g with md := 0#4 ++ x.grp }

def QueryOp.fields (op : BitVec 8) (x : QueryOp) : Fields :=
  { (Fields.blank op 0).guard x.g with md := x.sel, d := x.d }

def MmaOp.fields (op : BitVec 8) (x : MmaOp) : Fields :=
  { ((Fields.blank op 2).guard x.g).setC x.vs with
    d := x.acc, fa := x.va, fb := x.wm, kb := if op = 0xD1 then 1 else 0, fs := x.sel.bits
    md := bit1 x.na ++ bit1 x.nb ++ bit1 x.dis ++ bit1 x.reuse ++ x.aslot ++ 0#1
    ext := 0#3 ++ x.rstride ++ x.cstride ++ x.base ++ x.reg.col ++ x.reg.row ++ x.kc ++ x.reg.nc ++
      x.reg.mc ++ x.bslot ++ x.tile }

def MldOp.fields (op : BitVec 8) (x : MldOp) : Fields :=
  { (((Fields.blank op 2).guard x.g).setA x.a).setB x.crd with
    d := x.acc, fs := x.sel.bits
    ext := 0#19 ++ x.pitch ++ x.reg.col ++ x.reg.row ++ x.reg.nc ++ x.reg.mc ++ x.slot }

def CtxImgOp.fields (op : BitVec 8) (x : CtxImgOp) : Fields :=
  (((Fields.blank op 0).guard x.g).setA x.a).setB x.c

/-- The clause header as fields has no common shape; it is encoded apart (R174). -/
def ClauseOp.word (x : ClauseOp) : DWord :=
  0#38 ++ x.count ++ x.fb ++ x.fa ++ x.wait ++ 3#2

/-- The clause header a word holds. -/
def ClauseOp.of (w : DWord) : ClauseOp :=
  { count := w.extractLsb' 22 4, fb := w.extractLsb' 18 4, fa := w.extractLsb' 14 4,
    wait := w.extractLsb' 2 12 }

/-- The fields of a thread instruction other than a clause header; nothing for stream instructions
and events. PMOV has no inverted form: its modifier bits [57] and [58] are zero, and a set one raises 0x01 (DESIGN CHOICE,
log 130: R211 lets [58] invert and reserves it for PNOT alone, while PMOV's syntax has no such form). -/
def Instr.fields : Instr → Option Fields
  | .nop x => some (x.fields 0x00)
  | .bra x => some { (Fields.blank 0x01 1).guard x.g with im := x.off }
  | .brd x => some { Fields.blank 0x02 1 with
      fa := 0#4 ++ x.pa, md := 0#3 ++ bit1 x.neg ++ x.j, im := x.off }
  | .rcv x => some { (Fields.blank 0x03 0).guard x.g with fa := 0#3 ++ x.t, md := 0#4 ++ x.j }
  | .reform x => some (x.fields 0x04)
  | .yield x => some (x.fields 0x05)
  | .await x => some { ((Fields.blank 0x06 1).guard x.g).setA x.a with
      fc := x.c, md := 0#5 ++ x.cond.bits, im := x.off }
  | .phase x => some { (Fields.blank 0x07 1).guard x.g with im := 0#27 ++ bit1 x.gang ++ x.n }
  | .call x => some { (Fields.blank 0x08 1).guard x.g with d := x.d, im := x.off }
  | .ret x => some (x.fields 0x09)
  | .jmpi x => some (x.fields 0x0A)
  | .exit x => some (x.fields 0x0B)
  | .crew x => some (x.fields 0x0C)
  | .uncrew x => some (x.fields 0x0D)
  | .trap x => some (x.fields 0x0E)
  | .bkpt x => some (x.fields 0x0F)
  | .iadd x => some (x.fields 0x10)
  | .isum3 x => some (x.fields 0x11)
  | .isub x => some (x.fields 0x12)
  | .imul x => some (x.fields 0x13)
  | .imulh x => some (x.fields 0x14)
  | .imad x => some (x.fields 0x15)
  | .idiv x => some (x.fields 0x16)
  | .irem x => some (x.fields 0x17)
  | .imin x => some (x.fields 0x18)
  | .imax x => some (x.fields 0x19)
  | .iabs x => some (x.fields 0x1A)
  | .mov x => some (x.fields 0x1B)
  | .movi x => some { (Fields.blank 0x1C 1).guard x.g with
      d := x.d, md := 0#7 ++ bit1 x.w, im := x.imm }
  | .movi64 x => some { (Fields.blank 0x1C 2).guard x.g with d := x.d, md := 1, ext := x.imm }
  | .lea x => some { (((Fields.blankIm 0x1D x.im).guard x.g).setA x.a).setB x.b with
      d := x.d, md := x.sh ++ 0#2 ++ bit1 x.u ++ bit1 x.w }
  | .sel x => some { (((Fields.blankIm 0x1E x.im).guard x.g).setA x.a).setB x.b with
      d := x.d, fc := 0#4 ++ x.pc, md := 0#4 ++ bit1 x.pn ++ 0#2 ++ bit1 x.w }
  | .shl x => some (x.fields 0x20)
  | .shr x => some (x.fields 0x21)
  | .sar x => some (x.fields 0x22)
  | .and x => some (x.fields 0x23)
  | .or x => some (x.fields 0x24)
  | .xor x => some (x.fields 0x25)
  | .not x => some (x.fields 0x26)
  | .tern x => some { ((((Fields.blankIm 0x27 x.im).guard x.g).setA x.a).setB x.b).setC x.c with
      d := x.d, md := x.tt }
  | .popc x => some (x.fields 0x28)
  | .clz x => some (x.fields 0x29)
  | .brev x => some (x.fields 0x2A)
  | .bfe x => some (x.fields 0x2B)
  | .bfi x => some (x.fields 0x2C)
  | .fadd x => some (x.fields 0x30)
  | .fmul x => some (x.fields 0x31)
  | .ffma x => some (x.fields 0x32)
  | .fmin x => some (x.fields 0x33)
  | .fmax x => some (x.fields 0x34)
  | .frcp x => some (x.fields 0x35)
  | .frsq x => some (x.fields 0x36)
  | .fsqrt x => some (x.fields 0x37)
  | .fexp2 x => some (x.fields 0x38)
  | .flog2 x => some (x.fields 0x39)
  | .fsin x => some (x.fields 0x3A)
  | .fcos x => some (x.fields 0x3B)
  | .fdiv x => some (x.fields 0x3C)
  | .pkadd x => some (x.fields 0x40)
  | .pkmul x => some (x.fields 0x41)
  | .pkfma x => some (x.fields 0x42)
  | .cvt x => some { ((Fields.blank 0x43 0).guard x.g).setA x.a with
      d := x.d, fb := 0#2 ++ x.dp ++ x.sp ++ 0#1 ++ bit1 x.tz, md := x.st.code ++ x.dt.code }
  | .icmp x => some { (((Fields.blankIm 0x50 x.im).guard x.g).setA x.a).setB x.b with
      d := 0#4 ++ x.pd, fc := 0#4 ++ x.pc
      md := bit1 x.ncp ++ x.comb.bits ++ x.cond.bits ++ bit1 x.u ++ bit1 x.w }
  | .fcmp x => some { (((Fields.blankIm 0x51 x.im).guard x.g).setA x.a).setB x.b with
      d := 0#4 ++ x.pd, fc := 0#4 ++ x.pc
      md := bit1 x.ncp ++ x.comb.bits ++ 0#1 ++ x.cond.bits }
  | .pand x => some (x.fields 0x52)
  | .por x => some (x.fields 0x53)
  | .pxor x => some (x.fields 0x54)
  | .pnot x => some { (Fields.blank 0x55 0).guard x.g with d := 0#4 ++ x.pd, fa := 0#4 ++ x.pa }
  | .pmov x =>
    (match x.src with
     | .pred neg p => some { (Fields.blank 0x56 0).guard x.g with
         d := 0#4 ++ x.pd, fa := 0#4 ++ p, md := 0#7 ++ bit1 neg }
     | .const k => some { (Fields.blank 0x56 0).guard x.g with
         d := 0#4 ++ x.pd, ka := 2, fa := k })
  | .vote x => some { (Fields.blank 0x57 0).guard x.g with
      d := 0#4 ++ x.pd, fa := 0#4 ++ x.pa, md := 0#5 ++ bit1 x.na ++ x.mode.bits }
  | .xlane x => some { ((((Fields.blankIm 0x60 x.im).guard x.g).setA x.a).setB x.b).setC x.c with
      d := x.d, md := 0#5 ++ bit1 x.w ++ x.mode.bits }
  | .bcast x => some { (((Fields.blankIm 0x61 x.im).guard x.g).setA x.a).setB x.b with d := x.wd }
  | .redx x => some (x.fields 0x62)
  | .scanx x => some (x.fields 0x63)
  | .ballot x => some { (Fields.blank 0x64 0).guard x.g with
      d := x.d, fa := 0#4 ++ x.pa, md := 0#7 ++ bit1 x.na }
  | .matchx x => some { ((Fields.blank 0x65 0).guard x.g).setA x.a with
      d := x.d, md := 0#7 ++ bit1 x.w }
  | .ld x => some (x.fields 0x70)
  | .ldStrong x => some (x.fields 0x71)
  | .lds x => some (x.fields 0x72)
  | .ldw x => some (x.fields 0x73)
  | .ldt x => some { (((Fields.blankIm 0x74 x.im).guard x.g).setA x.a).setB x.b with
      d := x.d, fs := x.sel.bits, md := x.tile ++ x.sz.bits }
  | .ldf x => some { (((Fields.blankIm 0x75 x.im).guard x.g).setA x.a).setB x.b with
      d := x.d, fs := x.sel.bits, md := x.pd ++ 0#1 ++ x.sz.bits }
  | .pref x => some { (((Fields.blankIm 0x76 x.im).guard x.g).setA x.a).setB x.b with
      md := 0#1 ++ (if x.toD then 3#3 else 2#3) ++ 0#4 }
  | .st x => some (x.fields 0x80)
  | .sts x => some (x.fields 0x81)
  | .stt x => some { ((((Fields.blankIm 0x82 x.im).guard x.g).setA x.a).setB x.b).setC x.c with
      md := x.tile ++ x.sz.bits }
  | .sete x => some ((((Fields.blankIm 0x83 x.im).guard x.g).setA x.a).setB x.b)
  | .atom x => some (x.fields 0x90)
  | .red x => some (x.fields 0x91)
  | .amaxswp x => some { (((Fields.blankIm 0x92 x.im).guard x.g).setA x.a).setB x.b with
      d := x.d, fs := x.sel.bits, md := x.scope.bits ++ 0#5 }
  | .cmt x =>
    (match x.chk with
     | none => some { (Fields.blank 0xA0 0).guard x.g with md := 0#5 ++ 0#1 ++ x.lvl.cmtBits }
     | some p => some { (Fields.blank 0xA0 0).guard x.g with
         md := 0#5 ++ 1#1 ++ x.lvl.cmtBits, d := 0#4 ++ p })
  | .abt x => some { (Fields.blank 0xA1 0).guard x.g with md := 0#6 ++ x.lvl.abtBits }
  | .fence x => some { (Fields.blank 0xA2 0).guard x.g with
      md := 0#3 ++ x.scope.bits ++ x.kind.bits }
  | .bar x => some (x.fields 0xA3)
  | .arrive x => some (x.fields 0xA4)
  | .join x => some (x.fields 0xA5)
  | .leave x => some (x.fields 0xA6)
  | .acopy x => some { ((((Fields.blank 0xB0 2).guard x.g).setA x.ga).setB x.so).setC x.pa with
      md := 0#1 ++ bit1 x.out ++ x.tile, ext := 0#62 ++ x.hint.bits }
  | .acopyg x => some { ((((Fields.blank 0xB1 2).guard x.g).setA x.sb).setB x.db).setC x.pa with
      md := 0#7 ++ bit1 x.scatter, ext := 0#62 ++ x.hint.bits }
  | .seal x => some { (Fields.blank 0xB2 0).guard x.g with d := x.d }
  | .waitb x => some (((Fields.blankIm 0xB3 x.im).guard x.g).setA x.a)
  | .stage x => some (x.fields 0xB4)
  | .tiledef x => some { (Fields.blank 0xB5 1).guard x.g with
      md := 0#1 ++ bit1 x.inv ++ x.tile, im := 0#6 ++ x.count ++ x.base }
  | .tiledefSt x => some { ((Fields.blank 0xB5 2).guard x.g).setA x.a with
      md := 0#4 ++ bit1 x.inv ++ x.entry, ext := 0#38 ++ x.line ++ x.count }
  | .tilest x => some { (Fields.blank 0xB6 0).guard x.g with md := 0#1 ++ bit1 x.ready ++ x.tile }
  | .regclm x => some (x.fields 0xB7)
  | .regrel x => some (x.fields 0xB8)
  | .acclm x => some (x.fields 0xB9)
  | .accrel x => some (x.fields 0xBA)
  | .rquery x => some (x.fields 0xBB)
  | .rayset x => some { ((Fields.blank 0xC0 0).guard x.g).setA x.a with md := x.sel }
  | .rayget x => some (x.fields 0xC1)
  | .hitget x => some (x.fields 0xC2)
  | .trace x => some { ((Fields.blank 0xC3 2).guard x.g).setA x.a with
      ext := 0#35 ++ bit1 x.flags.isSome ++ x.flags.getD 0 ++ bit1 x.mask.isSome ++ x.mask.getD 0 ++
        bit1 x.sel.isSome ++ x.sel.getD 0 }
  | .accept x => some (x.fields 0xC4)
  | .ignore x => some (x.fields 0xC5)
  | .report x => some { ((((Fields.blankIm 0xC6 x.im).guard x.g).setA x.a).setB x.b).setC x.c with
      md := x.kind }
  | .key x => some (((Fields.blankIm 0xC7 x.im).guard x.g).setA x.a)
  | .accum x => some { (((Fields.blank 0xC8 0).guard x.g).setA x.a).setB x.b with fc := x.c }
  | .rng x => some { ((((Fields.blank 0xC9 0).guard x.g).setA x.a).setB x.b).setC x.c with
      d := x.d, md := bit1 x.f ++ x.dim }
  | .mma x => some (x.fields 0xD0)
  | .mmas x => some (x.fields 0xD1)
  | .mld x => some (x.fields 0xD2)
  | .mst x => some (x.fields 0xD3)
  | .mstSp x => some { ((Fields.blank 0xD3 2).guard x.g).setB x.crd with
      d := x.acc, fs := x.sel.bits, md := 1#1 ++ 0#1 ++ x.tile
      ext := 0#19 ++ x.pitch ++ x.reg.col ++ x.reg.row ++ x.reg.nc ++ x.reg.mc ++ x.slot }
  | .mzero x => some { (Fields.blank 0xD4 0).guard x.g with d := x.d }
  | .mzeroStat x => some { (Fields.blank 0xD4 0).guard x.g with d := x.d, md := 0x80 }
  | .mcvt x =>
    (match x.amax with
     | none => some { ((Fields.blank 0xD5 1).guard x.g).setB x.crd with
         d := x.d, fs := x.sel.bits, md := 0#1 ++ x.tile
         im := 0#18 ++ 0#1 ++ x.slot ++ x.reg.col ++ x.reg.row ++ x.reg.nc ++ x.reg.mc }
     | some s => some { (((Fields.blank 0xD5 1).guard x.g).setB x.crd).setC s with
         d := x.d, fs := x.sel.bits, md := 0#1 ++ x.tile
         im := 0#18 ++ 1#1 ++ x.slot ++ x.reg.col ++ x.reg.row ++ x.reg.nc ++ x.reg.mc })
  | .cbdec x => some { (Fields.blank 0xD6 1).guard x.g with
      d := x.d, fa := x.a, fb := x.b, fs := x.sel.bits, im := 0#18 ++ x.n ++ x.dslot ++ x.sslot }
  | .bscale x => some { (Fields.blank 0xD7 1).guard x.g with
      fa := x.a, fs := x.sel.bits, md := bit1 x.col ++ x.tile
      im := 0#22 ++ x.reg.col ++ x.reg.row ++ x.reg.nc ++ x.reg.mc }
  | .tex2 x => some { ((Fields.blank 0xE0 1).guard x.g).setA x.a with
      d := x.d, fc := x.c, fs := x.sel.bits, md := 0#6 ++ x.mode.bits, im := x.bias }
  | .texg x => some { ((Fields.blank 0xE1 1).guard x.g).setA x.a with
      d := x.d, fc := x.c, fs := x.sel.bits, md := 0#6 ++ x.comp, im := 0#28 ++ x.level }
  | .launch x => some { ((Fields.blank 0xE2 0).guard x.g).setA x.a with
      d := x.d, fc := 0#4 ++ x.pd }
  | .lwait x => some (((Fields.blank 0xE3 0).guard x.g).setA x.a)
  | .lwaitTest x => some { ((Fields.blank 0xE3 0).guard x.g).setA x.a with
      d := 0#4 ++ x.pd, md := 1 }
  | .prog x => some { (Fields.blank 0xE4 0).guard x.g with md := 0#4 ++ x.n }
  | .srd x => some { (Fields.blank 0xF0 1).guard x.g with d := x.d, im := 0#14 ++ x.i ++ x.n }
  | .swr x => some { ((Fields.blank 0xF1 1).guard x.g).setA x.a with im := 0#14 ++ x.i ++ x.n }
  | .tret x => some (x.fields 0xF2)
  | .tlbinv x =>
    (match x.page with
     | none => some (((Fields.blank 0xF3 0).guard x.g).setB x.c)
     | some s => some { (((Fields.blank 0xF3 0).guard x.g).setB x.c).setA s with md := 1 })
  | .cinv x => some { ((Fields.blank 0xF4 0).guard x.g).setB x.m with md := 0#6 ++ x.kind.bits }
  | .haltc x => some { ((Fields.blank 0xF5 0).guard x.g).setB x.m with md := 0#7 ++ bit1 x.resume }
  | .dump x => some { ((((Fields.blank 0xF6 0).guard x.g).setA x.a).setB x.c).setC x.l with d := x.d }
  | .ctxsave x => some (x.fields 0xF7)
  | .ctxload x => some (x.fields 0xF8)
  | .fqpop x => some { (Fields.blank 0xF9 0).guard x.g with d := x.d, fc := 0#4 ++ x.pd }
  | .hostirq x => some { (Fields.blank 0xFA 0).guard x.g with md := 0#3 ++ x.n }
  | .waiti x => some { (Fields.blank 0xFB 0).guard x.g with
      md := 0#5 ++ bit1 x.state ++ bit1 x.bell ++ bit1 x.queue }
  | _ => none

/-! #### From fields to instructions -/

def Fields.int (f : Fields) : IntOp :=
  { g := f.g, im := f.imm, sat := f.m 2, u := f.m 1, w := f.m 0, d := f.d, a := f.a, b := f.b,
    c := f.c }

def Fields.fp (f : Fields) : FOp :=
  { g := f.g, im := f.imm, tz := f.m 6, sat := f.m 5, ab := f.m 4, aa := f.m 3, nc := f.m 2,
    nb := f.m 1, na := f.m 0, d := f.d, a := f.a, b := f.b, c := f.c }

def Fields.pk (f : Fields) : PkOp :=
  { g := f.g, im := f.imm, tz := f.m 4, nc := f.m 3, nb := f.m 2, na := f.m 1, bf := f.m 0,
    d := f.d, a := f.a, b := f.b, c := f.c }

/-- The predicate index in a register field. -/
def pidx (x : BitVec 8) : BitVec 4 := x.extractLsb' 0 4

def Fields.predOp (f : Fields) : PredOp :=
  { g := f.g, na := f.m 0, nb := f.m 1, nr := f.m 2, pd := pidx f.d, pa := pidx f.fa,
    pb := pidx f.fb }

def Fields.null (f : Fields) : NullOp := { g := f.g }
def Fields.trapOp (f : Fields) : TrapOp := { g := f.g, n := f.md }
def Fields.countOp (f : Fields) : CountOp := { g := f.g, n := f.md }
def Fields.jump (f : Fields) : JumpOp := { g := f.g, a := f.a }

def Fields.redxOp (f : Fields) : Option RedxOp :=
  (RedOp.of (f.ml 4)).map fun op => { g := f.g, op := op, ex := f.m 4, d := f.d, a := f.a }

def Fields.ldOp (f : Fields) : Option LdOp :=
  match FlagSel.of f.fs, Level.of (f.md.extractLsb' 4 3), Size.of (f.ml 3) with
  | some s, some l, some z =>
    some { g := f.g, im := f.imm, sel := s, scope := l, sz := z, d := f.d, a := f.a, b := f.b }
  | _, _, _ => none

def Fields.stOp (f : Fields) : Option StOp :=
  match Level.of (f.md.extractLsb' 4 3), Size.of (f.ml 3) with
  | some l, some z =>
    some { g := f.g, im := f.imm, scope := l, sz := z, a := f.a, b := f.b, c := f.c }
  | _, _ => none

def Fields.atomOps (f : Fields) : Option AtomOps :=
  match FlagSel.of f.fs, AScope.of (f.md.extractLsb' 5 3), AtomOp.of (f.ml 4) with
  | some s, some l, some o =>
    some { g := f.g, im := f.imm, sel := s, scope := l, w := f.m 4, op := o, d := f.d, a := f.a,
           b := f.b, c := f.c }
  | _, _, _ => none

def Fields.barOp (f : Fields) : BarOp :=
  { g := f.g, gang := f.m 4, n := f.ml 4, bind := if f.m 5 then some (pidx f.fa) else none }

def Fields.groupOp (f : Fields) : GroupOp := { g := f.g, grp := f.ml 4 }
def Fields.query (f : Fields) : QueryOp := { g := f.g, sel := f.md, d := f.d }

/-- The region in the bits of a shape record. -/
def regionOf (col row : BitVec 3) (nc mc : BitVec 2) : Region :=
  { mc := mc, nc := nc, row := row, col := col }

def Fields.mmaOp (f : Fields) : Option MmaOp :=
  (FlagSel.of f.fs).map fun s =>
    { g := f.g, sel := s, na := f.m 7, nb := f.m 6, dis := f.m 5, reuse := f.m 4,
      aslot := f.md.extractLsb' 1 3, va := f.fa, vs := f.c, wm := f.fb, acc := f.d,
      rstride := f.ext.extractLsb' 45 16, cstride := f.ext.extractLsb' 37 8,
      base := f.ext.extractLsb' 24 13,
      reg := regionOf (f.ext.extractLsb' 21 3) (f.ext.extractLsb' 18 3) (f.ext.extractLsb' 11 2)
        (f.ext.extractLsb' 9 2),
      kc := f.ext.extractLsb' 13 5, bslot := f.ext.extractLsb' 6 3, tile := f.ext.extractLsb' 0 6 }

def Fields.mldOp (f : Fields) : Option MldOp :=
  (FlagSel.of f.fs).map fun s =>
    { g := f.g, sel := s, acc := f.d, a := f.a, crd := f.b,
      reg := regionOf (f.ext.extractLsb' 10 3) (f.ext.extractLsb' 7 3) (f.ext.extractLsb' 5 2)
        (f.ext.extractLsb' 3 2),
      slot := f.ext.extractLsb' 0 3, pitch := f.ext.extractLsb' 13 32 }

/-- The region in the immediate word of MCVT and BSCALE (R308). -/
def Fields.imRegion (f : Fields) : Region :=
  regionOf (f.im.extractLsb' 7 3) (f.im.extractLsb' 4 3) (f.im.extractLsb' 2 2)
    (f.im.extractLsb' 0 2)

def Fields.ctxImg (f : Fields) : CtxImgOp := { g := f.g, c := f.b, a := f.a }

/-- Opcodes 0x00 to 0x0F. -/
def Fields.build0 (f : Fields) : Option Instr :=
  match f.op with
  | 0x00#8 => some (.nop f.null)
  | 0x01#8 => some (.bra { g := f.g, off := f.im })
  | 0x02#8 => some (.brd { pa := pidx f.fa, neg := f.m 4, off := f.im, j := f.ml 4 })
  | 0x03#8 => some (.rcv { g := f.g, j := f.ml 4, t := f.fa.extractLsb' 0 5 })
  | 0x04#8 => some (.reform f.null)
  | 0x05#8 => some (.yield f.null)
  | 0x06#8 => (WCond.of (f.ml 3)).map fun c =>
      .await { g := f.g, cond := c, a := f.a, off := f.im, c := f.fc }
  | 0x07#8 => some (.phase { g := f.g, gang := f.im.getLsbD 4, n := f.im.extractLsb' 0 4 })
  | 0x08#8 => some (.call { g := f.g, d := f.d, off := f.im })
  | 0x09#8 => some (.ret f.jump)
  | 0x0A#8 => some (.jmpi f.jump)
  | 0x0B#8 => some (.exit f.null)
  | 0x0C#8 => some (.crew f.null)
  | 0x0D#8 => some (.uncrew f.null)
  | 0x0E#8 => some (.trap f.trapOp)
  | 0x0F#8 => some (.bkpt f.trapOp)
  | _ => none

/-- Opcodes 0x10 to 0x1E. -/
def Fields.build1 (f : Fields) : Option Instr :=
  match f.op with
  | 0x10#8 => some (.iadd f.int)
  | 0x11#8 => some (.isum3 f.int)
  | 0x12#8 => some (.isub f.int)
  | 0x13#8 => some (.imul f.int)
  | 0x14#8 => some (.imulh f.int)
  | 0x15#8 => some (.imad f.int)
  | 0x16#8 => some (.idiv f.int)
  | 0x17#8 => some (.irem f.int)
  | 0x18#8 => some (.imin f.int)
  | 0x19#8 => some (.imax f.int)
  | 0x1A#8 => some (.iabs f.int)
  | 0x1B#8 => some (.mov f.int)
  | 0x1C#8 =>
    if f.len = 2 then some (.movi64 { g := f.g, d := f.d, imm := f.ext })
    else some (.movi { g := f.g, w := f.m 0, d := f.d, imm := f.im })
  | 0x1D#8 => some (.lea {
      g := f.g, im := f.imm, sh := f.md.extractLsb' 4 4, u := f.m 1,
      w := f.m 0, d := f.d, a := f.a, b := f.b })
  | 0x1E#8 => some (.sel {
      g := f.g, im := f.imm, pn := f.m 3, w := f.m 0, d := f.d, a := f.a,
      b := f.b, pc := pidx f.fc })
  | _ => none

/-- Opcodes 0x20 to 0x2C. -/
def Fields.build2 (f : Fields) : Option Instr :=
  match f.op with
  | 0x20#8 => some (.shl f.int)
  | 0x21#8 => some (.shr f.int)
  | 0x22#8 => some (.sar f.int)
  | 0x23#8 => some (.and f.int)
  | 0x24#8 => some (.or f.int)
  | 0x25#8 => some (.xor f.int)
  | 0x26#8 => some (.not f.int)
  | 0x27#8 => some (.tern { g := f.g, im := f.imm, tt := f.md, d := f.d, a := f.a, b := f.b, c := f.c })
  | 0x28#8 => some (.popc f.int)
  | 0x29#8 => some (.clz f.int)
  | 0x2A#8 => some (.brev f.int)
  | 0x2B#8 => some (.bfe f.int)
  | 0x2C#8 => some (.bfi f.int)
  | _ => none

/-- Opcodes 0x30 to 0x3C. -/
def Fields.build3 (f : Fields) : Option Instr :=
  match f.op with
  | 0x30#8 => some (.fadd f.fp)
  | 0x31#8 => some (.fmul f.fp)
  | 0x32#8 => some (.ffma f.fp)
  | 0x33#8 => some (.fmin f.fp)
  | 0x34#8 => some (.fmax f.fp)
  | 0x35#8 => some (.frcp f.fp)
  | 0x36#8 => some (.frsq f.fp)
  | 0x37#8 => some (.fsqrt f.fp)
  | 0x38#8 => some (.fexp2 f.fp)
  | 0x39#8 => some (.flog2 f.fp)
  | 0x3A#8 => some (.fsin f.fp)
  | 0x3B#8 => some (.fcos f.fp)
  | 0x3C#8 => some (.fdiv f.fp)
  | _ => none

/-- CVT's control bits (R207). -/
def Fields.cvtOp (f : Fields) : Option CvtOp :=
  match CvtType.of (f.md.extractLsb' 4 4), CvtType.of (f.ml 4) with
  | some st, some dt =>
    some { g := f.g, st := st, dt := dt, dp := f.fb.extractLsb' 4 2, sp := f.fb.extractLsb' 2 2,
           tz := f.fb.getLsbD 0, d := f.d, a := f.a }
  | _, _ => none

/-- Opcodes 0x40 to 0x43. -/
def Fields.build4 (f : Fields) : Option Instr :=
  match f.op with
  | 0x40#8 => some (.pkadd f.pk)
  | 0x41#8 => some (.pkmul f.pk)
  | 0x42#8 => some (.pkfma f.pk)
  | 0x43#8 => f.cvtOp.map .cvt
  | _ => none

/-- Opcodes 0x50 to 0x57. -/
def Fields.build5 (f : Fields) : Option Instr :=
  match f.op with
  | 0x50#8 => (Cond.of (f.md.extractLsb' 2 3)).map fun c =>
      .icmp { g := f.g, im := f.imm, ncp := f.m 7, comb := Comb.of (f.md.extractLsb' 5 2), cond := c,
              u := f.m 1, w := f.m 0, pd := pidx f.d, a := f.a, b := f.b, pc := pidx f.fc }
  | 0x51#8 => (FCond.of (f.ml 4)).map fun c =>
      .fcmp { g := f.g, im := f.imm, ncp := f.m 7, comb := Comb.of (f.md.extractLsb' 5 2), cond := c,
              pd := pidx f.d, a := f.a, b := f.b, pc := pidx f.fc }
  | 0x52#8 => some (.pand f.predOp)
  | 0x53#8 => some (.por f.predOp)
  | 0x54#8 => some (.pxor f.predOp)
  | 0x55#8 => some (.pnot { g := f.g, pd := pidx f.d, pa := pidx f.fa })
  | 0x56#8 =>
    if f.ka = 2 then some (.pmov { g := f.g, pd := pidx f.d, src := .const f.fa })
    else some (.pmov { g := f.g, pd := pidx f.d, src := .pred (f.m 0) (pidx f.fa) })
  | 0x57#8 => some (.vote {
      g := f.g, mode := VoteMode.of (f.ml 2), na := f.m 2, pd := pidx f.d,
      pa := pidx f.fa })
  | _ => none

/-- Opcodes 0x60 to 0x65. -/
def Fields.build6 (f : Fields) : Option Instr :=
  match f.op with
  | 0x60#8 => some (.xlane {
      g := f.g, im := f.imm, w := f.m 2, mode := XMode.of (f.ml 2), d := f.d,
      a := f.a, b := f.b, c := f.c })
  | 0x61#8 => some (.bcast { g := f.g, im := f.imm, wd := f.d, a := f.a, b := f.b })
  | 0x62#8 => f.redxOp.map .redx
  | 0x63#8 => f.redxOp.map .scanx
  | 0x64#8 => some (.ballot { g := f.g, na := f.m 0, d := f.d, pa := pidx f.fa })
  | 0x65#8 => some (.matchx { g := f.g, w := f.m 0, d := f.d, a := f.a })
  | _ => none

/-- Opcodes 0x70 to 0x76. -/
def Fields.build7 (f : Fields) : Option Instr :=
  match f.op with
  | 0x70#8 => f.ldOp.map .ld
  | 0x71#8 => f.ldOp.map .ldStrong
  | 0x72#8 => f.ldOp.map .lds
  | 0x73#8 => f.ldOp.map .ldw
  | 0x74#8 =>
    (match FlagSel.of f.fs, TSize.of (f.ml 2) with
     | some s, some z => some (.ldt {
         g := f.g, im := f.imm, sel := s, tile := f.md.extractLsb' 2 6,
         sz := z, d := f.d, a := f.a, b := f.b })
     | _, _ => none)
  | 0x75#8 =>
    (match FlagSel.of f.fs, Size.of (f.ml 3) with
     | some s, some z => some (.ldf {
         g := f.g, im := f.imm, sel := s, pd := f.md.extractLsb' 4 4,
         sz := z, d := f.d, a := f.a, b := f.b })
     | _, _ => none)
  | 0x76#8 => some (.pref { g := f.g, im := f.imm, toD := f.m 4, a := f.a, b := f.b })
  | _ => none

/-- Opcodes 0x80 to 0x83. -/
def Fields.build8 (f : Fields) : Option Instr :=
  match f.op with
  | 0x80#8 => f.stOp.map .st
  | 0x81#8 => f.stOp.map .sts
  | 0x82#8 => (TSize.of (f.ml 2)).map fun z =>
      .stt { g := f.g, im := f.imm, tile := f.md.extractLsb' 2 6, sz := z, a := f.a, b := f.b,
             c := f.c }
  | 0x83#8 => some (.sete { g := f.g, im := f.imm, a := f.a, b := f.b })
  | _ => none

/-- Opcodes 0x90 to 0x92. -/
def Fields.build9 (f : Fields) : Option Instr :=
  match f.op with
  | 0x90#8 => f.atomOps.map .atom
  | 0x91#8 => f.atomOps.map .red
  | 0x92#8 =>
    (match FlagSel.of f.fs, AScope.of (f.md.extractLsb' 5 3) with
     | some s, some l => some (.amaxswp {
         g := f.g, im := f.imm, sel := s, scope := l, d := f.d,
         a := f.a, b := f.b })
     | _, _ => none)
  | _ => none

/-- Opcodes 0xA0 to 0xA6. -/
def Fields.buildA (f : Fields) : Option Instr :=
  match f.op with
  | 0xA0#8 => some (.cmt {
      g := f.g, lvl := Level.ofCmt (f.ml 2),
      chk := if f.m 2 then some (pidx f.d) else none })
  | 0xA1#8 => (Level.ofAbt (f.ml 2)).map fun l => .abt { g := f.g, lvl := l }
  | 0xA2#8 => (Level.of (f.md.extractLsb' 2 3)).map fun l =>
      .fence { g := f.g, kind := FenceKind.of (f.ml 2), scope := l }
  | 0xA3#8 => some (.bar f.barOp)
  | 0xA4#8 => some (.arrive f.barOp)
  | 0xA5#8 => some (.join f.groupOp)
  | 0xA6#8 => some (.leave f.groupOp)
  | _ => none

/-- Opcodes 0xB0 to 0xBB. -/
def Fields.buildB (f : Fields) : Option Instr :=
  match f.op with
  | 0xB0#8 => (Hint.of (f.ext.extractLsb' 0 2)).map fun h =>
      .acopy { g := f.g, out := f.m 6, tile := f.ml 6, ga := f.a, so := f.b, pa := f.c, hint := h }
  | 0xB1#8 => (Hint.of (f.ext.extractLsb' 0 2)).map fun h =>
      .acopyg { g := f.g, scatter := f.m 0, sb := f.a, db := f.b, pa := f.c, hint := h }
  | 0xB2#8 => some (.seal { g := f.g, d := f.d })
  | 0xB3#8 => some (.waitb { g := f.g, im := f.imm, a := f.a })
  | 0xB4#8 => some (.stage f.countOp)
  | 0xB5#8 =>
    if f.len = 2 then some (.tiledefSt {
      g := f.g, inv := f.m 3, entry := f.ml 3, a := f.a,
      count := f.ext.extractLsb' 0 13, line := f.ext.extractLsb' 13 13 })
    else some (.tiledef {
      g := f.g, inv := f.m 6, tile := f.ml 6, base := f.im.extractLsb' 0 13,
      count := f.im.extractLsb' 13 13 })
  | 0xB6#8 => some (.tilest { g := f.g, ready := f.m 6, tile := f.ml 6 })
  | 0xB7#8 => some (.regclm f.countOp)
  | 0xB8#8 => some (.regrel f.countOp)
  | 0xB9#8 => some (.acclm f.countOp)
  | 0xBA#8 => some (.accrel f.countOp)
  | 0xBB#8 => some (.rquery f.query)
  | _ => none

/-- Opcodes 0xC0 to 0xC9. -/
def Fields.buildC (f : Fields) : Option Instr :=
  match f.op with
  | 0xC0#8 => some (.rayset { g := f.g, sel := f.md, a := f.a })
  | 0xC1#8 => some (.rayget f.query)
  | 0xC2#8 => some (.hitget f.query)
  | 0xC3#8 => some (.trace {
      g := f.g, a := f.a,
      flags := if f.ext.getLsbD 28 then some (f.ext.extractLsb' 18 10) else none
      mask := if f.ext.getLsbD 17 then some (f.ext.extractLsb' 9 8) else none
      sel := if f.ext.getLsbD 8 then some (f.ext.extractLsb' 0 8) else none })
  | 0xC4#8 => some (.accept f.null)
  | 0xC5#8 => some (.ignore f.null)
  | 0xC6#8 => some (.report { g := f.g, im := f.imm, kind := f.md, a := f.a, b := f.b, c := f.c })
  | 0xC7#8 => some (.key { g := f.g, im := f.imm, a := f.a })
  | 0xC8#8 => some (.accum { g := f.g, a := f.a, b := f.b, c := f.fc })
  | 0xC9#8 => some (.rng {
      g := f.g, f := f.m 7, dim := f.ml 7, d := f.d, a := f.a, b := f.b,
      c := f.c })
  | _ => none

/-- Opcodes 0xD0 to 0xD7. -/
def Fields.buildD (f : Fields) : Option Instr :=
  match f.op with
  | 0xD0#8 => f.mmaOp.map .mma
  | 0xD1#8 => f.mmaOp.map .mmas
  | 0xD2#8 => f.mldOp.map .mld
  | 0xD3#8 =>
    if f.m 7 then
      (FlagSel.of f.fs).map fun s =>
        .mstSp { g := f.g, sel := s, acc := f.d, tile := f.ml 6, crd := f.b,
                 reg := regionOf (f.ext.extractLsb' 10 3) (f.ext.extractLsb' 7 3)
                   (f.ext.extractLsb' 5 2) (f.ext.extractLsb' 3 2),
                 slot := f.ext.extractLsb' 0 3, pitch := f.ext.extractLsb' 13 32 }
    else f.mldOp.map .mst
  | 0xD4#8 =>
    if f.m 7 then some (.mzeroStat { g := f.g, d := f.d }) else some (.mzero { g := f.g, d := f.d })
  | 0xD5#8 => (FlagSel.of f.fs).map fun s =>
      .mcvt { g := f.g, sel := s, tile := f.ml 7, d := f.d, crd := f.b,
              amax := if f.im.getLsbD 13 then some f.c else none,
              slot := f.im.extractLsb' 10 3, reg := f.imRegion }
  | 0xD6#8 => (FlagSel.of f.fs).map fun s =>
      .cbdec { g := f.g, sel := s, d := f.d, a := f.fa, b := f.fb, n := f.im.extractLsb' 6 8,
               sslot := f.im.extractLsb' 0 3, dslot := f.im.extractLsb' 3 3 }
  | 0xD7#8 => (FlagSel.of f.fs).map fun s =>
      .bscale { g := f.g, sel := s, col := f.m 7, tile := f.ml 7, a := f.fa, reg := f.imRegion }
  | _ => none

/-- Opcodes 0xE0 to 0xE4. -/
def Fields.buildE (f : Fields) : Option Instr :=
  match f.op with
  | 0xE0#8 =>
    (match FlagSel.of f.fs, TexMode.of (f.ml 2) with
     | some s, some m => some (.tex2 {
         g := f.g, sel := s, mode := m, d := f.d, a := f.a, c := f.fc,
         bias := f.im })
     | _, _ => none)
  | 0xE1#8 => (FlagSel.of f.fs).map fun s =>
      .texg { g := f.g, sel := s, comp := f.ml 2, d := f.d, a := f.a, c := f.fc,
              level := f.im.extractLsb' 0 4 }
  | 0xE2#8 => some (.launch { g := f.g, pd := pidx f.fc, d := f.d, a := f.a })
  | 0xE3#8 =>
    if f.m 0 then some (.lwaitTest { g := f.g, pd := pidx f.d, a := f.a })
    else some (.lwait { g := f.g, a := f.a })
  | 0xE4#8 => some (.prog { g := f.g, n := f.ml 4 })
  | _ => none

/-- Opcodes 0xF0 to 0xFB. -/
def Fields.buildF (f : Fields) : Option Instr :=
  match f.op with
  | 0xF0#8 => some (.srd { g := f.g, d := f.d, n := f.im.extractLsb' 0 12, i := f.im.extractLsb' 12 6 })
  | 0xF1#8 => some (.swr { g := f.g, n := f.im.extractLsb' 0 12, i := f.im.extractLsb' 12 6, a := f.a })
  | 0xF2#8 => some (.tret f.null)
  | 0xF3#8 => some (.tlbinv { g := f.g, c := f.b, page := if f.m 0 then some f.a else none })
  | 0xF4#8 => (CacheKind.of (f.ml 2)).map fun k => .cinv { g := f.g, kind := k, m := f.b }
  | 0xF5#8 => some (.haltc { g := f.g, resume := f.m 0, m := f.b })
  | 0xF6#8 => some (.dump { g := f.g, d := f.d, c := f.b, a := f.a, l := f.c })
  | 0xF7#8 => some (.ctxsave f.ctxImg)
  | 0xF8#8 => some (.ctxload f.ctxImg)
  | 0xF9#8 => some (.fqpop { g := f.g, pd := pidx f.fc, d := f.d })
  | 0xFA#8 => some (.hostirq { g := f.g, n := f.ml 5 })
  | 0xFB#8 => some (.waiti { g := f.g, state := f.m 2, bell := f.m 1, queue := f.m 0 })
  | _ => none

/-- The instruction an opcode names, before any reserved bit is looked at. -/
def Fields.build (f : Fields) : Option Instr :=
  match f.op.extractLsb' 4 4 with
  | 0x0#4 => f.build0
  | 0x1#4 => f.build1
  | 0x2#4 => f.build2
  | 0x3#4 => f.build3
  | 0x4#4 => f.build4
  | 0x5#4 => f.build5
  | 0x6#4 => f.build6
  | 0x7#4 => f.build7
  | 0x8#4 => f.build8
  | 0x9#4 => f.build9
  | 0xA#4 => f.buildA
  | 0xB#4 => f.buildB
  | 0xC#4 => f.buildC
  | 0xD#4 => f.buildD
  | 0xE#4 => f.buildE
  | _ => f.buildF

/-- Decodes the fields of an instruction: the opcode's instruction, if it has these very fields. -/
def Fields.decode (f : Fields) : Except DecodeError Instr :=
  match f.build with
  | none => .error .unassigned
  | some i =>
    if i.fields = some f then
      if i.wf then .ok i else .error .operands
    else .error .reserved

/-- Decodes a slot of thread code from its 128 bits (R169); an 8-byte slot uses the low half. -/
def decodeThread (lo hi : DWord) : Except DecodeError Instr :=
  if lo.extractLsb' 0 2 = 3#2 then
    let c := ClauseOp.of lo
    if c.word = lo then
      if (Instr.clause c).wf then .ok (.clause c) else .error .operands
    else .error .reserved
  else if lo.extractLsb' 0 2 = 1#2 ∧ hi.extractLsb' 32 32 ≠ 0#32 then .error .pad
  else (Fields.of lo hi).decode

/-- The bytes of the slot a first word starts (R169). -/
def slotBytes (lo : DWord) : Nat :=
  if lo.extractLsb' 0 2 = 1#2 ∨ lo.extractLsb' 0 2 = 2#2 then 16 else 8

/-! ### Stream instructions -/

/-- The fields of R318. -/
structure SFields where
  ev : BitVec 6
  iq : Bool
  wr : BitVec 4
  val : BitVec 4
  x0 : BitVec 8
  x1 : BitVec 8
  x2 : BitVec 8
  x3 : BitVec 8
  md : BitVec 8
  op : BitVec 8
  imm : DWord
deriving DecidableEq, Repr

/-- The low 64 bits of a stream instruction. -/
def SFields.lo (f : SFields) : DWord :=
  f.op ++ f.md ++ f.x3 ++ f.x2 ++ f.x1 ++ f.x0 ++ f.val ++ f.wr ++ bit1 f.iq ++ 0#1 ++ f.ev

/-- The fields of a stream instruction's bits. -/
def SFields.of (lo hi : DWord) : SFields :=
  { ev := lo.extractLsb' 0 6, iq := lo.getLsbD 7, wr := lo.extractLsb' 8 4,
    val := lo.extractLsb' 12 4, x0 := lo.extractLsb' 16 8, x1 := lo.extractLsb' 24 8,
    x2 := lo.extractLsb' 32 8, x3 := lo.extractLsb' 40 8, md := lo.extractLsb' 48 8,
    op := lo.extractLsb' 56 8, imm := hi }

/-- A blank stream instruction. -/
def SFields.blank (op : BitVec 8) : SFields :=
  { ev := 0, iq := false, wr := 0, val := 0, x0 := 0, x1 := 0, x2 := 0, x3 := 0, md := 0, op := op,
    imm := 0 }

/-- Sets the 64-bit operand (R318). -/
def SFields.setQ (f : SFields) : QSrc → SFields
  | .imm x => { f with imm := x }
  | .q n => { f with iq := true, imm := 0#59 ++ n }

/-- The 64-bit operand. -/
def SFields.q (f : SFields) : QSrc := if f.iq then .q (f.imm.extractLsb' 0 5) else .imm f.imm

/-- A q register in an operand field. -/
def qf (n : BitVec 5) : BitVec 8 := 0#3 ++ n

/-- The q register of an operand field. -/
def qOf (x : BitVec 8) : BitVec 5 := x.extractLsb' 0 5

def HArg.num : HArg → BitVec 8
  | .none => 0
  | .h n _ => n

def HArg.valid : HArg → Bool
  | .none => false
  | .h _ _ => true

def HArg.write : HArg → Bool
  | .none => false
  | .h _ w => w

/-- The handle operand of its number, VAL bit and WR bit. -/
def HArg.of (x : BitVec 8) (v w : Bool) : HArg := if v then .h x w else .none

def LaunchqOp.fields (op : BitVec 8) (x : LaunchqOp) : SFields :=
  { (SFields.blank op).setQ x.desc with
    x0 := x.h0.num, x1 := x.h1.num, x2 := x.h2.num, x3 := x.h3.num
    val := bit1 x.h3.valid ++ bit1 x.h2.valid ++ bit1 x.h1.valid ++ bit1 x.h0.valid
    wr := bit1 x.h3.write ++ bit1 x.h2.write ++ bit1 x.h1.write ++ bit1 x.h0.write }

def TwoTOp.fields (op : BitVec 8) (x : TwoTOp) : SFields :=
  { (SFields.blank op).setQ x.desc with x0 := x.d, x1 := x.s, val := 3 }

/-- The fields of a stream instruction; nothing for the others. -/
def Instr.sfields : Instr → Option SFields
  | .nopq => some (SFields.blank 0x00)
  | .haltq => some (SFields.blank 0x01)
  | .setq x => some { SFields.blank 0x08 with x0 := qf x.d, imm := x.imm }
  | .movq x => some { SFields.blank 0x09 with x0 := qf x.d, x1 := qf x.a }
  | .addq x => some { (SFields.blank 0x0A).setQ x.b with x0 := qf x.d, x1 := qf x.a }
  | .cmpq x => some { (SFields.blank 0x0B).setQ x.b with
      x0 := qf x.d, x1 := qf x.a, md := 0#5 ++ x.cond.bits }
  | .ldq x => some { SFields.blank 0x0C with x0 := qf x.d, x1 := qf x.a, imm := x.imm }
  | .brq x => some { SFields.blank 0x10 with x1 := qf x.a, md := 0#7 ++ bit1 x.z, imm := x.off }
  | .jmpq off => some { SFields.blank 0x11 with imm := off }
  | .callq off => some { SFields.blank 0x12 with imm := off }
  | .retq => some (SFields.blank 0x13)
  | .bind x => some { SFields.blank 0x20 with x0 := x.h, x1 := qf x.a, x2 := qf x.b, val := 1 }
  | .free h => some { SFields.blank 0x21 with x0 := h, val := 1 }
  | .fencet s => some { SFields.blank 0x28 with md := 0#7 ++ bit1 s }
  | .waite x => some { (SFields.blank 0x29).setQ x.val with ev := x.ev, md := 0#7 ++ bit1 x.eq }
  | .signal x => some { (SFields.blank 0x2A).setQ x.val with
      ev := x.ev, md := 0#6 ++ bit1 x.irq ++ bit1 x.add }
  | .klaunch x => some (x.fields 0x30)
  | .rlaunch x => some (x.fields 0x31)
  | .mmt x => some { (SFields.blank 0x40).setQ x.desc with x0 := x.c, x1 := x.a, x2 := x.b, val := 7 }
  | .cnvt x => some (x.fields 0x41)
  | .cpyt x => some (x.fields 0x42)
  | .redt x => some (x.fields 0x43)
  | .fillt x => some { (SFields.blank 0x44).setQ x.desc with x0 := x.h, val := 1 }
  | .amaxt x => some { (SFields.blank 0x45).setQ x.desc with x1 := x.h, val := 2 }
  | _ => none

def SFields.launchq (f : SFields) : LaunchqOp :=
  { h0 := HArg.of f.x0 (f.val.getLsbD 0) (f.wr.getLsbD 0)
    h1 := HArg.of f.x1 (f.val.getLsbD 1) (f.wr.getLsbD 1)
    h2 := HArg.of f.x2 (f.val.getLsbD 2) (f.wr.getLsbD 2)
    h3 := HArg.of f.x3 (f.val.getLsbD 3) (f.wr.getLsbD 3), desc := f.q }

def SFields.twoT (f : SFields) : TwoTOp := { d := f.x0, s := f.x1, desc := f.q }

/-- The stream instruction an opcode names (R320). -/
def SFields.build (f : SFields) : Option Instr :=
  match f.op with
  | 0x00#8 => some .nopq
  | 0x01#8 => some .haltq
  | 0x08#8 => some (.setq { d := qOf f.x0, imm := f.imm })
  | 0x09#8 => some (.movq { d := qOf f.x0, a := qOf f.x1 })
  | 0x0A#8 => some (.addq { d := qOf f.x0, a := qOf f.x1, b := f.q })
  | 0x0B#8 => (WCond.of (f.md.extractLsb' 0 3)).map fun c =>
      .cmpq { cond := c, d := qOf f.x0, a := qOf f.x1, b := f.q }
  | 0x0C#8 => some (.ldq { d := qOf f.x0, a := qOf f.x1, imm := f.imm })
  | 0x10#8 => some (.brq { z := f.md.getLsbD 0, a := qOf f.x1, off := f.imm })
  | 0x11#8 => some (.jmpq f.imm)
  | 0x12#8 => some (.callq f.imm)
  | 0x13#8 => some .retq
  | 0x20#8 => some (.bind { h := f.x0, a := qOf f.x1, b := qOf f.x2 })
  | 0x21#8 => some (.free f.x0)
  | 0x28#8 => some (.fencet (f.md.getLsbD 0))
  | 0x29#8 => some (.waite { eq := f.md.getLsbD 0, ev := f.ev, val := f.q })
  | 0x2A#8 => some (.signal { add := f.md.getLsbD 0, irq := f.md.getLsbD 1, ev := f.ev, val := f.q })
  | 0x30#8 => some (.klaunch f.launchq)
  | 0x31#8 => some (.rlaunch f.launchq)
  | 0x40#8 => some (.mmt { c := f.x0, a := f.x1, b := f.x2, desc := f.q })
  | 0x41#8 => some (.cnvt f.twoT)
  | 0x42#8 => some (.cpyt f.twoT)
  | 0x43#8 => some (.redt f.twoT)
  | 0x44#8 => some (.fillt { h := f.x0, desc := f.q })
  | 0x45#8 => some (.amaxt { h := f.x1, desc := f.q })
  | _ => none

/-- Decodes the fields of a stream instruction (R319). -/
def SFields.decode (f : SFields) : Except DecodeError Instr :=
  match f.build with
  | none => .error .unassigned
  | some i =>
    if i.sfields = some f then
      if i.wf then .ok i else .error .operands
    else .error .reserved

/-- Decodes a stream instruction from its 128 bits (R318, R319). -/
def decodeStream (lo hi : DWord) : Except DecodeError Instr :=
  if lo.getLsbD 6 then .error .reserved else (SFields.of lo hi).decode

/-! ### The encoder -/

/-- An encoded instruction: its size in bits, and its words. -/
structure Code where
  bits : Nat
  lo : DWord
  hi : DWord
deriving DecidableEq, Repr

/-- The size in bits of a length code (R169). -/
def lenBits (l : BitVec 2) : Nat := if l = 1 then 96 else if l = 2 then 128 else 64

/-- The words of a thread or stream instruction; a device event has none. -/
def encode (i : Instr) : Option Code :=
  match i with
  | .clause x => some { bits := 64, lo := x.word, hi := 0 }
  | _ =>
    match i.fields with
    | some f => some { bits := lenBits f.len, lo := f.lo, hi := f.hi }
    | none => i.sfields.map fun f => { bits := 128, lo := f.lo, hi := f.imm }

/-- Decodes the words of an instruction of a given size: thread code first, then, at 128 bits,
stream code. -/
def decodeCode (c : Code) : Except DecodeError Instr :=
  match decodeThread c.lo c.hi with
  | .ok i =>
    match encode i with
    | some c' => if c'.bits = c.bits then .ok i else decodeStream c.lo c.hi
    | none => decodeStream c.lo c.hi
  | .error e => if c.bits = 128 then decodeStream c.lo c.hi else .error e

/-- The instruction the decoder reads from an instruction of `nbits` bits whose bits are `w`. -/
def decodeTableWord (nbits w : Nat) : Option Instr :=
  match decodeCode { bits := nbits, lo := BitVec.ofNat 64 w, hi := BitVec.ofNat 64 (w / 2 ^ 64) } with
  | .ok i => some i
  | .error _ => none

end Sys2Proof
end

