-- ==== Sys2Proof/Machine/Fetch.lean ====
section
/-! DEFINITION. How an instruction comes to issue: fetching, hits, decoding, what goes with an issue, and the
end of a cc (spec/07 R169, R170, R182 to R184; spec/17 R390, R391, R404; spec/20 R455, R461, R466). -/

namespace Sys2Proof.Machine

/-! ### Fetching thread code (R169, R170, R184) -/

/-- What a fetch gives: the two halves of a slot, or the state in which the instruction has faulted, parked or
hit. -/
inductive Fetched where
  | slot (lo hi : DWord) (s : State)
  | over (s : State)
deriving DecidableEq, Repr

/-- A slot that starts at a PC stands in one aligned block of 32 bytes (R170). -/
def slotFits (pc : Nat) (lo : DWord) : Bool := pc % 32 + slotBytes lo ≤ 32

/-- The slot at a physical address as it stands at a position of the D order. -/
def Memory.slotAt (m : Memory) (p pa : Nat) : DWord × DWord :=
  let w (a : Nat) : DWord := BitVec.ofNat 64 (natOf ((natsFrom a 8).map fun b => m.atPos p b))
  let lo := w pa
  (lo, if slotBytes lo = 16 then w (pa + 8) else 0)

/-- A grid's first fetch in a cluster refreshes its fetch caches (R184). -/
def State.freshCode (s : State) (kid cl : Nat) : State :=
  match Table.get? s.grids kid with
  | some g =>
    if cl ∈ g.fetched then s
    else (s.updGrid kid fun g => { g with fetched := g.fetched ++ [cl] }).updCluster cl fun c =>
      { c with fcache := [] }
  | none => s

/-- The position in the D order at which a block of code is read: that of the cached copy, or, where the bytes
have changed since, either (R184). -/
def State.codePos (s : State) (cl block : Nat) : Nat × State :=
  let keep (s : State) : State :=
    s.updCluster cl fun c => { c with fcache := Table.put c.fcache block s.mem.pos }
  match Table.get? (s.cluster cl).fcache block with
  | none => (s.mem.pos, keep s)
  | some p =>
    if (natsFrom block 32).all fun a => s.mem.atPos p a = s.mem.atD a then (p, s)
    else
      let r := s.pick 2
      if r.1 = 0 then (p, r.2) else (r.2.mem.pos, keep r.2)

/-- The poisoned line that a first read of a block meets (R434). -/
def State.codePoison (s : State) (cl block : Nat) : Option Nat :=
  if (Table.get? (s.cluster cl).fcache block).isNone && s.mem.poisoned block 32 then
    some (block / 128 * 128)
  else none

/-- Fetches the slot at a wave's PC. A handler's code is read at D on every fetch (DESIGN CHOICE, log 111: the
specification gives the control core no fetch cache that an instruction could invalidate). -/
def State.fetch (s : State) (h : Here) : Fetched :=
  let pc := h.wave.pc.toNat
  let lane := lowLane h.wave.active
  let fault (s : State) (code cause addr : Nat) : Fetched :=
    .over (s.raise h { code := code, cause := cause, lane := lane, addr := addr })
  if pc % 8 != 0 then fault s 0x0B 0 pc
  else
    match h.hand with
    | some _ =>
      if !s.paValid pc then fault s 5 4 pc
      else if s.mem.poisoned pc 8 then fault s 0x0E 0 (pc / 128 * 128)
      else
        let w := s.mem.slotAt s.mem.pos pc
        if slotFits pc w.1 then .slot w.1 w.2 s else fault s 0x0B 0 pc
    | none =>
      if pc ≥ windowBase then fault s 5 0 pc
      else
        let t := s.translate h.via h.wave.ctx pc .fetch
        match t.1 with
        | .absent l =>
          .over (t.2.parkPage h (lane.getD 0) { ctx := h.wave.ctx, va := pc, level := l, kind := .fetch } 0)
        | .denied c => fault t.2 5 c pc
        | .ecc l => fault t.2 0x0E 0 l
        | .ok pa =>
          let cl := clusterOf h.core
          let s1 := t.2.freshCode h.wave.kid cl
          match s1.codePoison cl (pa / 32 * 32) with
          | some l => fault s1 0x0E 0 l
          | none =>
            let p := s1.codePos cl (pa / 32 * 32)
            let w := p.2.mem.slotAt p.1 pa
            if slotFits pc w.1 then .slot w.1 w.2 p.2 else fault p.2 0x0B 0 pc

/-! ### Hits and decoding -/

/-- The breakpoint register that names a wave's PC (R453, R455), but for one that is not checked. -/
def Ctx.breakAt (c : Ctx) (but : Skip) (pc : Pc) : Option Nat :=
  (natsFrom 0 4).find? fun k =>
    let x := listGet c.dbg.bp k 0
    !but.covers (.break' k) && x.getLsbD 0 && x.toNat % 2 ^ 52 / 8 = pc.toNat / 8

/-- A slot is a clause header: it takes no issue slot (R176). -/
def isHeader (lo : DWord) : Bool := lo.extractLsb' 0 2 = 3#2

/-- What issues: an instruction in a state, or nothing more in the state given. -/
inductive Issue where
  | instr (i : Instr) (s : State)
  | over (s : State)
deriving DecidableEq, Repr

/-- The lowest passing lane of a slot's instruction; of one that does not decode, or that no lane passes, the lowest
active lane (DESIGN CHOICE, log 112). -/
def Wave.hitLane (w : Wave) (lo hi : DWord) : Nat :=
  let g := match decodeThread lo hi with
    | .ok i => (i.fields.map Fields.g).getD .always
    | .error _ => .always
  ((w.passing g).head?.map Prod.fst).getD ((lowLane w.active).getD 0)

/-- Checks a fetched slot for a hit (R455), and decodes it; privilege comes before an encoding that is none
(R182, R183). Where a BKPT stands at a PC that a breakpoint register names, the register's hit is taken (DESIGN CHOICE,
log 112: the rules do not say which). -/
def State.decodeSlot (s : State) (h : Here) (lo hi : DWord) : Issue :=
  let lane := lowLane h.wave.active
  let bp := if h.hand.isSome || isHeader lo then none
    else (s.ctx h.wave.ctx).breakAt h.wave.skipHit h.wave.pc
  match bp with
  | some k => .over (s.hit h (.break' k) (h.wave.hitLane lo hi) (h.wave.hitLane lo hi) (0x100 + k) 0)
  | none =>
    if !isHeader lo && h.wave.mode = .user && 0xF0 ≤ (lo.extractLsb' 2 8).toNat then
      .over (s.raise h { code := 0x11, lane := lane })
    else
      match decodeThread lo hi with
      | .ok i => .instr i s
      | .error _ => .over (s.raise h { code := 0x01, lane := lane })

/-- Fetches and decodes for a wave. -/
def State.issueFor (s : State) (h : Here) : Issue :=
  match s.fetch h with
  | .over s' => .over s'
  | .slot lo hi s' => s'.decodeSlot h lo hi

/-! ### Waves -/

/-- A step of the debugger lets one wave alone issue, once (R461). -/
def DbgStatus.lets (d : DbgStatus) (core slot : Nat) : Bool :=
  !d.frozen &&
  match d.step with
  | some (c, n, k) => c = core && n = slot && k % 2 = 0
  | none => true

/-- The order of two waves of an issue partition (R404): elevated ones first, then the earlier age; waves of one age in
the order of their slots (DESIGN CHOICE, log 113). -/
def waveBefore (a b : Nat × Wave) : Bool :=
  (a.2.elevated && !b.2.elevated) || (a.2.elevated = b.2.elevated &&
    (a.2.age < b.2.age || (a.2.age = b.2.age && a.1 < b.1)))

/-- A wave can take part in the issue of its partition. -/
def State.canIssue (s : State) (core : Nat) (e : Nat × Wave) : Bool :=
  !s.dev.stopped && (s.cluster (clusterOf core)).dbg.lets core e.1 && s.ready core e.1 e.2 && !e.2.newborn

/-- The place of a partition's issue in the order of a cc (R405, R432). -/
def issuePlace (core slot : Nat) : Nat := 3 + 4 * core + slot / 16

/-- A wave may issue now (R404): its partition has issued nothing in this cc, the order of the cc has not gone past
it, and every wave that comes before it in its partition has been offered the issue. -/
def State.mayIssue (s : State) (core slot : Nat) (w : Wave) : Bool :=
  s.canIssue core (slot, w) && !((core, slot / 16) ∈ s.cc.issued) && s.cc.order ≤ issuePlace core slot &&
  !(s.core core).waves.any fun e =>
    e.1 / 16 = slot / 16 && waveBefore e (slot, w) && s.canIssue core e && !((core, e.1) ∈ s.cc.tried)

/-- A wave is offered the issue of its partition in this cc. -/
def State.offer (s : State) (core slot : Nat) : State :=
  { s with cc := { s.cc with
      order := max s.cc.order (issuePlace core slot), tried := (core, slot) :: s.cc.tried } }

/-- The start of a clause that waits (R143, R304): the lanes acquire, and a pending sparsity fault is raised. -/
def State.startClause (s : State) (h : Here) : Option State × Here :=
  let w := h.wave.acquireFlags
  let h1 := { h with wave := w }
  let waits := match w.clause with
    | some c => c.wait != 0
    | none => false
  let pend := (w.crew.bind fun id => Table.get? (s.core h.core).crews id).bind Crew.pend
  match waits, pend with
  | true, some f => (some (s.raiseSparse h1 f), h1)
  | _, _ => (none, h1)

/-- What a ready wave waited for before its instruction is there. -/
def Park.over : Park → Park
  | .lines _ => .none
  | .tiles _ => .none
  | .requests => .none
  | .filing _ => .none
  | x => x

/-- What a wave of a core does next: the instruction it issues. -/
def State.nextOfWave (s0 : State) (core slot : Nat) : Issue :=
  match Table.get? (s0.core core).waves slot with
  | none => .over s0
  | some w =>
    if !s0.mayIssue core slot w then .over s0
    else
      let s := { s0.offer core slot with cur := .wave core slot }
      let u := s.startClause { wave := { w with park := w.park.over }, core := core, slot := slot, hand := none }
      match u.1 with
      | some s' => .over s'
      | none => (s.updCore core fun k => { k with waves := Table.put k.waves slot u.2.wave }).issueFor u.2

/-- What a handler does next (R377): the control core issues one instruction in a cc. It goes on under a precise stop
(R463). -/
def State.nextOfHandler (s0 : State) (f : Nat) : Issue :=
  match (s0.handler f).wave with
  | none => .over s0
  | some w =>
    if s0.cc.sys || w.active.isEmpty || (w.lanes.any fun e => s0.awaitsLink e.2.uid) then
      .over s0
    else
      ({ s0 with cur := .handler f }).issueFor { wave := w, core := 0, slot := 0, hand := some f }

/-! ### What goes with an issue -/

/-- A store, atomic or commit at S, and whether its thread waits for the answer (R449, R481). -/
def overRill : Instr → Option Bool
  | .st x => if x.scope = .s then some false else none
  | .red x => if x.scope = .lvl .s then some false else none
  | .atom x => if x.scope = .lvl .s then some true else none
  | .amaxswp x => if x.scope = .lvl .s then some true else none
  | .cmt x => if x.lvl = .s then some true else none
  | _ => none

/-- The thread performs the final step of CMT.S. -/
def isCmtS : Instr → Bool
  | .cmt x => x.lvl = .s
  | _ => false

/-- The bytes of a region that an instruction has sent home, with the threads they are from: those of its arrivals, and,
for CMT.S, every modified copy. -/
def sentTo (region : Nat) (i : Instr) (s s' : State) : List (Nat × List Nat) :=
  ((s'.mem.log.filter fun x => s.mem.pos < x.pos).flatMap fun x =>
    (x.bytes.filter fun b => paRegion b.addr = region).map fun b => (b.addr, b.who)) ++
  (if isCmtS i then (s.mem.dirty.filter fun e => paRegion e.1 = region).map fun e => (e.1, []) else [])

/-- Bytes that an instruction writes at the peer, as they stood there. -/
def State.oldBytes (s : State) (l : List (Nat × List Nat)) : List (Nat × Byte) :=
  (l.map Prod.fst).eraseDups.map fun a => (a, s.mem.atHome a)

/-- The requests of some threads: a commit's bytes go with its first, and the others wait for them too. -/
def State.sendAll (s s' : State) (cmt wait : Bool) (peer : List (Nat × List Nat)) (ts : List Thread) : State :=
  ((natsFrom 0 ts.length).zip ts).foldl (fun t e =>
    let mine := if cmt then (if e.1 = 0 then peer else []) else peer.filter fun b => e.2.uid ∈ b.2
    if mine.isEmpty && !cmt then t else t.rillSend (.thread e.2.uid) e.2.kid wait (s.oldBytes mine)) s'

/-- The requests to the peer that an instruction has made, and the reads to the host that end a CMT.S. With no pair there
is no peer to send to: the endpoint refuses the requests, before any effect (R450). -/
def State.sendRill (s s' : State) (h : Here) (i : Instr) (ts : List Thread) : State :=
  match overRill i with
  | none => s'
  | some wait =>
    let peer := sentTo 4 i s s'
    let host := sentTo 8 i s s'
    if peer.isEmpty && host.isEmpty then s'
    else if !s.paired && !peer.isEmpty then
      s.raise h { code := 0x0F, lane := lowLane h.wave.active, src := 7 }
    else
      let s1 := if peer.isEmpty then s' else s.sendAll s' (isCmtS i) wait peer ts
      if isCmtS i && !host.isEmpty then
        s1.updRill fun r => { r with hostOut := r.hostOut ++ ts.map Thread.uid }
      else s1

/-- A load may read over Rill. -/
def readsFar : Instr → Bool
  | .ld _ => true
  | .ldStrong _ => true
  | .ldw _ => true
  | _ => false

/-- The endpoint can take the requests of one instruction (R449): else the instruction waits. -/
def State.rillRoom (s : State) (i : Instr) : Bool :=
  ((overRill i).isNone && !readsFar i) || s.rill.out.length + 32 ≤ 4096

/-- The threads that an instruction issues for. -/
def issuers (w : Wave) (i : Instr) : List Thread :=
  match i with
  | .st x => (w.passing x.g).map Prod.snd
  | .red x => (w.passing x.g).map Prod.snd
  | .atom x => (w.passing x.g).map Prod.snd
  | .amaxswp x => (w.passing x.g).map Prod.snd
  | .cmt x => (w.passing x.g).map Prod.snd
  | _ => []

/-- A wave is not ready at its instruction, which has not issued (R98, R101, R402, R421). -/
def Park.unissued : Park → Bool
  | .lines _ => true
  | .tiles _ => true
  | .requests => true
  | .filing _ => true
  | _ => false

/-- A wave executes its instruction again when what it waits for is there. -/
def Park.again : Park → Bool
  | .page _ _ _ => true
  | .child _ => true
  | .fence _ => true
  | _ => false

/-- A step of the debugger has issued, and the instruction that a hit stopped has (R459, R461). -/
def DbgStatus.issued (d : DbgStatus) (core slot : Nat) : DbgStatus :=
  let d := if d.core.toNat = core % 8 && d.slot.toNat = slot then { d with hit := .none } else d
  match d.step with
  | some (a, b, n) => if a = core && b = slot && n % 2 = 0 then { d with step := some (a, b, n + 1) } else d
  | none => d

/-- The issue of an instruction by a wave: it is its partition's issue of this cc (R404), the core's deadlock count
starts anew, but not for a wave that waits to execute again (R49), and a step of the debugger has issued (R461). A
header takes no issue slot (R176): its wave may issue in the same cc. -/
def State.noteIssue (s' : State) (w : Wave) (core slot : Nat) (i : Instr) : State :=
  let now := Table.get? (s'.core core).waves slot
  let park := (now.map Wave.park).getD .none
  let header := match i with
    | .clause _ => true
    | _ => false
  if now = some w || park.unissued then s'
  else if header then
    { s' with cc := { s'.cc with tried := s'.cc.tried.filter fun e => e != (core, slot) } }
  else
    let s1 := if park.again then s' else s'.updCore core fun k => { k with deadFrom := s'.tick }
    ({ s1 with cc := { s1.cc with issued := (core, slot / 16) :: s1.cc.issued } }).updCluster (clusterOf core) fun c =>
      { c with dbg := c.dbg.issued core slot }

/-- What follows an instruction of a core's wave: the log accesses that it has made are translated, and one that cannot
be made is charged to it (R118). -/
def State.afterWave (s s' : State) (core slot : Nat) (i : Instr) : State :=
  match Table.get? (s.core core).waves slot with
  | none => s'
  | some w =>
    let h : Here := { wave := w, core := core, slot := slot, hand := none }
    (s.sendRill (s.logged s' h) h i (issuers w i)).noteIssue w core slot i

/-- A handler waits, and its instruction does not issue. -/
def idles (i : Instr) : Bool :=
  match i with
  | .waiti _ => true
  | _ => false

/-- What follows an instruction of a handler: the control core has issued (R377). -/
def State.afterHandler (s s' : State) (f : Nat) (i : Instr) : State :=
  match (s.handler f).wave with
  | none => s'
  | some w =>
    let h : Here := { wave := w, core := 0, slot := 0, hand := some f }
    let t := s.sendRill (s.logged s' h) h i (issuers w i)
    if idles i && t.handler f = s.handler f then t else { t with cc := { t.cc with sys := true } }

/-! ### Streams (R316, R390, R391) -/

/-- A running context can decode. -/
def State.canDecode (s : State) (c : Nat) : Bool :=
  let x := s.ctx c
  let n := x.stream
  x.bound && x.st = .running && n.status = .running && n.spcS.toNat < n.limit && !n.stopDecode &&
  n.stuck.isNone && n.win.length < x.share && (s.laneEntries (s.partOf c)).length < 128

/-- The next running context of a partition after a number that can decode, wrapping. -/
def State.nextDecoder (s : State) (f after : Nat) : Option Nat :=
  let l := (s.runningIn f).filter fun c => s.canDecode c
  match l.find? fun c => after < c with
  | some c => some c
  | none => l.head?

/-- The context that decodes (R390): the one at the cursor while its turn lasts, else the next that can; a lane decodes
once in a cc, and not in one in which a turn has been ended. -/
def State.turnOf (s : State) (f : Nat) : Option Nat :=
  let p := s.part f
  if f ∈ s.cc.decoded || f ∈ s.cc.turned then none
  else if p.turn != 0 then
    if s.partOf p.cursor = f && s.canDecode p.cursor then some p.cursor else none
  else s.nextDecoder f p.cursor

/-- The turn as it stands when a context is about to decode in this cc. -/
def State.takeTurn (s : State) (f c : Nat) : State :=
  let p := s.part f
  let s1 := { s with cc := { s.cc with decoded := f :: s.cc.decoded } }
  if p.turn != 0 && p.cursor = c then s1
  else s1.updPart f fun p => { p with cursor := c, turn := (s.ctx c).w }

/-- The turn after a decode: one fewer, and over where the context could not decode. -/
def State.afterStream (s s' : State) (c : Nat) : State :=
  let same := (s'.ctx c).stream.seq = (s.ctx c).stream.seq
  s'.updPart (s.partOf c) fun p => { p with turn := if same then 0 else p.turn - 1 }

/-- What a stream does next: the instruction at its SPC, in its turn. -/
def State.nextOfStream (s0 : State) (c : Nat) : Issue :=
  let f := s0.partOf c
  if s0.dev.stopped || s0.turnOf f != some c then .over s0
  else
    let s := { s0.takeTurn f c with cur := .stream c }
    let pc := (s.ctx c).stream.spcS.toNat
    let r := s.unitRead (s.laneVia c) c pc 16
    match r.1 with
    | .error e => .over (r.2.streamErr c e)
    | .ok bs =>
      match decodeStream (BitVec.ofNat 64 (natOf (bs.take 8))) (BitVec.ofNat 64 (natOf (bs.drop 8))) with
      | .ok i => .instr i r.2
      | .error _ => .over (r.2.decodeFault c 1 0 0)

/-! ### Commit logs that live grids share (R344) -/

/-- The physical pages that a grid's commit log may stand in now. -/
def State.logPages (s : State) (g : Grid) : List Nat :=
  let x : Via := { core := none, cl := s.partOf g.ctx }
  (natsFrom (g.lrec.logAddr / 4096) (g.lrec.logSize / 4096)).flatMap fun n =>
    (s.routes x g.ctx (4096 * n) .write).filterMap fun r => match r.gives.1 with
      | .ok pa => some (pa / 4096)
      | _ => none

/-- Two live grids have commit logs that overlap, in their addresses or in the memory that these stand for; logs that
hold nothing overwrite nothing. -/
def State.sharesLog (s : State) (a b : Grid) : Bool :=
  a.kid != b.kid && !a.ended && !b.ended && s.mem.logUsed a.kid != 0 && s.mem.logUsed b.kid != 0 &&
  ((a.ctx = b.ctx && a.lrec.logAddr < b.lrec.logAddr + b.lrec.logSize &&
      b.lrec.logAddr < a.lrec.logAddr + a.lrec.logSize) ||
    let l := s.logPages b
    (s.logPages a).any fun n => n ∈ l)

/-- The values that a grid's log entries hold. -/
def Memory.logged (m : Memory) (kid : Nat) : List Byte :=
  (m.bufs.filter fun b => b.kid = kid).flatMap fun b =>
    (b.entries.filter fun e => e.inLog).flatMap fun e => e.bytes.map BufByte.val

/-- The values that may stand over those of a grid's log entries. -/
def State.logRivals (s : State) (kid : Nat) : List Byte :=
  match Table.get? s.grids kid with
  | none => []
  | some g => (s.grids.filter fun e => s.sharesLog g e.2).flatMap fun e => s.mem.logged e.1

/-- Bytes of a log entry that keep their values or take others. -/
def mixLogBytes (vs : List Byte) : List BufByte → State → List BufByte × State
  | [], s => ([], s)
  | x :: t, s =>
    let r := s.pickFrom (x.val :: vs) x.val
    let u := mixLogBytes vs t r.2
    ({ x with val := r.1 } :: u.1, u.2)

/-- The entries of a buffer: those in the log alone are overwritten. -/
def mixLogEntries (vs : List Byte) : List BufEntry → State → List BufEntry × State
  | [], s => ([], s)
  | e :: t, s =>
    let r := if e.inLog then mixLogBytes vs e.bytes s else (e.bytes, s)
    let u := mixLogEntries vs t r.2
    ({ e with bytes := r.1 } :: u.1, u.2)

/-- The buffers of every grid. -/
def mixLogBufs (rivals : Nat → List Byte) : List Buf → State → List Buf × State
  | [], s => ([], s)
  | b :: t, s =>
    let vs := rivals b.kid
    let r := if vs.isEmpty then (b.entries, s) else mixLogEntries vs b.entries s
    let u := mixLogBufs rivals t r.2
    ({ b with entries := r.1 } :: u.1, u.2)

/-- Log entries of live grids that share a log overwrite one another: each byte there holds a value that one of
them stored, and which is open (R344, log 94). -/
def State.mixLogs (s : State) : State :=
  if s.grids.any fun a => s.grids.any fun b => s.sharesLog a.2 b.2 then
    let r := mixLogBufs s.logRivals s.mem.bufs s
    { r.2 with mem := { r.2.mem with bufs := r.1 } }
  else s

/-! ### The end of a cc -/

/-- One cc of a wave's debt (R467). -/
def Core.payDebt (k : Core) : Core :=
  { k with waves := k.waves.map fun e => (e.1, { e.2 with debt := e.2.debt - 1 }) }

/-- Any of a core's loads without a flag that are to be performed, and of its stores that are to arrive, do so in a cc
(R132): which, is a free choice. -/
def State.landSome (s : State) (core : Nat) : State :=
  let k := s.core core
  let loads := (k.ops.filter fun e => !e.2.late.isEmpty && e.2.flag.isNone).map Prod.fst
  let s1 := loads.foldl (fun s key =>
    let r := s.pick 2
    if r.1 = 0 then r.2.landOp core key else r.2) s
  k.stores.foldl (fun s x =>
    let r := s.pick 2
    if r.1 = 0 && x ∈ (r.2.core core).stores then r.2.landStore core x else r.2) s1

/-- The end of a cc on a core: a pass of the lane port, what is outstanding, and the judgement of its basins. -/
def State.tickCore (s : State) (core : Nat) : State :=
  let s1 := (s.tickPort core).landSome core
  let s2 := if (s1.core core).basins.isEmpty then s1 else s1.judgeBasins core
  if (s2.core core).waves.isEmpty then s2 else s2.updCore core Core.payDebt

/-- One cc of a cluster whose clocks run ends: its samples are written (R465), what the cc has done to its basins,
barriers and bins is judged (R222, R262, R401), and a step that is over ends (R461). -/
def State.tickCluster (s : State) (cl : Nat) : State :=
  if (s.cluster cl).dbg.frozen || s.dev.stopped then s
  else
    let s1 := (natsFrom (8 * cl) 8).foldl State.tickCore (s.samples cl)
    (((s1.judgeBars cl).starveBins cl).updCluster cl fun c => { c with clock := c.clock + 1 }).endStep cl

/-- One cc of a lane: a turn ends in the first cc in which its context cannot decode (R390). -/
def State.tickLane (s : State) (f : Nat) : State :=
  let p := s.part f
  if s.dev.stopped || f ∈ s.cc.decoded then s
  else if p.turn != 0 && !(s.partOf p.cursor = f && s.canDecode p.cursor) then
    s.updPart f fun p => { p with turn := 0 }
  else s

/-- An uncorrectable error that a line takes in storage, which the next read of it meets (R434). Which lines take
one, and when, is open. -/
def State.strike (s : State) : State :=
  match Config.strike s.tick with
  | none => s
  | some a =>
    let l := a / 128 * 128
    if s.paValid l && !(s.mem.poison.any fun k => k = l) then
      { s with mem := { s.mem with poison := s.mem.poison ++ [l] } }
    else s

/-- What is held on a core as a cc begins, by holder: what is released in the cc is not to be had before it ends. -/
def State.heldOn (s : State) (core : Nat) (count : Nat → Nat) (t : Table Nat) : Table Nat :=
  (0 :: (s.blocksOn core).map Block.uid).foldl (fun t u =>
    if count u = 0 then t else Table.put t (holderKey core u) (count u)) t

/-- A cc begins: nothing has happened in it, and what is held stands (R405). -/
def State.freshCc (s : State) : ThisCc :=
  let busy := (natsFrom 0 s.cores.length).filter fun c =>
    let k := s.core c
    !k.waves.isEmpty || !k.basins.isEmpty || !k.crews.isEmpty || !k.deps.isEmpty || !(s.returning c).isEmpty
  { ThisCc.zero with
    granules := busy.foldl (fun t c => s.heldOn c (s.granulesNow c) t) []
    tiles := busy.foldl (fun t c =>
      let t1 := s.heldOn c (s.core c).blockTiles t
      if (s.core c).taskTiles = 0 then t1 else Table.put t1 (taskKey c) (s.core c).taskTiles) []
    slots := busy.foldl (fun t c =>
      if (s.core c).waves.isEmpty then t else Table.put t c ((s.core c).waves.map Prod.fst)) [] }

/-- A wave that took its slot in the cc that ends may issue now (R405). -/
def Core.grow (k : Core) : Core := { k with waves := k.waves.map fun e => (e.1, { e.2 with newborn := false }) }

/-- The tick (R451), which a secondary of a pair holds until the primary's has caught up with it (R479). -/
def State.advance (s : State) : State :=
  if s.rill.hold = 0 then { s with tick := s.tick + 1 } else s.updRill fun r => { r with hold := r.hold - 1 }

/-- A precise stop that is due (R463). -/
def State.stopIfDue (s : State) : State := if s.stopDue then s.preciseStop else s

/-- The end of a cc: the clocks that run, window shares (R391), the tick, which never stops (R451), the release of reset
(R484), the errors that memory takes, logs that are shared (R344), a precise stop that is due (R463), and the next cc
begins. -/
def State.cycle (s : State) : State :=
  let s1 := (natsFrom 0 16).foldl (fun s cl => s.tickCluster cl) s.stopIfDue
  let s2 := (natsFrom 0 16).foldl (fun s f => s.tickLane f) s1
  let s3 := (natsFrom 0 64).foldl (fun s c => s.judgeWaites c) s2
  let s4 := (s3.cc.reshare.eraseDups.foldl (fun s f => s.setShares f) s3).trimKept.advance
  let s5 := { s4 with
    dev := { s4.dev with phase := if s4.dev.phase = 0 then 1 else s4.dev.phase }
    cores := s4.cores.map fun k => (Core.grow k).tickTiles s4.tick }
  let s6 := s5.strike.mixLogs.stopIfDue.spendArm
  { s6 with cc := s6.freshCc }

/-! ### Who acts -/

/-- The actor that a free number names. -/
def actorOf (kind x : Nat) : Actor :=
  match kind % 5 with
  | 0 => .wave (x / 64 % 128) (x % 64)
  | 1 => .handler (x % 17)
  | 2 => .stream (x % 64)
  | 3 => match Config.chosenEvent x with
    | some i => .event i
    | none => .cycle
  | _ => .cycle

/-- Who acts next: the head of the agenda, or a free choice (log 3). -/
def State.nextActor (s : State) : Actor × State :=
  match s.agenda with
  | a :: t => (a, { s with agenda := t })
  | [] => (actorOf (Config.free s.fresh) (Config.free (s.fresh + 1)), { s with fresh := s.fresh + 2 })

/-- An event of the device, as against an instruction of a program. -/
def isEvent (i : Instr) : Bool := (encode i).isNone

end Sys2Proof.Machine
end

