-- ==== Sys2Proof/Machine/Step.lean ====
section
/-! DEFINITION. One step of the machine: one agent acts (log 3). A program comes to run through a launch, which
`State.withFetchWord` stands for (log 9). -/

namespace Sys2Proof.Machine

/-- Carries a next state on. -/
def follow (f : State → State) : Res → Res
  | .next s => .next (f s)
  | .fault e => .fault e
  | .refused e => .refused e

/-- A wave of a core acts. -/
def stepWave (core slot : Nat) (s : State) : Res :=
  match s.nextOfWave core slot with
  | .over s' => .next s'
  | .instr i s' =>
    if s'.rillRoom i then follow (fun t => s'.afterWave t core slot i) (exec i s')
    else .next (s.offer core slot)

/-- A handler acts. -/
def stepHandler (f : Nat) (s : State) : Res :=
  match s.nextOfHandler f with
  | .over s' => .next s'
  | .instr i s' =>
    if s'.rillRoom i then follow (fun t => s'.afterHandler t f i) (exec i s') else .next s

/-- A stream acts. -/
def stepStream (c : Nat) (s : State) : Res :=
  match s.nextOfStream c with
  | .over s' => .next s'
  | .instr i s' => follow (fun t => s'.afterStream t c) (exec i s')

/-- An agent acts. -/
def act (a : Actor) (s : State) : Res :=
  match a with
  | .wave core slot => stepWave core slot s
  | .handler f => stepHandler f s
  | .stream c => stepStream c s
  | .event i => if isEvent i then exec i { s with cur := .idle } else .next s
  | .cycle => .next s.cycle

/-- One step. -/
def step (s : State) : Host.Outcome State Fault Refusal := act s.nextActor.1 s.nextActor.2

/-! ### A program in place (log 9) -/

/-- Where the code stands, in memory and in the context's address space. -/
def startPc : Nat := 0x10000

/-- The launch record of a grid of one block. -/
def oneBlock (threads : Nat) : LaunchRec :=
  { entry := BitVec.ofNat 52 startPc, gx := 1, gy := 1, gz := 1, bdx := threads, bdy := 1, bdz := 1, gp := 1
    gf := 1, base := 256, ceil := 256, floor := 0, carry := 4, kind := 0, s := 65536, t := 0, accFloor := 0
    accCeil := 16, tiles := 64, prio := 0, nest := 0, hwBars := 16, gangBars := 16, stages := 2
    hwGroups := 0, gangGroups := 0, logSize := 0, logAddr := 0, sched := 0, seed := 0, param := 0
    slots := List.replicate 8 0 }

/-- Stores bytes at home, whatever stood there. -/
def Memory.place (m : Memory) (a : Nat) (bs : List Byte) : Memory :=
  { m with
    cells := cellSets m.cells a bs
    poison := m.poison.filter fun l => !(l < a + bs.length && a < l + 128) }

/-- The bytes of an instruction: its words, zero above the bits given. -/
def slotImage (nbits w : Nat) : List Byte := bytesOf 32 (w % 2 ^ nbits)

/-- The bytes of a table entry. -/
def entryBytes (e : Nat) : List Byte := bytesOf 8 e

/-- Page tables that map the first GiB onto itself, and code. -/
def Memory.placeCode (m : Memory) (nbits w : Nat) : Memory :=
  (((m.place 0x1000 (entryBytes 0x2001)).place 0x2000 (entryBytes 0x3001)).place 0x3000
    (entryBytes (9 * 2 ^ 60 + 0x6F))).place startPc (slotImage nbits w)

/-- A partition of cluster 0 with context 0 bound to it and running, and nothing that holds its clocks. -/
def State.bare (s : State) : State :=
  let c0 (c : Cluster) : Cluster :=
    { c with tlb := [], walks := [], fcache := [], dbg := DbgStatus.reset }
  { s with
    parts := listSet s.parts 0 { Part.reset with valid := true, chan := 1 }
    ctxs := listSet s.ctxs 0 { Ctx.reset with st := .running, bound := true, root := 0x1000 }
    clusters := listUpd s.clusters 0 c0
    dev := { s.dev with phase := 3, stopped := false, allow := 64, hot := false }
    cc := ThisCc.zero }

/-- The lanes of the wave placed. -/
def startLanes (g : Grid) (n blockUid id crew : Nat) (crewed : Bool) : Table Thread :=
  (natsFrom 0 n).map fun l =>
    let t := launchThread g (blockUid + 1 + l) blockUid 0 (BitVec.ofNat 32 l) 4 none
    (l, if crewed then { t with crewRef := some { uid := crew, id := id, lane := l } } else t)

/-- A wave of context 0 in slot 0 of core 0 stands at the code, before every other wave of its partition: 32 lanes of a
crew, or one lane. -/
def State.withWave (s : State) (crewed : Bool) : State :=
  let n := if crewed then 32 else 1
  let kid := s.uids
  let bu := kid + 3
  let g := Grid.fresh kid s.newKernel 0 0 0 (oneBlock n) s.tick
  let wave : Wave :=
    { Wave.ofThreads 0 kid (BitVec.ofNat 52 startPc) ((startLanes g n bu 0 (kid + 1) crewed).map Prod.snd) s.tick with
      age := 0, elevated := true }
  let crew : Crew :=
    { uid := kid + 1, kid := kid, blockUid := bu, formed := s.mem.pos, tiles := [], sparse := false, pend := none }
  let core (k : Core) : Core :=
    { k with
      waves := Table.put k.waves 0 { wave with crew := if crewed then some 0 else none }
      crews := if crewed then Table.put k.crews 0 crew else k.crews
      tlb := [], port := none }
  { s with
    grids := Table.put s.grids kid { g with next := 1, gangs := 1, blocks := [bu] }
    gangs := Table.put s.gangs (kid + 2)
      { uid := kid + 2, kid := kid, cluster := 0, blocks := [bu], bars := [], formed := s.mem.pos }
    blocks := Table.put s.blocks bu
      (Block.fresh bu kid 0 (kid + 2) 0 0 s.tick s.mem.pos (natsFrom (bu + 1) n))
    cores := listUpd s.cores 0 core
    uids := bu + 1 + n
    agenda := [.wave 0 0] }

/-- Handler slot 16 stands at the code. -/
def State.withFirmware (s : State) : State :=
  let w : Wave := { Wave.ofThreads 64 0 (BitVec.ofNat 52 startPc) [handlerThread s.uids 0 0 16] s.tick with
    mode := .firmware }
  { s with
    handlers := listSet s.handlers 16 { wave := some w, bell := false, changed := false }
    uids := s.uids + 1, agenda := [.handler 16] }

/-- The stream of context 0 stands at the code. -/
def State.withStream (s : State) : State :=
  let n : Stream := { Stream.reset with
    base := startPc, limit := startPc + 32, spcS := BitVec.ofNat 52 startPc, spcR := BitVec.ofNat 52 startPc
    status := .running }
  { s with
    ctxs := listUpd s.ctxs 0 fun c => { c with stream := n }
    agenda := [.stream 0] }

/-- The instruction of some bits stands where the next step fetches: a stream instruction at the SPC of a
stream, a system instruction at the PC of firmware, any other at the PC of a wave. -/
def State.withFetchWord (s : State) (nbits w : Nat) : State :=
  let s1 := { s with mem := s.mem.placeCode nbits w }.bare
  let op := w / 4 % 256
  let stream := match decodeTableWord nbits w with
    | some i => i.sfields.isSome
    | none => false
  if stream then s1.withStream
  else if w % 4 != 3 && 0xF0 ≤ op then s1.withFirmware
  else s1.withWave (w % 4 != 3 && (op / 16 = 6 || op / 16 = 0xD || op = 0x0D))

end Sys2Proof.Machine
end

