-- ==== Sys2Proof/Safety.lean ====
section
/-! DEFINITION. The terms in which claims speak: when a thread instruction issues, what a lane's result is, and
what a run has to keep. -/

namespace Sys2Proof.Machine

/-! ### When a thread instruction issues (spec/07 R173, R183) -/

/-- A thread instruction of form `f` issues in wave `h` for the lanes `ls`: the wave stands at its level, none
of the conditions of 0x11, 0x01 and 0x02 that are common to all opcodes holds, `ls` are the lanes that pass the
guard, there is one, nothing outstanding holds the instruction back, and no flag count stalls the wave. -/
def Issues (s : State) (f : Form) (h : Here) (ls : Table Thread) : Prop :=
  s.here = some h ∧ h.wave.passing f.g = ls ∧ ls ≠ [] ∧
  Mode.rank f.level ≤ Mode.rank h.wave.mode ∧ f.illegal h = false ∧
  (ls.all fun e => e.2.inRange f.uses) = true ∧ f.diverges h.wave ls = false ∧
  s.awaits f h ls = false ∧
  ((h.wave.flagOf f.sel).all fun n => ls.all fun e => decide (e.2.flagCount n < 255)) = true

/-- The instruction ends at the next slot, each issuing lane's thread changed by `f`. -/
def EndsWith (i : Instr) (s : State) (h : Here) (ls : Table Thread) (len : Nat)
    (f : Nat → Thread → Thread) : Prop :=
  exec i s = .next (s.doneLen h (h.wave.updLanes ls f) len)

/-- The instruction ends at the next slot and has written, in each issuing lane, a register or a pair whose value
meets `P`. -/
def LaneWrites (i : Instr) (s : State) (h : Here) (ls : Table Thread) (len : Nat) (wide : Bool)
    (d : BitVec 8) (P : Nat × Thread → DWord → Prop) : Prop :=
  ∃ val : Nat → Thread → DWord,
    EndsWith i s h ls len (fun l t => t.setW wide d.toNat (val l t)) ∧ ∀ e ∈ ls, P e (val e.1 e.2)

/-- The instruction ends at the next slot and has written, in each issuing lane, the predicate `pd`. -/
def LanePred (i : Instr) (s : State) (h : Here) (ls : Table Thread) (len : Nat) (pd : BitVec 4)
    (val : Thread → Bool) : Prop :=
  EndsWith i s h ls len fun _ t => t.setPred pd.toNat (val t)

/-! ### Integer and bit instructions (spec/08) -/

/-- A source of an integer instruction in one lane, as a word of `n` bits. -/
def intSource (n : Nat) (x : IntOp) (h : Here) (t : Thread) (a : Src) : BitVec n :=
  (Src.wide x.w h.wave x.im t a).setWidth n

/-- An integer instruction writes, in each issuing lane, the word of `n` bits that `P` allows. -/
def IntWrites (n : Nat) (i : Instr) (x : IntOp) (s : State) (h : Here) (ls : Table Thread)
    (P : Thread → BitVec n → Prop) : Prop :=
  LaneWrites i s h ls (lenOf x.im) x.w x.d fun e r => P e.2 (r.setWidth n)

/-- A word read as the instruction reads it: unsigned where U is 1, else in two's complement. -/
def asInt {n : Nat} (x : IntOp) (a : BitVec n) : Int := if x.u then a.toNat else a.toInt

/-- The exact result `y` brought into the range of the operand width (SatU, SatS of R190). -/
def clampTo (n : Nat) (x : IntOp) (y : Int) : Int :=
  if x.u then min (max y 0) (2 ^ n - 1)
  else min (max y (-(2 ^ (n - 1)))) (2 ^ (n - 1) - 1)

/-- The checks of a shift: source B names one register (R193, R196). -/
def shiftForm (x : IntOp) : Form :=
  { intForm x with uses := (x.d.toNat, if x.w then 2 else 1) :: (Src.runW x.w x.a ++ Src.run 1 x.b) }

/-! ### FP32, packed arithmetic and conversion (spec/08) -/

/-- A source of an FP32 instruction after its modifiers (R201). -/
def fpSource (x : FOp) (h : Here) (t : Thread) (ab ng : Bool) (a : Src) : Word :=
  modify ab ng (Src.float h.wave x.im t a)

/-- What SAT makes of a result (R202). -/
def fpResult (x : FOp) (y : Word) : Word :=
  if x.sat then (if isNan32 y || fle32 y 0 then 0 else if flt32 one32 y then one32 else y) else y

/-- The form of a packed instruction. -/
def pkForm (x : PkOp) : Form := { len := lenOf x.im, g := x.g, uses := (x.d.toNat, 1) :: runs [x.a, x.b, x.c] }

/-- An FP32 instruction writes, in each issuing lane, what SAT makes of a word that `P` allows. -/
def FpWrites (i : Instr) (x : FOp) (s : State) (h : Here) (ls : Table Thread)
    (P : Thread → Word → Prop) : Prop :=
  LaneWrites i s h ls (lenOf x.im) false x.d fun e r => ∃ y, P e.2 y ∧ r.setWidth 32 = fpResult x y

/-! ### Crew collectives (spec/08) -/

/-- A collective issues in a crew with all 32 lanes active and an empty mask stack (R213). -/
def CrewIssues (s : State) (f : Form) (h : Here) (ls : Table Thread) : Prop :=
  Issues s { f with uniform := true, cluster := true } h ls ∧
  h.wave.crew.isSome = true ∧ h.wave.active.length = 32 ∧ h.wave.mask = []

/-- The values at a level of the tree of R216, from those of the level below. -/
def treeLevel (op : RedOp) (v : Nat → Word) (i : Nat) : Word := redStep op (v (2 * i)) (v (2 * i + 1))

/-! ### Memory accesses (spec/09, spec/05) -/

/-- The accesses `rs` of an instruction pass every check of R239 and reach `accs`; `s'` is the state after their
translations. -/
def Passes (s : State) (h : Here) (rs : List Req) (kind : Access) (reads : Bool) (accs : List Acc)
    (s' : State) : Prop := s.prepare h rs kind reads = (.ok accs, s')

/-- Accesses that pass and meet neither an empty scratchpad line (R98) nor a poisoned line (R434). -/
def Reads (s : State) (h : Here) (rs : List Req) (accs : List Acc) (s' : State) : Prop :=
  Passes s h rs .read true accs s' ∧ s'.meetsEmpty h accs = false ∧ poisonHit s' h accs = none

/-- A load of form `f` whose accesses pass in the state `s` ends (R94, R132, R237): in one pass, at the next slot, with
its registers written at once, under its flag, or, for what a plain load reads later, when it is read; in several, it takes
the lane port, what it reads in memory read. -/
def LoadEnds (i : Instr) (s0 s : State) (h : Here) (ls : Table Thread) (f : Form) (k : LoadKind) (d : BitVec 8)
    (z : Size) (accs : List Acc) : Prop :=
  (onePass accs = true →
    let late := s.lateReads h k f.sel d.toNat z accs
    let r := late.2.loadAll h k (readNow late.1 accs)
    exec i s0 = .next ((s.loadReqs r.2.2 h k f.sel late.1 accs).doneWrites h r.2.1 f.len f.sel ls
      (r.1.flatMap fun e => vWrites e.1.req.t d.toNat (loadWords z e.2)) late.1 (anyScr accs) (s.stashLines accs))) ∧
  (onePass accs = false →
    let r := s.loadAll h k (offPort accs)
    let x := match k with
      | .plain => none
      | .strong y => some y
    exec i s0 = .next ((s.loadReqs r.2.2 h k f.sel [] (offPort accs)).takePort h f (.load x d.toNat z) r.2.1 ls (accs.map fun a => (a, []))
      (r.1.map fun e => (e.1.req.lane, e.2))))

/-- A store of form `f` whose accesses pass in the state `s` ends (R94, R120, R132): at the next slot, its stores held to
arrive later, or, in one pass, with its arrivals made; in several, those that are not at the lane port are made and it
takes the port. -/
def StoreEnds (i : Instr) (s0 s : State) (h : Here) (f : Form) (x : Level) (ps : List Put) : Prop :=
  let r := s.holdsStores h x ps
  (r.1 = true → exec i s0 = .next (((r.2.holdStores h x ps).reachPuts h x ps).doneLen h h.wave f.len)) ∧
  (r.1 = false → ∀ s1, storeAll ps r.2 h x = .ok s1 →
    (onePass (ps.map Put.hit) = true → exec i s0 = .next ((s1.reachPuts h x ps).doneLen h h.wave f.len)) ∧
    (onePass (ps.map Put.hit) = false → ∀ s2, storeAll (offPuts ps) r.2 h x = .ok s2 →
      exec i s0 = .next ((s2.reachPuts h x (offPuts ps)).takePort h f .store h.wave
        (h.wave.lanes.filter fun e => ps.any fun p => p.hit.req.lane = e.1) (ps.map fun p => (p.hit, p.bytes)) [])))

/-- A lane's access to a tile (R244). -/
def tileReq (h : Here) (im : Option Word) (a b : Src) (n : Nat) (te : TileEntry) (e : Nat × Thread) : Req :=
  { lane := e.1
    t := e.2
    addr := offAddr (scratchOff h.wave im e.2 a b)
    space := .scratch (scratchOff h.wave im e.2 a b + 128 * te.base)
    size := n
    form := true }

/-- The accesses of a tile instruction (R99, R244): each lane's offset is aligned and within the tile of its own block,
every such tile is ready, and the accesses pass. -/
def TileReady (s : State) (h : Here) (ls : Table Thread) (tile : Nat) (im : Option Word) (a b : Src) (n : Nat)
    (kind : Access) (accs : List Acc) (s' : State) : Prop :=
  ∃ te : Nat × Thread → TileEntry,
    (∀ e ∈ ls, ∃ blk, s.tileNamed e.2 tile = some (blk, te e) ∧ s.tileState blk (te e) = .ready ∧
      scratchOff h.wave im e.2 a b % (n : Int) = 0 ∧ 0 ≤ scratchOff h.wave im e.2 a b ∧
      scratchOff h.wave im e.2 a b + n ≤ (((te e).count + 1) * 128 : Nat)) ∧
    Passes s h (ls.map fun e => tileReq h im a b n (te e) e) kind (kind = .read) accs s'

/-- What ATOM, RED and AMAXSWP are as atomics: their form, place, address operands and kind. -/
def AtomicIs (i : Instr) (f : Form) (sc : AScope) (im : Option Word) (a b : Src) (y : AtomKind) : Prop :=
  match i with
  | .atom x =>
    f = { len := lenOf x.im, g := x.g, sel := x.sel, uses := (x.d.toNat, if x.w then 2 else 1) :: atomUses x } ∧
    sc = x.scope ∧ im = x.im ∧ a = x.a ∧ b = x.b ∧
    y = { op := some x.op, wide := x.w, c := x.c, d := some x.d.toNat }
  | .red x =>
    f = { len := lenOf x.im, g := x.g, sel := x.sel, uses := atomUses x } ∧
    sc = x.scope ∧ im = x.im ∧ a = x.a ∧ b = x.b ∧ y = { op := some x.op, wide := x.w, c := x.c, d := none }
  | .amaxswp x =>
    f = { len := lenOf x.im, g := x.g, sel := x.sel, uses :=
            (x.d.toNat, 1) :: Src.run (if x.scope = .sp then 1 else 2) x.a } ∧
    sc = x.scope ∧ im = x.im ∧ a = x.a ∧ b = x.b ∧ y = { op := none, wide := false, c := .k 0, d := some x.d.toNat }
  | _ => False

/-! ### Barriers and groups (spec/02, spec/09) -/

/-- The lanes of a barrier instruction stand in blocks, and the kernel has the barrier. -/
def BarrierHere (s : State) (h : Here) (ls : Table Thread) (x : BarOp) : Prop :=
  x.n.toNat < s.barCount h.wave.kid x.gang ∧ ∀ e ∈ ls, (s.blockOf e.2).isSome = true

/-! ### Control (spec/08, spec/02) -/

/-- The form of an instruction of one slot with no register operand. -/
def plainForm (g : Guard) : Form := { len := 8, g := g }

/-- The lanes of a yield may go (R23, R226): no ray stands in a call-out, the flags are clear, the Cistern has room,
and no engine operation holds the crew. -/
def MayYield (s : State) (h : Here) (ls : Table Thread) : Prop :=
  (∀ e ∈ ls, inCallout e.2 = false) ∧ flagsClear ls = true ∧
  s.canFile (clusterOf h.core) h.wave.ctx ls.length = true ∧ s.crewStop h = none

/-- A lane's sample of AWAIT (R227). -/
def awaitReq (addr : Nat) (e : Nat × Thread) : Req :=
  { lane := e.1, t := e.2, addr := addr, space := spaceOf addr, size := 4, form := false }

/-! ### Claims, copies, tiles and stages (spec/02, spec/09) -/

/-- A resource instruction issues: uniformly, and in a crew only as a full one (R264). -/
def ClaimIssues (s : State) (g : Guard) (needCrew : Bool) (h : Here) (ls : Table Thread) : Prop :=
  Issues s { len := 8, g := g, uniform := true, cluster := true } h ls ∧
  (needCrew = true ∨ h.wave.crew.isSome = true → h.wave.fullCrew = true)

/-- The clocks of a cluster run: it is not frozen and no precise stop holds the device (R457, R463). -/
def Runs (s : State) (cl : Nat) : Prop := (s.cluster cl).dbg.frozen = false ∧ s.dev.stopped = false

/-! ### Ray threads (spec/10, spec/03) -/

/-- A ray instruction issues for lanes that are ray threads and meet `ok`. -/
def RayIssues (s : State) (f : Form) (h : Here) (ls : Table Thread) (ok : Thread → Prop) : Prop :=
  Issues s { f with cluster := true } h ls ∧ ∀ e ∈ ls, e.2.ray.isSome = true ∧ ok e.2

/-- The lanes' records pass to a traversal unit (R82, R285): they commit to G, leave their soft barriers and the
wave, and stand in traversal at the PC `pc` with cause 4 and the ray part `f` gives. -/
def EntersTraversal (i : Instr) (s : State) (h : Here) (ls : Table Thread) (len : Nat)
    (pc : Thread → Pc) (f : Thread → RayPart → RayPart) : Prop :=
  flagsClear ls = true → s.crewBusy h = false → ∀ s1, yieldCommits ls s h = .ok s1 →
    let cl := clusterOf h.core
    let sent (t : Thread) : Thread := { (t.filed 24 (pc t) 4 t.ckey 0).updRay (f t) with crewRef := none }
    let s2 := ls.foldl (fun s e => (s.unenrol h.core e.2 none).updCluster cl fun c =>
      { c with trav := Table.put c.trav e.2.uid (sent e.2) }) s1
    let r := s2.leave h h.wave (ls.map Prod.fst)
    exec i s = .next (r.1.doneLen h r.2 len)

/-! ### The matrix engine (spec/10) -/

/-- A matrix instruction issues in a full crew (R297), with every load of the crew performed; one that reaches memory
(`mem`) issues while its core can make another request (R421). -/
def MatrixIssues (s : State) (f : Form) (h : Here) (ls : Table Thread) (c : Crew) (mem : Bool := false) : Prop :=
  Issues s { f with uniform := true, cluster := true, orders := true } h ls ∧ h.wave.fullCrew = true ∧
  s.crewHere h = some c ∧ (mem = true → s.requestsFull h = false)

/-- The engine of the core has room for one more operation (R436). -/
def EngineRoom (s : State) (h : Here) : Prop :=
  ((s.core h.core).ops.filter fun e => e.2.eng.isSome).length < 8

/-- The state with an engine operation handed over and its instruction ended: its flag counts one more in each
lane, the lines it will write are empty, and a wave whose registers it will write without a flag is held. -/
def State.handed (s : State) (h : Here) (len : Nat) (sel : FlagSel) (o : EngineOp) (regs : Bool) : State :=
  let key := Table.nextKey (s.core h.core).ops
  let op : PendOp :=
    { slot := h.slot, flag := h.wave.flagOf sel, uids := o.uids, writes := [], late := []
      scr := decide (o.lines ++ o.wlines ≠ []), stash := [], eng := some o }
  ((({ s with uids := s.uids + 1 }).updCore h.core fun k =>
    { k with ops := Table.put k.ops key op }).setLines h.core 2 true o.wlines).doneLen h
      (match h.wave.flagOf sel with
        | some n => h.wave.updLanes h.wave.lanes fun _ t => t.flagUp n
        | none => if regs then { h.wave with park := .engine key } else h.wave) len

/-- The checks of MMA and MMAS hold in the order of R301 and R303: formats `fa` and `fb`, operand registers, the
accumulator tile, the work, and the tiles `te` of B and `me` of the metadata, whose bytes start at `first`. -/
def MmaMay (s : State) (x : MmaOp) (sparse : Bool) (h : Here) (ls : Table Thread) (c : Crew) (fa fb : Fmt)
    (blk : Block) (te me : TileEntry) (first : Nat) : Prop :=
  let kk := mmaK x
  let m := regRows x.reg
  ((s.slotOf h.wave.kid x.aslot.toNat).accepted fun f =>
    !(sparse && f = .vq2) && !(f.blocked && kk % 48 != 0)) = some fa ∧
  (s.slotOf h.wave.kid x.bslot.toNat).accepted Fmt.plain = some fb ∧
  (if fa.blocked then ∃ r, x.vs = .v r ∧ crewInRange ls [(r.toNat, runRegs (scaleBytes fa m kk))] = true
    else x.vs = .v 0) ∧
  crewInRange ls [(x.va.toNat, runRegs (aBytes fa m (if sparse then kk / 2 else kk)))] = true ∧
  tileHeld c x.acc.toNat x.reg = true ∧
  m * regCols x.reg * kk ≤ (if sparse then 128 else 64) * macRate fa fb ∧
  s.blockHere ls = some blk ∧ s.tile? blk x.tile.toNat = some te ∧
  bFits x fb ((te.count + 1) * 128) = true ∧
  (if sparse then ∃ mn, s.metaSpot h blk x = some ((mn, me), first) else me = te ∧ first = 0) ∧
  s.tileState blk te = .ready ∧ s.tileState blk me = .ready

/-! ### Textures and launches from threads (spec/10) -/

/-- The reads of a texture instruction give `rs` in the state `s2`: descriptors, texels and their checks (R296). -/
def TexReads (s s2 : State) (h : Here) (ls : Table Thread) (a : Src)
    (place : State → Thread → TexDesc → List Tap × Real' × State) (rs : List (TexLane × List Rgba)) : Prop :=
  let addr (t : Thread) : Nat := (Src.int64 h.wave none t a).toNat
  (∀ e ∈ ls, addr e.2 < windowBase ∧ addr e.2 % 32 = 0) ∧
  ∃ (xs : List TexLane) (s1 : State), texLanes h addr place ls s = (xs, none, s1) ∧
    (∀ x ∈ xs, x.badAddr = none ∧ x.d.base % 256 = 0 ∧ x.d.reserved = false) ∧
    readTexels h xs s1 = (.ok rs, s2)

/-! ### System instructions (spec/16) -/

/-- A system instruction issues for the thread `t` of its lowest lane. -/
def SystemIssues (s : State) (len : Nat) (g : Guard) (level : Mode) (uses : List RegRun) (h : Here)
    (l : Nat) (t : Thread) : Prop :=
  ∃ ls, Issues s (sysForm len g level uses) h ls ∧ ls.head? = some (l, t)

/-! ### Streams (spec/11) -/

/-- The stream instruction `i` of context `c` is decoded from the state `s1`: it takes a window entry with the
next sequence number, SPC and the return stack become `next` and `stack`, no other context and nothing outside
the stream changes, and the new stream and its entry meet `P`. -/
def Decodes (i : Instr) (s s1 : State) (c : Nat) (next : Pc) (stack : List Pc)
    (P : Stream → Entry → Prop) : Prop :=
  ∃ t : State, exec i s = .next t ∧ t.mem = s1.mem ∧ t.cores = s1.cores ∧ t.clusters = s1.clusters ∧
    t.grids = s1.grids ∧ t.handlers = s1.handlers ∧ (∀ c', c' ≠ c → t.ctx c' = s1.ctx c') ∧
    (c < s1.ctxs.length → ∃ e : Entry,
      let n := (s1.ctx c).stream
      let n' := (t.ctx c).stream
      n'.win = n.win ++ [e] ∧ e.seq = n.seq ∧ e.pc = n.spcS ∧ e.i = some i ∧ e.fault = none ∧
      n'.seq = (n.seq + 1) % 2 ^ 64 ∧ n'.spcS = next ∧ n'.stackS = stack ∧ e.nextPc = next ∧ e.stack = stack ∧
      n'.qR = n.qR ∧ n'.hR = n.hR ∧ n'.spcR = n.spcR ∧ n'.stackR = n.stackR ∧ P n' e)

/-- The map of a stream's handles and its free buffers stand, and so do its scalar registers but `d`, which is
`v`. -/
def SetsScalar (n n' : Stream) (e : Entry) (d : BitVec 5) (v : DWord) : Prop :=
  (∀ k, Table.get? n'.qS k = if k = d.toNat then some v else Table.get? n.qS k) ∧
  n'.hS = n.hS ∧ n'.freeBufs = n.freeBufs ∧ e.qw = some (d.toNat, v) ∧ e.st = .done ∧ e.maps = []

/-- The scalar registers, the handle map and the free buffers of a stream stand. -/
def Keeps (n n' : Stream) (e : Entry) : Prop :=
  n'.qS = n.qS ∧ n'.hS = n.hS ∧ n'.freeBufs = n.freeBufs ∧ e.qw = none ∧ e.maps = []

/-- The handle map of a stream with handle `h` changed to `v`. -/
def MapsTo (n n' : Stream) (e : Entry) (h : Nat) (v : Option Handle) : Prop :=
  (∀ k, Table.get? n'.hS k = if k = h then v else Table.get? n.hS k) ∧ e.maps = [(h, v)] ∧
  (∀ a cls len, Table.get? n.hS h = some (.renamed a cls len) → e.displaced = [(a, cls)]) ∧ n'.qS = n.qS

/-- What a launch's entry holds: its record with the regions of the handles it names, as raw regions and as
arguments, and the producers of their buffers. -/
def LaunchEntry (e : Entry) (l : List (Option (HRegion × Bool))) (d : LDesc) : Prop :=
  let rs := l.filterMap id
  e.st = .decoded ∧ e.raws = rs.map (fun r => (r.1.base, r.1.len, r.2)) ∧ e.deps = rs.flatMap (fun r => r.1.deps) ∧
  e.launch = some { d with args := l.map fun o => match o with
    | some r => (r.1.base, r.1.len)
    | none => (0, 0) }

/-- What a tensor instruction uses: its fields, its descriptor, its destination, and its sources by view. -/
def taskParts : Instr → Option (TaskUse × QSrc × Option (BitVec 8) × List (Nat × BitVec 8))
  | .mmt x => some (useMmt, x.desc, some x.c, [(1, x.a), (2, x.b)])
  | .cnvt x => some (useCnvt, x.desc, some x.d, [(1, x.s)])
  | .cpyt x => some (useCpyt, x.desc, some x.d, [(1, x.s)])
  | .redt x => some (useRedt, x.desc, some x.d, [(1, x.s)])
  | .fillt x => some (useFillt, x.desc, some x.h, [])
  | .amaxt x => some (useAmaxt, x.desc, none, [(1, x.h)])
  | _ => none

/-- The descriptor of a task is read and passes its checks (R335 to R340): the state after the reads, the task with
the bases of its sources, and those sources. -/
def TaskReads (i : Instr) (u : TaskUse) (desc : QSrc) (dst : Option (BitVec 8)) (srcs : List (Nat × BitVec 8))
    (s s2 : State) (c : Nat) (d : TDesc) (rs : List (Nat × HRegion)) : Prop :=
  let n := (s.ctx c).stream
  let a := (n.val desc).toNat
  ∃ (bs : List Byte) (s1 : State) (slots : Table (BitVec 128)),
    a < windowBase ∧ a % 128 = 0 ∧ s.unitRead (s.laneVia c) c a 128 = (.ok bs, s1) ∧
    u.unusedOk bs = true ∧
    (∀ k ∈ u.slots, fieldAt bs (72 + 8 * k) 8 % 16 = 0) ∧
    (∀ k : State → Table (BitVec 128) → State,
      s1.readSlots c (u.slots.map fun j => (j, fieldAt bs (72 + 8 * j) 8)) [] k = k s2 slots) ∧
    let d0 := parseTask bs slots
    (∀ k ∈ u.views, (d0.view k).shapeOk (layoutOf i d0 k) = true) ∧ taskFault i d0 = none ∧
    d0.askew u = false ∧ lacksOld i d0 (dst.bind fun h => n.region h.toNat) = false ∧
    sourceRegions n srcs = some rs ∧ (s2.ctx c).stream = n ∧
    d = rs.foldl (fun d e => d.setBase e.1 e.2.base) d0

/-! ### The Weir (spec/11) -/

/-- The window entry of a sequence number. -/
def HasEntry (s : State) (x : EntryId) (e : Entry) : Prop := s.entryOf x.ctx.toNat x.seq = some e

/-! ### Privileged registers and what the host writes (spec/16, spec/20, spec/21) -/

/-- The register write of the host that an event makes: number, instance and value. -/
def hostReg (s : State) : Instr → Option (Nat × Nat × DWord)
  | .registerWrite x => (regAt x.word.toNat).map fun r => (r.1, r.2, x.x)
  | .ctxReqRun c => some (0x040, c.toNat, s.ctlWith c.toNat 1)
  | .ctxReqStop c => some (0x040, c.toNat, s.ctlWith c.toNat 2)
  | .ctxWeightWrite c w => some (0x040, c.toNat, s.ctlBound c.toNat (s.ctx c.toNat).bound (s.ctx c.toNat).part w)
  | .streamResume c => some (0x044, c.toNat, 0x80)
  | .ctxSpcWrite c x => some (0x043, c.toNat, x)
  | .streamLimitWrite c x => some (0x042, c.toNat, x)
  | .clModeWrite c x => some (0x020, c.toNat, x)
  | .residencyWrite c n x => some (0x051 + 2 * n.toNat, c.toNat, x)
  | .hostQdone x => some (0x00B, 0, x)
  | .hostQheadWrite x => some (0x00A, 0, x)
  | .hostDoorbell f => some (0x00C, f.toNat, 0)
  | .hostSigpendClear x => some (0x00D, 0, x)
  | .hostIrqpendClear x => some (0x018, 0, x)
  | .dbgCtlWrite c x => some (0x110, c.toNat, x)
  | .dbgTraceBaseWrite c x => some (0x119, c.toNat, x)
  | _ => none

/-! ### What instructions leave alone (spec/07, spec/05, spec/18) -/

/-- The wave of `h` as it stands in a state. -/
def State.issuerWave (s : State) (h : Here) : Option Wave :=
  match h.hand with
  | none => Table.get? (s.core h.core).waves h.slot
  | some f => (s.handler f).wave

/-- From `s` to `t` nothing has changed but the wave of `h`; the causal engine of its context may have counted a
hit, and have burdened other waves with debt (R466, R467). -/
def OnlyWave (s t : State) (h : Here) : Prop :=
  t.mem = s.mem ∧ t.clusters = s.clusters ∧ t.blocks = s.blocks ∧ t.gangs = s.gangs ∧ t.grids = s.grids ∧
  t.parts = s.parts ∧ t.dev = s.dev ∧ t.rill = s.rill ∧ t.pages = s.pages ∧ t.images = s.images ∧
  t.tick = s.tick ∧ t.uids = s.uids ∧
  (∀ c, { t.ctx c with dbg := { (t.ctx c).dbg with cxHits := (s.ctx c).dbg.cxHits } } = s.ctx c) ∧
  (∀ c, { t.core c with waves := (s.core c).waves } = s.core c) ∧
  (∀ f, { t.handler f with wave := (s.handler f).wave } = s.handler f) ∧
  (∀ c n, ¬ (h.hand = none ∧ c = h.core ∧ n = h.slot) →
    (Table.get? (t.core c).waves n).map (fun w => { w with debt := 0 }) =
      (Table.get? (s.core c).waves n).map (fun w => { w with debt := 0 })) ∧
  (∀ f, h.hand ≠ some f → t.handler f = s.handler f)

/-- The form, the destination registers and the destination predicate of an instruction that computes in each
lane. -/
def laneShape : Instr → Option (Form × RegRun × Option (BitVec 4))
  | .iadd x => some (intForm x, (x.d.toNat, if x.w then 2 else 1), none)
  | .isum3 x => some (intForm x, (x.d.toNat, if x.w then 2 else 1), none)
  | .isub x => some (intForm x, (x.d.toNat, if x.w then 2 else 1), none)
  | .imul x => some (intForm x, (x.d.toNat, if x.w then 2 else 1), none)
  | .imulh x => some (intForm x, (x.d.toNat, if x.w then 2 else 1), none)
  | .imad x => some (intForm x, (x.d.toNat, if x.w then 2 else 1), none)
  | .idiv x => some (intForm x, (x.d.toNat, if x.w then 2 else 1), none)
  | .irem x => some (intForm x, (x.d.toNat, if x.w then 2 else 1), none)
  | .imin x => some (intForm x, (x.d.toNat, if x.w then 2 else 1), none)
  | .imax x => some (intForm x, (x.d.toNat, if x.w then 2 else 1), none)
  | .iabs x => some (intForm x, (x.d.toNat, if x.w then 2 else 1), none)
  | .mov x => some (intForm x, (x.d.toNat, if x.w then 2 else 1), none)
  | .and x => some (intForm x, (x.d.toNat, if x.w then 2 else 1), none)
  | .or x => some (intForm x, (x.d.toNat, if x.w then 2 else 1), none)
  | .xor x => some (intForm x, (x.d.toNat, if x.w then 2 else 1), none)
  | .not x => some (intForm x, (x.d.toNat, if x.w then 2 else 1), none)
  | .brev x => some (intForm x, (x.d.toNat, if x.w then 2 else 1), none)
  | .shl x => some (shiftForm x, (x.d.toNat, if x.w then 2 else 1), none)
  | .shr x => some (shiftForm x, (x.d.toNat, if x.w then 2 else 1), none)
  | .sar x => some (shiftForm x, (x.d.toNat, if x.w then 2 else 1), none)
  | .bfe x => some (shiftForm x, (x.d.toNat, if x.w then 2 else 1), none)
  | .popc x => some ({ intForm x with uses := (x.d.toNat, 1) :: Src.runW x.w x.a }, (x.d.toNat, 1), none)
  | .clz x => some ({ intForm x with uses := (x.d.toNat, 1) :: Src.runW x.w x.a }, (x.d.toNat, 1), none)
  | .fadd x => some (fForm x, (x.d.toNat, 1), none)
  | .fmul x => some (fForm x, (x.d.toNat, 1), none)
  | .ffma x => some (fForm x, (x.d.toNat, 1), none)
  | .fmin x => some (fForm x, (x.d.toNat, 1), none)
  | .fmax x => some (fForm x, (x.d.toNat, 1), none)
  | .frcp x => some (fForm x, (x.d.toNat, 1), none)
  | .frsq x => some (fForm x, (x.d.toNat, 1), none)
  | .fsqrt x => some (fForm x, (x.d.toNat, 1), none)
  | .fexp2 x => some (fForm x, (x.d.toNat, 1), none)
  | .flog2 x => some (fForm x, (x.d.toNat, 1), none)
  | .fsin x => some (fForm x, (x.d.toNat, 1), none)
  | .fcos x => some (fForm x, (x.d.toNat, 1), none)
  | .fdiv x => some (fForm x, (x.d.toNat, 1), none)
  | .movi x => some ({ len := 16, g := x.g, uses := [(x.d.toNat, if x.w then 2 else 1)] },
      (x.d.toNat, if x.w then 2 else 1), none)
  | .movi64 x => some ({ len := 16, g := x.g, uses := [(x.d.toNat, 2)] }, (x.d.toNat, 2), none)
  | .icmp x => some ({ len := lenOf x.im, g := x.g, uses := [x.a, x.b].flatMap (Src.runW x.w) }, (0, 0), some x.pd)
  | .fcmp x => some ({ len := lenOf x.im, g := x.g, uses := runs [x.a, x.b] }, (0, 0), some x.pd)
  | .pand x => some ({ len := 8, g := x.g }, (0, 0), some x.pd)
  | .por x => some ({ len := 8, g := x.g }, (0, 0), some x.pd)
  | .pxor x => some ({ len := 8, g := x.g }, (0, 0), some x.pd)
  | .pnot x => some ({ len := 8, g := x.g }, (0, 0), some x.pd)
  | .pmov x => some ({ len := 8, g := x.g }, (0, 0), some x.pd)
  | .vote x => some ({ len := 8, g := x.g }, (0, 0), some x.pd)
  | .lea x =>
    let d : RegRun := (x.d.toNat, if x.w then 2 else 1)
    some ({ len := lenOf x.im, g := x.g, uses := d :: (Src.run 1 x.a ++ Src.runW x.w x.b) }, d, none)
  | .sel x =>
    let d : RegRun := (x.d.toNat, if x.w then 2 else 1)
    some ({ len := lenOf x.im, g := x.g, uses := d :: [x.a, x.b].flatMap (Src.runW x.w) }, d, none)
  | .tern x => some ({ len := lenOf x.im, g := x.g, uses := (x.d.toNat, 1) :: runs [x.a, x.b, x.c] },
      (x.d.toNat, 1), none)
  | .bfi x =>
    let d : RegRun := (x.d.toNat, if x.w then 2 else 1)
    some ({ intForm x with uses := d :: ([x.a, x.b].flatMap (Src.runW x.w) ++ Src.run 1 x.c) }, d, none)
  | .pkadd x => some (pkForm x, (x.d.toNat, 1), none)
  | .pkmul x => some (pkForm x, (x.d.toNat, 1), none)
  | .pkfma x => some (pkForm x, (x.d.toNat, 1), none)
  | .cvt x =>
    let d : RegRun := (x.d.toNat, if cvtBits x.dt = 64 then 2 else 1)
    some ({ len := 8, g := x.g, uses := d :: Src.run (if cvtBits x.st = 64 then 2 else 1) x.a }, d, none)
  | .rng x => some ({ len := 8, g := x.g, cluster := true, uses := (x.d.toNat, 1) :: runs [x.a, x.b, x.c] },
      (x.d.toNat, 1), none)
  | _ => none

/-- The form and the destination registers of a collective that writes each lane of its crew. -/
def crewShape : Instr → Option (Form × RegRun)
  | .xlane x =>
    let d : RegRun := (x.d.toNat, if x.w then 2 else 1)
    some ({ len := lenOf x.im, g := x.g, uses := d :: (Src.runW x.w x.a ++ Src.run 1 x.b ++ Src.runW x.w x.c) }, d)
  | .redx x => some ({ len := 8, g := x.g, uses := (x.d.toNat, 1) :: runs [x.a] }, (x.d.toNat, 1))
  | .scanx x => some ({ len := 8, g := x.g, uses := (x.d.toNat, 1) :: runs [x.a] }, (x.d.toNat, 1))
  | .ballot x => some ({ len := 8, g := x.g, uses := [(x.d.toNat, 1)] }, (x.d.toNat, 1))
  | .matchx x => some ({ len := 8, g := x.g, uses := (x.d.toNat, 1) :: Src.runW x.w x.a }, (x.d.toNat, 1))
  | _ => none

/-- The instruction ends at the next slot, having changed in each issuing lane nothing but the registers `dst` and the
predicate `pd`. -/
def ComputesInto (i : Instr) (s : State) (h : Here) (ls : Table Thread) (len : Nat) (dst : RegRun)
    (pd : Option (BitVec 4)) : Prop :=
  ∃ f : Nat → Thread → Thread, EndsWith i s h ls len f ∧ ∀ e ∈ ls,
    (∀ r, ¬ (dst.1 ≤ r ∧ r < dst.1 + dst.2) → (f e.1 e.2).reg r = e.2.reg r) ∧
    (∀ p : BitVec 4, pd ≠ some p → (f e.1 e.2).pred p.toNat = e.2.pred p.toNat) ∧
    { f e.1 e.2 with v := e.2.v, p := e.2.p } = e.2

/-- BAR or ARRIVE of the passing lanes, in lane order, from a state whose barrier is bound. -/
def barLanes (x : BarOp) (stop : Bool) (s : State) (h : Here) (ls : Table Thread) : State :=
  let r := ls.foldl (fun (r : State × Wave) e => match s.blockOf e.2 with
    | some b => State.barLane r.1 h r.2 e.1 e.2 b x.gang stop x.n.toNat (h.wave.after 8)
    | none => r) (s, h.wave)
  r.1.done h r.2 (h.wave.after 8)

end Sys2Proof.Machine
end

