-- ==== Sys2Proof/Certificates/Slice0/Obligations.lean ====
section
/-! DEFINITION. The statements for the provers: what the rules of the specification say of the machine. Each
docstring names the rules of spec/ that a statement formalises. -/

open Sys2Proof Sys2Proof.Machine

/-! ### Integer and bit instructions (spec/08) -/

/-- R194: without SAT, IADD, ISUM3, ISUB, IMUL and IMAD wrap modulo 2^w, where w is 32 or 64. -/
def Sys2Proof.Claim.IntegerResultsWrap : Prop :=
  ∀ (x : IntOp) (n : Nat) (s : State) (h : Here) (ls : Table Thread), n = intWidth x →
    x.sat = false → Issues s (intForm x) h ls →
    let v := intSource n x h
    IntWrites n (.iadd x) x s h ls (fun t r => r = v t x.a + v t x.b) ∧
    IntWrites n (.isum3 x) x s h ls (fun t r => r = v t x.a + v t x.b + v t x.c) ∧
    IntWrites n (.isub x) x s h ls (fun t r => r = v t x.a - v t x.b) ∧
    IntWrites n (.imul x) x s h ls (fun t r => r = v t x.a * v t x.b) ∧
    IntWrites n (.imad x) x s h ls (fun t r => r = v t x.a * v t x.b + v t x.c)

/-- R194: with SAT, the integer instructions write the exact result brought into range. -/
def Sys2Proof.Claim.IntegerResultsSaturate : Prop :=
  ∀ (x : IntOp) (n : Nat) (s : State) (h : Here) (ls : Table Thread), n = intWidth x →
    x.sat = true → Issues s (intForm x) h ls →
    let v t a := asInt x (intSource n x h t a)
    IntWrites n (.iadd x) x s h ls (fun t r => asInt x r = clampTo n x (v t x.a + v t x.b)) ∧
    IntWrites n (.isum3 x) x s h ls (fun t r => asInt x r = clampTo n x (v t x.a + v t x.b + v t x.c)) ∧
    IntWrites n (.isub x) x s h ls (fun t r => asInt x r = clampTo n x (v t x.a - v t x.b)) ∧
    IntWrites n (.imul x) x s h ls (fun t r => asInt x r = clampTo n x (v t x.a * v t x.b)) ∧
    IntWrites n (.imad x) x s h ls (fun t r => asInt x r = clampTo n x (v t x.a * v t x.b + v t x.c)) ∧
    (x.u = false →
      IntWrites n (.iabs x) x s h ls (fun t r => asInt x r = clampTo n x |v t x.a|))

/-- R194: IMULH writes the high half of the exact product, IMIN and IMAX the smaller and the larger source, and
IABS without SAT the absolute value, wrapping. -/
def Sys2Proof.Claim.IntegerHighHalfAndOrder : Prop :=
  ∀ (x : IntOp) (n : Nat) (s : State) (h : Here) (ls : Table Thread), n = intWidth x →
    x.sat = false → Issues s (intForm x) h ls →
    let v := intSource n x h
    let wide (a : BitVec n) : BitVec (n + n) := if x.u then a.setWidth (n + n) else a.signExtend (n + n)
    IntWrites n (.imulh x) x s h ls (fun t r => r = (wide (v t x.a) * wide (v t x.b)).extractLsb' n n) ∧
    IntWrites n (.imin x) x s h ls
      (fun t r => (r = v t x.a ∨ r = v t x.b) ∧ asInt x r ≤ asInt x (v t x.a) ∧ asInt x r ≤ asInt x (v t x.b)) ∧
    IntWrites n (.imax x) x s h ls
      (fun t r => (r = v t x.a ∨ r = v t x.b) ∧ asInt x (v t x.a) ≤ asInt x r ∧ asInt x (v t x.b) ≤ asInt x r) ∧
    (x.u = false →
      IntWrites n (.iabs x) x s h ls (fun t r => r = if (v t x.a).msb then -(v t x.a) else v t x.a))

/-- R190, R194: the integer arithmetic, wrapping, saturating, and the high half and order. -/
def Obligations.IntegerArithmetic : Prop :=
  Claim.IntegerResultsWrap ∧ Claim.IntegerResultsSaturate ∧ Claim.IntegerHighHalfAndOrder

/-- R194, R195: IDIV and IREM divide toward zero; a zero divisor gives the values of R195, with no fault. -/
def Obligations.DivisionResults : Prop :=
  ∀ (x : IntOp) (n : Nat) (s : State) (h : Here) (ls : Table Thread), n = intWidth x →
    x.sat = false → Issues s (intForm x) h ls →
    let v := intSource n x h
    IntWrites n (.idiv x) x s h ls (fun t r =>
      let a := v t x.a
      let b := v t x.b
      (b ≠ 0 → r = if x.u then a / b else a.sdiv b) ∧
      (b = 0 → x.u = true → r = BitVec.allOnes n) ∧
      (b = 0 → x.u = false → a.msb = false → r = BitVec.intMax n) ∧
      (b = 0 → x.u = false → a.msb = true → r = BitVec.intMin n)) ∧
    IntWrites n (.irem x) x s h ls (fun t r =>
      let a := v t x.a
      let b := v t x.b
      r = if b = 0 then a else if x.u then a % b else a.srem b)

/-- R196: the shifts, by an amount of 32 bits whatever the width; at or above the width the result is 0, or the
sign. -/
def Sys2Proof.Claim.ShiftResults : Prop :=
  ∀ (x : IntOp) (n : Nat) (s : State) (h : Here) (ls : Table Thread), n = intWidth x →
    Issues s (shiftForm x) h ls →
    let v := intSource n x h
    let k (t : Thread) : Nat := (Src.int h.wave x.im t x.b).toNat
    IntWrites n (.shl x) x s h ls (fun t r => r = v t x.a <<< k t) ∧
    IntWrites n (.shr x) x s h ls (fun t r => r = v t x.a >>> k t) ∧
    IntWrites n (.sar x) x s h ls (fun t r => r = (v t x.a).sshiftRight (k t))

/-- R196: the bitwise instructions and BREV. -/
def Sys2Proof.Claim.BitwiseResults : Prop :=
  ∀ (x : IntOp) (n : Nat) (s : State) (h : Here) (ls : Table Thread), n = intWidth x →
    Issues s (intForm x) h ls →
    let v := intSource n x h
    IntWrites n (.and x) x s h ls (fun t r => r = v t x.a &&& v t x.b) ∧
    IntWrites n (.or x) x s h ls (fun t r => r = v t x.a ||| v t x.b) ∧
    IntWrites n (.xor x) x s h ls (fun t r => r = v t x.a ^^^ v t x.b) ∧
    IntWrites n (.not x) x s h ls (fun t r => r = ~~~(v t x.a)) ∧
    IntWrites n (.brev x) x s h ls (fun t r => r = (v t x.a).reverse)

/-- R196: POPC counts the 1 bits of the source and CLZ its leading zeros, and both write one register. -/
def Sys2Proof.Claim.BitCounts : Prop :=
  ∀ (x : IntOp) (n : Nat) (s : State) (h : Here) (ls : Table Thread), n = intWidth x →
    Issues s { intForm x with uses := (x.d.toNat, 1) :: Src.runW x.w x.a } h ls →
    let v := intSource n x h
    LaneWrites (.popc x) s h ls (lenOf x.im) false x.d (fun e r =>
      (r.setWidth 32).toNat = ((List.range n).filter fun i => (v e.2 x.a).getLsbD i).length) ∧
    LaneWrites (.clz x) s h ls (lenOf x.im) false x.d (fun e r =>
      let k := (r.setWidth 32).toNat
      k ≤ n ∧ (v e.2 x.a).toNat < 2 ^ (n - k) ∧ (k < n → 2 ^ (n - 1 - k) ≤ (v e.2 x.a).toNat))

/-- R197: bit i of the result of TERN is bit a[i] + 2 b[i] + 4 c[i] of the table. -/
def Sys2Proof.Claim.TernIsATable : Prop :=
  ∀ (x : TernOp) (s : State) (h : Here) (ls : Table Thread),
    Issues s { len := lenOf x.im, g := x.g, uses := (x.d.toNat, 1) :: runs [x.a, x.b, x.c] } h ls →
    LaneWrites (.tern x) s h ls (lenOf x.im) false x.d fun e r =>
      let v := Src.int h.wave x.im e.2
      ∀ i < 32, r.getLsbD i = x.tt.getLsbD
        (((v x.a).getLsbD i).toNat + 2 * ((v x.b).getLsbD i).toNat + 4 * ((v x.c).getLsbD i).toNat)

/-- R198: BFE takes the field that the control word names, zero- or sign-extended, and BFI replaces it. -/
def Sys2Proof.Claim.BitFields : Prop :=
  ∀ (x : IntOp) (n : Nat) (s : State) (h : Here) (ls : Table Thread), n = intWidth x →
    let v := intSource n x h
    let pos (k : Word) : Nat := min (k.extractLsb' 0 8).toNat n
    let len (k : Word) : Nat := min (k.extractLsb' 8 8).toNat (n - pos k)
    (Issues s (shiftForm x) h ls →
      IntWrites n (.bfe x) x s h ls fun t r =>
        let k := Src.int h.wave x.im t x.b
        (len k = 0 → r = 0) ∧
        (len k ≠ 0 → ∀ i < n, r.getLsbD i =
          if i < len k then (v t x.a).getLsbD (pos k + i)
          else !x.u && (v t x.a).getLsbD (pos k + len k - 1))) ∧
    (Issues s { intForm x with uses := (x.d.toNat, if x.w then 2 else 1) ::
        ([x.a, x.b].flatMap (Src.runW x.w) ++ Src.run 1 x.c) } h ls →
      IntWrites n (.bfi x) x s h ls fun t r =>
        let k := Src.int h.wave x.im t x.c
        ∀ i < n, r.getLsbD i =
          if pos k ≤ i ∧ i < pos k + len k then (v t x.b).getLsbD (i - pos k) else (v t x.a).getLsbD i)

/-- R196 to R198: counts of bits, the three-input table of TERN, and bit fields. -/
def Obligations.BitManipulation : Prop :=
  Claim.BitCounts ∧ Claim.TernIsATable ∧ Claim.BitFields

/-- R199, R200: MOV and MOVI write their source, LEA a shifted index added to a base, and SEL one of two
sources by a predicate. -/
def Sys2Proof.Claim.MoveResults : Prop :=
  (∀ (x : IntOp) (n : Nat) (s : State) (h : Here) (ls : Table Thread), n = intWidth x →
    Issues s (intForm x) h ls →
    IntWrites n (.mov x) x s h ls fun t r => r = intSource n x h t x.a) ∧
  (∀ (x : MoviOp) (s : State) (h : Here) (ls : Table Thread),
    Issues s { len := 16, g := x.g, uses := [(x.d.toNat, if x.w then 2 else 1)] } h ls →
    LaneWrites (.movi x) s h ls 16 x.w x.d fun _ r => r = x.imm.signExtend 64) ∧
  (∀ (x : Movi64Op) (s : State) (h : Here) (ls : Table Thread),
    Issues s { len := 16, g := x.g, uses := [(x.d.toNat, 2)] } h ls →
    LaneWrites (.movi64 x) s h ls 16 true x.d fun _ r => r = x.imm) ∧
  (∀ (x : LeaOp) (s : State) (h : Here) (ls : Table Thread),
    Issues s { len := lenOf x.im, g := x.g, uses :=
        (x.d.toNat, if x.w then 2 else 1) :: (Src.run 1 x.a ++ Src.runW x.w x.b) } h ls →
    LaneWrites (.lea x) s h ls (lenOf x.im) x.w x.d fun e r =>
      let a := Src.int h.wave x.im e.2 x.a
      let b := Src.wide x.w h.wave x.im e.2 x.b
      let y := (if x.u then a.setWidth 64 else a.signExtend 64) <<< x.sh.toNat + b
      r.setWidth (if x.w then 64 else 32) = y.setWidth (if x.w then 64 else 32)) ∧
  (∀ (x : SelOp) (s : State) (h : Here) (ls : Table Thread),
    Issues s { len := lenOf x.im, g := x.g, uses :=
        (x.d.toNat, if x.w then 2 else 1) :: [x.a, x.b].flatMap (Src.runW x.w) } h ls →
    LaneWrites (.sel x) s h ls (lenOf x.im) x.w x.d fun e r =>
      r = Src.wide x.w h.wave x.im e.2 (if e.2.pred x.pc.toNat ≠ x.pn then x.a else x.b))

/-- R196, R199, R200: shifts, bitwise instructions, BREV, and moves. -/
def Obligations.ShiftsMovesAndBitwise : Prop :=
  Claim.ShiftResults ∧ Claim.BitwiseResults ∧ Claim.MoveResults

/-! ### FP32, packed arithmetic and conversion (spec/08) -/

/-- R202: FADD, FMUL, FFMA and FDIV round the exact result once, in the mode TZ selects, and write no NaN but
0x7FC0_0000. -/
def Sys2Proof.Claim.FloatArithmetic : Prop :=
  ∀ (x : FOp) (s : State) (h : Here) (ls : Table Thread), Issues s (fForm x) h ls →
    let a (t : Thread) : Real' := f32 (fpSource x h t x.aa x.na x.a)
    let b (t : Thread) : Real' := f32 (fpSource x h t x.ab x.nb x.b)
    let c (t : Thread) : Real' := f32 (fpSource x h t false x.nc x.c)
    let rounded (z : Real') (y : Word) : Prop :=
      y = toF32 (if x.tz then .tz else .rne) z ∧ (z = .nan → y = 0x7FC00000#32)
    FpWrites (.fadd x) x s h ls (fun t y => rounded ((a t).add (b t)) y) ∧
    FpWrites (.fmul x) x s h ls (fun t y => rounded ((a t).mul (b t)) y) ∧
    FpWrites (.ffma x) x s h ls (fun t y => rounded (((a t).mul (b t)).add (c t)) y) ∧
    FpWrites (.fdiv x) x s h ls (fun t y => rounded ((a t).div (b t)) y)

/-- R203, R164: FMIN and FMAX write FMin and FMax of the modified sources: the smaller and the larger one, −0 below
+0; a NaN among them gives 0x7FC0_0000. -/
def Sys2Proof.Claim.FloatMinMax : Prop :=
  ∀ (x : FOp) (s : State) (h : Here) (ls : Table Thread), Issues s (fForm x) h ls →
    let a (t : Thread) : Word := fpSource x h t x.aa x.na x.a
    let b (t : Thread) : Word := fpSource x h t x.ab x.nb x.b
    let nans (t : Thread) : Bool := isNan32 (a t) || isNan32 (b t)
    let zeros (t : Thread) : Prop := a t = 0 ∧ b t = 0x80000000#32 ∨ a t = 0x80000000#32 ∧ b t = 0
    FpWrites (.fmin x) x s h ls (fun t y =>
      (nans t = true → y = 0x7FC00000#32) ∧ (zeros t → y = 0x80000000#32) ∧
      (nans t = false → (y = a t ∨ y = b t) ∧ fle32 y (a t) = true ∧ fle32 y (b t) = true)) ∧
    FpWrites (.fmax x) x s h ls (fun t y =>
      (nans t = true → y = 0x7FC00000#32) ∧ (zeros t → y = 0) ∧
      (nans t = false → (y = a t ∨ y = b t) ∧ fle32 (a t) y = true ∧ fle32 (b t) y = true))

/-- R204, R205: the single-source functions. On the inputs of R205's table the result is the table's, FRCP and
FSQRT round the exact result, FEXP2 of an integer from −149 to 127 is exact, of −150 and less +0 and of 128 and more
+∞, and FLOG2 of a power of two is exact. Elsewhere FRSQ, FEXP2, FLOG2, FSIN and FCOS lie within R204's bound of the
value that the model computes to 120 bits and more, or are that value rounded (log 6). -/
def Sys2Proof.Claim.SingleSourceFunctions : Prop :=
  ∀ (x : FOp) (s : State) (h : Here) (ls : Table Thread), Issues s (fForm x) h ls →
    let a (t : Thread) : Word := fpSource x h t x.aa x.na x.a
    let mode : Rounding := if x.tz then .tz else .rne
    let pinf := 0x7F800000#32
    let ninf := 0xFF800000#32
    let nan := 0x7FC00000#32
    let mzero := 0x80000000#32
    let one := 0x3F800000#32
    -- the rows +∞, −∞, +0, −0 of the table, and NaN
    let table (p m z mz : Word) (t : Thread) (y : Word) : Prop :=
      (isNan32 (a t) = true → y = nan) ∧ (a t = pinf → y = p) ∧ (a t = ninf → y = m) ∧
      (a t = 0 → y = z) ∧ (a t = mzero → y = mz)
    let below (t : Thread) : Prop := (a t).msb = true ∧ a t ≠ mzero
    let near (v bound : Real') (y : Word) : Prop :=
      (((f32 y).add v.neg).abs).le bound = true ∨ y = rne32 v
    FpWrites (.frcp x) x s h ls (fun t y =>
      y = toF32 mode ((f32 one).div (f32 (a t))) ∧ table 0 mzero pinf ninf t y) ∧
    FpWrites (.frsq x) x s h ls (fun t y => table 0 nan pinf ninf t y ∧ (below t → y = nan) ∧
      ∀ n d, f32 (a t) = .fin false n d → n ≠ 0 → near (sqrtReal d n) (ulps 1 (sqrtReal d n)) y) ∧
    FpWrites (.fsqrt x) x s h ls (fun t y =>
      y = toF32 mode (f32 (a t)).sqrt ∧ table pinf nan 0 mzero t y ∧ (below t → y = nan)) ∧
    FpWrites (.fexp2 x) x s h ls (fun t y => table pinf 0 one one t y ∧
      (∀ k : Int, (f32 (a t)).eq (.ofInt k) = true →
        (-149 ≤ k → k ≤ 127 → (f32 y).eq (pow2 k) = true) ∧ (k ≤ -150 → y = 0) ∧ (128 ≤ k → y = pinf)) ∧
      ∀ sg n d, f32 (a t) = .fin sg n d → n % d ≠ 0 → n / d < (if sg then 150 else 128) →
        near (exp2Real sg n d) (ulps 2 (exp2Real sg n d)) y) ∧
    FpWrites (.flog2 x) x s h ls (fun t y => table pinf nan ninf ninf t y ∧ (below t → y = nan) ∧
      (∀ k : Int, -149 ≤ k → k ≤ 127 → (f32 (a t)).eq (pow2 k) = true → (f32 y).eq (.ofInt k) = true) ∧
      ∀ n d, f32 (a t) = .fin false n d → n ≠ 0 →
        let e := Real'.log2 n d
        (pow2 e).eq (.fin false n d) = false →
        near (log2Real n d) (if e = 0 ∨ e = -1 then pow2 (-22) else ulps 2 (log2Real n d)) y) ∧
    FpWrites (.fsin x) x s h ls (fun t y => table nan nan 0 mzero t y ∧
      ∀ sg n d, f32 (a t) = .fin sg n d → n ≠ 0 → near (sinReal sg n d) (pow2 (-21)) y) ∧
    FpWrites (.fcos x) x s h ls (fun t y => table nan nan one one t y ∧
      ∀ sg n d, f32 (a t) = .fin sg n d → n ≠ 0 → near (cosReal sg n d) (pow2 (-21)) y)

/-- R202 to R205: FP32 arithmetic, FMIN, FMAX and the single-source functions. -/
def Obligations.FloatResults : Prop :=
  Claim.FloatArithmetic ∧ Claim.FloatMinMax ∧ Claim.SingleSourceFunctions

/-- R206: the packed instructions round the exact result of each half on its own. -/
def Sys2Proof.Claim.PackedArithmetic : Prop :=
  ∀ (x : PkOp) (s : State) (h : Here) (ls : Table Thread),
    Issues s { len := lenOf x.im, g := x.g, uses := (x.d.toNat, 1) :: runs [x.a, x.b, x.c] } h ls →
    let fm := if x.bf then fpBf16 else fpF16
    let mode : Rounding := if x.tz then .tz else .rne
    let half (t : Thread) (ng : Bool) (a : Src) (k : Nat) : Real' :=
      let y := fm.decode ((Src.packed fm h.wave x.im t a).extractLsb' (16 * k) 16).toNat
      if ng then y.neg else y
    let halves (i : Instr) (f : Real' → Real' → Real' → Real') : Prop :=
      LaneWrites i s h ls (lenOf x.im) false x.d fun e r => ∀ k < 2,
        (r.extractLsb' (16 * k) 16).toNat = fm.round mode
          (f (half e.2 x.na x.a k) (half e.2 x.nb x.b k) (half e.2 x.nc x.c k)) % 2 ^ 16
    halves (.pkadd x) (fun a b _ => a.add b) ∧ halves (.pkmul x) (fun a b _ => a.mul b) ∧
    halves (.pkfma x) (fun a b c => (a.mul b).add c)

/-- R207, R208: CVT writes its part of the destination, leaves the other bits of the register, and converts an
integer to an integer by saturating. -/
def Sys2Proof.Claim.Conversion : Prop :=
  ∀ (x : CvtOp) (s : State) (h : Here) (ls : Table Thread),
    Issues s { len := 8, g := x.g, uses :=
        (x.d.toNat, if cvtBits x.dt = 64 then 2 else 1) ::
        Src.run (if cvtBits x.st = 64 then 2 else 1) x.a } h ls →
    let m := cvtBits x.dt
    let at' := m * x.dp.toNat
    LaneWrites (.cvt x) s h ls 8 (m = 64) x.d fun e r =>
      let src := cvtSource x h.wave e.2
      let sv : Int :=
        if cvtSigned x.st && decide (2 ^ (cvtBits x.st - 1) ≤ src) then (src : Int) - 2 ^ cvtBits x.st else src
      let mode : Rounding := if x.tz then .tz else .rne
      let out : Nat := if m = 64 then r.toNat else (r.setWidth 32).toNat / 2 ^ at' % 2 ^ m
      (m ≠ 64 → at' + m ≤ 32 → ∀ i < 32, ¬ (at' ≤ i ∧ i < at' + m) → r.getLsbD i = (e.2.reg x.d.toNat).getLsbD i) ∧
      (at' + m ≤ 64 → (m = 64 ∨ at' + m ≤ 32) →
        match cvtFloat x.st, cvtFloat x.dt with
        | some f, some g => out = g.round mode (f.decode src) % 2 ^ m
        | none, some g => out = g.round mode (Real'.ofInt sv) % 2 ^ m
        | some f, none => (out : Int) = roundInt mode (if cvtSigned x.dt then -(2 ^ (m - 1)) else 0)
            (if cvtSigned x.dt then 2 ^ (m - 1) - 1 else 2 ^ m - 1) (f.decode src) % 2 ^ m
        | none, none => (out : Int) =
            (if cvtSigned x.dt then max (-(2 ^ (m - 1))) (min sv (2 ^ (m - 1) - 1)) else max 0 (min sv (2 ^ m - 1)))
              % 2 ^ m)

/-- R206 to R208: packed arithmetic and CVT. -/
def Obligations.PackedAndConverted : Prop :=
  Claim.PackedArithmetic ∧ Claim.Conversion

/-! ### Compares and predicates (spec/08) -/

/-- R209, R210: ICMP and FCMP write their condition, combined with a predicate as COMB says. -/
def Sys2Proof.Claim.Compares : Prop :=
  (∀ (x : IcmpOp) (s : State) (h : Here) (ls : Table Thread),
    Issues s { len := lenOf x.im, g := x.g, uses := [x.a, x.b].flatMap (Src.runW x.w) } h ls →
    LanePred (.icmp x) s h ls (lenOf x.im) x.pd fun t =>
      let n := if x.w then 64 else 32
      let a := (Src.wide x.w h.wave x.im t x.a).setWidth n
      let b := (Src.wide x.w h.wave x.im t x.b).setWidth n
      let lt (a b : BitVec n) : Bool := if x.u then a.ult b else a.slt b
      let r := match x.cond with
        | .eq => a == b
        | .ne => !(a == b)
        | .lt => lt a b
        | .le => !lt b a
        | .gt => lt b a
        | .ge => !lt a b
      let p := t.pred x.pc.toNat ^^ x.ncp
      match x.comb with
      | .none => r
      | .and => r && p
      | .or => r || p
      | .xor => r ^^ p) ∧
  (∀ (x : FcmpOp) (s : State) (h : Here) (ls : Table Thread),
    Issues s { len := lenOf x.im, g := x.g, uses := runs [x.a, x.b] } h ls →
    LanePred (.fcmp x) s h ls (lenOf x.im) x.pd fun t =>
      let a := Src.float h.wave x.im t x.a
      let b := Src.float h.wave x.im t x.b
      let n := isNan32 a || isNan32 b
      let r := match x.cond with
        | .eq => !n && feq32 a b
        | .ne => !n && !feq32 a b
        | .lt => !n && flt32 a b
        | .le => !n && !flt32 b a
        | .gt => !n && flt32 b a
        | .ge => !n && !flt32 a b
        | .num => !n
        | .nan => n
        | .equ => n || feq32 a b
        | .neu => n || !feq32 a b
        | .ltu => n || flt32 a b
        | .leu => n || !flt32 b a
        | .gtu => n || flt32 b a
        | .geu => n || !flt32 a b
      let p := t.pred x.pc.toNat ^^ x.ncp
      match x.comb with
      | .none => r
      | .and => r && p
      | .or => r || p
      | .xor => r ^^ p)

/-- R211, R212: the predicate instructions, and VOTE over the passing lanes of the wave. -/
def Sys2Proof.Claim.PredicateResults : Prop :=
  (∀ (x : PredOp) (s : State) (h : Here) (ls : Table Thread), Issues s { len := 8, g := x.g } h ls →
    let a (t : Thread) : Bool := t.pred x.pa.toNat ^^ x.na
    let b (t : Thread) : Bool := t.pred x.pb.toNat ^^ x.nb
    LanePred (.pand x) s h ls 8 x.pd (fun t => (a t && b t) ^^ x.nr) ∧
    LanePred (.por x) s h ls 8 x.pd (fun t => (a t || b t) ^^ x.nr) ∧
    LanePred (.pxor x) s h ls 8 x.pd (fun t => (a t ^^ b t) ^^ x.nr)) ∧
  (∀ (x : PnotOp) (s : State) (h : Here) (ls : Table Thread), Issues s { len := 8, g := x.g } h ls →
    LanePred (.pnot x) s h ls 8 x.pd fun t => !t.pred x.pa.toNat) ∧
  (∀ (x : PmovOp) (s : State) (h : Here) (ls : Table Thread), Issues s { len := 8, g := x.g } h ls →
    LanePred (.pmov x) s h ls 8 x.pd fun t =>
      match x.src with
      | .pred ng p => t.pred p.toNat ^^ ng
      | .const k => !(k == 0)) ∧
  (∀ (x : VoteOp) (s : State) (h : Here) (ls : Table Thread), Issues s { len := 8, g := x.g } h ls →
    let p (t : Thread) : Bool := t.pred x.pa.toNat ^^ x.na
    LanePred (.vote x) s h ls 8 x.pd fun _ =>
      match x.mode with
      | .all => ls.all fun e => p e.2
      | .any => ls.any fun e => p e.2
      | .same => ls.all fun e => ls.all fun d => p e.2 == p d.2
      | .none => ls.all fun e => !p e.2)

/-- R209 to R212: compares, predicate instructions and VOTE. -/
def Obligations.PredicatesAndCompares : Prop :=
  Claim.Compares ∧ Claim.PredicateResults

/-! ### Crew collectives (spec/08) -/

/-- R214, R218: XLANE, BALLOT and MATCH read every lane as it stood at issue. -/
def Sys2Proof.Claim.CrewExchange : Prop :=
  (∀ (x : XlaneOp) (s : State) (h : Here) (ls : Table Thread),
    CrewIssues s { len := lenOf x.im, g := x.g, uses :=
        (x.d.toNat, if x.w then 2 else 1) ::
        (Src.runW x.w x.a ++ Src.run 1 x.b ++ Src.runW x.w x.c) } h ls →
    LaneWrites (.xlane x) s h ls (lenOf x.im) x.w x.d fun e r =>
      let k : Nat := (Src.int h.wave x.im e.2 x.b).toNat
      let j : Int := match x.mode with
        | .from => k
        | .up => (e.1 : Int) - k
        | .down => (e.1 : Int) + k
        | .flip => (e.1 ^^^ k : Nat)
      (∀ u, 0 ≤ j → j < 32 → Table.get? h.wave.lanes j.toNat = some u →
        r = Src.wide x.w h.wave x.im u x.a) ∧
      (¬ (0 ≤ j ∧ j < 32) → r = Src.wide x.w h.wave x.im e.2 x.c)) ∧
  (∀ (x : BallotOp) (s : State) (h : Here) (ls : Table Thread),
    CrewIssues s { len := 8, g := x.g, uses := [(x.d.toNat, 1)] } h ls →
    LaneWrites (.ballot x) s h ls 8 false x.d fun _ r => ∀ i < 32,
      r.getLsbD i = h.wave.lanes.any fun u => u.1 = i && (u.2.pred x.pa.toNat ^^ x.na)) ∧
  (∀ (x : MatchOp) (s : State) (h : Here) (ls : Table Thread),
    CrewIssues s { len := 8, g := x.g, uses := (x.d.toNat, 1) :: Src.runW x.w x.a } h ls →
    LaneWrites (.matchx x) s h ls 8 false x.d fun e r => ∀ i < 32,
      r.getLsbD i = h.wave.lanes.any fun u =>
        u.1 = i && Src.wide x.w h.wave none u.2 x.a == Src.wide x.w h.wave none e.2 x.a)

/-- R215: BCAST writes a w-register of the wave and no register of a lane. -/
def Sys2Proof.Claim.Broadcast : Prop :=
  ∀ (x : BcastOp) (s : State) (h : Here) (ls : Table Thread) (l j : Nat) (t u : Thread),
    CrewIssues s { len := lenOf x.im, g := x.g, uses := runs [x.a] } h ls → ls.head? = some (l, t) →
    j = (Src.int h.wave x.im t x.b).toNat % 32 → Table.get? h.wave.lanes j = some u →
    exec (.bcast x) s =
      .next (s.doneLen h (h.wave.setReg x.wd.toNat (Src.int h.wave x.im u x.a)) (lenOf x.im))

/-- R216, R217, R172: REDX combines the lanes in a tree of five levels, SCANX in ascending order from lane 0; the
source of a floating-point operation is read as FP32. -/
def Sys2Proof.Claim.CrewReductions : Prop :=
  ∀ (x : RedxOp) (s : State) (h : Here) (ls : Table Thread),
    CrewIssues s { len := 8, g := x.g, uses := (x.d.toNat, 1) :: runs [x.a] } h ls →
    h.wave.lanes.map Prod.fst = List.range 32 →
    let fp : Prop := x.op = .fadd ∨ x.op = .fmin ∨ x.op = .fmax
    let v (l : Nat) : Word := listGet (h.wave.lanes.map fun e =>
      if fp then Src.float h.wave none e.2 x.a else Src.int h.wave none e.2 x.a) l 0
    let lv := treeLevel x.op
    let scan (l : Nat) : Word := ((List.range l).map fun i => v (i + 1)).foldl (redStep x.op) (v 0)
    let canon (y : Word) : Word :=
      if fp ∧ isNan32 y = true then 0x7FC00000#32 else y
    LaneWrites (.redx x) s h ls 8 false x.d
      (fun _ r => r.setWidth 32 = lv (lv (lv (lv (lv v)))) 0) ∧
    LaneWrites (.scanx x) s h ls 8 false x.d (fun e r => r.setWidth 32 =
      if x.ex then (if e.1 = 0 then redIdentity x.op else canon (scan (e.1 - 1))) else canon (scan e.1))

/-- R213 to R218: the collectives of a crew. -/
def Obligations.CrewCollectives : Prop :=
  Claim.CrewExchange ∧ Claim.Broadcast ∧ Claim.CrewReductions

/-! ### Memory accesses (spec/09, spec/05) -/

/-- R237, R5: a load's registers from its bytes, the byte at the lowest address least significant, and a narrow
value extended by its sign or by zeros. -/
def Sys2Proof.Claim.LoadedRegisters : Prop :=
  ∀ b : Fin 16 → Byte,
    let w (i : Nat) (hi : i < 4) : Word := b ⟨4 * i + 3, by omega⟩ ++ b ⟨4 * i + 2, by omega⟩ ++
      b ⟨4 * i + 1, by omega⟩ ++ b ⟨4 * i, by omega⟩
    let w0 := w 0 (by omega)
    let w1 := w 1 (by omega)
    let w2 := w 2 (by omega)
    let w3 := w 3 (by omega)
    let bs (n : Nat) : List Byte := (List.ofFn b).take n
    loadWords .w32 (bs 4) = [w0] ∧
    loadWords .n8 (bs 1) = [(b 0).setWidth 32] ∧ loadWords .i8 (bs 1) = [(b 0).signExtend 32] ∧
    loadWords .n16 (bs 2) = [(b 1 ++ b 0).setWidth 32] ∧
    loadWords .i16 (bs 2) = [(b 1 ++ b 0).signExtend 32] ∧
    loadWords .w64 (bs 8) = [w0, w1] ∧ loadWords .w128 (bs 16) = [w0, w1, w2, w3]

/-- R240 to R243, R94: a load whose accesses pass ends at the next slot, with the registers of each lane (LDW: of
the wave) written from the bytes it read, at once or under its flag; where its scratchpad accesses take several
passes, it takes the core's lane port. -/
def Sys2Proof.Claim.LoadsComplete : Prop :=
  ∀ (x : LdOp) (s s' : State) (h : Here) (ls : Table Thread) (accs : List Acc),
    let generic (e : Nat × Thread) : Req := genericReq x.im x.a x.b (sizeBytes x.sz) h e.1 e.2
    let scratch (e : Nat × Thread) : Req := scratchReq x.im x.a x.b (sizeBytes x.sz) h e.1 e.2
    (Issues s (ldForm x 2) h ls → Reads s h (ls.map generic) accs s' →
      LoadEnds (.ld x) s s' h ls (ldForm x 2) .plain x.d x.sz accs ∧
      LoadEnds (.ldStrong x) s s' h ls (ldForm x 2) (.strong x.scope) x.d x.sz accs) ∧
    (Issues s { ldForm x 1 with cluster := true } h ls → Reads s h (ls.map scratch) accs s' →
      LoadEnds (.lds x) s s' h ls { ldForm x 1 with cluster := true } .plain x.d x.sz accs) ∧
    (Issues s { len := lenOf x.im, g := x.g, sel := x.sel, uniform := true } h ls →
      Reads s h ((ls.take 1).map generic) accs s' →
      let late := s'.lateW h x.sel x.d.toNat x.sz accs
      let r := s'.loadAll h .plain (readNow late accs)
      exec (.ldw x) s = .next ((s'.loadReqs r.2.2 h .plain x.sel late accs).doneWrites h r.2.1 (lenOf x.im) x.sel ls
        (r.1.flatMap fun e =>
          let vs := loadWords x.sz e.2
          (natsFrom x.d.toNat vs.length).zip vs |>.map fun p => PWrite.w p.1 p.2) late (anyScr accs)
        (s'.stashLines accs)))

/-- R129 to R131, R103, R240: a load returns, byte by byte, what the lowest buffer of the thread's chain holds; where
none does, a plain load returns a value the order of D allows it, and a strong load the latest one; a plain load reads
each byte of D once, for every lane. -/
def Sys2Proof.Claim.LoadedValues : Prop :=
  ∀ (s : State) (h : Here) (k : LoadKind) (accs : List Acc), h.hand = none →
    let r := s.loadAll h k accs
    r.1.map Prod.fst = accs ∧
    ∀ e ∈ r.1, e.2.length = e.1.req.size ∧ ∀ i < e.1.req.size,
      let y : Byte := listGet e.2 i 0
      match e.1.spot with
      | .scr b => y = cellGet (s.core h.core).scratch (b + i)
      | .mem pa line =>
        match s.mem.chainFind (s.linksOf h e.1.req.t) .c (pa + i) with
        | some z => y = z.val
        | none =>
          match k with
          | .strong .s => y = if line = none ∧ isRemote (pa + i) = true then s.mem.atHome (pa + i) else s.mem.atD (pa + i)
          | .strong _ => y = s.mem.atD (pa + i)
          | .plain =>
            (y = s.mem.atD (pa + i) ∨ line = none ∧ s.stashStands (pa + i) = false ∧
              y ∈ (s.mem.choices s.tick e.1.req.t.uid (s.dataFloor h) e.1.req.t.view (pa + i)).map Choice.val) ∧
            ∀ e' ∈ r.1, ∀ i' < e'.1.req.size, ∀ pa', e'.1.spot = .mem pa' line → pa' + i' = pa + i →
              s.mem.chainFind (s.linksOf h e'.1.req.t) .c (pa' + i') = none → listGet e'.2 i' 0 = y

/-- R94 to R96: one pass of the lane port reads the scratchpad bytes of its words, each once for all lanes, or stores
them: a byte takes the value of the last access, in lane order, that holds it, and no other byte of the scratchpad
changes. The words of a pass stand in different banks. Said of accesses of the scratchpad part. -/
def Sys2Proof.Claim.LanePortPasses : Prop :=
  (∀ (s : State) (h : Here) (p : PortOp) (ws : List Nat) (rest : List (List Nat)), h.core < s.cores.length →
    h.hand = none → p.todo = ws :: rest → cellsWf (s.core h.core).scratch = true → (∀ a ∈ p.accs, a.pa = none) →
    (∀ a ∈ p.accs, (Table.get? h.wave.lanes a.lane).isSome = true) →
    let old (b : Nat) : Byte := cellGet (s.core h.core).scratch b
    ((∃ x d z, p.kind = .load x d z) ∨ (∃ d z pd, p.kind = .ldf d z pd) →
      ∃ q, s.passPort h p = .ok (s, q) ∧ q.todo = rest ∧ q.kind = p.kind ∧ q.accs = p.accs ∧
        (∀ g ∈ p.got, g ∈ q.got) ∧
        ∀ a ∈ p.accs, ∀ b ∈ a.within ws, ∃ g ∈ q.got, g.lane = none ∧ g.byte = b ∧ g.val = old b) ∧
    (p.kind = .store → (∀ a ∈ p.accs, a.data.length = a.size) →
      ∃ t, s.passPort h p = .ok (t, { p with todo := rest }) ∧ t.mem = s.mem ∧
        ∀ b, cellGet (t.core h.core).scratch b =
          match (p.accs.filter fun a => decide (b ∈ a.within ws)).getLast? with
          | some a => listGet a.data (b - a.byte) 0
          | none => old b)) ∧
  (∀ (l : List Acc) (ws : List Nat), ws ∈ portPasses l → ws.Pairwise fun x y => x < y ∧ x % 32 ≠ y % 32)

/-- R94, R237, R245, R252: an instruction on the lane port takes one pass in each cc after that of its issue, and ends
with its last: a load and an atomic write each lane's registers from what its passes have read, LDF those of the lanes
whose lines were full, and a store writes none. -/
def Sys2Proof.Claim.LanePortEnds : Prop :=
  (∀ (s t u : State) (core : Nat) (p q : PortOp) (w : Wave), (s.core core).port = some p →
    Table.get? (s.core core).waves p.slot = some w → w.park = .port →
    let clock := (s.cluster (clusterOf core)).clock
    let h : Here := { wave := w, core := core, slot := p.slot, hand := none }
    (clock ≤ p.since → s.tickPort core = s) ∧
    (p.since < clock → (w.lanes.any fun e => s.awaitsPage w.kid e.2.uid) = false → s.passPort h p = .ok (t, q) →
      t.walkLog h.via w.ctx w.kid = .ok u →
      (q.todo = [] → s.tickPort core = u.leavePort h q) ∧
      (q.todo ≠ [] → s.tickPort core = u.updCore core fun k => { k with port := some q }))) ∧
  (∀ (s : State) (h : Here) (p : PortOp),
    let free := s.updCore h.core fun k => { k with port := none }
    let w : Wave := { h.wave with park := .none }
    let ls := w.lanes.filter fun e => decide (e.1 ∈ p.lanes)
    let regs (d : Nat) (z : Size) (e : Nat × Thread) : List PWrite := vWrites e.2 d (loadWords z (p.bytesFor e.1))
    let stash := (p.accs.filter fun a => a.pa.isSome).map fun a => a.byte / 128
    let ends (t : State) (k : LoadKind) (accs : List PortAcc) (ws : List PWrite) (l : List Nat) : Prop :=
      s.leavePort h p = t.doneWrites { h with wave := w } (p.waveOf free h k accs w) p.len p.sel ls ws [] true l
    (p.kind = .store → s.leavePort h p = free.doneLen h w p.len) ∧
    (∀ d z, p.kind = .load none d z → ends free .plain p.accs (ls.flatMap (regs d z)) stash) ∧
    (∀ x d z, p.kind = .load (some x) d z → ends free (.strong x) p.accs (ls.flatMap (regs d z)) stash) ∧
    (∀ d z pd, p.kind = .ldf d z pd →
      let full (e : Nat × Thread) : Bool := p.accs.any fun a => a.lane = e.1 && p.full a
      ends free .plain (p.accs.filter p.full)
        ((ls.filter full).flatMap (regs d z) ++ ls.map fun e => PWrite.p e.2.uid pd (full e)) []) ∧
    (∀ op wide x, p.kind = .atom op wide x none → ends free .plain p.accs [] stash) ∧
    (∀ op wide x d, p.kind = .atom op wide x (some d) →
      ends (free.atomEvents h (p.accs.map fun a => (a.addr, natOf ((p.read a).map PortByte.val)))) .plain p.accs
        (ls.flatMap fun e => vWrites e.2 d (oldWords wide (natOf (p.bytesFor e.1)))) stash))

/-- R132, R177, R178: without a flag the results stand in the registers when the instruction ends, but for what a plain
load reads later; under a flag they are held, and the flag of each issuing lane counts one more pending operation. -/
def Sys2Proof.Claim.ResultsUnderAFlag : Prop :=
  ∀ (s : State) (h : Here) (w : Wave) (len : Nat) (sel : FlagSel) (ls : Table Thread) (ws : List PWrite)
      (late : List LateRead) (scr : Bool) (stash : List Nat),
    (h.wave.flagOf sel = none → late = [] →
      s.doneWrites h w len sel ls ws late scr stash = s.doneLen h (w.writes ws) len) ∧
    (h.wave.flagOf sel = none → late ≠ [] →
      ∃ op key, s.doneWrites h w len sel ls ws late scr stash =
        (s.updCore h.core fun c => { c with ops := Table.put c.ops key op }).doneLen h (w.writes ws) len ∧
        op.flag = none ∧ op.writes = [] ∧ op.late = late ∧ Table.get? (s.core h.core).ops key = none) ∧
    (∀ n, h.hand = none → h.wave.flagOf sel = some n →
      ∃ op key, s.doneWrites h w len sel ls ws late scr stash =
        (s.updCore h.core fun c => { c with ops := Table.put c.ops key op }).doneLen h
          (w.updLanes ls fun _ t => t.flagUp n) len ∧
        op.flag = some n ∧ op.writes = ws ∧ op.late = late ∧ op.uids = ls.map (fun e => e.2.uid) ∧
        Table.get? (s.core h.core).ops key = none ∧
        ∀ t : Thread, (t.flagUp n).flagCount n = t.flagCount n + 1)

/-- R94, R129 to R132, R177, R178, R237, R240 to R243: what loads return, and how they complete.
Rests on choices of the model: logs 5, 8, 99 and 120. -/
def Obligations.Loads : Prop :=
  Claim.LoadedRegisters ∧ Claim.LoadsComplete ∧ Claim.LoadedValues ∧ Claim.LanePortPasses ∧ Claim.LanePortEnds ∧
  Claim.ResultsUnderAFlag

/-- R244, R245, R94: LDT and STT on a ready tile complete as LDS and STS do, and LDF completes whatever the state of
its lines, reading the lanes whose lines were full when the cc began and saying in a predicate which they are; in
several passes it takes the lane port. -/
def Sys2Proof.Claim.TileAccessesComplete : Prop :=
  (∀ (x : LdtOp) (s s' : State) (h : Here) (ls : Table Thread) (accs : List Acc),
    Issues s { len := lenOf x.im, g := x.g, sel := x.sel, cluster := true, uses :=
          (x.d.toNat, sizeRegs (tsize x.sz)) :: Src.run 1 x.a } h ls →
    TileReady s h ls x.tile.toNat x.im x.a x.b (sizeBytes (tsize x.sz)) .read accs s' →
    poisonHit s' h accs = none →
    LoadEnds (.ldt x) s s' h ls { len := lenOf x.im, g := x.g, sel := x.sel, cluster := true, uses :=
        (x.d.toNat, sizeRegs (tsize x.sz)) :: Src.run 1 x.a } .plain x.d (tsize x.sz) accs) ∧
  (∀ (x : SttOp) (s s' : State) (h : Here) (ls : Table Thread) (accs : List Acc),
    let f : Form := { len := lenOf x.im, g := x.g, cluster := true,
                      uses := Src.run 1 x.a ++ Src.run (sizeRegs (tsize x.sz)) x.c }
    Issues s f h ls →
    TileReady s h ls x.tile.toNat x.im x.a x.b (sizeBytes (tsize x.sz)) .write accs s' →
    StoreEnds (.stt x) s s' h f .b
      (accs.map fun a => { hit := a, bytes := storeBytes (tsize x.sz) h.wave x.im a.req.t x.c })) ∧
  (∀ (x : LdfOp) (s s' : State) (h : Here) (ls : Table Thread) (accs : List Acc),
    let f : Form := { len := lenOf x.im, g := x.g, sel := x.sel, cluster := true,
                      uses := (x.d.toNat, sizeRegs x.sz) :: Src.run 1 x.a }
    Issues s f h ls →
    Passes s h (ls.map fun e => scratchReq x.im x.a x.b (sizeBytes x.sz) h e.1 e.2) .read true accs s' →
    let full (a : Acc) : Bool := s'.wasFull h a
    let r := s'.loadAll h .plain (accs.filter full)
    (onePass accs = true → exec (.ldf x) s = .next (r.2.2.doneWrites h r.2.1 f.len f.sel ls
      ((r.1.flatMap fun e => vWrites e.1.req.t x.d.toNat (loadWords x.sz e.2)) ++
        accs.map fun a => PWrite.p a.req.t.uid x.pd.toNat (full a)) [] true)) ∧
    (onePass accs = false → exec (.ldf x) s = .next
      (s'.takePort h f (.ldf x.d.toNat x.sz x.pd.toNat) h.wave ls (accs.map fun a => (a, [])) [])))

/-- R246 to R249, R132: a store whose accesses pass ends at the next slot, its arrivals made, where they fit the
buffers, or still to come; one through the stash window is placed at B; SETE, once every earlier scratchpad access of the wave has completed, leaves its lines
empty, and PREF changes nothing but the PC. -/
def Sys2Proof.Claim.StoresComplete : Prop :=
  (∀ (x : StOp) (s s' : State) (h : Here) (ls : Table Thread) (accs : List Acc),
    let puts : List Put := accs.map fun a =>
      { hit := a, bytes := storeBytes x.sz h.wave x.im a.req.t x.c, window := a.req.window }
    let f : Form := { len := lenOf x.im, g := x.g, uses := Src.run 2 x.a ++ Src.run (sizeRegs x.sz) x.c }
    let fs : Form := { len := lenOf x.im, g := x.g, cluster := true,
                       uses := Src.run 1 x.a ++ Src.run (sizeRegs x.sz) x.c }
    (Issues s f h ls →
      Passes s h (ls.map fun e => genericReq x.im x.a x.b (sizeBytes x.sz) h e.1 e.2) .write false accs s' →
      StoreEnds (.st x) s s' h f x.scope puts) ∧
    (Issues s fs h ls →
      Passes s h (ls.map fun e => scratchReq x.im x.a x.b (sizeBytes x.sz) h e.1 e.2) .write false accs s' →
      StoreEnds (.sts x) s s' h fs .b puts)) ∧
  (∀ (x : SeteOp) (s s' : State) (h : Here) (ls : Table Thread) (accs : List Acc),
    Issues s { len := lenOf x.im, g := x.g, cluster := true, uses := Src.run 1 x.a } h ls →
    Passes s h (ls.map fun e => scratchReq x.im x.a x.b 1 h e.1 e.2) .read false accs s' →
    s'.scratchBusy h = false →
    ∃ lines, exec (.sete x) s = .next ((s'.setLines h.core 5 true lines).doneLen h h.wave (lenOf x.im)) ∧
      (∀ n, n ∈ lines ↔ ∃ a ∈ accs, ∃ b, a.spot = .scr b ∧ n = b / 128) ∧
      (h.core < s'.cores.length → (∀ e ∈ s'.cc.lines, e.row ≤ 5) →
        ∀ n ∈ lines, n ∈ ((s'.setLines h.core 5 true lines).core h.core).empty)) ∧
  (∀ (x : PrefOp) (s : State) (h : Here) (ls : Table Thread),
    Issues s { len := lenOf x.im, g := x.g, uses := Src.run 2 x.a } h ls →
    exec (.pref x) s = .next (s.doneLen h h.wave (lenOf x.im)))

/-- R120 to R122: where one lane's store stands once it has arrived. A scratchpad store changes its own bytes of the
core's scratchpad; a store at scope D or S is at D; one at C, B or G changes no byte at D, stands in the buffer of its
level, and the storer's next load of its bytes returns it. -/
def Sys2Proof.Claim.StoresReachTheirLevel : Prop :=
  ∀ (s s' : State) (h : Here) (x : Level) (p : Put), h.hand = none →
    storeOne s h x [] [] p = .ok s' → s.mem.wf = true → cellsWf (s.core h.core).scratch = true →
    let y : Level := if p.window then .b else x
    match p.hit.spot with
    | .scr b =>
      s'.mem = s.mem ∧
      (h.core < s.cores.length → ∀ a, cellGet (s'.core h.core).scratch a =
        if b ≤ a ∧ a < b + p.bytes.length then listGet p.bytes (a - b) 0
        else cellGet (s.core h.core).scratch a)
    | .mem pa _ =>
      (∀ a, s'.mem.atD a =
        if (y = .d ∨ y = .s) ∧ pa ≤ a ∧ a < pa + p.bytes.length then listGet p.bytes (a - pa) 0
        else s.mem.atD a) ∧
      (y = .c ∨ y = .b ∨ y = .g → ∀ i < p.bytes.length,
        let found (l : Level) : Option Byte :=
          (s'.mem.chainFind (s'.linksOf h p.hit.req.t) l (pa + i)).map BufByte.val
        found y = some (listGet p.bytes i 0) ∧ found .c = some (listGet p.bytes i 0))

/-- R120 to R122, R132, R244 to R249: stores and tile accesses, and where a store arrives.
Rests on choices of the model: logs 8 and 120. -/
def Obligations.Stores : Prop :=
  Claim.TileAccessesComplete ∧ Claim.StoresComplete ∧ Claim.StoresReachTheirLevel

/-- R251: what an atomic stores, as words of 32 or 64 bits. -/
def Sys2Proof.Claim.AtomicOperations : Prop :=
  ∀ (n : Nat), (n = 32 ∨ n = 64) → ∀ m x : BitVec n,
    let is (op : AtomOp) (y : BitVec n) : Prop := atomOp op n m.toNat x.toNat = y.toNat
    is .add (m + x) ∧ is .and (m &&& x) ∧ is .or (m ||| x) ∧ is .xor (m ^^^ x) ∧ is .xchg x ∧
    is .min (if x.slt m then x else m) ∧ is .max (if m.slt x then x else m) ∧
    is .minu (if x.ult m then x else m) ∧ is .maxu (if m.ult x then x else m) ∧
    (n = 32 → is .fadd ((fadd32 (m.setWidth 32) (x.setWidth 32)).setWidth n) ∧
      is .fmax ((fmax32 (m.setWidth 32) (x.setWidth 32)).setWidth n))

/-- R250 to R254, R94, R469: an atomic whose accesses pass and whose arrivals fit the buffers: the lanes take their turns
in ascending order, each on the value the one before it left, ATOM and AMAXSWP write each lane's old value, RED writes
no register, and of the threads nothing else changes but the releases they have seen; where its scratchpad accesses take
several passes, those elsewhere are made and it takes the lane port. -/
def Sys2Proof.Claim.AtomicsComplete : Prop :=
  ∀ (f : Form) (sc : AScope) (im : Option Word) (a b : Src) (y : AtomKind) (i : Instr) (s s' : State) (h : Here)
    (ls : Table Thread) (accs : List Acc) (r q : AtomOut), AtomicIs i f sc im a b y →
    let n := if y.wide then 8 else 4
    let req (e : Nat × Thread) : Req :=
      if sc = .sp then scratchReq im a b n h e.1 e.2 else genericReq im a b n h e.1 e.2
    let x : Level := match sc with
      | .sp => .b
      | .lvl x => x
    let step : AtomStep := fun t m => atomApply y.op y.wide (y.data h.wave im t) m
    Issues s { f with cluster := decide (sc = .sp) } h ls →
    Passes s h (ls.map req) .write true accs s' → poisonHit s' h accs = none →
    atomLanes accs s' h x step = .ok r → atomLanes (offPort accs) s' h x step = .ok q →
    let events (s : State) (l : List (Acc × Nat)) : State :=
      if h.hand.isSome || y.d.isNone then s
      else l.foldl (fun s e => s.event h.wave.ctx (clusterOf h.core) 2 [h.wave.pc.toNat, e.1.req.addr, e.2] 0 0) s
    let saw (o : AtomOut) : Wave := o.reads.foldl (fun w e => w.updLanes [(e.1.req.lane, e.1.req.t)] fun _ t =>
      { t with seen := e.2.foldl (fun l b => addMarks l b.marks) t.seen }) h.wave
    r.olds.map Prod.fst = accs ∧ r.reads.map Prod.fst = accs ∧
    (onePass accs = true → exec i s = .next
      ((events ((settleCopies r.s h x r.wrote).reachAtoms h x accs) r.olds).doneWrites h (saw r) f.len f.sel ls
        (r.olds.flatMap fun e => match y.d with
          | some d => vWrites e.1.req.t d (oldWords y.wide e.2)
          | none => []) [] (anyScr accs) (s'.stashLines accs))) ∧
    (onePass accs = false → exec i s = .next
      ((events ((settleCopies q.s h x q.wrote).reachAtoms h x (offPort accs)) q.olds).takePort h f
        (.atom y.op y.wide x y.d) (saw q) ls (accs.map fun z => (z, y.data h.wave im z.req.t))
        (q.olds.map fun e => (e.1.req.lane, bytesOf e.1.req.size e.2))))

/-- R250 to R254: the atomics.
Rests on choices of the model: logs 8 and 52. -/
def Obligations.Atomics : Prop :=
  Claim.AtomicOperations ∧ Claim.AtomicsComplete

/-- R255 to R257, R123, R126, R133: CMT, once every earlier load and placed store of the lanes is performed, performs the
steps of the lanes' parties in order, where the steps of all of them together find room, and, checked, says in a
predicate which lanes' steps conflicted; a handler's CMT releases at each level and at S sends home what D holds
modified (log 57); ABT discards the buffer of its level of each lane's party, of a crew's one party, and of every ray of
a crew at C (log 49), and no other buffer and nothing at D. -/
def Sys2Proof.Claim.CommitsComplete : Prop :=
  (∀ (x : CmtOp) (s s1 : State) (h : Here) (ls ts : Table Thread) (bad : List Nat),
    Issues s { len := 8, g := x.g, orders := true } h ls → h.hand = none →
    (∃ u, commitAll (partiesOf h ls) s h x.lvl false = .ok u) →
    commitAll (partiesOf h ls) s h x.lvl x.chk.isSome = .ok (s1, ts, bad) →
    exec (.cmt x) s = .next (s1.doneLen h (ts.foldl (fun w e =>
      w.setLane e.1 (match x.chk with
        | some p => e.2.setPred p.toNat (decide (e.1 ∈ bad))
        | none => e.2)) h.wave) 8) ∧
    (x.chk = none → bad = [])) ∧
  (∀ (x : AbtOp) (s : State) (h : Here) (ls : Table Thread),
    Issues s { len := 8, g := x.g } h ls → h.hand = none →
    let drops (l : List Links) : Prop := exec (.abt x) s = .next (State.doneLen { s with
      mem := l.foldl (fun m k => m.abort k x.lvl) s.mem } h h.wave 8)
    (h.wave.crew = none → drops (ls.map fun e => s.linksOf h e.2)) ∧
    ∀ e, h.wave.crew.isSome = true → ls.head? = some e →
      drops (s.linksOf h e.2 :: if x.lvl = .c then s.mates h e else [])) ∧
  (∀ (m : Memory) (k : Links) (x : Level) (p : Party),
    let t := m.abort k x
    let gone := x = .c ∧ p = k.c.party ∨ x = .b ∧ (∃ b, k.b = some b ∧ p = b.party) ∨ x = .g ∧ p = k.g.party
    (gone → t.bytesOf p = []) ∧ (¬ gone → t.bytesOf p = m.bytesOf p) ∧ ∀ a, t.atD a = m.atD a) ∧
  (∀ (x : CmtOp) (y : AbtOp) (s : State) (h : Here) (ls : Table Thread) (f : Nat), h.hand = some f →
    (Issues s { len := 8, g := x.g, orders := true } h ls →
      let w := h.wave.updLanes ls fun _ t =>
        let t1 := s.releases h t (commitScopes x.lvl)
        match x.chk with
        | some p => t1.setPred p.toNat false
        | none => t1
      exec (.cmt x) s = .next (State.doneLen { s with
        mem := if x.lvl = .s then s.mem.sendHome else s.mem } h w 8) ∧
      ∀ e ∈ w.lanes, (∃ u ∈ ls, u.1 = e.1) → ∀ y ∈ commitScopes x.lvl, ∃ k ∈ e.2.rel, k.scope = y) ∧
    (Issues s { len := 8, g := y.g } h ls → exec (.abt y) s = .next (s.doneLen h h.wave 8)))

/-- R132 to R135, R87, R258: FENCE.ACQ raises the lanes' views by the releases they have seen, FENCE.REL marks their
later arrivals, FENCE.SC does both in each lane in turn, its view raised by every earlier SC fence whose scope and its own
take each other in, and FENCE.AS, once the lanes' stores have reached D and the traversal runs in progress at its issue
have stopped, does both and invalidates what runs read through, the treelet copies and the copies in the data ways; until
then its wave waits. But for FENCE.ACQ, each first waits until every earlier load and placed store of its lanes is
performed. -/
def Sys2Proof.Claim.FencesComplete : Prop :=
  (∀ (x : FenceOp) (s : State) (h : Here) (ls : Table Thread),
    Issues s { len := 8, g := x.g, orders := x.kind != .acq } h ls →
    (x.kind = .acq → EndsWith (.fence x) s h ls 8 fun _ t =>
      { t with view := acquireView t.view (s.linksOf h t).chain x.scope t.seen }) ∧
    (x.kind = .rel → EndsWith (.fence x) s h ls 8 fun _ t => t.release (s.markOf h t x.scope)) ∧
    (x.kind = .sc →
      let r := ls.foldl (fun r e => State.scFence r.1 h e.1 e.2 x.scope r.2) (s, h.wave)
      exec (.fence x) s = .next (r.1.doneLen h r.2 8) ∧ r.1.mem.sc.length = s.mem.sc.length + ls.length ∧
      r.1.mem.cells = s.mem.cells ∧ r.1.mem.bufs = s.mem.bufs) ∧
    (x.kind = .as →
      let ready := s.fenceRuns h = [] ∧ ∀ e ∈ ls, s.ownBuffered h e.2 = false
      let w := h.wave.updLanes ls fun _ t =>
        let u := { t with view := acquireView t.view (s.linksOf h t).chain x.scope t.seen }
        u.release (s.markOf h u x.scope)
      (ready → exec (.fence x) s = .next (State.doneLen { s with
        clusters := s.clusters.map fun c => { c with treelets := [] } } h { w with park := .none } 8)) ∧
      (¬ ready → exec (.fence x) s = .next (s.putWave h { h.wave with park := .fence (s.fenceRuns h) })))) ∧
  -- one lane of FENCE.SC
  (∀ (s : State) (h : Here) (l : Nat) (t : Thread) (x : Level) (w : Wave),
    let k := (s.linksOf h t).chain
    ∃ v : View, s.scFence h l t x w =
        ({ s with mem := { s.mem with sc := s.mem.sc ++ [{ who := k, scope := x, view := s.mem.ownView t.uid v }] } },
          w.setLane l (({ t with view := v } : Thread).release (s.markOf h { t with view := v } x))) ∧
      ∀ a, (acquireView t.view k x t.seen).at a ≤ v.at a ∧
        ∀ f ∈ s.mem.sc, scopeHas f.scope f.who k = true → scopeHas x k f.who = true → f.view.at a ≤ v.at a)

/-- R87, R123, R126, R132 to R135, R255 to R258: commits, aborts and fences.
Rests on choices of the model: logs 49, 57 and 88. -/
def Obligations.CommitsAndFences : Prop :=
  Claim.CommitsComplete ∧ Claim.FencesComplete

/-! ### Barriers and groups (spec/02, spec/09) -/

/-- R261: BAR and ARRIVE of a wave with one passing lane. Of a member with no pending arrival the arrival is counted,
BAR stops the lane and ARRIVE leaves a pending arrival; with an arrival pending in the current phase, BAR stops without
a new one and ARRIVE does nothing; with one of a completed phase, BAR acquires for that phase and goes on; a thread
that is no member goes on. -/
def Sys2Proof.Claim.BarrierArrival : Prop :=
  ∀ (x : BarOp) (s : State) (h : Here) (l : Nat) (t : Thread) (b : Block),
    Issues s { len := 8, g := x.g, cluster := true, orders := true } h [(l, t)] → BarrierHere s h [(l, t)] x →
    x.bind = none → s.blockOf t = some b →
    let n := x.n.toNat
    let y := s.barrier b x.gang n
    let pc := h.wave.after 8
    (b.member t.uid y.group = true → t.pending x.gang n = none →
      let r := s.arrive h t b x.gang n
      exec (.bar x) s = .next (r.1.done h (h.wave.setLane l
        { r.2 with st := .stopped x.gang n y.phase, pc := pc }) pc) ∧
      exec (.arrive x) s = .next (r.1.done h (h.wave.setLane l
        { r.2 with pend := r.2.pend ++ [{ gang := x.gang, n := n, phase := y.phase }] }) pc)) ∧
    (b.member t.uid y.group = true → ∀ p, t.pending x.gang n = some p →
      (p.phase = y.phase →
        exec (.bar x) s = .next (s.done h (h.wave.setLane l
          { t.dropPending x.gang n with st := .stopped x.gang n y.phase, pc := pc }) pc) ∧
        exec (.arrive x) s = .next (s.done h h.wave pc)) ∧
      (p.phase ≠ y.phase →
        exec (.bar x) s = .next (s.done h (h.wave.setLane l
          (s.phaseView h.core x.gang ((Table.get? y.past p.phase).getD View.zero) (t.dropPending x.gang n))) pc) ∧
        let r := s.arrive h (t.dropPending x.gang n) b x.gang n
        exec (.arrive x) s = .next (r.1.done h (h.wave.setLane l
          { r.2 with pend := r.2.pend ++ [{ gang := x.gang, n := n, phase := y.phase }] }) pc))) ∧
    (b.member t.uid y.group = false →
      exec (.bar x) s = .next (s.done h h.wave pc) ∧ exec (.arrive x) s = .next (s.done h h.wave pc))

/-- R262: the phase of a barrier completes when every member has arrived and the batches they sealed have
completed; its count then advances modulo 2^32 and its arrivals return to zero. Until then it stands as it is. An
arrival is counted once, with the arriver's release and the batches it has sealed by its last arrival. -/
def Sys2Proof.Claim.BarrierPhase : Prop :=
  ∀ (s : State) (b : Block) (gang : Bool) (n : Nat),
    let x := s.barrier b gang n
    let bs := s.barBlocks b gang
    let full := x.arrived ≠ [] ∧ membership bs x.group ≤ x.arrived.length ∧ s.batchesDone bs x.arrived = true
    (¬ full → s.judgeBar b gang n = s) ∧
    (full → (if gang then (Table.get? s.gangs b.gangUid).isSome else (Table.get? s.blocks b.uid).isSome) = true →
      let y := (s.judgeBar b gang n).barrier b gang n
      y.phase = (x.phase + 1) % 2 ^ 32 ∧ y.arrived = [] ∧ y.group = x.group ∧
      (Table.get? y.past x.phase).isSome = true) ∧
    ∀ (h : Here) (t : Thread),
      (if gang then (Table.get? s.gangs b.gangUid).isSome else (Table.get? s.blocks b.uid).isSome) = true →
      let r := s.arrive h t b gang n
      let y := r.1.barrier b gang n
      y.arrived = (x.arrived.filter fun a => a.uid != t.uid) ++
        [{ uid := t.uid, episode := t.episode, batch := t.batch }] ∧
      y.phase = x.phase ∧ s.markOf h t (if gang then .g else .b) ∈ y.marks ∧
      r.2 = t.release (s.markOf h t (if gang then .g else .b))

/-- R42, R263: JOIN sets the group's bit of each lane's thread, and LEAVE clears it and withdraws the thread's
arrivals at the barriers of the group. -/
def Sys2Proof.Claim.GroupMembership : Prop :=
  ∀ (x : GroupOp) (s : State) (h : Here) (l : Nat) (t : Thread) (b : Block),
    Issues s { len := 8, g := x.g, cluster := true } h [(l, t)] → x.grp ≠ 0 → s.blockOf t = some b →
    let bit : BitVec 16 := BitVec.ofNat 16 (2 ^ x.grp.toNat)
    let m := Table.getD b.live t.uid 0
    exec (.join x) s = .next ((s.updBlock b.uid fun b' =>
      { b' with live := Table.put b'.live t.uid (m ||| bit) }).doneLen h h.wave 8) ∧
    (m.getLsbD x.grp.toNat = false → exec (.leave x) s = .next (s.doneLen h h.wave 8)) ∧
    (m.getLsbD x.grp.toNat = true →
      let s1 := s.updBlock b.uid fun b' => { b' with live := Table.put b'.live t.uid (m &&& ~~~bit) }
      ∃ ps : List PendArr, exec (.leave x) s = .next ((s1.withdraw b t.uid
          fun q => decide (q = x.grp.toNat)).doneLen h (h.wave.setLane l { t with pend := ps }) 8) ∧
        ∀ p ∈ t.pend, p ∈ ps ↔
          ¬ ((s1.barrier b p.gang p.n).group = x.grp.toNat ∧ p.phase = (s1.barrier b p.gang p.n).phase))

/-- R42, R259 to R263: barriers and groups. -/
def Obligations.Barriers : Prop :=
  Claim.BarrierArrival ∧ Claim.BarrierPhase ∧ Claim.GroupMembership

/-! ### Control (spec/08, spec/02) -/

/-- R82, R220, R224, R225, R235: NOP goes on at the next slot, BRA at its target, CALL at its target with the return
address in each lane's pair and one call more, and JMPI and RET where the lanes agree at their common target, RET
with one call fewer; where they do not agree, JMPI goes on at the lowest lane's target, and the lanes apart from it
leave for basins at theirs. A RET at depth 0 in a closest-hit or miss episode ends it: those lanes' records are filed at
their return PCs, and the other lanes jump. -/
def Obligations.BranchesComplete : Prop :=
  (∀ (x : NullOp) (s : State) (h : Here) (ls : Table Thread), Issues s (plainForm x.g) h ls →
    exec (.nop x) s = .next (s.done h h.wave (h.wave.pc + 8))) ∧
  (∀ (x : BraOp) (s : State) (h : Here) (ls : Table Thread),
    Issues s { len := 16, g := x.g, uniform := true, final := true } h ls →
    exec (.bra x) s = .next (s.done h h.wave (BitVec.ofInt 52 (h.wave.pc.toNat + 8 * x.off.toInt)))) ∧
  (∀ (x : CallOp) (s : State) (h : Here) (ls : Table Thread),
    Issues s { len := 16, g := x.g, uniform := true, final := true, uses := [(x.d.toNat, 2)] } h ls →
    (∀ e ∈ ls, e.2.depth ≠ 255) →
    exec (.call x) s = .next (s.done h
      (h.wave.updLanes ls fun _ t =>
        { t.setPair x.d.toNat ((h.wave.pc + 16).setWidth 64) with depth := t.depth + 1 })
      (BitVec.ofInt 52 (h.wave.pc.toNat + 8 * x.off.toInt)))) ∧
  (∀ (x : JumpOp) (s : State) (h : Here) (ls : Table Thread) (p : Pc),
    Issues s { len := 8, g := x.g, uniform := true, final := true, uses := Src.run 2 x.a } h ls →
    (∀ e ∈ ls, Src.int64 h.wave none e.2 x.a = p.setWidth 64) →
    ∃ w : Wave, exec (.jmpi x) s = .next (s.done h w p) ∧ w.lanes = h.wave.lanes) ∧
  (∀ (x : JumpOp) (s : State) (h : Here) (ls : Table Thread) (p : Pc),
    Issues s { len := 8, g := x.g, uniform := true, final := true, orders := true, uses := Src.run 2 x.a } h ls →
    (∀ e ∈ ls, Src.int64 h.wave none e.2 x.a = p.setWidth 64) →
    (∀ e ∈ ls, e.2.depth ≠ 0 ∨ (e.2.ray.map RayPart.ep).getD .plain = .plain) →
    ∃ w : Wave, exec (.ret x) s = .next (s.done h w p) ∧ w.lanes = (h.wave.updLanes ls fun _ t =>
      { t with depth := if t.depth = 0 then 0 else t.depth - 1 }).lanes) ∧
  (∀ (x : JumpOp) (s s1 : State) (h : Here) (ls : Table Thread) (w : Wave),
    Issues s { len := 8, g := x.g, uniform := true, final := true, orders := true, uses := Src.run 2 x.a } h ls →
    let ep (t : Thread) : Episode := (t.ray.map RayPart.ep).getD .plain
    (∀ e ∈ ls, e.2.depth = 0 → ep e.2 ≠ .anyHit ∧ ep e.2 ≠ .isect) →
    let ends := ls.filter fun e => decide (e.2.depth = 0 ∧ (ep e.2 = .closest ∨ ep e.2 = .miss))
    let go := ls.filter fun e => !(ends.any fun x => decide (x.1 = e.1))
    ends ≠ [] → s.jumpStop h go x.a = none → flagsClear ends = true → s.crewBusy h = false →
    s.noRoom h ends.length = false → s.endCallouts h ends = .ok (s1, w) →
    exec (.ret x) s = .next (s1.jumpGo { h with wave := w } go x.a fun t =>
      { t with depth := if t.depth = 0 then 0 else t.depth - 1 })) ∧
  (∀ (x : JumpOp) (s : State) (h : Here) (ls : Table Thread) (l : Nat) (t : Thread),
    Issues s { len := 8, g := x.g, uniform := true, final := true, uses := Src.run 2 x.a } h ls →
    ls.head? = some (l, t) → h.wave.crew = none →
    let tgt (u : Thread) : Pc := (Src.int64 h.wave none u x.a).setWidth 52
    let apart := ls.filter fun e => tgt e.2 != tgt t
    (∀ e ∈ ls, (Src.int64 h.wave none e.2 x.a).toNat < 2 ^ 52) → apart ≠ [] →
    s.basinsFor h.core (apart.map fun e => (e.2, tgt e.2)) = true →
    ∃ w : Wave, exec (.jmpi x) s = .next (s.done h w (tgt t)) ∧
      ∀ n u, Table.get? h.wave.lanes n = some u → ∃ u', Table.get? w.lanes n = some u' ∧
        ((∃ e ∈ apart, e.1 = n) → u' = { u with st := .leaving (tgt u) none }) ∧
        ((∀ e ∈ apart, e.1 ≠ n) → u' = u))

/-- R221, R30, R31, R36: BRD of a core's wave enrols its lanes; it goes on whole where they agree, puts the other
side on the mask stack in a crew, and outside a crew divides the wave, the larger group going on. -/
def Sys2Proof.Claim.DivergentBranch : Prop :=
  ∀ (x : BrdOp) (s : State) (h : Here) (ls : Table Thread),
    Issues s { len := 16, g := .always, final := true } h ls → h.hand = none →
    let taken (e : Nat × Thread) : Bool := e.2.pred x.pa.toNat ^^ x.neg
    let tgt := BitVec.ofInt 52 (h.wave.pc.toNat + 8 * x.off.toInt)
    let fall := h.wave.pc + 16
    let yes := ls.filter taken
    let no := ls.filter fun e => !taken e
    let s1 := ls.foldl (fun s e => s.enrol h.core e.2 x.j.toNat) s
    (no = [] → exec (.brd x) s = .next (s1.done h h.wave tgt)) ∧
    (no ≠ [] → yes = [] → exec (.brd x) s = .next (s1.done h h.wave fall)) ∧
    (no ≠ [] → yes ≠ [] → h.wave.crew.isSome = true → h.wave.depth < 16 →
      exec (.brd x) s = .next (s1.done h
        { h.wave with mask := { id := x.j, other := maskOf no, pc := fall, second := false } :: h.wave.mask }
        tgt)) ∧
    (no ≠ [] → yes ≠ [] → h.wave.crew = none → h.wave.mask = [] →
      (yes.length ≤ no.length → s.basinsFor h.core (yes.map fun e => (e.2, tgt)) = true →
        exec (.brd x) s = .next (s1.done h (h.wave.leaving yes tgt none) fall)) ∧
      (no.length < yes.length → s.basinsFor h.core (no.map fun e => (e.2, fall)) = true →
        exec (.brd x) s = .next (s1.done h (h.wave.leaving no fall none) tgt)))

/-- R222, R33, R36: RCV outside a mask stack sends the enrolled lanes to a basin at the next slot with its
threshold; with its id on top of the stack it turns to the other side, and, when that side comes to the same RCV, takes
the entry off. Until then an RCV of the id at another place does nothing (log 102). -/
def Sys2Proof.Claim.Reconvergence : Prop :=
  ∀ (x : RcvOp) (s : State) (h : Here) (ls : Table Thread),
    Issues s { len := 8, g := x.g, final := true } h ls → h.hand = none →
    let pc := h.wave.pc + 8
    let come := ls.filter fun e => s.enrolled h.core e.2 x.j.toNat
    let gone := come.foldl (fun s e => s.unenrol h.core e.2 (some x.j.toNat)) s
    let met := ls.foldl (fun s e => s.unenrol h.core e.2 (some x.j.toNat)) s
    (h.wave.crew = none → h.wave.mask = [] →
      (come = [] → exec (.rcv x) s = .next (s.done h h.wave pc)) ∧
      (come ≠ [] → s.basinsFor h.core (come.map fun e => (e.2, pc)) = true →
        exec (.rcv x) s = .next (gone.done h
          (h.wave.leaving come pc (some (x.t.toNat + 1, x.j.toNat))) pc))) ∧
    (∀ e t, h.wave.mask = e :: t → e.id = x.j → ls.length = h.wave.active.length →
      (e.second = false → exec (.rcv x) s = .next (met.done h
        { h.wave with mask := { id := e.id, other := maskOf ls, pc := pc, second := true } :: t } e.pc)) ∧
      (e.second = true → e.pc = pc → exec (.rcv x) s = .next (met.done h { h.wave with mask := t } pc)) ∧
      (e.second = true → e.pc ≠ pc → exec (.rcv x) s = .next (s.done h h.wave pc))) ∧
    (∀ e t, h.wave.mask = e :: t → e.id ≠ x.j → exec (.rcv x) s = .next (s.done h h.wave pc))

/-- R30 to R36, R221, R222: BRD and RCV.
Rests on choices of the model: log 102. -/
def Obligations.DivergenceAndReconvergence : Prop :=
  Claim.DivergentBranch ∧ Claim.Reconvergence

/-- R223, R226: REFORM sends a wave's lanes to basins at the next slot and does nothing in a crew; YIELD commits,
files each lane's record with cause 1, and lets the lanes leave the wave. -/
def Sys2Proof.Claim.ReformAndYield : Prop :=
  (∀ (x : NullOp) (s : State) (h : Here) (ls : Table Thread),
    Issues s { len := 8, g := x.g, final := true } h ls → h.hand = none →
    let pc := h.wave.pc + 8
    (h.wave.crew.isSome = true ∨ h.wave.mask ≠ [] → exec (.reform x) s = .next (s.done h h.wave pc)) ∧
    (h.wave.crew = none → h.wave.mask = [] → s.basinsFor h.core (ls.map fun e => (e.2, pc)) = true →
      exec (.reform x) s = .next (s.done h (h.wave.leaving ls pc none) pc))) ∧
  (∀ (x : NullOp) (s s1 s2 : State) (h : Here) (ls : Table Thread) (l : Nat) (t : Thread),
    Issues s { len := 8, g := x.g, final := true, whole := true, orders := true } h ls → h.hand = none →
    MayYield s h ls → ls = [(l, t)] → h.wave.crew = none → yieldCommits ls s h = .ok s1 →
    s2 = s1.unenrol h.core t none →
    let k := s2.keyFor (clusterOf h.core) t
    exec (.yield x) s = .next ((k.2.file (clusterOf h.core)
      { t.filed (k.2.carryOf t) (h.wave.pc + 8) 1 k.1 0 with crewRef := none }).done h
        (h.wave.dropLanes [l]) (h.wave.pc + 8))) ∧
  (∀ (x : NullOp) (s t : State) (h : Here) (ls : Table Thread),
    Issues s { len := 8, g := x.g, final := true, whole := true, orders := true } h ls → h.hand = none →
    MayYield s h ls → s.yieldLanes h ls 1 (h.wave.pc + 8) (fun _ => .bin) = .ok t → exec (.yield x) s = .next t) ∧
  (∀ (x : NullOp) (s : State) (h : Here) (ls : Table Thread) (f : Nat),
    Issues s { len := 8, g := x.g, final := true, whole := true, orders := true } h ls → h.hand = some f →
    MayYield s h ls → exec (.yield x) s = .next (s.doneLen h h.wave 8))

/-- R227 to R230: AWAIT samples its word at D and yields with cause 2, a lane whose condition holds to a bin and
any other with its wait descriptor, and in a handler goes on once its condition holds and samples again until then;
PHASE arrives at its barrier as BAR does and yields with cause 3, waiting for the phase. -/
def Sys2Proof.Claim.WaitingYields : Prop :=
  (∀ (x : AwaitOp) (s s' t : State) (h : Here) (ls : Table Thread) (accs : List Acc),
    Issues s { len := 16, g := x.g, final := true, whole := true, orders := true,
               uses := (x.c.toNat, 1) :: Src.run 2 x.a } h ls →
    (h.hand.isSome = true ∨ ∀ e ∈ ls, x.c.toNat < s.carryOf e.2) →
    let addr (u : Thread) : Nat := (Src.int64 h.wave none u x.a + x.off.signExtend 64).toNat
    (∀ e ∈ ls, addr e.2 < windowBase ∧ addr e.2 % 4 = 0) →
    Passes s h (ls.map fun e => awaitReq (addr e.2) e) .read true accs s' → poisonHit s' h accs = none →
    MayYield s' h ls →
    let r := s'.loadAll h (.strong .d) accs
    let val (u : Thread) : Nat :=
      ((r.1.find? fun e => e.1.req.t.uid = u.uid).map fun e => natOf e.2).getD 0
    let met (u : Thread) : Bool := wcondHolds x.cond 32 (val u) (u.reg x.c.toNat).toNat
    let h' : Here := { h with wave := r.2.1 }
    (h.hand = none → r.2.2.yieldLanes h' (r.2.1.passing x.g) 2 (r.2.1.pc + 16) (fun u =>
        if met u then .bin else .wait (awaitDesc x.cond x.c.toNat (addr u))) = .ok t →
      exec (.await x) s = .next t) ∧
    (h.hand.isSome = true →
      ((∀ e ∈ r.2.1.passing x.g, met e.2 = true) → exec (.await x) s = .next (r.2.2.doneLen h' r.2.1 16)) ∧
      ((∃ e ∈ r.2.1.passing x.g, met e.2 = false) → exec (.await x) s = .next (r.2.2.putWave h' r.2.1)))) ∧
  (∀ (x : PhaseOp) (s t : State) (h : Here) (l : Nat) (u : Thread) (b : Block),
    Issues s { len := 16, g := x.g, final := true, cluster := true, whole := true, orders := true } h [(l, u)] →
    x.n.toNat < s.barCount h.wave.kid x.gang → s.blockOf u = some b → MayYield s h [(l, u)] →
    let n := x.n.toNat
    let y := s.barrier b x.gang n
    let d : DWord := BitVec.ofNat 64 (2 * 2 ^ 62 + (if x.gang then 2 ^ 61 else 0) + n * 2 ^ 57 + y.phase)
    let yields (s1 : State) (v : Thread) (how : Filing) : Prop :=
      s1.yieldLanes h [(l, v)] 3 (h.wave.pc + 16) (fun _ => how) = .ok t → exec (.phase x) s = .next t
    (b.member u.uid y.group = false → yields s u .bin) ∧
    (b.member u.uid y.group = true →
      (u.pending x.gang n = none →
        let r := s.arrive h { u with batch := u.batch + 1 } b x.gang n
        yields r.1 r.2 (.wait d)) ∧
      (∀ p, u.pending x.gang n = some p → p.phase = y.phase → yields s u (.wait d)) ∧
      (∀ p, u.pending x.gang n = some p → p.phase ≠ y.phase → yields s
        (s.phaseView h.core x.gang ((Table.get? y.past p.phase).getD View.zero) (u.dropPending x.gang n)) .bin)))

/-- R223, R226 to R230: REFORM, YIELD, AWAIT and PHASE.
Rests on choices of the model: logs 55 and 71. -/
def Obligations.Yields : Prop :=
  Claim.ReformAndYield ∧ Claim.WaitingYields

/-- R231: EXIT commits, ends the lanes' enrolments and memberships and lets them leave the wave; on the control core
it returns as TRET does.
Rests on choices of the model: log 49. -/
def Obligations.ExitRetires : Prop :=
  ∀ (x : NullOp) (s : State) (h : Here) (ls : Table Thread),
    Issues s { len := 8, g := x.g, final := true, orders := true } h ls →
    (∀ f, h.hand = some f → exec (.exit x) s = .next (s.ret f)) ∧
    (h.hand = none → flagsClear ls = true → s.crewStop h = none →
      ∀ s0 s1, State.exitCommits ls s h = .ok s0 → s0.lastCommit h ls = .ok s1 →
      let s2 := ls.foldl (fun s e => (s.unenrol h.core e.2 none).retire e.2) s1
      let r := s2.leave h h.wave (ls.map Prod.fst)
      exec (.exit x) s = .next (r.1.done h r.2 (h.wave.pc + 8)))

/-- R35, R38, R114, R127: CREW binds 32 active lanes into a crew with an id of its own, the C buffers of its compute
threads joined, and overflows where they do not fit; UNCREW commits C to B, and dissolves the crew. A ray crew's threads
keep their own C buffers: R114 makes a ray its own party at C (DEDUCED, log 49).
Rests on choices of the model: logs 49, 103 and 122. -/
def Obligations.CrewsFormAndEnd : Prop :=
  ∀ (x : NullOp) (s : State) (h : Here) (ls : Table Thread),
    let f : Form := { len := 8, g := x.g, uniform := true, final := true, cluster := true }
    (Issues s f h ls → h.wave.crew = none → h.wave.active.length = 32 →
      ∀ id l t, Table.lowest (s.core h.core).crews 64 0 = some id → ls.head? = some (l, t) →
      let c : Crew := { uid := s.uids, kid := t.kid, blockUid := t.blockUid, formed := s.mem.pos, tiles := []
                        sparse := false, pend := none }
      let s1 := ({ s with uids := s.uids + 1 }).updCore h.core fun k => { k with crews := Table.put k.crews id c }
      let w : Wave := { h.wave.updLanes ls (fun l t => { t with crewRef := some { uid := s.uids, id := id, lane := l } })
        with crew := some id }
      let mine := (ls.filter fun e => e.2.ray.isNone).map fun e => (s.linksOf h e.2).c.party
      ∀ e, w.lanes.head? = some e →
        (∀ m, s1.mem.joinCrew (s1.linksOf h e.2).c mine = some m →
          exec (.crew x) s = .next (({ s1 with mem := m } : State).doneLen h w 8)) ∧
        (s1.mem.joinCrew (s1.linksOf h e.2).c mine = none → exec (.crew x) s = .next (s.overflow h e.1 .c))) ∧
    (Issues s { f with orders := true } h ls → h.wave.fullCrew = true → s.crewStop h = none →
      ∀ s1 ts, ((∀ e ∈ ls, e.2.ray = none) → s.commitParty h ls .b = .ok (s1, ts)) →
      ((∃ e ∈ ls, e.2.ray.isSome = true) → (∀ e ∈ ls, e.2.ray.isSome = true) ∧ s1 = s) →
      ∃ t : State, exec (.uncrew x) s = .next (t.doneLen h
          { h.wave.updLanes ls (fun _ t => { t with crewRef := none }) with crew := none } 8) ∧
        (∀ a, t.mem.atD a = s1.mem.atD a) ∧ t.grids = s1.grids ∧ t.blocks = s1.blocks ∧
        (h.core < s.cores.length → Table.get? (t.core h.core).crews (h.wave.crew.getD 0) = none))

/-! ### Taking an exception and returning (spec/19, spec/16) -/

/-- R431, R426 to R429: a fault of a thread at user level ends the root grid of its family. The record of the
first fault says the code, the cause, the context, the core, the lane, the PC and the tick; memory, registers and
control registers stand as they were. In a context without TRACE. -/
def Sys2Proof.Claim.FaultEndsTheGrid : Prop :=
  ∀ (s : State) (h : Here) (x : Flt) (g : Grid), h.hand = none →
    (s.ctx h.wave.ctx).dbg.ctl.getLsbD 18 = false →
    Table.get? s.grids (s.rootOf h.wave.kid) = some g → g.fault = none →
    let t := s.raise h x
    t.mem = s.mem ∧ t.cores = s.cores ∧ t.ctxs = s.ctxs ∧ t.parts = s.parts ∧ t.dev = s.dev ∧
    t.handlers = s.handlers ∧ t.blocks = s.blocks ∧
    ∃ g' r, Table.get? t.grids (s.rootOf h.wave.kid) = some g' ∧ g'.ending = true ∧ g'.fault = some r ∧
      r.cls = BitVec.ofNat 8 x.code ∧ r.cause = BitVec.ofNat 8 x.cause ∧
      r.ctx = BitVec.ofNat 8 h.wave.ctx ∧ r.core = BitVec.ofNat 8 h.core ∧
      r.lane = (match x.lane with
        | some l => BitVec.ofNat 8 l
        | none => 0xFF) ∧
      r.pc = h.wave.pc.setWidth 64 ∧ r.addr = BitVec.ofNat 64 x.addr ∧ r.tick = BitVec.ofNat 64 s.tick ∧
      r.seq = BitVec.ofNat 64 g.seq ∧ r.further = 0 ∧ r.flags.getLsbD 2 = true

/-- R386: a fault of a handler thread ends it as TRET does and gives the host a record of class 0x1C with the PC,
the address and the partition. -/
def Sys2Proof.Claim.HandlerFaultGoesToHost : Prop :=
  ∀ (s : State) (h : Here) (x : Flt) (f : Nat), h.hand = some f →
    let t := s.raise h x
    let u := s.endHandler f
    t = u.postHost { page := none, frec := { FaultRec.blank 0x1C s.tick with
      src := 9, pc := h.wave.pc.setWidth 64, addr := BitVec.ofNat 64 x.addr, detail := BitVec.ofNat 32 f } } ∧
    (f < s.handlers.length → (u.handler f).wave = none) ∧ (t.handler f).wave = (u.handler f).wave ∧
    (u.dev.hostWait = [] → u.dev.qcount < 256 → t.dev.qcount = u.dev.qcount + 1 ∧ t.dev.hostWait = [])

/-- R386, R426 to R431: taking an exception, at user level and in a handler. -/
def Obligations.ExceptionEntry : Prop :=
  Claim.FaultEndsTheGrid ∧ Claim.HandlerFaultGoesToHost

/-- R233, R234, R455, R459: TRAP raises 0x0D with its number; BKPT is a hit of WHY 1, and NOP when its wave is
resumed from its freeze. -/
def Sys2Proof.Claim.TrapsAndBreakpoints : Prop :=
  ∀ (x : TrapOp) (s : State) (h : Here) (ls : Table Thread) (l : Nat) (t : Thread),
    Issues s { len := 8, g := x.g, final := true } h ls → ls.head? = some (l, t) →
    exec (.trap x) s = .next (s.raise h { code := 0x0D, lane := some l, detail := x.n.toNat }) ∧
    (h.wave.skipHit.covers .bkpt = true → exec (.bkpt x) s = .next (s.done h h.wave (h.wave.pc + 8))) ∧
    (h.wave.skipHit.covers .bkpt = false →
      let freezes := (s.ctx h.wave.ctx).dbg.ctl.getLsbD 14 && s.dev.skidActive
      (freezes = false → exec (.bkpt x) s =
        .next (s.raise h { code := 0x0C, lane := some l, detail := x.n.toNat })) ∧
      (freezes = true → clusterOf h.core < s.clusters.length → ∃ u, exec (.bkpt x) s = .next u ∧
        let d := (u.cluster (clusterOf h.core)).dbg
        d.frozen = true ∧ d.why = 1 ∧ d.core = BitVec.ofNat 3 (h.core % 8) ∧
        d.slot = BitVec.ofNat 6 h.slot ∧ d.lane = BitVec.ofNat 5 l ∧
        ∀ c, { u.core c with deadFrom := (s.core c).deadFrom } = s.core c))

/-- R174 to R176: a clause header opens a body of the instructions it counts, with its flags and its wait mask,
and raises 0x01 within a body. -/
def Sys2Proof.Claim.ClauseHeader : Prop :=
  ∀ (x : ClauseOp) (s : State) (h : Here), s.here = some h →
    (h.wave.clause = none → exec (.clause x) s = .next (s.putWave h { h.wave with
      pc := h.wave.pc + 8
      clause := some { left := if x.count = 0 then 16 else x.count.toNat, fa := x.fa, fb := x.fb
                       wait := x.wait } })) ∧
    (h.wave.clause.isSome = true →
      exec (.clause x) s = .next (s.raise h { code := 1, lane := (h.wave.active.head?).map Prod.fst }))

/-- R182, R183: a thread instruction above the wave's level raises 0x11; a uniform-guard instruction whose guard
passes in some active lanes only raises 0x02; and where the guard passes in no lane the instruction has no effect
but to end. Said here of IADD, BRA and the system instructions of each level. -/
def Sys2Proof.Claim.CommonChecks : Prop :=
  ∀ (s : State) (h : Here), s.here = some h →
    (∀ x : CtxImgOp, h.wave.mode = .user →
      exec (.ctxsave x) s = .next (s.raise h { code := 0x11, lane := (h.wave.active.head?).map Prod.fst })) ∧
    (∀ x : SrdOp, h.wave.mode = .user →
      exec (.srd x) s = .next (s.raise h { code := 0x11, lane := (h.wave.active.head?).map Prod.fst })) ∧
    (∀ x : NullOp, h.wave.mode = .user →
      exec (.tret x) s = .next (s.raise h { code := 0x11, lane := (h.wave.active.head?).map Prod.fst })) ∧
    (∀ (x : BraOp) (l : Nat) (t : Thread),
      Form.illegal { len := 16, g := x.g, uniform := true, final := true } h = false →
      (h.wave.passing x.g).head? = some (l, t) → (h.wave.passing x.g).length ≠ h.wave.active.length →
      exec (.bra x) s = .next (s.raise h { code := 2, lane := some l })) ∧
    (∀ x : IntOp, Form.illegal (intForm x) h = false → h.wave.passing x.g = [] →
      exec (.iadd x) s = .next (s.doneLen h h.wave (lenOf x.im)))

/-- R44, R181: a register beyond a passing lane's base and claimed registers raises 0x01 and nothing is written.
Said here of the integer arithmetic. -/
def Sys2Proof.Claim.RegisterRange : Prop :=
  ∀ (x : IntOp) (s : State) (h : Here) (e : Nat × Thread), s.here = some h →
    Form.illegal (intForm x) h = false →
    ((h.wave.passing x.g).find? fun e => !e.2.inRange (intForm x).uses) = some e →
    let t := s.raise h { code := 0x01, lane := some e.1 }
    exec (.iadd x) s = .next t ∧ exec (.isum3 x) s = .next t ∧ exec (.isub x) s = .next t ∧
    exec (.imul x) s = .next t ∧ exec (.imad x) s = .next t ∧ exec (.imulh x) s = .next t ∧
    exec (.idiv x) s = .next t ∧ exec (.irem x) s = .next t ∧ exec (.imin x) s = .next t ∧
    exec (.imax x) s = .next t ∧ exec (.mov x) s = .next t

/-- R44, R173 to R176, R181 to R183, R233, R234: the checks that come first, traps, breakpoints and clause headers.
Rests on choices of the model: logs 56 and 87. -/
def Obligations.ChecksTrapsAndHeaders : Prop :=
  Claim.TrapsAndBreakpoints ∧ Claim.ClauseHeader ∧ Claim.CommonChecks ∧ Claim.RegisterRange

/-! ### Claims, copies, tiles and stages (spec/02, spec/09) -/

/-- R45 to R47, R264, R265: a claim within the ceiling parks the wave at the next slot and is satisfied when it
heads its queue and fits; a release takes granules and tiles back, once no operation in flight writes a register that it
releases, and the registers above the new limit hold nothing; RQUERY writes its count to each lane. -/
def Sys2Proof.Claim.ClaimsComplete : Prop :=
  (∀ (x : CountOp) (s : State) (h : Here) (ls : Table Thread),
    (ClaimIssues s x.g false h ls →
      (∀ r, s.lrec? h.wave.kid = some r → (∀ e ∈ ls, e.2.base + 8 * (e.2.claimed + x.n.toNat) ≤ r.ceil) →
        exec (.regclm x) s = .next (((s.doneLen h
          { h.wave with park := .claim false x.n.toNat s.tick } 8).updCore h.core fun k =>
            { k with deadFrom := s.tick }).tryClaim h.core false (some h.slot))) ∧
      -- no operation in flight of the wave writes a register that is released
      (let lim (uid : Nat) : Option Nat :=
          (ls.find? fun e => e.2.uid = uid).map fun e => e.2.base + 8 * (e.2.claimed - x.n.toNat)
        let quiet := ∀ e ∈ (s.core h.core).ops, e.2.slot = h.slot →
          (∀ w ∈ e.2.writes, w.above lim = false) ∧
          (∀ l ∈ e.2.late, l.toW = false → ∀ n, lim l.uid = some n → l.d + sizeRegs l.z ≤ n) ∧
          (∀ o, e.2.eng = some o → ∀ u ∈ e.2.uids, ∀ r ∈ engineDest o.i (s.resultBytes o), ∀ n, lim u = some n →
            r.1 + r.2 ≤ n)
        (quiet → EndsWith (.regrel x) s h ls 8 fun _ t => { t with
          claimed := t.claimed - x.n.toNat
          v := t.v.filter fun e => decide (e.1 < t.base + 8 * (t.claimed - x.n.toNat)) }) ∧
        (¬ quiet → exec (.regrel x) s = .next s))) ∧
    (ClaimIssues s x.g true h ls → ∀ c, s.crewHere h = some c →
      (∀ r, s.lrec? h.wave.kid = some r → c.tiles.length + x.n.toNat ≤ r.accCeil →
        exec (.acclm x) s = .next (((s.doneLen h
          { h.wave with park := .claim true x.n.toNat s.tick } 8).updCore h.core fun k =>
            { k with deadFrom := s.tick }).tryClaim h.core true (some h.slot))) ∧
      (s.engineBusy h.core c.uid = false →
        exec (.accrel x) s = .next ((s.updCrew h.core c.uid fun c =>
          { c with tiles := c.tiles.take (c.tiles.length - x.n.toNat) }).doneLen h h.wave 8)))) ∧
  (∀ (x : QueryOp) (s : State) (h : Here) (ls : Table Thread) (r : LaunchRec),
    Issues s { len := 8, g := x.g, cluster := true, uses := [(x.d.toNat, 1)] } h ls →
    s.lrec? h.wave.kid = some r →
    ∃ val : Thread → Nat, EndsWith (.rquery x) s h ls 8
        (fun _ t => t.setReg x.d.toNat (BitVec.ofNat 32 (val t))) ∧ ∀ t,
      (x.sel = 0 → val t = t.base) ∧ (x.sel = 1 → val t = t.claimed) ∧
      (x.sel = 2 → val t = ((s.crewHere h).map fun c => c.tiles.length).getD 0) ∧
      (x.sel = 3 → val t = s.commonGranules h.core) ∧ (x.sel = 4 → val t = s.commonTiles h.core) ∧
      (x.sel = 5 → val t = r.ceil) ∧ (x.sel = 6 → val t = r.accCeil) ∧
      (x.sel = 7 → val t = ((s.blockOf t).map s.floorFree).getD 0) ∧ (x.sel = 8 → val t = h.core) ∧
      (x.sel = 9 → val t = if h.wave.crew.isSome then 1 else 0)) ∧
  (∀ (x : CoreId) (acc : Bool) (s : State) (slot n tick : Nat) (w : Wave),
    (s.cluster x.cl.toNat).dbg.frozen = false → s.dev.stopped = false →
    s.claimHead (coreNum x) acc = some slot → Table.get? (s.core (coreNum x)).waves slot = some w →
    w.park = .claim acc n tick →
    let ask := s.claimAsk (coreNum x) w acc n
    (s.taskAhead (coreNum x) acc w = false → s.meets (coreNum x) acc ask = true →
      exec (.claimSatisfied x acc) s =
        .next ((s.satisfy (coreNum x) slot w acc n).updCore (coreNum x) fun k => { k with deadFrom := s.tick }) ∧
      (acc = false → coreNum x < s.cores.length → ∃ v,
        Table.get? ((s.satisfy (coreNum x) slot w acc n).core (coreNum x)).waves slot = some v ∧ v.park = .none ∧
        v.lanes = (w.updLanes w.active fun _ t => t.claim n).lanes)) ∧
    (s.meets (coreNum x) acc ask = false → exec (.claimSatisfied x acc) s = .next s)) ∧
  (∀ (t : Thread) (n r : Nat), t.limit ≤ r → r < t.limit + 8 * n → (t.claim n).reg r = 0)

/-- R99, R101, R269 to R273, R421: ACOPY and ACOPYG hand their lanes' copies to the engine, where its queue has room and,
for ACOPY, the tile of each lane's own block is ready, and end at the next slot, and else wait; SEAL writes
the number of the open batch and opens the next one; WAITB waits for the batches it names and then acquires what
they brought. -/
def Sys2Proof.Claim.CopiesComplete : Prop :=
  (∀ (x : AcopyOp) (s s' : State) (h : Here) (ls : Table Thread) (l : List (CopyReq × Prog)),
    Issues s { len := 16, g := x.g, cluster := true, orders := true, uses :=
        Src.run 2 x.ga ++ Src.run 1 x.so ++ Src.run 2 x.pa } h ls →
    (∀ e ∈ ls, e.2.ray = none) → s.requestsFull h = false →
    let tile (t : Thread) : Option (Block × TileEntry) := s.tileNamed t x.tile.toNat
    let base (t : Thread) : Nat := ((tile t).map fun e => e.1.scratch + 128 * e.2.base).getD 0
    s.checkCopies h.via h.wave.ctx true (fun r => (tile r.t).map fun e => (e.2.count + 1) * 128) (ls.map fun e =>
      { lane := e.1, t := e.2, prog := (Src.int64 h.wave none e.2 x.pa).toNat
        gbase := (Src.int64 h.wave none e.2 x.ga).toNat, other := 0
        so := (Src.int h.wave none e.2 x.so).toNat }) = (.ok l, s') →
    let ready := ∀ e ∈ ls, s'.tileReady e.2 x.tile.toNat = true
    (ready → s'.queueRoom h.core ls.length = true →
      exec (.acopy x) s = .next ((l.foldl (fun s e => s.queueCopy h.core
        (copyOf s h s'.uids e.1 (if x.out then .tileOut else .tileIn)
          (e.2.pieces e.1.gbase (base e.1.t + e.1.so)))) s').doneLen h h.wave 16)) ∧
    (ready → s'.queueRoom h.core ls.length = false → exec (.acopy x) s = .next s') ∧
    (¬ ready → exec (.acopy x) s = .next (s'.notReady h (.tiles (tilesNamed ls x.tile.toNat))))) ∧
  (∀ (x : AcopygOp) (s s' : State) (h : Here) (ls : Table Thread) (l : List (CopyReq × Prog)),
    Issues s { len := 16, g := x.g, cluster := true, orders := true, uses :=
        Src.run 2 x.sb ++ Src.run 2 x.db ++ Src.run 2 x.pa } h ls → s.requestsFull h = false →
    s.checkCopies h.via h.wave.ctx false (fun _ => none) (ls.map fun e =>
      let sb := (Src.int64 h.wave none e.2 x.sb).toNat
      let db := (Src.int64 h.wave none e.2 x.db).toNat
      { lane := e.1, t := e.2, prog := (Src.int64 h.wave none e.2 x.pa).toNat
        gbase := if x.scatter then db else sb, other := if x.scatter then sb else db, so := 0 })
      = (.ok l, s') →
    (s'.queueRoom h.core ls.length = true →
      exec (.acopyg x) s = .next ((l.foldl (fun s e => s.queueCopy h.core
        (copyOf s h s'.uids e.1 (if x.scatter then .scatter else .gather) (e.2.pieces e.1.gbase e.1.other)))
          s').doneLen h h.wave 16)) ∧
    (s'.queueRoom h.core ls.length = false → exec (.acopyg x) s = .next s')) ∧
  (∀ (x : SealOp) (s : State) (h : Here) (ls : Table Thread),
    Issues s { len := 8, g := x.g, cluster := true, uses := [(x.d.toNat, 1)] } h ls →
    (∀ e ∈ ls, e.2.batch < 2 ^ 32) →
    EndsWith (.seal x) s h ls 8 fun _ t =>
      { t.setReg x.d.toNat (BitVec.ofNat 32 t.batch) with batch := t.batch + 1 }) ∧
  (∀ (x : OneSrcOp) (s : State) (h : Here) (ls : Table Thread),
    Issues s { len := lenOf x.im, g := x.g, cluster := true, uses := runs [x.a] } h ls →
    let m (t : Thread) : Nat := min (Src.int h.wave x.im t x.a).toNat (t.batch - 1)
    ((∃ e ∈ ls, s.batchBusy e.2 (m e.2) = true) → exec (.waitb x) s = .next s) ∧
    ((∀ e ∈ ls, s.batchBusy e.2 (m e.2) = false) → EndsWith (.waitb x) s h ls (lenOf x.im) fun _ t => { t with
      view := (s.doneOf (clusterOf h.core) t).foldl (fun v d =>
        if d.stage = none ∧ d.uid = t.uid ∧ d.episode = t.episode ∧ d.batch ≤ m t then v.join d.view else v)
          t.view }))

/-- R99, R102, R104, R142, R274 to R277: STAGE releases stages of the block of every lane, and each lane acquires what the
completed stages of its block have written; TILEDEF defines or ends a tile, or a stash mapping, of the block of every
lane, waiting while an access of the old mapping's lines is outstanding, and TILEST marks the lines of its tiles full or
empty. -/
def Sys2Proof.Claim.TilesAndStages : Prop :=
  (∀ (x : CountOp) (s : State) (h : Here) (ls : Table Thread) (r : LaunchRec),
    Issues s { len := 8, g := x.g, uniform := true, cluster := true } h ls →
    (∀ e ∈ ls, (s.blockOf e.2).isSome = true) → s.lrec? h.wave.kid = some r →
    exec (.stage x) s = .next (((s.blocksHere ls).foldl (fun s b =>
        s.updBlock b.uid fun b => b.release (min x.n.toNat r.stages) h.wave.pc) s).doneLen h
      (h.wave.updLanes ls fun _ t => { t with view := t.view.join (s.stageView t) }) 8)) ∧
  (∀ (b : Block) (n : Nat) (pc : Pc), (b.release n pc).stage = max b.stage n ∧
    (b.release n pc).stagePc = b.stagePc ++ List.replicate (n - b.stage) pc ∧
    { b.release n pc with stage := b.stage, stagePc := b.stagePc } = b) ∧
  (∀ (s : State) (t : Thread) (b : Block), s.blockOf t = some b → ∀ d ∈ b.done, d.stage.isSome = true →
    ∀ a, d.view.at a ≤ (s.stageView t).at a) ∧
  (∀ (x : TiledefOp) (s : State) (h : Here) (ls : Table Thread) (r : LaunchRec),
    Issues s { len := 16, g := x.g, uniform := true, cluster := true } h ls →
    (∀ e ∈ ls, (s.blockOf e.2).isSome = true) → s.lrec? h.wave.kid = some r → x.tile.toNat < r.tiles →
    (∀ b ∈ s.blocksHere ls, x.inv = false → x.base.toNat + x.count.toNat < (s.sizes b).1 / 128) →
    (∀ b ∈ s.blocksHere ls, s.tileMoves b x.tile.toNat = false) → s.scratchBusy h = false →
    exec (.tiledef x) s = .next (((s.blocksHere ls).foldl (fun s b => s.updBlock b.uid fun b' => { b' with
      tl := if x.inv then Table.del b'.tl x.tile.toNat
        else Table.put b'.tl x.tile.toNat { base := x.base.toNat, count := x.count.toNat } }) s).doneLen
          h h.wave 16)) ∧
  (∀ (x : TiledefStOp) (s : State) (h : Here) (ls : Table Thread) (l : Nat) (t : Thread),
    Issues s { len := 16, g := x.g, uniform := true, cluster := true } h ls →
    (∀ e ∈ ls, (s.blockOf e.2).isSome = true) → ls.head? = some (l, t) →
    let busy := ∃ b ∈ s.blocksHere ls, ∃ o, Table.get? b.st x.entry.toNat = some o ∧ s.mapBusy b o = true
    let va := (Src.int64 h.wave none t x.a).toNat
    let e : StashEntry := { line := x.line.toNat, count := x.count.toNat, base := va }
    let may := x.inv = true ∨ offGlobal va = false ∧ va % 128 = 0 ∧
      ∀ b ∈ s.blocksHere ls, s.mapRefused b x.entry.toNat e = false
    (may → busy → exec (.tiledefSt x) s = .next s) ∧
    (may → ¬ busy → exec (.tiledefSt x) s = .next (((s.blocksHere ls).foldl (fun s b =>
      if x.inv then s.updBlock b.uid fun b => b.unmap x.entry.toNat else s.mapStash b x.entry.toNat e) s).doneLen
        h h.wave 16))) ∧
  (∀ (s : State) (b : Block) (k : Nat) (e : StashEntry),
    let t := s.mapStash b k e
    t.mem = s.mem ∧ Table.get? (b.unmap k).st k = none ∧
    (∀ b0, Table.get? s.blocks b.uid = some b0 → ∃ b1, Table.get? t.blocks b.uid = some b1 ∧
      Table.get? b1.st k = some e ∧ ∀ y ∈ b1.lines, ¬ (e.line ≤ y.line ∧ y.line ≤ e.line + e.count)) ∧
    (b.core < s.cores.length → (∀ v ∈ s.cc.lines, v.row ≤ 7) → ∀ n, e.line ≤ n → n ≤ e.line + e.count →
      (b.scratch + (s.sizes b).1) / 128 + n ∈ (t.core b.core).empty)) ∧
  (∀ (x : TilestOp) (s : State) (h : Here) (ls : Table Thread),
    Issues s { len := 8, g := x.g, uniform := true, cluster := true } h ls →
    (∀ e ∈ ls, (s.tileNamed e.2 x.tile.toNat).isSome = true) →
    (∀ b ∈ s.blocksHere ls, s.tileMoves b x.tile.toNat = false) → s.scratchBusy h = false →
    exec (.tilest x) s = .next (((s.blocksHere ls).foldl (fun s b => match s.tile? b x.tile.toNat with
      | some te => s.setLines b.core 6 (!x.ready) (b.tileLines te)
      | none => s) s).doneLen h h.wave 8)) ∧
  -- of the events of R97 in one cc, the one of the later row stands
  (∀ (s : State) (core row : Nat) (empty : Bool) (ls : List Nat) (l : Nat), core < s.cores.length → l ∈ ls →
    let held := ∃ e ∈ s.cc.lines, e.core = core ∧ e.line = l ∧ row < e.row ∧ ¬ (row = 2 ∧ e.row = 3)
    let t := s.setLines core row empty ls
    (¬ held → (l ∈ (t.core core).empty ↔ empty = true)) ∧
    (held → (l ∈ (t.core core).empty ↔ l ∈ (s.core core).empty)))

/-- R45 to R47, R97, R142, R264, R265, R274 to R277: claims, stages and tiles.
Rests on choices of the model: logs 15, 21, 95, 104 and 121. -/
def Obligations.ClaimsTilesAndStages : Prop :=
  Claim.ClaimsComplete ∧ Claim.TilesAndStages

/-- R17, R97, R103, R104, R141, R270, R348, R449: the copy engine performs its copies in the order of their issue: it reads
a source line as one snapshot for every run of a copy that takes bytes of it, writes a destination line once what goes into it has been read, ends a copy whose runs are all
done, issues the copy of a released stage, and fills and recalls the lines of the stash. -/
def Sys2Proof.Claim.CopyEngineEvents : Prop :=
  (∀ (x : CoreItem) (run : Nat) (s : State) (c : Copy) (r : Run),
    let core := coreNum x.core
    Runs s (clusterOf core) → Table.get? (s.core core).copies x.n = some c → core < s.cores.length →
    c.runs[run]? = some r → r.done = false → c.kind ≠ .fill → c.cancelled = false → c.stuck = none →
    ((s.core core).copyTurn c.turn = false → exec (.engineWriteComplete x run) s = .next s) ∧
    ((s.core core).copyTurn c.turn = true →
    -- a run that is not read yet
    (∀ l, r.data = none → c.kind.source r = some l →
      let same (q : Run) : Prop := q.data = none ∧ q.done = false ∧ c.kind.source q = some l
      let reads (s' : State) (f : Run → List Byte) : Prop :=
        ∃ (t : State) (c' : Copy), exec (.engineWriteComplete x run) s = .next t ∧ t.mem = s'.mem ∧
          Table.get? (t.core core).copies x.n = some c' ∧
          ∀ (k : Nat) (q : Run), c.runs[k]? = some q → ∃ q' : Run, c'.runs[k]? = some q' ∧
            (same q → q' = { q with data := some (f q) }) ∧ (¬ same q → q' = q)
      (c.kind = .tileOut → l ∉ (s.core core).empty →
        reads s fun q => (natsFrom q.dense q.len).map fun a => cellGet (s.core core).scratch a) ∧
      (c.kind = .tileOut → l ∈ (s.core core).empty → exec (.engineWriteComplete x run) s = .next s) ∧
      (c.kind ≠ .tileOut → ∀ pa s', s.copyLine core c.ctx (c.kind.from r) .read = (.ok pa, s') →
        s'.mem.poisoned pa 128 = false →
        reads (s'.farRead (.copy c.id) c.kid false (natsFrom pa 128))
          fun q => (natsFrom (pa + c.kind.from q % 128) q.len).map s'.mem.atD)) ∧
    -- a run that is read, as is every run into its destination line
    (r.data.isSome = true →
      let mine (q : Run) : Bool := !q.done && c.kind.to q / 128 = c.kind.to r / 128
      let bs := lastBytes ((c.runs.filter mine).flatMap fun q =>
        (natsFrom (c.kind.to q) (q.data.getD []).length).zip (q.data.getD []))
      ((c.runs.filter mine).any fun q => q.data.isNone) = false →
      (c.kind = .tileIn → exec (.engineWriteComplete x run) s = .next ((s.updCore core fun k =>
        { k with scratch := bs.foldl (fun l e => cellSet l e.1 e.2) k.scratch }).doneCopy core x.n c mine)) ∧
      (c.kind ≠ .tileIn → ∀ pa s', s.copyLine core c.ctx (c.kind.to r) .write = (.ok pa, s') →
        exec (.engineWriteComplete x run) s = .next (State.doneCopy { s' with
          mem := s'.mem.arriveD s'.tick (.agent c.id) (bs.map fun e =>
            { addr := pa + e.1 % 128, val := e.2, who := [], marks := [] }) } core x.n c mine))))) ∧
  (∀ (x : CoreItem) (s : State) (c : Copy), Runs s (clusterOf (coreNum x.core)) →
    Table.get? (s.core (coreNum x.core)).copies x.n = some c → c.kind ≠ .fill → c.cancelled = false →
    (c.runs.all fun r => r.done) = true → s.linkBusy (.copy c.id) = false →
    (Table.get? s.blocks c.blockUid) = none → coreNum x.core < s.cores.length →
    ∃ t : State, exec (.copyComplete x) s = .next t ∧ t.mem = s.mem ∧
      Table.get? (t.core (coreNum x.core)).copies x.n = none) ∧
  (∀ (x : CoreItem) (s : State) (c : Copy) (b : Block), Runs s (clusterOf (coreNum x.core)) →
    Table.get? (s.core (coreNum x.core)).copies x.n = some c → c.kind ≠ .fill → c.cancelled = false →
    (c.runs.all fun r => r.done) = true → s.linkBusy (.copy c.id) = false → Table.get? s.blocks c.blockUid = some b →
    ∃ d : DoneCopy, exec (.copyComplete x) s = .next ((s.updCore (coreNum x.core) fun k =>
        { k with copies := Table.del k.copies x.n }).updBlock b.uid fun b => { b with done := b.done ++ [d] }) ∧
      d.uid = c.uid ∧ d.batch = c.batch ∧ d.stage = c.stage ∧ d.view = s.mem.agentView c.id) ∧
  (∀ (x : CoreItem) (s : State) (b : Block) (g : Grid), Runs s x.core.cl.toNat →
    Table.get? s.blocks x.n = some b → Table.get? s.grids b.kid = some g → g.ending = false →
    b.placed = true → b.core = coreNum x.core → b.stageIssued < b.stage →
    (s.awaitsPage b.kid b.uid = false → exec (.stageCopyIssue x) s = .next (s.issueStage b)) ∧
    (s.awaitsPage b.kid b.uid = true → exec (.stageCopyIssue x) s = .next s)) ∧
  (∀ (x : CoreItem) (line : Nat) (s : State) (b : Block) (y : StashLine), Runs s x.core.cl.toNat →
    Table.get? s.blocks x.n = some b → (b.lines.find? fun y => y.line = line) = some y →
    b.placed = true → b.core = coreNum x.core → s.recorded b y = true →
    exec (.stashRecall x line) s = .next ((s.updBlock b.uid fun b =>
      { b with lines := b.lines.filter fun y => y.line != line }).setLines b.core 7 true
        [(b.scratch + (s.sizes b).1) / 128 + line])) ∧
  (∀ (x : CoreItem) (line key pa : Nat) (s s' : State) (b : Block) (c : Copy) (r : Run),
    Runs s (clusterOf (coreNum x.core)) → Table.get? s.blocks x.n = some b →
    let byte := b.scratch + (s.sizes b).1 + 128 * line
    ((s.core (coreNum x.core)).copies.find? fun e =>
      e.2.kind = .fill && e.2.blockUid = b.uid && e.2.runs.any fun r => r.dense = byte) = some (key, c) →
    c.cancelled = false → c.stuck = none → c.runs.head? = some r →
    s.copyLine (coreNum x.core) c.ctx r.g .read = (.ok pa, s') → s'.mem.poisoned pa 128 = false →
    exec (.stashFillComplete x line) s = .next (((s'.updBlock b.uid fun b =>
      { b with lines := b.lines ++ [{ line := line, pa := pa, pos := s'.mem.pos }] }).updCore
        (coreNum x.core) fun k => { k with copies := Table.del k.copies key }).fillLines (coreNum x.core)
          [byte / 128]))

/-- R17, R97, R103, R104, R141, R269 to R273, R348: copies, and the copy engine.
Rests on choices of the model: logs 17, 18, 61, 95 and 97. -/
def Obligations.CopiesAndCopyEngine : Prop :=
  Claim.CopiesComplete ∧ Claim.CopyEngineEvents

/-! ### Ray threads (spec/10, spec/03) -/

/-- R281 to R283: RAYGET and HITGET write the field their selector names, RAYSET writes its field, and with it
takes away the hit and begins a fresh run. -/
def Sys2Proof.Claim.RayFields : Prop :=
  (∀ (x : QueryOp) (s : State) (h : Here) (ls : Table Thread),
    RayIssues s { len := 8, g := x.g, uses := [(x.d.toNat, 1)] } h ls (fun _ => True) →
    (EndsWith (.rayget x) s h ls 8 fun _ t =>
      t.setReg x.d.toNat ((t.ray.map fun r => r.get x.sel.toNat).getD 0)) ∧
    (x.sel.toNat < 7 ∨ 8 < x.sel.toNat → (ls.map Prod.fst).Nodup →
      ∃ val : Nat → Thread → Word, EndsWith (.hitget x) s h ls 8 (fun l t => t.setReg x.d.toNat (val l t)) ∧
        ∀ e ∈ ls, ∀ r, e.2.ray = some r → val e.1 e.2 = r.hitWord x.sel.toNat) ∧
    (∀ s' ws, hitWords ls s h x.sel.toNat = (.ok ws, s') → exec (.hitget x) s =
      .next (s'.doneLen h (h.wave.updLanes ls fun l t => t.setReg x.d.toNat (Table.getD ws l 0)) 8))) ∧
  (∀ (x : RaysetOp) (s : State) (h : Here) (ls : Table Thread),
    RayIssues s { len := 8, g := x.g, uses := runs [x.a] } h ls (fun t => t.ep ≠ .anyHit ∧ t.ep ≠ .isect) →
    EndsWith (.rayset x) s h ls 8 fun _ t =>
      let v := if x.sel.toNat < 8 then Src.float h.wave none t x.a else Src.int h.wave none t x.a
      t.updRay fun r => (r.put x.sel.toNat v).fresh) ∧
  (∀ (r : RayPart) (n : Nat) (v : Word), n ≤ 10 →
    let r' := (r.put n v).fresh
    r'.get n = (if n < 8 then v else if n = 8 then (v.setWidth 10).setWidth 32 else (v.setWidth 8).setWidth 32) ∧
    (∀ m ≤ 10, m ≠ n → r'.get m = r.get m) ∧
    r'.phase = 0 ∧ r'.hit.kind = 0 ∧ r'.stop = 0 ∧ r'.stack = r.stack ∧ r'.trail = r.trail)

/-- R284 to R287, R77, R82: TRACE of the grid's acceleration structure sends the lanes into traversal with a fresh
run and an empty stack; ACCEPT, IGNORE and REPORT end a call-out and resume the run, ACCEPT with the candidate
committed and REPORT with a hit in range and nearer than the committed one.
Rests on choices of the model: log 23. -/
def Obligations.RaysEnterTraversal : Prop :=
  (∀ (x : TraceOp) (s : State) (h : Here) (ls : Table Thread) (g : Grid),
    RayIssues s { len := 16, g := x.g, final := true, orders := true, uses := Src.run 2 x.a } h ls
      (fun t => t.ep = .plain) →
    Table.get? s.grids h.wave.kid = some g → g.header < windowBase → g.header % 64 = 0 →
    (∀ e ∈ ls, (Src.int64 h.wave none e.2 x.a).toNat = g.header) →
    EntersTraversal (.trace x) s h ls 16 (fun _ => h.wave.pc + 16) fun _ r =>
      { r.fresh with
        flags := x.flags.getD r.flags, mask := x.mask.getD r.mask, sel := x.sel.getD r.sel
        stack := [], trail := 0 }) ∧
  (∀ (x : NullOp) (s : State) (h : Here) (ls : Table Thread),
    let back (t : Thread) : Pc := (t.ray.bind RayPart.ret).getD 0
    (RayIssues s { len := 8, g := x.g, final := true, orders := true } h ls (fun t => t.ep = .anyHit) →
      EntersTraversal (.accept x) s h ls 8 back fun _ r =>
        (match r.cand with
          | some c => { r with
              hit := c, group := r.shader, phase := if r.flags.getLsbD 2 then 3 else r.phase }
          | none => r).resumed) ∧
    (RayIssues s { len := 8, g := x.g, final := true, orders := true } h ls
        (fun t => t.ep = .anyHit ∨ t.ep = .isect) →
      EntersTraversal (.ignore x) s h ls 8 back fun _ r => r.resumed)) ∧
  (∀ (x : ReportOp) (s : State) (h : Here) (ls : Table Thread),
    RayIssues s { len := lenOf x.im, g := x.g, final := true, orders := true, uses := runs [x.a, x.b, x.c] } h ls
      (fun t => t.ep = .isect) →
    EntersTraversal (.report x) s h ls (lenOf x.im) (fun t => (t.ray.bind RayPart.ret).getD 0) fun t r =>
      let p := Src.float h.wave x.im t x.a
      let inRange := fle32 r.tmin p && fle32 p r.tmax
      (match r.cand with
        | none => r
        | some c =>
          if inRange && (r.hit.kind = 0 || flt32 p r.hit.t) then
            { r with
              hit := { c with
                t := p, u := Src.float h.wave x.im t x.b, v := Src.float h.wave x.im t x.c, kind := x.kind }
              group := r.shader, phase := if r.flags.getLsbD 2 then 3 else r.phase }
          else r).resumed)

/-- R288 to R290: KEY sets the thread's key, RNG writes a word that its three sources and its dimension alone
decide, or that word's top 24 bits as a fraction of 1, and ACCUM adds the lanes' pixels at D in lane order. -/
def Sys2Proof.Claim.KeyRandomAndAccumulate : Prop :=
  (∀ (x : OneSrcOp) (s : State) (h : Here) (ls : Table Thread),
    Issues s { len := lenOf x.im, g := x.g, cluster := true, uses := runs [x.a] } h ls →
    EndsWith (.key x) s h ls (lenOf x.im) fun _ t => { t with key := some (Src.int h.wave x.im t x.a) }) ∧
  (∀ (x : RngOp) (s : State) (h : Here) (ls : Table Thread),
    Issues s { len := 8, g := x.g, cluster := true, uses := (x.d.toNat, 1) :: runs [x.a, x.b, x.c] } h ls →
    LaneWrites (.rng x) s h ls 8 false x.d fun e r =>
      let v := Src.int h.wave none e.2
      let w := mix (mix (mix (mix (v x.a ^^^ 0x68E31DA4#32) ^^^ v x.b ^^^ 0xB5297A4D#32) ^^^ v x.c ^^^
        0x1B56C4E9#32) ^^^ x.dim.setWidth 32 ^^^ 0x7F4A7C15#32)
      (x.f = false → r.setWidth 32 = w) ∧
      (x.f = true → r.setWidth 32 = toF32 .rne (Real'.scaled false (w.toNat / 256) (-24)))) ∧
  (∀ (x : AccumOp) (s s' s2 : State) (h : Here) (ls : Table Thread) (accs : List Acc) (w : Wave),
    Issues s { len := 8, g := x.g, cluster := true, uses := (x.c.toNat, 4) :: Src.run 2 x.a } h ls →
    (∀ e ∈ ls, genericAddr h.wave none e.2 x.a x.b < windowBase) →
    Passes s h (ls.map fun e => genericReq none x.a x.b 16 h e.1 e.2) .write true accs s' →
    poisonHit s' h accs = none →
    accumAll ((accs.filterMap fun a => match a.spot with
      | .mem pa _ => some pa
      | .scr _ => none).eraseDups) s' h x.c.toNat accs = .ok (s2, w) →
    exec (.accum x) s = .next ((s2.reachAtoms h .d accs).doneLen h w 8)) ∧
  (∀ (c : Nat) (t : Thread) (old : List Byte), old.length = 16 →
    let new := accumPixel c [t] old
    wordAt new 0 = fadd32 (wordAt old 0) (t.reg c) ∧ wordAt new 4 = fadd32 (wordAt old 4) (t.reg (c + 1)) ∧
    wordAt new 8 = fadd32 (wordAt old 8) (t.reg (c + 2)) ∧ wordAt new 12 = wordAt old 12 + t.reg (c + 3))

/-- R281 to R283, R288 to R290: the fields of a ray, keys, random numbers and accumulation. -/
def Obligations.RayFieldsAndNumbers : Prop :=
  Claim.RayFields ∧ Claim.KeyRandomAndAccumulate

/-! ### The matrix engine (spec/10) -/

/-- R300 to R303: MMA and MMAS that pass their checks hand the engine an operation with A, its scales, B and the
metadata as they stand at issue, and end at the next slot. -/
def Sys2Proof.Claim.MatrixProductsIssue : Prop :=
  ∀ (x : MmaOp) (sparse : Bool) (s s' : State) (h : Here) (ls : Table Thread) (c : Crew) (fa fb : Fmt)
    (blk : Block) (te me : TileEntry) (first : Nat) (shell : Table Nat),
    MatrixIssues s { len := 16, g := x.g, sel := x.sel } h ls c
      (decide ((s.slotOf h.wave.kid x.aslot.toNat).fmt = some .vq2)) →
    MmaMay s x sparse h ls c fa fb blk te me first →
    let m := regRows x.reg
    let a := h.wave.matrix x.va.toNat (aBytes fa m (if sparse then mmaK x / 2 else mmaK x))
    (fa = .vq2 → shellSpots (shellKeys a) s h.via h.wave.ctx (s.slotOf h.wave.kid x.aslot.toNat).shell =
      (.ok shell, s')) →
    (fa ≠ .vq2 → shell = [] ∧ s' = s) →
    let t := s'.reachShell h (s.slotOf h.wave.kid x.aslot.toNat).shell shell
    EngineRoom t h →
    let i : Instr := if sparse then .mmas x else .mma x
    let base := blk.scratch + 128 * te.base
    let mbase := blk.scratch + 128 * me.base + first
    let mspots := if sparse then natsFrom mbase (m * mmaK x / 8) else []
    ∃ ss : List Byte, (∀ r, x.vs = .v r → ss = h.wave.matrix r.toNat (scaleBytes fa m (mmaK x))) ∧
    exec i s = .next (t.handed h 16 x.sel
      { engineOp s' h c i with
        a := a, s := ss, base := base, mbase := mbase, shell := shell
        b := s'.scratchBytes h.core (bSpots x fb base), m := s'.scratchBytes h.core mspots
        lines := ((bSpots x fb base ++ mspots).map (· / 128)).eraseDups } false)

/-- R305 to R310: MLD, both forms of MST, MZERO, MCVT, CBDEC and BSCALE that pass their checks hand their operation
to the engine and end at the next slot; MZERO.stat waits for the crew's operations and then reads and clears the
sparsity status. -/
def Sys2Proof.Claim.MatrixMovesIssue : Prop :=
  (∀ (x : MldOp) (s : State) (h : Here) (ls : Table Thread) (c : Crew) (f : Fmt) (l : Nat) (t : Thread),
    MatrixIssues s { len := 16, g := x.g, sel := x.sel } h ls c true →
    (s.slotOf h.wave.kid x.slot.toNat).accepted Fmt.plain = some f → tileHeld c x.acc.toNat x.reg = true →
    h.wave.lanes.head? = some (l, t) →
    let base := (Src.int64 h.wave none t x.a).toNat
    let n := regCols x.reg * f.size
    base + (regRows x.reg - 1) * x.pitch.toNat + n ≤ windowBase →
    base % f.size = 0 → x.pitch.toNat % f.size = 0 →
    ∀ (kind : Access) (s' : State) (pas : List Nat),
      rowPas (regRows x.reg) s h.via h.wave.ctx base x.pitch.toNat n kind = (.ok pas, s') →
      let vas := (natsFrom 0 (regRows x.reg)).flatMap fun r => natsFrom (base + r * x.pitch.toNat) n
      let u := s'.reachLines (.loadStore h.core) h.wave.ctx (vas.zip pas)
      let ends (i : Instr) (u : State) : Prop := EngineRoom u h → exec i s = .next (u.handed h 16 x.sel
        { engineOp s' h c i with pas := pas, base := base, crd := Src.int h.wave none t x.crd } false)
      (kind = .read → ends (.mld x) (u.farRead (.thread t.uid) h.wave.kid false pas)) ∧
      (kind = .write → ends (.mst x) u)) ∧
  (∀ (x : MstSpOp) (s : State) (h : Here) (ls : Table Thread) (c : Crew) (f : Fmt) (l : Nat) (t : Thread)
      (blk : Block) (te : TileEntry),
    MatrixIssues s { len := 16, g := x.g, sel := x.sel } h ls c →
    (s.slotOf h.wave.kid x.slot.toNat).accepted Fmt.plain = some f → tileHeld c x.acc.toNat x.reg = true →
    s.blockHere ls = some blk → ls.head? = some (l, t) → s.tile? blk x.tile.toNat = some te →
    pitched x.pitch.toNat f.size (regRows x.reg - 1) (regCols x.reg - 1) + f.size ≤ (te.count + 1) * 128 →
    s.tileState blk te = .ready → EngineRoom s h →
    let base := blk.scratch + 128 * te.base
    let spots := (gridPairs (regRows x.reg) (regCols x.reg)).flatMap fun p =>
      natsFrom (base + pitched x.pitch.toNat f.size p.1 p.2) f.size
    exec (.mstSp x) s = .next (s.handed h 16 x.sel
      { engineOp s h c (.mstSp x) with
        base := base, pas := spots, crd := Src.int h.wave none t x.crd
        wlines := (spots.map (· / 128)).eraseDups } false)) ∧
  (∀ (x : MzeroOp) (s : State) (h : Here) (ls : Table Thread) (c : Crew),
    (MatrixIssues s { len := 8, g := x.g } h ls c → x.d.toNat < c.tiles.length → EngineRoom s h →
      exec (.mzero x) s = .next (s.handed h 8 .none (engineOp s h c (.mzero x)) false)) ∧
    (MatrixIssues s { len := 8, g := x.g, uses := [(x.d.toNat, 1)] } h ls c →
      s.engineBusy h.core c.uid = false → c.pend = none →
      exec (.mzeroStat x) s = .next ((s.updCrew h.core c.uid fun c => { c with sparse := false }).doneLen h
        (h.wave.updLanes ls fun _ t => t.setReg x.d.toNat (if c.sparse then 1 else 0)) 8))) ∧
  (∀ (x : McvtOp) (s : State) (h : Here) (ls : Table Thread) (c : Crew) (f : Fmt) (l : Nat) (t : Thread),
    MatrixIssues s { len := 16, g := x.g, sel := x.sel } h ls c x.amax.isSome →
    (s.slotOf h.wave.kid x.slot.toNat).accepted Fmt.plain = some f → tileHeld c x.tile.toNat x.reg = true →
    crewInRange ls [(x.d.toNat, runRegs (regRows x.reg * regCols x.reg * f.size))] = true →
    ls.head? = some (l, t) →
    ∀ (s' : State) (pas : List Nat), EngineRoom s' h →
      (x.amax = none → s' = s ∧ pas = []) →
      (∀ a, x.amax = some a →
        let va := (Src.int64 h.wave none t a).toNat
        va % 4 = 0 ∧ va < windowBase ∧ ∃ u, s.unitPas h.via h.wave.ctx va 4 .write = (.ok pas, u) ∧
          s' = u.reachLines (.loadStore h.core) h.wave.ctx ([va].zip pas)) →
      exec (.mcvt x) s = .next (s'.handed h 16 x.sel
        { engineOp s h c (.mcvt x) with pas := pas, crd := Src.int h.wave none t x.crd } true)) ∧
  (∀ (x : CbdecOp) (s s' : State) (h : Here) (ls : Table Thread) (c : Crew) (fd : Fmt) (shell : Table Nat),
    let n := x.n.toNat + 1
    let ss := s.slotOf h.wave.kid x.sslot.toNat
    let a := h.wave.matrix x.a.toNat (2 * n)
    MatrixIssues s { len := 16, g := x.g, sel := x.sel, uses :=
        [(x.a.toNat, runRegs (2 * n)), (x.b.toNat, runRegs ((n + 5) / 6))] } h ls c true →
    ss.valid = true → ss.fmt = some .vq2 →
    (s.slotOf h.wave.kid x.dslot.toNat).accepted Fmt.plain = some fd →
    crewInRange ls [(x.d.toNat, runRegs (8 * n * fd.size))] = true →
    shellSpots (shellKeys a) s h.via h.wave.ctx ss.shell = (.ok shell, s') →
    let t := s'.reachShell h ss.shell shell
    EngineRoom t h →
    exec (.cbdec x) s = .next (t.handed h 16 x.sel
      { engineOp s' h c (.cbdec x) with
        a := a, s := h.wave.matrix x.b.toNat ((n + 5) / 6), shell := shell } true)) ∧
  (∀ (x : BscaleOp) (s : State) (h : Here) (ls : Table Thread) (c : Crew),
    let n := if x.col then regCols x.reg else regRows x.reg
    MatrixIssues s { len := 16, g := x.g, sel := x.sel, uses := [(x.a.toNat, runRegs (4 * n))] } h ls c →
    tileHeld c x.tile.toNat x.reg = true → EngineRoom s h →
    exec (.bscale x) s = .next (s.handed h 16 x.sel
      { engineOp s h c (.bscale x) with a := h.wave.matrix x.a.toNat (4 * n) } false))

/-- R300 to R303, R305 to R310: the matrix instructions hand their operations to the engine.
Rests on choices of the model: logs 15, 17, 59 and 60. -/
def Obligations.MatrixInstructionsIssue : Prop :=
  Claim.MatrixProductsIssue ∧ Claim.MatrixMovesIssue

/-- R297, R300, R305, R306, R310: what MMA, MMAS, MLD and BSCALE make of their tile. An element outside the region
stays; one of the region takes the accumulated products in ascending k, the value read, or the scaled value.
Rests on choices of the model: log 22. -/
def Obligations.TileElements : Prop :=
  ∀ (r : Region) (tile : Table Word) (i j : Nat), regFits r = true →
    let within := i < regRows r ∧ j < regCols r
    let old := Table.getD tile (regElem r i j) 0
    let outside (t : Table Word) : Prop :=
      ∀ e, (∀ a < regRows r, ∀ b < regCols r, e ≠ regElem r a b) → Table.get? t e = Table.get? tile e
    (∀ (x : MmaOp) (sparse : Bool) (sa sb : Slot) (fa fb : Fmt) (o : EngineOp) (b : List Byte), x.reg = r →
      let t := mmaTile x sparse sa sb fa fb o b tile
      outside t ∧ (within → Table.get? t (regElem r i j) =
        some (matAccumulate (groupSize fa fb) x.dis old ((natsFrom 0 (mmaK x)).map fun k =>
          (aElem x sparse sa fa o i k).mul (bElem x sb fb b k j))))) ∧
    (∀ (sl : Slot) (f : Fmt) (bs : List Byte),
      let t := mldTile r sl f bs tile
      outside t ∧ (within → Table.get? t (regElem r i j) =
        some (rne32 (sl.decode f (elemAt bs (i * regCols r + j) f.size) 0)))) ∧
    (∀ (x : BscaleOp) (fs : List Byte), x.reg = r →
      let t := bscaleTile x fs tile
      outside t ∧ (within → Table.get? t (regElem r i j) =
        some (fmul32 old (wordAt fs (4 * (if x.col then j else i))))))

/-- R17, R98, R132, R177, R178, R297, R449: an operation in flight makes one of its register writes early, or the reads at D
that it has left, of which each byte is read once, or completes, once what it reads of the peer's has come: its writes are
in the registers, its flag counts one less in its lanes, and a wave held for it goes on; a load without a flag completes
with its reads. An engine operation first begins, which changes its tile, once everything that issued to the engine
before it has been performed and the lines of its operands are full; then each line it writes lands as one arrival.
Rests on choices of the model: logs 7 and 8. -/
def Obligations.OperationsComplete : Prop :=
  (∀ (x : CoreItem) (s : State) (p : PendOp), Runs s (clusterOf (coreNum x.core)) →
    Table.get? (s.core (coreNum x.core)).ops x.n = some p → p.eng = none →
    (∀ j w, p.writes[j]? = some w →
      exec (.flagOpComplete x (some j)) s = .next (s.updCore (coreNum x.core) fun c =>
        { c with
          waves := Table.upd c.waves p.slot fun v => v.write w
          ops := Table.put c.ops x.n { p with writes := p.writes.take j ++ p.writes.drop (j + 1) } })) ∧
    (∀ j, p.writes.length ≤ j → coreNum x.core < s.cores.length →
      let got := (s.drawShared (p.late.map fun l => l.reader s)).1
      let ws := p.writes ++ p.late.flatMap fun l => l.writes got
      let blind (w : Wave) : Wave := { w with lanes := w.lanes.map fun e => (e.1, { e.2 with seen := [] }) }
      ∃ t : State, exec (.flagOpComplete x (some j)) s = .next t ∧ t.mem = s.mem ∧
        (p.flag.isSome = true →
          Table.get? (t.core (coreNum x.core)).ops x.n = some { p with writes := ws, late := [] }) ∧
        (p.flag = none → Table.get? (t.core (coreNum x.core)).ops x.n = none ∧
          ∀ w, Table.get? (s.core (coreNum x.core)).waves p.slot = some w →
            ∃ w', Table.get? (t.core (coreNum x.core)).waves p.slot = some w' ∧ blind w' = blind (w.writes ws))) ∧
    (s.linkHolds p.uids = true → exec (.flagOpComplete x none) s = .next s) ∧
    (s.linkHolds p.uids = false → ∃ t : State, exec (.flagOpComplete x none) s = .next t ∧ t.mem = s.mem ∧
      (coreNum x.core < s.cores.length → Table.get? (t.core (coreNum x.core)).ops x.n = none)) ∧
    (s.linkHolds p.uids = false → p.late = [] →
      exec (.flagOpComplete x none) s = .next (s.updCore (coreNum x.core) fun c =>
      { c with
        ops := Table.del c.ops x.n
        waves := Table.upd c.waves p.slot fun v =>
          let w := v.writes p.writes
          { w with
            lanes := w.lanes.map fun e => (e.1, match p.flag with
              | some n => if e.2.uid ∈ p.uids then e.2.flagDown n else e.2
              | none => e.2)
            park := if w.park = .engine x.n then .none else w.park } }))) ∧
  (∀ (x : CoreItem) (s : State) (p : PendOp) (o : EngineOp),
    let core := coreNum x.core
    Runs s (clusterOf core) → Table.get? (s.core core).ops x.n = some p → p.eng = some o → core < s.cores.length →
    (o.out = none → ((s.core core).mayBegin o.id = false ∨ ∃ l ∈ o.lines, l ∈ (s.core core).empty) →
      ∀ k, exec (.flagOpComplete x k) s = .next s) ∧
    (o.out = none → (s.core core).mayBegin o.id = true → (∀ l ∈ o.lines, l ∉ (s.core core).empty) →
      ((∃ y, o.i = .mld y) ∨ (∃ y, o.i = .mcvt y) → ∀ a ∈ o.pas, s.mem.poisoned a 1 = false) →
      ((∀ y, o.i ≠ .mld y) → (∀ y, o.i ≠ .mcvt y) → ∀ e ∈ o.shell, s.mem.poisoned e.2 4 = false) →
      s.linkHolds p.uids = false →
      let b := s.begin core o
      b.out = [] →
      ∃ t : State, exec (.flagOpComplete x none) s = .next t ∧ t.mem = b.s.mem ∧
        ((t.core core).crews.map fun e => (e.1, e.2.uid, e.2.tiles)) =
          ((b.s.core core).crews.map fun e => (e.1, e.2.uid, e.2.tiles)) ∧
        Table.get? (t.core core).ops x.n = none) ∧
    (∀ out j l, o.out = some out → o.outLines[j]? = some l →
      ∃ t : State, exec (.flagOpComplete x (some (p.writes.length + j))) s = .next t ∧
        (∃ q o', Table.get? (t.core core).ops x.n = some q ∧ q.eng = some o' ∧ l ∉ o'.outLines ∧
          o'.out = some (out.filter fun e => e.1 / 128 ≠ l)) ∧
        (o.toScratch = false → s.farLost ((out.filter fun e => e.1 / 128 = l).map Prod.fst) = false →
          t.mem = s.mem.arriveD s.tick (.agent o.id) ((out.filter fun e => e.1 / 128 = l).map
          fun e => { addr := e.1, val := e.2, who := [], marks := [] })) ∧
        (o.toScratch = true → t.mem = s.mem ∧ (t.core core).scratch =
          (out.filter fun e => e.1 / 128 = l).foldl (fun c e => cellSet c e.1 e.2) (s.core core).scratch))) ∧
  (∀ (s : State) (core : Nat) (o : EngineOp) (e : Nat × Crew),
    ((s.core core).crews.find? fun e => e.2.uid = o.crewUid) = some e → core < s.cores.length →
    (∀ x n, o.i = .mzero x → x.d.toNat < e.2.tiles.length →
      Table.getD ((s.begin core o).s.tileOf core o x.d.toNat) n 0 = 0) ∧
    (∀ x, o.i = .bscale x → x.tile.toNat < e.2.tiles.length →
      (s.begin core o).s.tileOf core o x.tile.toNat =
        bscaleTile x o.a (s.tileOf core o x.tile.toNat)))

/-! ### Textures and launches from threads (spec/10) -/

/-- R292 to R296: TEX2 writes the four components of a filtered sample, a blend of two levels where the filter is
linear between levels, and TEXG one component of the four texels of a footprint.
Rests on choices of the model: log 24. -/
def Obligations.TexturesComplete : Prop :=
  (∀ (x : Tex2Op) (s s2 : State) (h : Here) (ls : Table Thread) (rs : List (TexLane × List Rgba)),
    let c := x.c.toNat
    Issues s { len := 16, g := x.g, sel := x.sel, cluster := true, uses := (x.d.toNat, 4) ::
      (c, match x.mode with
        | .base => 2
        | .lod => 3
        | .grad => 6) :: Src.run 2 x.a } h ls → s.requestsFull h = false →
    TexReads s s2 h ls x.a
      (fun s t d => s.taps d (texLambda x.mode x.bias t c d) (t.reg c) (t.reg (c + 1))) rs →
    ∃ words : TexLane → List Rgba → List Word,
      exec (.tex2 x) s = .next (s2.doneWrites h h.wave 16 x.sel ls (rs.flatMap fun e =>
        vWrites e.1.t x.d.toNat ((words e.1 e.2).map cleanNan))) ∧
      ∀ y cs,
        (∀ t, y.taps = [t] → words y cs = (t.sample cs).words) ∧
        (∀ t u, y.taps = [t, u] →
          let k := if t.four then 4 else 1
          words y cs = (blendAll y.w (t.sample (cs.take k)) (u.sample (cs.drop k))).words)) ∧
  (∀ (x : TexgOp) (s s2 : State) (h : Here) (ls : Table Thread) (rs : List (TexLane × List Rgba)),
    let c := x.c.toNat
    Issues s { len := 16, g := x.g, sel := x.sel, cluster := true, uses :=
      (x.d.toNat, 4) :: (c, 2) :: Src.run 2 x.a } h ls → s.requestsFull h = false →
    TexReads s s2 h ls x.a (fun s t d =>
      let r := s.tap d (min x.level.toNat (d.levels - 1)) true (t.reg c) (t.reg (c + 1))
      ([r.1], Real'.ofInt 0, r.2)) rs →
    exec (.texg x) s = .next (s2.doneWrites h h.wave 16 x.sel ls (rs.flatMap fun e =>
      vWrites e.1.t x.d.toNat ((e.2.map fun q => q.get x.comp.toNat).map cleanNan))))

/-- R311 to R314, R452: LAUNCH places a child of each lane's grid in the pool, or gives predicate 0 and handle 0
where the nesting limit or the pool refuses it; LWAIT ends once every lane's child is complete, and its test form
writes whether it is, or, where replay forces 1, waits for the completion; PROG counts one more in its context's counter,
where no SWR of the same cc has written it (R388).
Rests on choices of the model: log 16. -/
def Obligations.LaunchesComplete : Prop :=
  (∀ (x : LaunchOp) (s s' : State) (h : Here) (ls : Table Thread) (rs : List (Nat × Thread × LaunchRec)),
    Issues s { len := 8, g := x.g, cluster := true, orders := true, uses := (x.d.toNat, 1) :: Src.run 2 x.a } h ls →
    let addr (t : Thread) : Nat := (Src.int64 h.wave none t x.a).toNat
    (∀ e ∈ ls, addr e.2 < windowBase ∧ addr e.2 % 256 = 0) →
    launchRecs h addr ls s = (.ok (rs.map fun e => (e.1, e.2.1, some e.2.2)), s') →
    let r := rs.foldl (fun r e =>
      State.launchLane r.1 h x.pd.toNat x.d.toNat r.2 e.1 e.2.1 e.2.2) (s', h.wave)
    exec (.launch x) s = .next (r.1.doneLen h r.2 8)) ∧
  (∀ (s : State) (h : Here) (pd d : Nat) (w : Wave) (l : Nat) (t : Thread) (r : LaunchRec) (g : Grid),
    Table.get? s.grids t.kid = some g → s.forced h.wave.ctx (clusterOf h.core) h.wave.pc.toNat 0 l = none →
    let u := s.launchLane h pd d w l t r
    let lane := Table.get? u.2.lanes l
    (s.nestLimit g ≤ g.depth ∨ s.poolFree.1 = none →
      lane = some (((t.release (s.markOf h t .d)).setPred pd false).setReg d 0) ∧ u.1.grids = s.grids) ∧
    (∀ i, g.depth < s.nestLimit g → s.poolFree.1 = some i →
      let gen := nextGen (Table.getD s.dev.gens i 0)
      lane = some (((t.release (s.markOf h t .d)).setPred pd true).setReg d (BitVec.ofNat 32 (i + 4096 * gen))) ∧
      gen ≠ 0 ∧ ∃ c, Table.get? u.1.grids s.uids = some c ∧ c.parent = some g.kid ∧ c.root = g.root ∧
        c.depth = g.depth + 1 ∧ c.lrec = r ∧ c.ctx = g.ctx ∧ c.pool = some (i, gen) ∧ c.ended = false ∧
        c.next = 0 ∧ c.count = r.gridSize ∧ ∀ k, k ≠ s.uids → Table.get? u.1.grids k = Table.get? s.grids k)) ∧
  (∀ (x : LwaitOp) (s : State) (h : Here) (ls : Table Thread),
    Issues s { len := 8, g := x.g, cluster := true, uses := runs [x.a] } h ls →
    let hd (t : Thread) : Nat := (Src.int h.wave none t x.a).toNat
    ((∀ e ∈ ls, s.childOpen h.wave.ctx (hd e.2) = false) →
      exec (.lwait x) s = .next (s.doneLen h
        { h.wave.updLanes ls (fun _ t => s.acquireChild h t (hd t)) with park := .none } 8)) ∧
    ((∃ e ∈ ls, s.childOpen h.wave.ctx (hd e.2) = true) →
      exec (.lwait x) s = .next (s.putWave h
        { h.wave with park := .child (s.openChildren h.wave.ctx (ls.map fun e => hd e.2)) }))) ∧
  (∀ (x : LwaitTestOp) (s : State) (h : Here) (ls : Table Thread),
    Issues s { len := 8, g := x.g, cluster := true, uses := runs [x.a] } h ls →
    let cl := clusterOf h.core
    let pc := h.wave.pc.toNat
    let hd (t : Thread) : Nat := (Src.int h.wave none t x.a).toNat
    let waits := ∃ k e, ls[k]? = some e ∧ s.forced h.wave.ctx cl pc 1 e.1 k = some 1 ∧
      s.childOpen h.wave.ctx (hd e.2) = true
    let r := ls.foldl (fun (r : State × Wave) e =>
      let b := decide (r.1.forced h.wave.ctx cl pc 1 e.1 ≠ some 0) && !s.childOpen h.wave.ctx (hd e.2)
      (r.1.input h.wave.ctx cl pc 1 e.1 (if b then 1 else 0), r.2.setLane e.1
        ((if b then s.acquireChild h e.2 (hd e.2) else e.2).setPred x.pd.toNat b))) (s, h.wave)
    (waits → exec (.lwaitTest x) s = .next s) ∧ (¬ waits → exec (.lwaitTest x) s = .next (r.1.doneLen h r.2 8))) ∧
  (∀ (x : LwaitTestOp) (s : State) (h : Here) (l : Nat) (t : Thread),
    Issues s { len := 8, g := x.g, cluster := true, uses := runs [x.a] } h [(l, t)] →
    let cl := clusterOf h.core
    let pc := h.wave.pc.toNat
    let hd := (Src.int h.wave none t x.a).toNat
    let b := !s.childOpen h.wave.ctx hd
    s.forced h.wave.ctx cl pc 1 l = none →
    exec (.lwaitTest x) s = .next ((s.input h.wave.ctx cl pc 1 l (if b then 1 else 0)).doneLen h
      (h.wave.setLane l ((if b then s.acquireChild h t hd else t).setPred x.pd.toNat b)) 8)) ∧
  (∀ (x : ProgOp) (s : State) (h : Here) (ls : Table Thread),
    Issues s { len := 8, g := x.g, cluster := true } h ls →
    (s.swrStands (0x060 + x.n.toNat) h.wave.ctx = false → exec (.prog x) s = .next ((s.updCtx h.wave.ctx fun c =>
      { c with prog := listUpd c.prog x.n.toNat fun v => v + 1 }).doneLen h h.wave 8)) ∧
    (s.swrStands (0x060 + x.n.toNat) h.wave.ctx = true → exec (.prog x) s = .next (s.doneLen h h.wave 8)))

/-! ### System instructions (spec/16) -/

/-- R380, R387, R388: SRD writes the register's value to its pair and SWR writes the register, where the register
exists and the slot reaches it; one that does not exist is 0x01 with cause 10, and one of another partition is
0x05; TRET ends the handler. -/
def Sys2Proof.Claim.PrivilegedRegisters : Prop :=
  (∀ (x : SrdOp) (s : State) (h : Here) (l : Nat) (t : Thread),
    SystemIssues s 16 x.g .supervisor [(x.d.toNat, 2)] h l t →
    (s.regCheck (.slot h.who) x.n.toNat x.i.toNat = none →
      exec (.srd x) s = .next (s.doneLen h (h.wave.setLane l
        (t.setPair x.d.toNat (s.regRead x.n.toNat x.i.toNat))) 16)) ∧
    (∀ e, s.regCheck (.slot h.who) x.n.toNat x.i.toNat = some e →
      exec (.srd x) s = .next (s.raise h { code := e.code, cause := e.cause, lane := lowLane h.wave.active }))) ∧
  (∀ (x : SwrOp) (s s' : State) (h : Here) (l : Nat) (t : Thread),
    SystemIssues s 16 x.g .supervisor (Src.run 2 x.a) h l t →
    s.regWrite (.slot h.who) x.n.toNat x.i.toNat (Src.int64 h.wave none t x.a) = .ok s' →
    exec (.swr x) s = .next (State.doneLen { s' with
      cc := { s'.cc with swr := (x.n.toNat, x.i.toNat) :: s'.cc.swr } } h h.wave 16)) ∧
  (∀ (s : State) (f n i : Nat), f < 16 →
    (regKind n = none → s.regCheck (.slot f) n i = some { code := 1, cause := 10 }) ∧
    (regKind n = some .part → i < 16 → i ≠ f → s.regCheck (.slot f) n i = some { code := 5 }) ∧
    (regKind n = some .cluster → i < 16 → s.inPart f i = false →
      s.regCheck (.slot f) n i = some { code := 5 }) ∧
    (regKind n = some .ctx → i < 64 → s.partOf i ≠ f → s.regCheck (.slot f) n i = some { code := 5 })) ∧
  (∀ (x : NullOp) (s : State) (h : Here) (l : Nat) (t : Thread),
    SystemIssues s 8 x.g .supervisor [] h l t →
    ∃ u : State, exec (.tret x) s = .next u ∧ (h.who < s.handlers.length → (u.handler h.who).wave = none))

/-- R388: TLBINV, CINV, HALTC, HOSTIRQ, WAITI and FQPOP. -/
def Sys2Proof.Claim.SystemOperations : Prop :=
  (∀ (x : TlbinvOp) (s : State) (h : Here) (l : Nat) (t : Thread) (c : Nat),
    SystemIssues s 8 x.g .supervisor (runs [x.c] ++ (match x.page with
      | some a => Src.run 2 a
      | none => [])) h l t →
    s.ctxOperand h (Src.int h.wave none t x.c) = .ok c →
    ∃ u : State,
      ((∀ k ∈ s.cores, k.translated c = false) → exec (.tlbinv x) s = .next (u.doneLen h h.wave 8)) ∧
      ((∃ k ∈ s.cores, k.translated c = true) → exec (.tlbinv x) s = .next u) ∧ u.mem = s.mem ∧
      (x.page = none → ∀ cl < s.clusters.length, s.inPart (s.partOf c) cl = true →
        (∀ e ∈ (u.cluster cl).tlb, e.ctx ≠ c) ∧ (∀ e ∈ (u.cluster cl).walks, e.ctx ≠ c) ∧
        ∀ co < s.cores.length, co / 8 = cl → ∀ e ∈ (u.core co).tlb, e.ctx ≠ c) ∧
      (∀ a, x.page = some a → ∀ cl < s.clusters.length, s.inPart (s.partOf c) cl = true →
        let va := (Src.int64 h.wave none t a).toNat
        ∀ e ∈ (u.cluster cl).tlb, e.ctx = c → ¬ (e.vbase ≤ va ∧ va < e.vbase + e.bytes))) ∧
  (∀ (x : CinvOp) (s : State) (h : Here) (l : Nat) (t : Thread) (cs : List Nat),
    SystemIssues s 8 x.g .supervisor (runs [x.m]) h l t →
    s.maskOperand h (Src.int h.wave none t x.m) = .ok cs →
    ∃ u : State, exec (.cinv x) s = .next (u.doneLen h h.wave 8) ∧ u.mem = s.mem ∧ u.cores = s.cores ∧
      ∀ cl ∈ cs, cl < s.clusters.length → (x.kind = .code → (u.cluster cl).fcache = []) ∧
        (x.kind = .tree → ∀ e ∈ (u.cluster cl).treelets, e.1 % 2 = 1) ∧
        (x.kind = .data → (u.cluster cl).dataFloor = s.mem.pos ∧
          ∀ e ∈ (u.cluster cl).treelets, e.1 % 2 = 0)) ∧
  (∀ (x : HaltcOp) (s : State) (h : Here) (l : Nat) (t : Thread) (cs : List Nat),
    SystemIssues s 8 x.g .firmware (runs [x.m]) h l t →
    s.maskOperand h (Src.int h.wave none t x.m) = .ok cs →
    ∃ u : State, exec (.haltc x) s = .next (u.doneLen h h.wave 8) ∧
      (x.resume = false → (∀ c, (s.ctx c).dbg.ctl.getLsbD 18 = false) → u.mem = s.mem) ∧
      ∀ cl ∈ cs, cl < s.clusters.length →
        (u.cluster cl).dbg.frozen = !x.resume ∧ (u.cluster cl).dbg.step = none) ∧
  (∀ (x : HostirqOp) (s : State) (h : Here) (l : Nat) (t : Thread),
    SystemIssues s 8 x.g .supervisor [] h l t →
    exec (.hostirq x) s = .next ((s.setDev
      { s.dev with irqPend := s.dev.irqPend ||| BitVec.ofNat 32 (2 ^ x.n.toNat) }).doneLen h h.wave 8)) ∧
  (∀ (x : WaitiOp) (s : State) (h : Here) (l : Nat) (t : Thread),
    SystemIssues s 8 x.g .supervisor [] h l t →
    ((x.state = true ∧ (s.handler h.who).changed = true) ∨ (x.bell = true ∧ (s.handler h.who).bell = true) ∨
      (x.queue = true ∧ h.who < 16 ∧ (s.part h.who).ring ≠ [])) →
    exec (.waiti x) s = .next ((s.updHandler h.who fun y =>
      { y with bell := false, changed := false }).doneLen h h.wave 8)) ∧
  (∀ (x : FqpopOp) (s : State) (h : Here) (l : Nat) (t : Thread),
    SystemIssues s 8 x.g .supervisor [(x.d.toNat, 2)] h l t → h.who < 16 →
    let s1 := s.releaseHeld h.who
    ((s1.part h.who).ring = [] → exec (.fqpop x) s =
      .next (s1.doneLen h (h.wave.setLane l (t.setPred x.pd.toNat false)) 8)) ∧
    (∀ e rest, (s1.part h.who).ring = e :: rest → exec (.fqpop x) s =
      .next ((s1.updPart h.who fun p => { p with ring := rest, held := some e }).doneLen h
        (h.wave.setLane l ((t.setPred x.pd.toNat true).setPair x.d.toNat
          (BitVec.ofNat 64 ((s1.part h.who).fqbase + 64 * e.1)))) 8)))

/-- R380, R387, R388: the privileged registers, and the system operations.
Rests on choices of the model: logs 82 and 83. -/
def Obligations.SystemInstructions : Prop :=
  Claim.PrivilegedRegisters ∧ Claim.SystemOperations

/-- R388, R446, R471: DUMP of a settled context writes its dump and the bytes written; CTXSAVE of a saved context
copies its image to the address given; CTXLOAD of an image that is valid there makes the context saved.
Rests on choices of the model: logs 12 and 46. -/
def Obligations.ContextImages : Prop :=
  (∀ (x : DumpOp) (s : State) (h : Here) (l : Nat) (t : Thread) (c : Nat),
    SystemIssues s 8 x.g .supervisor
      ((x.d.toNat, 2) :: (runs [x.c] ++ Src.run 2 x.a ++ Src.run 2 x.l)) h l t →
    s.ctxOperand h (Src.int h.wave none t x.c) = .ok c → (s.ctx c).settled = true →
    let r := s.dump c (Src.int64 h.wave none t x.a).toNat (Src.int64 h.wave none t x.l).toNat
    r.fault = none →
    exec (.dump x) s = .next (r.s.doneLen h
      (h.wave.setLane l (t.setPair x.d.toNat (BitVec.ofNat 64 r.bytes))) 8)) ∧
  (∀ (x : CtxImgOp) (s : State) (h : Here) (l : Nat) (t : Thread) (c : Nat),
    SystemIssues s 8 x.g .firmware (runs [x.c] ++ Src.run 2 x.a) h l t →
    s.ctxOperand h (Src.int h.wave none t x.c) = .ok c →
    let va := (Src.int64 h.wave none t x.a).toNat
    let area := (s.ctx c).saveArea
    let n := s.areaBytes c
    s.rangeBad va n = none →
    ((s.ctx c).st = .saved → s.mem.poisonIn area n = none →
      ∃ u : State, exec (.ctxsave x) s = .next (u.doneLen h h.wave 8) ∧
        u.mem = (s.copyImage area va n).mem ∧ u.ctxs = s.ctxs ∧
        ∀ m, (s.images.find? fun m => m.area = area) = some m → ∃ m' ∈ u.images, m' = { m with area := va }) ∧
    ((s.ctx c).bound = true → (s.ctx c).settled = true → s.mem.poisonIn va n = none →
      ∀ m, s.imageAt va (s.part (s.partOf c)).size = some m →
      ∃ u : State, exec (.ctxload x) s = .next (u.doneLen h h.wave 8) ∧
        u.mem = (s.copyImage va area n).mem ∧ (c < s.ctxs.length → (u.ctx c).st = .saved) ∧
        ∃ m' ∈ u.images, m'.area = area ∧ m'.ctx = c ∧ m'.bytes = m.bytes))

/-! ### Streams (spec/11) -/

/-- R318, R321, R322, R329: the scalar instructions of a stream are decoded, and their results stand in the
speculative registers at once. -/
def Sys2Proof.Claim.StreamScalars : Prop :=
  ∀ (s : State) (c : Nat), s.cur = .stream c →
    let n := (s.ctx c).stream
    let up := n.spcS + 16
    let q (i : BitVec 5) : DWord := Table.getD n.qS i.toNat 0
    let val (x : QSrc) : DWord := match x with
      | .imm v => v
      | .q i => q i
    Decodes .nopq s s c up n.stackS (fun n' e => Keeps n n' e ∧ e.st = .done) ∧
    Decodes .haltq s s c up n.stackS (fun n' e => Keeps n n' e ∧ n'.stopDecode = true) ∧
    (∀ x, Decodes (.setq x) s s c up n.stackS fun n' e => SetsScalar n n' e x.d x.imm) ∧
    (∀ x, Decodes (.movq x) s s c up n.stackS fun n' e => SetsScalar n n' e x.d (q x.a)) ∧
    (∀ x, Decodes (.addq x) s s c up n.stackS fun n' e => SetsScalar n n' e x.d (q x.a + val x.b)) ∧
    (∀ x, Decodes (.cmpq x) s s c up n.stackS fun n' e => ∃ v, SetsScalar n n' e x.d v ∧ (v = 0 ∨ v = 1) ∧
      (v = 1 ↔ wcondHolds x.cond 64 (q x.a).toNat (val x.b).toNat = true)) ∧
    (∀ x pas bs s1, n.win.all Entry.complete = true →
      (q x.a + x.imm).toNat < windowBase → (q x.a + x.imm).toNat % 8 = 0 →
      s.unitFetch (s.laneVia c) c (q x.a + x.imm).toNat 8 = (.ok (pas, bs), s1) → (s1.ctx c).stream = n →
      Decodes (.ldq x) s s1 c up n.stackS fun n' e =>
        SetsScalar n n' e x.d (BitVec.ofNat 64 (natOf bs)))

/-- R320, R321: BRQ goes to its target where its register and its sense agree and else on; JMPQ goes to its target;
CALLQ pushes the address after it, on a stack of 8; RETQ pops it. An offset that is no multiple of 16 is 0x01, and
a stack that is full or empty is 0x01 with cause 8. -/
def Sys2Proof.Claim.StreamControl : Prop :=
  ∀ (s : State) (c : Nat), s.cur = .stream c →
    let n := (s.ctx c).stream
    let up := n.spcS + 16
    let dest (off : DWord) : Pc := n.spcS + off.setWidth 52
    let fault (code cause : Nat) : Res := .next (s.decodeFault c code cause 0)
    (∀ x : BrqOp, x.off.toNat % 16 = 0 →
      Decodes (.brq x) s s c (if (Table.getD n.qS x.a.toNat 0 ≠ 0 ↔ x.z = false) then dest x.off else up) n.stackS
        fun n' e => Keeps n n' e ∧ e.st = .done) ∧
    (∀ off : DWord, off.toNat % 16 = 0 →
      (Decodes (.jmpq off) s s c (dest off) n.stackS fun n' e => Keeps n n' e ∧ e.st = .done) ∧
      (n.stackS.length < 8 →
        Decodes (.callq off) s s c (dest off) (up :: n.stackS) fun n' e => Keeps n n' e ∧ e.st = .done) ∧
      (8 ≤ n.stackS.length → exec (.callq off) s = fault 1 8)) ∧
    (∀ x : BrqOp, x.off.toNat % 16 ≠ 0 → exec (.brq x) s = fault 1 0) ∧
    (∀ off : DWord, off.toNat % 16 ≠ 0 → exec (.jmpq off) s = fault 1 0 ∧ exec (.callq off) s = fault 1 0) ∧
    (n.stackS = [] → exec .retq s = fault 1 8) ∧
    (∀ a rest, n.stackS = a :: rest →
      Decodes .retq s s c a rest fun n' e => Keeps n n' e ∧ e.st = .done)

/-- R318, R320 to R322, R329: the scalar and the control instructions of a stream. -/
def Obligations.StreamScalarsAndControl : Prop :=
  Claim.StreamScalars ∧ Claim.StreamControl

/-- R323, R324, R331: BIND names a region outside the arena and FREE undefines a handle, the buffer a handle had
displaced; FENCET, WAITE and SIGNAL take an entry, the first two to wait there. -/
def Sys2Proof.Claim.StreamHandlesAndEvents : Prop :=
  ∀ (s : State) (c : Nat), s.cur = .stream c →
    let n := (s.ctx c).stream
    let up := n.spcS + 16
    let val (x : QSrc) : DWord := match x with
      | .imm v => v
      | .q i => Table.getD n.qS i.toNat 0
    (∀ x : BindOp,
      let base := (Table.getD n.qS x.a.toNat 0).toNat
      let len := (Table.getD n.qS x.b.toNat 0).toNat
      let inArena := base < n.arenaBase + n.arenaSize ∧ n.arenaBase < base + len
      (0 < len → base + len ≤ windowBase → ¬ inArena →
        Decodes (.bind x) s s c up n.stackS fun n' e =>
          MapsTo n n' e x.h.toNat (some (.bound base len)) ∧ n'.freeBufs = n.freeBufs ∧ e.st = .done) ∧
      (2 ^ 52 ≤ base ∨ 2 ^ 52 < base + len ∨ (0 < len ∧ (windowBase < base + len ∨ inArena)) →
        exec (.bind x) s = .next (s.decodeFault c 5 0 base)) ∧
      (len = 0 → base < 2 ^ 52 → exec (.bind x) s = .next (s.decodeFault c 1 9 0))) ∧
    (∀ h : BitVec 8, Decodes (.free h) s s c up n.stackS fun n' e =>
      MapsTo n n' e h.toNat none ∧ n'.freeBufs = n.freeBufs ∧ e.st = .done) ∧
    (∀ b, Decodes (.fencet b) s s c up n.stackS fun n' e => Keeps n n' e ∧ e.st = .decoded) ∧
    (∀ x : WaiteOp, Decodes (.waite x) s s c up n.stackS fun n' e =>
      Keeps n n' e ∧ e.st = .decoded ∧ e.val = val x.val) ∧
    (∀ x : SignalOp, Decodes (.signal x) s s c up n.stackS fun n' e =>
      Keeps n n' e ∧ e.st = .done ∧ e.val = val x.val)

/-- R342 to R346: KLAUNCH and RLAUNCH read a valid record at decode and take an entry with what the handles they
name stand for. -/
def Sys2Proof.Claim.StreamLaunches : Prop :=
  ∀ (x : LaunchqOp) (s s1 : State) (c : Nat) (bs : List Byte) (r : LaunchRec)
    (l : List (Option (HRegion × Bool))), s.cur = .stream c →
    let n := (s.ctx c).stream
    let a := (n.val x.desc).toNat
    a < windowBase → launchArgs n [x.h0, x.h1, x.h2, x.h3] = some l →
    (a % 256 = 0 → s.unitRead (s.laneVia c) c a 256 = (.ok bs, s1) → (s1.ctx c).stream = n →
      launchRec false bs = some r →
      Decodes (.klaunch x) s s1 c (n.spcS + 16) n.stackS fun n' e => Keeps n n' e ∧
        LaunchEntry e l { lrec := r, header := 0, table := 0, stride := 0, cmask := 0, count := r.gridSize, args := [] }) ∧
    (∀ (s2 : State) (bs2 : List Byte), a % 64 = 0 →
      s.unitRead (s.laneVia c) c a 64 = (.ok bs, s1) →
      let f := fieldAt bs
      f 0 8 % 256 = 0 → f 8 8 % 64 = 0 → f 16 8 % 32 = 0 → f 34 30 = 0 → f 24 4 ≠ 0 →
      s1.maskOk (s1.partOf c) (f 32 2) = true →
      s1.unitRead (s1.laneVia c) c (f 0 8) 256 = (.ok bs2, s2) → (s2.ctx c).stream = n →
      launchRec true bs2 = some r →
      Decodes (.rlaunch x) s s2 c (n.spcS + 16) n.stackS fun n' e => Keeps n n' e ∧
        LaunchEntry e l { lrec := r, header := f 8 8, table := f 16 8, stride := f 28 4
                          cmask := BitVec.ofNat 16 (f 32 2), count := f 24 4, args := [] })

/-- R323, R324, R331, R342 to R346: handles, events and launches of a stream.
Rests on choices of the model: logs 40 and 41. -/
def Obligations.StreamHandlesEventsAndLaunches : Prop :=
  Claim.StreamHandlesAndEvents ∧ Claim.StreamLaunches

/-- R325 to R328, R335 to R340: MMT, CNVT, CPYT, REDT, FILLT and AMAXT whose descriptor passes its checks take an
entry with their task. A destination that is bound is written in place, and counts as a raw region; any other is
renamed to a free buffer of the class its size needs, and a task that reads what the destination held waits for its
producer too; the pairs of a REDT need a bound destination.
Rests on choices of the model: logs 29 and 30. -/
def Obligations.StreamTensorTasks : Prop :=
  ∀ (i : Instr) (u : TaskUse) (desc : QSrc) (dst : Option (BitVec 8)) (srcs : List (Nat × BitVec 8))
    (s s2 : State) (c : Nat) (d : TDesc) (rs : List (Nat × HRegion)), s.cur = .stream c →
    taskParts i = some (u, desc, dst, srcs) → TaskReads i u desc dst srcs s s2 c d rs →
    let n := (s.ctx c).stream
    let up := n.spcS + 16
    let deps := rs.flatMap fun e => e.2.deps
    let raws := (rs.filter fun e => e.2.bound).map fun e => (e.2.base, e.2.len, false)
    (dst = none → Decodes i s s2 c up n.stackS fun n' e => Keeps n n' e ∧ e.st = .decoded ∧ e.deps = deps ∧
      e.raws = raws ∧ e.task = some d) ∧
    (∀ h, dst = some h →
      let ext := d.v0.extent (layoutOf i d 0)
      let need := d.v0.off + ext
      (∀ base len, Table.get? n.hS h.toNat = some (.bound base len) → need ≤ len →
        Decodes i s s2 c up n.stackS fun n' e => Keeps n n' e ∧ e.st = .decoded ∧ e.deps = deps ∧ e.buf = none ∧
          e.raws = raws ++ [(base + d.v0.off, ext, true)] ∧
          e.task = some { d.setBase 0 base with prev := some (base, len) }) ∧
      (∀ base len, Table.get? n.hS h.toNat = some (.bound base len) → len < need →
        exec i s = .next (s2.decodeFault c 5 0 base)) ∧
      ((∀ base len, Table.get? n.hS h.toNat ≠ some (.bound base len)) →
        ((∃ x, i = .redt x) → d.pairsMode = true → exec i s = .next (s2.decodeFault c 1 9 0)) ∧
        ((∀ x, i = .redt x → d.pairsMode = false) →
          (∀ a k rest, n.alloc need = .ok (a, k, rest) →
            Decodes i s s2 c up n.stackS fun n' e => MapsTo n n' e h.toNat (some (.renamed a k need)) ∧
              n'.freeBufs = rest ∧ e.st = .decoded ∧ e.raws = raws ∧ e.buf = some (a, k) ∧
              e.deps = deps ++ (if usesOld i d then ((n.region h.toNat).map HRegion.deps).getD [] else []) ∧
              ∃ prev, e.task = some { d.setBase 0 a with prev := prev }) ∧
          (n.alloc need = .error true → exec i s = .next (s2.decodeFault c 0x10 0 0)) ∧
          (n.alloc need = .error false → exec i s = .next s2))))

/-! ### Bins, basins and waiting records (spec/17, spec/02) -/

/-- R25, R26, R400 to R402, R469: a record that has been filed enters the bin of its kernel, PC, key and target, or
opens one; a bin ages when it has been open longer than its limit, or at the end of the 64th cc that it has starved
in while its target was free; of the bins that can go to a core that takes a wave in this cc, the oldest becomes a wave
in a free slot; a spilled record returns to a slot. -/
def Sys2Proof.Claim.BinEvents : Prop :=
  (∀ (cl : BitVec 4) (s : State) (t : Thread) (rest : List Thread), Runs s cl.toNat →
    (s.cluster cl.toNat).unbinned = t :: rest → t.crewRef = none →
    let c := s.cluster cl.toNat
    let x := s.targetOf t
    let t0 := { t with wait := 0 }
    (∀ k, c.binFor t0 x = some k → exec (.recordBinned cl) s = .next (s.updCluster cl.toNat fun _ =>
      { c with unbinned := rest, bins := Table.upd c.bins k fun b => { b with recs := b.recs ++ [t0] } })) ∧
    (∀ k, c.binFor t0 x = none → Table.lowest c.bins 1024 0 = some k →
      exec (.recordBinned cl) s = .next (s.updCluster cl.toNat fun _ =>
        { c with
          unbinned := rest
          bins := Table.put c.bins k
            { kid := t.kid, pc := t.pc, ckey := t.ckey, target := x, recs := [t0], opened := c.clock
              aged := false, crew := none, starve := c.clock } }))) ∧
  (∀ (x : ClItem) (s : State) (b : Bin), Runs s x.cl.toNat →
    Table.get? (s.cluster x.cl.toNat).bins x.n = some b →
    let c := s.cluster x.cl.toNat
    let aged := s.updCluster x.cl.toNat fun c => { c with
      bins := Table.upd c.bins x.n fun b => { b with aged := true } }
    (∀ f, s.partAt x.cl.toNat = some f → (s.part f).binLimit < c.clock - b.opened →
      exec (.binAged x) s = .next aged) ∧
    (∀ f, s.partAt x.cl.toNat = some f → c.clock - b.opened ≤ (s.part f).binLimit →
      exec (.binAged x) s = .next s) ∧
    (s.targetFree x.cl.toNat b.target = true → b.starve + 64 < c.clock → exec (.binStarved x) s = .next aged) ∧
    (c.clock ≤ b.starve + 64 → exec (.binStarved x) s = .next s) ∧
    (∀ cl k y, cl < s.clusters.length → Table.get? (s.cluster cl).bins k = some y → (∀ n, y.target ≠ .treelet n) →
      let z := Table.get? ((s.starveBins cl).cluster cl).bins k
      (s.targetFree cl y.target = true → y.starve + 64 ≤ (s.cluster cl).clock →
        z = some { y with aged := true }) ∧
      (s.targetFree cl y.target = true → (s.cluster cl).clock < y.starve + 64 → z = some y) ∧
      (s.targetFree cl y.target = false → z = some { y with starve := (s.cluster cl).clock }))) ∧
  (∀ (x : ClItem) (s : State) (b : Bin) (core slot : Nat), Runs s x.cl.toNat →
    let c := s.cluster x.cl.toNat
    Table.get? c.bins x.n = some b → s.binCore x.cl.toNat b = some core → s.binReady b = true →
    s.cc.order ≤ 2 → s.maySend core = true →
    (∀ e ∈ c.bins, e.2.opened < b.opened → s.binReady e.2 = true →
      ∀ k, s.binCore x.cl.toNat e.2 = some k → s.maySend k = false) →
    s.waveFirst x.cl.toNat (s.binTime x.cl.toNat b) = false →
    s.newSlot core = some slot → core < s.cores.length → x.cl.toNat < s.clusters.length →
    (s.ctx (((Table.get? s.grids b.kid).map Grid.ctx).getD 0)).dbg.replay = 0 →
    ∃ t : State, exec (.binIssue x) s = .next t ∧ t.mem = s.mem ∧
      Table.get? (t.cluster x.cl.toNat).bins x.n = none ∧
      Table.get? (t.core core).waves slot =
        some (b.wave (((Table.get? s.grids b.kid).map Grid.ctx).getD 0) s.tick c.clock)) ∧
  (∀ (cl : BitVec 4) (s : State) (u : Nat), Runs s cl.toNat → cl.toNat < s.clusters.length →
    let c := s.cluster cl.toNat
    c.nextBack = some u → c.slotsUsed < 32768 →
    let back (t : Thread) : Thread := if t.uid = u then { t with spilled := false, oslot := 0 } else t
    ∃ t : State, exec (.spilledRecordReturn cl) s = .next t ∧ t.mem = s.mem ∧ t.cores = s.cores ∧
      (t.cluster cl.toNat).unbinned = c.unbinned.map back ∧ (t.cluster cl.toNat).waiting = c.waiting.map back)

/-- R28 to R30, R33, R54, R55, R58, R229, R421: a lane that leaves with its flags clear and nothing outstanding is filed
into a basin, with the conditions of the RCV it left by, or forces the oldest basin where none can be had; a basin ages,
and the oldest eligible one becomes a wave; a wave is resident when its dispatch completes; a ready wave that has not
issued for 256 cc is elevated; and a waiting record whose sample does not meet its condition waits on, one whose sample
does is woken, one that meets an absent page waits for it, and one whose sample fails goes back to its AWAIT. -/
def Sys2Proof.Claim.BasinEvents : Prop :=
  (∀ (x : LaneId) (s : State) (w : Wave) (t : Thread) (pc : Pc) (rcv : Option (Nat × Nat)),
    let core := coreNum x.wave.core
    let slot := x.wave.slot.toNat
    Runs s (clusterOf core) → Table.get? (s.core core).waves slot = some w →
    Table.get? w.lanes x.lane.toNat = some t → t.st = .leaving pc rcv → t.flagsClear = true →
    s.outstanding core slot [t.uid] = false →
    (s.fileBasin core t pc rcv = none → exec (.laneFiled x) s = .next (s.updCore core Core.forceOldest)) ∧
    (∀ s1, s.fileBasin core t pc rcv = some s1 →
      exec (.laneFiled x) s = .next (s1.putWave { wave := w, core := core, slot := slot, hand := none }
        (w.dropLanes [x.lane.toNat])))) ∧
  (∀ (s : State) (core : Nat) (t : Thread) (pc : Pc) (rcv : Option (Nat × Nat)), core < s.cores.length →
    (s.core core).basinFor (basinKey t pc) = none →
    (∀ i, Table.lowest (s.core core).basins 64 0 = some i →
      ∃ s1 b, s.fileBasin core t pc rcv = some s1 ∧ Table.get? (s1.core core).basins i = some b ∧
        b.key = basinKey t pc ∧ b.threads = [{ t with st := .run, pc := pc }] ∧ b.rcv = rcv) ∧
    (Table.lowest (s.core core).basins 64 0 = none → s.fileBasin core t pc rcv = none)) ∧
  (∀ (x : CoreItem) (s : State) (b : Basin),
    let core := coreNum x.core
    Runs s (clusterOf core) → Table.get? (s.core core).basins x.n = some b →
    (∀ f, s.partAt (clusterOf core) = some f →
      (s.part f).basinLimit < (s.cluster (clusterOf core)).clock - b.opened →
      exec (.basinAged x) s = .next (s.updCore core fun k => { k with
        basins := Table.upd k.basins x.n fun b => { b with eligible := true } })) ∧
    (∀ slot, s.newSlot core = some slot → s.cc.order ≤ 2 → b.eligible = true → s.runs b.key.kid = true →
      (∀ e ∈ (s.core core).basins, e.2.eligible = true → s.runs e.2.key.kid = true → b.opened ≤ e.2.opened) →
      core < s.cores.length → (s.ctx (((Table.get? s.grids b.key.kid).map Grid.ctx).getD 0)).dbg.replay = 0 →
      ∃ u : State, ∃ w : Wave, exec (.basinDraw x) s = .next u ∧ u.mem = s.mem ∧
        Table.get? (u.core core).basins x.n = none ∧ Table.get? (u.core core).waves slot = some w ∧
        w.pc = b.key.pc ∧ w.kid = b.key.kid ∧ w.crew = none ∧ w.mask = [] ∧
        w.lanes.map (fun e => e.2.uid) = b.threads.map Thread.uid)) ∧
  (∀ (x : SlotId) (s : State) (w : Wave),
    let core := coreNum x.core
    Runs s (clusterOf core) → core < s.cores.length → Table.get? (s.core core).waves x.slot.toNat = some w →
    (∃ u : State, exec (.dispatchComplete x) s = .next u ∧ u.mem = s.mem ∧
      ∃ w', Table.get? (u.core core).waves x.slot.toNat = some w' ∧ w'.resident = true ∧ w'.lanes = w.lanes ∧
        w'.pc = w.pc) ∧
    ∃ u : State, exec (.elevatedPriority x) s = .next u ∧ u.mem = s.mem ∧
      ∃ w', Table.get? (u.core core).waves x.slot.toNat = some w' ∧ w'.lanes = w.lanes ∧
        w'.elevated = (w.elevated ||
          (s.ready core x.slot.toNat w && decide (w.issued + 256 ≤ (s.cluster (clusterOf core)).clock)))) ∧
  (∀ (x : ClItem) (s s' : State) (t : Thread) (g : Grid), Runs s x.cl.toNat →
    (s.cluster x.cl.toNat).waiting[x.n]? = some t → Table.get? s.grids t.kid = some g →
    t.wait.toNat / 2 ^ 62 = 1 → s.runs t.kid = true → s.awaitsPage t.kid t.uid = false →
    let cl := x.cl.toNat
    let sample := s.unitPa { core := s.coreOf t, cl := cl } g.ctx (t.wait.toNat % 2 ^ 52) .read
    (∀ pa, sample = (.ok pa, s') → s'.mem.poisoned pa 4 = false →
      (∀ a, s'.mem.chainFind (s'.links ((s'.coreOf t).getD (8 * cl)) t) .c a = none) →
      let y := s'.mem.numD pa 4
      let reg := (t.wait.toNat / 2 ^ 57 % 4) * 8 + t.wait.toNat / 2 ^ 54 % 8
      let holds := wcondHolds (descCond t.wait.toNat) 32 y (t.reg reg).toNat
      let pc := (t.pc - 16).toNat
      ∃ (t' : State) (u : Thread), t'.mem = s'.mem ∧ t'.clusters = s'.clusters ∧ u.uid = t.uid ∧ u.pc = t.pc ∧
        u.v = t.v ∧
        (holds = false ∨ s.mayWake g.ctx cl pc t.alane = false → u.wait = t.wait ∧
          exec (.awaitSample x) s = .next (t'.updWaiting cl x.n fun _ => u)) ∧
        (holds = true → s.mayWake g.ctx cl pc t.alane = true → u.wait = 0 ∧
          exec (.awaitSample x) s =
            .next (((t'.input g.ctx cl pc 2 t.alane y).updWaiting cl x.n fun _ => u).binWaiting cl))) ∧
    (∀ a l, sample = (.error (.absent a l), s') → exec (.awaitSample x) s = .next (s'.awaitPage g.ctx a l .read t)) ∧
    (∀ c a, sample = (.error (.denied c a), s') ∨ sample = (.error (.window a), s') ∨
      sample = (.error (.ecc a), s') → exec (.awaitSample x) s = .next (s'.awaitBack cl t)))

/-- R25, R26, R28 to R30, R54, R55, R58, R400 to R402, R469: bins, basins and waiting records.
Rests on choices of the model: logs 70 to 72 and 121. -/
def Obligations.BinsAndBasins : Prop :=
  Claim.BinEvents ∧ Claim.BasinEvents

/-! ### The distributor (spec/17) -/

/-- R393 to R399, R405: gangs age and expire; the distributor places, at most once in a cc of a partition and before
the cc's dispatches, the first pending gang that fits, whose blocks take cores of one cluster; a head that has waited
8,192 cc reserves a cluster; and a context that runs while other contexts keep another's work out is stopped, and run again once that work is placed
or the time is over.
Rests on choices of the model: log 69. -/
def Obligations.DistributorEvents : Prop :=
  (∀ (f : BitVec 4) (s : State), s.dev.stopped = false →
    (∃ u : State, exec (.gangPriorityAge f) s = .next u ∧ u.mem = s.mem ∧ u.cores = s.cores ∧
      ∀ k g, Table.get? s.grids k = some g →
        Table.get? u.grids k = some (if s.pendingGrid f.toNat g then
          { g with bonus := max g.bonus ((s.tick - g.waitFrom) / 65536) } else g)) ∧
    (∃ u : State, exec (.gangFallbackExpiry f) s = .next u ∧ u.mem = s.mem ∧ u.cores = s.cores ∧
      ∀ k g, Table.get? s.grids k = some g → s.pendingGrid f.toNat g = true →
        (∀ t, g.failed = some t → t + 2048 ≤ s.tick →
          ∃ g', Table.get? u.grids k = some g' ∧ g'.expired = true) ∧
        (g.failed = none → Table.get? u.grids k = some g))) ∧
  (∀ (f : BitVec 4) (s s2 : State) (g : Grid) (t : List Grid), s.dev.stopped = false →
    (s.part f.toNat).valid = true →
    (s.cc.order ≤ 1 → f.toNat ∉ s.cc.gangs →
      let s1 := (((s.ageGangs f.toNat).expireGangs f.toNat).checkReserved f.toNat).orderTo 1
      s1.pendingOf f.toNat = g :: t → Table.get? s1.grids g.kid = some g → g.tested = true → g.ending = false →
      s1.prefNever f.toNat g = false → s1.placeGang f.toNat g g.lrec.gp = some s2 →
      exec (.gangPlacement f) s = .next (s2.notePlaced f.toNat)) ∧
    (1 < s.cc.order ∨ f.toNat ∈ s.cc.gangs → exec (.gangPlacement f) s = .next s)) ∧
  (∀ (s s2 : State) (f : Nat) (g : Grid) (n : Nat), s.placeGang f g n = some s2 →
    Table.get? s.grids g.kid = some g → g.blocks = [] → (∀ k b, Table.get? s.blocks k = some b → k < s.uids) →
    (∀ e ∈ s.blocks, e.2.gangUid ≠ s.uids) →
    ∃ g' y, Table.get? s2.grids g.kid = some g' ∧ g'.next = g.next + min n (g.count - g.next) ∧
      g'.gangs = g.gangs + 1 ∧ Table.get? s2.gangs s.uids = some y ∧ y.kid = g.kid ∧
      s.inPart f y.cluster = true ∧ y.cluster < 16 ∧ ∀ u ∈ g'.blocks, ∃ b, Table.get? s2.blocks u = some b ∧
        b.kid = g.kid ∧ b.placed = true ∧ clusterOf b.core = y.cluster) ∧
  (∀ (f : BitVec 4) (s : State) (g : Grid) (t : List Grid), s.dev.stopped = false →
    (s.part f.toNat).valid = true →
    let s1 := (s.ageGangs f.toNat).checkReserved f.toNat
    s1.pendingOf f.toNat = g :: t → (s1.part f.toNat).reserved = none → s1.clustersOf f.toNat ≠ [] →
    (s.tick < g.waitFrom + 8192 → exec (.clusterReservation f) s = .next s1) ∧
    (g.waitFrom + 8192 ≤ s.tick → ∃ cl, s.inPart f.toNat cl = true ∧ exec (.clusterReservation f) s =
      .next (s1.updPart f.toNat fun p => { p with reserved := some (g.kid, cl) }))) ∧
  (∀ (f : BitVec 4) (s : State) (a b : Nat), s.dev.stopped = false → s.dev.func.getLsbD 1 = false →
    (s.part f.toNat).stopped = none →
    ((s.runningIn f.toNat).find? fun c => s.starved f.toNat c &&
      s.keptOut f.toNat c) = some a →
    s.longestRun f.toNat a = some b →
    exec (.contextFairnessStop f) s = .next (((s.reqStop b).updCtx b fun x => { x with byDevice := true }).updPart
      f.toNat fun p => { p with stopped := some (a, b, 0) })) ∧
  (∀ (f : BitVec 4) (s : State) (a b t : Nat), s.dev.stopped = false →
    (s.part f.toNat).stopped = some (a, b, t) →
    let s1 := s.updPart f.toNat fun p => { p with stopped := none }
    (((s.ctx a).st = .running ∧ s.starved f.toNat a = false) ∨ (t ≠ 0 ∧ t + 2 ^ 20 ≤ s.tick + 1) →
      ((s.ctx b).byDevice = true → s.dev.func.getLsbD 1 = false →
        exec (.contextFairnessRun f) s = .next (s1.reqRun b)) ∧
      ((s.ctx b).byDevice = false → exec (.contextFairnessRun f) s = .next s1)) ∧
    ((s.starved f.toNat a = true ∨ (s.ctx a).st ≠ .running) → t = 0 → exec (.contextFairnessRun f) s = .next s))

/-- R107, R127, R278, R346, R381, R403: a block whose threads, stages and copies are done commits, with the accesses
to its log that the commit makes, and is freed; a pending cache mode and stream area apply once nothing uses the old
one, and the treelet and data ways hold nothing older; and the next ray of a batch is written while its cluster keeps
2,048 slots free. -/
def Obligations.BlockAndBatchEvents : Prop :=
  (∀ (x : CoreItem) (s : State) (b : Block) (g : Grid), Runs s x.core.cl.toNat →
    Table.get? s.blocks x.n = some b → Table.get? s.grids b.kid = some g → g.ending = false →
    b.core = coreNum x.core → b.stands = true → b.live = [] → b.stage ≤ b.stageIssued → s.copiesOf b = [] →
    (b.uid = x.n) → s.awaitsPage b.kid b.uid = false →
    (0 < s.cc.order → exec (.blockEnd x) s = .next s) ∧
    (s.cc.order = 0 →
    let k := s.blockLinks b
    k.b.isSome = true ∧
    (∀ site m1, k.b = some site → s.mem.stepInto site k.g (.block b.uid) [] = .ok m1 →
      let last := (((Table.get? s.gangs b.gangUid).map Gang.blocks).getD []) = [b.uid]
      let s1 : State := { s with mem := if last then m1.stepD s.tick k.g [] [] else m1 }
      let walk := s1.walkLog { core := some b.core, cl := clusterOf b.core } (s.ctxOfKid b.kid) b.kid
      (∀ s2, walk = .ok s2 → (∀ c, (s2.ctx c).dbg.ctl.getLsbD 18 = false) →
        ∃ u : State, exec (.blockEnd x) s = .next u ∧ Table.get? u.blocks x.n = none ∧ u.mem.log = s2.mem.log) ∧
      ∀ e kind, walk = .error (e, kind) → exec (.blockEnd x) s = .next (s.endMiss b e kind)) ∧
    (∀ site l, k.b = some site → s.mem.stepInto site k.g (.block b.uid) [] = .error l →
      exec (.blockEnd x) s = .next (s.endOverflow b l)))) ∧
  (∀ (s : State) (b : Block), Table.get? (s.freeBlock b).blocks b.uid = none ∧
    ∀ k, k ≠ b.uid → Table.get? (s.freeBlock b).blocks k = Table.get? s.blocks k) ∧
  (∀ (cl : BitVec 4) (s : State) (m : BitVec 2), Runs s cl.toNat →
    (s.cluster cl.toNat).pendMode = some m →
    (∀ c, 8 * cl.toNat ≤ c → c < 8 * cl.toNat + 8 → (s.core c).waves = []) →
    s.mem.entriesAt .g cl.toNat = 0 →
    exec (.cacheModeApply cl) s = .next (s.updCluster cl.toNat fun c =>
      { c with mode := m, pendMode := none, treelets := [], dataFloor := s.mem.pos })) ∧
  (∀ (x : CoreId) (s : State) (f : Nat), s.partAt x.cl.toNat = some f → s.blocksOn (coreNum x) = [] →
    exec (.sareaApply x) s = .next (s.updCore (coreNum x) fun k =>
      { k with sarea := (s.part f).sarea.toNat })) ∧
  (∀ (kid cl : Nat) (s : State) (g : Grid), Table.get? s.grids kid = some g → g.ray = true →
    s.runs kid = true → 0 < g.next → g.next < g.count →
    (s.rayClusters g)[g.next / 32 % (s.rayClusters g).length]? = some cl → Runs s cl →
    (2048 < (s.cluster cl).slotFree →
      exec (.rayRecordWrite kid) s = .next ((({ s with uids := s.uids + 1 } : State).file cl
        (launchThread g s.uids 0 g.next 0 24 (some RayPart.zero))).updGrid kid fun g =>
          { g with next := g.next + 1 })) ∧
    ((s.cluster cl).slotFree ≤ 2048 → exec (.rayRecordWrite kid) s = .next s) ∧
    ((s.cluster cl).slotFree =
      if (s.cluster cl).spilledCount = 0 then 32768 - (s.cluster cl).slotsUsed else 0))

/-! ### Rotation, deadlock, saving and restoring (spec/02, spec/19) -/

/-- R41, R49 to R54, R404: the wave of a core longest resident past its quantum is saved where room is wanted, and that
of a partition where an issue is wanted there; the oldest saved wave that can return does so, before any bin that is
older, with its lanes to a free slot, its views raised and its buffers with it; a spilled block returns to a core that can
hold it, its waves with their granules held; and a core whose head claim has stood 4,096 cc satisfies it, or spills its
youngest other block or ray batch, whose threads leave the waves they share with others, or, with none to spill, faults
the claim with 0x0A.
Rests on choices of the model: logs 73, 75, 78 and 121. -/
def Obligations.RotationAndDeadlock : Prop :=
  (∀ (x : SlotId) (s : State) (w : Wave) (f : Nat),
    let core := coreNum x.core
    let slot := x.slot.toNat
    let cl := clusterOf core
    Runs s cl → Table.get? (s.core core).waves slot = some w → s.partAt cl = some f → w.resident = true →
    ((s.cluster cl).clock < w.since + (s.part f).rotation → exec (.waveRotation x) s = .next s) ∧
    (w.since + (s.part f).rotation ≤ (s.cluster cl).clock → (s.core core).inFlight slot = false →
      s.runs w.kid = true →
      let oldest (p : Nat → Bool) : Prop := ∀ e ∈ (s.core core).waves, p e.1 = true → e.2.resident = true →
        e.2.since < w.since → (s.core core).inFlight e.1 = true
      (s.wantsRoom core = true ∧ oldest (fun _ => true)) ∨
        (s.wantsIssue core (slot / 16) = true ∧ oldest fun n => n / 16 = slot / 16) →
      core < s.cores.length → cl < s.clusters.length →
      ∃ t : State, exec (.waveRotation x) s = .next t ∧ t.mem = s.mem ∧
        Table.get? (t.core core).waves slot = none ∧
        (t.cluster cl).rotated = (s.cluster cl).rotated ++
          [{ core := core, wave := { w with debt := 0, park := w.park.aside }, slot := slot, held := false }])) ∧
  (∀ (x : CoreItem) (s : State) (e : SavedWave) (slot : Nat),
    let cl := clusterOf (coreNum x.core)
    let dest := s.returnTo e (coreNum x.core)
    Runs s cl → (s.cluster cl).rotated[x.n]? = some e → s.cc.order ≤ 2 → s.mayReturn e (coreNum x.core) = true →
    (∀ y ∈ (s.cluster cl).rotated, y.wave.age < e.wave.age → s.mayReturn y (coreNum x.core) = false) →
    (∀ b ∈ (s.cluster cl).bins, s.waveTime e < s.binTime cl b.2 → s.binGoes cl b.2 = false) →
    s.newSlot dest = some slot → dest < s.cores.length → cl < s.clusters.length →
    ∃ (t : State) (w : Wave), exec (.rotatedWaveRestore x) s = .next t ∧
      t.mem = s.mem.buffersTo (e.wave.lanes.map fun l => l.2.uid) [] dest ∧
      Table.get? (t.core dest).waves slot = some w ∧ w.pc = e.wave.pc ∧ w.w = e.wave.w ∧
      w.mask = e.wave.mask ∧ w.crew = e.wave.crew ∧ w.clause = e.wave.clause ∧
      w.age = (if e.held then s.tick else e.wave.age) ∧
      w.lanes = e.wave.lanes.map (fun l => (l.1, { l.2 with view := { floor := s.mem.pos, bytes := [] } })) ∧
      (t.cluster cl).rotated = (s.cluster cl).rotated.take x.n ++ (s.cluster cl).rotated.drop (x.n + 1)) ∧
  (∀ (x : ClItem) (s : State) (b : Block) (core : Nat), Runs s x.cl.toNat →
    Table.get? s.blocks x.n = some b → b.placed = false → clusterOf b.core = x.cl.toNat → s.runs b.kid = true →
    (s.homeFor b = some core → exec (.blockRestore x) s =
      .next (((((s.settleBlock core b).fixRecs core b).seatHeld x.cl.toNat fun r => r.wave.kid = b.kid).basinsBack
        core b).copiesBack core b)) ∧
    (s.homeFor b = none → exec (.blockRestore x) s = .next s)) ∧
  (∀ (s : State) (b : Block) (core : Nat), s.isBatch b = false → core < s.cores.length →
    clusterOf core < s.clusters.length →
    let t := s.settleBlock core b
    let a := (s.runFor core (s.needOf b).bytes).getD 0
    (∃ n, Table.get? t.blocks b.uid = some n ∧ n.core = core ∧ n.scratch = a ∧ n.placed = true ∧ n.lifted = false ∧
      n.live = b.live ∧ n.bars = b.bars ∧ n.tl = b.tl ∧ n.st = b.st) ∧
    (∀ w ∈ b.swaves, ∃ r ∈ (t.cluster (clusterOf core)).rotated, r.core = core ∧ r.held = true ∧ r.wave.pc = w.pc ∧
      r.wave.mask = w.mask ∧ r.wave.lanes.map (fun l => (l.1, l.2.uid)) = w.lanes.map fun l => (l.1, l.2.uid)) ∧
    (t.core core).waves = (s.core core).waves) ∧
  (∀ (x : CoreId) (s : State) (slot : Nat) (acc : Bool) (w : Wave),
    let core := coreNum x
    Runs s (clusterOf core) → s.deadHead core = some (slot, acc) →
    Table.get? (s.core core).waves slot = some w →
    let next := youngest (s.others core w)
    (s.tick < (s.core core).deadFrom + 4096 → exec (.deadlockDetect x) s = .next s) ∧
    ((s.core core).deadFrom + 4096 ≤ s.tick →
      (s.headFits core slot acc = true →
        exec (.deadlockDetect x) s = .next (s.tryClaim core acc (some slot))) ∧
      (s.headFits core slot acc = false → next = none →
        exec (.deadlockDetect x) s = .next
          (s.raise { wave := w, core := core, slot := slot, hand := none }
            { code := 0x0A, cause := 1, lane := lowLane w.active })) ∧
      (∀ b, s.headFits core slot acc = false → next = some b → s.blockStill b = true →
        (s.spill b).headFits core slot acc = true → Table.get? ((s.spill b).core core).waves slot = some w →
        exec (.deadlockDetect x) s = .next ((s.spill b).tryClaim core acc (some slot))))) ∧
  (∀ (s : State) (b : Block), ∃ b', Table.get? (s.spill b).blocks b.uid = some b' ∧ b'.placed = false ∧
    b'.spilledAt = s.tick ∧ b'.lifted = true ∧ b'.tl = b.tl ∧ b'.st = b.st ∧ b'.bars = b.bars ∧ b'.live = b.live ∧
    (s.spill b).mem = s.mem ∧
    ∀ slot w, Table.get? (s.core b.core).waves slot = some w → w.crew = none →
      let its (e : Nat × Thread) : Bool := s.ownsThread b e.2
      (∃ e ∈ w.lanes, its e = false) →
      ∃ w', Table.get? ((s.spill b).core b.core).waves slot = some w' ∧
        w'.lanes = w.lanes.filter fun e => !its e)

/-- R435, R438, R440, R443 to R448: under call-out granularity a ray wave that has not yielded for 4,000 cc is held; a
core whose waves stand at boundaries halts, and what the context's blocks held there is taken out; once all halt, the
context is saved and its image written; and a requested run of a saved context takes a valid image back, its stream's view
raised to the restore tick, or rejects one that is not.
Rests on choices of the model: logs 12 and 76. -/
def Obligations.SavingAndRestoring : Prop :=
  (∀ (x : SlotId) (s : State) (w : Wave),
    let core := coreNum x.core
    Runs s (clusterOf core) → Table.get? (s.core core).waves x.slot.toNat = some w → core < s.cores.length →
    ∃ t : State, exec (.calloutGranTimeout x) s = .next t ∧ t.mem = s.mem ∧ t.ctxs = s.ctxs ∧
      ∃ w', Table.get? (t.core core).waves x.slot.toNat = some w' ∧ w'.lanes = w.lanes ∧ w'.pc = w.pc ∧
        ((s.ctx w.ctx).st = .stopping → (s.ctx w.ctx).gran = true → (∃ e ∈ w.lanes, e.2.ray.isSome = true) →
          (s.ctx w.ctx).reqTick + 4000 ≤ s.tick → w.park = .none → w'.park = .system)) ∧
  (∀ (x : CoreId) (c : BitVec 6) (s : State),
    let core := coreNum x
    let n := c.toNat
    Runs s (clusterOf core) → (s.ctx n).st = .stopping → s.inPart (s.partOf n) (clusterOf core) = true →
    core ∉ (s.ctx n).halted → s.canHalt core n = true → n < s.ctxs.length →
    ∃ t : State, exec (.coreHalted x c) s = .next t ∧ t.mem = s.mem ∧
      (t.ctx n).halted = (s.ctx n).halted ++ [core] ∧ (t.ctx n).st = .stopping ∧
      (core < s.cores.length → ∀ e ∈ (t.core core).deps, e.2.ctx ≠ n) ∧
      ∀ b ∈ s.blocksOn core, s.ctxOfKid b.kid = n →
        ∃ b', Table.get? t.blocks b.uid = some b' ∧ b'.lifted = true) ∧
  (∀ (c : BitVec 6) (s : State),
    let n := c.toNat
    let f := s.partOf n
    (s.ctx n).st = .stopping → s.dev.stopped = false → (∀ cl, s.inPart f cl = true → cl < 16 →
      (s.cluster cl).dbg.frozen = false ∧ ∀ co, clusterOf co = cl → co ∈ (s.ctx n).halted) →
    s.ctxEnding n = false → n < s.ctxs.length →
    ∃ t : State, exec (.contextSaved c) s = .next t ∧ (t.ctx n).st = .saved ∧ (t.ctx n).halted = [] ∧
      (∀ e ∈ t.grids, e.2.ctx ≠ n) ∧ (∀ k ∈ t.clusters, ∀ r ∈ k.rotated, r.wave.ctx ≠ n) ∧
      ∃ m ∈ t.images, m.area = (s.ctx n).saveArea ∧ m.ctx = n ∧ m.size = (s.part f).size ∧
        m.prog = (s.ctx n).prog ∧ m.events = (s.ctx n).events ∧ m.resBase = (s.ctx n).resBase ∧
        m.stream = { (s.ctx n).stream with stuck := none }) ∧
  (∀ (c : BitVec 6) (s : State),
    let n := c.toNat
    let f := s.partOf n
    (s.ctx n).st = .saved → (s.ctx n).reqHeld = true → s.dev.stopped = false →
    (s.imageAt (s.ctx n).saveArea (s.part f).size = none →
      ∃ t : State, exec (.contextRestored c) s = .next t ∧
        (n < s.ctxs.length → (t.ctx n).st = .saved ∧ (t.ctx n).reqHeld = false)) ∧
    (∀ m s1, s.imageAt (s.ctx n).saveArea (s.part f).size = some m → s.restoreCtx n m = some s1 →
      exec (.contextRestored c) s = .next s1 ∧
      (n < s.ctxs.length → (s1.ctx n).st = .running ∧ (s1.ctx n).prog = m.prog ∧
        (s1.ctx n).events = m.events ∧
        (s1.ctx n).stream = { (s.imageFor n m).1.stream with view := s.mem.nowView })))

/-! ### Traversal (spec/03) -/

/-- R64, R65, R69, R73, R74, R76: what traversal decides. A triangle hit lies within the triangle and the ray's
range and is nearer than the committed hit; a zero or NaN determinant is a miss; ray and instance flags decide
whether a primitive is opaque before its own does; ranked children stand by entry distance; a push keeps eight
entries and says when it drops one; and T[L] is set with every level above cleared. -/
def Sys2Proof.Claim.TraversalDecisions : Prop :=
  (∀ (o d : Vec3) (tmin tmax : Word) (lim : Option Word) (flip : Bool) (a b c : Vec3),
    (∀ y, triTest o d tmin tmax lim flip a b c = some y →
      fle32 0 y.u = true ∧ fle32 0 y.v = true ∧ fle32 (fadd32 y.u y.v) one32 = true ∧
      fle32 tmin y.t = true ∧ fle32 y.t tmax = true ∧ (∀ l, lim = some l → flt32 y.t l = true) ∧
      y.front = (flt32 0 ((b.sub a).dot (d.cross (c.sub a))) != flip)) ∧
    (∀ det, det = (b.sub a).dot (d.cross (c.sub a)) → feq32 det 0 = true ∨ isNan32 det = true →
      triTest o d tmin tmax lim flip a b c = none)) ∧
  (∀ (r : RayPart) (i : AsInst) (f : BitVec 8),
    (r.flags.getLsbD 0 = true → opaquePrim r i f = true) ∧
    (r.flags.getLsbD 0 = false → r.flags.getLsbD 1 = true → opaquePrim r i f = false) ∧
    (r.flags.getLsbD 0 = false → r.flags.getLsbD 1 = false →
      (i.flags.getLsbD 0 = true → opaquePrim r i f = true) ∧
      (i.flags.getLsbD 0 = false → i.flags.getLsbD 1 = true → opaquePrim r i f = false) ∧
      (i.flags.getLsbD 0 = false → i.flags.getLsbD 1 = false → opaquePrim r i f = f.getLsbD 0))) ∧
  (∀ (c : Child) (l : List Child),
    l.Pairwise (fun x y => flt32 y.entry x.entry = false) →
    (insertChild c l).Pairwise (fun x y => flt32 y.entry x.entry = false) ∧
    (insertChild c l).length = l.length + 1 ∧ c ∈ insertChild c l ∧ ∀ x ∈ l, x ∈ insertChild c l) ∧
  (∀ (r : RayPart) (e : StackEntry),
    (r.push e).stack.length ≤ 8 ∧ (r.push e).stack.head? = some e ∧
    (r.stack.length < 8 → (r.push e).stack = e :: r.stack ∧ (r.push e).dropped = r.dropped) ∧
    (8 ≤ r.stack.length → (r.push e).dropped = true)) ∧
  (∀ (r : RayPart) (l k : Nat), l < 32 → k < 16 →
    (r.setTrail l k).trailAt l = k ∧ (∀ m < l, (r.setTrail l k).trailAt m = r.trailAt m) ∧
    ∀ m, l < m → (r.setTrail l k).trailAt m = 0)

/-- R77, R84, R88, R89: a run of a record on a unit of its cluster is settled where it ends; after a pre-emption
request only a run that was in progress goes on, for at most its budget; and the fetch of a treelet takes back every
record that waits for it, unless the context stops. -/
def Sys2Proof.Claim.TraversalEvents : Prop :=
  (∀ (x : ClItem) (s : State) (g : Grid) (t : Thread) (r : RayPart),
    let cl := x.cl.toNat
    Runs s cl → s.travReady cl x.n = some (g, t, r) →
    ((s.ctx g.ctx).st = .running →
      ∃ (u : TravUnit) (s1 : State), u.cl = cl ∧ u.ray = t.uid ∧ u.kid = t.kid ∧ s1.mem = s.mem ∧
        s1.clusters = s.clusters ∧
        let o := s1.runRay u g.ctx g t r none
        exec (.traversalRun x) s = .next (o.2.settleRay u.core g.ctx g t o.1)) ∧
    ((s.ctx g.ctx).st ≠ .running → exec (.traversalRun x) s = .next s) ∧
    ((s.ctx g.ctx).st = .stopping → r.stop ≠ 5 → x.n ∈ (s.ctx g.ctx).inRun →
      ∃ (more : Nat) (u : TravUnit) (s1 : State), u.cl = cl ∧ u.ray = t.uid ∧ u.kid = t.kid ∧ s1.mem = s.mem ∧
        s1.clusters = s.clusters ∧
        let o := s1.runRay u g.ctx g t r (some ((s.ctx g.ctx).budget.toNat + more))
        exec (.stepBudgetStop x) s = .next (o.2.settleRay u.core g.ctx g t (match o.1 with
          | .stand r (.treelet _) => .stand r .budget
          | y => y))) ∧
    (r.stop = 5 ∨ x.n ∉ (s.ctx g.ctx).inRun → exec (.stepBudgetStop x) s = .next s)) ∧
  (∀ (s : State) (core ctx : Nat) (g : Grid) (t : Thread) (r : RayPart), clusterOf core < s.clusters.length →
    ∃ u, Table.get? ((s.settleRay core ctx g t (.stand r .budget)).cluster (clusterOf core)).trav t.uid = some u ∧
      u.ray = some { r with stop := 5 } ∧ u.pc = t.pc) ∧
  (∀ (x : ClItem) (s s' : State) (b : Bin) (g : Grid) (va pa : Nat),
    let cl := x.cl.toNat
    Runs s cl → Table.get? (s.cluster cl).bins x.n = some b → b.target = .treelet va →
    Table.get? s.grids b.kid = some g → g.ending = false →
    (∃ e ∈ (s.cluster cl).bins, e.2.kid = b.kid ∧ e.2.target = b.target ∧
      (e.2.aged = true ∨ (s.part (s.partOf g.ctx)).treeletNeed ≤ e.2.recs.length)) →
    (s.travUnit cl).2.unitPa (s.travUnit cl).1.via g.ctx va .read = (.ok pa, s') → cl < s'.clusters.length →
    ∃ u : State, exec (.treeletFetchComplete x) s = .next u ∧ u.mem = s'.mem ∧
      Table.get? (u.cluster cl).treelets (copyKey true pa) = some s'.mem.pos ∧
      ((s.ctx g.ctx).st = .running →
        (∀ e ∈ (u.cluster cl).bins, ¬ (e.2.kid = b.kid ∧ e.2.target = b.target)) ∧
        ∀ t ∈ b.recs, (∃ y, Table.get? (u.cluster cl).trav t.uid = some y)) ∧
      ((s.ctx g.ctx).st ≠ .running → (u.cluster cl).bins = (s'.cluster cl).bins ∧
        (u.cluster cl).trav = (s'.cluster cl).trav))

/-- R64, R65, R69, R73 to R77, R84, R88, R89: what traversal decides, and its events.
Rests on choices of the model: logs 62, 106, 125, 128 and 129. -/
def Obligations.Traversal : Prop :=
  Claim.TraversalDecisions ∧ Claim.TraversalEvents

/-! ### The Weir (spec/11) -/

/-- R17, R299, R329, R337, R341, R345, R392: of a lane's ready tasks the first in the order of decoding issues, at most
four in a cc: a launch with its argument area at D and a grid of its own, a tensor task with its tiles placed; a tile
task starts when it is the oldest that can, computes in its turn at the matrix or copy engine, and leaves its core when
its writes are made, or before it has computed where its entry has faulted.
Rests on choices of the model: logs 36 and 39. -/
def Obligations.TasksIssue : Prop :=
  (∀ (x : EntryId) (s : State) (e : Entry),
    let c := x.ctx.toNat
    s.dev.stopped = false → (s.ctx c).st = .running → (s.ctx c).stream.reporting = false →
    HasEntry s x e →
    let f := s.partOf c
    (e.st = .issued → exec (.taskIssue x) s = .next (s.placeTiles c x.seq)) ∧
    (e.st = .decoded → (s.ctx c).stream.isReady e = true → s.taskWaits c e.seq issueWaiter = false →
      Table.getD s.cc.tasks f 0 < 4 → (∀ y ∈ s.issuables f, taskBefore y (c, e) = false) →
      (∀ d, e.launch = some d → exec (.taskIssue x) s = .next ((s.noteTask f).issueLaunch c e d)) ∧
      (∀ i d, e.launch = none → e.i = some i → e.task = some d →
        (∀ k ∈ slotViews i, ((d.slot k).accepted (taskAccepts i d k)).isSome = true) →
        (∀ y, i ≠ .cpyt y) → (∀ y, i = .redt y → d.pairsMode = false) →
        exec (.taskIssue x) s = .next ((s.noteTask f).startTask c e i d)) ∧
      (∀ i d k, e.launch = none → e.i = some i → e.task = some d →
        ((slotViews i).find? fun k => ((d.slot k).accepted (taskAccepts i d k)).isNone) = some k →
        exec (.taskIssue x) s = .next ((s.noteTask f).issueFault c e.seq 4 9 0 0 (k + 8)))) ∧
    (e.st = .decoded → (s.ctx c).stream.isReady e = false ∨ 4 ≤ Table.getD s.cc.tasks f 0 ∨
      (∃ y ∈ s.issuables f, taskBefore y (c, e) = true) → exec (.taskIssue x) s = .next s)) ∧
  (∀ (s s1 : State) (c : Nat) (e : Entry) (d : LDesc) (pas : List Nat),
    let n := (s.ctx c).stream
    s.unitPas (s.laneVia c) c (n.arenaBase + 128 * e.slot) 128 .write = (.ok pas, s1) →
    ∃ g, Table.get? (s.issueLaunch c e d).grids s1.uids = some g ∧ g.ctx = c ∧ g.seq = e.seq ∧ g.lrec = d.lrec ∧
      g.count = d.count ∧ g.next = 0 ∧ g.root = s1.uids ∧ g.argAddr = n.arenaBase + 128 * e.slot ∧
      (∀ y, e.i = some (.rlaunch y) → g.ray = true ∧ g.header = d.header) ∧
      (∀ y, e.i = some (.klaunch y) → g.ray = false ∧ g.tested = true)) ∧
  (∀ (x : CoreItem) (s : State) (t : TileTask),
    let core := coreNum x.core
    Runs s (clusterOf core) → Table.get? (s.core core).deps x.n = some t →
    (s.taskReady core t = true → (∀ e ∈ (s.core core).deps, s.taskReady core e.2 = true → t.age ≤ e.2.age) →
      exec (.tileTaskIssue x) s = .next ((({ (if t.mat then s.noteTaskTile core else s) with
          uids := s.uids + 1 } : State).updCore core fun k => { k with
        deps := Table.put k.deps x.n
          { t with started := true, turn := s.uids, acc := t.mat, pos := s.mem.pos } }).setLines core 2 true t.wlines)) ∧
    (s.taskReady core t = false → exec (.tileTaskIssue x) s = .next s) ∧
    (∀ e i d, s.entryOf t.ctx t.seq = some e → e.i = some i → e.task = some d → t.started = true →
      s.taskWaits t.ctx t.seq (tileWaiter core x.n) = false →
      let turn := if t.copy then (s.core core).copyTurn t.turn else (s.core core).mayBegin t.turn
      (t.out = none → e.st ≠ .faulted → turn = true →
        exec (.tileTaskComplete x) s = .next (s.beginTile core x.n t i d)) ∧
      (t.out = none → e.st ≠ .faulted → turn = false → exec (.tileTaskComplete x) s = .next s) ∧
      (t.out = none → e.st = .faulted → exec (.tileTaskComplete x) s = .next (s.endTile core x.n t)) ∧
      (∀ out, t.out = some out → (out ≠ [] ∨ t.pairs ≠ []) →
        exec (.tileTaskComplete x) s = .next (s.writeTile core x.n e.agent t out)) ∧
      (t.out = some [] → t.pairs = [] → core < s.cores.length →
        ∃ u : State, exec (.tileTaskComplete x) s = .next u ∧ u.mem = s.mem ∧
          Table.get? (u.core core).deps x.n = none)))

/-- R312, R322, R323, R329 to R333, R430 to R433: entries complete (a launch when its grid and all below it have
ended, FENCET when every older entry has, and FENCET.s once what it has sent is acknowledged, a task of pairs for the
peer once its flush is, WAITE when its event's condition holds) and retire in order, with their
registers, handles and event effects made then; a faulted oldest entry ends what its younger entries run, and is
reported once that has stopped; an ending family whose work is done is freed, and its entry faulted.
Rests on choices of the model: logs 34, 43 and 47. -/
def Obligations.TasksCompleteAndRetire : Prop :=
  (∀ (x : EntryId) (s : State) (e : Entry),
    let c := x.ctx.toNat
    let n := (s.ctx c).stream
    let done (s : State) : State := s.updEntry c x.seq fun y => { y with st := .done }
    s.dev.stopped = false → HasEntry s x e → s.taskWaits c x.seq finishWaiter = false →
    ((s.ctx c).st = .running ∨ (s.ctx c).st = .stopping →
      (∀ far, e.st = .decoded → e.i = some (.fencet far) → n.isReady e = true →
        (far = false ∨ (e.sent = true ∧ s.fenceOpen c e = false) → exec (.taskComplete x) s = .next (done s)) ∧
        (far = true → e.sent = false → exec (.taskComplete x) s = .next (s.sendFence c e)) ∧
        (far = true → e.sent = true → s.fenceOpen c e = true → exec (.taskComplete x) s = .next s)) ∧
      (∀ i kid g, e.st = .issued → e.i = some i → e.kid = some kid → Table.get? s.grids kid = some g →
        g.ray = false → g.ending = false →
        (s.complete kid = false → exec (.taskComplete x) s = .next s) ∧
        (s.complete kid = true → c < s.ctxs.length → ∃ u : State, exec (.taskComplete x) s = .next u ∧
          (∀ k ∈ s.family kid, Table.get? u.grids k = none) ∧
          ∃ e', u.entryOf c x.seq = some e' ∧ e'.st = .done ∧ e'.kid = none)) ∧
      (∀ i d, e.st = .issued → e.i = some i → e.kid = none → e.task = some d → e.tiles = [] → e.inFlight = 0 →
        n.padWaits e i d = false →
        (s.flushes e i d = true → exec (.taskComplete x) s = .next (s.flushTask c e)) ∧
        (s.flushes e i d = false → s.linkBusy (.task c x.seq) = true → exec (.taskComplete x) s = .next s) ∧
        (s.flushes e i d = false → s.linkBusy (.task c x.seq) = false →
          exec (.taskComplete x) s = .next (s.finishTask c e i d)))) ∧
    ((s.ctx c).st = .running → ∀ w : WaiteOp, e.st = .decoded → e.i = some (.waite w) → n.isReady e = true →
      let v := listGet (s.ctx c).events w.ev.toNat 0
      ((if w.eq then v = e.val else e.val.toNat ≤ v.toNat) →
        exec (.eventWaitSatisfied x) s = .next (done s)) ∧
      (¬ (if w.eq then v = e.val else e.val.toNat ≤ v.toNat) →
        exec (.eventWaitSatisfied x) s = .next s))) ∧
  (∀ (s : State) (c : Nat) (e : Entry), c < s.ctxs.length → (∃ y, s.entryOf c e.seq = some y) →
    (s.mem.dirty = [] ∨ (s.paired = true ∧ s.rill.out.length < 4096) →
      (s.sendFence c e).mem = (if s.mem.dirty = [] then s.mem else s.mem.sendHome) ∧
      ∃ y, (s.sendFence c e).entryOf c e.seq = some y ∧ y.sent = true) ∧
    (s.mem.dirty ≠ [] → s.paired = false →
      ∃ y, (s.sendFence c e).entryOf c e.seq = some y ∧ y.st = .faulted)) ∧
  (∀ (c : BitVec 6) (s : State) (e : Entry) (rest : List Entry),
    let k := c.toNat
    let n := (s.ctx k).stream
    s.dev.stopped = false → (s.ctx k).st = .running → n.win = e :: rest → k < s.ctxs.length →
    (e.st = .done → e.task = none → e.launch = none → (∀ o ∈ rest, o.seq ≠ e.seq) → e.i ≠ some .haltq →
      ∃ u : State, exec (.entryRetire c) s = .next u ∧ u.mem = s.mem ∧
        let m := (u.ctx k).stream
        m.win = rest ∧ m.spcR = e.nextPc ∧ m.stackR = e.stack ∧
        (∀ d v, e.qw = some (d, v) → m.qR = Table.put n.qR d v) ∧ (e.qw = none → m.qR = n.qR) ∧
        (∀ h v, e.maps = [(h, some v)] → m.hR = Table.put n.hR h v) ∧ (e.maps = [] → m.hR = n.hR) ∧
        (∀ y : SignalOp, e.i = some (.signal y) →
          (u.ctx k).events = (if s.swrStands (0x080 + y.ev.toNat) k then (s.ctx k).events
            else listUpd (s.ctx k).events y.ev.toNat fun v => if y.add then v + e.val else e.val) ∧
          (y.irq = true → u.dev.sigPend = s.dev.sigPend ||| (1#64 <<< k)))) ∧
    (∀ r, e.st = .faulted → e.fault = some r →
      let s1 := ((s.runningGrids rest).foldl State.stopFamily s).withdrawAll k
      (s1.stillStopping k (e :: rest) = true → exec (.entryRetire c) s = .next s1) ∧
      (s1.stillStopping k (e :: rest) = false → exec (.entryRetire c) s = .next (s1.report k e r)))) ∧
  (∀ (kid : Nat) (s : State) (g : Grid), Table.get? s.grids kid = some g → g.root = kid → g.ending = true →
    s.dev.stopped = false → s.partFrozen g.ctx = false →
    s.familyLinks (fun n => (s.family kid).any fun x => x = n) = false →
    (∀ k ∈ s.cores, k.familyBusy (fun n => (s.family kid).any fun x => x = n) = false) →
    ∃ u : State, exec (.gridEndingComplete kid) s = .next u ∧ (∀ k ∈ s.family kid, Table.get? u.grids k = none) ∧
      (∀ k ∈ u.cores, ∀ e ∈ k.waves, e.2.kid ∉ s.family kid) ∧
      (∀ r e, g.fault = some r → s.entryOf g.ctx g.seq = some e → g.ctx < s.ctxs.length →
        ∃ e', u.entryOf g.ctx g.seq = some e' ∧ e'.st = .faulted ∧ e'.fault = some r))

/-! ### Privileged registers and what the host writes (spec/16, spec/20, spec/21) -/

/-- R380, R475, R484: in PHASE 3 a register write of the host that its checks allow has the register's effect; one
that is refused sets HERR and does nothing else; and before PHASE 3 a write of any register but DEV_STATUS is
dropped. -/
def Sys2Proof.Claim.HostRegisterWrites : Prop :=
  (∀ (i : Instr) (s : State) (n k : Nat) (x : DWord), hostReg s i = some (n, k, x) →
    (s.dev.phase = 3 →
      (∀ s', s.regWrite .host n k x = .ok s' → exec i s = .next s') ∧
      (∀ e, s.regWrite .host n k x = .error e →
        exec i s = .next { s with dev := { s.dev with herr := true } })) ∧
    (s.dev.phase ≠ 3 → n ≠ 0x001 → exec i s = .next s)) ∧
  (∀ (c : BitVec 6) (s : State) (a n : DWord) (e : Ctx), s.dev.phase = 3 → s.ctxs[c.toNat]? = some e →
    e.settled = true → e.stream.win = [] →
    ∃ t : State, exec (.arenaWrite c a n) s = .next t ∧ t.mem = s.mem ∧
      (t.ctx c.toNat).stream.arenaBase = keepBits a 12 40 ∧ (t.ctx c.toNat).stream.arenaSize = keepBits n 12 40 ∧
      (t.ctx c.toNat).stream.hS = [] ∧ (t.ctx c.toNat).stream.hR = []) ∧
  (∀ (s : State) (n : Nat) (x : DWord) (c : Nat) (e : Ctx), s.ctxs[c]? = some e → c < 64 →
    let reads (x' : DWord) : Prop := ∃ t, s.regWrite .host n c x = .ok t ∧ t.regRead n c = x' ∧ t.mem = s.mem
    (0x060 ≤ n → n ≤ 0x06F → e.prog.length = 16 → reads x) ∧
    (0x080 ≤ n → n ≤ 0x0BF → e.events.length = 64 → reads x) ∧
    (n = 0x041 → e.settled = true → reads (BitVec.ofNat 64 (keepBits x 4 48))) ∧
    (n = 0x11A ∨ n = 0x11C ∨ n = 0x11E → reads (BitVec.ofNat 64 (keepBits x 12 40))) ∧
    (n = 0x11F ∨ n = 0x120 → reads (BitVec.ofNat 64 (keepBits x 3 49))) ∧
    (n = 0x121 → reads x) ∧
    (n = 0x041 ∨ n = 0x045 ∨ n = 0x046 ∨ n = 0x047 ∨ n = 0x048 → e.settled = false →
      s.regWrite .host n c x = .error { code := 1, cause := 12 }))

/-- R317, R379, R381, R391: REQ run starts a stopped context at its base with an empty stream, and is held for one
that is stopping or saved; REQ stop makes a running context stopping; BOUND is set and cleared by firmware alone;
and a weight is what was written. -/
def Obligations.ContextRequests : Prop :=
  ∀ (c : BitVec 6) (s : State) (e : Ctx), s.ctxs[c.toNat]? = some e →
    let k := c.toNat
    (s.dev.phase = 3 → e.bound = true → (s.part e.part.toNat).valid = true →
      (∃ t : State, exec (.ctxReqRun c) s = .next t ∧
        (e.st = .stopped → (t.ctx k).st = .running ∧ (t.ctx k).reqHeld = false ∧
          (t.ctx k).stream.spcS = BitVec.ofNat 52 e.stream.base ∧ (t.ctx k).stream.seq = 0 ∧
          (t.ctx k).stream.win = [] ∧ (t.ctx k).stream.hS = [] ∧ (t.ctx k).stream.qS = []) ∧
        (e.st = .stopping ∨ e.st = .saved → (t.ctx k).reqHeld = true ∧ (t.ctx k).st = e.st) ∧
        (e.st = .running → (t.ctx k).st = .running ∧ (t.ctx k).stream = e.stream)) ∧
      (∃ t : State, exec (.ctxReqStop c) s = .next t ∧ (t.ctx k).stream = e.stream ∧
        (e.st = .running → (t.ctx k).st = .stopping ∧ (t.ctx k).reqTick = s.tick) ∧
        (e.st ≠ .running → (t.ctx k).st = e.st)) ∧
      ∀ w, ∃ t : State, exec (.ctxWeightWrite c w) s = .next t ∧ (t.ctx k).weight = w ∧ (t.ctx k).st = e.st) ∧
    (∀ p : BitVec 4, (s.part p.toNat).valid = true → e.bound = false →
      ∃ t : State, exec (.ctxBoundSet c p) s = .next t ∧ (t.ctx k).bound = true ∧ (t.ctx k).part = p ∧
        (t.ctx k).st = .stopped ∧ ∀ n, listGet (t.ctx k).events n 0 = 0) ∧
    (e.bound = true → (e.st = .free ∨ e.st = .stopped) →
      ∃ t : State, exec (.ctxBoundClear c) s = .next t ∧ (t.ctx k).bound = false ∧ (t.ctx k).st = .free ∧
        ∀ y ∈ t.clusters, ∀ b ∈ y.tlb, b.ctx ≠ k)

/-- R107, R109, R316, R380, R381, R385, R475 to R477: what the host's other writes do in PHASE 3, and firmware's
write of PART_CFG. -/
def Sys2Proof.Claim.HostEvents : Prop :=
  (∀ (c : BitVec 6) (s : State) (e : Ctx) (x : DWord), s.dev.phase = 3 → s.ctxs[c.toNat]? = some e →
    let k := c.toNat
    (e.stream.status = .halted ∨ e.stream.status = .faulted → ∃ t : State, exec (.streamResume c) s = .next t ∧
      (t.ctx k).stream.stopDecode = false ∧ (t.ctx k).stream.status =
        (if e.stream.spcS.toNat < e.stream.limit then .running else .waiting)) ∧
    (e.stream.status = .halted ∨ e.stream.status = .faulted → ∃ t : State, exec (.ctxSpcWrite c x) s = .next t ∧
      (t.ctx k).stream.spcS = BitVec.ofNat 52 (keepBits x 4 48) ∧
      (t.ctx k).stream.spcR = BitVec.ofNat 52 (keepBits x 4 48)) ∧
    (∃ t : State, exec (.streamLimitWrite c x) s = .next t ∧ (t.ctx k).stream.limit = keepBits x 4 48 ∧
      (e.stream.status = .running ∨ e.stream.status = .waiting → (t.ctx k).stream.status =
        (if e.stream.spcS.toNat < keepBits x 4 48 then .running else .waiting))) ∧
    (∀ n : BitVec 3, n.toNat < e.resCtl.length → ∃ t : State, exec (.residencyWrite c n x) s = .next t ∧
      t.mem = s.mem ∧ listGet (t.ctx k).resCtl n.toNat 0 = x &&& 0x800FFFFFFFFFFF07#64) ∧
    ∃ t : State, exec (.dbgTraceBaseWrite c x) s = .next t ∧ (s.paValid (keepBits x 12 40) = true →
      (t.ctx k).dbg.traceBase = keepBits x 12 40 ∧ (t.ctx k).dbg.traceN = 0 ∧ (t.ctx k).dbg.traceDrop = 0)) ∧
  (∀ (c : BitVec 6) (s : State) (e : Ctx) (x : DWord), s.dev.phase = 3 → s.ctxs[c.toNat]? = some e →
    (e.st ≠ .running ∨ x.extractLsb' 15 2 = e.dbg.ctl.extractLsb' 15 2) →
    ∃ t : State, exec (.dbgCtlWrite c x) s = .next t ∧ t.mem = s.mem ∧
      (t.ctx c.toNat).dbg.ctl = x &&& 0xFFFFC000#64) ∧
  (∀ (cl : BitVec 4) (s : State) (x : DWord), s.dev.phase = 3 →
    (x.toNat % 4 ≠ 3 → exec (.clModeWrite cl x) s = .next (s.updCluster cl.toNat fun c =>
      { c with pendMode := some (x.setWidth 2) })) ∧
    (x.toNat % 4 = 3 → exec (.clModeWrite cl x) s = .next { s with dev := { s.dev with herr := true } })) ∧
  (∀ (s : State) (x : DWord), s.dev.phase = 3 →
    (∃ t : State, exec (.hostSigpendClear x) s = .next t ∧ t.dev.sigPend = s.dev.sigPend &&& ~~~x ∧
      t.mem = s.mem) ∧
    (∃ t : State, exec (.hostIrqpendClear x) s = .next t ∧
      t.dev.irqPend = s.dev.irqPend &&& ~~~(x.setWidth 32) ∧ t.mem = s.mem) ∧
    (s.dev.hostWait = [] → ∃ t : State, exec (.hostQheadWrite x) s = .next t ∧ t.dev.qhead = x.toNat % 256 ∧
      t.dev.qcount = s.dev.qcount - min s.dev.qcount ((x.toNat % 256 + 256 - s.dev.qhead) % 256)) ∧
    (∀ (k id : Nat) (q : Queued), (s.dev.hostRing.find? fun e => e.1 = x.toNat % 256) = some (k, q) →
      q.page = some id → exec (.hostQdone x) s = .next (s.resolvePage id (x.toNat / 2 ^ 32))) ∧
    ((s.dev.hostRing.find? fun e => e.1 = x.toNat % 256) = none → exec (.hostQdone x) s = .next s)) ∧
  (∀ (f : BitVec 4) (s : State), s.dev.phase = 3 →
    ∃ t u : State, exec (.hostDoorbell f) s =
        .next (t.post f.toNat { frec := FaultRec.blank 0x19 s.tick, page := none }) ∧
      (f.toNat < s.handlers.length → (t.handler f.toNat).bell = true) ∧
      (16 < s.handlers.length → (t.handler 16).bell = true) ∧ t.mem = s.mem ∧
      u = t.post f.toNat { frec := FaultRec.blank 0x19 s.tick, page := none } ∧
      (f.toNat < u.handlers.length → (u.handler f.toNat).bell = true)) ∧
  (∀ (f : BitVec 4) (s : State) (x : DWord), f.toNat < s.parts.length →
    let size := (x.extractLsb' 60 3).toNat
    x.getLsbD 63 = true → size ≤ 4 → f.toNat % 2 ^ size = 0 → x.extractLsb' 44 8 ≠ 0 → s.anyBound f.toNat = false →
    (∀ g, g ≠ f.toNat → g < 16 → (s.part g).valid = true → ∀ c, g ≤ c → c < g + 2 ^ (s.part g).size.toNat →
      ¬ (f.toNat ≤ c ∧ c < f.toNat + 2 ^ size)) →
    ∃ t : State, exec (.partCfgWrite f x) s = .next t ∧ t.mem = s.mem ∧
      let p := t.part f.toNat
      p.valid = true ∧ p.size = x.extractLsb' 60 3 ∧ p.chan = x.extractLsb' 44 8 ∧ p.sarea = x.extractLsb' 32 4)

/-- R107, R109, R316, R380, R381, R385, R475 to R477, R484: what the host writes.
Rests on choices of the model: log 25. -/
def Obligations.HostWrites : Prop :=
  Claim.HostRegisterWrites ∧ Claim.HostEvents

/-! ### Debug (spec/20) -/

/-- R453, R457 to R465: resuming, stepping a wave or a lane, arming and taking a precise stop, which an arm does once,
the skid buffer's arming and its capture of replies, and sample records.
Rests on choices of the model: logs 64, 67, 132 and 133. -/
def Obligations.DebugEvents : Prop :=
  (∀ (cl : BitVec 4) (s : State), s.dev.phase = 3 →
    ∃ t : State, exec (.dbgResume cl) s = .next t ∧
      (s.dev.stopped = false → s.partAt cl.toNat = none → (t.cluster cl.toNat).dbg.frozen = false) ∧
      (∀ f, s.dev.stopped = false → s.partAt cl.toNat = some f →
        ∀ k < 16, s.inPart f k = true → (t.cluster k).dbg.frozen = false) ∧
      (s.dev.stopped = true → t.dev.stopped = false ∧ ∀ k < 16, (t.cluster k).dbg.frozen = false)) ∧
  (∀ (x : SlotId) (s : State) (w : Wave),
    let core := coreNum x.core
    let cl := clusterOf core
    s.dev.phase = 3 → (s.cluster cl).dbg.frozen = true → s.dev.stopped = false → cl < s.clusters.length →
    (Table.get? (s.core core).waves x.slot.toNat = some w → core < s.cores.length →
      ∃ t : State, exec (.dbgStep x) s = .next t ∧ t.mem = s.mem ∧
        (t.cluster cl).dbg.frozen = false ∧ (t.cluster cl).dbg.stepFail = false ∧
        (t.cluster cl).dbg.step = some (core, x.slot.toNat, 2 * s.tick) ∧ (t.cluster cl).skid = [] ∧
        ((s.cluster cl).skid = [] →
          Table.get? (t.core core).waves x.slot.toNat = some { w with skipHit := .all })) ∧
    (Table.get? (s.core core).waves x.slot.toNat = none → ∃ t : State, exec (.dbgStep x) s = .next t ∧
      t.cores = s.cores ∧ (t.cluster cl).dbg.frozen = true ∧ (t.cluster cl).dbg.stepFail = true)) ∧
  (∀ (x : LaneId) (s : State) (w : Wave) (t : Thread) (n : Nat),
    let core := coreNum x.wave.core
    let cl := clusterOf core
    s.dev.phase = 3 → (s.cluster cl).dbg.frozen = true → s.dev.stopped = false → cl < s.clusters.length →
    core < s.cores.length → Table.get? (s.core core).waves x.wave.slot.toNat = some w →
    Table.get? w.active x.lane.toNat = some t → Table.get? w.lanes x.lane.toNat = some t →
    s.newSlot core = some n → w.crew = none → (s.core core).basins.length < 64 →
    (s.cluster cl).skid = [] → s.outstanding core x.wave.slot.toNat [t.uid] = false →
    (∀ e ∈ (s.core core).ops, e.2.slot = x.wave.slot.toNat → t.uid ∉ e.2.uids) →
    ∃ u v, exec (.dbgStepLane x) s = .next u ∧ u.mem = s.mem ∧
      (u.cluster cl).dbg.step = some (core, n, 2 * s.tick) ∧
      Table.get? (u.core core).waves n = some v ∧ v.pc = w.pc ∧
      v.lanes = [(0, { t with pc := w.pc, st := .run })]) ∧
  (∀ s : State, exec .dbgArmStop s = .next { s with dev := { s.dev with
      armed := true, spent := s.dev.spent || decide (s.dev.stopTick.toNat < s.tick) } } ∧
    exec .dbgDisarm s = .next { s with dev := { s.dev with armed := false, spent := false } } ∧
    (s.dev.armed = true → s.dev.spent = false → s.dev.stopped = false → s.dev.stopTick.toNat = s.tick →
      ∃ t : State, exec .preciseStop s = .next t ∧ t.dev.stopped = true ∧ t.dev.spent = true ∧
        (∀ k, (t.core k).waves = (s.core k).waves) ∧
        ((∀ c, (s.ctx c).dbg.ctl.getLsbD 18 = false) → t.mem = s.mem) ∧
        ∀ k < 16, k < s.clusters.length → (t.cluster k).dbg.frozen = true) ∧
    (s.dev.armed = false ∨ s.dev.spent = true ∨ s.dev.stopTick.toNat ≠ s.tick →
      exec .preciseStop s = .next s)) ∧
  (∀ (cl : BitVec 4) (s : State) (core slot n : Nat), (s.cluster cl.toNat).dbg.step = some (core, slot, n) →
    s.dev.stopped = false →
    let late := Table.get? (s.core core).waves slot = none ∨ n / 2 + 65536 ≤ s.tick
    (n % 2 = 1 → s.stepBusy core slot = false → (core, slot / 16) ∉ s.cc.issued →
      exec (.stepComplete cl) s = .next (s.refreeze cl.toNat false)) ∧
    (n % 2 = 0 ∨ s.stepBusy core slot = true ∨ (core, slot / 16) ∈ s.cc.issued →
      exec (.stepComplete cl) s = .next s) ∧
    (n % 2 = 0 → late → exec (.stepTimeout cl) s = .next (s.refreeze cl.toNat true)) ∧
    (n % 2 = 1 ∨ ¬ late → exec (.stepTimeout cl) s = .next s) ∧
    ∀ fail, cl.toNat < s.clusters.length →
      let t := s.refreeze cl.toNat fail
      (t.cluster cl.toNat).dbg.frozen = true ∧ (t.cluster cl.toNat).dbg.step = none ∧ t.mem = s.mem ∧
        (t.cluster cl.toNat).dbg.stepFail = ((s.cluster cl.toNat).dbg.stepFail || fail) ∧
        ∀ w, Table.get? (s.core core).waves slot = some w →
          Table.get? (t.core core).waves slot = some (if fail then { w with skipHit := .none } else w)) ∧
  (∀ (s : State) (x : DWord),
    (∃ t : State, exec (.devSkidWrite x) s = .next t ∧ t.dev.skidArm = x.getLsbD 63 ∧ t.mem = s.mem ∧
      t.dev.skidActive = (s.dev.skidActive && (x.getLsbD 63 || s.dev.skidLines != 0)) ∧
      (s.dev.skidLines ≤ 65536 → (t.regRead 0x006 0).getLsbD 63 = x.getLsbD 63)) ∧
    (s.dev.skidArm = true → exec .skidActive s = .next { s with dev := { s.dev with skidActive := true } }) ∧
    (s.dev.skidArm = false → s.dev.skidLines = 0 →
      exec .skidDisarmApply s = .next { s with dev := { s.dev with skidActive := false } }) ∧
    ∀ cl : BitVec 4, (s.cluster cl.toNat).dbg.frozen = true → s.dev.skidActive = true → s.dev.stopped = false →
      cl.toNat < s.clusters.length →
      (s.awaited cl.toNat = [] → exec (.skidReplyCapture cl) s = .next s) ∧
      (s.awaited cl.toNat ≠ [] → ∃ x ∈ s.awaited cl.toNat, ∀ p, Table.get? (s.core x.1).ops x.2 = some p →
        ∃ t : State, exec (.skidReplyCapture cl) s = .next t ∧
          (s.dev.skidLines + p.replyLines ≤ 65536 → t.dev.skidLines = s.dev.skidLines + p.replyLines ∧
            t.mem = s.mem ∧ (t.cluster cl.toNat).skid =
              (s.cluster cl.toNat).skid ++ [{ core := x.1, key := x.2, lines := p.replyLines }]) ∧
          (65536 < s.dev.skidLines + p.replyLines → ∀ f, s.partAt cl.toNat = some f →
            ∀ k < 16, s.inPart f k = true → k < s.clusters.length → (t.cluster k).dbg.frozen = true))) ∧
  (∀ (x : CoreId) (ctx : BitVec 6) (s : State),
    let core := coreNum x
    let c := ctx.toNat
    let d := (s.ctx c).dbg
    Runs s (clusterOf core) → s.inPart (s.partOf c) (clusterOf core) = true → (s.ctx c).bound = true →
    (d.ctl.getLsbD 19 = false ∨ s.tick % d.period ≠ 0 ∨ s.tick < Table.getD (s.core core).sampled c 0 →
      exec (.sampleRecord x ctx) s = .next s) ∧
    (d.ctl.getLsbD 19 = true → s.tick % d.period = 0 → Table.getD (s.core core).sampled c 0 ≤ s.tick →
      (core, d.samplePart s.tick) ∈ s.cc.issued → core < s.cores.length → c < s.ctxs.length →
      ∃ t : State, exec (.sampleRecord x ctx) s = .next t ∧ (t.ctx c).dbg.ctl = d.ctl ∧
        Table.getD (t.core core).sampled c 0 = s.tick + 1 ∧
        (t.ctx c).dbg.traceN + (t.ctx c).dbg.traceDrop = d.traceN + d.traceDrop + 1))

/-! ### Memory errors, the host's window, bring-up, heat, and handlers (spec/16, spec/19, spec/21) -/

/-- R386, R413, R434, R474, R475, R486: a handler starts with the record it serves, at the entry of its class; a
walk caches what it finds; an uncorrectable error poisons its line and a correctable one is counted; the host's
window writes and reads device memory in PHASE 3.
Rests on choices of the model: logs 27, 84, 86 and 135. -/
def Obligations.HandlerAndMemoryEvents : Prop :=
  (∀ (f : BitVec 5) (s : State) (e : Nat × Queued) (rest : List (Nat × Queued)), f.toNat < 16 →
    (s.handler f.toNat).wave = none → (s.part f.toNat).ring = e :: rest →
    f.toNat < s.handlers.length → f.toNat < s.parts.length →
    ∃ (t : State) (w : Wave) (u : Thread), exec (.handlerStart f) s = .next t ∧ t.mem = s.mem ∧
      t.cores = s.cores ∧ (t.handler f.toNat).wave = some w ∧ w.mode = .supervisor ∧
      w.pc = BitVec.ofNat 52 (s.vector f.toNat e.2.frec.cls.toNat) ∧ w.lanes = [(0, u)] ∧ u.base = 32 ∧
      u.reg 0 = BitVec.ofNat 32 ((s.part f.toNat).fqbase + 64 * e.1) ∧
      u.reg 1 = BitVec.ofNat 32 (((s.part f.toNat).fqbase + 64 * e.1) / 2 ^ 32) ∧
      u.reg 2 = BitVec.ofNat 32 e.2.frec.cls.toNat ∧ u.reg 3 = BitVec.ofNat 32 f.toNat ∧
      (∀ n, 4 ≤ n → u.reg n = 0) ∧ (t.part f.toNat).ring = rest ∧ (t.part f.toNat).held = some e) ∧
  (∀ (x : CoreId) (ctx : BitVec 6) (va : BitVec 52) (s : State), Runs s (clusterOf (coreNum x)) →
    (s.ctx ctx.toNat).bound = true → s.inPart (s.partOf ctx.toNat) (clusterOf (coreNum x)) = true →
    va.toNat < windowBase →
    exec (.translationWalk x ctx va) s = .next
      (s.translate { core := some (coreNum x), cl := clusterOf (coreNum x) } ctx.toNat va.toNat .read).2) ∧
  (∀ (line : Nat) (s : State), s.paValid (line / 128 * 128) = true →
    ∃ t : State, exec (.eccErrorNoRequester line) s = .next t ∧ t.mem.poisoned (line / 128 * 128) 128 = true ∧
      t.cores = s.cores) ∧
  (∀ (line : Nat) (s : State), s.paValid line = true → s.dev.ceCount ≠ 0xFFFF → s.swrStands 0x005 0 = false →
    ∃ t : State, exec (.eccCorrectableError line) s = .next t ∧ t.dev.ceCount = s.dev.ceCount + 1 ∧
      (s.dev.thresh = 0 ∨ s.dev.ceCount + 1 ≠ s.dev.thresh → t.mem = s.mem)) ∧
  (∀ (off : Nat) (bs : List Byte) (s : State),
    (∀ a, s.bar2Pa off bs.length = some a → bs ≠ [] → exec (.bar2Write off bs) s =
      .next { s with mem := s.mem.agentWrite s.tick hostAgent a bs }) ∧
    (s.dev.phase ≠ 3 → exec (.bar2Write off bs) s = .next s) ∧
    (∀ n a, s.bar2Pa off n = some a → s.mem.poisoned a n = false → exec (.bar2Read off n) s =
      .next { s with dev := { s.dev with bar2 := s.mem.readD a n } }) ∧
    (∀ n a, s.bar2Pa off n = some a → a = s.dev.win * 2 ^ 30 + off ∧ a + n ≤ s.capacity ∧ s.dev.phase = 3))

/-- R384, R484 to R489: bring-up goes from phase to phase and a failure ends it; DEVICE_RESET leaves memory's bytes,
its poisoned lines and DEV_ECC.EN, which the bring-up samples, and nothing else of the old state; the allowance is
recomputed, it is reduced from 100 °C to 95 °C, and the heat limits take it to 16 and stop the clocks.
Rests on choices of the model: log 28 (what a reset keeps), and logs 90 and 91. -/
def Obligations.PowerAndHeat : Prop :=
  ∀ s : State,
    (∃ t : State, exec .deviceReset s = .next t ∧ t.mem.cells = s.mem.cells ∧ t.mem.poison = s.mem.poison ∧
      t.mem.bufs = [] ∧ t.mem.log = [] ∧ t.cores = State.reset.cores ∧ t.clusters = State.reset.clusters ∧
      t.ctxs = State.reset.ctxs ∧ t.parts = State.reset.parts ∧ t.handlers = State.reset.handlers ∧
      t.grids = [] ∧ t.blocks = [] ∧ t.tick = 0 ∧ t.dev.phase = 0 ∧ t.dev.allow = 64 ∧
      t.dev.eccEn = s.dev.eccEn ∧ t.rill = Rill.reset) ∧
    (s.dev.phase = 1 → exec .memoryTrainingDone s =
      .next { s with dev := { s.dev with phase := 2, eccOn := s.dev.eccEn } }) ∧
    (s.dev.phase ≠ 1 → exec .memoryTrainingDone s = .next s) ∧
    (s.dev.phase = 2 → exec .firmwareReady s = .next { s with dev := { s.dev with phase := 3 } }) ∧
    (s.dev.phase ≠ 2 → exec .firmwareReady s = .next s) ∧
    (s.dev.phase = 1 ∨ s.dev.phase = 2 →
      exec .bringupFailure s = .next { s with dev := { s.dev with phase := 4 } }) ∧
    (∀ a : BitVec 8, s.tick % 1024 = 0 → s.dev.hot = false → a ≠ 0 → a.toNat ≤ 64 →
      (s.dev.func.getLsbD 4 = true →
        exec (.allowRecompute a) s = .next { s with dev := { s.dev with allow := 64 } }) ∧
      (s.dev.func.getLsbD 4 = false → s.dev.throttle = none →
        exec (.allowRecompute a) s = .next { s with dev := { s.dev with allow := a.toNat } }) ∧
      ∀ r, s.dev.func.getLsbD 4 = false → s.dev.throttle = some r → exec (.allowRecompute a) s =
        .next { s with dev := { s.dev with allow := min a.toNat r, throttle := some (min a.toNat r) } }) ∧
    (∀ t : BitVec 8, 100 ≤ t.toNat →
      ∃ u : State, exec (.thermalAlert t) s = .next u ∧ u.dev.temp = t ∧ u.cores = s.cores ∧
        (s.dev.func.getLsbD 4 = false → u.mem = s.mem ∧ u.dev.throttle.isSome = true) ∧
        (s.dev.func.getLsbD 4 = false → s.dev.hot = false → s.dev.throttle = none → 1 < s.dev.allow →
          1 ≤ u.dev.allow ∧ u.dev.allow < s.dev.allow) ∧
        (s.dev.throttle.isSome = true → u.dev.allow = s.dev.allow)) ∧
    (∀ t : BitVec 8, 105 ≤ t.toNat → ∃ u : State, exec (.thermalHardLimit t) s = .next u ∧ u.dev.temp = t ∧
      u.dev.hot = true ∧ u.dev.allow = 16 ∧ u.mem = s.mem ∧ u.cores = s.cores) ∧
    (∀ t : BitVec 8, t.toNat < 100 → ∃ u : State, exec (.thermalRecover t) s = .next u ∧ u.dev.temp = t ∧
      u.dev.hot = false ∧ u.mem = s.mem ∧
      (s.dev.hot = true → s.dev.func.getLsbD 4 = true → u.dev.allow = 64) ∧
      (s.dev.hot = true → s.dev.func.getLsbD 4 = false →
        (∀ n, s.dev.throttle = some n → 1 ≤ n ∧ n ≤ 64) → 1 ≤ u.dev.allow ∧ u.dev.allow ≤ 64) ∧
      (t.toNat ≤ 95 → u.dev.throttle = none) ∧ (95 < t.toNat → u.dev.throttle = s.dev.throttle) ∧
      (s.dev.hot = false → (95 < t.toNat ∨ s.dev.throttle = none) → u.dev.allow = s.dev.allow)) ∧
    (∀ t : BitVec 8, 115 ≤ t.toNat → exec (.thermalShutdown t) s =
      .next { s with dev := { s.dev with temp := t, phase := 4, stopped := true } })

/-! ### Rill (spec/19, spec/21) -/

/-- R449, R450, R479 to R483: responses end their requests and requests are sent again; the peer's requests, those of
the merge unit among them, are applied in tag order and never twice, a duplicate's response being sent again while it is
kept; a link that stays silent fails every request; pairs form and end; and the merge unit adds pairs of one element
before they reach D.
Rests on choices of the model: logs 11, 66, 89 and 134. -/
def Obligations.RillEvents : Prop :=
  ∀ s : State,
    (s.dev.stopped = false → s.rill.st = 2 →
      (∀ tag : Word, exec (.rillResponseReceive tag) s = .next { s with rill := { s.rill with
        out := s.rill.out.filter fun q => q.tag != tag.toNat, heard := s.tick } }) ∧
      (∀ tag : Word, ∃ t : State, exec (.rillRetransmit tag) s = .next t ∧ t.mem = s.mem ∧
        t.rill.out.length = s.rill.out.length ∧ ∀ (k : Nat) (q : RillReq), s.rill.out[k]? = some q →
          t.rill.out[k]? = some (if q.tag = tag.toNat ∧ q.sent + 12800 ≤ s.tick then
            { q with sent := s.tick } else q)) ∧
      (exec .linkRetrain s = .next { s with rill := { s.rill with
        out := s.rill.out.map fun q => { q with sent := s.tick } } }) ∧
      (∀ (tag : Word) (p : Nat),
        let x := decodeReq (p / 2 ^ 33)
        let got := s.rill.cache.find? fun e => e.1 = tag.toNat
        let before := tagBefore tag.toNat s.rill.expect
        (p % 2 = 1 → exec (.rillRequestReceive tag p) s =
          .next ((s.acknowledged (p / 2 % 2 ^ 32)).receive tag.toNat x)) ∧
        (p % 2 = 0 →
          (before = true → exec (.rillRequestReceive tag p) s = .next { s with rill := { s.rill with
            heard := s.tick, resp := s.rill.resp ++ got.toList } }) ∧
          (before = false → (∃ e ∈ s.rill.early, e.1 = tag.toNat) →
            exec (.rillRequestReceive tag p) s = .next { s with rill := { s.rill with heard := s.tick } }) ∧
          (tag.toNat = s.rill.expect → s.rill.early = [] →
            ∃ t : State, exec (.rillRequestReceive tag p) s = .next t ∧
              t.rill.expect = (s.rill.expect + 1) % 2 ^ 32 ∧ t.rill.early = [] ∧ t.mem = (s.applyReq x).2.mem ∧
              t.rill.resp = s.rill.resp ++ [(tag.toNat, (s.applyReq x).1)]) ∧
          (before = false → tag.toNat ≠ s.rill.expect → s.rill.early = [] →
            ∃ t : State, exec (.rillRequestReceive tag p) s = .next t ∧ t.mem = s.mem ∧
              t.rill.early = [(tag.toNat, x)] ∧ t.rill.expect = s.rill.expect))) ∧
      ∀ n, (s.acknowledged n).mem = s.mem ∧ (∀ e ∈ (s.acknowledged n).rill.resp, tagBefore n e.1 = true) ∧
        ∀ e ∈ s.rill.resp, tagBefore n e.1 = true → e ∈ (s.acknowledged n).rill.resp) ∧
    (s.rill.st = 2 → s.rill.heard + 1600000 ≤ s.tick → ∃ t : State, exec .rillLinkFailure s = .next t ∧
      t.rill.st = 3 ∧ t.rill.out = [] ∧ t.rill.pairs = [] ∧ t.rill.peerCap = 0) ∧
    (s.tick < s.rill.heard + 1600000 → exec .rillLinkFailure s = .next s) ∧
    (∀ n, ∃ t : State, exec (.hostReadComplete n) s = .next t ∧ t.mem = s.mem ∧
      t.rill.hostOut = s.rill.hostOut.take n ++ s.rill.hostOut.drop (n + 1)) ∧
    (∃ t : State, exec .rillPair s = .next t ∧ t.mem = s.mem ∧
      (s.rill.st = 0 ∨ s.rill.st = 3 → t.rill.st = 1) ∧ (s.rill.st = 1 ∨ s.rill.st = 2 → t = s)) ∧
    (∃ t : State, exec .rillUnpair s = .next t ∧ t.rill.st = 0 ∧ (s.rill.st ≠ 0 → t.rill.out = [])) ∧
    (s.dev.stopped = false → s.rill.st = 1 →
      ∀ (peer : DWord) (cap : BitVec 20) (tick : Nat) (lanes : BitVec 6),
      (peer = Config.serial → ∃ t : State, exec (.rillPaired peer cap tick lanes) s = .next t ∧ t.rill.st = 3) ∧
      (peer ≠ Config.serial → lanes ≠ 0 → lanes.toNat ≤ 32 →
        ∃ t : State, exec (.rillPaired peer cap tick lanes) s = .next t ∧ t.rill.st = 2 ∧ t.mem = s.mem ∧
          t.rill.peerCap = cap ∧ t.rill.lanes = lanes ∧
          (t.rill.primary = true ↔ Config.serial.toNat < peer.toNat) ∧
          (t.rill.primary = true → t.tick = s.tick) ∧ (t.rill.primary = false → t.tick = max s.tick tick ∧
            t.rill.hold = s.tick - tick))) ∧
    (s.dev.stopped = false → s.rill.st = 2 → ∀ (tag : Word) (task addr : Nat) (x : Word),
      let now := tag.toNat = s.rill.expect ∧ s.rill.early = []
      (tagBefore tag.toNat s.rill.expect = true →
        ∃ t u : State, exec (.mergePair ⟨tag, task⟩ addr x) s = .next t ∧ exec (.mergeFlush ⟨tag, task⟩) s = .next u ∧
          t.mem = s.mem ∧ t.rill.merge = s.rill.merge ∧ u.mem = s.mem ∧ u.rill.merge = s.rill.merge) ∧
      (now → addr % 4 = 0 → addr + 4 ≤ s.capacity →
        ∃ t : State, exec (.mergePair ⟨tag, task⟩ addr x) s = .next t ∧
          t.rill.expect = (s.rill.expect + 1) % 2 ^ 32 ∧
          ((∀ e ∈ s.rill.merge, ¬ (e.task = task ∧ e.addr = addr)) → s.rill.merge.length < 65536 →
            t.mem = s.mem ∧ t.rill.merge = s.rill.merge ++ [{ task := task, addr := addr, x := x }]) ∧
          (∀ e, s.rill.merge = [e] → e.task = task → e.addr = addr →
            t.mem = s.mem ∧ t.rill.merge = [{ e with x := fadd32 e.x x }]) ∧
          ((∀ e ∈ s.rill.merge, ¬ (e.task = task ∧ e.addr = addr)) → 65536 ≤ s.rill.merge.length →
            t.mem = (s.mergeAdd addr x).mem ∧ t.rill.merge = s.rill.merge)) ∧
      (now → ∃ t : State, exec (.mergeFlush ⟨tag, task⟩) s = .next t ∧ (∀ e ∈ t.rill.merge, e.task ≠ task) ∧
        t.rill.expect = (s.rill.expect + 1) % 2 ^ 32 ∧
        (∀ e, s.rill.merge = [e] → e.task = task → t.mem = (s.mergeAdd e.addr e.x).mem) ∧
        ((∀ e ∈ s.rill.merge, e.task ≠ task) → t.mem = s.mem ∧ t.rill.merge = s.rill.merge))) ∧
    ∀ (ctx seq task pa : Nat) (x : Word) (rel : List Mark), s.rill.out.length < 4096 →
      s.rill.pairs.length < 65536 →
      let t := s.pairToPeer ctx seq task pa x rel
      t.mem = s.mem ∧ t.rill.out.length = s.rill.out.length + 1 ∧
        ∃ e ∈ t.rill.pairs, e.task = task ∧ e.addr = pa

/-! ### What instructions leave alone (spec/07, spec/05, spec/18) -/

/-- R22, R190: the frame of the instructions that compute in each lane. Nothing changes but the wave; of the wave
its PC, what issuing leaves behind and its lanes; of the passing lanes their destination registers and the
destination predicate; and no other lane. -/
def Obligations.LaneInstructionFrame : Prop :=
  ∀ (i : Instr) (f : Form) (dst : RegRun) (pd : Option (BitVec 4)) (s t : State) (h : Here) (ls : Table Thread),
    laneShape i = some (f, dst, pd) → Issues s f h ls → exec i s = .next t →
    OnlyWave s t h ∧ ∃ w, t.issuerWave h = some w ∧ w.pc = h.wave.after f.len ∧ w.w = h.wave.w ∧
      w.mask = h.wave.mask ∧ w.crew = h.wave.crew ∧ w.ctx = h.wave.ctx ∧ w.kid = h.wave.kid ∧
      w.mode = h.wave.mode ∧ w.park = h.wave.park ∧ w.lanes.map Prod.fst = h.wave.lanes.map Prod.fst ∧
      ∀ l u, Table.get? h.wave.lanes l = some u → ∃ u', Table.get? w.lanes l = some u' ∧
        ((∀ e ∈ ls, e.1 ≠ l) → u' = u) ∧
        (∀ r, ¬ (dst.1 ≤ r ∧ r < dst.1 + dst.2) → u'.reg r = u.reg r) ∧
        (∀ p : BitVec 4, pd ≠ some p → u'.pred p.toNat = u.pred p.toNat) ∧
        { u' with v := u.v, p := u.p } = u

/-- R414: the translations and checks of an instruction's accesses change memory by setting A and D bits of page
table entries, and by nothing else: of the entries that a walk to the page of an access, or of a log entry it is served
from, would update. -/
def Sys2Proof.Claim.TranslationFrame : Prop :=
  ∀ (s s' : State) (h : Here) (rs : List Req) (kind : Access) (reads : Bool) (accs : List Acc),
    s.mem.wf = true → Passes s h rs kind reads accs s' →
    s'.mem.bufs = s.mem.bufs ∧ s'.grids = s.grids ∧ s'.blocks = s.blocks ∧ s'.handlers = s.handlers ∧
    (∀ c, (s'.core c).scratch = (s.core c).scratch ∧ (s'.core c).waves = (s.core c).waves) ∧
    (∀ a, ∃ m ∈ [0x00#8, 0x20#8, 0x40#8, 0x60#8], s'.mem.atD a = s.mem.atD a ||| m) ∧
    (((s.ctxs[h.wave.ctx]?).map Ctx.root).getD 0 % 8 = 0 → ∀ a, s'.mem.atD a ≠ s.mem.atD a →
      ∃ (va : Nat) (k : Access) (o : WalkOut) (e : Nat),
        (k = kind ∧ (∃ r ∈ rs, r.space = .global va) ∨
          k = .read ∧ reads = true ∧ ∃ n, va = s.logBase h.wave.kid + 128 * n) ∧
        o ∈ s.walks h.via h.wave.ctx va k ∧ o.update = some (a, e))

/-- R240 to R243: the frame of loads: after the translations no byte of memory and of no scratchpad changes. -/
def Sys2Proof.Claim.LoadFrame : Prop :=
  ∀ (x : LdOp) (i : Instr) (s s' t : State) (h : Here) (ls : Table Thread) (accs : List Acc),
    (((i = .ld x ∨ i = .ldStrong x) ∧ Issues s (ldForm x 2) h ls ∧
        Reads s h (ls.map fun e => genericReq x.im x.a x.b (sizeBytes x.sz) h e.1 e.2) accs s') ∨
      (i = .lds x ∧ Issues s { ldForm x 1 with cluster := true } h ls ∧
        Reads s h (ls.map fun e => scratchReq x.im x.a x.b (sizeBytes x.sz) h e.1 e.2) accs s') ∨
      (i = .ldw x ∧ Issues s { len := lenOf x.im, g := x.g, sel := x.sel, uniform := true } h ls ∧
        Reads s h ((ls.take 1).map fun e => genericReq x.im x.a x.b (sizeBytes x.sz) h e.1 e.2) accs s')) →
    exec i s = .next t →
    t.mem = s'.mem ∧ t.grids = s.grids ∧ t.blocks = s.blocks ∧
    ∀ c, (t.core c).scratch = (s.core c).scratch ∧ (t.core c).smarks = (s'.core c).smarks

/-- R246, R248, R120 to R122: the frame of stores: a byte of memory at D, and a byte of a scratchpad, that none of
the instruction's accesses covers reads as it did after the translations. A store of several passes has taken the lane port. -/
def Sys2Proof.Claim.StoreFrame : Prop :=
  ∀ (x : StOp) (i : Instr) (s s' s2 t : State) (h : Here) (ls : Table Thread) (accs : List Acc) (lv : Level),
    ((i = .st x ∧ lv = x.scope ∧
        Issues s { len := lenOf x.im, g := x.g, uses := Src.run 2 x.a ++ Src.run (sizeRegs x.sz) x.c } h ls ∧
        Passes s h (ls.map fun e => genericReq x.im x.a x.b (sizeBytes x.sz) h e.1 e.2) .write false accs s') ∨
      (i = .sts x ∧ lv = .b ∧
        Issues s { len := lenOf x.im, g := x.g, cluster := true
                   uses := Src.run 1 x.a ++ Src.run (sizeRegs x.sz) x.c } h ls ∧
        Passes s h (ls.map fun e => scratchReq x.im x.a x.b (sizeBytes x.sz) h e.1 e.2) .write false accs s')) →
    let ps : List Put := accs.map fun a =>
      { hit := a, bytes := storeBytes x.sz h.wave x.im a.req.t x.c, window := a.req.window }
    let at' := (s'.holdsStores h lv ps).2
    storeAll ps at' h lv = .ok s2 → (∃ s3, storeAll (offPuts ps) at' h lv = .ok s3) → exec i s = .next t →
    (onePass (ps.map Put.hit) = true ∨ (t.core h.core).port.isSome = true) →
    (∀ a, (∀ y ∈ accs, ∀ pa line, y.spot = .mem pa line → ¬ (pa ≤ a ∧ a < pa + sizeBytes x.sz)) →
      t.mem.atD a = s'.mem.atD a) ∧
    (∀ a, (∀ y ∈ accs, ∀ b, y.spot = .scr b → ¬ (b ≤ a ∧ a < b + sizeBytes x.sz)) →
      cellGet (t.core h.core).scratch a = cellGet (s'.core h.core).scratch a) ∧
    (∀ c, c ≠ h.core → (t.core c).scratch = (s'.core c).scratch) ∧
    t.grids = s'.grids ∧ t.blocks = s'.blocks ∧
    (∀ w, t.issuerWave h = some w → w.lanes = h.wave.lanes ∧ w.w = h.wave.w)

/-- R414, R240 to R248, R120 to R122: what the translations, loads and stores of an instruction leave alone. -/
def Obligations.MemoryFrames : Prop :=
  Claim.TranslationFrame ∧ Claim.LoadFrame ∧ Claim.StoreFrame

/-- R116, R121: an arrival at D is read back there, changes no other byte, and leaves every byte as it stood at each
earlier position. -/
def Obligations.ArrivalsReadBack : Prop :=
  ∀ (m : Memory) (now : Nat) (who : Party) (bs : List NewByte), m.wf = true →
    (bs.map NewByte.addr).Nodup →
    (m.arriveD now who bs).wf = true ∧
    (∀ b ∈ bs, (m.arriveD now who bs).atD b.addr = b.val) ∧
    (∀ a, (∀ b ∈ bs, b.addr ≠ a) → (m.arriveD now who bs).atD a = m.atD a) ∧
    (∀ a, (m.arriveD now who bs).atPos m.pos a = m.atPos m.pos a) ∧
    (m.arriveD now who bs).pos = m.pos + 1

/-! ### Encoding, stepping, reset and what every step keeps (spec/07, spec/11, spec/16) -/

/-- R169 to R174, R318: words that the specification writes out decode to the instructions they stand for. -/
def Obligations.WordsDecode : Prop :=
  decodeThread 0x0020006402048C40#64 0 = .ok (.iadd
    { g := .pred false 3, im := none, sat := false, u := false, w := false, d := 4, a := .v 2, b := .k 100,
      c := .v 0 }) ∧
  decodeThread 0x02C000030206C4C9#64 0x3FC00000#64 = .ok (.ffma
    { g := .pred true 1, im := some 0x3FC00000#32, tz := false, sat := false, ab := false, aa := false,
      nc := false, nb := true, na := false, d := 6, a := .v 2, b := .v 3, c := .long 0 }) ∧
  decodeThread 0x030000200609010C#64 0 = .ok (.cvt
    { g := .always, st := .f32, dt := .e4m3, dp := 2, sp := 0, tz := false, d := 9, a := .v 6 }) ∧
  decodeThread 0x0000000000F0800B#64 0 = .ok (.clause
    { count := 3, fb := 12, fa := 2, wait := 2 }) ∧
  decodeThread 0x3020061002000200#64 0 = .ok (.st
    { g := .always, im := none, scope := .d, sz := .w32, a := .v 2, b := .k 16, c := .v 6 }) ∧
  decodeThread 0xA620231021000244#64 0 = .ok (.red
    { g := .always, im := none, sel := .none, scope := .sp, w := false, op := .or, d := 0, a := .v 33,
      b := .k 16, c := .v 35 }) ∧
  decodeThread 0x6000000010020342#64 0x0002004004200005#64 = .ok (.mma
    { g := .always, sel := .none, na := false, nb := true, dis := true, reuse := false, aslot := 0,
      va := 16, vs := .v 0, wm := 0, acc := 2, rstride := 16, cstride := 2, base := 4,
      reg := { mc := 0, nc := 0, row := 0, col := 1 }, kc := 0, bslot := 0, tile := 5 }) ∧
  decodeThread 0x00000600120C0388#64 0 = .ok (.launch
    { g := .always, pd := 6, d := 12, a := .v 18 }) ∧
  decodeThread 0x8100000814120074#64 0 = .ok (.lea
    { g := .always, im := none, sh := 8, u := false, w := true, d := 18, a := .v 20, b := .v 8 }) ∧
  decodeThread 0x000000000400030E#64 0x0000000000020200#64 = .ok (.trace
    { g := .always, a := .v 4, flags := none, mask := some 1, sel := none }) ∧
  decodeThread 0x00200D0002130324#64 0 = .ok (.rng
    { g := .always, f := false, dim := 0, d := 19, a := .v 2, b := .k 0, c := .v 13 }) ∧
  decodeThread 0x0001001110180359#64 0x0BC1#64 = .ok (.cbdec
    { g := .always, sel := .a, d := 24, a := 16, b := 17, n := 47, sslot := 1, dslot := 0 }) ∧
  decodeStream 0x4000000201037000#64 0x40000#64 = .ok (.mmt
    { c := 3, a := 1, b := 2, desc := .imm 0x40000 }) ∧
  decodeStream 0x4200000001093000#64 0x510200#64 = .ok (.cpyt
    { d := 9, s := 1, desc := .imm 0x510200 })

/-- R169 to R181, R318, R319: the words of a well-formed instruction decode to it, thread code as thread code and
stream code as stream code, and a thread instruction's slot has the size its length says. -/
def Obligations.EncodedInstructionsDecode : Prop :=
  ∀ (i : Instr) (c : Code), i.wf = true → encode i = some c →
    (i.sfields = none → decodeThread c.lo c.hi = .ok i ∧ slotBytes c.lo = (if c.bits = 64 then 8 else 16) ∧
      (c.bits = 64 → c.hi = 0) ∧ (c.bits = 96 → c.hi.toNat < 2 ^ 32)) ∧
    (i.sfields.isSome = true → c.bits = 128 ∧ decodeStream c.lo c.hi = .ok i)

/-- R169 to R181, R318, R319: a decoded slot is well formed, and its words are exactly the instruction's encoding, so
that no reserved bit and no field is passed over; in a slot of 8 bytes the high half is not looked at. -/
def Obligations.DecodedWordsEncode : Prop :=
  ∀ (lo hi : DWord) (i : Instr),
    (decodeThread lo hi = .ok i → i.wf = true ∧ i.sfields = none ∧ ∃ c, encode i = some c ∧ c.lo = lo ∧
      (slotBytes lo = 16 → c.hi = hi)) ∧
    (decodeStream lo hi = .ok i → i.wf = true ∧ i.fields = none ∧
      encode i = some { bits := 128, lo := lo, hi := hi })

/-- R169, R170, R182 to R184, R316, R390: a step runs the instruction that the bytes at the PC of the acting wave or
handler, or at the SPC of the acting stream, decode to; an event runs its own meaning.
Rests on choices of the model: logs 3, 9 and 10. -/
def Obligations.StepRunsTheInstruction : Prop :=
  (∀ (s : State) (a : Actor) (rest : List Actor), s.agenda = a :: rest →
    step s = act a { s with agenda := rest }) ∧
  (∀ (s : State) (core slot : Nat) (w : Wave) (h : Here) (pa : Nat) (s2 s4 : State) (p : Nat) (lo hi : DWord)
      (i : Instr),
    Table.get? (s.core core).waves slot = some w → s.mayIssue core slot w = true →
    let s0 : State := { s.offer core slot with cur := .wave core slot }
    let pc := h.wave.pc.toNat
    s0.startClause { wave := { w with park := w.park.over }, core := core, slot := slot, hand := none } = (none, h) →
    let s1 := s0.updCore core fun k => { k with waves := Table.put k.waves slot h.wave }
    pc % 8 = 0 → pc < windowBase → s1.translate h.via h.wave.ctx pc .fetch = (.ok pa, s2) →
    let s3 := s2.freshCode h.wave.kid (clusterOf core)
    s3.codePoison (clusterOf core) (pa / 32 * 32) = none →
    s3.codePos (clusterOf core) (pa / 32 * 32) = (p, s4) → s4.mem.slotAt p pa = (lo, hi) →
    slotFits pc lo = true → decodeThread lo hi = .ok i →
    (isHeader lo = true ∨
      ((s4.ctx h.wave.ctx).breakAt h.wave.skipHit h.wave.pc = none ∧
        (h.wave.mode ≠ .user ∨ (lo.extractLsb' 2 8).toNat < 0xF0))) → s4.rillRoom i = true →
    act (.wave core slot) s = follow (fun t => s4.afterWave t core slot i) (exec i s4)) ∧
  (∀ (s : State) (f : Nat) (w : Wave) (lo hi : DWord) (i : Instr), (s.handler f).wave = some w →
    s.cc.sys = false → w.active ≠ [] → (w.lanes.any fun e => s.awaitsLink e.2.uid) = false →
    let s0 : State := { s with cur := .handler f }
    let pc := w.pc.toNat
    pc % 8 = 0 → s0.paValid pc = true → s0.mem.poisoned pc 8 = false → s0.mem.slotAt s0.mem.pos pc = (lo, hi) →
    slotFits pc lo = true → decodeThread lo hi = .ok i →
    (isHeader lo = true ∨ w.mode ≠ .user ∨ (lo.extractLsb' 2 8).toNat < 0xF0) → s0.rillRoom i = true →
    act (.handler f) s = follow (fun t => s0.afterHandler t f i) (exec i s0)) ∧
  (∀ (s s1 : State) (c : Nat) (bs : List Byte) (i : Instr), s.dev.stopped = false →
    s.turnOf (s.partOf c) = some c →
    let s0 : State := { s.takeTurn (s.partOf c) c with cur := .stream c }
    s0.unitRead (s0.laneVia c) c (s0.ctx c).stream.spcS.toNat 16 = (.ok bs, s1) →
    decodeStream (BitVec.ofNat 64 (natOf (bs.take 8))) (BitVec.ofNat 64 (natOf (bs.drop 8))) = .ok i →
    act (.stream c) s = follow (fun t => s1.afterStream t c) (exec i s1)) ∧
  (∀ (s : State) (i : Instr), encode i = none → act (.event i) s = exec i { s with cur := .idle })

/-- A thread instruction goes to a next state wherever a wave executes it, a stream instruction wherever a stream
does, and an event everywhere; and without a wave or a stream each stops with the fault of that name. -/
def Sys2Proof.Claim.NoInstructionStops : Prop :=
  ∀ (i : Instr) (s : State),
    ((i.fields.isSome = true ∨ ∃ x, i = .clause x) →
      (s.here.isSome = true → ∃ t, exec i s = .next t) ∧ (s.here = none → exec i s = .fault .noWave)) ∧
    (i.sfields.isSome = true →
      (∀ c, s.cur = .stream c → ∃ t, exec i s = .next t) ∧
      ((∀ c, s.cur ≠ .stream c) → exec i s = .fault .noWave)) ∧
    (encode i = none → ∃ t, exec i s = .next t)

/-- Every step of every state goes to a next state: what an instruction cannot do it raises, parks or waits for. -/
def Sys2Proof.Claim.StepsGoOn : Prop := ∀ s : State, ∃ t, step s = .next t

/-- No instruction stops where it is executed for what it is, and every step goes to a next state.
Rests on choices of the model: log 93. -/
def Obligations.ExecutionGoesOn : Prop :=
  Claim.NoInstructionStops ∧ Claim.StepsGoOn

/-- R5, R407: memory keeps its canonical form through every step, of every state that has it: addresses rise, and
no listed byte reads as an unlisted one (log 2).
Rests on choices of the model: log 2. -/
def Obligations.StepsKeepMemoryCanonical : Prop :=
  ∀ s t : State, s.mem.wf = true → step s = .next t → t.mem.wf = true

/-- R6, R381 to R384, R451 to R460, R483 to R487: the values that registers hold at reset where the specification
gives one; and memory and every scratchpad have the canonical form there. -/
def Obligations.ResetValues : Prop :=
  let s := State.reset
  s.tick = 0 ∧
  (∀ c < 64, s.regRead 0x040 c = 1 ∧ s.regRead 0x044 c = 2 ∧ s.regRead 0x110 c = 0) ∧
  (∀ f < 16, s.regRead 0x010 f = 0x200000000 ∧ s.regRead 0x011 f = 0x0800100204000100) ∧
  (∀ cl < 16, s.regRead 0x020 cl = 0 ∧ s.regRead 0x103 cl = 0) ∧
  s.regRead 0x001 0 = 0 ∧ s.regRead 0x003 0 = 0 ∧ (s.regRead 0x004 0).toNat % 2 ^ 56 = 64 * 2 ^ 40 + 3 ∧
  s.regRead 0x005 0 = 0 ∧ s.regRead 0x006 0 = 0 ∧ s.regRead 0x007 0 = 0 ∧
  s.mem.wf = true ∧ ∀ k ∈ s.cores, cellsWf k.scratch = true

/-! ### Completion (spec/08, spec/09) -/

/-- R190 to R210, R213 to R218, R288, R290: every instruction that computes in each lane ends at the next slot wherever it
issues, and so does every collective of a crew that writes its lanes; of each lane nothing changes but the
destination. -/
def Obligations.ComputingInstructionsComplete : Prop :=
  (∀ (i : Instr) (f : Form) (dst : RegRun) (pd : Option (BitVec 4)) (s : State) (h : Here) (ls : Table Thread),
    laneShape i = some (f, dst, pd) → Issues s f h ls → ComputesInto i s h ls f.len dst pd) ∧
  (∀ (i : Instr) (f : Form) (dst : RegRun) (s : State) (h : Here) (ls : Table Thread),
    crewShape i = some (f, dst) → CrewIssues s f h ls → ComputesInto i s h ls f.len dst none) ∧
  (∀ (x : OneSrcOp) (s : State) (h : Here) (ls : Table Thread),
    Issues s { len := lenOf x.im, g := x.g, cluster := true, uses := runs [x.a] } h ls →
    EndsWith (.key x) s h ls (lenOf x.im) fun _ t => { t with key := some (Src.int h.wave x.im t x.a) })

/-- R230, R257, R260 to R263: the instructions of barriers, groups and aborts in a wave of any number of passing lanes.
BAR and ARRIVE take the lanes in order, and BIND binds a barrier whose phase has no arrival, or whose group it already
is; under another group it is 0x01. -/
def Obligations.WavesOfManyLanesComplete : Prop :=
  (∀ (x : BarOp) (s : State) (h : Here) (ls : Table Thread),
    Issues s { len := 8, g := x.g, cluster := true, orders := true } h ls → x.n.toNat < s.barCount h.wave.kid x.gang →
    (x.bind = none → (∀ e ∈ ls, (s.blockOf e.2).isSome = true) →
      exec (.bar x) s = .next (barLanes x true s h ls) ∧ exec (.arrive x) s = .next (barLanes x false s h ls)) ∧
    (∀ g b, x.bind = some g → (∀ e ∈ ls, s.blockOf e.2 = some b) →
      let y := s.barrier b x.gang x.n.toNat
      let s0 := s.setBarrier b x.gang x.n.toNat { y with group := g.toNat }
      (y.arrived = [] →
        exec (.bar x) s = .next (barLanes x true s0 h ls) ∧ exec (.arrive x) s = .next (barLanes x false s0 h ls)) ∧
      (y.arrived ≠ [] → y.group = g.toNat →
        exec (.bar x) s = .next (barLanes x true s h ls) ∧ exec (.arrive x) s = .next (barLanes x false s h ls)) ∧
      (y.arrived ≠ [] → y.group ≠ g.toNat → ∀ e, ls.head? = some e →
        exec (.bar x) s = .next (s.raise h { code := 1, lane := some e.1 }) ∧
        exec (.arrive x) s = .next (s.raise h { code := 1, lane := some e.1 })))) ∧
  (∀ (x : GroupOp) (s : State) (h : Here) (ls : Table Thread),
    Issues s { len := 8, g := x.g, cluster := true } h ls → x.grp ≠ 0 →
    (∀ e ∈ ls, (s.blockOf e.2).isSome = true) →
    let bit : BitVec 16 := BitVec.ofNat 16 (2 ^ x.grp.toNat)
    let mask (s : State) (t : Thread) : BitVec 16 := ((s.blockOf t).map fun b => Table.getD b.live t.uid 0).getD 0
    exec (.join x) s = .next ((ls.foldl (fun s e => match s.blockOf e.2 with
      | some b => s.updBlock b.uid fun b' => { b' with live := Table.put b'.live e.2.uid (mask s e.2 ||| bit) }
      | none => s) s).doneLen h h.wave 8) ∧
    ((∀ e ∈ ls, (mask s e.2).getLsbD x.grp.toNat = false) → exec (.leave x) s = .next (s.doneLen h h.wave 8)) ∧
    -- each member of the group leaves it, and its arrivals at the group's barriers in their current phases are withdrawn
    (let one (r : State × Wave) (e : Nat × Thread) : State × Wave :=
        match r.1.blockOf e.2 with
        | some b =>
          let left := r.1.updBlock b.uid fun b' => { b' with
            live := Table.put b'.live e.2.uid (Table.getD b.live e.2.uid 0 &&& ~~~bit) }
          let gone (p : PendArr) : Bool :=
            let y := left.barrier b p.gang p.n
            decide (y.group = x.grp.toNat ∧ p.phase = y.phase)
          if (Table.getD b.live e.2.uid 0).getLsbD x.grp.toNat then
            (left.withdraw b e.2.uid fun q => q = x.grp.toNat,
              r.2.setLane e.1 { e.2 with pend := e.2.pend.filter fun p => !gone p })
          else r
        | none => r
      let r := ls.foldl one (s, h.wave)
      exec (.leave x) s = .next (r.1.doneLen h r.2 8))) ∧
  (∀ (s : State) (b : Block) (uid g : Nat), Table.get? s.blocks b.uid = some b →
    ∃ b', Table.get? (s.withdraw b uid fun q => q = g).blocks b.uid = some b' ∧ b'.live = b.live ∧
      b'.bars = b.bars.map fun e => (e.1, if e.2.group = g then { e.2 with
        arrived := e.2.arrived.filter fun a => a.uid != uid
        marks := e.2.marks.filter fun k => k.who.uid != uid } else e.2)) ∧
  (∀ (x : PhaseOp) (s t : State) (h : Here) (ls : Table Thread),
    Issues s { len := 16, g := x.g, final := true, cluster := true, whole := true, orders := true } h ls →
    x.n.toNat < s.barCount h.wave.kid x.gang → (∀ e ∈ ls, (s.blockOf e.2).isSome = true) → MayYield s h ls →
    let r := ls.foldl (fun (r : State × List (Nat × Thread × Filing)) e =>
      let u := r.1.phaseLane h x.gang x.n.toNat e.2
      (u.1, r.2 ++ [(e.1, u.2)])) (s, [])
    r.1.yieldLanes h (r.2.map fun e => (e.1, e.2.1)) 3 (h.wave.after 16) (fun t =>
      ((r.2.find? fun e => e.2.1.uid = t.uid).map fun e => e.2.2).getD .bin) = .ok t →
    exec (.phase x) s = .next t) ∧
  (∀ (x : AbtOp) (s : State) (h : Here) (ls : Table Thread), Issues s { len := 8, g := x.g } h ls → h.hand = none →
    exec (.abt x) s = .next (((partiesOf h ls).foldl (fun s ts => s.abortParty h ts x.lvl) s).doneLen h h.wave 8) ∧
    ∀ (e : Nat × Thread) (ts : Table Thread), (h.wave.crew = none ∨ x.lvl ≠ .c) →
      s.abortParty h (e :: ts) x.lvl = { s with mem := s.mem.abort (s.linksOf h e.2) x.lvl })
end

