-- ==== Sys2Proof/Laws/Dispatch.lean ====
section
/-! SUPPORT. The arm of each instruction: exec runs its meaning. No proof needs to unfold exec. -/

namespace Sys2Proof.Machine

theorem exec_nop {x} (s : State) : exec (.nop x) s = execNop x s := rfl
theorem exec_bra {x} (s : State) : exec (.bra x) s = execBra x s := rfl
theorem exec_brd {x} (s : State) : exec (.brd x) s = execBrd x s := rfl
theorem exec_rcv {x} (s : State) : exec (.rcv x) s = execRcv x s := rfl
theorem exec_reform {x} (s : State) : exec (.reform x) s = execReform x s := rfl
theorem exec_yield {x} (s : State) : exec (.yield x) s = execYield x s := rfl
theorem exec_await {x} (s : State) : exec (.await x) s = execAwait x s := rfl
theorem exec_phase {x} (s : State) : exec (.phase x) s = execPhase x s := rfl
theorem exec_call {x} (s : State) : exec (.call x) s = execCall x s := rfl
theorem exec_ret {x} (s : State) : exec (.ret x) s = execRet x s := rfl
theorem exec_jmpi {x} (s : State) : exec (.jmpi x) s = execJmpi x s := rfl
theorem exec_exit {x} (s : State) : exec (.exit x) s = execExit x s := rfl
theorem exec_crew {x} (s : State) : exec (.crew x) s = execCrew x s := rfl
theorem exec_uncrew {x} (s : State) : exec (.uncrew x) s = execUncrew x s := rfl
theorem exec_trap {x} (s : State) : exec (.trap x) s = execTrap x s := rfl
theorem exec_bkpt {x} (s : State) : exec (.bkpt x) s = execBkpt x s := rfl
theorem exec_clause {x} (s : State) : exec (.clause x) s = execClause x s := rfl
theorem exec_iadd {x} (s : State) : exec (.iadd x) s = execIadd x s := rfl
theorem exec_isum3 {x} (s : State) : exec (.isum3 x) s = execIsum3 x s := rfl
theorem exec_isub {x} (s : State) : exec (.isub x) s = execIsub x s := rfl
theorem exec_imul {x} (s : State) : exec (.imul x) s = execImul x s := rfl
theorem exec_imulh {x} (s : State) : exec (.imulh x) s = execImulh x s := rfl
theorem exec_imad {x} (s : State) : exec (.imad x) s = execImad x s := rfl
theorem exec_idiv {x} (s : State) : exec (.idiv x) s = execIdiv x s := rfl
theorem exec_irem {x} (s : State) : exec (.irem x) s = execIrem x s := rfl
theorem exec_imin {x} (s : State) : exec (.imin x) s = execImin x s := rfl
theorem exec_imax {x} (s : State) : exec (.imax x) s = execImax x s := rfl
theorem exec_iabs {x} (s : State) : exec (.iabs x) s = execIabs x s := rfl
theorem exec_mov {x} (s : State) : exec (.mov x) s = execMov x s := rfl
theorem exec_movi {x} (s : State) : exec (.movi x) s = execMovi x s := rfl
theorem exec_movi64 {x} (s : State) : exec (.movi64 x) s = execMovi64 x s := rfl
theorem exec_lea {x} (s : State) : exec (.lea x) s = execLea x s := rfl
theorem exec_sel {x} (s : State) : exec (.sel x) s = execSel x s := rfl
theorem exec_shl {x} (s : State) : exec (.shl x) s = execShl x s := rfl
theorem exec_shr {x} (s : State) : exec (.shr x) s = execShr x s := rfl
theorem exec_sar {x} (s : State) : exec (.sar x) s = execSar x s := rfl
theorem exec_and {x} (s : State) : exec (.and x) s = execAnd x s := rfl
theorem exec_or {x} (s : State) : exec (.or x) s = execOr x s := rfl
theorem exec_xor {x} (s : State) : exec (.xor x) s = execXor x s := rfl
theorem exec_not {x} (s : State) : exec (.not x) s = execNot x s := rfl
theorem exec_tern {x} (s : State) : exec (.tern x) s = execTern x s := rfl
theorem exec_popc {x} (s : State) : exec (.popc x) s = execPopc x s := rfl
theorem exec_clz {x} (s : State) : exec (.clz x) s = execClz x s := rfl
theorem exec_brev {x} (s : State) : exec (.brev x) s = execBrev x s := rfl
theorem exec_bfe {x} (s : State) : exec (.bfe x) s = execBfe x s := rfl
theorem exec_bfi {x} (s : State) : exec (.bfi x) s = execBfi x s := rfl
theorem exec_fadd {x} (s : State) : exec (.fadd x) s = execFadd x s := rfl
theorem exec_fmul {x} (s : State) : exec (.fmul x) s = execFmul x s := rfl
theorem exec_ffma {x} (s : State) : exec (.ffma x) s = execFfma x s := rfl
theorem exec_fdiv {x} (s : State) : exec (.fdiv x) s = execFdiv x s := rfl
theorem exec_fmin {x} (s : State) : exec (.fmin x) s = execFmin x s := rfl
theorem exec_fmax {x} (s : State) : exec (.fmax x) s = execFmax x s := rfl
theorem exec_frcp {x} (s : State) : exec (.frcp x) s = execFrcp x s := rfl
theorem exec_frsq {x} (s : State) : exec (.frsq x) s = execFrsq x s := rfl
theorem exec_fsqrt {x} (s : State) : exec (.fsqrt x) s = execFsqrt x s := rfl
theorem exec_fexp2 {x} (s : State) : exec (.fexp2 x) s = execFexp2 x s := rfl
theorem exec_flog2 {x} (s : State) : exec (.flog2 x) s = execFlog2 x s := rfl
theorem exec_fsin {x} (s : State) : exec (.fsin x) s = execFsin x s := rfl
theorem exec_fcos {x} (s : State) : exec (.fcos x) s = execFcos x s := rfl
theorem exec_pkadd {x} (s : State) : exec (.pkadd x) s = execPkadd x s := rfl
theorem exec_pkmul {x} (s : State) : exec (.pkmul x) s = execPkmul x s := rfl
theorem exec_pkfma {x} (s : State) : exec (.pkfma x) s = execPkfma x s := rfl
theorem exec_cvt {x} (s : State) : exec (.cvt x) s = execCvt x s := rfl
theorem exec_icmp {x} (s : State) : exec (.icmp x) s = execIcmp x s := rfl
theorem exec_fcmp {x} (s : State) : exec (.fcmp x) s = execFcmp x s := rfl
theorem exec_pand {x} (s : State) : exec (.pand x) s = execPand x s := rfl
theorem exec_por {x} (s : State) : exec (.por x) s = execPor x s := rfl
theorem exec_pxor {x} (s : State) : exec (.pxor x) s = execPxor x s := rfl
theorem exec_pnot {x} (s : State) : exec (.pnot x) s = execPnot x s := rfl
theorem exec_pmov {x} (s : State) : exec (.pmov x) s = execPmov x s := rfl
theorem exec_vote {x} (s : State) : exec (.vote x) s = execVote x s := rfl
theorem exec_xlane {x} (s : State) : exec (.xlane x) s = execXlane x s := rfl
theorem exec_bcast {x} (s : State) : exec (.bcast x) s = execBcast x s := rfl
theorem exec_redx {x} (s : State) : exec (.redx x) s = execRedx x s := rfl
theorem exec_scanx {x} (s : State) : exec (.scanx x) s = execScanx x s := rfl
theorem exec_ballot {x} (s : State) : exec (.ballot x) s = execBallot x s := rfl
theorem exec_matchx {x} (s : State) : exec (.matchx x) s = execMatchx x s := rfl
theorem exec_ld {x} (s : State) : exec (.ld x) s = execLd x s := rfl
theorem exec_ldStrong {x} (s : State) : exec (.ldStrong x) s = execLdStrong x s := rfl
theorem exec_lds {x} (s : State) : exec (.lds x) s = execLds x s := rfl
theorem exec_ldw {x} (s : State) : exec (.ldw x) s = execLdw x s := rfl
theorem exec_ldt {x} (s : State) : exec (.ldt x) s = execLdt x s := rfl
theorem exec_ldf {x} (s : State) : exec (.ldf x) s = execLdf x s := rfl
theorem exec_pref {x} (s : State) : exec (.pref x) s = execPref x s := rfl
theorem exec_st {x} (s : State) : exec (.st x) s = execSt x s := rfl
theorem exec_sts {x} (s : State) : exec (.sts x) s = execSts x s := rfl
theorem exec_stt {x} (s : State) : exec (.stt x) s = execStt x s := rfl
theorem exec_sete {x} (s : State) : exec (.sete x) s = execSete x s := rfl
theorem exec_atom {x} (s : State) : exec (.atom x) s = execAtom x s := rfl
theorem exec_red {x} (s : State) : exec (.red x) s = execRed x s := rfl
theorem exec_amaxswp {x} (s : State) : exec (.amaxswp x) s = execAmaxswp x s := rfl
theorem exec_cmt {x} (s : State) : exec (.cmt x) s = execCmt x s := rfl
theorem exec_abt {x} (s : State) : exec (.abt x) s = execAbt x s := rfl
theorem exec_fence {x} (s : State) : exec (.fence x) s = execFence x s := rfl
theorem exec_bar {x} (s : State) : exec (.bar x) s = execBar x s := rfl
theorem exec_arrive {x} (s : State) : exec (.arrive x) s = execArrive x s := rfl
theorem exec_join {x} (s : State) : exec (.join x) s = execJoin x s := rfl
theorem exec_leave {x} (s : State) : exec (.leave x) s = execLeave x s := rfl
theorem exec_acopy {x} (s : State) : exec (.acopy x) s = execAcopy x s := rfl
theorem exec_acopyg {x} (s : State) : exec (.acopyg x) s = execAcopyg x s := rfl
theorem exec_seal {x} (s : State) : exec (.seal x) s = execSeal x s := rfl
theorem exec_waitb {x} (s : State) : exec (.waitb x) s = execWaitb x s := rfl
theorem exec_stage {x} (s : State) : exec (.stage x) s = execStage x s := rfl
theorem exec_tiledef {x} (s : State) : exec (.tiledef x) s = execTiledef x s := rfl
theorem exec_tiledefSt {x} (s : State) : exec (.tiledefSt x) s = execTiledefSt x s := rfl
theorem exec_tilest {x} (s : State) : exec (.tilest x) s = execTilest x s := rfl
theorem exec_regclm {x} (s : State) : exec (.regclm x) s = execRegclm x s := rfl
theorem exec_regrel {x} (s : State) : exec (.regrel x) s = execRegrel x s := rfl
theorem exec_acclm {x} (s : State) : exec (.acclm x) s = execAcclm x s := rfl
theorem exec_accrel {x} (s : State) : exec (.accrel x) s = execAccrel x s := rfl
theorem exec_rquery {x} (s : State) : exec (.rquery x) s = execRquery x s := rfl
theorem exec_rayset {x} (s : State) : exec (.rayset x) s = execRayset x s := rfl
theorem exec_rayget {x} (s : State) : exec (.rayget x) s = execRayget x s := rfl
theorem exec_hitget {x} (s : State) : exec (.hitget x) s = execHitget x s := rfl
theorem exec_trace {x} (s : State) : exec (.trace x) s = execTrace x s := rfl
theorem exec_accept {x} (s : State) : exec (.accept x) s = execAccept x s := rfl
theorem exec_ignore {x} (s : State) : exec (.ignore x) s = execIgnore x s := rfl
theorem exec_report {x} (s : State) : exec (.report x) s = execReport x s := rfl
theorem exec_key {x} (s : State) : exec (.key x) s = execKey x s := rfl
theorem exec_accum {x} (s : State) : exec (.accum x) s = execAccum x s := rfl
theorem exec_rng {x} (s : State) : exec (.rng x) s = execRng x s := rfl
theorem exec_mma {x} (s : State) : exec (.mma x) s = execMma x s := rfl
theorem exec_mmas {x} (s : State) : exec (.mmas x) s = execMmas x s := rfl
theorem exec_mld {x} (s : State) : exec (.mld x) s = execMld x s := rfl
theorem exec_mst {x} (s : State) : exec (.mst x) s = execMst x s := rfl
theorem exec_mstSp {x} (s : State) : exec (.mstSp x) s = execMstSp x s := rfl
theorem exec_mzero {x} (s : State) : exec (.mzero x) s = execMzero x s := rfl
theorem exec_mzeroStat {x} (s : State) : exec (.mzeroStat x) s = execMzeroStat x s := rfl
theorem exec_mcvt {x} (s : State) : exec (.mcvt x) s = execMcvt x s := rfl
theorem exec_cbdec {x} (s : State) : exec (.cbdec x) s = execCbdec x s := rfl
theorem exec_bscale {x} (s : State) : exec (.bscale x) s = execBscale x s := rfl
theorem exec_tex2 {x} (s : State) : exec (.tex2 x) s = execTex2 x s := rfl
theorem exec_texg {x} (s : State) : exec (.texg x) s = execTexg x s := rfl
theorem exec_launch {x} (s : State) : exec (.launch x) s = execLaunch x s := rfl
theorem exec_lwait {x} (s : State) : exec (.lwait x) s = execLwait x s := rfl
theorem exec_lwaitTest {x} (s : State) : exec (.lwaitTest x) s = execLwaitTest x s := rfl
theorem exec_prog {x} (s : State) : exec (.prog x) s = execProg x s := rfl
theorem exec_srd {x} (s : State) : exec (.srd x) s = execSrd x s := rfl
theorem exec_swr {x} (s : State) : exec (.swr x) s = execSwr x s := rfl
theorem exec_tret {x} (s : State) : exec (.tret x) s = execTret x s := rfl
theorem exec_tlbinv {x} (s : State) : exec (.tlbinv x) s = execTlbinv x s := rfl
theorem exec_cinv {x} (s : State) : exec (.cinv x) s = execCinv x s := rfl
theorem exec_haltc {x} (s : State) : exec (.haltc x) s = execHaltc x s := rfl
theorem exec_dump {x} (s : State) : exec (.dump x) s = execDump x s := rfl
theorem exec_ctxsave {x} (s : State) : exec (.ctxsave x) s = execCtxsave x s := rfl
theorem exec_ctxload {x} (s : State) : exec (.ctxload x) s = execCtxload x s := rfl
theorem exec_fqpop {x} (s : State) : exec (.fqpop x) s = execFqpop x s := rfl
theorem exec_hostirq {x} (s : State) : exec (.hostirq x) s = execHostirq x s := rfl
theorem exec_waiti {x} (s : State) : exec (.waiti x) s = execWaiti x s := rfl
theorem exec_nopq (s : State) : exec .nopq s = execNopq s := rfl
theorem exec_haltq (s : State) : exec .haltq s = execHaltq s := rfl
theorem exec_setq {x} (s : State) : exec (.setq x) s = execSetq x s := rfl
theorem exec_movq {x} (s : State) : exec (.movq x) s = execMovq x s := rfl
theorem exec_addq {x} (s : State) : exec (.addq x) s = execAddq x s := rfl
theorem exec_cmpq {x} (s : State) : exec (.cmpq x) s = execCmpq x s := rfl
theorem exec_ldq {x} (s : State) : exec (.ldq x) s = execLdq x s := rfl
theorem exec_brq {x} (s : State) : exec (.brq x) s = execBrq x s := rfl
theorem exec_jmpq {off} (s : State) : exec (.jmpq off) s = execJmpq off s := rfl
theorem exec_callq {off} (s : State) : exec (.callq off) s = execCallq off s := rfl
theorem exec_retq (s : State) : exec .retq s = execRetq s := rfl
theorem exec_bind {x} (s : State) : exec (.bind x) s = execBind x s := rfl
theorem exec_free {h} (s : State) : exec (.free h) s = execFree h s := rfl
theorem exec_fencet {sw} (s : State) : exec (.fencet sw) s = execFencet sw s := rfl
theorem exec_waite {x} (s : State) : exec (.waite x) s = execWaite x s := rfl
theorem exec_signal {x} (s : State) : exec (.signal x) s = execSignal x s := rfl
theorem exec_klaunch {x} (s : State) : exec (.klaunch x) s = execKlaunch x s := rfl
theorem exec_rlaunch {x} (s : State) : exec (.rlaunch x) s = execRlaunch x s := rfl
theorem exec_mmt {x} (s : State) : exec (.mmt x) s = execMmt x s := rfl
theorem exec_cnvt {x} (s : State) : exec (.cnvt x) s = execCnvt x s := rfl
theorem exec_cpyt {x} (s : State) : exec (.cpyt x) s = execCpyt x s := rfl
theorem exec_redt {x} (s : State) : exec (.redt x) s = execRedt x s := rfl
theorem exec_fillt {x} (s : State) : exec (.fillt x) s = execFillt x s := rfl
theorem exec_amaxt {x} (s : State) : exec (.amaxt x) s = execAmaxt x s := rfl
theorem exec_taskIssue {x} (s : State) : exec (.taskIssue x) s = execTaskIssue x s := rfl
theorem exec_tileTaskIssue {x} (s : State) : exec (.tileTaskIssue x) s = execTileTaskIssue x s := rfl
theorem exec_tileTaskComplete {x} (s : State) : exec (.tileTaskComplete x) s = execTileTaskComplete x s := rfl
theorem exec_taskComplete {x} (s : State) : exec (.taskComplete x) s = execTaskComplete x s := rfl
theorem exec_eventWaitSatisfied {x} (s : State) : exec (.eventWaitSatisfied x) s = execEventWaitSatisfied x s := rfl
theorem exec_entryRetire {ctx} (s : State) : exec (.entryRetire ctx) s = execEntryRetire ctx s := rfl
theorem exec_gangPlacement {part} (s : State) : exec (.gangPlacement part) s = execGangPlacement part s := rfl
theorem exec_gangFallbackExpiry {part} (s : State) : exec (.gangFallbackExpiry part) s = execGangFallbackExpiry part s := rfl
theorem exec_gangPriorityAge {part} (s : State) : exec (.gangPriorityAge part) s = execGangPriorityAge part s := rfl
theorem exec_clusterReservation {part} (s : State) : exec (.clusterReservation part) s = execClusterReservation part s := rfl
theorem exec_contextFairnessStop {part} (s : State) : exec (.contextFairnessStop part) s = execContextFairnessStop part s := rfl
theorem exec_contextFairnessRun {part} (s : State) : exec (.contextFairnessRun part) s = execContextFairnessRun part s := rfl
theorem exec_recordBinned {cl} (s : State) : exec (.recordBinned cl) s = execRecordBinned cl s := rfl
theorem exec_spilledRecordReturn {cl} (s : State) : exec (.spilledRecordReturn cl) s = execSpilledRecordReturn cl s := rfl
theorem exec_binAged {x} (s : State) : exec (.binAged x) s = execBinAged x s := rfl
theorem exec_binStarved {x} (s : State) : exec (.binStarved x) s = execBinStarved x s := rfl
theorem exec_binIssue {x} (s : State) : exec (.binIssue x) s = execBinIssue x s := rfl
theorem exec_dispatchComplete {x} (s : State) : exec (.dispatchComplete x) s = execDispatchComplete x s := rfl
theorem exec_laneFiled {x} (s : State) : exec (.laneFiled x) s = execLaneFiled x s := rfl
theorem exec_basinAged {x} (s : State) : exec (.basinAged x) s = execBasinAged x s := rfl
theorem exec_basinDraw {x} (s : State) : exec (.basinDraw x) s = execBasinDraw x s := rfl
theorem exec_elevatedPriority {x} (s : State) : exec (.elevatedPriority x) s = execElevatedPriority x s := rfl
theorem exec_waveRotation {x} (s : State) : exec (.waveRotation x) s = execWaveRotation x s := rfl
theorem exec_rotatedWaveRestore {x} (s : State) : exec (.rotatedWaveRestore x) s = execRotatedWaveRestore x s := rfl
theorem exec_claimSatisfied {x acc} (s : State) : exec (.claimSatisfied x acc) s = execClaimSatisfied x acc s := rfl
theorem exec_deadlockDetect {x} (s : State) : exec (.deadlockDetect x) s = execDeadlockDetect x s := rfl
theorem exec_blockRestore {x} (s : State) : exec (.blockRestore x) s = execBlockRestore x s := rfl
theorem exec_awaitSample {x} (s : State) : exec (.awaitSample x) s = execAwaitSample x s := rfl
theorem exec_flagOpComplete {x k} (s : State) : exec (.flagOpComplete x k) s = execFlagOpComplete x k s := rfl
theorem exec_copyComplete {x} (s : State) : exec (.copyComplete x) s = execCopyComplete x s := rfl
theorem exec_engineWriteComplete {x run} (s : State) : exec (.engineWriteComplete x run) s = execEngineWriteComplete x run s := rfl
theorem exec_stageCopyIssue {x} (s : State) : exec (.stageCopyIssue x) s = execStageCopyIssue x s := rfl
theorem exec_stashFillComplete {x line} (s : State) : exec (.stashFillComplete x line) s = execStashFillComplete x line s := rfl
theorem exec_stashRecall {x line} (s : State) : exec (.stashRecall x line) s = execStashRecall x line s := rfl
theorem exec_blockEnd {x} (s : State) : exec (.blockEnd x) s = execBlockEnd x s := rfl
theorem exec_cacheModeApply {cl} (s : State) : exec (.cacheModeApply cl) s = execCacheModeApply cl s := rfl
theorem exec_sareaApply {x} (s : State) : exec (.sareaApply x) s = execSareaApply x s := rfl
theorem exec_rayRecordWrite {kid} (s : State) : exec (.rayRecordWrite kid) s = execRayRecordWrite kid s := rfl
theorem exec_traversalRun {x} (s : State) : exec (.traversalRun x) s = execTraversalRun x s := rfl
theorem exec_treeletFetchComplete {x} (s : State) : exec (.treeletFetchComplete x) s = execTreeletFetchComplete x s := rfl
theorem exec_stepBudgetStop {x} (s : State) : exec (.stepBudgetStop x) s = execStepBudgetStop x s := rfl
theorem exec_gridEndingComplete {kid} (s : State) : exec (.gridEndingComplete kid) s = execGridEndingComplete kid s := rfl
theorem exec_translationWalk {x ctx va} (s : State) : exec (.translationWalk x ctx va) s = execTranslationWalk x ctx va s := rfl
theorem exec_eccErrorNoRequester {line} (s : State) : exec (.eccErrorNoRequester line) s = execEccErrorNoRequester line s := rfl
theorem exec_eccCorrectableError {line} (s : State) : exec (.eccCorrectableError line) s = execEccCorrectableError line s := rfl
theorem exec_handlerStart {f} (s : State) : exec (.handlerStart f) s = execHandlerStart f s := rfl
theorem exec_coreHalted {x ctx} (s : State) : exec (.coreHalted x ctx) s = execCoreHalted x ctx s := rfl
theorem exec_contextSaved {ctx} (s : State) : exec (.contextSaved ctx) s = execContextSaved ctx s := rfl
theorem exec_calloutGranTimeout {x} (s : State) : exec (.calloutGranTimeout x) s = execCalloutGranTimeout x s := rfl
theorem exec_contextRestored {ctx} (s : State) : exec (.contextRestored ctx) s = execContextRestored ctx s := rfl
theorem exec_rillRequestReceive {tag payload} (s : State) : exec (.rillRequestReceive tag payload) s = execRillRequestReceive tag payload s := rfl
theorem exec_rillResponseReceive {tag} (s : State) : exec (.rillResponseReceive tag) s = execRillResponseReceive tag s := rfl
theorem exec_rillRetransmit {tag} (s : State) : exec (.rillRetransmit tag) s = execRillRetransmit tag s := rfl
theorem exec_rillLinkFailure (s : State) : exec .rillLinkFailure s = execRillLinkFailure s := rfl
theorem exec_rillPaired {peer cap tick lanes} (s : State) : exec (.rillPaired peer cap tick lanes) s = execRillPaired peer cap tick lanes s := rfl
theorem exec_mergePair {task addr x} (s : State) : exec (.mergePair task addr x) s = execMergePair task addr x s := rfl
theorem exec_mergeFlush {task} (s : State) : exec (.mergeFlush task) s = execMergeFlush task s := rfl
theorem exec_bar2Write {off bytes} (s : State) : exec (.bar2Write off bytes) s = execBar2Write off bytes s := rfl
theorem exec_bar2Read {off n} (s : State) : exec (.bar2Read off n) s = execBar2Read off n s := rfl
theorem exec_registerWrite {x} (s : State) : exec (.registerWrite x) s = execRegisterWrite x s := rfl
theorem exec_ctxReqRun {ctx} (s : State) : exec (.ctxReqRun ctx) s = execCtxReqRun ctx s := rfl
theorem exec_ctxReqStop {ctx} (s : State) : exec (.ctxReqStop ctx) s = execCtxReqStop ctx s := rfl
theorem exec_ctxBoundSet {ctx part} (s : State) : exec (.ctxBoundSet ctx part) s = execCtxBoundSet ctx part s := rfl
theorem exec_ctxBoundClear {ctx} (s : State) : exec (.ctxBoundClear ctx) s = execCtxBoundClear ctx s := rfl
theorem exec_ctxWeightWrite {ctx w} (s : State) : exec (.ctxWeightWrite ctx w) s = execCtxWeightWrite ctx w s := rfl
theorem exec_streamResume {ctx} (s : State) : exec (.streamResume ctx) s = execStreamResume ctx s := rfl
theorem exec_ctxSpcWrite {ctx x} (s : State) : exec (.ctxSpcWrite ctx x) s = execCtxSpcWrite ctx x s := rfl
theorem exec_streamLimitWrite {ctx x} (s : State) : exec (.streamLimitWrite ctx x) s = execStreamLimitWrite ctx x s := rfl
theorem exec_arenaWrite {ctx base size} (s : State) : exec (.arenaWrite ctx base size) s = execArenaWrite ctx base size s := rfl
theorem exec_partCfgWrite {f x} (s : State) : exec (.partCfgWrite f x) s = execPartCfgWrite f x s := rfl
theorem exec_clModeWrite {cl x} (s : State) : exec (.clModeWrite cl x) s = execClModeWrite cl x s := rfl
theorem exec_residencyWrite {ctx n x} (s : State) : exec (.residencyWrite ctx n x) s = execResidencyWrite ctx n x s := rfl
theorem exec_hostQdone {x} (s : State) : exec (.hostQdone x) s = execHostQdone x s := rfl
theorem exec_hostQheadWrite {x} (s : State) : exec (.hostQheadWrite x) s = execHostQheadWrite x s := rfl
theorem exec_hostDoorbell {f} (s : State) : exec (.hostDoorbell f) s = execHostDoorbell f s := rfl
theorem exec_hostSigpendClear {x} (s : State) : exec (.hostSigpendClear x) s = execHostSigpendClear x s := rfl
theorem exec_hostIrqpendClear {x} (s : State) : exec (.hostIrqpendClear x) s = execHostIrqpendClear x s := rfl
theorem exec_rillPair (s : State) : exec .rillPair s = execRillPair s := rfl
theorem exec_rillUnpair (s : State) : exec .rillUnpair s = execRillUnpair s := rfl
theorem exec_devSkidWrite {x} (s : State) : exec (.devSkidWrite x) s = execDevSkidWrite x s := rfl
theorem exec_skidActive (s : State) : exec .skidActive s = execSkidActive s := rfl
theorem exec_skidDisarmApply (s : State) : exec .skidDisarmApply s = execSkidDisarmApply s := rfl
theorem exec_skidReplyCapture {cl} (s : State) : exec (.skidReplyCapture cl) s = execSkidReplyCapture cl s := rfl
theorem exec_dbgCtlWrite {ctx x} (s : State) : exec (.dbgCtlWrite ctx x) s = execDbgCtlWrite ctx x s := rfl
theorem exec_dbgTraceBaseWrite {ctx x} (s : State) : exec (.dbgTraceBaseWrite ctx x) s = execDbgTraceBaseWrite ctx x s := rfl
theorem exec_dbgResume {cl} (s : State) : exec (.dbgResume cl) s = execDbgResume cl s := rfl
theorem exec_dbgStep {x} (s : State) : exec (.dbgStep x) s = execDbgStep x s := rfl
theorem exec_dbgStepLane {x} (s : State) : exec (.dbgStepLane x) s = execDbgStepLane x s := rfl
theorem exec_dbgArmStop (s : State) : exec .dbgArmStop s = execDbgArmStop s := rfl
theorem exec_dbgDisarm (s : State) : exec .dbgDisarm s = execDbgDisarm s := rfl
theorem exec_stepComplete {cl} (s : State) : exec (.stepComplete cl) s = execStepComplete cl s := rfl
theorem exec_stepTimeout {cl} (s : State) : exec (.stepTimeout cl) s = execStepTimeout cl s := rfl
theorem exec_preciseStop (s : State) : exec .preciseStop s = execPreciseStop s := rfl
theorem exec_sampleRecord {x ctx} (s : State) : exec (.sampleRecord x ctx) s = execSampleRecord x ctx s := rfl
theorem exec_deviceReset (s : State) : exec .deviceReset s = execDeviceReset s := rfl
theorem exec_memoryTrainingDone (s : State) : exec .memoryTrainingDone s = execMemoryTrainingDone s := rfl
theorem exec_firmwareReady (s : State) : exec .firmwareReady s = execFirmwareReady s := rfl
theorem exec_bringupFailure (s : State) : exec .bringupFailure s = execBringupFailure s := rfl
theorem exec_allowRecompute {a} (s : State) : exec (.allowRecompute a) s = execAllowRecompute a s := rfl
theorem exec_thermalAlert {t} (s : State) : exec (.thermalAlert t) s = execThermalAlert t s := rfl
theorem exec_thermalHardLimit {t} (s : State) : exec (.thermalHardLimit t) s = execThermalHardLimit t s := rfl
theorem exec_thermalRecover {t} (s : State) : exec (.thermalRecover t) s = execThermalRecover t s := rfl
theorem exec_thermalShutdown {t} (s : State) : exec (.thermalShutdown t) s = execThermalShutdown t s := rfl
theorem exec_hostReadComplete {x} (s : State) : exec (.hostReadComplete x) s = execHostReadComplete x s := rfl
theorem exec_linkRetrain (s : State) : exec .linkRetrain s = execLinkRetrain s := rfl

end Sys2Proof.Machine
end

