-- ==== Sys2Proof/Laws/Issue.lean ====
section
/-! SUPPORT. What the shared operations of issuing do (spec/07 R183): the lemmas that claims about thread
instructions cite. -/

namespace Sys2Proof.Machine

variable {s : State} {f : Form} {h : Here} {ls : Table Thread}

/-- An instruction that issues has its own meaning, for the lanes that pass. -/
theorem Issues.run (hi : Issues s f h ls) (k : Here → Table Thread → State) :
    s.issue f k = .next (k h ls) := by
  obtain ⟨hh, hp, hne, hm, hil, hr, hu, hw, hc⟩ := hi
  have hf : (ls.find? fun e => !e.2.inRange f.uses) = none := by
    rw [List.find?_eq_none]
    intro e he
    have := List.all_eq_true.mp hr e he
    simp [this]
  have hie : ls.isEmpty = false := by simpa using hne
  simp only [State.issue, hh, hp]
  rw [if_neg (by omega), if_neg (by simp [hil]), hf]
  simp only [hie, hu, hw, Bool.false_eq_true, if_false]
  cases hn : h.wave.flagOf f.sel with
  | none => rfl
  | some n =>
    rw [hn] at hc
    have : (ls.any fun e => decide (e.2.flagCount n ≥ 255)) = false := by
      rw [List.any_eq_false]
      intro e he
      have := List.all_eq_true.mp hc e he
      simp only [decide_eq_true_eq] at this
      simp only [ge_iff_le, decide_eq_true_eq]
      omega
    simp only [this, Bool.false_eq_true, if_false]

/-- A lane-wise instruction that issues changes each passing lane's thread and ends at the next slot. -/
theorem Issues.lanes (hi : Issues s f h ls) (k : Wave → Thread → Thread) :
    s.lanewise f k = .next (s.doneLen h (h.wave.updLanes ls fun _ t => k h.wave t) f.len) := hi.run _

/-- A load awaited for some registers is awaited for more. -/
theorem awaitedBy_mono {core slot : Nat} {uids : List Nat} {us vs : List RegRun} (hu : ∀ r ∈ vs, r ∈ us)
    (h : s.awaitedBy core slot uids us = []) : s.awaitedBy core slot uids vs = [] := by
  simp only [State.awaitedBy, List.map_eq_nil_iff, List.filter_eq_nil_iff, Bool.and_eq_true, not_and,
    Bool.not_eq_true, List.any_eq_true, not_exists] at h ⊢
  intro e he he1 l hl hid r hr
  exact h e he he1 l hl hid r (hu r hr)

/-- Registers beyond those of a narrower form do not matter to issuing. -/
theorem Issues.weaken {f' : Form} (hi : Issues s f h ls) (hf : f' = { f with uses := f'.uses })
    (hu : ∀ r ∈ f'.uses, r ∈ f.uses) : Issues s f' h ls := by
  obtain ⟨hh, hp, hne, hm, hil, hr, hun, hw, hc⟩ := hi
  rw [hf]
  refine ⟨hh, hp, hne, hm, hil, ?_, hun, ?_, hc⟩
  case refine_2 =>
    simp only [State.awaits, Bool.and_eq_false_iff, Bool.or_eq_false_iff, Bool.not_eq_false',
      List.isEmpty_iff] at hw ⊢
    exact hw.imp_right fun hw => ⟨hw.1, awaitedBy_mono hu hw.2⟩
  rw [List.all_eq_true] at hr ⊢
  intro e he
  have := hr e he
  simp only [Thread.inRange, List.all_eq_true] at this ⊢
  intro r h1
  exact this r (hu r h1)

end Sys2Proof.Machine
end

