-- ==== Sys2Proof/Laws/Memory.lean ====
section
/-! SUPPORT. Memory and tables: reading after writing, and that every operation over memory's bytes keeps the
canonical form of Memory.wf. -/

namespace Sys2Proof.Machine

/-! ### Tables -/

@[simp] theorem Table.get?_put_self {α : Type} (t : Table α) (n : Nat) (x : α) :
    Table.get? (Table.put t n x) n = some x := by
  induction t with
  | nil => simp [Table.put, Table.get?]
  | cons e t ih =>
    obtain ⟨k, y⟩ := e
    simp only [Table.put]
    split
    · simp [Table.get?]
    · split
      · simp [Table.get?]
      · rename_i h
        simp [Table.get?, h, ih]

theorem Table.get?_put_of_ne {α : Type} (t : Table α) {n m : Nat} (x : α) (h : m ≠ n) :
    Table.get? (Table.put t n x) m = Table.get? t m := by
  induction t with
  | nil => simp [Table.put, Table.get?, h.symm]
  | cons e t ih =>
    obtain ⟨k, y⟩ := e
    simp only [Table.put]
    split
    · simp [Table.get?, h.symm]
    · split
      · rename_i hk
        subst hk
        simp [Table.get?, h.symm]
      · simp only [Table.get?, ih]

theorem Table.get?_put {α : Type} (t : Table α) (n m : Nat) (x : α) :
    Table.get? (Table.put t n x) m = if m = n then some x else Table.get? t m := by
  split
  · rename_i h; subst h; simp
  · rename_i h; exact Table.get?_put_of_ne t x h

@[simp] theorem Table.get?_del_self {α : Type} (t : Table α) (n : Nat) :
    Table.get? (Table.del t n) n = none := by
  induction t with
  | nil => rfl
  | cons e t ih =>
    obtain ⟨k, y⟩ := e
    by_cases h : k = n
    · simpa [Table.del, h] using ih
    · simpa [Table.del, h, Table.get?] using ih

theorem Table.get?_del_of_ne {α : Type} (t : Table α) {n m : Nat} (h : m ≠ n) :
    Table.get? (Table.del t n) m = Table.get? t m := by
  induction t with
  | nil => rfl
  | cons e t ih =>
    obtain ⟨k, y⟩ := e
    simp only [Table.del] at ih ⊢
    by_cases hk : k = n
    · subst hk
      simpa [Table.get?, h.symm] using ih
    · simp [hk, Table.get?, ih]

theorem Table.get?_upd {α : Type} (t : Table α) (n m : Nat) (f : α → α) :
    Table.get? (Table.upd t n f) m = if m = n then (Table.get? t m).map f else Table.get? t m := by
  induction t with
  | nil => simp [Table.upd, Table.get?]
  | cons e t ih =>
    obtain ⟨k, y⟩ := e
    simp only [Table.upd] at ih
    simp only [Table.upd, List.map_cons, Table.get?]
    by_cases hk : k = n
    · subst hk
      by_cases hm : k = m
      · subst hm; simp
      · simp [hm, ih, Ne.symm hm]
    · by_cases hm : k = m
      · subst hm; simp [hk]
      · simp [hk, hm, ih]

/-! ### Lists by position -/

@[simp] theorem length_listSet {α : Type} (l : List α) (n : Nat) (x : α) : (listSet l n x).length = l.length := by
  induction l generalizing n with
  | nil => rfl
  | cons a t ih => cases n <;> simp [listSet, ih]

@[simp] theorem length_listUpd {α : Type} (l : List α) (n : Nat) (f : α → α) :
    (listUpd l n f).length = l.length := by
  induction l generalizing n with
  | nil => rfl
  | cons a t ih => cases n <;> simp [listUpd, ih]

theorem getElem?_listUpd {α : Type} (l : List α) (n m : Nat) (f : α → α) :
    (listUpd l n f)[m]? = if m = n then (l[m]?).map f else l[m]? := by
  induction l generalizing n m with
  | nil => simp [listUpd]
  | cons a t ih =>
    cases n with
    | zero => cases m <;> simp [listUpd]
    | succ n => cases m <;> simp [listUpd, ih]

theorem listGet_listUpd_of_ne {α : Type} (l : List α) {n m : Nat} (f : α → α) (d : α) (h : m ≠ n) :
    listGet (listUpd l n f) m d = listGet l m d := by
  simp [listGet, getElem?_listUpd, h]

theorem listGet_listUpd_self {α : Type} (l : List α) (n : Nat) (f : α → α) (d : α) (h : n < l.length) :
    listGet (listUpd l n f) n d = f (listGet l n d) := by
  rw [listGet, listGet, getElem?_listUpd, if_pos rfl, List.getElem?_eq_getElem h]
  rfl

theorem mem_natsFrom {lo n a : Nat} : a ∈ natsFrom lo n ↔ lo ≤ a ∧ a < lo + n := by
  induction n generalizing lo with
  | zero => simp [natsFrom]
  | succ n ih => simp [natsFrom, ih]; omega

@[simp] theorem length_natsFrom (lo n : Nat) : (natsFrom lo n).length = n := by
  induction n generalizing lo with
  | zero => rfl
  | succ n ih => simp [natsFrom, ih]

/-! ### Bytes and numbers -/

@[simp] theorem length_bytesOf (n x : Nat) : (bytesOf n x).length = n := by
  induction n generalizing x with
  | zero => rfl
  | succ n ih => simp [bytesOf, ih]

theorem natOf_bytesOf (n x : Nat) : natOf (bytesOf n x) = x % 256 ^ n := by
  induction n generalizing x with
  | zero => simp [bytesOf, natOf, Nat.mod_one]
  | succ n ih =>
    have h : (BitVec.ofNat 8 x).toNat = x % 256 := BitVec.toNat_ofNat x 8
    rw [bytesOf, natOf, ih, h, Nat.pow_succ, Nat.mul_comm (256 ^ n) 256, Nat.mod_mul]

theorem bytesOf_natOf (l : List Byte) : bytesOf l.length (natOf l) = l := by
  induction l with
  | nil => rfl
  | cons b t ih =>
    have h1 : (b.toNat + 256 * natOf t) / 256 = natOf t := by
      have := b.isLt
      omega
    simp only [List.length_cons, bytesOf, natOf, h1, ih, List.cons.injEq, and_true]
    apply BitVec.eq_of_toNat_eq
    have := b.isLt
    simp only [BitVec.toNat_ofNat]
    omega

/-! ### Cells -/

theorem cellsAbove_mono {lo hi : Nat} {l : List Host.Cell} (h : lo ≤ hi) (hl : cellsAbove hi l = true) :
    cellsAbove lo l = true := by
  cases l with
  | nil => rfl
  | cons e t =>
    simp only [cellsAbove, Bool.and_eq_true, decide_eq_true_eq] at hl ⊢
    exact ⟨⟨by omega, hl.1.2⟩, hl.2⟩

/-- Below the least address a list reads as unlisted. -/
theorem cellGet_below {lo a : Nat} {l : List Host.Cell} (hl : cellsAbove lo l = true) (h : a < lo) :
    cellGet l a = emptyByte := by
  induction l generalizing lo with
  | nil => rfl
  | cons e t ih =>
    obtain ⟨k, x⟩ := e
    simp only [cellsAbove, Bool.and_eq_true, decide_eq_true_eq] at hl
    have : k ≠ a := by omega
    simp [cellGet, this, ih hl.2 (by omega)]

theorem cellSet_above {lo a : Nat} {x : Byte} {l : List Host.Cell} (hl : cellsAbove lo l = true) (h : lo ≤ a) :
    cellsAbove lo (cellSet l a x) = true := by
  induction l generalizing lo with
  | nil =>
    simp only [cellSet]
    split
    · rfl
    · rename_i hx; simp [cellsAbove, h, hx]
  | cons e t ih =>
    obtain ⟨k, y⟩ := e
    simp only [cellsAbove, Bool.and_eq_true, decide_eq_true_eq] at hl
    obtain ⟨⟨hlo, hy⟩, ht⟩ := hl
    simp only [cellSet]
    split
    · split
      · simp [cellsAbove, hlo, hy, ht]
      · rename_i hk hx
        simp [cellsAbove, h, hx, hy, ht]
        omega
    · split
      · rename_i hk1 hk
        subst hk
        split
        · exact cellsAbove_mono (by omega) ht
        · rename_i hx
          simp [cellsAbove, h, hx, ht]
      · simp [cellsAbove, hlo, hy, ih ht (by omega)]

/-- Storing a byte keeps the canonical form. -/
theorem cellSet_wf {l : List Host.Cell} (a : Nat) (x : Byte) (hl : cellsWf l = true) :
    cellsWf (cellSet l a x) = true := cellSet_above hl (Nat.zero_le a)

/-- Storing bytes keeps the canonical form. -/
theorem cellSets_wf {l : List Host.Cell} (a : Nat) (bs : List Byte) (hl : cellsWf l = true) :
    cellsWf (cellSets l a bs) = true := by
  induction bs generalizing l a with
  | nil => exact hl
  | cons b t ih => exact ih (a + 1) (cellSet_wf a b hl)

/-- Another address reads as before, whatever the form. -/
theorem cellGet_cellSet_of_ne (l : List Host.Cell) {a b : Nat} (x : Byte) (h : b ≠ a) :
    cellGet (cellSet l a x) b = cellGet l b := by
  induction l with
  | nil =>
    simp only [cellSet]
    split
    · rfl
    · simp [cellGet, h.symm]
  | cons e t ih =>
    obtain ⟨k, y⟩ := e
    simp only [cellSet]
    split
    · split
      · rfl
      · simp [cellGet, h.symm]
    · split
      · rename_i hk
        subst hk
        split
        · simp [cellGet, h.symm]
        · simp [cellGet, h.symm]
      · simp only [cellGet, ih]

/-- The address stored to reads as the byte stored. -/
theorem cellGet_cellSet_self {lo : Nat} {l : List Host.Cell} (a : Nat) (x : Byte)
    (hl : cellsAbove lo l = true) : cellGet (cellSet l a x) a = x := by
  induction l generalizing lo with
  | nil =>
    simp only [cellSet]
    split
    · rename_i hx; simp [cellGet, hx]
    · simp [cellGet]
  | cons e t ih =>
    obtain ⟨k, y⟩ := e
    simp only [cellsAbove, Bool.and_eq_true, decide_eq_true_eq] at hl
    simp only [cellSet]
    split
    · rename_i hk
      split
      · rename_i hx
        have : k ≠ a := by omega
        simp [cellGet, this, cellGet_below hl.2 (show a < k + 1 by omega), hx]
      · simp [cellGet]
    · split
      · rename_i hk
        subst hk
        split
        · rename_i hx
          rw [cellGet_below hl.2 (by omega), hx]
        · simp [cellGet]
      · rename_i hk
        simp [cellGet, hk, ih hl.2]

theorem cellGet_cellSet {l : List Host.Cell} (a b : Nat) (x : Byte) (hl : cellsWf l = true) :
    cellGet (cellSet l a x) b = if b = a then x else cellGet l b := by
  split
  · rename_i h; subst h; exact cellGet_cellSet_self b x hl
  · rename_i h; exact cellGet_cellSet_of_ne l x h

/-- Storing bytes leaves every address outside them. -/
theorem cellGet_cellSets_outside (l : List Host.Cell) {a b : Nat} (bs : List Byte)
    (h : b < a ∨ a + bs.length ≤ b) : cellGet (cellSets l a bs) b = cellGet l b := by
  induction bs generalizing l a with
  | nil => rfl
  | cons x t ih =>
    simp only [List.length_cons] at h
    rw [cellSets, ih _ (by omega), cellGet_cellSet_of_ne l x (by omega)]

/-- The bytes stored read back, in order. -/
theorem cellGet_cellSets {l : List Host.Cell} (a : Nat) (bs : List Byte) (hl : cellsWf l = true) :
    (natsFrom a bs.length).map (cellGet (cellSets l a bs)) = bs := by
  induction bs generalizing l a with
  | nil => rfl
  | cons x t ih =>
    simp only [List.length_cons, natsFrom, List.map_cons, cellSets]
    rw [ih (a + 1) (cellSet_wf a x hl), cellGet_cellSets_outside _ t (by omega), cellGet_cellSet_self (lo := 0) a x hl]

/-! ### Memory operations keep the canonical form -/

theorem Memory.setD_wf {m : Memory} (a : Nat) (x : Byte) (h : m.wf = true) : (m.setD a x).wf = true := by
  unfold Memory.setD
  split
  · exact h
  · exact cellSet_wf a x h

theorem Memory.foldl_setD_wf (bs : List NewByte) {m : Memory} (h : m.wf = true) :
    (bs.foldl (fun m b => m.setD b.addr b.val) m).wf = true := by
  induction bs generalizing m with
  | nil => exact h
  | cons b t ih => exact ih (Memory.setD_wf b.addr b.val h)

/-- An arrival at D keeps the form. -/
theorem Memory.arriveD_wf {m : Memory} (now : Nat) (who : Party) (bs : List NewByte) (h : m.wf = true) :
    (m.arriveD now who bs).wf = true := Memory.foldl_setD_wf bs h

/-- An agent's write keeps the form. -/
theorem Memory.agentWrite_wf {m : Memory} (now agent a : Nat) (bs : List Byte) (h : m.wf = true) :
    (m.agentWrite now agent a bs).wf = true := Memory.arriveD_wf now _ _ h

/-- An arrival at the home keeps the form. -/
theorem Memory.arriveHome_wf {m : Memory} (now : Nat) (who : Party) (bs : List NewByte) (h : m.wf = true) :
    (m.arriveHome now who bs).wf = true := by
  unfold Memory.arriveHome
  have : ∀ (l : List NewByte) (m1 : Memory), m1.wf = true →
      (l.foldl (fun m' b =>
        if peerHomed b.addr then
          { m' with
            cells := cellSet m'.cells b.addr b.val
            dirty := if (Table.get? m.dirty b.addr).isSome then m'.dirty else Table.del m'.dirty b.addr }
        else m') m1).wf = true := by
    intro l
    induction l with
    | nil => exact fun _ h1 => h1
    | cons b t ih =>
      intro m1 h1
      apply ih
      dsimp only
      split
      · exact cellSet_wf b.addr b.val h1
      · exact h1
  exact this bs _ (Memory.arriveD_wf now who bs h)

/-- The final step of CMT.S keeps the form. -/
theorem Memory.sendHome_wf {m : Memory} (h : m.wf = true) : m.sendHome.wf = true := by
  have : ∀ (l : Table Byte) (c : List Host.Cell), cellsWf c = true →
      cellsWf (l.foldl (fun c e => cellSet c e.1 e.2) c) = true := by
    intro l
    induction l with
    | nil => exact fun _ h1 => h1
    | cons e t ih => exact fun c h1 => ih _ (cellSet_wf e.1 e.2 h1)
  exact this m.dirty m.cells h

/-- Placing bytes keeps the form. -/
theorem Memory.place_wf {m : Memory} (a : Nat) (bs : List Byte) (h : m.wf = true) : (m.place a bs).wf = true :=
  cellSets_wf a bs h

/-- Placing a program keeps the form. -/
theorem Memory.placeCode_wf {m : Memory} (nbits w : Nat) (h : m.wf = true) : (m.placeCode nbits w).wf = true :=
  Memory.place_wf _ _ (Memory.place_wf _ _ (Memory.place_wf _ _ (Memory.place_wf _ _ h)))

/-- Memory at reset has the form. -/
theorem Memory.reset_wf : Memory.reset.wf = true := rfl

/-- Buffers, views and the D order do not bear on the form. -/
theorem Memory.wf_of_cells {m m' : Memory} (h : m'.cells = m.cells) (hm : m.wf = true) : m'.wf = true := by
  simpa [Memory.wf, h] using hm

/-- Bytes placed in local memory read back at D. -/
theorem Memory.readD_place {m : Memory} (a : Nat) (bs : List Byte) (h : m.wf = true)
    (local' : (natsFrom a bs.length).all (fun b => !peerHomed b) = true) :
    (m.place a bs).readD a bs.length = bs := by
  have e : (natsFrom a bs.length).map (m.place a bs).atD = (natsFrom a bs.length).map (cellGet (cellSets m.cells a bs)) :=
    List.map_congr_left fun b hb => by
      have := List.all_eq_true.mp local' b hb
      simp only [Bool.not_eq_true'] at this
      simp [Memory.atD, this, Memory.place]
  rw [Memory.readD, e, cellGet_cellSets a bs h]

/-- Bytes outside those placed read at D as before. -/
theorem Memory.readD_place_outside {m : Memory} {a b n : Nat} (bs : List Byte) (h : b + n ≤ a ∨ a + bs.length ≤ b) :
    (m.place a bs).readD b n = m.readD b n :=
  List.map_congr_left fun c hc => by
    have hc := mem_natsFrom.mp hc
    simp only [Memory.atD, Memory.place]
    rw [cellGet_cellSets_outside _ _ (by omega)]

/-! ### Reading at D after a store at D -/

theorem Memory.atD_setD_self {m : Memory} (a : Nat) (x : Byte) (h : m.wf = true) : (m.setD a x).atD a = x := by
  unfold Memory.setD
  split
  · rename_i hr; simp [Memory.atD, hr]
  · rename_i hr; simp [Memory.atD, hr, cellGet_cellSet_self a x h]

theorem Memory.atD_setD_of_ne (m : Memory) {a b : Nat} (x : Byte) (h : b ≠ a) :
    (m.setD a x).atD b = m.atD b := by
  unfold Memory.setD
  split
  · simp [Memory.atD, Table.get?_put_of_ne _ _ h]
  · simp [Memory.atD, cellGet_cellSet_of_ne _ _ h]

end Sys2Proof.Machine
end

