-- ==== Sys2Proof/Laws/PerInstr.lean ====
section
/-! SUPPORT. Per instruction: an instruction is thread code, stream code or an event of the device, and never two of
these (spec/07 R169, spec/11 R318, R320). -/

namespace Sys2Proof.Laws

/-- An instruction is a clause header. -/
def Encoding.isClause : Instr → Bool
  | .clause _ => true
  | _ => false

/-- The instruction has fields of thread code, or fields of stream code, or neither; a clause header has neither and
is encoded apart; and it has words just where it has one of these. -/
def Encoding.Statement (i : Instr) : Prop :=
  (i.fields = none ∨ i.sfields = none) ∧
  (encode i).isSome = (Encoding.isClause i || i.fields.isSome || i.sfields.isSome)

theorem Encoding.of_fields {i : Instr} (hs : i.sfields = none) (hc : Encoding.isClause i = false) (he : encode i =
    (match i.fields with
      | some f => some { bits := lenBits f.len, lo := f.lo, hi := f.hi }
      | none => i.sfields.map fun f => { bits := 128, lo := f.lo, hi := f.imm })) : Encoding.Statement i := by
  refine ⟨Or.inr hs, ?_⟩
  rw [he, hs, hc]
  cases i.fields <;> rfl

theorem Encoding.of_sfields {i : Instr} (hs : i.fields = none) (hc : Encoding.isClause i = false) (he : encode i =
    (match i.fields with
      | some f => some { bits := lenBits f.len, lo := f.lo, hi := f.hi }
      | none => i.sfields.map fun f => { bits := 128, lo := f.lo, hi := f.imm })) : Encoding.Statement i := by
  refine ⟨Or.inl hs, ?_⟩
  rw [he, hs, hc]
  cases i.sfields <;> rfl

theorem Encoding.nop (x) : Encoding.Statement (.nop x) := Encoding.of_fields rfl rfl rfl
theorem Encoding.bra (x) : Encoding.Statement (.bra x) := Encoding.of_fields rfl rfl rfl
theorem Encoding.brd (x) : Encoding.Statement (.brd x) := Encoding.of_fields rfl rfl rfl
theorem Encoding.rcv (x) : Encoding.Statement (.rcv x) := Encoding.of_fields rfl rfl rfl
theorem Encoding.reform (x) : Encoding.Statement (.reform x) := Encoding.of_fields rfl rfl rfl
theorem Encoding.yield (x) : Encoding.Statement (.yield x) := Encoding.of_fields rfl rfl rfl
theorem Encoding.await (x) : Encoding.Statement (.await x) := Encoding.of_fields rfl rfl rfl
theorem Encoding.phase (x) : Encoding.Statement (.phase x) := Encoding.of_fields rfl rfl rfl
theorem Encoding.call (x) : Encoding.Statement (.call x) := Encoding.of_fields rfl rfl rfl
theorem Encoding.ret (x) : Encoding.Statement (.ret x) := Encoding.of_fields rfl rfl rfl
theorem Encoding.jmpi (x) : Encoding.Statement (.jmpi x) := Encoding.of_fields rfl rfl rfl
theorem Encoding.exit (x) : Encoding.Statement (.exit x) := Encoding.of_fields rfl rfl rfl
theorem Encoding.crew (x) : Encoding.Statement (.crew x) := Encoding.of_fields rfl rfl rfl
theorem Encoding.uncrew (x) : Encoding.Statement (.uncrew x) := Encoding.of_fields rfl rfl rfl
theorem Encoding.trap (x) : Encoding.Statement (.trap x) := Encoding.of_fields rfl rfl rfl
theorem Encoding.bkpt (x) : Encoding.Statement (.bkpt x) := Encoding.of_fields rfl rfl rfl
theorem Encoding.clause (x) : Encoding.Statement (.clause x) := ⟨Or.inl rfl, rfl⟩
theorem Encoding.iadd (x) : Encoding.Statement (.iadd x) := Encoding.of_fields rfl rfl rfl
theorem Encoding.isum3 (x) : Encoding.Statement (.isum3 x) := Encoding.of_fields rfl rfl rfl
theorem Encoding.isub (x) : Encoding.Statement (.isub x) := Encoding.of_fields rfl rfl rfl
theorem Encoding.imul (x) : Encoding.Statement (.imul x) := Encoding.of_fields rfl rfl rfl
theorem Encoding.imulh (x) : Encoding.Statement (.imulh x) := Encoding.of_fields rfl rfl rfl
theorem Encoding.imad (x) : Encoding.Statement (.imad x) := Encoding.of_fields rfl rfl rfl
theorem Encoding.idiv (x) : Encoding.Statement (.idiv x) := Encoding.of_fields rfl rfl rfl
theorem Encoding.irem (x) : Encoding.Statement (.irem x) := Encoding.of_fields rfl rfl rfl
theorem Encoding.imin (x) : Encoding.Statement (.imin x) := Encoding.of_fields rfl rfl rfl
theorem Encoding.imax (x) : Encoding.Statement (.imax x) := Encoding.of_fields rfl rfl rfl
theorem Encoding.iabs (x) : Encoding.Statement (.iabs x) := Encoding.of_fields rfl rfl rfl
theorem Encoding.mov (x) : Encoding.Statement (.mov x) := Encoding.of_fields rfl rfl rfl
theorem Encoding.movi (x) : Encoding.Statement (.movi x) := Encoding.of_fields rfl rfl rfl
theorem Encoding.movi64 (x) : Encoding.Statement (.movi64 x) := Encoding.of_fields rfl rfl rfl
theorem Encoding.lea (x) : Encoding.Statement (.lea x) := Encoding.of_fields rfl rfl rfl
theorem Encoding.sel (x) : Encoding.Statement (.sel x) := Encoding.of_fields rfl rfl rfl
theorem Encoding.shl (x) : Encoding.Statement (.shl x) := Encoding.of_fields rfl rfl rfl
theorem Encoding.shr (x) : Encoding.Statement (.shr x) := Encoding.of_fields rfl rfl rfl
theorem Encoding.sar (x) : Encoding.Statement (.sar x) := Encoding.of_fields rfl rfl rfl
theorem Encoding.and (x) : Encoding.Statement (.and x) := Encoding.of_fields rfl rfl rfl
theorem Encoding.or (x) : Encoding.Statement (.or x) := Encoding.of_fields rfl rfl rfl
theorem Encoding.xor (x) : Encoding.Statement (.xor x) := Encoding.of_fields rfl rfl rfl
theorem Encoding.not (x) : Encoding.Statement (.not x) := Encoding.of_fields rfl rfl rfl
theorem Encoding.tern (x) : Encoding.Statement (.tern x) := Encoding.of_fields rfl rfl rfl
theorem Encoding.popc (x) : Encoding.Statement (.popc x) := Encoding.of_fields rfl rfl rfl
theorem Encoding.clz (x) : Encoding.Statement (.clz x) := Encoding.of_fields rfl rfl rfl
theorem Encoding.brev (x) : Encoding.Statement (.brev x) := Encoding.of_fields rfl rfl rfl
theorem Encoding.bfe (x) : Encoding.Statement (.bfe x) := Encoding.of_fields rfl rfl rfl
theorem Encoding.bfi (x) : Encoding.Statement (.bfi x) := Encoding.of_fields rfl rfl rfl
theorem Encoding.fadd (x) : Encoding.Statement (.fadd x) := Encoding.of_fields rfl rfl rfl
theorem Encoding.fmul (x) : Encoding.Statement (.fmul x) := Encoding.of_fields rfl rfl rfl
theorem Encoding.ffma (x) : Encoding.Statement (.ffma x) := Encoding.of_fields rfl rfl rfl
theorem Encoding.fdiv (x) : Encoding.Statement (.fdiv x) := Encoding.of_fields rfl rfl rfl
theorem Encoding.fmin (x) : Encoding.Statement (.fmin x) := Encoding.of_fields rfl rfl rfl
theorem Encoding.fmax (x) : Encoding.Statement (.fmax x) := Encoding.of_fields rfl rfl rfl
theorem Encoding.frcp (x) : Encoding.Statement (.frcp x) := Encoding.of_fields rfl rfl rfl
theorem Encoding.frsq (x) : Encoding.Statement (.frsq x) := Encoding.of_fields rfl rfl rfl
theorem Encoding.fsqrt (x) : Encoding.Statement (.fsqrt x) := Encoding.of_fields rfl rfl rfl
theorem Encoding.fexp2 (x) : Encoding.Statement (.fexp2 x) := Encoding.of_fields rfl rfl rfl
theorem Encoding.flog2 (x) : Encoding.Statement (.flog2 x) := Encoding.of_fields rfl rfl rfl
theorem Encoding.fsin (x) : Encoding.Statement (.fsin x) := Encoding.of_fields rfl rfl rfl
theorem Encoding.fcos (x) : Encoding.Statement (.fcos x) := Encoding.of_fields rfl rfl rfl
theorem Encoding.pkadd (x) : Encoding.Statement (.pkadd x) := Encoding.of_fields rfl rfl rfl
theorem Encoding.pkmul (x) : Encoding.Statement (.pkmul x) := Encoding.of_fields rfl rfl rfl
theorem Encoding.pkfma (x) : Encoding.Statement (.pkfma x) := Encoding.of_fields rfl rfl rfl
theorem Encoding.cvt (x) : Encoding.Statement (.cvt x) := Encoding.of_fields rfl rfl rfl
theorem Encoding.icmp (x) : Encoding.Statement (.icmp x) := Encoding.of_fields rfl rfl rfl
theorem Encoding.fcmp (x) : Encoding.Statement (.fcmp x) := Encoding.of_fields rfl rfl rfl
theorem Encoding.pand (x) : Encoding.Statement (.pand x) := Encoding.of_fields rfl rfl rfl
theorem Encoding.por (x) : Encoding.Statement (.por x) := Encoding.of_fields rfl rfl rfl
theorem Encoding.pxor (x) : Encoding.Statement (.pxor x) := Encoding.of_fields rfl rfl rfl
theorem Encoding.pnot (x) : Encoding.Statement (.pnot x) := Encoding.of_fields rfl rfl rfl
theorem Encoding.pmov (x) : Encoding.Statement (.pmov x) := Encoding.of_fields rfl rfl rfl
theorem Encoding.vote (x) : Encoding.Statement (.vote x) := Encoding.of_fields rfl rfl rfl
theorem Encoding.xlane (x) : Encoding.Statement (.xlane x) := Encoding.of_fields rfl rfl rfl
theorem Encoding.bcast (x) : Encoding.Statement (.bcast x) := Encoding.of_fields rfl rfl rfl
theorem Encoding.redx (x) : Encoding.Statement (.redx x) := Encoding.of_fields rfl rfl rfl
theorem Encoding.scanx (x) : Encoding.Statement (.scanx x) := Encoding.of_fields rfl rfl rfl
theorem Encoding.ballot (x) : Encoding.Statement (.ballot x) := Encoding.of_fields rfl rfl rfl
theorem Encoding.matchx (x) : Encoding.Statement (.matchx x) := Encoding.of_fields rfl rfl rfl
theorem Encoding.ld (x) : Encoding.Statement (.ld x) := Encoding.of_fields rfl rfl rfl
theorem Encoding.ldStrong (x) : Encoding.Statement (.ldStrong x) := Encoding.of_fields rfl rfl rfl
theorem Encoding.lds (x) : Encoding.Statement (.lds x) := Encoding.of_fields rfl rfl rfl
theorem Encoding.ldw (x) : Encoding.Statement (.ldw x) := Encoding.of_fields rfl rfl rfl
theorem Encoding.ldt (x) : Encoding.Statement (.ldt x) := Encoding.of_fields rfl rfl rfl
theorem Encoding.ldf (x) : Encoding.Statement (.ldf x) := Encoding.of_fields rfl rfl rfl
theorem Encoding.pref (x) : Encoding.Statement (.pref x) := Encoding.of_fields rfl rfl rfl
theorem Encoding.st (x) : Encoding.Statement (.st x) := Encoding.of_fields rfl rfl rfl
theorem Encoding.sts (x) : Encoding.Statement (.sts x) := Encoding.of_fields rfl rfl rfl
theorem Encoding.stt (x) : Encoding.Statement (.stt x) := Encoding.of_fields rfl rfl rfl
theorem Encoding.sete (x) : Encoding.Statement (.sete x) := Encoding.of_fields rfl rfl rfl
theorem Encoding.atom (x) : Encoding.Statement (.atom x) := Encoding.of_fields rfl rfl rfl
theorem Encoding.red (x) : Encoding.Statement (.red x) := Encoding.of_fields rfl rfl rfl
theorem Encoding.amaxswp (x) : Encoding.Statement (.amaxswp x) := Encoding.of_fields rfl rfl rfl
theorem Encoding.cmt (x) : Encoding.Statement (.cmt x) := Encoding.of_fields rfl rfl rfl
theorem Encoding.abt (x) : Encoding.Statement (.abt x) := Encoding.of_fields rfl rfl rfl
theorem Encoding.fence (x) : Encoding.Statement (.fence x) := Encoding.of_fields rfl rfl rfl
theorem Encoding.bar (x) : Encoding.Statement (.bar x) := Encoding.of_fields rfl rfl rfl
theorem Encoding.arrive (x) : Encoding.Statement (.arrive x) := Encoding.of_fields rfl rfl rfl
theorem Encoding.join (x) : Encoding.Statement (.join x) := Encoding.of_fields rfl rfl rfl
theorem Encoding.leave (x) : Encoding.Statement (.leave x) := Encoding.of_fields rfl rfl rfl
theorem Encoding.acopy (x) : Encoding.Statement (.acopy x) := Encoding.of_fields rfl rfl rfl
theorem Encoding.acopyg (x) : Encoding.Statement (.acopyg x) := Encoding.of_fields rfl rfl rfl
theorem Encoding.seal (x) : Encoding.Statement (.seal x) := Encoding.of_fields rfl rfl rfl
theorem Encoding.waitb (x) : Encoding.Statement (.waitb x) := Encoding.of_fields rfl rfl rfl
theorem Encoding.stage (x) : Encoding.Statement (.stage x) := Encoding.of_fields rfl rfl rfl
theorem Encoding.tiledef (x) : Encoding.Statement (.tiledef x) := Encoding.of_fields rfl rfl rfl
theorem Encoding.tiledefSt (x) : Encoding.Statement (.tiledefSt x) := Encoding.of_fields rfl rfl rfl
theorem Encoding.tilest (x) : Encoding.Statement (.tilest x) := Encoding.of_fields rfl rfl rfl
theorem Encoding.regclm (x) : Encoding.Statement (.regclm x) := Encoding.of_fields rfl rfl rfl
theorem Encoding.regrel (x) : Encoding.Statement (.regrel x) := Encoding.of_fields rfl rfl rfl
theorem Encoding.acclm (x) : Encoding.Statement (.acclm x) := Encoding.of_fields rfl rfl rfl
theorem Encoding.accrel (x) : Encoding.Statement (.accrel x) := Encoding.of_fields rfl rfl rfl
theorem Encoding.rquery (x) : Encoding.Statement (.rquery x) := Encoding.of_fields rfl rfl rfl
theorem Encoding.rayset (x) : Encoding.Statement (.rayset x) := Encoding.of_fields rfl rfl rfl
theorem Encoding.rayget (x) : Encoding.Statement (.rayget x) := Encoding.of_fields rfl rfl rfl
theorem Encoding.hitget (x) : Encoding.Statement (.hitget x) := Encoding.of_fields rfl rfl rfl
theorem Encoding.trace (x) : Encoding.Statement (.trace x) := Encoding.of_fields rfl rfl rfl
theorem Encoding.accept (x) : Encoding.Statement (.accept x) := Encoding.of_fields rfl rfl rfl
theorem Encoding.ignore (x) : Encoding.Statement (.ignore x) := Encoding.of_fields rfl rfl rfl
theorem Encoding.report (x) : Encoding.Statement (.report x) := Encoding.of_fields rfl rfl rfl
theorem Encoding.key (x) : Encoding.Statement (.key x) := Encoding.of_fields rfl rfl rfl
theorem Encoding.accum (x) : Encoding.Statement (.accum x) := Encoding.of_fields rfl rfl rfl
theorem Encoding.rng (x) : Encoding.Statement (.rng x) := Encoding.of_fields rfl rfl rfl
theorem Encoding.mma (x) : Encoding.Statement (.mma x) := Encoding.of_fields rfl rfl rfl
theorem Encoding.mmas (x) : Encoding.Statement (.mmas x) := Encoding.of_fields rfl rfl rfl
theorem Encoding.mld (x) : Encoding.Statement (.mld x) := Encoding.of_fields rfl rfl rfl
theorem Encoding.mst (x) : Encoding.Statement (.mst x) := Encoding.of_fields rfl rfl rfl
theorem Encoding.mstSp (x) : Encoding.Statement (.mstSp x) := Encoding.of_fields rfl rfl rfl
theorem Encoding.mzero (x) : Encoding.Statement (.mzero x) := Encoding.of_fields rfl rfl rfl
theorem Encoding.mzeroStat (x) : Encoding.Statement (.mzeroStat x) := Encoding.of_fields rfl rfl rfl
theorem Encoding.mcvt (x) : Encoding.Statement (.mcvt x) := Encoding.of_fields rfl rfl rfl
theorem Encoding.cbdec (x) : Encoding.Statement (.cbdec x) := Encoding.of_fields rfl rfl rfl
theorem Encoding.bscale (x) : Encoding.Statement (.bscale x) := Encoding.of_fields rfl rfl rfl
theorem Encoding.tex2 (x) : Encoding.Statement (.tex2 x) := Encoding.of_fields rfl rfl rfl
theorem Encoding.texg (x) : Encoding.Statement (.texg x) := Encoding.of_fields rfl rfl rfl
theorem Encoding.launch (x) : Encoding.Statement (.launch x) := Encoding.of_fields rfl rfl rfl
theorem Encoding.lwait (x) : Encoding.Statement (.lwait x) := Encoding.of_fields rfl rfl rfl
theorem Encoding.lwaitTest (x) : Encoding.Statement (.lwaitTest x) := Encoding.of_fields rfl rfl rfl
theorem Encoding.prog (x) : Encoding.Statement (.prog x) := Encoding.of_fields rfl rfl rfl
theorem Encoding.srd (x) : Encoding.Statement (.srd x) := Encoding.of_fields rfl rfl rfl
theorem Encoding.swr (x) : Encoding.Statement (.swr x) := Encoding.of_fields rfl rfl rfl
theorem Encoding.tret (x) : Encoding.Statement (.tret x) := Encoding.of_fields rfl rfl rfl
theorem Encoding.tlbinv (x) : Encoding.Statement (.tlbinv x) := Encoding.of_fields rfl rfl rfl
theorem Encoding.cinv (x) : Encoding.Statement (.cinv x) := Encoding.of_fields rfl rfl rfl
theorem Encoding.haltc (x) : Encoding.Statement (.haltc x) := Encoding.of_fields rfl rfl rfl
theorem Encoding.dump (x) : Encoding.Statement (.dump x) := Encoding.of_fields rfl rfl rfl
theorem Encoding.ctxsave (x) : Encoding.Statement (.ctxsave x) := Encoding.of_fields rfl rfl rfl
theorem Encoding.ctxload (x) : Encoding.Statement (.ctxload x) := Encoding.of_fields rfl rfl rfl
theorem Encoding.fqpop (x) : Encoding.Statement (.fqpop x) := Encoding.of_fields rfl rfl rfl
theorem Encoding.hostirq (x) : Encoding.Statement (.hostirq x) := Encoding.of_fields rfl rfl rfl
theorem Encoding.waiti (x) : Encoding.Statement (.waiti x) := Encoding.of_fields rfl rfl rfl
theorem Encoding.nopq : Encoding.Statement .nopq := Encoding.of_sfields rfl rfl rfl
theorem Encoding.haltq : Encoding.Statement .haltq := Encoding.of_sfields rfl rfl rfl
theorem Encoding.setq (x) : Encoding.Statement (.setq x) := Encoding.of_sfields rfl rfl rfl
theorem Encoding.movq (x) : Encoding.Statement (.movq x) := Encoding.of_sfields rfl rfl rfl
theorem Encoding.addq (x) : Encoding.Statement (.addq x) := Encoding.of_sfields rfl rfl rfl
theorem Encoding.cmpq (x) : Encoding.Statement (.cmpq x) := Encoding.of_sfields rfl rfl rfl
theorem Encoding.ldq (x) : Encoding.Statement (.ldq x) := Encoding.of_sfields rfl rfl rfl
theorem Encoding.brq (x) : Encoding.Statement (.brq x) := Encoding.of_sfields rfl rfl rfl
theorem Encoding.jmpq (off) : Encoding.Statement (.jmpq off) := Encoding.of_sfields rfl rfl rfl
theorem Encoding.callq (off) : Encoding.Statement (.callq off) := Encoding.of_sfields rfl rfl rfl
theorem Encoding.retq : Encoding.Statement .retq := Encoding.of_sfields rfl rfl rfl
theorem Encoding.bind (x) : Encoding.Statement (.bind x) := Encoding.of_sfields rfl rfl rfl
theorem Encoding.free (h) : Encoding.Statement (.free h) := Encoding.of_sfields rfl rfl rfl
theorem Encoding.fencet (sw) : Encoding.Statement (.fencet sw) := Encoding.of_sfields rfl rfl rfl
theorem Encoding.waite (x) : Encoding.Statement (.waite x) := Encoding.of_sfields rfl rfl rfl
theorem Encoding.signal (x) : Encoding.Statement (.signal x) := Encoding.of_sfields rfl rfl rfl
theorem Encoding.klaunch (x) : Encoding.Statement (.klaunch x) := Encoding.of_sfields rfl rfl rfl
theorem Encoding.rlaunch (x) : Encoding.Statement (.rlaunch x) := Encoding.of_sfields rfl rfl rfl
theorem Encoding.mmt (x) : Encoding.Statement (.mmt x) := Encoding.of_sfields rfl rfl rfl
theorem Encoding.cnvt (x) : Encoding.Statement (.cnvt x) := Encoding.of_sfields rfl rfl rfl
theorem Encoding.cpyt (x) : Encoding.Statement (.cpyt x) := Encoding.of_sfields rfl rfl rfl
theorem Encoding.redt (x) : Encoding.Statement (.redt x) := Encoding.of_sfields rfl rfl rfl
theorem Encoding.fillt (x) : Encoding.Statement (.fillt x) := Encoding.of_sfields rfl rfl rfl
theorem Encoding.amaxt (x) : Encoding.Statement (.amaxt x) := Encoding.of_sfields rfl rfl rfl
theorem Encoding.taskIssue (x) : Encoding.Statement (.taskIssue x) := Encoding.of_sfields rfl rfl rfl
theorem Encoding.tileTaskIssue (x) : Encoding.Statement (.tileTaskIssue x) := Encoding.of_sfields rfl rfl rfl
theorem Encoding.tileTaskComplete (x) : Encoding.Statement (.tileTaskComplete x) := Encoding.of_sfields rfl rfl rfl
theorem Encoding.taskComplete (x) : Encoding.Statement (.taskComplete x) := Encoding.of_sfields rfl rfl rfl
theorem Encoding.eventWaitSatisfied (x) : Encoding.Statement (.eventWaitSatisfied x) := Encoding.of_sfields rfl rfl rfl
theorem Encoding.entryRetire (ctx) : Encoding.Statement (.entryRetire ctx) := Encoding.of_sfields rfl rfl rfl
theorem Encoding.gangPlacement (part) : Encoding.Statement (.gangPlacement part) := Encoding.of_sfields rfl rfl rfl
theorem Encoding.gangFallbackExpiry (part) : Encoding.Statement (.gangFallbackExpiry part) := Encoding.of_sfields rfl rfl rfl
theorem Encoding.gangPriorityAge (part) : Encoding.Statement (.gangPriorityAge part) := Encoding.of_sfields rfl rfl rfl
theorem Encoding.clusterReservation (part) : Encoding.Statement (.clusterReservation part) := Encoding.of_sfields rfl rfl rfl
theorem Encoding.contextFairnessStop (part) : Encoding.Statement (.contextFairnessStop part) := Encoding.of_sfields rfl rfl rfl
theorem Encoding.contextFairnessRun (part) : Encoding.Statement (.contextFairnessRun part) := Encoding.of_sfields rfl rfl rfl
theorem Encoding.recordBinned (cl) : Encoding.Statement (.recordBinned cl) := Encoding.of_sfields rfl rfl rfl
theorem Encoding.spilledRecordReturn (cl) : Encoding.Statement (.spilledRecordReturn cl) := Encoding.of_sfields rfl rfl rfl
theorem Encoding.binAged (x) : Encoding.Statement (.binAged x) := Encoding.of_sfields rfl rfl rfl
theorem Encoding.binStarved (x) : Encoding.Statement (.binStarved x) := Encoding.of_sfields rfl rfl rfl
theorem Encoding.binIssue (x) : Encoding.Statement (.binIssue x) := Encoding.of_sfields rfl rfl rfl
theorem Encoding.dispatchComplete (x) : Encoding.Statement (.dispatchComplete x) := Encoding.of_sfields rfl rfl rfl
theorem Encoding.laneFiled (x) : Encoding.Statement (.laneFiled x) := Encoding.of_sfields rfl rfl rfl
theorem Encoding.basinAged (x) : Encoding.Statement (.basinAged x) := Encoding.of_sfields rfl rfl rfl
theorem Encoding.basinDraw (x) : Encoding.Statement (.basinDraw x) := Encoding.of_sfields rfl rfl rfl
theorem Encoding.elevatedPriority (x) : Encoding.Statement (.elevatedPriority x) := Encoding.of_sfields rfl rfl rfl
theorem Encoding.waveRotation (x) : Encoding.Statement (.waveRotation x) := Encoding.of_sfields rfl rfl rfl
theorem Encoding.rotatedWaveRestore (x) : Encoding.Statement (.rotatedWaveRestore x) := Encoding.of_sfields rfl rfl rfl
theorem Encoding.claimSatisfied (x) (acc) : Encoding.Statement (.claimSatisfied x acc) := Encoding.of_sfields rfl rfl rfl
theorem Encoding.deadlockDetect (x) : Encoding.Statement (.deadlockDetect x) := Encoding.of_sfields rfl rfl rfl
theorem Encoding.blockRestore (x) : Encoding.Statement (.blockRestore x) := Encoding.of_sfields rfl rfl rfl
theorem Encoding.awaitSample (x) : Encoding.Statement (.awaitSample x) := Encoding.of_sfields rfl rfl rfl
theorem Encoding.flagOpComplete (x) (k) : Encoding.Statement (.flagOpComplete x k) := Encoding.of_sfields rfl rfl rfl
theorem Encoding.copyComplete (x) : Encoding.Statement (.copyComplete x) := Encoding.of_sfields rfl rfl rfl
theorem Encoding.engineWriteComplete (x) (run) : Encoding.Statement (.engineWriteComplete x run) := Encoding.of_sfields rfl rfl rfl
theorem Encoding.stageCopyIssue (x) : Encoding.Statement (.stageCopyIssue x) := Encoding.of_sfields rfl rfl rfl
theorem Encoding.stashFillComplete (x) (line) : Encoding.Statement (.stashFillComplete x line) := Encoding.of_sfields rfl rfl rfl
theorem Encoding.stashRecall (x) (line) : Encoding.Statement (.stashRecall x line) := Encoding.of_sfields rfl rfl rfl
theorem Encoding.blockEnd (x) : Encoding.Statement (.blockEnd x) := Encoding.of_sfields rfl rfl rfl
theorem Encoding.cacheModeApply (cl) : Encoding.Statement (.cacheModeApply cl) := Encoding.of_sfields rfl rfl rfl
theorem Encoding.sareaApply (x) : Encoding.Statement (.sareaApply x) := Encoding.of_sfields rfl rfl rfl
theorem Encoding.rayRecordWrite (kid) : Encoding.Statement (.rayRecordWrite kid) := Encoding.of_sfields rfl rfl rfl
theorem Encoding.traversalRun (x) : Encoding.Statement (.traversalRun x) := Encoding.of_sfields rfl rfl rfl
theorem Encoding.treeletFetchComplete (x) : Encoding.Statement (.treeletFetchComplete x) := Encoding.of_sfields rfl rfl rfl
theorem Encoding.stepBudgetStop (x) : Encoding.Statement (.stepBudgetStop x) := Encoding.of_sfields rfl rfl rfl
theorem Encoding.gridEndingComplete (kid) : Encoding.Statement (.gridEndingComplete kid) := Encoding.of_sfields rfl rfl rfl
theorem Encoding.translationWalk (x) (ctx) (va) : Encoding.Statement (.translationWalk x ctx va) := Encoding.of_sfields rfl rfl rfl
theorem Encoding.eccErrorNoRequester (line) : Encoding.Statement (.eccErrorNoRequester line) := Encoding.of_sfields rfl rfl rfl
theorem Encoding.eccCorrectableError (line) : Encoding.Statement (.eccCorrectableError line) := Encoding.of_sfields rfl rfl rfl
theorem Encoding.handlerStart (f) : Encoding.Statement (.handlerStart f) := Encoding.of_sfields rfl rfl rfl
theorem Encoding.coreHalted (x) (ctx) : Encoding.Statement (.coreHalted x ctx) := Encoding.of_sfields rfl rfl rfl
theorem Encoding.contextSaved (ctx) : Encoding.Statement (.contextSaved ctx) := Encoding.of_sfields rfl rfl rfl
theorem Encoding.calloutGranTimeout (x) : Encoding.Statement (.calloutGranTimeout x) := Encoding.of_sfields rfl rfl rfl
theorem Encoding.contextRestored (ctx) : Encoding.Statement (.contextRestored ctx) := Encoding.of_sfields rfl rfl rfl
theorem Encoding.rillRequestReceive (tag) (payload) : Encoding.Statement (.rillRequestReceive tag payload) := Encoding.of_sfields rfl rfl rfl
theorem Encoding.rillResponseReceive (tag) : Encoding.Statement (.rillResponseReceive tag) := Encoding.of_sfields rfl rfl rfl
theorem Encoding.rillRetransmit (tag) : Encoding.Statement (.rillRetransmit tag) := Encoding.of_sfields rfl rfl rfl
theorem Encoding.rillLinkFailure : Encoding.Statement .rillLinkFailure := Encoding.of_sfields rfl rfl rfl
theorem Encoding.rillPaired (peer) (cap) (tick) (lanes) : Encoding.Statement (.rillPaired peer cap tick lanes) := Encoding.of_sfields rfl rfl rfl
theorem Encoding.mergePair (task) (addr) (x) : Encoding.Statement (.mergePair task addr x) := Encoding.of_sfields rfl rfl rfl
theorem Encoding.mergeFlush (task) : Encoding.Statement (.mergeFlush task) := Encoding.of_sfields rfl rfl rfl
theorem Encoding.bar2Write (off) (bytes) : Encoding.Statement (.bar2Write off bytes) := Encoding.of_sfields rfl rfl rfl
theorem Encoding.bar2Read (off) (n) : Encoding.Statement (.bar2Read off n) := Encoding.of_sfields rfl rfl rfl
theorem Encoding.registerWrite (x) : Encoding.Statement (.registerWrite x) := Encoding.of_sfields rfl rfl rfl
theorem Encoding.ctxReqRun (ctx) : Encoding.Statement (.ctxReqRun ctx) := Encoding.of_sfields rfl rfl rfl
theorem Encoding.ctxReqStop (ctx) : Encoding.Statement (.ctxReqStop ctx) := Encoding.of_sfields rfl rfl rfl
theorem Encoding.ctxBoundSet (ctx) (part) : Encoding.Statement (.ctxBoundSet ctx part) := Encoding.of_sfields rfl rfl rfl
theorem Encoding.ctxBoundClear (ctx) : Encoding.Statement (.ctxBoundClear ctx) := Encoding.of_sfields rfl rfl rfl
theorem Encoding.ctxWeightWrite (ctx) (w) : Encoding.Statement (.ctxWeightWrite ctx w) := Encoding.of_sfields rfl rfl rfl
theorem Encoding.streamResume (ctx) : Encoding.Statement (.streamResume ctx) := Encoding.of_sfields rfl rfl rfl
theorem Encoding.ctxSpcWrite (ctx) (x) : Encoding.Statement (.ctxSpcWrite ctx x) := Encoding.of_sfields rfl rfl rfl
theorem Encoding.streamLimitWrite (ctx) (x) : Encoding.Statement (.streamLimitWrite ctx x) := Encoding.of_sfields rfl rfl rfl
theorem Encoding.arenaWrite (ctx) (base) (size) : Encoding.Statement (.arenaWrite ctx base size) := Encoding.of_sfields rfl rfl rfl
theorem Encoding.partCfgWrite (f) (x) : Encoding.Statement (.partCfgWrite f x) := Encoding.of_sfields rfl rfl rfl
theorem Encoding.clModeWrite (cl) (x) : Encoding.Statement (.clModeWrite cl x) := Encoding.of_sfields rfl rfl rfl
theorem Encoding.residencyWrite (ctx) (n) (x) : Encoding.Statement (.residencyWrite ctx n x) := Encoding.of_sfields rfl rfl rfl
theorem Encoding.hostQdone (x) : Encoding.Statement (.hostQdone x) := Encoding.of_sfields rfl rfl rfl
theorem Encoding.hostQheadWrite (x) : Encoding.Statement (.hostQheadWrite x) := Encoding.of_sfields rfl rfl rfl
theorem Encoding.hostDoorbell (f) : Encoding.Statement (.hostDoorbell f) := Encoding.of_sfields rfl rfl rfl
theorem Encoding.hostSigpendClear (x) : Encoding.Statement (.hostSigpendClear x) := Encoding.of_sfields rfl rfl rfl
theorem Encoding.hostIrqpendClear (x) : Encoding.Statement (.hostIrqpendClear x) := Encoding.of_sfields rfl rfl rfl
theorem Encoding.rillPair : Encoding.Statement .rillPair := Encoding.of_sfields rfl rfl rfl
theorem Encoding.rillUnpair : Encoding.Statement .rillUnpair := Encoding.of_sfields rfl rfl rfl
theorem Encoding.devSkidWrite (x) : Encoding.Statement (.devSkidWrite x) := Encoding.of_sfields rfl rfl rfl
theorem Encoding.skidActive : Encoding.Statement .skidActive := Encoding.of_sfields rfl rfl rfl
theorem Encoding.skidDisarmApply : Encoding.Statement .skidDisarmApply := Encoding.of_sfields rfl rfl rfl
theorem Encoding.skidReplyCapture (cl) : Encoding.Statement (.skidReplyCapture cl) := Encoding.of_sfields rfl rfl rfl
theorem Encoding.dbgCtlWrite (ctx) (x) : Encoding.Statement (.dbgCtlWrite ctx x) := Encoding.of_sfields rfl rfl rfl
theorem Encoding.dbgTraceBaseWrite (ctx) (x) : Encoding.Statement (.dbgTraceBaseWrite ctx x) := Encoding.of_sfields rfl rfl rfl
theorem Encoding.dbgResume (cl) : Encoding.Statement (.dbgResume cl) := Encoding.of_sfields rfl rfl rfl
theorem Encoding.dbgStep (x) : Encoding.Statement (.dbgStep x) := Encoding.of_sfields rfl rfl rfl
theorem Encoding.dbgStepLane (x) : Encoding.Statement (.dbgStepLane x) := Encoding.of_sfields rfl rfl rfl
theorem Encoding.dbgArmStop : Encoding.Statement .dbgArmStop := Encoding.of_sfields rfl rfl rfl
theorem Encoding.dbgDisarm : Encoding.Statement .dbgDisarm := Encoding.of_sfields rfl rfl rfl
theorem Encoding.stepComplete (cl) : Encoding.Statement (.stepComplete cl) := Encoding.of_sfields rfl rfl rfl
theorem Encoding.stepTimeout (cl) : Encoding.Statement (.stepTimeout cl) := Encoding.of_sfields rfl rfl rfl
theorem Encoding.preciseStop : Encoding.Statement .preciseStop := Encoding.of_sfields rfl rfl rfl
theorem Encoding.sampleRecord (x) (ctx) : Encoding.Statement (.sampleRecord x ctx) := Encoding.of_sfields rfl rfl rfl
theorem Encoding.deviceReset : Encoding.Statement .deviceReset := Encoding.of_sfields rfl rfl rfl
theorem Encoding.memoryTrainingDone : Encoding.Statement .memoryTrainingDone := Encoding.of_sfields rfl rfl rfl
theorem Encoding.firmwareReady : Encoding.Statement .firmwareReady := Encoding.of_sfields rfl rfl rfl
theorem Encoding.bringupFailure : Encoding.Statement .bringupFailure := Encoding.of_sfields rfl rfl rfl
theorem Encoding.allowRecompute (a) : Encoding.Statement (.allowRecompute a) := Encoding.of_sfields rfl rfl rfl
theorem Encoding.thermalAlert (t) : Encoding.Statement (.thermalAlert t) := Encoding.of_sfields rfl rfl rfl
theorem Encoding.thermalHardLimit (t) : Encoding.Statement (.thermalHardLimit t) := Encoding.of_sfields rfl rfl rfl
theorem Encoding.thermalRecover (t) : Encoding.Statement (.thermalRecover t) := Encoding.of_sfields rfl rfl rfl
theorem Encoding.thermalShutdown (t) : Encoding.Statement (.thermalShutdown t) := Encoding.of_sfields rfl rfl rfl
theorem Encoding.hostReadComplete (x) : Encoding.Statement (.hostReadComplete x) := Encoding.of_sfields rfl rfl rfl
theorem Encoding.linkRetrain : Encoding.Statement .linkRetrain := Encoding.of_sfields rfl rfl rfl

end Sys2Proof.Laws
end

