-- ==== Sys2Proof/Laws/State.lean ====
section
/-! SUPPORT. What each named update of the state leaves as it was, and what reading the updated part gives. No proof
needs to unfold a record update. -/

namespace Sys2Proof.Machine

variable (s : State)

/-! ### updCore -/

@[simp] theorem State.updCore_tick (c : Nat) (f : Core → Core) : (s.updCore c f).tick = s.tick := rfl
@[simp] theorem State.updCore_mem (c : Nat) (f : Core → Core) : (s.updCore c f).mem = s.mem := rfl
@[simp] theorem State.updCore_clusters (c : Nat) (f : Core → Core) : (s.updCore c f).clusters = s.clusters := rfl
@[simp] theorem State.updCore_blocks (c : Nat) (f : Core → Core) : (s.updCore c f).blocks = s.blocks := rfl
@[simp] theorem State.updCore_gangs (c : Nat) (f : Core → Core) : (s.updCore c f).gangs = s.gangs := rfl
@[simp] theorem State.updCore_grids (c : Nat) (f : Core → Core) : (s.updCore c f).grids = s.grids := rfl
@[simp] theorem State.updCore_ctxs (c : Nat) (f : Core → Core) : (s.updCore c f).ctxs = s.ctxs := rfl
@[simp] theorem State.updCore_parts (c : Nat) (f : Core → Core) : (s.updCore c f).parts = s.parts := rfl
@[simp] theorem State.updCore_handlers (c : Nat) (f : Core → Core) : (s.updCore c f).handlers = s.handlers := rfl
@[simp] theorem State.updCore_dev (c : Nat) (f : Core → Core) : (s.updCore c f).dev = s.dev := rfl
@[simp] theorem State.updCore_rill (c : Nat) (f : Core → Core) : (s.updCore c f).rill = s.rill := rfl
@[simp] theorem State.updCore_pages (c : Nat) (f : Core → Core) : (s.updCore c f).pages = s.pages := rfl
@[simp] theorem State.updCore_images (c : Nat) (f : Core → Core) : (s.updCore c f).images = s.images := rfl
@[simp] theorem State.updCore_cc (c : Nat) (f : Core → Core) : (s.updCore c f).cc = s.cc := rfl
@[simp] theorem State.updCore_mside (c : Nat) (f : Core → Core) : (s.updCore c f).mside = s.mside := rfl
@[simp] theorem State.updCore_cur (c : Nat) (f : Core → Core) : (s.updCore c f).cur = s.cur := rfl
@[simp] theorem State.updCore_agenda (c : Nat) (f : Core → Core) : (s.updCore c f).agenda = s.agenda := rfl
@[simp] theorem State.updCore_fresh (c : Nat) (f : Core → Core) : (s.updCore c f).fresh = s.fresh := rfl
@[simp] theorem State.updCore_uids (c : Nat) (f : Core → Core) : (s.updCore c f).uids = s.uids := rfl
@[simp] theorem State.updCore_heard (c : Nat) (f : Core → Core) : (s.updCore c f).heard = s.heard := rfl
@[simp] theorem State.updCore_said (c : Nat) (f : Core → Core) : (s.updCore c f).said = s.said := rfl
@[simp] theorem State.updCore_cluster (c : Nat) (f : Core → Core) (n : Nat) : (s.updCore c f).cluster n = s.cluster n := rfl
@[simp] theorem State.updCore_ctx (c : Nat) (f : Core → Core) (n : Nat) : (s.updCore c f).ctx n = s.ctx n := rfl
@[simp] theorem State.updCore_part (c : Nat) (f : Core → Core) (n : Nat) : (s.updCore c f).part n = s.part n := rfl
@[simp] theorem State.updCore_handler (c : Nat) (f : Core → Core) (n : Nat) : (s.updCore c f).handler n = s.handler n := rfl

/-! ### updCluster -/

@[simp] theorem State.updCluster_tick (c : Nat) (f : Cluster → Cluster) : (s.updCluster c f).tick = s.tick := rfl
@[simp] theorem State.updCluster_mem (c : Nat) (f : Cluster → Cluster) : (s.updCluster c f).mem = s.mem := rfl
@[simp] theorem State.updCluster_cores (c : Nat) (f : Cluster → Cluster) : (s.updCluster c f).cores = s.cores := rfl
@[simp] theorem State.updCluster_blocks (c : Nat) (f : Cluster → Cluster) : (s.updCluster c f).blocks = s.blocks := rfl
@[simp] theorem State.updCluster_gangs (c : Nat) (f : Cluster → Cluster) : (s.updCluster c f).gangs = s.gangs := rfl
@[simp] theorem State.updCluster_grids (c : Nat) (f : Cluster → Cluster) : (s.updCluster c f).grids = s.grids := rfl
@[simp] theorem State.updCluster_ctxs (c : Nat) (f : Cluster → Cluster) : (s.updCluster c f).ctxs = s.ctxs := rfl
@[simp] theorem State.updCluster_parts (c : Nat) (f : Cluster → Cluster) : (s.updCluster c f).parts = s.parts := rfl
@[simp] theorem State.updCluster_handlers (c : Nat) (f : Cluster → Cluster) : (s.updCluster c f).handlers = s.handlers := rfl
@[simp] theorem State.updCluster_dev (c : Nat) (f : Cluster → Cluster) : (s.updCluster c f).dev = s.dev := rfl
@[simp] theorem State.updCluster_rill (c : Nat) (f : Cluster → Cluster) : (s.updCluster c f).rill = s.rill := rfl
@[simp] theorem State.updCluster_pages (c : Nat) (f : Cluster → Cluster) : (s.updCluster c f).pages = s.pages := rfl
@[simp] theorem State.updCluster_images (c : Nat) (f : Cluster → Cluster) : (s.updCluster c f).images = s.images := rfl
@[simp] theorem State.updCluster_cc (c : Nat) (f : Cluster → Cluster) : (s.updCluster c f).cc = s.cc := rfl
@[simp] theorem State.updCluster_mside (c : Nat) (f : Cluster → Cluster) : (s.updCluster c f).mside = s.mside := rfl
@[simp] theorem State.updCluster_cur (c : Nat) (f : Cluster → Cluster) : (s.updCluster c f).cur = s.cur := rfl
@[simp] theorem State.updCluster_agenda (c : Nat) (f : Cluster → Cluster) : (s.updCluster c f).agenda = s.agenda := rfl
@[simp] theorem State.updCluster_fresh (c : Nat) (f : Cluster → Cluster) : (s.updCluster c f).fresh = s.fresh := rfl
@[simp] theorem State.updCluster_uids (c : Nat) (f : Cluster → Cluster) : (s.updCluster c f).uids = s.uids := rfl
@[simp] theorem State.updCluster_heard (c : Nat) (f : Cluster → Cluster) : (s.updCluster c f).heard = s.heard := rfl
@[simp] theorem State.updCluster_said (c : Nat) (f : Cluster → Cluster) : (s.updCluster c f).said = s.said := rfl
@[simp] theorem State.updCluster_core (c : Nat) (f : Cluster → Cluster) (n : Nat) : (s.updCluster c f).core n = s.core n := rfl
@[simp] theorem State.updCluster_ctx (c : Nat) (f : Cluster → Cluster) (n : Nat) : (s.updCluster c f).ctx n = s.ctx n := rfl
@[simp] theorem State.updCluster_part (c : Nat) (f : Cluster → Cluster) (n : Nat) : (s.updCluster c f).part n = s.part n := rfl
@[simp] theorem State.updCluster_handler (c : Nat) (f : Cluster → Cluster) (n : Nat) : (s.updCluster c f).handler n = s.handler n := rfl

/-! ### updCtx -/

@[simp] theorem State.updCtx_tick (c : Nat) (f : Ctx → Ctx) : (s.updCtx c f).tick = s.tick := rfl
@[simp] theorem State.updCtx_mem (c : Nat) (f : Ctx → Ctx) : (s.updCtx c f).mem = s.mem := rfl
@[simp] theorem State.updCtx_cores (c : Nat) (f : Ctx → Ctx) : (s.updCtx c f).cores = s.cores := rfl
@[simp] theorem State.updCtx_clusters (c : Nat) (f : Ctx → Ctx) : (s.updCtx c f).clusters = s.clusters := rfl
@[simp] theorem State.updCtx_blocks (c : Nat) (f : Ctx → Ctx) : (s.updCtx c f).blocks = s.blocks := rfl
@[simp] theorem State.updCtx_gangs (c : Nat) (f : Ctx → Ctx) : (s.updCtx c f).gangs = s.gangs := rfl
@[simp] theorem State.updCtx_grids (c : Nat) (f : Ctx → Ctx) : (s.updCtx c f).grids = s.grids := rfl
@[simp] theorem State.updCtx_parts (c : Nat) (f : Ctx → Ctx) : (s.updCtx c f).parts = s.parts := rfl
@[simp] theorem State.updCtx_handlers (c : Nat) (f : Ctx → Ctx) : (s.updCtx c f).handlers = s.handlers := rfl
@[simp] theorem State.updCtx_dev (c : Nat) (f : Ctx → Ctx) : (s.updCtx c f).dev = s.dev := rfl
@[simp] theorem State.updCtx_rill (c : Nat) (f : Ctx → Ctx) : (s.updCtx c f).rill = s.rill := rfl
@[simp] theorem State.updCtx_pages (c : Nat) (f : Ctx → Ctx) : (s.updCtx c f).pages = s.pages := rfl
@[simp] theorem State.updCtx_images (c : Nat) (f : Ctx → Ctx) : (s.updCtx c f).images = s.images := rfl
@[simp] theorem State.updCtx_cc (c : Nat) (f : Ctx → Ctx) : (s.updCtx c f).cc = s.cc := rfl
@[simp] theorem State.updCtx_mside (c : Nat) (f : Ctx → Ctx) : (s.updCtx c f).mside = s.mside := rfl
@[simp] theorem State.updCtx_cur (c : Nat) (f : Ctx → Ctx) : (s.updCtx c f).cur = s.cur := rfl
@[simp] theorem State.updCtx_agenda (c : Nat) (f : Ctx → Ctx) : (s.updCtx c f).agenda = s.agenda := rfl
@[simp] theorem State.updCtx_fresh (c : Nat) (f : Ctx → Ctx) : (s.updCtx c f).fresh = s.fresh := rfl
@[simp] theorem State.updCtx_uids (c : Nat) (f : Ctx → Ctx) : (s.updCtx c f).uids = s.uids := rfl
@[simp] theorem State.updCtx_heard (c : Nat) (f : Ctx → Ctx) : (s.updCtx c f).heard = s.heard := rfl
@[simp] theorem State.updCtx_said (c : Nat) (f : Ctx → Ctx) : (s.updCtx c f).said = s.said := rfl
@[simp] theorem State.updCtx_core (c : Nat) (f : Ctx → Ctx) (n : Nat) : (s.updCtx c f).core n = s.core n := rfl
@[simp] theorem State.updCtx_cluster (c : Nat) (f : Ctx → Ctx) (n : Nat) : (s.updCtx c f).cluster n = s.cluster n := rfl
@[simp] theorem State.updCtx_part (c : Nat) (f : Ctx → Ctx) (n : Nat) : (s.updCtx c f).part n = s.part n := rfl
@[simp] theorem State.updCtx_handler (c : Nat) (f : Ctx → Ctx) (n : Nat) : (s.updCtx c f).handler n = s.handler n := rfl

/-! ### updPart -/

@[simp] theorem State.updPart_tick (c : Nat) (f : Part → Part) : (s.updPart c f).tick = s.tick := rfl
@[simp] theorem State.updPart_mem (c : Nat) (f : Part → Part) : (s.updPart c f).mem = s.mem := rfl
@[simp] theorem State.updPart_cores (c : Nat) (f : Part → Part) : (s.updPart c f).cores = s.cores := rfl
@[simp] theorem State.updPart_clusters (c : Nat) (f : Part → Part) : (s.updPart c f).clusters = s.clusters := rfl
@[simp] theorem State.updPart_blocks (c : Nat) (f : Part → Part) : (s.updPart c f).blocks = s.blocks := rfl
@[simp] theorem State.updPart_gangs (c : Nat) (f : Part → Part) : (s.updPart c f).gangs = s.gangs := rfl
@[simp] theorem State.updPart_grids (c : Nat) (f : Part → Part) : (s.updPart c f).grids = s.grids := rfl
@[simp] theorem State.updPart_ctxs (c : Nat) (f : Part → Part) : (s.updPart c f).ctxs = s.ctxs := rfl
@[simp] theorem State.updPart_handlers (c : Nat) (f : Part → Part) : (s.updPart c f).handlers = s.handlers := rfl
@[simp] theorem State.updPart_dev (c : Nat) (f : Part → Part) : (s.updPart c f).dev = s.dev := rfl
@[simp] theorem State.updPart_rill (c : Nat) (f : Part → Part) : (s.updPart c f).rill = s.rill := rfl
@[simp] theorem State.updPart_pages (c : Nat) (f : Part → Part) : (s.updPart c f).pages = s.pages := rfl
@[simp] theorem State.updPart_images (c : Nat) (f : Part → Part) : (s.updPart c f).images = s.images := rfl
@[simp] theorem State.updPart_cc (c : Nat) (f : Part → Part) : (s.updPart c f).cc = s.cc := rfl
@[simp] theorem State.updPart_mside (c : Nat) (f : Part → Part) : (s.updPart c f).mside = s.mside := rfl
@[simp] theorem State.updPart_cur (c : Nat) (f : Part → Part) : (s.updPart c f).cur = s.cur := rfl
@[simp] theorem State.updPart_agenda (c : Nat) (f : Part → Part) : (s.updPart c f).agenda = s.agenda := rfl
@[simp] theorem State.updPart_fresh (c : Nat) (f : Part → Part) : (s.updPart c f).fresh = s.fresh := rfl
@[simp] theorem State.updPart_uids (c : Nat) (f : Part → Part) : (s.updPart c f).uids = s.uids := rfl
@[simp] theorem State.updPart_heard (c : Nat) (f : Part → Part) : (s.updPart c f).heard = s.heard := rfl
@[simp] theorem State.updPart_said (c : Nat) (f : Part → Part) : (s.updPart c f).said = s.said := rfl
@[simp] theorem State.updPart_core (c : Nat) (f : Part → Part) (n : Nat) : (s.updPart c f).core n = s.core n := rfl
@[simp] theorem State.updPart_cluster (c : Nat) (f : Part → Part) (n : Nat) : (s.updPart c f).cluster n = s.cluster n := rfl
@[simp] theorem State.updPart_ctx (c : Nat) (f : Part → Part) (n : Nat) : (s.updPart c f).ctx n = s.ctx n := rfl
@[simp] theorem State.updPart_handler (c : Nat) (f : Part → Part) (n : Nat) : (s.updPart c f).handler n = s.handler n := rfl

/-! ### updHandler -/

@[simp] theorem State.updHandler_tick (c : Nat) (f : Handler → Handler) : (s.updHandler c f).tick = s.tick := rfl
@[simp] theorem State.updHandler_mem (c : Nat) (f : Handler → Handler) : (s.updHandler c f).mem = s.mem := rfl
@[simp] theorem State.updHandler_cores (c : Nat) (f : Handler → Handler) : (s.updHandler c f).cores = s.cores := rfl
@[simp] theorem State.updHandler_clusters (c : Nat) (f : Handler → Handler) : (s.updHandler c f).clusters = s.clusters := rfl
@[simp] theorem State.updHandler_blocks (c : Nat) (f : Handler → Handler) : (s.updHandler c f).blocks = s.blocks := rfl
@[simp] theorem State.updHandler_gangs (c : Nat) (f : Handler → Handler) : (s.updHandler c f).gangs = s.gangs := rfl
@[simp] theorem State.updHandler_grids (c : Nat) (f : Handler → Handler) : (s.updHandler c f).grids = s.grids := rfl
@[simp] theorem State.updHandler_ctxs (c : Nat) (f : Handler → Handler) : (s.updHandler c f).ctxs = s.ctxs := rfl
@[simp] theorem State.updHandler_parts (c : Nat) (f : Handler → Handler) : (s.updHandler c f).parts = s.parts := rfl
@[simp] theorem State.updHandler_dev (c : Nat) (f : Handler → Handler) : (s.updHandler c f).dev = s.dev := rfl
@[simp] theorem State.updHandler_rill (c : Nat) (f : Handler → Handler) : (s.updHandler c f).rill = s.rill := rfl
@[simp] theorem State.updHandler_pages (c : Nat) (f : Handler → Handler) : (s.updHandler c f).pages = s.pages := rfl
@[simp] theorem State.updHandler_images (c : Nat) (f : Handler → Handler) : (s.updHandler c f).images = s.images := rfl
@[simp] theorem State.updHandler_cc (c : Nat) (f : Handler → Handler) : (s.updHandler c f).cc = s.cc := rfl
@[simp] theorem State.updHandler_mside (c : Nat) (f : Handler → Handler) : (s.updHandler c f).mside = s.mside := rfl
@[simp] theorem State.updHandler_cur (c : Nat) (f : Handler → Handler) : (s.updHandler c f).cur = s.cur := rfl
@[simp] theorem State.updHandler_agenda (c : Nat) (f : Handler → Handler) : (s.updHandler c f).agenda = s.agenda := rfl
@[simp] theorem State.updHandler_fresh (c : Nat) (f : Handler → Handler) : (s.updHandler c f).fresh = s.fresh := rfl
@[simp] theorem State.updHandler_uids (c : Nat) (f : Handler → Handler) : (s.updHandler c f).uids = s.uids := rfl
@[simp] theorem State.updHandler_heard (c : Nat) (f : Handler → Handler) : (s.updHandler c f).heard = s.heard := rfl
@[simp] theorem State.updHandler_said (c : Nat) (f : Handler → Handler) : (s.updHandler c f).said = s.said := rfl
@[simp] theorem State.updHandler_core (c : Nat) (f : Handler → Handler) (n : Nat) : (s.updHandler c f).core n = s.core n := rfl
@[simp] theorem State.updHandler_cluster (c : Nat) (f : Handler → Handler) (n : Nat) : (s.updHandler c f).cluster n = s.cluster n := rfl
@[simp] theorem State.updHandler_ctx (c : Nat) (f : Handler → Handler) (n : Nat) : (s.updHandler c f).ctx n = s.ctx n := rfl
@[simp] theorem State.updHandler_part (c : Nat) (f : Handler → Handler) (n : Nat) : (s.updHandler c f).part n = s.part n := rfl

/-! ### updGrid -/

@[simp] theorem State.updGrid_tick (k : Nat) (f : Grid → Grid) : (s.updGrid k f).tick = s.tick := rfl
@[simp] theorem State.updGrid_mem (k : Nat) (f : Grid → Grid) : (s.updGrid k f).mem = s.mem := rfl
@[simp] theorem State.updGrid_cores (k : Nat) (f : Grid → Grid) : (s.updGrid k f).cores = s.cores := rfl
@[simp] theorem State.updGrid_clusters (k : Nat) (f : Grid → Grid) : (s.updGrid k f).clusters = s.clusters := rfl
@[simp] theorem State.updGrid_blocks (k : Nat) (f : Grid → Grid) : (s.updGrid k f).blocks = s.blocks := rfl
@[simp] theorem State.updGrid_gangs (k : Nat) (f : Grid → Grid) : (s.updGrid k f).gangs = s.gangs := rfl
@[simp] theorem State.updGrid_ctxs (k : Nat) (f : Grid → Grid) : (s.updGrid k f).ctxs = s.ctxs := rfl
@[simp] theorem State.updGrid_parts (k : Nat) (f : Grid → Grid) : (s.updGrid k f).parts = s.parts := rfl
@[simp] theorem State.updGrid_handlers (k : Nat) (f : Grid → Grid) : (s.updGrid k f).handlers = s.handlers := rfl
@[simp] theorem State.updGrid_dev (k : Nat) (f : Grid → Grid) : (s.updGrid k f).dev = s.dev := rfl
@[simp] theorem State.updGrid_rill (k : Nat) (f : Grid → Grid) : (s.updGrid k f).rill = s.rill := rfl
@[simp] theorem State.updGrid_pages (k : Nat) (f : Grid → Grid) : (s.updGrid k f).pages = s.pages := rfl
@[simp] theorem State.updGrid_images (k : Nat) (f : Grid → Grid) : (s.updGrid k f).images = s.images := rfl
@[simp] theorem State.updGrid_cc (k : Nat) (f : Grid → Grid) : (s.updGrid k f).cc = s.cc := rfl
@[simp] theorem State.updGrid_mside (k : Nat) (f : Grid → Grid) : (s.updGrid k f).mside = s.mside := rfl
@[simp] theorem State.updGrid_cur (k : Nat) (f : Grid → Grid) : (s.updGrid k f).cur = s.cur := rfl
@[simp] theorem State.updGrid_agenda (k : Nat) (f : Grid → Grid) : (s.updGrid k f).agenda = s.agenda := rfl
@[simp] theorem State.updGrid_fresh (k : Nat) (f : Grid → Grid) : (s.updGrid k f).fresh = s.fresh := rfl
@[simp] theorem State.updGrid_uids (k : Nat) (f : Grid → Grid) : (s.updGrid k f).uids = s.uids := rfl
@[simp] theorem State.updGrid_heard (k : Nat) (f : Grid → Grid) : (s.updGrid k f).heard = s.heard := rfl
@[simp] theorem State.updGrid_said (k : Nat) (f : Grid → Grid) : (s.updGrid k f).said = s.said := rfl
@[simp] theorem State.updGrid_core (k : Nat) (f : Grid → Grid) (n : Nat) : (s.updGrid k f).core n = s.core n := rfl
@[simp] theorem State.updGrid_cluster (k : Nat) (f : Grid → Grid) (n : Nat) : (s.updGrid k f).cluster n = s.cluster n := rfl
@[simp] theorem State.updGrid_ctx (k : Nat) (f : Grid → Grid) (n : Nat) : (s.updGrid k f).ctx n = s.ctx n := rfl
@[simp] theorem State.updGrid_part (k : Nat) (f : Grid → Grid) (n : Nat) : (s.updGrid k f).part n = s.part n := rfl
@[simp] theorem State.updGrid_handler (k : Nat) (f : Grid → Grid) (n : Nat) : (s.updGrid k f).handler n = s.handler n := rfl

/-! ### updBlock -/

@[simp] theorem State.updBlock_tick (k : Nat) (f : Block → Block) : (s.updBlock k f).tick = s.tick := rfl
@[simp] theorem State.updBlock_mem (k : Nat) (f : Block → Block) : (s.updBlock k f).mem = s.mem := rfl
@[simp] theorem State.updBlock_cores (k : Nat) (f : Block → Block) : (s.updBlock k f).cores = s.cores := rfl
@[simp] theorem State.updBlock_clusters (k : Nat) (f : Block → Block) : (s.updBlock k f).clusters = s.clusters := rfl
@[simp] theorem State.updBlock_gangs (k : Nat) (f : Block → Block) : (s.updBlock k f).gangs = s.gangs := rfl
@[simp] theorem State.updBlock_grids (k : Nat) (f : Block → Block) : (s.updBlock k f).grids = s.grids := rfl
@[simp] theorem State.updBlock_ctxs (k : Nat) (f : Block → Block) : (s.updBlock k f).ctxs = s.ctxs := rfl
@[simp] theorem State.updBlock_parts (k : Nat) (f : Block → Block) : (s.updBlock k f).parts = s.parts := rfl
@[simp] theorem State.updBlock_handlers (k : Nat) (f : Block → Block) : (s.updBlock k f).handlers = s.handlers := rfl
@[simp] theorem State.updBlock_dev (k : Nat) (f : Block → Block) : (s.updBlock k f).dev = s.dev := rfl
@[simp] theorem State.updBlock_rill (k : Nat) (f : Block → Block) : (s.updBlock k f).rill = s.rill := rfl
@[simp] theorem State.updBlock_pages (k : Nat) (f : Block → Block) : (s.updBlock k f).pages = s.pages := rfl
@[simp] theorem State.updBlock_images (k : Nat) (f : Block → Block) : (s.updBlock k f).images = s.images := rfl
@[simp] theorem State.updBlock_cc (k : Nat) (f : Block → Block) : (s.updBlock k f).cc = s.cc := rfl
@[simp] theorem State.updBlock_mside (k : Nat) (f : Block → Block) : (s.updBlock k f).mside = s.mside := rfl
@[simp] theorem State.updBlock_cur (k : Nat) (f : Block → Block) : (s.updBlock k f).cur = s.cur := rfl
@[simp] theorem State.updBlock_agenda (k : Nat) (f : Block → Block) : (s.updBlock k f).agenda = s.agenda := rfl
@[simp] theorem State.updBlock_fresh (k : Nat) (f : Block → Block) : (s.updBlock k f).fresh = s.fresh := rfl
@[simp] theorem State.updBlock_uids (k : Nat) (f : Block → Block) : (s.updBlock k f).uids = s.uids := rfl
@[simp] theorem State.updBlock_heard (k : Nat) (f : Block → Block) : (s.updBlock k f).heard = s.heard := rfl
@[simp] theorem State.updBlock_said (k : Nat) (f : Block → Block) : (s.updBlock k f).said = s.said := rfl
@[simp] theorem State.updBlock_core (k : Nat) (f : Block → Block) (n : Nat) : (s.updBlock k f).core n = s.core n := rfl
@[simp] theorem State.updBlock_cluster (k : Nat) (f : Block → Block) (n : Nat) : (s.updBlock k f).cluster n = s.cluster n := rfl
@[simp] theorem State.updBlock_ctx (k : Nat) (f : Block → Block) (n : Nat) : (s.updBlock k f).ctx n = s.ctx n := rfl
@[simp] theorem State.updBlock_part (k : Nat) (f : Block → Block) (n : Nat) : (s.updBlock k f).part n = s.part n := rfl
@[simp] theorem State.updBlock_handler (k : Nat) (f : Block → Block) (n : Nat) : (s.updBlock k f).handler n = s.handler n := rfl

/-! ### updGang -/

@[simp] theorem State.updGang_tick (k : Nat) (f : Gang → Gang) : (s.updGang k f).tick = s.tick := rfl
@[simp] theorem State.updGang_mem (k : Nat) (f : Gang → Gang) : (s.updGang k f).mem = s.mem := rfl
@[simp] theorem State.updGang_cores (k : Nat) (f : Gang → Gang) : (s.updGang k f).cores = s.cores := rfl
@[simp] theorem State.updGang_clusters (k : Nat) (f : Gang → Gang) : (s.updGang k f).clusters = s.clusters := rfl
@[simp] theorem State.updGang_blocks (k : Nat) (f : Gang → Gang) : (s.updGang k f).blocks = s.blocks := rfl
@[simp] theorem State.updGang_grids (k : Nat) (f : Gang → Gang) : (s.updGang k f).grids = s.grids := rfl
@[simp] theorem State.updGang_ctxs (k : Nat) (f : Gang → Gang) : (s.updGang k f).ctxs = s.ctxs := rfl
@[simp] theorem State.updGang_parts (k : Nat) (f : Gang → Gang) : (s.updGang k f).parts = s.parts := rfl
@[simp] theorem State.updGang_handlers (k : Nat) (f : Gang → Gang) : (s.updGang k f).handlers = s.handlers := rfl
@[simp] theorem State.updGang_dev (k : Nat) (f : Gang → Gang) : (s.updGang k f).dev = s.dev := rfl
@[simp] theorem State.updGang_rill (k : Nat) (f : Gang → Gang) : (s.updGang k f).rill = s.rill := rfl
@[simp] theorem State.updGang_pages (k : Nat) (f : Gang → Gang) : (s.updGang k f).pages = s.pages := rfl
@[simp] theorem State.updGang_images (k : Nat) (f : Gang → Gang) : (s.updGang k f).images = s.images := rfl
@[simp] theorem State.updGang_cc (k : Nat) (f : Gang → Gang) : (s.updGang k f).cc = s.cc := rfl
@[simp] theorem State.updGang_mside (k : Nat) (f : Gang → Gang) : (s.updGang k f).mside = s.mside := rfl
@[simp] theorem State.updGang_cur (k : Nat) (f : Gang → Gang) : (s.updGang k f).cur = s.cur := rfl
@[simp] theorem State.updGang_agenda (k : Nat) (f : Gang → Gang) : (s.updGang k f).agenda = s.agenda := rfl
@[simp] theorem State.updGang_fresh (k : Nat) (f : Gang → Gang) : (s.updGang k f).fresh = s.fresh := rfl
@[simp] theorem State.updGang_uids (k : Nat) (f : Gang → Gang) : (s.updGang k f).uids = s.uids := rfl
@[simp] theorem State.updGang_heard (k : Nat) (f : Gang → Gang) : (s.updGang k f).heard = s.heard := rfl
@[simp] theorem State.updGang_said (k : Nat) (f : Gang → Gang) : (s.updGang k f).said = s.said := rfl
@[simp] theorem State.updGang_core (k : Nat) (f : Gang → Gang) (n : Nat) : (s.updGang k f).core n = s.core n := rfl
@[simp] theorem State.updGang_cluster (k : Nat) (f : Gang → Gang) (n : Nat) : (s.updGang k f).cluster n = s.cluster n := rfl
@[simp] theorem State.updGang_ctx (k : Nat) (f : Gang → Gang) (n : Nat) : (s.updGang k f).ctx n = s.ctx n := rfl
@[simp] theorem State.updGang_part (k : Nat) (f : Gang → Gang) (n : Nat) : (s.updGang k f).part n = s.part n := rfl
@[simp] theorem State.updGang_handler (k : Nat) (f : Gang → Gang) (n : Nat) : (s.updGang k f).handler n = s.handler n := rfl

/-! ### setDev -/

@[simp] theorem State.setDev_tick (d : Device) : (s.setDev d).tick = s.tick := rfl
@[simp] theorem State.setDev_mem (d : Device) : (s.setDev d).mem = s.mem := rfl
@[simp] theorem State.setDev_cores (d : Device) : (s.setDev d).cores = s.cores := rfl
@[simp] theorem State.setDev_clusters (d : Device) : (s.setDev d).clusters = s.clusters := rfl
@[simp] theorem State.setDev_blocks (d : Device) : (s.setDev d).blocks = s.blocks := rfl
@[simp] theorem State.setDev_gangs (d : Device) : (s.setDev d).gangs = s.gangs := rfl
@[simp] theorem State.setDev_grids (d : Device) : (s.setDev d).grids = s.grids := rfl
@[simp] theorem State.setDev_ctxs (d : Device) : (s.setDev d).ctxs = s.ctxs := rfl
@[simp] theorem State.setDev_parts (d : Device) : (s.setDev d).parts = s.parts := rfl
@[simp] theorem State.setDev_handlers (d : Device) : (s.setDev d).handlers = s.handlers := rfl
@[simp] theorem State.setDev_rill (d : Device) : (s.setDev d).rill = s.rill := rfl
@[simp] theorem State.setDev_pages (d : Device) : (s.setDev d).pages = s.pages := rfl
@[simp] theorem State.setDev_images (d : Device) : (s.setDev d).images = s.images := rfl
@[simp] theorem State.setDev_cc (d : Device) : (s.setDev d).cc = s.cc := rfl
@[simp] theorem State.setDev_mside (d : Device) : (s.setDev d).mside = s.mside := rfl
@[simp] theorem State.setDev_cur (d : Device) : (s.setDev d).cur = s.cur := rfl
@[simp] theorem State.setDev_agenda (d : Device) : (s.setDev d).agenda = s.agenda := rfl
@[simp] theorem State.setDev_fresh (d : Device) : (s.setDev d).fresh = s.fresh := rfl
@[simp] theorem State.setDev_uids (d : Device) : (s.setDev d).uids = s.uids := rfl
@[simp] theorem State.setDev_heard (d : Device) : (s.setDev d).heard = s.heard := rfl
@[simp] theorem State.setDev_said (d : Device) : (s.setDev d).said = s.said := rfl
@[simp] theorem State.setDev_core (d : Device) (n : Nat) : (s.setDev d).core n = s.core n := rfl
@[simp] theorem State.setDev_cluster (d : Device) (n : Nat) : (s.setDev d).cluster n = s.cluster n := rfl
@[simp] theorem State.setDev_ctx (d : Device) (n : Nat) : (s.setDev d).ctx n = s.ctx n := rfl
@[simp] theorem State.setDev_part (d : Device) (n : Nat) : (s.setDev d).part n = s.part n := rfl
@[simp] theorem State.setDev_handler (d : Device) (n : Nat) : (s.setDev d).handler n = s.handler n := rfl

/-! ### updRill -/

@[simp] theorem State.updRill_tick (f : Rill → Rill) : (s.updRill f).tick = s.tick := rfl
@[simp] theorem State.updRill_mem (f : Rill → Rill) : (s.updRill f).mem = s.mem := rfl
@[simp] theorem State.updRill_cores (f : Rill → Rill) : (s.updRill f).cores = s.cores := rfl
@[simp] theorem State.updRill_clusters (f : Rill → Rill) : (s.updRill f).clusters = s.clusters := rfl
@[simp] theorem State.updRill_blocks (f : Rill → Rill) : (s.updRill f).blocks = s.blocks := rfl
@[simp] theorem State.updRill_gangs (f : Rill → Rill) : (s.updRill f).gangs = s.gangs := rfl
@[simp] theorem State.updRill_grids (f : Rill → Rill) : (s.updRill f).grids = s.grids := rfl
@[simp] theorem State.updRill_ctxs (f : Rill → Rill) : (s.updRill f).ctxs = s.ctxs := rfl
@[simp] theorem State.updRill_parts (f : Rill → Rill) : (s.updRill f).parts = s.parts := rfl
@[simp] theorem State.updRill_handlers (f : Rill → Rill) : (s.updRill f).handlers = s.handlers := rfl
@[simp] theorem State.updRill_dev (f : Rill → Rill) : (s.updRill f).dev = s.dev := rfl
@[simp] theorem State.updRill_pages (f : Rill → Rill) : (s.updRill f).pages = s.pages := rfl
@[simp] theorem State.updRill_images (f : Rill → Rill) : (s.updRill f).images = s.images := rfl
@[simp] theorem State.updRill_cc (f : Rill → Rill) : (s.updRill f).cc = s.cc := rfl
@[simp] theorem State.updRill_mside (f : Rill → Rill) : (s.updRill f).mside = s.mside := rfl
@[simp] theorem State.updRill_cur (f : Rill → Rill) : (s.updRill f).cur = s.cur := rfl
@[simp] theorem State.updRill_agenda (f : Rill → Rill) : (s.updRill f).agenda = s.agenda := rfl
@[simp] theorem State.updRill_fresh (f : Rill → Rill) : (s.updRill f).fresh = s.fresh := rfl
@[simp] theorem State.updRill_uids (f : Rill → Rill) : (s.updRill f).uids = s.uids := rfl
@[simp] theorem State.updRill_heard (f : Rill → Rill) : (s.updRill f).heard = s.heard := rfl
@[simp] theorem State.updRill_said (f : Rill → Rill) : (s.updRill f).said = s.said := rfl
@[simp] theorem State.updRill_core (f : Rill → Rill) (n : Nat) : (s.updRill f).core n = s.core n := rfl
@[simp] theorem State.updRill_cluster (f : Rill → Rill) (n : Nat) : (s.updRill f).cluster n = s.cluster n := rfl
@[simp] theorem State.updRill_ctx (f : Rill → Rill) (n : Nat) : (s.updRill f).ctx n = s.ctx n := rfl
@[simp] theorem State.updRill_part (f : Rill → Rill) (n : Nat) : (s.updRill f).part n = s.part n := rfl
@[simp] theorem State.updRill_handler (f : Rill → Rill) (n : Nat) : (s.updRill f).handler n = s.handler n := rfl

/-! ### Reading what was updated -/

@[simp] theorem State.length_updCore (c : Nat) (f : Core → Core) : (s.updCore c f).cores.length = s.cores.length :=
  length_listUpd _ _ _

theorem State.core_updCore_of_ne {c n : Nat} (f : Core → Core) (h : n ≠ c) : (s.updCore c f).core n = s.core n :=
  listGet_listUpd_of_ne _ _ _ h

theorem State.core_updCore_self (c : Nat) (f : Core → Core) (h : c < s.cores.length) :
    (s.updCore c f).core c = f (s.core c) := listGet_listUpd_self _ _ _ _ h

@[simp] theorem State.length_updCluster (c : Nat) (f : Cluster → Cluster) : (s.updCluster c f).clusters.length = s.clusters.length :=
  length_listUpd _ _ _

theorem State.cluster_updCluster_of_ne {c n : Nat} (f : Cluster → Cluster) (h : n ≠ c) : (s.updCluster c f).cluster n = s.cluster n :=
  listGet_listUpd_of_ne _ _ _ h

theorem State.cluster_updCluster_self (c : Nat) (f : Cluster → Cluster) (h : c < s.clusters.length) :
    (s.updCluster c f).cluster c = f (s.cluster c) := listGet_listUpd_self _ _ _ _ h

@[simp] theorem State.length_updCtx (c : Nat) (f : Ctx → Ctx) : (s.updCtx c f).ctxs.length = s.ctxs.length :=
  length_listUpd _ _ _

theorem State.ctx_updCtx_of_ne {c n : Nat} (f : Ctx → Ctx) (h : n ≠ c) : (s.updCtx c f).ctx n = s.ctx n :=
  listGet_listUpd_of_ne _ _ _ h

theorem State.ctx_updCtx_self (c : Nat) (f : Ctx → Ctx) (h : c < s.ctxs.length) :
    (s.updCtx c f).ctx c = f (s.ctx c) := listGet_listUpd_self _ _ _ _ h

@[simp] theorem State.length_updPart (c : Nat) (f : Part → Part) : (s.updPart c f).parts.length = s.parts.length :=
  length_listUpd _ _ _

theorem State.part_updPart_of_ne {c n : Nat} (f : Part → Part) (h : n ≠ c) : (s.updPart c f).part n = s.part n :=
  listGet_listUpd_of_ne _ _ _ h

theorem State.part_updPart_self (c : Nat) (f : Part → Part) (h : c < s.parts.length) :
    (s.updPart c f).part c = f (s.part c) := listGet_listUpd_self _ _ _ _ h

@[simp] theorem State.length_updHandler (c : Nat) (f : Handler → Handler) : (s.updHandler c f).handlers.length = s.handlers.length :=
  length_listUpd _ _ _

theorem State.handler_updHandler_of_ne {c n : Nat} (f : Handler → Handler) (h : n ≠ c) : (s.updHandler c f).handler n = s.handler n :=
  listGet_listUpd_of_ne _ _ _ h

theorem State.handler_updHandler_self (c : Nat) (f : Handler → Handler) (h : c < s.handlers.length) :
    (s.updHandler c f).handler c = f (s.handler c) := listGet_listUpd_self _ _ _ _ h

theorem State.get?_updGrid (k n : Nat) (f : Grid → Grid) :
    Table.get? (s.updGrid k f).grids n = if n = k then (Table.get? s.grids n).map f else Table.get? s.grids n :=
  Table.get?_upd _ _ _ _

theorem State.get?_updBlock (k n : Nat) (f : Block → Block) :
    Table.get? (s.updBlock k f).blocks n = if n = k then (Table.get? s.blocks n).map f else Table.get? s.blocks n :=
  Table.get?_upd _ _ _ _

theorem State.get?_updGang (k n : Nat) (f : Gang → Gang) :
    Table.get? (s.updGang k f).gangs n = if n = k then (Table.get? s.gangs n).map f else Table.get? s.gangs n :=
  Table.get?_upd _ _ _ _

/-! ### A wave put back -/

@[simp] theorem State.putWave_tick (h : Here) (w : Wave) : (s.putWave h w).tick = s.tick := by
  unfold State.putWave
  split <;> rfl

@[simp] theorem State.putWave_mem (h : Here) (w : Wave) : (s.putWave h w).mem = s.mem := by
  unfold State.putWave
  split <;> rfl

@[simp] theorem State.putWave_clusters (h : Here) (w : Wave) : (s.putWave h w).clusters = s.clusters := by
  unfold State.putWave
  split <;> rfl

@[simp] theorem State.putWave_blocks (h : Here) (w : Wave) : (s.putWave h w).blocks = s.blocks := by
  unfold State.putWave
  split <;> rfl

@[simp] theorem State.putWave_gangs (h : Here) (w : Wave) : (s.putWave h w).gangs = s.gangs := by
  unfold State.putWave
  split <;> rfl

@[simp] theorem State.putWave_grids (h : Here) (w : Wave) : (s.putWave h w).grids = s.grids := by
  unfold State.putWave
  split <;> rfl

@[simp] theorem State.putWave_ctxs (h : Here) (w : Wave) : (s.putWave h w).ctxs = s.ctxs := by
  unfold State.putWave
  split <;> rfl

@[simp] theorem State.putWave_parts (h : Here) (w : Wave) : (s.putWave h w).parts = s.parts := by
  unfold State.putWave
  split <;> rfl

@[simp] theorem State.putWave_dev (h : Here) (w : Wave) : (s.putWave h w).dev = s.dev := by
  unfold State.putWave
  split <;> rfl

@[simp] theorem State.putWave_rill (h : Here) (w : Wave) : (s.putWave h w).rill = s.rill := by
  unfold State.putWave
  split <;> rfl

@[simp] theorem State.putWave_pages (h : Here) (w : Wave) : (s.putWave h w).pages = s.pages := by
  unfold State.putWave
  split <;> rfl

@[simp] theorem State.putWave_images (h : Here) (w : Wave) : (s.putWave h w).images = s.images := by
  unfold State.putWave
  split <;> rfl

@[simp] theorem State.putWave_cc (h : Here) (w : Wave) : (s.putWave h w).cc = s.cc := by
  unfold State.putWave
  split <;> rfl

@[simp] theorem State.putWave_mside (h : Here) (w : Wave) : (s.putWave h w).mside = s.mside := by
  unfold State.putWave
  split <;> rfl

@[simp] theorem State.putWave_cur (h : Here) (w : Wave) : (s.putWave h w).cur = s.cur := by
  unfold State.putWave
  split <;> rfl

@[simp] theorem State.putWave_agenda (h : Here) (w : Wave) : (s.putWave h w).agenda = s.agenda := by
  unfold State.putWave
  split <;> rfl

@[simp] theorem State.putWave_fresh (h : Here) (w : Wave) : (s.putWave h w).fresh = s.fresh := by
  unfold State.putWave
  split <;> rfl

@[simp] theorem State.putWave_uids (h : Here) (w : Wave) : (s.putWave h w).uids = s.uids := by
  unfold State.putWave
  split <;> rfl

@[simp] theorem State.putWave_heard (h : Here) (w : Wave) : (s.putWave h w).heard = s.heard := by
  unfold State.putWave
  split <;> rfl

@[simp] theorem State.putWave_said (h : Here) (w : Wave) : (s.putWave h w).said = s.said := by
  unfold State.putWave
  split <;> rfl

/-! ### The order of a cc -/

@[simp] theorem State.offer_tick (core slot : Nat) : (s.offer core slot).tick = s.tick := rfl
@[simp] theorem State.offer_mem (core slot : Nat) : (s.offer core slot).mem = s.mem := rfl
@[simp] theorem State.offer_cores (core slot : Nat) : (s.offer core slot).cores = s.cores := rfl
@[simp] theorem State.offer_clusters (core slot : Nat) : (s.offer core slot).clusters = s.clusters := rfl
@[simp] theorem State.offer_blocks (core slot : Nat) : (s.offer core slot).blocks = s.blocks := rfl
@[simp] theorem State.offer_gangs (core slot : Nat) : (s.offer core slot).gangs = s.gangs := rfl
@[simp] theorem State.offer_grids (core slot : Nat) : (s.offer core slot).grids = s.grids := rfl
@[simp] theorem State.offer_ctxs (core slot : Nat) : (s.offer core slot).ctxs = s.ctxs := rfl
@[simp] theorem State.offer_parts (core slot : Nat) : (s.offer core slot).parts = s.parts := rfl
@[simp] theorem State.offer_handlers (core slot : Nat) : (s.offer core slot).handlers = s.handlers := rfl
@[simp] theorem State.offer_dev (core slot : Nat) : (s.offer core slot).dev = s.dev := rfl
@[simp] theorem State.offer_rill (core slot : Nat) : (s.offer core slot).rill = s.rill := rfl
@[simp] theorem State.offer_pages (core slot : Nat) : (s.offer core slot).pages = s.pages := rfl
@[simp] theorem State.offer_images (core slot : Nat) : (s.offer core slot).images = s.images := rfl
@[simp] theorem State.offer_mside (core slot : Nat) : (s.offer core slot).mside = s.mside := rfl
@[simp] theorem State.offer_cur (core slot : Nat) : (s.offer core slot).cur = s.cur := rfl
@[simp] theorem State.offer_agenda (core slot : Nat) : (s.offer core slot).agenda = s.agenda := rfl
@[simp] theorem State.offer_fresh (core slot : Nat) : (s.offer core slot).fresh = s.fresh := rfl
@[simp] theorem State.offer_uids (core slot : Nat) : (s.offer core slot).uids = s.uids := rfl
@[simp] theorem State.offer_heard (core slot : Nat) : (s.offer core slot).heard = s.heard := rfl
@[simp] theorem State.offer_said (core slot : Nat) : (s.offer core slot).said = s.said := rfl

@[simp] theorem State.offer_order (core slot : Nat) :
    (s.offer core slot).cc.order = max s.cc.order (issuePlace core slot) := rfl

end Sys2Proof.Machine
end

