-- ==== Sys2Proof/Tests/Slice0.lean ====
section
/-! SUPPORT. Tests. An ill-formed term for each check of WellFormed; words of the specification and what they
decode to; for each statement a state and operands that meet its hypotheses; and results of single steps,
worked out by hand from the rules cited. -/

set_option maxRecDepth 100000
set_option Elab.async false

namespace Sys2Proof.Tests

open Sys2Proof Sys2Proof.Machine

/-! ### Small states -/

/-- A running context whose page tables map the first GiB onto itself. -/
def boot : State := { State.reset with mem := State.reset.mem.placeCode 64 0 }.bare
/-- The context with one wave of one lane in slot 0 of core 0. -/
def one : State := { boot.withWave false with cur := .wave 0 0 }
/-- The context with one wave of a crew of 32 lanes. -/
def crew : State := { boot.withWave true with cur := .wave 0 0 }
/-- The same wave of 32 lanes with no crew. -/
def many : State :=
  crew.updCore 0 fun k => { k with waves := Table.upd k.waves 0 fun w => { w with crew := none } }
/-- Firmware in handler slot 16. -/
def firm : State := { boot.withFirmware with cur := .handler 16 }
/-- The stream of context 0. -/
def strm : State := { boot.withStream with cur := .stream 0 }

/-- The acting wave of a state. -/
def hereOf (s : State) : Here :=
  match s.here with
  | some h => h
  | none => { core := 0, slot := 0, hand := none, wave := Wave.ofThreads 0 0 0 [] 0 }

/-- The lanes that pass a guard. -/
def lanesOf (s : State) (g : Guard) : Table Thread := (hereOf s).wave.passing g

/-- The acting wave of core 0 changed. -/
def onWave (s : State) (f : Wave → Wave) : State :=
  s.updCore 0 fun k => { k with waves := Table.upd k.waves 0 f }

/-- Each lane changed. -/
def onLanes (s : State) (f : Nat → Thread → Thread) : State :=
  onWave s fun w => { w with lanes := w.lanes.map fun e => (e.1, f e.1 e.2) }

/-- Registers of every lane set. -/
def withRegs (s : State) (r : List (Nat × Word)) : State :=
  onLanes s fun _ t => r.foldl (fun t e => t.setReg e.1 e.2) t

/-- The state that exec goes to. -/
def after (i : Instr) (s : State) : State :=
  match exec i s with
  | .next t => t
  | _ => State.reset

/-- A register of a lane of the wave after an instruction. -/
def regAfter (i : Instr) (s : State) (l r : Nat) : Option Word :=
  (Table.get? (hereOf (after i s)).wave.lanes l).map fun t => t.reg r

/-- A predicate of a lane of the wave after an instruction. -/
def predAfter (i : Instr) (s : State) (l p : Nat) : Option Bool :=
  (Table.get? (hereOf (after i s)).wave.lanes l).map fun t => t.pred p

/-- The conditions of `Issues` for the acting wave. -/
def issuesB (s : State) (f : Form) : Bool :=
  let h := hereOf s
  let ls := lanesOf s f.g
  decide (s.here = some h ∧ h.wave.passing f.g = ls ∧ ls ≠ [] ∧
    Mode.rank f.level ≤ Mode.rank h.wave.mode ∧ f.illegal h = false ∧
    (ls.all fun e => e.2.inRange f.uses) = true ∧
    f.diverges h.wave ls = false ∧ s.awaits f h ls = false ∧
    ((h.wave.flagOf f.sel).all fun n => ls.all fun e => decide (e.2.flagCount n < 255)) = true)

theorem issues_of {s : State} {f : Form} (p : issuesB s f = true) :
    Issues s f (hereOf s) (lanesOf s f.g) := by
  unfold Issues
  exact of_decide_eq_true p

/-- The form of an instruction of one slot with no guard. -/
def f8 (uses : List RegRun) : Form := { len := 8, g := .always, uses := uses }

theorem crewIssues_of {s : State} {f : Form}
    (p : (issuesB s { f with uniform := true, cluster := true } &&
      decide ((hereOf s).wave.crew.isSome = true ∧ (hereOf s).wave.active.length = 32 ∧ (hereOf s).wave.mask = [])) =
        true) :
    CrewIssues s f (hereOf s) (lanesOf s f.g) := by
  simp only [Bool.and_eq_true, decide_eq_true_eq] at p
  exact ⟨issues_of (f := { f with uniform := true, cluster := true }) p.1, p.2⟩

/-- What a computation that may fail gives, and where it leaves the state. -/
def valOf {α ε σ : Type} (d : α) (r : Except ε α × σ) : α :=
  match r.1 with
  | .ok a => a
  | .error _ => d

def isOk {α ε σ : Type} (r : Except ε α × σ) : Bool :=
  match r.1 with
  | .ok _ => true
  | .error _ => false

theorem eq_of_isOk {α ε σ : Type} (d : α) {r : Except ε α × σ} (p : isOk r = true) :
    r = (.ok (valOf d r), r.2) := by
  obtain ⟨a, b⟩ := r
  cases a with
  | ok a => rfl
  | error e => exact absurd p (by simp [isOk])

/-- The accesses of the acting wave, and the state after their translations. -/
def accsOf (s : State) (rs : List Req) (kind : Access) (reads : Bool) : List Acc :=
  valOf [] (s.prepare (hereOf s) rs kind reads)
def passed (s : State) (rs : List Req) (kind : Access) (reads : Bool) : State :=
  (s.prepare (hereOf s) rs kind reads).2

theorem passes_of {s : State} {rs : List Req} {kind : Access} {reads : Bool}
    (p : isOk (s.prepare (hereOf s) rs kind reads) = true) :
    Passes s (hereOf s) rs kind reads (accsOf s rs kind reads) (passed s rs kind reads) := eq_of_isOk [] p

/-- The accesses of a load pass, and it meets neither an empty nor a poisoned line. -/
def readsB (s : State) (rs : List Req) : Bool :=
  isOk (s.prepare (hereOf s) rs .read true) &&
  !(passed s rs .read true).meetsEmpty (hereOf s) (accsOf s rs .read true) &&
  (poisonHit (passed s rs .read true) (hereOf s) (accsOf s rs .read true)).isNone

theorem reads_of {s : State} {rs : List Req} (p : readsB s rs = true) :
    Reads s (hereOf s) rs (accsOf s rs .read true) (passed s rs .read true) := by
  simp only [readsB, Bool.and_eq_true, Bool.not_eq_true', Option.isNone_iff_eq_none] at p
  exact ⟨passes_of p.1.1, p.1.2, p.2⟩

/-- What a computation that may fail gives. -/
def fine {ε α : Type} (d : α) (r : Except ε α) : α :=
  match r with
  | .ok a => a
  | .error _ => d

def isFine {ε α : Type} (r : Except ε α) : Bool :=
  match r with
  | .ok _ => true
  | .error _ => false

theorem eq_of_isFine {ε α : Type} (d : α) {r : Except ε α} (p : isFine r = true) : r = .ok (fine d r) := by
  cases r with
  | ok a => rfl
  | error e => exact absurd p (by simp [isFine])

/-- A block of the state changed. -/
def onBlock (s : State) (f : Block → Block) : State := s.updBlock 4 f


/-! ### Arithmetic (spec/08) -/

/-- v1 := v2 op v3 (and v4), in 32 bits. -/
def i32 : IntOp :=
  { g := .always, im := none, u := false, w := false, sat := false, d := 1, a := .v 2, b := .v 3, c := .v 4 }
/-- The pair v6 := v2 op v4 (and v8), in 64 bits. -/
def i64 : IntOp := { i32 with w := true, d := 6, a := .v 2, b := .v 4, c := .v 8 }

theorem wit_IntegerResultsWrap :
    (intWidth i32 = 32 ∧ i32.sat = false ∧ Issues one (intForm i32) (hereOf one) (lanesOf one .always)) ∧
    (intWidth i64 = 64 ∧ i64.sat = false ∧ Issues one (intForm i64) (hereOf one) (lanesOf one .always)) :=
  ⟨⟨rfl, rfl, issues_of (f := intForm i32) (by decide +kernel)⟩,
   ⟨rfl, rfl, issues_of (f := intForm i64) (by decide +kernel)⟩⟩

theorem wit_IntegerResultsSaturate :
    ({ i32 with sat := true }).sat = true ∧
    Issues one (intForm { i32 with sat := true }) (hereOf one) (lanesOf one .always) ∧
    Issues one (intForm { i32 with sat := true, u := true }) (hereOf one) (lanesOf one .always) :=
  ⟨rfl, issues_of (f := intForm { i32 with sat := true }) (by decide +kernel),
   issues_of (f := intForm { i32 with sat := true, u := true }) (by decide +kernel)⟩

/-- R194: the largest number plus one wraps. -/
theorem test_iadd_wraps :
    regAfter (.iadd i32) (withRegs one [(2, 0x7FFFFFFF#32), (3, 1)]) 0 1 = some 0x80000000#32 := by decide +kernel
/-- R194: with SAT it stays, and unsigned subtraction stops at 0. -/
theorem test_iadd_saturates :
    regAfter (.iadd { i32 with sat := true }) (withRegs one [(2, 0x7FFFFFFF#32), (3, 1)]) 0 1 =
      some 0x7FFFFFFF#32 := by decide +kernel
theorem test_isub_saturates :
    regAfter (.isub { i32 with sat := true, u := true }) (withRegs one [(2, 3), (3, 5)]) 0 1 = some 0 := by
  decide +kernel
/-- R194: the high half of −1 × 1 signed is all ones; unsigned it is 0. -/
theorem test_imulh_sign :
    regAfter (.imulh i32) (withRegs one [(2, 0xFFFFFFFF#32), (3, 1)]) 0 1 = some 0xFFFFFFFF#32 ∧
    regAfter (.imulh { i32 with u := true }) (withRegs one [(2, 0xFFFFFFFF#32), (3, 1)]) 0 1 = some 0 := by
  decide +kernel
/-- R194: a carry of 64 bits goes into the high register. -/
theorem test_imad_wide :
    regAfter (.imad i64) (withRegs one [(2, 0xFFFFFFFF#32), (4, 1), (8, 1)]) 0 7 = some 1 := by decide +kernel
/-- R194: IABS of the least number wraps. -/
theorem test_iabs_least :
    regAfter (.iabs i32) (withRegs one [(2, 0x80000000#32)]) 0 1 = some 0x80000000#32 := by decide +kernel

/-- R195, each row of its table: a zero divisor, and the quotient that wraps. -/
theorem test_idiv_by_zero :
    regAfter (.idiv { i32 with u := true }) (withRegs one [(2, 5)]) 0 1 = some 0xFFFFFFFF#32 ∧
    regAfter (.idiv i32) (withRegs one [(2, 0)]) 0 1 = some 0x7FFFFFFF#32 ∧
    regAfter (.idiv i32) (withRegs one [(2, 0xFFFFFFFF#32)]) 0 1 = some 0x80000000#32 ∧
    regAfter (.idiv i32) (withRegs one [(2, 0x80000000#32), (3, 0xFFFFFFFF#32)]) 0 1 = some 0x80000000#32 := by
  decide +kernel
theorem test_irem_by_zero :
    regAfter (.irem i32) (withRegs one [(2, 0xFFFFFFF9#32)]) 0 1 = some 0xFFFFFFF9#32 ∧
    regAfter (.irem i32) (withRegs one [(2, 0x80000000#32), (3, 0xFFFFFFFF#32)]) 0 1 = some 0 ∧
    regAfter (.irem i32) (withRegs one [(2, 0xFFFFFFF9#32), (3, 2)]) 0 1 = some 0xFFFFFFFF#32 := by
  decide +kernel

/-- The forms of the shifts, of POPC and CLZ, and of BFI. -/
theorem wit_ShiftResults :
    Issues one (shiftForm i32) (hereOf one) (lanesOf one .always) ∧
    Issues one (shiftForm i64) (hereOf one) (lanesOf one .always) :=
  ⟨issues_of (f := shiftForm i32) (by decide +kernel), issues_of (f := shiftForm i64) (by decide +kernel)⟩

theorem wit_BitCounts :
    Issues one { intForm i64 with uses := (i64.d.toNat, 1) :: Src.runW i64.w i64.a } (hereOf one)
      (lanesOf one .always) :=
  issues_of (f := { intForm i64 with uses := (i64.d.toNat, 1) :: Src.runW i64.w i64.a }) (by decide +kernel)

theorem wit_BitFields :
    Issues one { intForm i64 with uses := (i64.d.toNat, if i64.w then 2 else 1) ::
        ([i64.a, i64.b].flatMap (Src.runW i64.w) ++ Src.run 1 i64.c) } (hereOf one) (lanesOf one .always) :=
  issues_of (f := { intForm i64 with uses := (i64.d.toNat, if i64.w then 2 else 1) ::
        ([i64.a, i64.b].flatMap (Src.runW i64.w) ++ Src.run 1 i64.c) }) (by decide +kernel)

/-- R196: shifts by the width and by one less. -/
theorem test_shift_by_width :
    regAfter (.shl i32) (withRegs one [(2, 1), (3, 31)]) 0 1 = some 0x80000000#32 ∧
    regAfter (.shl i32) (withRegs one [(2, 1), (3, 32)]) 0 1 = some 0 ∧
    regAfter (.shr i32) (withRegs one [(2, 0x80000000#32), (3, 31)]) 0 1 = some 1 ∧
    regAfter (.sar i32) (withRegs one [(2, 0x80000000#32), (3, 0xFFFFFFFF#32)]) 0 1 = some 0xFFFFFFFF#32 := by
  decide +kernel
/-- R196: a zero has 32 leading zeros. -/
theorem test_counts :
    regAfter (.clz i32) (withRegs one [(2, 0)]) 0 1 = some 32 ∧
    regAfter (.popc i32) (withRegs one [(2, 0xF0F0#32)]) 0 1 = some 8 ∧
    regAfter (.brev i32) (withRegs one [(2, 1)]) 0 1 = some 0x80000000#32 := by decide +kernel

/-- v1 := v2 by the table of v3 and v4. -/
def tern : TernOp := { g := .always, im := none, tt := 0xCA, d := 1, a := .v 2, b := .v 3, c := .v 4 }

theorem wit_TernIsATable :
    Issues one { len := lenOf tern.im, g := tern.g, uses := (tern.d.toNat, 1) :: runs [tern.a, tern.b, tern.c] }
      (hereOf one) (lanesOf one .always) :=
  issues_of (f := { len := 8, g := .always, uses := (1, 1) :: runs [.v 2, .v 3, .v 4] }) (by decide +kernel)

/-- R197: 0xCA takes b where c is 1 and a elsewhere. -/
theorem test_tern_select :
    regAfter (.tern tern) (withRegs one [(2, 0xAAAA5555#32), (3, 0x12345678#32), (4, 0xFFFF0000#32)]) 0 1 =
      some 0x12345555#32 := by decide +kernel
/-- R198: a field of 8 bits at 4, signed and unsigned; a length of 0; an insertion. -/
theorem test_bit_fields :
    regAfter (.bfe i32) (withRegs one [(2, 0xF80#32), (3, 0x804#32)]) 0 1 = some 0xFFFFFFF8#32 ∧
    regAfter (.bfe { i32 with u := true }) (withRegs one [(2, 0xF80#32), (3, 0x804#32)]) 0 1 = some 0xF8#32 ∧
    regAfter (.bfe i32) (withRegs one [(2, 0xFFFFFFFF#32), (3, 0x0020#32)]) 0 1 = some 0 ∧
    regAfter (.bfi i32) (withRegs one [(2, 0xFFFFFFFF#32), (3, 0x5#32), (4, 0x0408#32)]) 0 1 =
      some 0xFFFFF5FF#32 := by decide +kernel

def movi : MoviOp := { g := .always, w := true, d := 2, imm := 0xFFFFFFFE#32 }
def movi64 : Movi64Op := { g := .always, d := 2, imm := 0x123456789ABCDEF0#64 }
def lea : LeaOp := { g := .always, im := none, sh := 3, u := false, w := true, d := 6, a := .v 2, b := .v 4 }
def sel : SelOp := { g := .always, im := none, pn := true, w := false, d := 1, a := .v 2, b := .v 3, pc := 15 }

theorem wit_MoveResults :
    Issues one (intForm i32) (hereOf one) (lanesOf one .always) ∧
    Issues one { len := 16, g := movi.g, uses := [(movi.d.toNat, if movi.w then 2 else 1)] } (hereOf one)
      (lanesOf one .always) ∧
    Issues one { len := 16, g := movi64.g, uses := [(movi64.d.toNat, 2)] } (hereOf one) (lanesOf one .always) ∧
    Issues one { len := lenOf lea.im, g := lea.g, uses :=
        (lea.d.toNat, if lea.w then 2 else 1) :: (Src.run 1 lea.a ++ Src.runW lea.w lea.b) } (hereOf one)
      (lanesOf one .always) ∧
    Issues one { len := lenOf sel.im, g := sel.g, uses :=
        (sel.d.toNat, if sel.w then 2 else 1) :: [sel.a, sel.b].flatMap (Src.runW sel.w) } (hereOf one)
      (lanesOf one .always) :=
  ⟨issues_of (f := intForm i32) (by decide +kernel),
   issues_of (f := { len := 16, g := .always, uses := [(2, 2)] }) (by decide +kernel),
   issues_of (f := { len := 16, g := .always, uses := [(2, 2)] }) (by decide +kernel),
   issues_of (f := { len := 8, g := .always, uses := (6, 2) :: (Src.run 1 (.v 2) ++ Src.runW true (.v 4)) })
     (by decide +kernel),
   issues_of (f := { len := 8, g := .always, uses := (1, 1) :: [Src.v 2, .v 3].flatMap (Src.runW false) })
     (by decide +kernel)⟩

theorem test_moves :
    regAfter (.movi movi) one 0 3 = some 0xFFFFFFFF#32 ∧
    regAfter (.movi64 movi64) one 0 3 = some 0x12345678#32 ∧
    regAfter (.lea lea) (withRegs one [(2, 0xFFFFFFFF#32), (4, 16)]) 0 6 = some 8 ∧
    regAfter (.sel sel) (withRegs one [(2, 5), (3, 6)]) 0 1 = some 5 := by decide +kernel

/-! ### Floating point (spec/08) -/

def fop : FOp :=
  { g := .always, im := none, tz := false, sat := false, ab := false, aa := false, nc := false, nb := false
    na := false, d := 1, a := .v 2, b := .v 3, c := .v 4 }

theorem wit_FloatArithmetic :
    fop.sat = false ∧ Issues one (fForm fop) (hereOf one) (lanesOf one .always) :=
  ⟨rfl, issues_of (f := fForm fop) (by decide +kernel)⟩

/-- R202: 2²⁴ + 1 is a tie; 1 ÷ 3 rounds up at the last bit, and down toward zero; ∞ − ∞ is the NaN. -/
theorem test_fadd_tie :
    regAfter (.fadd fop) (withRegs one [(2, 0x4B800000#32), (3, 0x3F800000#32)]) 0 1 = some 0x4B800000#32 ∧
    regAfter (.fadd fop) (withRegs one [(2, 0x7F800000#32), (3, 0xFF800000#32)]) 0 1 = some 0x7FC00000#32 := by
  decide +kernel
theorem test_fdiv_third :
    regAfter (.fdiv fop) (withRegs one [(2, 0x3F800000#32), (3, 0x40400000#32)]) 0 1 = some 0x3EAAAAAB#32 ∧
    regAfter (.fdiv { fop with tz := true }) (withRegs one [(2, 0x3F800000#32), (3, 0x40400000#32)]) 0 1 =
      some 0x3EAAAAAA#32 := by decide +kernel
/-- R202: SAT takes NaN to 0 and 2 to 1. -/
theorem test_fadd_sat :
    regAfter (.fadd { fop with sat := true }) (withRegs one [(2, 0x3F800000#32), (3, 0x3F800000#32)]) 0 1 =
      some 0x3F800000#32 ∧
    regAfter (.fadd { fop with sat := true }) (withRegs one [(2, 0x7FC00000#32)]) 0 1 = some 0 := by
  decide +kernel
/-- R203, R164: FMIN with a NaN is the NaN. -/
theorem test_fmin_nan :
    regAfter (.fmin fop) (withRegs one [(2, 0x7F800001#32), (3, 0)]) 0 1 = some 0x7FC00000#32 := by decide +kernel
/-- R205: rows of its table. -/
theorem test_special_functions :
    regAfter (.frcp fop) (withRegs one [(2, 0x80000000#32)]) 0 1 = some 0xFF800000#32 ∧
    regAfter (.frsq fop) (withRegs one [(2, 0xBF800000#32)]) 0 1 = some 0x7FC00000#32 ∧
    regAfter (.fsqrt fop) (withRegs one [(2, 0x80000000#32)]) 0 1 = some 0x80000000#32 ∧
    regAfter (.fexp2 fop) (withRegs one [(2, 0xFF800000#32)]) 0 1 = some 0 ∧
    regAfter (.flog2 fop) (withRegs one [(2, 0)]) 0 1 = some 0xFF800000#32 ∧
    regAfter (.fsin fop) (withRegs one [(2, 0x7F800000#32)]) 0 1 = some 0x7FC00000#32 ∧
    regAfter (.fcos fop) (withRegs one [(2, 0)]) 0 1 = some 0x3F800000#32 := by decide +kernel

def pk : PkOp :=
  { g := .always, im := none, tz := false, nc := false, nb := false, na := false, bf := false, d := 1, a := .v 2
    b := .v 3, c := .v 4 }

theorem wit_PackedArithmetic :
    Issues one { len := lenOf pk.im, g := pk.g, uses := (pk.d.toNat, 1) :: runs [pk.a, pk.b, pk.c] } (hereOf one)
      (lanesOf one .always) :=
  issues_of (f := { len := 8, g := .always, uses := (1, 1) :: runs [.v 2, .v 3, .v 4] }) (by decide +kernel)

/-- R206: 1 + 1 in the low half, 2 × 1 in the high half of FP16. -/
theorem test_packed :
    regAfter (.pkadd pk) (withRegs one [(2, 0x40003C00#32), (3, 0x3C003C00#32)]) 0 1 = some 0x42004000#32 ∧
    regAfter (.pkmul pk) (withRegs one [(2, 0x40003C00#32), (3, 0x3C003C00#32)]) 0 1 = some 0x40003C00#32 := by
  decide +kernel

def cvt (st dt : CvtType) (dp : BitVec 2) : CvtOp :=
  { g := .always, st := st, dt := dt, dp := dp, sp := 0, tz := false, d := 2, a := .v 4 }

theorem wit_Conversion :
    Issues one { len := 8, g := .always, uses := (2, 1) :: Src.run 1 (.v 4) } (hereOf one) (lanesOf one .always) ∧
    Issues one { len := 8, g := .always, uses := (2, 2) :: Src.run 2 (.v 4) } (hereOf one) (lanesOf one .always) ∧
    cvtBits .f16 * 1 + cvtBits .f16 ≤ 32 :=
  ⟨issues_of (f := { len := 8, g := .always, uses := (2, 1) :: Src.run 1 (.v 4) }) (by decide +kernel),
   issues_of (f := { len := 8, g := .always, uses := (2, 2) :: Src.run 2 (.v 4) }) (by decide +kernel),
   by decide⟩

/-- R207, R208: 65,504 + 32 saturates as FP16 in the high half, which leaves the low half; −1 as an unsigned byte
is 0; 2.5 rounds to the even 2. -/
theorem test_cvt :
    regAfter (.cvt (cvt .i32 .f16 1)) (withRegs one [(4, 65536), (2, 0x1234#32)]) 0 2 = some 0x7C001234#32 ∧
    regAfter (.cvt (cvt .i32 .n8 0)) (withRegs one [(4, 0xFFFFFFFF#32), (2, 0xFFFF#32)]) 0 2 = some 0xFF00#32 ∧
    regAfter (.cvt (cvt .f32 .i32 0)) (withRegs one [(4, 0x40200000#32)]) 0 2 = some 2 := by decide +kernel

/-! ### Compares, predicates and collectives (spec/08) -/

def icmp : IcmpOp :=
  { g := .always, im := none, ncp := true, comb := .and, cond := .lt, u := false, w := false, pd := 15, a := .v 2
    b := .v 3, pc := 0 }
def fcmp : FcmpOp :=
  { g := .always, im := none, ncp := false, comb := .none, cond := .ltu, pd := 0, a := .v 2, b := .v 3, pc := 0 }

theorem wit_Compares :
    Issues one { len := lenOf icmp.im, g := icmp.g, uses := [icmp.a, icmp.b].flatMap (Src.runW icmp.w) } (hereOf one)
      (lanesOf one .always) ∧
    Issues one { len := lenOf fcmp.im, g := fcmp.g, uses := runs [fcmp.a, fcmp.b] } (hereOf one)
      (lanesOf one .always) :=
  ⟨issues_of (f := { len := 8, g := .always, uses := [Src.v 2, .v 3].flatMap (Src.runW false) }) (by decide +kernel),
   issues_of (f := { len := 8, g := .always, uses := runs [.v 2, .v 3] }) (by decide +kernel)⟩

/-- R209: −1 < 0 signed and not unsigned. R210: +0 equals −0, and a NaN makes an unordered condition true. -/
theorem test_compares :
    predAfter (.icmp icmp) (withRegs one [(2, 0xFFFFFFFF#32)]) 0 15 = some true ∧
    predAfter (.icmp { icmp with u := true }) (withRegs one [(2, 0xFFFFFFFF#32)]) 0 15 = some false ∧
    predAfter (.fcmp { fcmp with cond := .eq }) (withRegs one [(2, 0x80000000#32)]) 0 0 = some true ∧
    predAfter (.fcmp fcmp) (withRegs one [(2, 0x7FC00000#32)]) 0 0 = some true ∧
    predAfter (.fcmp { fcmp with cond := .ne }) (withRegs one [(2, 0x7FC00000#32)]) 0 0 = some false := by
  decide +kernel

theorem wit_PredicateResults :
    Issues one { len := 8, g := .always } (hereOf one) (lanesOf one .always) ∧
    Issues many { len := 8, g := .pred true 3 } (hereOf many) (lanesOf many (.pred true 3)) :=
  ⟨issues_of (f := { len := 8, g := .always }) (by decide +kernel),
   issues_of (f := { len := 8, g := .pred true 3 }) (by decide +kernel)⟩

/-- 32 lanes of which the even ones hold predicate 1. -/
def even : State := onLanes many fun l t => t.setPred 1 (l % 2 = 0)

/-- R211, R212. -/
theorem test_predicates :
    predAfter (.pand { g := .always, na := false, nb := true, nr := true, pd := 2, pa := 1, pb := 0 }) even 0 2 =
      some false ∧
    predAfter (.pmov { g := .always, pd := 2, src := .const 0 }) even 0 2 = some false ∧
    predAfter (.vote { g := .always, mode := .all, na := false, pd := 2, pa := 1 }) even 0 2 = some false ∧
    predAfter (.vote { g := .pred false 1, mode := .all, na := false, pd := 2, pa := 1 }) even 0 2 = some true := by
  decide +kernel

def xlane (m : XMode) : XlaneOp :=
  { g := .always, im := none, w := false, mode := m, d := 1, a := .v 2, b := .k 1, c := .v 3 }
def redx (op : RedOp) : RedxOp := { g := .always, op := op, ex := false, d := 1, a := .v 2 }
/-- Lane l of a crew holds l in v2 and 100 in v3. -/
def counted : State := onLanes crew fun l t => (t.setReg 2 (BitVec.ofNat 32 l)).setReg 3 100

theorem wit_CrewExchange :
    CrewIssues counted (f8 ((1, 1) :: (Src.runW false (.v 2) ++ Src.run 1 (.k 1) ++ Src.runW false (.v 3))))
      (hereOf counted) (lanesOf counted .always) ∧
    CrewIssues counted (f8 [(1, 1)]) (hereOf counted) (lanesOf counted .always) ∧
    CrewIssues counted (f8 ((1, 1) :: Src.runW false (.v 2))) (hereOf counted) (lanesOf counted .always) :=
  ⟨crewIssues_of (f := f8 ((1, 1) :: (Src.runW false (.v 2) ++ Src.run 1 (.k 1) ++ Src.runW false (.v 3))))
     (by decide +kernel),
   crewIssues_of (f := f8 [(1, 1)]) (by decide +kernel),
   crewIssues_of (f := f8 ((1, 1) :: Src.runW false (.v 2))) (by decide +kernel)⟩

theorem wit_Broadcast :
    CrewIssues counted (f8 (runs [.v 2])) (hereOf counted) (lanesOf counted .always) ∧
    (lanesOf counted .always).head?.isSome = true ∧
    (Table.get? (hereOf counted).wave.lanes (33 % 32)).isSome = true :=
  ⟨crewIssues_of (f := f8 (runs [.v 2])) (by decide +kernel), by decide +kernel, by decide +kernel⟩

theorem wit_CrewReductions :
    CrewIssues counted (f8 ((1, 1) :: runs [.v 2])) (hereOf counted) (lanesOf counted .always) ∧
    (hereOf counted).wave.lanes.map Prod.fst = List.range 32 :=
  ⟨crewIssues_of (f := f8 ((1, 1) :: runs [.v 2])) (by decide +kernel), by decide +kernel⟩

/-- R214: lane 0 of `.up` takes its fill, lane 31 the value of lane 30. -/
theorem test_xlane_up :
    regAfter (.xlane (xlane .up)) counted 0 1 = some 100 ∧ regAfter (.xlane (xlane .up)) counted 31 1 = some 30 ∧
    regAfter (.xlane (xlane .down)) counted 31 1 = some 100 := by decide +kernel
/-- R216: the sum of 0 to 31; R217: the sum of 0 to 30 stands in lane 31 of the exclusive form. -/
theorem test_redx_scanx :
    regAfter (.redx (redx .iadd)) counted 5 1 = some 496 ∧
    regAfter (.scanx { redx .iadd with ex := true }) counted 31 1 = some 465 ∧
    regAfter (.scanx { redx .iminu with ex := true }) counted 0 1 = some 0xFFFFFFFF#32 := by decide +kernel
/-- The example of R218: 2²⁴ in lane 0 and 1.0 elsewhere sum to 16,777,246 in the tree, 2²⁴ in sequence. -/
theorem test_redx_tree :
    let s := onLanes crew fun l t => t.setReg 2 (if l = 0 then 0x4B800000#32 else 0x3F800000#32)
    regAfter (.redx (redx .fadd)) s 31 1 = some 0x4B80000F#32 ∧
    regAfter (.scanx (redx .fadd)) s 31 1 = some 0x4B800000#32 := by decide +kernel
theorem test_ballot_match :
    regAfter (.ballot { g := .always, na := true, d := 1, pa := 0 }) counted 3 1 = some 0xFFFFFFFF#32 ∧
    regAfter (.matchx { g := .always, w := false, d := 1, a := .v 2 }) counted 31 1 = some 0x80000000#32 ∧
    (hereOf (after (.bcast { g := .always, im := none, wd := 63, a := .v 2, b := .k 33 }) counted)).wave.reg 63 =
      1 := by decide +kernel

/-! ### Memory accesses (spec/09, spec/05) -/

/-- Bytes 1 to 16 stand at 0x20000, and v2 and v3 hold that address. -/
def data : State :=
  let s := withRegs one [(2, 0x20000#32), (4, 16), (8, 0xA1B2C3D4#32)]
  { s with mem := s.mem.place 0x20000 ((natsFrom 1 16).map fun n => BitVec.ofNat 8 n) }

def ld (sz : Size) (sel : FlagSel) : LdOp :=
  { g := .always, im := none, sel := sel, scope := .d, sz := sz, d := 12, a := .v 2, b := .k 0 }
/-- A clause context is in force, whose flag A is f3. -/
def flagged : State :=
  onWave data fun w => { w with clause := some { left := 2, fa := 3, fb := 15, wait := 0 } }

def ldReqs (s : State) (x : LdOp) : List Req :=
  (lanesOf s x.g).map fun e => genericReq x.im x.a x.b (sizeBytes x.sz) (hereOf s) e.1 e.2
def ldsReqs (s : State) (x : LdOp) : List Req :=
  (lanesOf s x.g).map fun e => scratchReq x.im x.a x.b (sizeBytes x.sz) (hereOf s) e.1 e.2

theorem wit_LoadsComplete :
    (Issues data (ldForm (ld .w128 .none) 2) (hereOf data) (lanesOf data .always) ∧
      Reads data (hereOf data) (ldReqs data (ld .w128 .none)) (accsOf data (ldReqs data (ld .w128 .none)) .read true)
        (passed data (ldReqs data (ld .w128 .none)) .read true)) ∧
    (Issues flagged { ldForm (ld .n8 .a) 2 with cluster := false } (hereOf flagged) (lanesOf flagged .always) ∧
      Reads flagged (hereOf flagged) (ldReqs flagged (ld .n8 .a)) (accsOf flagged (ldReqs flagged (ld .n8 .a)) .read true)
        (passed flagged (ldReqs flagged (ld .n8 .a)) .read true)) ∧
    (Issues one { ldForm (ld .w32 .none) 1 with cluster := true } (hereOf one) (lanesOf one .always) ∧
      Reads one (hereOf one) (ldsReqs one (ld .w32 .none)) (accsOf one (ldsReqs one (ld .w32 .none)) .read true)
        (passed one (ldsReqs one (ld .w32 .none)) .read true)) ∧
    (Issues data { len := 8, g := .always, sel := .none, uniform := true } (hereOf data) (lanesOf data .always) ∧
      Reads data (hereOf data) (ldReqs data { ld .w32 .none with a := .k 0 }) 
        (accsOf data (ldReqs data { ld .w32 .none with a := .k 0 }) .read true)
        (passed data (ldReqs data { ld .w32 .none with a := .k 0 }) .read true)) :=
  ⟨⟨issues_of (f := ldForm (ld .w128 .none) 2) (by decide +kernel), reads_of (by decide +kernel)⟩,
   ⟨issues_of (f := { ldForm (ld .n8 .a) 2 with cluster := false }) (by decide +kernel), reads_of (by decide +kernel)⟩,
   ⟨issues_of (f := { ldForm (ld .w32 .none) 1 with cluster := true }) (by decide +kernel),
    reads_of (by decide +kernel)⟩,
   ⟨issues_of (f := { len := 8, g := .always, sel := .none, uniform := true }) (by decide +kernel),
    reads_of (by decide +kernel)⟩⟩

/-- 32 lanes whose words of the scratchpad stand in one bank. -/
def banked : State := onLanes many fun l t => t.setReg 2 (BitVec.ofNat 32 (128 * l))
def ldsForm : Form := { ldForm (ld .w32 .none) 1 with cluster := true }

/-- What holds the lane port of core 0. -/
def portOf (s : State) : PortOp := (s.core 0).port.getD
  { slot := 0, since := 0, len := 8, sel := .none, kind := .store, lanes := [], accs := [], mem := [], todo := []
    got := [], short := [] }
def bankedLds : State := after (.lds (ld .w32 .none)) banked
def bankedSts : State :=
  after (.sts { g := .always, im := none, scope := .b, sz := .w32, a := .v 2, b := .k 0, c := .v 8 }) banked
def bankedLdf : State :=
  after (.ldf { g := .always, im := none, sel := .none, pd := 1, sz := .w32, d := 12, a := .v 2, b := .k 0 }) banked
def bankedAtom : State :=
  after (.atom
    { g := .always, im := none, sel := .none, scope := .sp, w := false, op := .add, d := 12, a := .v 2, b := .k 0
      c := .v 8 }) banked

/-- What a claim about one pass asks of the instruction on the port. -/
def passingB (s : State) : Bool :=
  let h := hereOf s
  let p := portOf s
  decide (h.core < s.cores.length ∧ h.hand = none ∧ p.todo = p.todo.headD [] :: p.todo.tail ∧
    cellsWf (s.core h.core).scratch = true ∧ (∀ a ∈ p.accs, a.pa = none) ∧
    ∀ a ∈ p.accs, (Table.get? h.wave.lanes a.lane).isSome = true)

/-- A load, a store, LDF and an atomic of the scratchpad that take 32 passes, of which one has been served. -/
theorem wit_LanePortPasses :
    (Issues banked ldsForm (hereOf banked) (lanesOf banked .always) ∧
      Reads banked (hereOf banked) (ldsReqs banked (ld .w32 .none)) (accsOf banked (ldsReqs banked (ld .w32 .none)) .read true)
        (passed banked (ldsReqs banked (ld .w32 .none)) .read true) ∧
      onePass (accsOf banked (ldsReqs banked (ld .w32 .none)) .read true) = false) ∧
    (passingB bankedLds = true ∧ (portOf bankedLds).todo.length = 31 ∧ (portOf bankedLds).kind = .load none 12 .w32 ∧
      (portOf bankedLds).got.length = 4) ∧
    (passingB bankedLdf = true ∧ (portOf bankedLdf).kind = .ldf 12 .w32 1) ∧
    (passingB bankedSts = true ∧ (portOf bankedSts).kind = .store ∧
      ∀ a ∈ (portOf bankedSts).accs, a.data.length = a.size) ∧
    portPasses (accsOf banked (ldsReqs banked (ld .w32 .none)) .read true) ≠ [] := by
  refine ⟨⟨issues_of (f := ldsForm) ?_, reads_of ?_, ?_⟩, ?_, ?_, ?_, ?_⟩ <;> decide +kernel

/-- The next cc of cluster 0. -/
def nextCc (s : State) : State := s.updCluster 0 fun c => { c with clock := c.clock + 1 }
/-- The same with one pass left. -/
def lastPass (s : State) : State :=
  (nextCc s).updCore 0 fun k => { k with port := k.port.map fun p => { p with todo := p.todo.take 1 } }
/-- A pass of the instruction on the port, and where the walk of its log accesses ends. -/
def passOf1 (s : State) : Except State (State × PortOp) := s.passPort (hereOf s) (portOf s)
def walked (s : State) : Except (Nat × PortOp) State :=
  match (fine (s, portOf s) (passOf1 s)).1.walkLog (hereOf s).via (hereOf s).wave.ctx (hereOf s).wave.kid with
  | .ok u => .ok u
  | .error _ => .error (0, portOf s)

/-- What a claim about the end of a pass asks. -/
def endingB (s : State) : Bool :=
  decide ((s.core 0).port = some (portOf s) ∧ Table.get? (s.core 0).waves (portOf s).slot = some (hereOf s).wave ∧
    (hereOf s).wave.park = .port ∧ ((hereOf s).wave.lanes.any fun e => s.awaitsPage (hereOf s).wave.kid e.2.uid) = false) &&
  isFine (passOf1 s) && isFine (walked s)

theorem wit_LanePortEnds :
    (endingB bankedLds = true ∧ ((bankedLds.cluster (clusterOf 0)).clock ≤ (portOf bankedLds).since)) ∧
    (endingB (nextCc bankedLds) = true ∧
      (portOf (nextCc bankedLds)).since < ((nextCc bankedLds).cluster (clusterOf 0)).clock ∧
      (fine (bankedLds, portOf bankedLds) (passOf1 (nextCc bankedLds))).2.todo ≠ []) ∧
    (endingB (lastPass bankedLds) = true ∧
      (fine (bankedLds, portOf bankedLds) (passOf1 (lastPass bankedLds))).2.todo = []) ∧
    (portOf bankedSts).kind = .store ∧ (portOf bankedLds).kind = .load none 12 .w32 ∧
    (portOf bankedLdf).kind = .ldf 12 .w32 1 ∧ (portOf bankedAtom).kind = .atom (some .add) false .b (some 12) := by
  decide +kernel

/-- R94: each lane's word comes in its own pass, and the last pass ends the instruction. -/
theorem test_port_last :
    let t := (lastPass bankedSts).tickPort 0
    (t.core 0).port = none ∧ (hereOf t).wave.park = .none ∧ (hereOf t).wave.pc = (hereOf bankedSts).wave.pc + 8 := by decide +kernel

theorem wit_LoadedValues : (hereOf data).hand = none := by decide +kernel
theorem wit_ResultsUnderAFlag :
    (hereOf data).wave.flagOf .none = none ∧ (hereOf flagged).hand = none ∧ (hereOf flagged).wave.flagOf .a = some 3 := by
  decide +kernel

/-- R5, R240: the byte at the lowest address is least significant. -/
theorem test_ld : regAfter (.ldStrong (ld .w128 .none)) data 0 12 = some 0x04030201#32 ∧
    regAfter (.ldStrong (ld .w128 .none)) data 0 15 = some 0x100F0E0D#32 := by decide +kernel
/-- R178: under a flag the register waits and the flag counts one. -/
theorem test_ld_flagged : regAfter (.ld (ld .n8 .a)) flagged 0 12 = some 0 ∧
    (Table.get? (hereOf (after (.ld (ld .n8 .a)) flagged)).wave.lanes 0).map (fun t => t.flagCount 3) = some 1 := by
  decide +kernel

def st (sz : Size) (l : Level) : StOp :=
  { g := .always, im := none, scope := l, sz := sz, a := .v 2, b := .k 1, c := .v 8 }
def stReqs (s : State) (x : StOp) : List Req :=
  (lanesOf s x.g).map fun e => genericReq x.im x.a x.b (sizeBytes x.sz) (hereOf s) e.1 e.2
def stsReqs (s : State) (x : StOp) : List Req :=
  (lanesOf s x.g).map fun e => scratchReq x.im x.a x.b (sizeBytes x.sz) (hereOf s) e.1 e.2
def puts (s : State) (x : StOp) (accs : List Acc) : List Put :=
  accs.map fun a => { hit := a, bytes := storeBytes x.sz (hereOf s).wave x.im a.req.t x.c, window := a.req.window }
/-- What a store of bytes does, from the state after its translations. -/
def stored (s : State) (x : StOp) (rs : List Req) (l : Level) : Except Level State :=
  storeAll (puts s x (accsOf s rs .write false)) (passed s rs .write false) (hereOf s) l

/-- A store at C, at D and to the scratchpad. -/
theorem wit_StoresComplete :
    (Issues data (f8 (Src.run 2 (.v 2) ++ Src.run 1 (.v 8))) (hereOf data) (lanesOf data .always) ∧
      Passes data (hereOf data) (stReqs data (st .n8 .c)) .write false (accsOf data (stReqs data (st .n8 .c)) .write false)
        (passed data (stReqs data (st .n8 .c)) .write false) ∧
      stored data (st .n8 .c) (stReqs data (st .n8 .c)) .c =
        .ok (fine data (stored data (st .n8 .c) (stReqs data (st .n8 .c)) .c)) ∧
      onePass ((puts data (st .n8 .c) (accsOf data (stReqs data (st .n8 .c)) .write false)).map Put.hit) = true) ∧
    (Issues one { f8 (Src.run 1 (.v 2) ++ Src.run 1 (.v 8)) with cluster := true } (hereOf one) (lanesOf one .always) ∧
      Passes one (hereOf one) (stsReqs one (st .n8 .b)) .write false (accsOf one (stsReqs one (st .n8 .b)) .write false)
        (passed one (stsReqs one (st .n8 .b)) .write false) ∧
      stored one (st .n8 .b) (stsReqs one (st .n8 .b)) .b =
        .ok (fine one (stored one (st .n8 .b) (stsReqs one (st .n8 .b)) .b)) ∧
      onePass ((puts one (st .n8 .b) (accsOf one (stsReqs one (st .n8 .b)) .write false)).map Put.hit) = true) ∧
    (Issues banked { f8 (Src.run 1 (.v 2) ++ Src.run 1 (.v 8)) with cluster := true } (hereOf banked)
        (lanesOf banked .always) ∧
      Passes banked (hereOf banked) (stsReqs banked (st .n8 .b)) .write false
        (accsOf banked (stsReqs banked (st .n8 .b)) .write false) (passed banked (stsReqs banked (st .n8 .b)) .write false) ∧
      onePass ((puts banked (st .n8 .b) (accsOf banked (stsReqs banked (st .n8 .b)) .write false)).map Put.hit) = false ∧
      ∃ s2, storeAll [] (passed banked (stsReqs banked (st .n8 .b)) .write false) (hereOf banked) .b = .ok s2) ∧
    (Issues one { f8 (Src.run 1 (.v 2)) with cluster := true } (hereOf one) (lanesOf one .always) ∧
      Passes one (hereOf one) ((lanesOf one .always).map fun e => scratchReq none (.v 2) (.k 0) 1 (hereOf one) e.1 e.2)
        .read false
        (accsOf one ((lanesOf one .always).map fun e => scratchReq none (.v 2) (.k 0) 1 (hereOf one) e.1 e.2) .read false)
        (passed one ((lanesOf one .always).map fun e => scratchReq none (.v 2) (.k 0) 1 (hereOf one) e.1 e.2) .read
          false) ∧
      one.scratchBusy (hereOf one) = false ∧ 0 < one.cores.length ∧ one.cc.lines = []) ∧
    Issues data (f8 (Src.run 2 (.v 2))) (hereOf data) (lanesOf data .always) ∧
    -- a store that may be held, and one that may not
    (passed data (stReqs data (st .n8 .d)) .write false).mayHold (hereOf data) .d
      (puts data (st .n8 .d) (accsOf data (stReqs data (st .n8 .d)) .write false)) = true ∧
    ((passed data (stReqs data (st .n8 .c)) .write false).holdsStores (hereOf data) .c
      (puts data (st .n8 .c) (accsOf data (stReqs data (st .n8 .c)) .write false))).1 = false :=
  ⟨⟨issues_of (f := f8 (Src.run 2 (.v 2) ++ Src.run 1 (.v 8))) (by decide +kernel), passes_of (by decide +kernel),
    eq_of_isFine data (by decide +kernel), by decide +kernel⟩,
   ⟨issues_of (f := { f8 (Src.run 1 (.v 2) ++ Src.run 1 (.v 8)) with cluster := true }) (by decide +kernel),
    passes_of (by decide +kernel), eq_of_isFine one (by decide +kernel), by decide +kernel⟩,
   ⟨issues_of (f := { f8 (Src.run 1 (.v 2) ++ Src.run 1 (.v 8)) with cluster := true }) (by decide +kernel),
    passes_of (by decide +kernel), by decide +kernel, _, rfl⟩,
   ⟨issues_of (f := { f8 (Src.run 1 (.v 2)) with cluster := true }) (by decide +kernel), passes_of (by decide +kernel),
    by decide +kernel, by decide +kernel, by decide +kernel⟩,
   issues_of (f := f8 (Src.run 2 (.v 2))) (by decide +kernel), by decide +kernel, by decide +kernel⟩

/-- R121: a store at D is there at once; one at C is not, and its thread reads it. -/
theorem test_st_levels :
    (fine data (stored data (st .n8 .d) (stReqs data (st .n8 .d)) .d)).mem.atD 0x20001 = 0xD4 ∧
    (after (.st (st .n8 .c)) data).mem.atD 0x20001 = 2 ∧
    regAfter (.ldStrong (ld .w32 .none)) (after (.st (st .n8 .c)) data) 0 12 = some 0x0403D401#32 := by decide +kernel
/-- R97, R249: SETE leaves its line empty. -/
theorem test_sete :
    ((after (.sete { g := .always, im := none, a := .v 2, b := .k 0 }) one).core 0).empty = [0] := by decide +kernel

/-- One lane's store, for a scratchpad address and for stores at C and at D. -/
def put (spot : Spot) : Put :=
  { hit := { req := genericReq none (.v 2) (.k 0) 1 (hereOf data) 0 (handlerThread 5 0 0 0), spot := spot }
    bytes := [0xAB] }
theorem wit_StoresReachTheirLevel :
    (hereOf data).hand = none ∧ data.mem.wf = true ∧ cellsWf (data.core 0).scratch = true ∧ (hereOf data).core = 0 ∧
    storeOne data (hereOf data) .b [] [] (put (.scr 0)) =
      .ok (fine data (storeOne data (hereOf data) .b [] [] (put (.scr 0)))) ∧
    storeOne data (hereOf data) .c [] [] (put (.mem 0x20000 none)) =
      .ok (fine data (storeOne data (hereOf data) .c [] [] (put (.mem 0x20000 none)))) ∧
    storeOne data (hereOf data) .d [] [] (put (.mem 0x20000 none)) =
      .ok (fine data (storeOne data (hereOf data) .d [] [] (put (.mem 0x20000 none)))) :=
  ⟨by decide +kernel, by decide +kernel, by decide +kernel, by decide +kernel, eq_of_isFine data (by decide +kernel),
   eq_of_isFine data (by decide +kernel), eq_of_isFine data (by decide +kernel)⟩

/-- Tile 5 of the block holds four lines. -/
def tiled : State := onBlock one fun b => { b with tl := Table.put b.tl 5 { base := 0, count := 3 } }
def te5 : TileEntry := { base := 0, count := 3 }
def tileReqs (te : TileEntry) : List Req := (lanesOf tiled .always).map fun e => tileReq (hereOf tiled) none (.v 2) (.k 4) 4 te e

theorem tileReady_of {s : State} {h : Here} {ls : Table Thread} {tile n : Nat} {im : Option Word} {a b : Src}
    {kind : Access} {accs : List Acc} {s' : State} (te : TileEntry)
    (p : (ls.all fun e => match s.tileNamed e.2 tile with
      | some (blk, x) => decide (x = te ∧ s.tileState blk te = .ready ∧ scratchOff h.wave im e.2 a b % (n : Int) = 0 ∧
          0 ≤ scratchOff h.wave im e.2 a b ∧ scratchOff h.wave im e.2 a b + n ≤ ((te.count + 1) * 128 : Nat))
      | none => false) = true)
    (q : Passes s h (ls.map fun e => tileReq h im a b n te e) kind (kind = .read) accs s') :
    TileReady s h ls tile im a b n kind accs s' := by
  refine ⟨fun _ => te, fun e he => ?_, q⟩
  have := List.all_eq_true.mp p e he
  revert this
  cases hn : s.tileNamed e.2 tile with
  | none => simp
  | some x =>
    intro y
    obtain ⟨rfl, y2⟩ := of_decide_eq_true y
    exact ⟨x.1, rfl, y2⟩

/-- A tile access: LDT, STT and LDF, in one pass and in several. -/
theorem wit_TileAccessesComplete :
    (Issues tiled { f8 ((12, 1) :: Src.run 1 (.v 2)) with cluster := true } (hereOf tiled) (lanesOf tiled .always) ∧
      (∃ accs s', TileReady tiled (hereOf tiled) (lanesOf tiled .always) 5 none (.v 2) (.k 4) 4 .read accs s' ∧
        poisonHit s' (hereOf tiled) accs = none)) ∧
    (∃ accs s', TileReady tiled (hereOf tiled) (lanesOf tiled .always) 5 none (.v 2) (.k 4) 4 .write accs s') ∧
    (Passes one (hereOf one) (ldsReqs one (ld .w32 .none)) .read true (accsOf one (ldsReqs one (ld .w32 .none)) .read true)
      (passed one (ldsReqs one (ld .w32 .none)) .read true) ∧
      onePass (accsOf one (ldsReqs one (ld .w32 .none)) .read true) = true) ∧
    onePass (accsOf banked (ldsReqs banked (ld .w32 .none)) .read true) = false := by
  refine ⟨⟨issues_of (f := { f8 ((12, 1) :: Src.run 1 (.v 2)) with cluster := true }) (by decide +kernel),
      accsOf tiled (tileReqs te5) .read true, passed tiled (tileReqs te5) .read true,
      tileReady_of te5 ?_ (passes_of ?_), ?_⟩,
    ⟨accsOf tiled (tileReqs te5) .write false, passed tiled (tileReqs te5) .write false,
      tileReady_of te5 ?_ (passes_of ?_)⟩, ⟨passes_of ?_, ?_⟩, ?_⟩ <;> decide +kernel

theorem test_tile_roundtrip :
    regAfter (.ldt { g := .always, im := none, sel := .none, tile := 5, sz := .w32, d := 12, a := .v 4, b := .k 0 })
      (after (.stt { g := .always, im := none, tile := 5, sz := .w32, a := .v 4, b := .k 0, c := .v 8 })
        (withRegs tiled [(8, 0xA1B2C3D4#32)])) 0 12 = some 0xA1B2C3D4#32 ∧
    predAfter (.ldf { g := .always, im := none, sel := .none, pd := 1, sz := .w32, d := 12, a := .v 4, b := .k 0 })
      (tiled.updCore 0 fun k => { k with empty := [0] }) 0 1 = some false := by decide +kernel

/-- R97, R245: a line emptied in a cc was full when the cc began. -/
theorem test_ldf_same_cc :
    predAfter (.ldf { g := .always, im := none, sel := .none, pd := 1, sz := .w32, d := 12, a := .v 4, b := .k 0 })
      (after (.sete { g := .always, im := none, a := .v 4, b := .k 0 }) tiled) 0 1 = some true := by decide +kernel

/-! ### Atomics, commits, fences and barriers (spec/09, spec/05) -/

def atom (op : AtomOp) (sc : AScope) : AtomOps :=
  { g := .always, im := none, sel := .none, scope := sc, w := false, op := op, d := 12, a := .v 2, b := .k 0, c := .v 8 }
def atomReqs (s : State) (sc : AScope) : List Req :=
  (lanesOf s .always).map fun e =>
    if sc = .sp then scratchReq none (.v 2) (.k 0) 4 (hereOf s) e.1 e.2
    else genericReq none (.v 2) (.k 0) 4 (hereOf s) e.1 e.2

/-- What an atomic makes of its accesses. -/
def atomOut (s : State) (sc : AScope) (x : Level) (y : AtomKind) (port : Bool) : Except Level AtomOut :=
  let accs := accsOf s (atomReqs s sc) .write true
  atomLanes (if port then offPort accs else accs) (passed s (atomReqs s sc) .write true) (hereOf s) x
    fun t m => atomApply y.op y.wide (y.data (hereOf s).wave none t) m
def addKind : AtomKind := { op := some .add, wide := false, c := .v 8, d := some 12 }
def faddKind : AtomKind := { op := some .fadd, wide := false, c := .v 8, d := none }

/-- What the claim asks of an atomic's accesses. -/
def atomB (s : State) (sc : AScope) (x : Level) (y : AtomKind) (one : Bool) : Bool :=
  let accs := accsOf s (atomReqs s sc) .write true
  isOk (s.prepare (hereOf s) (atomReqs s sc) .write true) &&
  (poisonHit (passed s (atomReqs s sc) .write true) (hereOf s) accs).isNone && onePass accs == one &&
  isFine (atomOut s sc x y false) && isFine (atomOut s sc x y true)

/-- ATOM at D, RED and ATOM in the scratchpad, in one pass and in several, and AMAXSWP at D: their forms, and turns
that fit. -/
theorem wit_AtomicsComplete :
    (AtomicIs (.atom (atom .add (.lvl .d))) (f8 ((12, 1) :: atomUses (atom .add (.lvl .d)))) (.lvl .d) none (.v 2) (.k 0)
        addKind ∧
      Issues data { f8 ((12, 1) :: atomUses (atom .add (.lvl .d))) with cluster := false } (hereOf data)
        (lanesOf data .always) ∧ atomB data (.lvl .d) .d addKind true = true) ∧
    (AtomicIs (.red (atom .fadd .sp)) (f8 (atomUses (atom .fadd .sp))) .sp none (.v 2) (.k 0) faddKind ∧
      Issues one { f8 (atomUses (atom .fadd .sp)) with cluster := true } (hereOf one) (lanesOf one .always) ∧
      atomB one .sp .b faddKind true = true ∧ atomB banked .sp .b addKind false = true) ∧
    AtomicIs (.amaxswp { g := .always, im := none, sel := .none, scope := .lvl .d, d := 12, a := .v 2, b := .k 0 })
      (f8 ((12, 1) :: Src.run 2 (.v 2))) (.lvl .d) none (.v 2) (.k 0)
      { op := none, wide := false, c := .k 0, d := some 12 } := by
  refine ⟨⟨⟨rfl, rfl, rfl, rfl, rfl, rfl⟩, ?_, ?_⟩, ⟨⟨rfl, rfl, rfl, rfl, rfl, rfl⟩, ?_, ?_, ?_⟩,
    ⟨rfl, rfl, rfl, rfl, rfl, rfl⟩⟩ <;> first | decide +kernel | (unfold Issues; decide +kernel)

/-- R251, R252: four lanes of equal address each see the sum so far. -/
theorem test_atom_lanes :
    let s := onLanes { many with mem := data.mem } fun _ t => ((t.setReg 2 0x20000#32).setReg 3 0).setReg 8 1
    regAfter (.atom (atom .add (.lvl .d))) s 31 12 = some 0x04030220#32 ∧
    (after (.atom (atom .add (.lvl .d))) s).mem.numD 0x20000 4 = 0x04030221 := by decide +kernel
theorem test_atom_signed :
    let s := withRegs data [(8, 0xFFFFFFFF#32)]
    (after (.red (atom .min (.lvl .d))) s).mem.numD 0x20000 4 = 0xFFFFFFFF ∧
    (after (.red (atom .minu (.lvl .d))) s).mem.numD 0x20000 4 = 0x04030201 ∧
    (after (.amaxswp { g := .always, im := none, sel := .none, scope := .lvl .d, d := 12, a := .v 2, b := .k 0 })
      s).mem.numD 0x20000 4 = 0 := by decide +kernel

/-- A byte stored at C waits for its commit, in a grid whose commit log has a page. -/
def pending : State :=
  after (.st (st .n8 .c)) (data.updGrid 1 fun g => { g with lrec := { g.lrec with logSize := 4096, logAddr := 0x30000 } })

/-- The wave of a crew in the scratchpad of a block, all of whose lanes pass. -/
theorem wit_CommitsComplete :
    (Issues pending { f8 [] with orders := true } (hereOf pending) (lanesOf pending .always) ∧
      (hereOf pending).hand = none ∧
      (∃ u, commitAll (partiesOf (hereOf pending) (lanesOf pending .always)) pending (hereOf pending) .d false =
          .ok u) ∧
      ∃ s1 ts bad, commitAll (partiesOf (hereOf pending) (lanesOf pending .always)) pending (hereOf pending) .d true =
          .ok (s1, ts, bad)) ∧
    (Issues pending (f8 []) (hereOf pending) (lanesOf pending .always) ∧ (hereOf pending).wave.crew = none) ∧
    (Issues crew (f8 []) (hereOf crew) (lanesOf crew .always) ∧ (hereOf crew).hand = none ∧
      (hereOf crew).wave.crew.isSome = true ∧ (lanesOf crew .always).head? ≠ none) ∧
    (Issues firm { f8 [] with orders := true } (hereOf firm) (lanesOf firm .always) ∧
      Issues firm (f8 []) (hereOf firm) (lanesOf firm .always) ∧ (hereOf firm).hand = some 16) := by
  refine ⟨⟨?_, ?_, ⟨_, eq_of_isFine (pending, [], []) ?_⟩, _, _, _, eq_of_isFine (pending, [], []) ?_⟩,
    ⟨?_, ?_⟩, ⟨?_, ?_, ?_, ?_⟩, ?_, ?_, ?_⟩ <;>
    first | decide +kernel | (unfold Issues; decide +kernel)

/-- R123, R255: CMT.D brings the byte to D; ABT.C takes it away. -/
theorem test_cmt_abt :
    (after (.cmt { g := .always, lvl := .d, chk := none }) pending).mem.atD 0x20001 = 0xD4 ∧
    (after (.cmt { g := .always, lvl := .b, chk := none }) pending).mem.atD 0x20001 = 2 ∧
    regAfter (.ldStrong (ld .n8 .none)) (after (.abt { g := .always, lvl := .c }) (withRegs pending [(2, 0x20001#32)])) 0 12 =
      some 2 := by decide +kernel

theorem wit_FencesComplete :
    Issues data { f8 [] with orders := true } (hereOf data) (lanesOf data .always) ∧
    Issues data (f8 []) (hereOf data) (lanesOf data .always) ∧ data.fenceRuns (hereOf data) = [] ∧
    (∀ e ∈ lanesOf data .always, data.ownBuffered (hereOf data) e.2 = false) ∧
    (∃ e ∈ lanesOf pending .always, pending.ownBuffered (hereOf pending) e.2 = true) := by
  refine ⟨?_, ?_, ?_, ?_, ?_⟩ <;> first | decide +kernel | (unfold Issues; decide +kernel)

/-- The lane of the wave of `one`. -/
def lane0 (s : State) : Thread := ((Table.get? (hereOf s).wave.lanes 0).getD (handlerThread 0 0 0 0))
def block0 (s : State) : Block := (s.blockOf (lane0 s)).getD (Block.fresh 0 0 0 0 0 0 0 0 [])

/-- Its lane with an arrival pending at barrier 15 in a phase that is over. -/
def waitsPast : State := onLanes one fun _ t => { t with pend := [{ gang := false, n := 15, phase := 7 }] }

theorem wit_BarrierArrival :
    Issues one { f8 [] with cluster := true, orders := true } (hereOf one) [(0, lane0 one)] ∧
    BarrierHere one (hereOf one) [(0, lane0 one)] { g := .always, gang := false, n := 15, bind := none } ∧
    one.blockOf (lane0 one) = some (block0 one) ∧
    (block0 one).member (lane0 one).uid (one.barrier (block0 one) false 15).group = true ∧
    (lane0 one).pending false 15 = none ∧
    ((block0 one).member (lane0 waitsPast).uid 0 = true ∧
      (lane0 waitsPast).pending false 15 = some { gang := false, n := 15, phase := 7 } ∧
      (one.barrier (block0 one) false 15).phase ≠ 7) ∧
    (block0 one).member (lane0 one).uid 14 = false ∧
    BarrierHere one (hereOf one) [(0, lane0 one)] { g := .always, gang := true, n := 0, bind := none } := by
  refine ⟨?_, ?_, ?_, ?_, ?_, ?_, ?_, ?_⟩ <;>
    first | decide +kernel | (unfold Issues; decide +kernel) | (unfold BarrierHere; decide +kernel)

/-- Of two threads of a block one has arrived at barrier 0, or both have, in the last phase of 32 bits. -/
def arrived (n : Nat) : State :=
  onBlock one fun b => { b with
    live := [(5, 0), (6, 0)]
    bars := [(0, { Barrier.fresh 0 with
      arrived := [{ uid := 5, episode := 0, batch := 0 }, { uid := 6, episode := 0, batch := 0 }].take n
      phase := 2 ^ 32 - 1 })] }

theorem wit_BarrierPhase :
    (((arrived 1).barrier (block0 (arrived 1)) false 0).arrived.length <
      membership ((arrived 1).barBlocks (block0 (arrived 1)) false) 0) ∧
    ((arrived 2).barrier (block0 (arrived 2)) false 0).arrived ≠ [] ∧
    membership ((arrived 2).barBlocks (block0 (arrived 2)) false) 0 ≤
      ((arrived 2).barrier (block0 (arrived 2)) false 0).arrived.length ∧
    (arrived 2).batchesDone ((arrived 2).barBlocks (block0 (arrived 2)) false)
      ((arrived 2).barrier (block0 (arrived 2)) false 0).arrived = true ∧
    (Table.get? (arrived 2).blocks (block0 (arrived 2)).uid).isSome = true ∧
    (((arrived 1).barrier (block0 (arrived 1)) false 0).arrived.any fun a => a.uid = 5) = true ∧
    (((arrived 1).barrier (block0 (arrived 1)) false 0).arrived.any fun a => a.uid = 6) = false ∧
    (((arrived 2).judgeBar (block0 (arrived 2)) false 0).barrier (block0 (arrived 2)) false 0).phase = 0 := by
  decide +kernel

theorem wit_GroupMembership :
    Issues one { f8 [] with cluster := true } (hereOf one) [(0, lane0 one)] ∧
    one.blockOf (lane0 one) = some (block0 one) ∧
    (Table.getD (block0 one).live (lane0 one).uid 0).getLsbD 15 = false ∧
    (Table.getD (block0 (after (.join { g := .always, grp := 15 }) one)).live (lane0 one).uid 0).getLsbD 15 = true := by
  refine ⟨?_, ?_, ?_, ?_⟩ <;> first | decide +kernel | (unfold Issues; decide +kernel)

/-- R262: a block of one thread passes its barrier at once. -/
theorem test_bar_alone :
    let t := (after (.bar { g := .always, gang := false, n := 3, bind := none }) one).judgeBars 0
    (t.barrier (block0 t) false 3).phase = 1 ∧ (lane0 t).st = .run := by decide +kernel

/-! ### Control (spec/08, spec/02) -/

/-- Lanes of which lane 0 jumps to 0 and the others to 64. -/
def parting : State := onLanes many fun l t => (t.setReg 2 (if l = 0 then 0 else 64)).setReg 3 0

theorem wit_BranchesComplete :
    Issues one (plainForm .always) (hereOf one) (lanesOf one .always) ∧
    Issues one { len := 16, g := .always, uniform := true, final := true } (hereOf one) (lanesOf one .always) ∧
    Issues one { len := 16, g := .always, uniform := true, final := true, uses := [(2, 2)] } (hereOf one)
      (lanesOf one .always) ∧
    (∀ e ∈ lanesOf one .always, e.2.depth ≠ 255) ∧
    Issues one { f8 (Src.run 2 (.v 2)) with uniform := true, final := true } (hereOf one) (lanesOf one .always) ∧
    (∀ e ∈ lanesOf one .always, Src.int64 (hereOf one).wave none e.2 (.v 2) = (0 : Pc).setWidth 64) ∧
    (∀ e ∈ lanesOf one .always, (e.2.ray.map RayPart.ep).getD .plain = .plain) ∧
    Issues one { f8 (Src.run 2 (.v 2)) with uniform := true, final := true, orders := true } (hereOf one)
      (lanesOf one .always) ∧
    (Issues parting { f8 (Src.run 2 (.v 2)) with uniform := true, final := true } (hereOf parting)
        (lanesOf parting .always) ∧ (lanesOf parting .always).head? = some (0, lane0 parting) ∧
      (hereOf parting).wave.crew = none ∧
      (∀ e ∈ lanesOf parting .always, (Src.int64 (hereOf parting).wave none e.2 (.v 2)).toNat < 2 ^ 52) ∧
      (let apart := (lanesOf parting .always).filter fun e =>
        (Src.int64 (hereOf parting).wave none e.2 (.v 2)).setWidth 52 != (0 : Pc)
       apart ≠ [] ∧ parting.basinsFor 0 (apart.map fun e =>
        (e.2, (Src.int64 (hereOf parting).wave none e.2 (.v 2)).setWidth 52)) = true)) := by
  refine ⟨?_, ?_, ?_, ?_, ?_, ?_, ?_, ?_, ?_, ?_, ?_, ?_, ?_⟩ <;> first | decide +kernel | (unfold Issues; decide +kernel)

/-- R220, R224: a target behind, and a return address. -/
theorem test_branches :
    (hereOf (after (.bra { g := .always, off := 0xFFFFFFFF#32 }) one)).wave.pc = 0xFFF8#52 ∧
    (hereOf (after (.call { g := .always, d := 2, off := 4 }) one)).wave.pc = 0x10020#52 ∧
    regAfter (.call { g := .always, d := 2, off := 4 }) one 0 2 = some 0x10010#32 := by decide +kernel

def brd : BrdOp := { pa := 1, neg := false, off := 4, j := 2 }
/-- Crewed lanes of which the even ones hold predicate 1; lanes 1 to 31 hold it; lane 0 alone holds it. -/
def evenCrew : State := onLanes crew fun l t => t.setPred 1 (l % 2 = 0)
def most : State := onLanes many fun l t => t.setPred 1 (l != 0)
def least : State := onLanes many fun l t => t.setPred 1 (l = 0)
def brdForm : Form := { len := 16, g := .always, final := true }
/-- The lanes that take a branch on predicate 1, and those that do not. -/
def yes (s : State) : Table Thread := (lanesOf s .always).filter fun e => e.2.pred 1 ^^ false
def no (s : State) : Table Thread := (lanesOf s .always).filter fun e => !(e.2.pred 1 ^^ false)

theorem wit_DivergentBranch :
    (Issues one brdForm (hereOf one) (lanesOf one .always) ∧ (hereOf one).hand = none ∧ no one ≠ [] ∧ yes one = []) ∧
    no (onLanes one fun _ t => t.setPred 1 true) = [] ∧
    (Issues evenCrew brdForm (hereOf evenCrew) (lanesOf evenCrew .always) ∧ no evenCrew ≠ [] ∧ yes evenCrew ≠ [] ∧
      (hereOf evenCrew).wave.crew.isSome = true ∧ (hereOf evenCrew).wave.depth < 16) ∧
    (Issues least brdForm (hereOf least) (lanesOf least .always) ∧ (hereOf least).wave.crew = none ∧
      (hereOf least).wave.mask = [] ∧ (yes least).length ≤ (no least).length ∧
      least.basinsFor 0 ((yes least).map fun e => (e.2, 0x10020#52)) = true) ∧
    ((hereOf most).wave.crew = none ∧ (hereOf most).wave.mask = [] ∧ (no most).length < (yes most).length ∧
      most.basinsFor 0 ((no most).map fun e => (e.2, 0x10010#52)) = true) := by
  refine ⟨⟨?_, ?_, ?_, ?_⟩, ?_, ⟨?_, ?_, ?_, ?_, ?_⟩, ⟨?_, ?_, ?_, ?_, ?_⟩, ?_, ?_, ?_, ?_⟩ <;>
    first | decide +kernel | (unfold Issues; decide +kernel)

/-- R30: outside a crew the larger side goes on; R36: in a crew the other side waits on the mask stack. -/
theorem test_brd :
    (hereOf (after (.brd brd) most)).wave.pc = 0x10020#52 ∧ (hereOf (after (.brd brd) least)).wave.pc = 0x10010#52 ∧
    (hereOf (after (.brd brd) evenCrew)).wave.mask.map MaskEntry.other = [0xAAAAAAAA#32] := by decide +kernel

def rcvForm : Form := { len := 8, g := .always, final := true }
/-- After a masked branch with id 2; the same on its second side; and a wave enrolled under id 2. -/
def split : State := after (.brd brd) evenCrew
def second : State := onWave split fun w => { w with mask := w.mask.map fun e => { e with second := true } }
def enrolled : State := after (.brd brd) (onLanes many fun _ t => t.setPred 1 true)

theorem wit_Reconvergence :
    (Issues many rcvForm (hereOf many) (lanesOf many .always) ∧ (hereOf many).hand = none ∧
      (hereOf many).wave.crew = none ∧ (hereOf many).wave.mask = [] ∧
      ((lanesOf many .always).filter fun e => many.enrolled 0 e.2 2) = []) ∧
    (Issues enrolled rcvForm (hereOf enrolled) (lanesOf enrolled .always) ∧
      ((lanesOf enrolled .always).filter fun e => enrolled.enrolled 0 e.2 2) ≠ [] ∧
      enrolled.basinsFor 0 (((lanesOf enrolled .always).filter fun e => enrolled.enrolled 0 e.2 2).map
        fun e => (e.2, (hereOf enrolled).wave.pc + 8)) = true) ∧
    (Issues split rcvForm (hereOf split) (lanesOf split .always) ∧
      (hereOf split).wave.mask.map (fun e => (e.id, e.second)) = [(2, false)] ∧
      (lanesOf split .always).length = (hereOf split).wave.active.length) ∧
    (Issues second rcvForm (hereOf second) (lanesOf second .always) ∧
      (hereOf second).wave.mask.map (fun e => (e.id, e.second, e.pc)) = [(2, true, 0x10010)] ∧
      (hereOf second).wave.pc + 8 ≠ 0x10010) ∧
    (Issues (onWave second fun w => { w with pc := 0x10008 }) rcvForm (hereOf (onWave second fun w => { w with pc := 0x10008 }))
        (lanesOf second .always) ∧ (lanesOf second .always).length = (hereOf second).wave.active.length) ∧
    (let w := (hereOf { after (.rcv { g := .always, j := 2, t := 0 }) split with cur := .wave 0 0 }).wave
     w.mask.map (fun e => (e.id, e.second, e.pc)) = [(2, true, 0x10028)]) := by
  refine ⟨⟨?_, ?_, ?_, ?_, ?_⟩, ⟨?_, ?_, ?_⟩, ⟨?_, ?_, ?_⟩, ⟨?_, ?_, ?_⟩, ⟨?_, ?_⟩, ?_⟩ <;>
    first | decide +kernel | (unfold Issues; decide +kernel)

/-- R36: the running side turns to the other one. -/
theorem test_rcv_turns : (hereOf (after (.rcv { g := .always, j := 2, t := 0 }) split)).wave.pc = 0x10010#52 := by
  decide +kernel

def yieldForm : Form := { rcvForm with whole := true, orders := true }

theorem wit_ReformAndYield :
    (Issues many rcvForm (hereOf many) (lanesOf many .always) ∧ (hereOf many).hand = none ∧
      (hereOf many).wave.crew = none ∧ (hereOf many).wave.mask = [] ∧
      many.basinsFor 0 ((lanesOf many .always).map fun e => (e.2, (hereOf many).wave.pc + 8)) = true) ∧
    (hereOf crew).wave.crew.isSome = true ∧
    (Issues one yieldForm (hereOf one) (lanesOf one .always) ∧ MayYield one (hereOf one) (lanesOf one .always) ∧
      lanesOf one .always = [(0, lane0 one)] ∧ (hereOf one).wave.crew = none ∧
      ∃ s1, yieldCommits (lanesOf one .always) one (hereOf one) = .ok s1) ∧
    (Issues firm yieldForm (hereOf firm) (lanesOf firm .always) ∧ (hereOf firm).hand = some 16 ∧
      MayYield firm (hereOf firm) (lanesOf firm .always)) ∧
    (Issues crew yieldForm (hereOf crew) (lanesOf crew .always) ∧ MayYield crew (hereOf crew) (lanesOf crew .always) ∧
      ∃ t, crew.yieldLanes (hereOf crew) (lanesOf crew .always) 1 ((hereOf crew).wave.pc + 8) (fun _ => .bin) = .ok t) := by
  refine ⟨⟨?_, ?_, ?_, ?_, ?_⟩, ?_, ⟨?_, ?_, ?_, ?_, _, eq_of_isFine one ?_⟩, ⟨?_, ?_, ?_⟩, ?_, ?_, _,
      eq_of_isFine one ?_⟩ <;>
    first | decide +kernel | (unfold Issues; decide +kernel) | (unfold MayYield; decide +kernel)

/-- R226: the lane's record is filed with cause 1 and resumes at the next slot. -/
theorem test_yield :
    ((after (.yield { g := .always }) one).cluster 0).bins.flatMap (fun e => e.2.recs.map fun t => (t.cause, t.pc)) =
      [(1, 0x10008#52)] := by decide +kernel

/-- v2 holds the address of the word 0x04030201, and v0 that word. -/
def awaiting : State := withRegs data [(0, 0x04030201#32)]
def await : AwaitOp := { g := .always, cond := .eq, a := .v 2, off := 0, c := 0 }
def awaitAddr (t : Thread) : Nat := (Src.int64 (hereOf awaiting).wave none t (.v 2) + (0 : Word).signExtend 64).toNat
def awaitReqs : List Req := (lanesOf awaiting .always).map fun e => awaitReq (awaitAddr e.2) e
def awaitAccs : List Acc := accsOf awaiting awaitReqs .read true
def awaitState : State := passed awaiting awaitReqs .read true

theorem wit_WaitingYields :
    (Issues awaiting { len := 16, g := .always, final := true, whole := true, orders := true, uses := (0, 1) :: Src.run 2 (.v 2) } (hereOf awaiting)
        (lanesOf awaiting .always) ∧ (hereOf awaiting).hand = none ∧
      (∀ e ∈ lanesOf awaiting .always, 0 < awaiting.carryOf e.2) ∧
      (∀ e ∈ lanesOf awaiting .always, awaitAddr e.2 < windowBase ∧ awaitAddr e.2 % 4 = 0) ∧
      Passes awaiting (hereOf awaiting) awaitReqs .read true awaitAccs awaitState ∧
      poisonHit awaitState (hereOf awaiting) awaitAccs = none ∧
      MayYield awaitState (hereOf awaiting) (lanesOf awaiting .always) ∧
      ∃ t, let r := awaitState.loadAll (hereOf awaiting) (.strong .d) awaitAccs
        r.2.2.yieldLanes { hereOf awaiting with wave := r.2.1 } (r.2.1.passing .always) 2 (r.2.1.pc + 16) (fun u =>
          if wcondHolds .eq 32 (((r.1.find? fun e => e.1.req.t.uid = u.uid).map fun e => natOf e.2).getD 0)
            (u.reg 0).toNat then .bin
          else .wait (awaitDesc .eq 0 (awaitAddr u))) = .ok t) ∧
    (Issues one { len := 16, g := .always, final := true, cluster := true, whole := true, orders := true } (hereOf one) [(0, lane0 one)] ∧
      0 < one.barCount (hereOf one).wave.kid false ∧ one.blockOf (lane0 one) = some (block0 one) ∧
      MayYield one (hereOf one) [(0, lane0 one)] ∧
      (block0 one).member (lane0 one).uid (one.barrier (block0 one) false 0).group = true ∧
      (lane0 one).pending false 0 = none ∧
      ∃ t, let r := one.arrive (hereOf one) { lane0 one with batch := (lane0 one).batch + 1 } (block0 one) false 0
        r.1.yieldLanes (hereOf one) [(0, r.2)] 3 ((hereOf one).wave.pc + 16)
          (fun _ => .wait (BitVec.ofNat 64 (2 * 2 ^ 62))) = .ok t) := by
  refine ⟨⟨?_, ?_, ?_, ?_, passes_of ?_, ?_, ?_, _, eq_of_isFine one ?_⟩, ?_, ?_, ?_, ?_, ?_, ?_, _,
      eq_of_isFine one ?_⟩ <;>
    first | decide +kernel | (unfold Issues; decide +kernel) | (unfold MayYield; decide +kernel)

/-- R227: a condition that holds files the record with no wait descriptor. -/
theorem test_await :
    ((after (.await await) awaiting).cluster 0).bins.flatMap (fun e => e.2.recs.map fun t => (t.cause, t.wait)) =
      [(2, 0)] ∧
    ((after (.await { await with cond := .ne }) awaiting).cluster 0).waiting.map Thread.cause = [2] := by
  decide +kernel

/-- Firmware that waits for a word of 0. -/
def firmReqs : List Req := (lanesOf firm .always).map fun e => awaitReq 0x20000 e
def firmAccs : List Acc := accsOf firm firmReqs .read true

theorem wit_WaitingHandlers :
    Issues firm { len := 16, g := .always, final := true, whole := true, orders := true, uses := (0, 1) :: Src.run 2 (.k 0) }
      (hereOf firm) (lanesOf firm .always) ∧ (hereOf firm).hand.isSome = true ∧
    (∀ e ∈ lanesOf firm .always, (Src.int64 (hereOf firm).wave none e.2 (.k 0) + (0x20000 : Word).signExtend 64).toNat = 0x20000) ∧
    Passes firm (hereOf firm) firmReqs .read true firmAccs (passed firm firmReqs .read true) ∧
    poisonHit (passed firm firmReqs .read true) (hereOf firm) firmAccs = none ∧
    MayYield (passed firm firmReqs .read true) (hereOf firm) (lanesOf firm .always) ∧
    (∀ e ∈ lanesOf firm .always, wcondHolds .eq 32 0 (e.2.reg 0).toNat = true) ∧
    (∀ e ∈ lanesOf firm .always, wcondHolds .ne 32 0 (e.2.reg 0).toNat = false) := by
  refine ⟨?_, ?_, ?_, passes_of ?_, ?_, ?_, ?_, ?_⟩ <;>
    first | decide +kernel | (unfold Issues; decide +kernel) | (unfold MayYield; decide +kernel)

/-- Members with an arrival pending in the phase that runs, and in one that is over, and a thread that is no member. -/
theorem wit_WaitingPhases :
    (let t : Thread := { lane0 one with pend := [{ gang := false, n := 0, phase := 0 }] }
     t.pending false 0 = some { gang := false, n := 0, phase := (one.barrier (block0 one) false 0).phase }) ∧
    (lane0 waitsPast).pending false 15 = some { gang := false, n := 15, phase := 7 } ∧
    (one.barrier (block0 one) false 15).phase ≠ 7 ∧ (block0 one).member (lane0 one).uid 14 = false := by decide +kernel

theorem wit_ExitRetires :
    (Issues firm { rcvForm with orders := true } (hereOf firm) (lanesOf firm .always) ∧ (hereOf firm).hand = some 16) ∧
    (Issues one { rcvForm with orders := true } (hereOf one) (lanesOf one .always) ∧ (hereOf one).hand = none ∧
      flagsClear (lanesOf one .always) = true ∧ one.crewStop (hereOf one) = none ∧
      ∃ s0 s1, State.exitCommits (lanesOf one .always) one (hereOf one) = .ok s0 ∧
        s0.lastCommit (hereOf one) (lanesOf one .always) = .ok s1) := by
  refine ⟨⟨?_, ?_⟩, ?_, ?_, ?_, ?_, _, _, eq_of_isFine one ?_, eq_of_isFine one ?_⟩ <;>
    first | decide +kernel | (unfold Issues; decide +kernel)

/-- R231, R41: the last thread of a block leaves no wave, and its store is at D. -/
theorem test_exit :
    Table.get? ((after (.exit { g := .always }) pending).core 0).waves 0 = none ∧
    (Table.get? (after (.exit { g := .always }) pending).blocks 4).map (fun b => b.live) = some [] := by decide +kernel

/-- The crew of the acting wave. -/
def crew0 (s : State) : Crew :=
  (s.crewHere (hereOf s)).getD { uid := 0, kid := 0, blockUid := 0, formed := 0, tiles := [], sparse := false, pend := none }

/-- What CREW makes of the lanes of a wave. -/
def forming (s : State) : Option Memory :=
  let c : Crew := { uid := s.uids, kid := 1, blockUid := 4, formed := s.mem.pos, tiles := [], sparse := false, pend := none }
  let s1 := ({ s with uids := s.uids + 1 }).updCore 0 fun k => { k with crews := Table.put k.crews 1 c }
  s1.mem.joinCrew (s1.linksOf (hereOf s) { lane0 s with crewRef := some { uid := s.uids, id := 1, lane := 0 } }).c
    (((lanesOf s .always).filter fun e => e.2.ray.isNone).map fun e => (s.linksOf (hereOf s) e.2).c.party)
/-- Lane 0 holds a byte at C on a core whose C buffers another party fills. -/
def crowded : State :=
  let c := (many.linksOf (hereOf many) (lane0 many)).c
  let e (n : Nat) : BufEntry :=
    { tag := n, inLog := false, bytes := [{ addr := n * 4096, val := 0, who := [5], marks := [] }] }
  let b (p : Party) (l : List Nat) : Buf :=
    { party := p, level := .c, place := c.place, kid := 1, entries := l.map e, arrivals := [], window := 0 }
  { many with mem := { many.mem with bufs := [b (.thread 999) (natsFrom 8 c.cap), b c.party [0]] } }

theorem wit_CrewsFormAndEnd :
    (Issues many { f8 [] with uniform := true, final := true, cluster := true } (hereOf many) (lanesOf many .always) ∧
      (hereOf many).wave.crew = none ∧ (hereOf many).wave.active.length = 32 ∧
      Table.lowest (many.core 0).crews 64 0 = some 1 ∧ (lanesOf many .always).head? = some (0, lane0 many) ∧
      (forming many).isSome = true ∧
      -- a core whose ids are all in use
      Table.lowest ((many.updCore 0 fun k => { k with crews := (natsFrom 0 64).map fun n => (n, crew0 crew) }).core 0).crews
        64 0 = none) ∧
    (Issues crowded { f8 [] with uniform := true, final := true, cluster := true } (hereOf crowded) (lanesOf crowded .always) ∧
      forming crowded = none) ∧
    (Issues crew { f8 [] with uniform := true, final := true, cluster := true, orders := true } (hereOf crew)
        (lanesOf crew .always) ∧
      (hereOf crew).wave.fullCrew = true ∧ crew.crewStop (hereOf crew) = none ∧
      (∃ s1 ts, crew.commitParty (hereOf crew) (lanesOf crew .always) .b = .ok (s1, ts)) ∧
      (∀ e ∈ lanesOf crew .always, e.2.ray = none)) := by
  refine ⟨⟨?_, ?_, ?_, ?_, ?_, ?_, ?_⟩, ⟨?_, ?_⟩, ?_, ?_, ?_, ⟨_, _, eq_of_isFine (one, []) ?_⟩, ?_⟩ <;>
    first | decide +kernel | (unfold Issues; decide +kernel)

/-- R35: CREW gives the lanes the lowest free id. -/
theorem test_crew :
    (hereOf (after (.crew { g := .always }) { many with cores := listUpd many.cores 0 fun k => { k with crews := [] } })).wave.crew =
      some 0 ∧
    (hereOf (after (.uncrew { g := .always }) crew)).wave.crew = none := by decide +kernel

/-! ### Exceptions and checks (spec/19, spec/16, spec/07) -/

theorem wit_FaultEndsTheGrid :
    (hereOf one).hand = none ∧ (one.ctx (hereOf one).wave.ctx).dbg.ctl.getLsbD 18 = false ∧
    (Table.get? one.grids (one.rootOf (hereOf one).wave.kid)).map Grid.fault = some none := by decide +kernel
theorem wit_HandlerFaultGoesToHost :
    (hereOf firm).hand = some 16 ∧ 16 < firm.handlers.length ∧ (firm.endHandler 16).dev.hostWait = [] ∧
    (firm.endHandler 16).dev.qcount < 256 := by decide +kernel

/-- R428, R431: the record of a misaligned load names code 0x03 and its address, and the grid ends. -/
theorem test_fault_record :
    (Table.get? (after (.ld (ld .w32 .none)) (withRegs data [(2, 0x20001#32)])).grids 1).bind
        (fun g => g.fault.map fun r => (g.ending, r.cls, r.addr)) = some (true, 3, 0x20001#64) := by decide +kernel

/-- A context whose breakpoints freeze, with the skid buffer in place; and a wave that passes a hit. -/
def freezing : State :=
  { one.updCtx 0 fun c => { c with dbg := { c.dbg with ctl := 0x4000#64 } } with dev := { one.dev with skidActive := true } }
def passing : State := onWave one fun w => { w with skipHit := .bkpt }

theorem wit_TrapsAndBreakpoints :
    (Issues one rcvForm (hereOf one) (lanesOf one .always) ∧ (lanesOf one .always).head? = some (0, lane0 one) ∧
      (hereOf one).wave.skipHit.covers .bkpt = false ∧ (one.ctx 0).dbg.ctl.getLsbD 14 = false) ∧
    (Issues passing rcvForm (hereOf passing) (lanesOf passing .always) ∧ (hereOf passing).wave.skipHit.covers .bkpt = true) ∧
    (Issues freezing rcvForm (hereOf freezing) (lanesOf freezing .always) ∧ (hereOf freezing).wave.skipHit.covers .bkpt = false ∧
      ((freezing.ctx (hereOf freezing).wave.ctx).dbg.ctl.getLsbD 14 && freezing.dev.skidActive) = true ∧
      clusterOf (hereOf freezing).core < freezing.clusters.length) := by
  refine ⟨⟨?_, ?_, ?_, ?_⟩, ⟨?_, ?_⟩, ?_, ?_, ?_, ?_⟩ <;> first | decide +kernel | (unfold Issues; decide +kernel)

theorem wit_ClauseHeader :
    (one.here = some (hereOf one) ∧ (hereOf one).wave.clause = none) ∧
    (flagged.here = some (hereOf flagged) ∧ (hereOf flagged).wave.clause.isSome = true) := by decide +kernel
/-- R174: a count of 0 opens a body of 16. -/
theorem test_clause_sixteen :
    (hereOf (after (.clause { count := 0, fb := 15, fa := 3, wait := 8 }) one)).wave.clause.map Clause.left = some 16 := by
  decide +kernel

theorem wit_CommonChecks :
    (one.here = some (hereOf one) ∧ (hereOf one).wave.mode = .user) ∧
    (even.here = some (hereOf even) ∧
      Form.illegal { len := 16, g := .pred false 1, uniform := true, final := true } (hereOf even) = false ∧
      ((hereOf even).wave.passing (.pred false 1)).head?.isSome = true ∧
      ((hereOf even).wave.passing (.pred false 1)).length ≠ (hereOf even).wave.active.length) ∧
    (Form.illegal (intForm { i32 with g := .pred false 15 }) (hereOf one) = false ∧
      (hereOf one).wave.passing (.pred false 15) = []) := by decide +kernel
/-- R182: SRD at user level raises 0x11. -/
theorem test_privilege :
    (Table.get? (after (.srd { g := .always, d := 2, n := 0, i := 0 }) one).grids 1).bind (fun g => g.fault.map FaultRec.cls) =
      some 0x11 := by decide +kernel

/-- Lanes that hold eight registers. -/
def small : State := onLanes one fun _ t => { t with base := 8 }
theorem wit_RegisterRange :
    small.here = some (hereOf small) ∧ Form.illegal (intForm { i32 with d := 8 }) (hereOf small) = false ∧
    (((hereOf small).wave.passing .always).find? fun e => !e.2.inRange (intForm { i32 with d := 8 }).uses).isSome = true ∧
    (((hereOf small).wave.passing .always).find? fun e => !e.2.inRange (intForm { i32 with d := 7 }).uses) = none := by
  decide +kernel

/-! ### Claims, tiles, copies (spec/02, spec/09) -/

/-- A grid whose threads start with 8 registers and may hold 16. -/
def claiming : State :=
  small.updGrid 1 fun g => { g with lrec := { g.lrec with base := 8, ceil := 16 } }
/-- A crew with two tiles. -/
def tiles : State :=
  crew.updCore 0 fun k => { k with crews := Table.upd k.crews 0 fun c => { c with tiles := [[], []] } }
def lrec0 (s : State) : LaunchRec := (s.lrec? 1).getD (oneBlock 0)
/-- A wave parked on a claim of one granule, and on one that the core cannot give. -/
def parkedOn (n : Nat) : State := onWave claiming fun w => { w with park := .claim false n 0 }
def core0 : CoreId := { cl := 0, co := 0 }
/-- A load in flight will write a register that a release takes back. -/
def claimingBusy : State :=
  let p : PendOp :=
    { slot := 0, flag := some 1, uids := [5], writes := vWrites (lane0 claiming) 12 [7], late := [], scr := false
      stash := [], eng := none }
  claiming.updCore 0 fun k => { k with ops := [(0, p)] }
def wave0 (s : State) : Wave := (hereOf s).wave

theorem wit_ClaimsComplete :
    (ClaimIssues claiming .always false (hereOf claiming) (lanesOf claiming .always) ∧
      claiming.lrec? (hereOf claiming).wave.kid = some (lrec0 claiming) ∧
      (∀ e ∈ lanesOf claiming .always, e.2.base + 8 * (e.2.claimed + 1) ≤ (lrec0 claiming).ceil) ∧
      (claiming.core (hereOf claiming).core).ops = []) ∧
    (ClaimIssues claimingBusy .always false (hereOf claimingBusy) (lanesOf claimingBusy .always) ∧
      ((claimingBusy.core 0).ops.any fun e => e.2.slot = 0 && e.2.writes.any fun w => w.above fun uid =>
        ((lanesOf claimingBusy .always).find? fun e => e.2.uid = uid).map fun e => e.2.base + 8 * (e.2.claimed - 1)) = true) ∧
    (ClaimIssues tiles .always true (hereOf tiles) (lanesOf tiles .always) ∧ tiles.crewHere (hereOf tiles) = some (crew0 tiles) ∧
      tiles.lrec? (hereOf tiles).wave.kid = some (lrec0 tiles) ∧ (crew0 tiles).tiles.length + 14 ≤ (lrec0 tiles).accCeil ∧
      tiles.engineBusy 0 (crew0 tiles).uid = false) ∧
    (Issues one { f8 [(1, 1)] with cluster := true } (hereOf one) (lanesOf one .always) ∧
      one.lrec? (hereOf one).wave.kid = some (lrec0 one)) ∧
    ((parkedOn 1).cluster 0).dbg.frozen = false ∧ (parkedOn 1).dev.stopped = false ∧
    (parkedOn 1).claimHead 0 false = some 0 ∧
    Table.get? ((parkedOn 1).core 0).waves 0 = some (wave0 (parkedOn 1)) ∧
    (wave0 (parkedOn 1)).park = .claim false 1 0 ∧ (parkedOn 1).taskAhead 0 false (wave0 (parkedOn 1)) = false ∧
    (parkedOn 1).meets 0 false ((parkedOn 1).claimAsk 0 (wave0 (parkedOn 1)) false 1) = true ∧
    (parkedOn 65536).meets 0 false ((parkedOn 65536).claimAsk 0 (wave0 (parkedOn 65536)) false 65536) = false ∧
    (lane0 small).limit ≤ 8 ∧ 15 < (lane0 small).limit + 8 * 1 + 1 := by
  refine ⟨⟨?_, ?_, ?_, ?_⟩, ⟨?_, ?_⟩, ⟨?_, ?_, ?_, ?_, ?_⟩, ⟨?_, ?_⟩, ?_, ?_, ?_, ?_, ?_, ?_, ?_, ?_, ?_, ?_⟩ <;>
    first | decide +kernel | (unfold ClaimIssues Issues; decide +kernel) | (unfold Issues; decide +kernel)

/-- R45: a granule adds eight registers; R47: a release takes them back. -/
theorem test_claim_release :
    (lane0 (after (.regclm { g := .always, n := 1 }) claiming)).limit = 16 ∧
    (lane0 (after (.regrel { g := .always, n := 1 }) (after (.regclm { g := .always, n := 1 }) claiming))).limit = 8 ∧
    regAfter (.rquery { g := .always, sel := 5, d := 1 }) claiming 0 1 = some 16 := by decide +kernel

def stashOp (e : BitVec 3) : TiledefStOp := { g := .always, inv := false, entry := e, a := .v 4, count := 1, line := 0 }
/-- A block with 64 KiB of stash, and v4 the address 0x28000. -/
def stash : State := (withRegs one [(4, 0x28000#32)]).updGrid 1 fun g => { g with lrec := { g.lrec with t := 65536 } }

def mapped : State := after (.tiledefSt (stashOp 0)) stash
/-- A line of the mapping is missed and being filled. -/
def filling : State := after (.ld { ld .w32 .none with a := .v 4 }) mapped
/-- A stage of the block has completed. -/
def staged : State := onBlock one fun b => { b with
  done := [{ uid := 0, blockUid := 4, episode := 0, batch := 0, stage := some 0, view := { floor := 7, bytes := [] } }] }

theorem wit_TilesAndStages :
    (Issues one { f8 [] with uniform := true, cluster := true } (hereOf one) (lanesOf one .always) ∧
      (∀ e ∈ lanesOf one .always, (one.blockOf e.2).isSome = true) ∧
      one.lrec? (hereOf one).wave.kid = some (lrec0 one) ∧ one.blocksHere (lanesOf one .always) = [block0 one]) ∧
    (staged.blockOf (lane0 staged) = some (block0 staged) ∧ ((block0 staged).done.any fun d => d.stage.isSome) = true ∧
      (staged.stageView (lane0 staged)).at 0 = 7) ∧
    (Issues one { len := 16, g := .always, uniform := true, cluster := true } (hereOf one) (lanesOf one .always) ∧
      63 < (lrec0 one).tiles ∧ (∀ b ∈ one.blocksHere (lanesOf one .always), 500 + 11 < (one.sizes b).1 / 128) ∧
      (∀ b ∈ one.blocksHere (lanesOf one .always), one.tileMoves b 63 = false) ∧
      one.scratchBusy (hereOf one) = false) ∧
    (Issues stash { len := 16, g := .always, uniform := true, cluster := true } (hereOf stash) (lanesOf stash .always) ∧
      (∀ e ∈ lanesOf stash .always, (stash.blockOf e.2).isSome = true) ∧
      (lanesOf stash .always).head? = some (0, lane0 stash) ∧
      (∀ b ∈ stash.blocksHere (lanesOf stash .always), Table.get? b.st 7 = none) ∧
      offGlobal 0x28000 = false ∧ 0x28000 % 128 = 0 ∧
      (Src.int64 (hereOf stash).wave none (lane0 stash) (.v 4)).toNat = 0x28000 ∧
      (∀ b ∈ stash.blocksHere (lanesOf stash .always),
        stash.mapRefused b 7 { line := 0, count := 1, base := 0x28000 } = false) ∧
      (Table.get? stash.blocks (block0 stash).uid).isSome = true ∧ (block0 stash).core < stash.cores.length ∧
      stash.cc.lines = []) ∧
    (Issues filling { len := 16, g := .always, uniform := true, cluster := true } (hereOf filling)
        (lanesOf filling .always) ∧
      (filling.blocksHere (lanesOf filling .always)).map Block.uid = [4] ∧
      Table.get? (block0 filling).st 0 = some { line := 0, count := 1, base := 0x28000 } ∧
      filling.mapBusy (block0 filling) { line := 0, count := 1, base := 0x28000 } = true) ∧
    (Issues tiled { f8 [] with uniform := true, cluster := true } (hereOf tiled) (lanesOf tiled .always) ∧
      (∀ e ∈ lanesOf tiled .always, (tiled.tileNamed e.2 5).isSome = true) ∧
      (∀ b ∈ tiled.blocksHere (lanesOf tiled .always), tiled.tileMoves b 5 = false) ∧
      tiled.scratchBusy (hereOf tiled) = false) ∧
    -- a line that SETE has emptied in this cc, to which a write completes
    (let s := after (.sete { g := .always, im := none, a := .v 2, b := .k 0 }) one
     0 < s.cores.length ∧ s.cc.lines.map (fun e => (e.core, e.line, e.row)) = [(0, 0, 5)]) := by
  refine ⟨⟨?_, ?_, ?_, ?_⟩, ⟨?_, ?_, ?_⟩, ⟨?_, ?_, ?_, ?_, ?_⟩, ⟨?_, ?_, ?_, ?_, ?_, ?_, ?_, ?_, ?_, ?_, ?_⟩,
      ⟨?_, ?_, ?_, ?_⟩, ⟨?_, ?_, ?_, ?_⟩, ?_⟩ <;>
    first | decide +kernel | (unfold Issues; decide +kernel)

/-- R275: a tile of four lines at line 0; R277: its lines become empty. -/
theorem test_tiles :
    (Table.get? (block0 (after (.tiledef { g := .always, inv := false, tile := 5, base := 0, count := 3 }) one)).tl 5) =
      some { base := 0, count := 3 } ∧
    ((after (.tilest { g := .always, ready := false, tile := 5 }) tiled).core 0).empty = [0, 1, 2, 3] ∧
    (Table.get? (block0 (after (.tiledefSt (stashOp 7)) stash)).st 7) = some { line := 0, count := 1, base := 0x28000 } := by
  decide +kernel

/-- Tile 5, a copy program of eight elements of four bytes at 0x20100, bytes 1 to 32 at 0x20000, a destination at
0x20400. -/
def copying : State :=
  let s := withRegs tiled [(4, 0x20000#32), (6, 0x20100#32), (8, 0x20400#32)]
  let m := s.mem.place 0x20000 ((natsFrom 1 32).map fun n => BitVec.ofNat 8 n)
  { s with mem := m.place 0x20100 (bytesOf 8 0x80024) }
def acopy : AcopyOp := { g := .always, out := false, tile := 5, ga := .v 4, so := .k 0, pa := .v 6, hint := .none }
def acopyg : AcopygOp := { g := .always, scatter := false, sb := .v 4, db := .v 8, pa := .v 6, hint := .none }
def copyReqs (tile : Bool) : List CopyReq :=
  (lanesOf copying .always).map fun e =>
    { lane := e.1, t := e.2, prog := 0x20100, gbase := 0x20000, other := if tile then 0 else 0x20400, so := 0 }

/-- The copies that pass their checks. -/
def copiesOf (r : CopyChk × State) : List (CopyReq × Prog) :=
  match r.1 with
  | .ok l => l
  | _ => []
def isCopies (r : CopyChk × State) : Bool :=
  match r.1 with
  | .ok _ => true
  | _ => false
theorem eq_of_isCopies {r : CopyChk × State} (p : isCopies r = true) : r = (.ok (copiesOf r), r.2) := by
  obtain ⟨a, b⟩ := r
  cases a with
  | ok l => rfl
  | fault f => exact absurd p (by simp [isCopies])
  | unit l e => exact absurd p (by simp [isCopies])

/-- How many bytes the tile of a lane's own block has. -/
def tileBytes (s : State) (r : CopyReq) : Option Nat := (s.tileNamed r.t 5).map fun e => (e.2.count + 1) * 128
/-- A copy whose tile has an empty line; and a thread that has sealed the batch of a copy in flight. -/
def unready : State := copying.updCore 0 fun k => { k with empty := [0] }
def acopyForm : Form :=
  { len := 16, g := .always, cluster := true, orders := true
    uses := Src.run 2 (.v 4) ++ Src.run 1 (.k 0) ++ Src.run 2 (.v 6) }
def acopygForm : Form :=
  { len := 16, g := .always, cluster := true, orders := true
    uses := Src.run 2 (.v 4) ++ Src.run 2 (.v 8) ++ Src.run 2 (.v 6) }
def checked (s : State) (tile : Bool) : CopyChk × State :=
  s.checkCopies (hereOf s).via 0 tile (fun r => if tile then tileBytes s r else none) (copyReqs tile)
/-- Copies queued: into the tile, out of it, and of global memory. -/
def queued (tile : Bool) (kind : CopyKind) (s : State) : State :=
  (copiesOf (checked copying tile)).foldl (fun s e => s.queueCopy 0 (copyOf s (hereOf copying) s.uids e.1 kind
    (e.2.pieces e.1.gbase (if tile then (block0 copying).scratch else e.1.other)))) s
def awaited : State := onLanes (queued true .tileIn copying) fun _ t => { t with batch := t.batch + 1 }

theorem wit_CopiesComplete :
    (Issues copying acopyForm (hereOf copying) (lanesOf copying .always) ∧
      (∀ e ∈ lanesOf copying .always, e.2.ray = none) ∧ copying.requestsFull (hereOf copying) = false ∧
      ∃ l s', checked copying true = (.ok l, s') ∧
        (∀ e ∈ lanesOf copying .always, s'.tileReady e.2 5 = true) ∧ s'.queueRoom 0 1 = true) ∧
    (Issues unready acopyForm (hereOf unready) (lanesOf unready .always) ∧
      ∃ l s', checked unready true = (.ok l, s') ∧ (∀ e ∈ lanesOf unready .always, s'.tileReady e.2 5 = false)) ∧
    (Issues copying acopygForm (hereOf copying) (lanesOf copying .always) ∧
      ∃ l s', checked copying false = (.ok l, s') ∧ s'.queueRoom 0 1 = true) ∧
    -- a queue that is full, whatever its capacity
    copying.queueRoom 0 (33 + Config.copyQueue) = false ∧
    (Issues one { f8 [(1, 1)] with cluster := true } (hereOf one) (lanesOf one .always) ∧
      (∀ e ∈ lanesOf one .always, e.2.batch < 2 ^ 32)) ∧
    (Issues one { f8 (runs [.k 0]) with cluster := true } (hereOf one) (lanesOf one .always) ∧
      (∀ e ∈ lanesOf one .always, one.batchBusy e.2 (min 0 (e.2.batch - 1)) = false)) ∧
    (Issues awaited { f8 (runs [.k 9]) with cluster := true } (hereOf awaited) (lanesOf awaited .always) ∧
      ∃ e ∈ lanesOf awaited .always,
        awaited.batchBusy e.2 (min (Src.int (hereOf awaited).wave none e.2 (.k 9)).toNat (e.2.batch - 1)) = true) := by
  have room (s : State) (h : (s.core 0).copies = []) : s.queueRoom 0 1 = true ∧ s.queueRoom 0 (33 + Config.copyQueue) = false := by
    simp only [State.queueRoom, h, List.filter_nil, List.length_nil, decide_eq_true_eq, decide_eq_false_iff_not]
    omega
  refine ⟨⟨?_, ?_, ?_, _, _, eq_of_isCopies ?_, ?_, (room _ ?_).1⟩, ⟨?_, _, _, eq_of_isCopies ?_, ?_⟩,
    ⟨?_, _, _, eq_of_isCopies ?_, (room _ ?_).1⟩, (room _ ?_).2, ⟨?_, ?_⟩, ⟨?_, ?_⟩, ?_, ?_⟩ <;>
    first | decide +kernel | (unfold Issues; decide +kernel)

/-- A copy into the tile in flight; the same with its one run done; the same without a block. -/
def flying : State := queued true .tileIn copying
def halfway : State := after (.engineWriteComplete { core := core0, n := 0 } 0) flying
def landed : State := after (.engineWriteComplete { core := core0, n := 0 } 0) halfway
def copy0 (s : State) : Option Copy := Table.get? (s.core 0).copies 0
/-- A released stage; a stash whose line is being filled, whose line is present, and which its gang's commit changed. -/
def released : State := after (.stage { g := .always, n := 1 }) one

/-- A copy whose block is gone; and a stash line that is missed, changed at D by its gang, and present. -/
def orphan : State := { landed with blocks := [] }
def commitOf (gang pos : Nat) : Arrival :=
  { pos := pos, tick := 0, party := .gang gang, step := true, makers := []
    bytes := [{ addr := 0x28000, new := 1, old := 0, who := [5], marks := [] }] }
def recalled : State :=
  { mapped.updBlock 4 fun b => { b with lines := [{ line := 0, pa := 0x28000, pos := 0 }] } with
    mem := { mapped.mem with log := [commitOf 3 1], pos := 1 } }
def item0 (n : Nat) : CoreItem := { core := core0, n := n }
def fill0 : Copy := (copy0 filling).getD { ((copy0 flying).getD (copyOf one (hereOf one) 0 { lane := 0, t := lane0 one, prog := 0, gbase := 0, other := 0, so := 0 } .fill [])) with runs := [] }
def copyF : Copy := (copy0 flying).getD fill0
def copyL : Copy := (copy0 landed).getD fill0
def run0 (c : Copy) : Run := (c.runs.head?).getD { idx := 0, g := 0, inb := false, dense := 0, len := 0, data := none, done := false }
/-- A copy behind another; one out of the tile, and the same with an empty line; one that gathers, of which a run is
read; a landed copy that awaits its reads of the peer's; a released stage whose block awaits a page. -/
def behind : State := queued true .tileIn flying
def copyB : Copy := (Table.get? (behind.core 0).copies 1).getD fill0
def leaving : State := queued true .tileOut copying
def stuckOut : State := leaving.updCore 0 fun k => { k with empty := [0] }
def gathering : State := queued false .gather copying
def gathered : State := after (.engineWriteComplete { core := core0, n := 0 } 0) gathering
def copyG : Copy := (copy0 gathered).getD fill0
def farReq (who : RillWho) : RillReq := { tag := 0, sent := 0, who := who, block := false, kid := 0, ctx := 0, old := [] }
def farLanded : State := landed.updRill fun y => { y with out := [farReq (.copy copyL.id)] }
def heldStage : State := { released with
  pages := [{ id := 0, ctx := 0, page := 0, frec := FaultRec.blank 4 0, joined := false, host := false, slot := none
              who := [{ kid := (block0 released).kid, uid := 4, src := 3, frec := FaultRec.blank 4 0 }] }] }

theorem wit_CopyEngineEvents :
    (Runs flying 0 ∧ Table.get? (flying.core 0).copies 0 = some copyF ∧ 0 < flying.cores.length ∧
      copyF.runs[0]? = some (run0 copyF) ∧
      (run0 copyF).done = false ∧ copyF.kind ≠ .fill ∧ copyF.cancelled = false ∧ copyF.stuck = none ∧
      (flying.core 0).copyTurn copyF.turn = true ∧
      (run0 copyF).data = none ∧ copyF.kind.source (run0 copyF) = some (0x20000 / 128) ∧ copyF.kind ≠ .tileOut ∧
      ∃ pa s', flying.copyLine 0 copyF.ctx (copyF.kind.from (run0 copyF)) .read = (.ok pa, s') ∧
        s'.mem.poisoned pa 128 = false) ∧
    (Table.get? (behind.core 0).copies 1 = some copyB ∧ copyB.runs ≠ [] ∧ copyB.kind ≠ .fill ∧ copyB.cancelled = false ∧
      copyB.stuck = none ∧ (run0 copyB).done = false ∧ (behind.core 0).copyTurn copyB.turn = false) ∧
    ((copy0 leaving).map (fun c => (c.kind, (run0 c).data, c.kind.source (run0 c), (leaving.core 0).copyTurn c.turn)) =
        some (.tileOut, none, some 0, true) ∧
      0 ∉ (leaving.core 0).empty ∧ 0 ∈ (stuckOut.core 0).empty) ∧
    (Runs halfway 0 ∧ (copy0 halfway).map (fun c => c.kind) = some .tileIn ∧
      (copy0 halfway).map (fun c => c.runs.map fun r => (r.data.isSome, r.done)) = some [(true, false)]) ∧
    (Runs gathered 0 ∧ copyG.kind = .gather ∧ (copyG.runs.map fun r => (r.data.isSome, r.done)) = [(true, false)] ∧
      (gathered.core 0).copyTurn copyG.turn = true ∧
      ∃ pa s', gathered.copyLine 0 copyG.ctx (copyG.kind.to (run0 copyG)) .write = (.ok pa, s')) ∧
    (Runs orphan 0 ∧ Table.get? (orphan.core 0).copies 0 = some copyL ∧ copyL.kind ≠ .fill ∧ copyL.cancelled = false ∧
      (copyL.runs.all fun r => r.done) = true ∧ orphan.linkBusy (.copy copyL.id) = false ∧
      Table.get? orphan.blocks copyL.blockUid = none ∧ 0 < orphan.cores.length) ∧
    (Runs landed 0 ∧ Table.get? (landed.core 0).copies 0 = some copyL ∧ landed.linkBusy (.copy copyL.id) = false ∧
      farLanded.linkBusy (.copy copyL.id) = true ∧ Table.get? landed.blocks copyL.blockUid = some (block0 landed)) ∧
    (Runs released 0 ∧ Table.get? released.blocks 4 = some (block0 released) ∧
      (Table.get? released.grids (block0 released).kid).map Grid.ending = some false ∧ (block0 released).placed = true ∧
      (block0 released).core = 0 ∧ (block0 released).stageIssued < (block0 released).stage ∧
      released.awaitsPage (block0 released).kid (block0 released).uid = false ∧
      heldStage.awaitsPage (block0 released).kid (block0 released).uid = true) ∧
    (Runs recalled 0 ∧ Table.get? recalled.blocks 4 = some (block0 recalled) ∧
      ((block0 recalled).lines.find? fun y => y.line = 0) = some { line := 0, pa := 0x28000, pos := 0 } ∧
      (block0 recalled).placed = true ∧ (block0 recalled).core = 0 ∧
      recalled.recorded (block0 recalled) { line := 0, pa := 0x28000, pos := 0 } = true) ∧
    (Runs filling 0 ∧ Table.get? filling.blocks 4 = some (block0 filling) ∧
      ((filling.core 0).copies.find? fun e => e.2.kind = .fill && e.2.blockUid = (block0 filling).uid &&
        e.2.runs.any fun r => r.dense = (block0 filling).scratch + (filling.sizes (block0 filling)).1 + 128 * 0) =
          some (0, fill0) ∧
      fill0.cancelled = false ∧ fill0.stuck = none ∧ fill0.runs.head? = some (run0 fill0) ∧
      ∃ pa s1, filling.copyLine 0 fill0.ctx (run0 fill0).g .read = (.ok pa, s1) ∧ s1.mem.poisoned pa 128 = false) := by
  refine ⟨⟨?_, ?_, ?_, ?_, ?_, ?_, ?_, ?_, ?_, ?_, ?_, ?_, _, _, eq_of_isOk 0 ?_, ?_⟩, ⟨?_, ?_, ?_, ?_, ?_, ?_, ?_⟩,
      ⟨?_, ?_, ?_⟩, ⟨?_, ?_, ?_⟩, ⟨?_, ?_, ?_, ?_, _, _, eq_of_isOk 0 ?_⟩, ⟨?_, ?_, ?_, ?_, ?_, ?_, ?_, ?_⟩,
      ⟨?_, ?_, ?_, ?_, ?_⟩, ⟨?_, ?_, ?_, ?_, ?_, ?_, ?_, ?_⟩, ⟨?_, ?_, ?_, ?_, ?_, ?_⟩,
      ?_, ?_, ?_, ?_, ?_, ?_, _, _, eq_of_isOk 0 ?_, ?_⟩ <;>
    first | decide +kernel | (unfold Runs; decide +kernel)

/-- R103: a filled line is present and its scratch line full; R141: a copy lands its bytes. -/
theorem test_copy_engine :
    cellGet (landed.core 0).scratch 31 = 32 ∧ (flying.core 0).empty = [0] ∧ (landed.core 0).empty = [] ∧
    (block0 (after (.stashFillComplete (item0 4) 0) filling)).lines = [{ line := 0, pa := 0x28000, pos := 0 }] := by
  decide +kernel

/-! ### Ray threads (spec/10, spec/03) -/

/-- The grid's acceleration structure stands at 0x21000, and v4 holds its address. -/
def withRay (s : State) (f : RayPart → RayPart) : State :=
  (onLanes (withRegs s [(4, 0x21000#32), (5, 0)]) fun _ t => { t with ray := some (f RayPart.zero) }).updGrid 1
    fun g => { g with header := 0x21000, ray := true }
def rays : State := withRay one id
def aHit : Hit := { Hit.none with t := 0x40000000#32, kind := 1 }
def anyHit : State := withRay one fun r =>
  { r with ep := .anyHit, cand := some aHit, ret := some 0x10000, tmax := 0x7F800000#32, phase := 2 }
def isect : State := withRay one fun r =>
  { r with ep := .isect, cand := some aHit, ret := some 0x10000, tmax := 0x7F800000#32, phase := 2 }
def rayForm (len : Nat) (uses : List RegRun) : Form := { len := len, g := .always, cluster := true, uses := uses }

theorem wit_RayFields :
    (RayIssues rays { len := 8, g := .always, uses := [(1, 1)] } (hereOf rays) (lanesOf rays .always) (fun _ => True) ∧
      ((lanesOf rays .always).map Prod.fst).Nodup ∧
      ∃ ws s', hitWords (lanesOf rays .always) rays (hereOf rays) 7 = (.ok ws, s')) ∧
    RayIssues rays { len := 8, g := .always, uses := runs [.v 2] } (hereOf rays) (lanesOf rays .always)
      (fun t => t.ep ≠ .anyHit ∧ t.ep ≠ .isect) := by
  refine ⟨⟨⟨issues_of (f := rayForm 8 [(1, 1)]) ?_, ?_⟩, ?_, _, _, eq_of_isOk [] ?_⟩,
    ⟨issues_of (f := rayForm 8 (runs [.v 2])) ?_, ?_⟩⟩ <;> decide +kernel

/-- R282: selector 6 is tmin; writing a field takes the hit away. -/
theorem test_rayset :
    regAfter (.rayget { g := .always, sel := 6, d := 1 })
      (after (.rayset { g := .always, sel := 6, a := .v 2 }) (withRegs rays [(2, 0x3F000000#32)])) 0 1 = some 0x3F000000#32 ∧
    ((lane0 (after (.rayset { g := .always, sel := 6, a := .v 2 }) (withRay one fun r => { r with hit := aHit }))).ray.map
      fun r => r.hit.kind) = some 0 := by decide +kernel

/-- TRACE, ACCEPT, IGNORE and REPORT. -/
theorem wit_RaysEnterTraversal :
    (RayIssues rays { len := 16, g := .always, final := true, orders := true, uses := Src.run 2 (.v 4) } (hereOf rays)
        (lanesOf rays .always) (fun t => t.ep = .plain) ∧
      (Table.get? rays.grids (hereOf rays).wave.kid).map Grid.header = some 0x21000 ∧ 0x21000 < windowBase ∧ 0x21000 % 64 = 0 ∧
      (∀ e ∈ lanesOf rays .always, (Src.int64 (hereOf rays).wave none e.2 (.v 4)).toNat = 0x21000) ∧
      flagsClear (lanesOf rays .always) = true ∧ rays.crewBusy (hereOf rays) = false ∧
      ∃ s1, yieldCommits (lanesOf rays .always) rays (hereOf rays) = .ok s1) ∧
    RayIssues anyHit { len := 8, g := .always, final := true, orders := true } (hereOf anyHit) (lanesOf anyHit .always)
      (fun t => t.ep = .anyHit) ∧
    RayIssues isect { len := 8, g := .always, final := true, orders := true } (hereOf isect) (lanesOf isect .always)
      (fun t => t.ep = .anyHit ∨ t.ep = .isect) ∧
    RayIssues isect { len := 8, g := .always, final := true, orders := true, uses := runs [.v 2, .v 3, .v 6] } (hereOf isect)
      (lanesOf isect .always) (fun t => t.ep = .isect) := by
  refine ⟨⟨⟨issues_of (f := { rayForm 16 (Src.run 2 (.v 4)) with final := true, orders := true }) ?_, ?_⟩, ?_, ?_, ?_, ?_, ?_, ?_, _,
      eq_of_isFine one ?_⟩,
    ⟨issues_of (f := { rayForm 8 [] with final := true, orders := true }) ?_, ?_⟩,
    ⟨issues_of (f := { rayForm 8 [] with final := true, orders := true }) ?_, ?_⟩,
    ⟨issues_of (f := { rayForm 8 (runs [.v 2, .v 3, .v 6]) with final := true, orders := true }) ?_, ?_⟩⟩ <;> decide +kernel

/-- A closest-hit episode at depth 0, whose RET ends it; and a crew of rays. -/
def closing : State := withRay one fun r => { r with ep := .closest, ret := some 0x10000, phase := 2 }
def rayCrew : State := withRay crew id

theorem wit_CalloutsEnd :
    Issues closing { f8 (Src.run 2 (.v 4)) with uniform := true, final := true, orders := true } (hereOf closing)
      (lanesOf closing .always) ∧
    (∀ e ∈ lanesOf closing .always, e.2.depth = 0 ∧ (e.2.ray.map RayPart.ep).getD .plain = .closest) ∧
    closing.jumpStop (hereOf closing) [] (.v 4) = none ∧ flagsClear (lanesOf closing .always) = true ∧
    closing.crewBusy (hereOf closing) = false ∧ closing.noRoom (hereOf closing) 1 = false ∧
    ∃ s1 w, closing.endCallouts (hereOf closing) (lanesOf closing .always) = .ok (s1, w) := by
  refine ⟨?_, ?_, ?_, ?_, ?_, ?_, _, _, eq_of_isFine (one, (hereOf one).wave) ?_⟩ <;>
    first | decide +kernel | (unfold Issues; decide +kernel)

theorem wit_RayCrewsEnd :
    Issues rayCrew { f8 [] with uniform := true, final := true, cluster := true, orders := true } (hereOf rayCrew)
      (lanesOf rayCrew .always) ∧ (hereOf rayCrew).wave.fullCrew = true ∧ rayCrew.crewStop (hereOf rayCrew) = none ∧
    (∀ e ∈ lanesOf rayCrew .always, e.2.ray.isSome = true) := by
  refine ⟨?_, ?_, ?_, ?_⟩ <;> first | decide +kernel | (unfold Issues; decide +kernel)

/-- R284: the ray stands in traversal with cause 4. R286: ACCEPT commits the candidate. R287: a nearer REPORT does. -/
theorem test_trace :
    ((after (.trace { g := .always, a := .v 4, flags := none, mask := none, sel := none }) rays).cluster 0).trav.map
      (fun e => e.2.cause) = [4] ∧
    ((after (.accept { g := .always }) anyHit).cluster 0).trav.map (fun e => e.2.ray.map fun r => r.hit.t) =
      [some 0x40000000#32] ∧
    ((after (.report { g := .always, im := none, kind := 9, a := .v 2, b := .k 0, c := .k 0 })
        (withRegs isect [(2, 0x3F800000#32)])).cluster 0).trav.map (fun e => e.2.ray.map fun r => r.hit.kind) = [some 9] := by
  decide +kernel

def rng : RngOp := { g := .always, f := false, dim := 0, d := 1, a := .k 0, b := .k 0, c := .k 0 }
def accumReqs : List Req := (lanesOf data .always).map fun e => genericReq none (.v 2) (.k 0) 16 (hereOf data) e.1 e.2
def accumAccs : List Acc := accsOf data accumReqs .write true

theorem wit_KeyRandomAndAccumulate :
    Issues one { f8 (runs [.v 2]) with cluster := true } (hereOf one) (lanesOf one .always) ∧
    Issues one { f8 ((1, 1) :: runs [.k 0, .k 0, .k 0]) with cluster := true } (hereOf one) (lanesOf one .always) ∧
    (Issues data { f8 ((8, 4) :: Src.run 2 (.v 2)) with cluster := true } (hereOf data) (lanesOf data .always) ∧
      (∀ e ∈ lanesOf data .always, genericAddr (hereOf data).wave none e.2 (.v 2) (.k 0) < windowBase) ∧
      Passes data (hereOf data) accumReqs .write true accumAccs (passed data accumReqs .write true) ∧
      poisonHit (passed data accumReqs .write true) (hereOf data) accumAccs = none ∧
      ∃ r, accumAll [0x20000] (passed data accumReqs .write true) (hereOf data) 8 accumAccs = .ok r) ∧
    (natsFrom 0 16).length = 16 := by
  refine ⟨?_, ?_, ⟨?_, ?_, passes_of ?_, ?_, _, eq_of_isFine (one, (hereOf one).wave) ?_⟩, ?_⟩ <;>
    first | decide +kernel | (unfold Issues; decide +kernel)

/-- R368: ray 0 of the example executes RNG with pixel 0, sample 0, C = 0 and DIM 0, and gets 0x9393_13C5. -/
theorem test_rng : regAfter (.rng rng) one 0 1 = some 0x939313C5#32 := by decide +kernel
theorem test_key : (lane0 (after (.key { g := .always, im := none, a := .v 8 }) data)).key = some 0xA1B2C3D4#32 := by
  decide +kernel
/-- R289: 1.0 added to 0. -/
theorem test_accum :
    (after (.accum { g := .always, a := .v 2, b := .k 16, c := 8 }) (withRegs data [(8, 0x3F800000#32), (11, 1)])).mem.numD
      0x20010 4 = 0x3F800000 ∧
    (after (.accum { g := .always, a := .v 2, b := .k 16, c := 8 }) (withRegs data [(8, 0x3F800000#32), (11, 1)])).mem.numD
      0x2001C 4 = 1 := by decide +kernel

/-! ### The matrix engine (spec/10) -/

/-- A region of 8 by 8 elements. -/
def reg8 : Region := { mc := 0, nc := 0, row := 0, col := 0 }
/-- The format slot of a code, with the tensor scale 1. -/
def slotOf (code : Nat) : Slot := BitVec.ofNat 128 (code + 0x3F800000 * 2 ^ 96)
/-- A crew with 16 accumulator tiles, tile 5 of eight lines in its block, slots FP32, FP16, VQ2 and B4 with its shell
table at 0x20000. -/
def matrix : State :=
  ((crew.updCore 0 fun k => { k with crews := Table.upd k.crews 0 fun c => { c with tiles := List.replicate 16 [] } }).updBlock
    4 fun b => { b with tl := Table.put b.tl 5 { base := 0, count := 63 } }).updGrid 1 fun g =>
      { g with lrec := { g.lrec with slots := [slotOf 0, slotOf 2,
          BitVec.ofNat 128 (8 + 0x2000 * 2 ^ 48 + 0x3F800000 * 2 ^ 96), slotOf 7, 0, 0, 0, 0] } }
def mma (aslot : BitVec 3) (vs : Src) (kc : BitVec 5) : MmaOp :=
  { g := .always, sel := .none, na := false, nb := false, dis := false, reuse := false, aslot := aslot, va := 8, vs := vs
    wm := 0, acc := 15, rstride := 8, cstride := 1, base := 0, reg := reg8, kc := kc, bslot := 1, tile := 5 }
def tile5 : TileEntry := { base := 0, count := 63 }
def blockOf0 : Block := block0 matrix
/-- A crew whose w0 says where its metadata stands: tile 5, line 16. -/
def sparse : State := onWave matrix fun w => w.setReg 0 0x405#32

theorem wit_MatrixProductsIssue :
    (MatrixIssues matrix { len := 16, g := .always, sel := .none } (hereOf matrix) (lanesOf matrix .always) (crew0 matrix) true ∧
      MmaMay matrix (mma 1 (.v 0) 0) false (hereOf matrix) (lanesOf matrix .always) (crew0 matrix) .f16 .f16 blockOf0 tile5
        tile5 0 ∧ EngineRoom matrix (hereOf matrix)) ∧
    (MmaMay matrix (mma 2 (.v 16) 5) false (hereOf matrix) (lanesOf matrix .always) (crew0 matrix) .vq2 .f16 blockOf0 tile5
        tile5 0 ∧
      (∃ shell s', shellSpots (shellKeys ((hereOf matrix).wave.matrix 8 (aBytes .vq2 8 48))) matrix (hereOf matrix).via 0
        (matrix.slotOf 1 2).shell = (.ok shell, s') ∧
          EngineRoom (s'.reachShell (hereOf matrix) (matrix.slotOf 1 2).shell shell) (hereOf matrix))) ∧
    (MatrixIssues sparse { len := 16, g := .always, sel := .none } (hereOf sparse) (lanesOf sparse .always) (crew0 sparse) true ∧
      MmaMay sparse (mma 1 (.v 0) 1) true (hereOf sparse) (lanesOf sparse .always) (crew0 sparse) .f16 .f16
        (block0 sparse) tile5 tile5 2048 ∧ EngineRoom sparse (hereOf sparse)) := by
  refine ⟨⟨⟨issues_of (f := { len := 16, g := .always, sel := .none, uniform := true, cluster := true, orders := true }) ?_, ?_, ?_, ?_⟩,
      ⟨?_, ?_, ?_, ?_, ?_, ?_, ?_, ?_, ?_, ?_, ?_, ?_⟩, ?_⟩,
    ⟨⟨?_, ?_, ⟨16, rfl, ?_⟩, ?_, ?_, ?_, ?_, ?_, ?_, ?_, ?_, ?_⟩, ⟨_, _, eq_of_isOk [] ?_, ?_⟩⟩,
    ⟨issues_of (f := { len := 16, g := .always, sel := .none, uniform := true, cluster := true, orders := true }) ?_, ?_, ?_, ?_⟩,
      ⟨?_, ?_, ?_, ?_, ?_, ?_, ?_, ?_, ?_, ?_, ?_, ?_⟩, ?_⟩ <;>
    first | decide +kernel | (unfold EngineRoom; decide +kernel) | exact ⟨rfl, rfl⟩ | exact ⟨_, rfl⟩

/-- The same crew with the pair v2, v3 of every lane the address 0x20000. -/
def moving : State := withRegs matrix [(2, 0x20000#32), (3, 0)]
def matForm (uses : List RegRun) : Form := { len := 16, g := .always, sel := .none, uses := uses }
def mld : MldOp := { g := .always, sel := .none, acc := 15, a := .v 2, crd := .k 0, reg := reg8, slot := 0, pitch := 32 }
def mstSp : MstSpOp := { g := .always, sel := .none, acc := 15, tile := 5, crd := .k 0, reg := reg8, slot := 0, pitch := 32 }
def mzero : MzeroOp := { g := .always, d := 15 }
def mcvt (amax : Option Src) : McvtOp :=
  { g := .always, sel := .none, tile := 15, d := 12, crd := .k 0, amax := amax, slot := 0, reg := reg8 }
def cbdec : CbdecOp := { g := .always, sel := .none, d := 32, a := 8, b := 10, n := 0, sslot := 2, dslot := 0 }
def bscale : BscaleOp := { g := .always, sel := .none, col := true, tile := 15, a := 8, reg := reg8 }
def rowsOf (kind : Access) : Except UnitErr (List Nat) × State :=
  rowPas 8 moving (hereOf moving).via 0 0x20000 32 32 kind

/-- The state once the lines of the rows have reached the memory-side cache. -/
def reached (kind : Access) : State :=
  (rowsOf kind).2.reachLines (.loadStore 0) 0
    (((natsFrom 0 8).flatMap fun r => natsFrom (0x20000 + r * 32) 32).zip (valOf [] (rowsOf kind)))

theorem wit_MatrixMoves :
    MatrixIssues moving (matForm []) (hereOf moving) (lanesOf moving .always) (crew0 moving) true ∧
    ((moving.slotOf (hereOf moving).wave.kid 0).accepted Fmt.plain = some .f32 ∧ tileHeld (crew0 moving) 15 reg8 = true ∧
      (hereOf moving).wave.lanes.head? = some (0, lane0 moving) ∧
      (Src.int64 (hereOf moving).wave none (lane0 moving) (.v 2)).toNat = 0x20000 ∧
      rowsOf .read = (.ok (valOf [] (rowsOf .read)), (rowsOf .read).2) ∧ EngineRoom ((reached .read).farRead (.thread (lane0 moving).uid) 1 false (valOf [] (rowsOf .read))) (hereOf moving) ∧
      rowsOf .write = (.ok (valOf [] (rowsOf .write)), (rowsOf .write).2) ∧ EngineRoom (reached .write) (hereOf moving)) ∧
    (moving.blockHere (lanesOf moving .always) = some (block0 moving) ∧
      (lanesOf moving .always).head? = some (0, lane0 moving) ∧ moving.tile? (block0 moving) 5 = some tile5 ∧
      pitched 32 4 7 7 + 4 ≤ (tile5.count + 1) * 128 ∧ moving.tileState (block0 moving) tile5 = .ready ∧
      EngineRoom moving (hereOf moving)) := by
  refine ⟨⟨issues_of (f := { len := 16, g := .always, sel := .none, uniform := true, cluster := true, orders := true }) ?_, ?_, ?_, ?_⟩,
    ⟨?_, ?_, ?_, ?_, eq_of_isOk [] ?_, ?_, eq_of_isOk [] ?_, ?_⟩, ?_, ?_, ?_, ?_, ?_, ?_⟩ <;>
    first | decide +kernel | (unfold EngineRoom; decide +kernel)

def amaxPas : Except UnitErr (List Nat) × State := moving.unitPas (hereOf moving).via 0 0x20000 4 .write
def shellOf : Except UnitErr (Table Nat) × State :=
  shellSpots (shellKeys ((hereOf moving).wave.matrix 8 2)) moving (hereOf moving).via 0 (moving.slotOf 1 2).shell

theorem wit_MatrixConversions :
    (MatrixIssues moving { len := 8, g := .always } (hereOf moving) (lanesOf moving .always) (crew0 moving) true ∧
      mzero.d.toNat < (crew0 moving).tiles.length) ∧
    (MatrixIssues moving { len := 8, g := .always, uses := [(15, 1)] } (hereOf moving) (lanesOf moving .always)
        (crew0 moving) true ∧
      moving.engineBusy 0 (crew0 moving).uid = false ∧ (crew0 moving).pend = none) ∧
    (crewInRange (lanesOf moving .always) [(12, runRegs (8 * 8 * 4))] = true ∧
      (Src.int64 (hereOf moving).wave none (lane0 moving) (.v 2)).toNat % 4 = 0 ∧
      amaxPas = (.ok (valOf [] amaxPas), amaxPas.2) ∧ EngineRoom (amaxPas.2.reachLines (.loadStore 0) 0 ([0x20000].zip (valOf [] amaxPas))) (hereOf moving)) ∧
    (MatrixIssues moving (matForm [(8, runRegs 2), (10, runRegs 1)]) (hereOf moving) (lanesOf moving .always)
        (crew0 moving) true ∧
      (moving.slotOf (hereOf moving).wave.kid 2).valid = true ∧ (moving.slotOf 1 2).fmt = some .vq2 ∧
      crewInRange (lanesOf moving .always) [(32, runRegs (8 * 1 * 4))] = true ∧
      shellOf = (.ok (valOf [] shellOf), shellOf.2) ∧ EngineRoom (shellOf.2.reachShell (hereOf moving) (moving.slotOf 1 2).shell (valOf [] shellOf)) (hereOf moving)) ∧
    MatrixIssues moving (matForm [(8, runRegs (4 * 8))]) (hereOf moving) (lanesOf moving .always) (crew0 moving) true := by
  refine ⟨⟨⟨issues_of (f := { len := 8, g := .always, uniform := true, cluster := true, orders := true }) ?_, ?_, ?_, ?_⟩, ?_⟩,
    ⟨⟨issues_of (f := { len := 8, g := .always, uniform := true, cluster := true, orders := true, uses := [(15, 1)] }) ?_, ?_, ?_, ?_⟩,
      ?_, ?_⟩, ⟨?_, ?_, eq_of_isOk [] ?_, ?_⟩,
    ⟨⟨issues_of (f := { matForm [(8, runRegs 2), (10, runRegs 1)] with uniform := true, cluster := true, orders := true }) ?_, ?_, ?_, ?_⟩,
      ?_, ?_, ?_, eq_of_isOk [] ?_, ?_⟩,
    issues_of (f := { matForm [(8, runRegs (4 * 8))] with uniform := true, cluster := true, orders := true }) ?_, ?_, ?_, ?_⟩ <;>
    first | decide +kernel | (unfold EngineRoom; decide +kernel)

/-- A region of 64 by 64 elements fills a tile, one of 8 by 8 stands anywhere in it; a region that begins at the
last eighth of the rows and has more than 8 does not fit. -/
theorem wit_TileElements :
    regFits { mc := 3, nc := 3, row := 0, col := 0 } = true ∧ regFits { mc := 0, nc := 0, row := 7, col := 7 } = true ∧
    regFits { mc := 1, nc := 0, row := 7, col := 0 } = false := by decide +kernel

/-- A load with flag 1 in flight; MZERO and BSCALE handed to the engine; and an operation that will write v5. -/
def loading : State :=
  let p : PendOp :=
    { slot := 0, flag := some 1, uids := [5], writes := vWrites (lane0 data) 5 [7], late := [], scr := false, stash := [], eng := none }
  data.updCore 0 fun k => { k with ops := [(0, p)] }
/-- A plain load of v2 under flag 3, whose bytes at D are read when the flag clears. -/
def later : State := after (.ld (ld .w32 .a)) flagged
def zeroing : State := after (.mzero mzero) moving
def scaling : State := after (.bscale bscale) moving
def op0 (s : State) : PendOp :=
  ((Table.get? (s.core 0).ops 0).getD { slot := 0, flag := none, uids := [], writes := [], late := [], scr := false, stash := [], eng := none })
def eng0 (s : State) : EngineOp := (op0 s).eng.getD (engineOp s (hereOf s) (crew0 s) (.mzero mzero))

/-- A plain load without a flag whose bytes at D are still to be read; an operation whose thread waits for what it reads
of the peer's; one of the engine whose operand has an empty line; and one that has begun and has a line to write. -/
def laterFlagless : State := later.updCore 0 fun k => { k with ops := [(0, { op0 later with flag := none })] }
def farOp : State := loading.updRill fun y => { y with out := [farReq (.thread 5)] }
def onEngine (f : EngineOp → EngineOp) : State :=
  zeroing.updCore 0 fun k => { k with ops := [(0, { op0 zeroing with eng := some (f (eng0 zeroing)) })] }
def shortOperand : State := (onEngine fun o => { o with lines := [3] }).updCore 0 fun k => { k with empty := [3] }
def writing : State := onEngine fun o => { o with i := .mst mld, out := some [(0x20000, 1), (0x20080, 2)] }
def writingTile : State := onEngine fun o => { o with i := .mstSp mstSp, out := some [(0, 1)] }

/-- The operation on core 0, with its engine operation. -/
def opOf (s : State) : PendOp := (Table.get? (s.core 0).ops 0).getD (op0 loading)

theorem wit_LateOperations :
    (Runs laterFlagless 0 ∧ Table.get? (laterFlagless.core 0).ops 0 = some (opOf laterFlagless) ∧
      (opOf laterFlagless).eng = none ∧ (opOf laterFlagless).flag = none ∧ (opOf laterFlagless).late ≠ [] ∧
      (Table.get? (laterFlagless.core 0).waves (opOf laterFlagless).slot).isSome = true) ∧
    (Runs farOp 0 ∧ farOp.linkHolds (opOf farOp).uids = true) ∧ loading.linkHolds (op0 loading).uids = false ∧
    (Runs shortOperand 0 ∧ (opOf shortOperand).eng.map (fun o => (o.out, o.lines)) = some (none, [3]) ∧
      3 ∈ (shortOperand.core 0).empty) ∧
    (zeroing.linkHolds (op0 zeroing).uids = false) ∧
    (Runs writing 0 ∧ (opOf writing).eng.map (fun o => (o.outLines, o.toScratch)) = some ([0x400, 0x401], false) ∧
      writing.farLost [0x20000] = false) ∧
    ((opOf writingTile).eng.map (fun o => (o.outLines, o.toScratch)) = some ([0], true)) := by
  refine ⟨⟨?_, ?_, ?_, ?_, ?_, ?_⟩, ⟨?_, ?_⟩, ?_, ⟨?_, ?_, ?_⟩, ?_, ⟨?_, ?_, ?_⟩, ?_⟩ <;>
    first | decide +kernel | (unfold Runs; decide +kernel)

theorem wit_OperationsComplete :
    (Runs loading 0 ∧ Table.get? (loading.core 0).ops 0 = some (op0 loading) ∧ (op0 loading).eng = none ∧
      (op0 loading).late = [] ∧ (∃ w, (op0 loading).writes[0]? = some w)) ∧
    (Runs later 0 ∧ Table.get? (later.core 0).ops 0 = some (op0 later) ∧ (op0 later).eng = none ∧ 0 < later.cores.length ∧
      ((op0 later).late[0]?).isSome = true) ∧
    (let t := after (.mzero mzero) zeroing
     (Table.get? (t.core 0).ops 1).map (fun p => (p.eng.map EngineOp.out, (t.core 0).mayBegin (eng0 zeroing).id,
        p.eng.map fun o => (t.core 0).mayBegin o.id)) = some (some none, true, some false)) ∧
    (Runs zeroing 0 ∧ Table.get? (zeroing.core 0).ops 0 = some (op0 zeroing) ∧ (op0 zeroing).eng = some (eng0 zeroing) ∧
      (eng0 zeroing).out = none ∧ (zeroing.core 0).mayBegin (eng0 zeroing).id = true ∧ (eng0 zeroing).lines = [] ∧
      (eng0 zeroing).shell = [] ∧ 0 < zeroing.cores.length ∧
      (eng0 zeroing).i = .mzero mzero ∧ (zeroing.begin 0 (eng0 zeroing)).out = []) ∧
    (((zeroing.core 0).crews.find? fun e => e.2.uid = (eng0 zeroing).crewUid) = some (0, crew0 zeroing) ∧
      mzero.d.toNat < (crew0 zeroing).tiles.length) ∧
    ((eng0 scaling).i = .bscale bscale ∧
      ((scaling.core 0).crews.find? fun e => e.2.uid = (eng0 scaling).crewUid) = some (0, crew0 scaling) ∧
      bscale.tile.toNat < (crew0 scaling).tiles.length) := by
  refine ⟨⟨?_, ?_, ?_, ?_, ⟨(vWrites (lane0 data) 5 [7]).head (by decide +kernel), ?_⟩⟩, ⟨?_, ?_, ?_, ?_, ?_⟩, ?_,
    ⟨?_, ?_, ?_, ?_, ?_, ?_, ?_, ?_, ?_, ?_⟩,
    ⟨?_, ?_⟩, ?_, ?_, ?_⟩ <;>
    first | decide +kernel | (unfold Runs; decide +kernel)

/-! ### Textures and launches from threads (spec/10) -/

/-- At 0x20000 a descriptor of 2 by 2 texels R32F at 0x20100, one level, linear between levels; texel (0, 0) is 1. -/
def textured : State :=
  let s := withRegs one [(2, 0x20000#32), (8, 0), (9, 0), (10, 0)]
  let m := s.mem.place 0x20000 (bytesOf 8 0x20100 ++ bytesOf 8 0x0200000300010001)
  { s with mem := m.place 0x20100 (bytesOf 4 0x3F800000) }
def tex2 : Tex2Op := { g := .always, sel := .none, mode := .lod, d := 12, a := .v 2, c := 8, bias := 0 }
def texg : TexgOp := { g := .always, sel := .none, comp := 0, d := 12, a := .v 2, c := 8, level := 0 }
def tex2Place (s : State) (t : Thread) (d : TexDesc) : List Tap × Real' × State :=
  s.taps d (texLambda .lod 0 t 8 d) (t.reg 8) (t.reg 9)
def texgPlace (s : State) (t : Thread) (d : TexDesc) : List Tap × Real' × State :=
  let r := s.tap d (min 0 (d.levels - 1)) true (t.reg 8) (t.reg 9)
  ([r.1], Real'.ofInt 0, r.2)
def texAddr (t : Thread) : Nat := (Src.int64 (hereOf textured).wave none t (.v 2)).toNat
def lanesRead (place : State → Thread → TexDesc → List Tap × Real' × State) :
    List TexLane × Option (Nat × UnitErr) × State :=
  texLanes (hereOf textured) texAddr place (lanesOf textured .always) textured
def texelsRead (place : State → Thread → TexDesc → List Tap × Real' × State) :
    Except (Nat × UnitErr) (List (TexLane × List Rgba)) × State :=
  readTexels (hereOf textured) (lanesRead place).1 (lanesRead place).2.2

theorem wit_TexturesComplete :
    (Issues textured { len := 16, g := .always, sel := .none, cluster := true, uses := (12, 4) :: (8, 3) :: Src.run 2 (.v 2) }
        (hereOf textured) (lanesOf textured .always) ∧ textured.requestsFull (hereOf textured) = false ∧
      TexReads textured (texelsRead tex2Place).2 (hereOf textured) (lanesOf textured .always) (.v 2) tex2Place
        (valOf [] (texelsRead tex2Place))) ∧
    (Issues textured { len := 16, g := .always, sel := .none, cluster := true, uses := (12, 4) :: (8, 2) :: Src.run 2 (.v 2) }
        (hereOf textured) (lanesOf textured .always) ∧
      TexReads textured (texelsRead texgPlace).2 (hereOf textured) (lanesOf textured .always) (.v 2) texgPlace
        (valOf [] (texelsRead texgPlace))) := by
  have go (p : State → Thread → TexDesc → List Tap × Real' × State) (h : (lanesRead p).2.1 = none) :
      lanesRead p = ((lanesRead p).1, none, (lanesRead p).2.2) := by rw [← h]
  refine ⟨⟨?_, ?_, ?_, _, (lanesRead tex2Place).2.2, go tex2Place ?_, ?_,
      eq_of_isOk (r := texelsRead tex2Place) [] ?_⟩, ?_, ?_, _, (lanesRead texgPlace).2.2,
      go texgPlace ?_, ?_, eq_of_isOk (r := texelsRead texgPlace) [] ?_⟩ <;>
    first | decide +kernel | (unfold Issues; decide +kernel)

/-- R291, R294: the texel (0, 0) of format 3 is its number, 0, 0 and 1. -/
theorem test_tex2 : (natsFrom 12 4).map (regAfter (.tex2 tex2) textured 0) =
    [some 0x3F800000#32, some 0, some 0, some 0x3F800000#32] := by decide +kernel
/-- R294, R295: coordinates 0 reach half a texel before (0, 0), and repeat takes index -1 to 1: t11 alone is (0, 0). -/
theorem test_texg : (natsFrom 12 4).map (regAfter (.texg texg) textured 0) =
    [some 0, some 0, some 0, some 0x3F800000#32] := by decide +kernel

/-- v2 holds the address of a launch record of one thread that starts at 0x10000; the family's nesting limit is 4. -/
def launching : State :=
  let s := (withRegs one [(2, 0x20000#32), (3, 0), (4, 0)]).updGrid 1 fun g => { g with lrec := { g.lrec with nest := 4 } }
  { s with mem := s.mem.place 0x20000 { oneBlock 1 with stages := 0, gangBars := 0 }.bytes }
def launchRead : Except (Nat × UnitErr) (List (Nat × Thread × Option LaunchRec)) × State :=
  launchRecs (hereOf launching) (fun t => (Src.int64 (hereOf launching).wave none t (.v 2)).toNat) (lanesOf launching .always)
    launching
def grid1 (s : State) : Grid := (Table.get? s.grids 1).getD (Grid.fresh 0 0 0 0 0 (oneBlock 1) 0)

/-- A thread whose v12 names a child that is open; the same with a replay that records the child complete; and a
context whose counter an SWR of this cc has written. -/
def waitingChild : State :=
  let s := withRegs launching [(12, 0x1007#32)]
  let g : Grid :=
    { Grid.fresh 9 1 0 0 0x10000 (oneBlock 1) 0 with parent := some 1, root := 1, depth := 1, pool := some (7, 1) }
  { s with grids := Table.put s.grids 9 g }
def recordedChild : State :=
  let s := waitingChild.updCtx 0 fun c => { c with dbg := { c.dbg with
    ctl := 0x10000#64, recBase := 0x30000, recSize := 576, recN := [], offReplay := false } }
  let event := [1, 0, 0, 0] ++ bytesOf 8 (inputPayload (hereOf waitingChild).wave.pc.toNat 1 0)
  { s with mem := (s.mem.place 0x30048 [4]).place 0x30054 event }
def swrThenProg : State := { one with cc := { one.cc with swr := [(0x063, 0)] } }
def childHandle (s : State) : Nat := (Src.int (hereOf s).wave none (lane0 s) (.v 12)).toNat

theorem wit_LaunchesWait :
    (Issues waitingChild { len := 8, g := .always, cluster := true, uses := runs [.v 12] } (hereOf waitingChild)
        (lanesOf waitingChild .always) ∧ (lanesOf waitingChild .always) = [(0, lane0 waitingChild)] ∧
      waitingChild.childOpen 0 (childHandle waitingChild) = true ∧
      waitingChild.forced 0 0 (hereOf waitingChild).wave.pc.toNat 1 0 0 = none) ∧
    (Issues recordedChild { len := 8, g := .always, cluster := true, uses := runs [.v 12] } (hereOf recordedChild)
        (lanesOf recordedChild .always) ∧ (lanesOf recordedChild .always)[0]? = some (0, lane0 recordedChild) ∧
      recordedChild.childOpen 0 (childHandle recordedChild) = true ∧
      recordedChild.forced 0 0 (hereOf recordedChild).wave.pc.toNat 1 0 0 = some 1) ∧
    (Issues one { f8 [] with cluster := true } (hereOf one) (lanesOf one .always) ∧
      one.swrStands 0x063 (hereOf one).wave.ctx = false) ∧
    (Issues swrThenProg { f8 [] with cluster := true } (hereOf swrThenProg) (lanesOf swrThenProg .always) ∧
      swrThenProg.swrStands 0x063 (hereOf swrThenProg).wave.ctx = true) := by
  refine ⟨⟨?_, ?_, ?_, ?_⟩, ⟨?_, ?_, ?_, ?_⟩, ⟨?_, ?_⟩, ?_, ?_⟩ <;>
    first | decide +kernel | (unfold Issues; decide +kernel)

theorem wit_LaunchesComplete :
    (Issues launching { len := 8, g := .always, cluster := true, orders := true, uses := (12, 1) :: Src.run 2 (.v 2) } (hereOf launching)
        (lanesOf launching .always) ∧
      (∀ e ∈ lanesOf launching .always,
        (Src.int64 (hereOf launching).wave none e.2 (.v 2)).toNat < windowBase ∧
        (Src.int64 (hereOf launching).wave none e.2 (.v 2)).toNat % 256 = 0) ∧
      launchRead = (.ok (valOf [] launchRead), launchRead.2) ∧
      (valOf [] launchRead).map (fun e => e.2.2.isSome) = [true]) ∧
    (Table.get? one.grids (lane0 one).kid = some (grid1 one) ∧
      one.forced (hereOf one).wave.ctx 0 (hereOf one).wave.pc.toNat 0 0 = none ∧
      one.nestLimit (grid1 one) ≤ (grid1 one).depth) ∧
    (Table.get? launching.grids (lane0 launching).kid = some (grid1 launching) ∧
      launching.forced (hereOf launching).wave.ctx 0 (hereOf launching).wave.pc.toNat 0 0 = none ∧
      (grid1 launching).depth < launching.nestLimit (grid1 launching) ∧ ∃ i, launching.poolFree.1 = some i) ∧
    (Issues launching { len := 8, g := .always, cluster := true, uses := runs [.v 4] } (hereOf launching)
        [(0, lane0 launching)] ∧
      launching.childOpen 0 (Src.int (hereOf launching).wave none (lane0 launching) (.v 4)).toNat = false ∧
      launching.forced (hereOf launching).wave.ctx 0 (hereOf launching).wave.pc.toNat 1 0 = none) := by
  refine ⟨⟨?_, ?_, eq_of_isOk [] ?_, ?_⟩, ⟨?_, ?_, ?_⟩, ⟨?_, ?_, ?_, Option.isSome_iff_exists.mp ?_⟩, ?_, ?_, ?_⟩ <;>
    first | decide +kernel | (unfold Issues; decide +kernel)

/-- R314: PROG counts one more in the counter named. -/
theorem test_prog : ((after (.prog { g := .always, n := 3 }) one).ctx 0).prog[3]? = some 1 := by decide +kernel
/-- R312: past the nesting limit the handle is 0. -/
theorem test_launch : regAfter (.launch { g := .always, pd := 1, d := 4, a := .v 2 })
    (launching.updGrid 1 fun g => { g with lrec := { g.lrec with nest := 0 } }) 0 4 = some 0 ∧
    predAfter (.launch { g := .always, pd := 1, d := 4, a := .v 2 })
      (launching.updGrid 1 fun g => { g with lrec := { g.lrec with nest := 0 } }) 0 1 = some false := by decide +kernel


/-! ### System instructions (spec/16) -/

/-- The supervisor of partition 0 in handler slot 0. -/
def sup : State :=
  let w := (hereOf firm).wave
  { boot with
    handlers := listSet boot.handlers 0 { wave := some { w with mode := .supervisor }, bell := false, changed := false }
    cur := .handler 0 }
/-- Registers of the thread of a handler slot. -/
def withHand (s : State) (k : Nat) (r : List (Nat × Word)) : State :=
  { s with handlers := listUpd s.handlers k fun y => { y with wave := y.wave.map fun w => { w with
      lanes := w.lanes.map fun e => (e.1, r.foldl (fun t e => t.setReg e.1 e.2) e.2) } } }
theorem systemIssues_of {s : State} {len : Nat} {level : Mode} {uses : List RegRun}
    (p : (issuesB s (sysForm len .always level uses) && decide ((lanesOf s .always).head? = some (0, lane0 s))) = true) :
    SystemIssues s len .always level uses (hereOf s) 0 (lane0 s) := by
  simp only [Bool.and_eq_true, decide_eq_true_eq] at p
  exact ⟨_, issues_of (f := sysForm len .always level uses) p.1, p.2⟩

/-- The supervisor's v4 is 1, v6 0x20000 and v8 4096; context 0 has stopped; a record stands in the queue. -/
def serving : State :=
  let s := withHand sup 0 [(0, 0), (4, 1), (5, 0), (6, 0x20000#32), (7, 0), (8, 4096), (9, 0)]
  ((s.updCtx 0 fun c => { c with st := .stopped }).updPart 0 fun p =>
    { p with ring := [(2, { frec := FaultRec.blank 1 0, page := none })] }).updHandler 0 fun y =>
      { y with bell := true, changed := true }

theorem wit_PrivilegedRegisters :
    (SystemIssues sup 16 .always .supervisor [(12, 2)] (hereOf sup) 0 (lane0 sup) ∧
      sup.regCheck (.slot (hereOf sup).who) 0x010 0 = none ∧
      sup.regCheck (.slot (hereOf sup).who) 0x010 1 = some { code := 5 }) ∧
    (SystemIssues sup 16 .always .supervisor (Src.run 2 (.v 4)) (hereOf sup) 0 (lane0 sup) ∧
      ∃ s', sup.regWrite (.slot (hereOf sup).who) 0x042 0 (Src.int64 (hereOf sup).wave none (lane0 sup) (.v 4)) = .ok s') ∧
    (regKind 0xFFF = none ∧ regKind 0x010 = some .part ∧ regKind 0x020 = some .cluster ∧ sup.inPart 1 0 = false ∧
      regKind 0x040 = some .ctx ∧ sup.partOf 0 ≠ 1) ∧
    (SystemIssues sup 8 .always .supervisor [] (hereOf sup) 0 (lane0 sup) ∧ (hereOf sup).who < sup.handlers.length) := by
  refine ⟨⟨systemIssues_of ?_, ?_, ?_⟩, ⟨systemIssues_of ?_, _, eq_of_isFine sup ?_⟩, ?_, systemIssues_of ?_, ?_⟩ <;>
    decide +kernel

/-- What an operand of the thread of a slot gives. -/
def handVal (s : State) (a : Src) : Word := Src.int (hereOf s).wave none (lane0 s) a

theorem wit_SystemOperations :
    (SystemIssues serving 8 .always .supervisor (runs [.v 0] ++ Src.run 2 (.v 6)) (hereOf serving) 0 (lane0 serving) ∧
      SystemIssues serving 8 .always .supervisor (runs [.v 0] ++ []) (hereOf serving) 0 (lane0 serving) ∧
      serving.ctxOperand (hereOf serving) (handVal serving (.v 0)) = .ok 0 ∧ serving.inPart (serving.partOf 0) 0 = true) ∧
    (SystemIssues serving 8 .always .supervisor (runs [.v 4]) (hereOf serving) 0 (lane0 serving) ∧
      serving.maskOperand (hereOf serving) (handVal serving (.v 4)) = .ok [0]) ∧
    (SystemIssues (withHand firm 16 [(4, 1)]) 8 .always .firmware (runs [.v 4]) (hereOf (withHand firm 16 [(4, 1)])) 0
        (lane0 (withHand firm 16 [(4, 1)])) ∧
      (withHand firm 16 [(4, 1)]).maskOperand (hereOf (withHand firm 16 [(4, 1)]))
        (handVal (withHand firm 16 [(4, 1)]) (.v 4)) = .ok [0]) ∧
    (SystemIssues serving 8 .always .supervisor [] (hereOf serving) 0 (lane0 serving) ∧
      (serving.handler (hereOf serving).who).changed = true ∧ (serving.handler (hereOf serving).who).bell = true ∧
      (hereOf serving).who < 16 ∧ (serving.part (hereOf serving).who).ring ≠ []) ∧
    (SystemIssues serving 8 .always .supervisor [(12, 2)] (hereOf serving) 0 (lane0 serving) ∧
      ((serving.releaseHeld 0).part 0).ring = (2, { frec := FaultRec.blank 1 0, page := none }) :: []) ∧
    (SystemIssues sup 8 .always .supervisor [(12, 2)] (hereOf sup) 0 (lane0 sup) ∧
      ((sup.releaseHeld (hereOf sup).who).part (hereOf sup).who).ring = []) := by
  refine ⟨⟨systemIssues_of ?_, systemIssues_of ?_, ?_, ?_⟩, ⟨systemIssues_of ?_, ?_⟩, ⟨systemIssues_of ?_, ?_⟩,
    ⟨systemIssues_of ?_, ?_, ?_, ?_, ?_⟩, ⟨systemIssues_of ?_, ?_⟩, systemIssues_of ?_, ?_⟩ <;> decide +kernel

/-- R388: FQPOP gives the address of the record, 64 bytes an entry, and its predicate. -/
theorem test_fqpop :
    let t := hereOf (after (.fqpop { g := .always, pd := 1, d := 12 })
      (serving.updPart 0 fun p => { p with fqbase := 0x40000 }))
    ((Table.get? t.wave.lanes 0).map fun x => (x.reg 12, x.pred 1)) = some (0x40080#32, true) := by decide +kernel
/-- R388: HOSTIRQ raises the bit named. -/
theorem test_hostirq : (after (.hostirq { g := .always, n := 4 }) sup).dev.irqPend = 0x10#32 := by decide +kernel
theorem test_tret : ((after (.tret { g := .always }) sup).handler 0).wave = none := by decide +kernel
/-- R388: a slot of another partition, or no register, is a fault of the handler. -/
theorem test_haltc : ((after (.haltc { g := .always, resume := false, m := .v 4 }) (withHand firm 16 [(4, 1)])).cluster
    0).dbg.frozen = true := by decide +kernel

/-- An image of context 0 in its save area, at 0x4000_0000, of a partition of SIZE 0, and its bytes in memory. -/
def saveImage : Image := { sup.imageOf 0 with area := 0x40000000, bytes := [(0, 0x54), (1, 0x43)] }
def stopped : State :=
  let s := withHand firm 16 [(0, 0), (4, 0x40000000#32), (5, 0)]
  { s.updCtx 0 fun c => { c with st := .saved, saveArea := 0x50000000 } with
    images := [saveImage]
    mem := s.mem.place 0x40000000 [0x54, 0x43] }

/-- The image, and a copy of its bytes elsewhere. -/
theorem stopped_imageAt : stopped.imageAt 0x40000000 0 = some saveImage ∧
    ({ stopped with mem := stopped.mem.place 0x60000000 [0x54, 0x43] } : State).imageAt 0x60000000 0 = some saveImage := by
  decide +kernel

theorem wit_ContextImages :
    (SystemIssues serving 8 .always .supervisor ((12, 2) :: (runs [.v 0] ++ Src.run 2 (.v 6) ++ Src.run 2 (.v 8)))
        (hereOf serving) 0 (lane0 serving) ∧
      serving.ctxOperand (hereOf serving) (handVal serving (.v 0)) = .ok 0 ∧ (serving.ctx 0).settled = true ∧
      (serving.dump 0 0x20000 4096).fault = none) ∧
    (SystemIssues stopped 8 .always .firmware (runs [.v 0] ++ Src.run 2 (.v 4)) (hereOf stopped) 0 (lane0 stopped) ∧
      stopped.ctxOperand (hereOf stopped) (handVal stopped (.v 0)) = .ok 0 ∧
      (Src.int64 (hereOf stopped).wave none (lane0 stopped) (.v 4)).toNat = 0x40000000 ∧
      stopped.rangeBad 0x40000000 (stopped.areaBytes 0) = none ∧ (stopped.ctx 0).st = .saved ∧
      stopped.mem.poisonIn (stopped.ctx 0).saveArea (stopped.areaBytes 0) = none ∧ (stopped.ctx 0).bound = true ∧
      (stopped.ctx 0).settled = true ∧ stopped.mem.poisonIn 0x40000000 (stopped.areaBytes 0) = none ∧
      stopped.imageAt 0x40000000 (stopped.part (stopped.partOf 0)).size = some saveImage ∧ 0 < stopped.ctxs.length) := by
  refine ⟨⟨systemIssues_of ?_, ?_, ?_, ?_⟩, systemIssues_of ?_, ?_, ?_, ?_, ?_, ?_, ?_, ?_, ?_, stopped_imageAt.1, ?_⟩ <;>
    decide +kernel


/-! ### Streams (spec/11) -/

def ctx0 (s : State) (f : Stream → Stream) : State := s.updCtx 0 fun c => { c with stream := f c.stream }
def str (s : State) : Stream := (s.ctx 0).stream
/-- A stream whose q1 is 5 and q2 0x20000, whose handle 1 is bound to 256 bytes, and whose stack holds an address. -/
def queue : State :=
  { ctx0 strm fun n => { n with
      qS := [(1, 5), (2, 0x20000#64)], hS := [(1, .bound 0x24000 256), (3, .bound 0x25000 8), (4, .renamed 0x100000 0 64)]
      stackS := [0x10020], arenaBase := 0x100000, arenaSize := 0x100000, freeBufs := divideArena 0x100000 0x100000 } with
    mem := strm.mem.place 0x20000 (bytesOf 8 7) }
/-- The same with its stack full. -/
def full : State := ctx0 queue fun n => { n with stackS := List.replicate 8 0x10020 }
def ldq0 : Except UnitErr (List Nat × List Byte) × State := queue.unitFetch (queue.laneVia 0) 0 0x20000 8

theorem wit_StreamScalars :
    queue.cur = .stream 0 ∧ 0 < queue.ctxs.length ∧ (str queue).win.all Entry.complete = true ∧
    (Table.getD (str queue).qS 2 0 + 0 : DWord).toNat = 0x20000 ∧ 0x20000 < windowBase ∧
    ldq0 = (.ok ((valOf ([], []) ldq0).1, (valOf ([], []) ldq0).2), ldq0.2) ∧ (ldq0.2.ctx 0).stream = str queue := by
  refine ⟨?_, ?_, ?_, ?_, ?_, eq_of_isOk ([], []) ?_, ?_⟩ <;> decide +kernel

theorem wit_StreamControl :
    (queue.cur = .stream 0 ∧ (str queue).stackS.length < 8 ∧ (str queue).stackS = 0x10020 :: [] ∧
      (0x30 : DWord).toNat % 16 = 0 ∧ (0x38 : DWord).toNat % 16 ≠ 0) ∧
    (full.cur = .stream 0 ∧ 8 ≤ (str full).stackS.length) ∧ (strm.cur = .stream 0 ∧ (str strm).stackS = []) := by
  decide +kernel

/-- R322: 5 plus 5 is 10, at once in the speculative registers; R321: a branch on a register that is zero. -/
theorem test_addq : Table.get? (str (after (.addq { d := 3, a := 1, b := .q 1 }) queue)).qS 3 = some 10 := by decide +kernel
theorem test_cmpq : Table.get? (str (after (.cmpq { cond := .eq, d := 3, a := 1, b := .imm 5 }) queue)).qS 3 = some 1 := by
  decide +kernel
theorem test_brq : (str (after (.brq { z := true, a := 0, off := 0x40 }) queue)).spcS = 0x10040 ∧
    (str (after (.brq { z := false, a := 0, off := 0x40 }) queue)).spcS = 0x10010 := by decide +kernel
theorem test_ldq : Table.get? (str (after (.ldq { d := 3, a := 2, imm := 0 }) queue)).qS 3 = some 7 := by decide +kernel
/-- R320: RETQ goes to the address pushed last. -/
theorem test_retq : (str (after .retq queue)).spcS = 0x10020 ∧ (str (after .retq queue)).stackS = [] := by decide +kernel
theorem test_callq : (str (after (.callq 0x100) queue)).stackS = [0x10010, 0x10020] := by decide +kernel

/-- q1 = 5 and q2 = 0x20000 name a region outside the arena; q3 one inside. -/
def binding : State := ctx0 queue fun n => { n with qS := n.qS ++ [(3, 0x100000#64)] }
theorem wit_StreamHandlesAndEvents :
    binding.cur = .stream 0 ∧
    (0 < (Table.getD (str binding).qS 1 0).toNat ∧ 0x20000 + 5 ≤ windowBase ∧
      ¬ (0x20000 < (str binding).arenaBase + (str binding).arenaSize ∧ (str binding).arenaBase < 0x20000 + 5)) ∧
    ((Table.getD (str binding).qS 3 0).toNat < (str binding).arenaBase + (str binding).arenaSize ∧
      (str binding).arenaBase < (Table.getD (str binding).qS 3 0).toNat + 5) ∧
    ((Table.getD (str binding).qS 0 0).toNat = 0 ∧ (Table.getD (str binding).qS 2 0).toNat < 2 ^ 52) := by decide +kernel

/-- R324: BIND defines a handle, FREE undefines it. -/
theorem test_bind : Table.get? (str (after (.bind { h := 9, a := 2, b := 1 }) queue)).hS 9 = some (.bound 0x20000 5) := by
  decide +kernel
theorem test_free : Table.get? (str (after (.free 1) queue)).hS 1 = none := by decide +kernel

/-- A launch descriptor at 0x20000: a record of a grid, or a batch of 3 rays with its record at 0x21000. -/
def rayRec : LaunchRec :=
  { oneBlock 1 with
    gx := 0, gy := 0, gz := 0, bdx := 0, bdy := 0, bdz := 0, gp := 0, gf := 0, s := 0, t := 0, tiles := 0, hwBars := 0
    gangBars := 0, stages := 0, kind := 1 }
def launchq (h : HArg) : LaunchqOp := { h0 := h, h1 := .none, h2 := .none, h3 := .none, desc := .imm 0x20000 }
def kl : State := { queue with mem := queue.mem.place 0x20000 { oneBlock 1 with stages := 0, gangBars := 0 }.bytes }
def rl : State :=
  { queue with mem := ((queue.mem.place 0x20000 (bytesOf 8 0x21000 ++ bytesOf 8 0x22000)).place 0x20010
      (bytesOf 8 0x23000 ++ bytesOf 4 3 ++ bytesOf 4 64 ++ bytesOf 2 1)).place 0x21000 rayRec.bytes }
def klRead : Except UnitErr (List Byte) × State := kl.unitRead (kl.laneVia 0) 0 0x20000 256
def rlRead : Except UnitErr (List Byte) × State := rl.unitRead (rl.laneVia 0) 0 0x20000 64
def rlRec : Except UnitErr (List Byte) × State := rlRead.2.unitRead (rlRead.2.laneVia 0) 0 0x21000 256

theorem wit_StreamLaunches :
    (kl.cur = .stream 0 ∧ ((str kl).val (launchq (.h 1 true)).desc).toNat = 0x20000 ∧
      (∃ l, launchArgs (str kl) [.h 1 true, .none, .none, .none] = some l) ∧
      klRead = (.ok (valOf [] klRead), klRead.2) ∧ (klRead.2.ctx 0).stream = str kl ∧
      ∃ r, launchRec false (valOf [] klRead) = some r) ∧
    (rl.cur = .stream 0 ∧ (∃ l, launchArgs (str rl) [.none, .none, .none, .none] = some l) ∧
      rlRead = (.ok (valOf [] rlRead), rlRead.2) ∧ fieldAt (valOf [] rlRead) 0 8 = 0x21000 ∧
      fieldAt (valOf [] rlRead) 8 8 % 64 = 0 ∧ fieldAt (valOf [] rlRead) 16 8 % 32 = 0 ∧
      fieldAt (valOf [] rlRead) 34 30 = 0 ∧ fieldAt (valOf [] rlRead) 24 4 ≠ 0 ∧
      rlRead.2.maskOk (rlRead.2.partOf 0) (fieldAt (valOf [] rlRead) 32 2) = true ∧
      rlRec = (.ok (valOf [] rlRec), rlRec.2) ∧ (rlRec.2.ctx 0).stream = str rl ∧
      ∃ r, launchRec true (valOf [] rlRec) = some r) := by
  refine ⟨⟨?_, ?_, Option.isSome_iff_exists.mp ?_, eq_of_isOk [] ?_, ?_, Option.isSome_iff_exists.mp ?_⟩, ?_,
    Option.isSome_iff_exists.mp ?_, eq_of_isOk [] ?_, ?_, ?_, ?_, ?_, ?_, ?_, eq_of_isOk [] ?_, ?_,
    Option.isSome_iff_exists.mp ?_⟩ <;> decide +kernel

/-- A view of 2 rows and 16 columns with a pitch of 64 bytes. -/
def viewBytes : List Byte := bytesOf 8 0 ++ bytesOf 4 2 ++ bytesOf 4 16 ++ bytesOf 8 64
/-- At 0x20000 the descriptor of a copy of one such view to another; at 0x20080 that of AMAXT with the slot of FP32 at
0x20100 and its word at 0x20200. -/
def tasks (s : State) : State :=
  let m := (s.mem.place 0x20000 (viewBytes ++ viewBytes)).place 0x20098 viewBytes
  let n := m.place 0x200D0 (bytesOf 8 0x20100 ++ bytesOf 8 0 ++ bytesOf 8 0 ++ bytesOf 8 0x20200)
  { s with mem := n.place 0x20100 (bytesOf 16 (slotOf 0).toNat) }
def tq : State := tasks queue
def cpyt (h : BitVec 8) : TwoTOp := { d := h, s := 1, desc := .imm 0x20000 }
def amaxt : OneTOp := { h := 1, desc := .imm 0x20080 }
def cpytRead (s : State) : Except UnitErr (List Byte) × State := s.unitRead (s.laneVia 0) 0 0x20000 128
def amaxtRead : Except UnitErr (List Byte) × State := tq.unitRead (tq.laneVia 0) 0 0x20080 128
def amaxtSlot : Except UnitErr (List Byte) × State := amaxtRead.2.unitRead (amaxtRead.2.laneVia 0) 0 0x20100 16
def srcOf : List (Nat × HRegion) := [(1, { base := 0x24000, len := 256, room := 256, bound := true, deps := [] })]
def cpytTask (s : State) : TDesc := (parseTask (valOf [] (cpytRead s)) []).setBase 1 0x24000
def amaxtSlots : Table (BitVec 128) := [(1, BitVec.ofNat 128 (natOf (valOf [] amaxtSlot)))]

theorem cpyt_reads (s : State) (h : BitVec 8)
    (p : isOk (cpytRead s) = true ∧ sourceRegions (str s) [(1, 1#8)] = some srcOf ∧
      useCpyt.unusedOk (valOf [] (cpytRead s)) = true ∧
      (∀ k ∈ useCpyt.views, ((parseTask (valOf [] (cpytRead s)) []).view k).shapeOk (some .n8) = true) ∧
      (parseTask (valOf [] (cpytRead s)) []).askew useCpyt = false ∧ ((cpytRead s).2.ctx 0).stream = str s) :
    TaskReads (.cpyt (cpyt h)) useCpyt (.imm 0x20000) (some h) [(1, 1)] s (cpytRead s).2 0 (cpytTask s) srcOf :=
  ⟨valOf [] (cpytRead s), (cpytRead s).2, [], by show (0x20000 : DWord).toNat < windowBase; decide,
    by show (0x20000 : DWord).toNat % 128 = 0; decide, eq_of_isOk [] p.1, p.2.2.1, (by simp [useCpyt]),
    fun k => rfl, p.2.2.2.1, rfl, p.2.2.2.2.1, rfl, p.2.1, p.2.2.2.2.2, rfl⟩

/-- One format slot is read. -/
theorem readSlots_one {s s' : State} {c j a : Nat} (bs : List Byte) (p : s.unitRead (s.laneVia c) c a 16 = (.ok bs, s'))
    (k : State → Table (BitVec 128) → State) :
    s.readSlots c [(j, a)] [] k = k s' [(j, BitVec.ofNat 128 (natOf bs))] := by
  simp [State.readSlots, State.streamRead, p, Table.put]

/-- The destination of a copy bound with room, bound without, not bound with a free buffer, in an arena with none of
its class, and with every buffer in use while an entry is in the window; and AMAXT, which has no destination. -/
def cramped : State := ctx0 tq fun n => { n with arenaSize := 0, freeBufs := [] }
def busy : State := ctx0 tq fun n => { n with win := [n.entry (some (.fencet false)) 0 0], freeBufs := [] }
/-- REDT of pairs, from handle 1 to handle 2, which is not bound: the descriptor stands at 0x20300. -/
def pairsQ : State :=
  { tq with mem := (tq.mem.place 0x20300 (bytesOf 8 0 ++ bytesOf 4 1 ++ bytesOf 4 16 ++ bytesOf 8 64 ++ bytesOf 8 0 ++
      bytesOf 4 2 ++ bytesOf 4 2 ++ bytesOf 8 64)).place 0x20370 [1] }
def redtOp : TwoTOp := { d := 2, s := 1, desc := .imm 0x20300 }
def redtRead : Except UnitErr (List Byte) × State := pairsQ.unitRead (pairsQ.laneVia 0) 0 0x20300 128
def redtTask : TDesc := (parseTask (valOf [] redtRead) []).setBase 1 0x24000
theorem redt_reads :
    TaskReads (.redt redtOp) useRedt (.imm 0x20300) (some 2) [(1, 1)] pairsQ redtRead.2 0 redtTask srcOf := by
  refine ⟨valOf [] redtRead, redtRead.2, [], ?_, ?_, eq_of_isOk (r := redtRead) [] ?_, ?_, by simp [useRedt], fun k => rfl, ?_, ?_, ?_,
    rfl, ?_, ?_, rfl⟩ <;> decide +kernel

theorem wit_StreamTensorTasks :
    (TaskReads (.redt redtOp) useRedt (.imm 0x20300) (some 2) [(1, 1)] pairsQ redtRead.2 0 redtTask srcOf ∧
      pairsQ.cur = .stream 0 ∧ redtTask.pairsMode = true ∧
      ∀ base len, Table.get? (str pairsQ).hS 2 ≠ some (.bound base len)) ∧
    (tq.cur = .stream 0 ∧ TaskReads (.cpyt (cpyt 1)) useCpyt (.imm 0x20000) (some 1) [(1, 1)] tq (cpytRead tq).2 0
        (cpytTask tq) srcOf ∧
      Table.get? (str tq).hS 1 = some (.bound 0x24000 256) ∧ Table.get? (str tq).hS 3 = some (.bound 0x25000 8) ∧
      (cpytTask tq).v0.off + (cpytTask tq).v0.extent (some .n8) = 128) ∧
    ((∀ base len, Table.get? (str tq).hS 2 ≠ some (.bound base len)) ∧ ∃ a k rest, (str tq).alloc 128 = .ok (a, k, rest)) ∧
    (TaskReads (.cpyt (cpyt 2)) useCpyt (.imm 0x20000) (some 2) [(1, 1)] cramped (cpytRead cramped).2 0
        (cpytTask cramped) srcOf ∧ (str cramped).alloc 128 = .error true ∧ cramped.cur = .stream 0) ∧
    (TaskReads (.cpyt (cpyt 2)) useCpyt (.imm 0x20000) (some 2) [(1, 1)] busy (cpytRead busy).2 0 (cpytTask busy)
        srcOf ∧ (str busy).alloc 128 = .error false ∧ busy.cur = .stream 0) ∧
    TaskReads (.amaxt amaxt) useAmaxt (.imm 0x20080) none [(1, 1)] tq amaxtSlot.2 0
      ((parseTask (valOf [] amaxtRead) amaxtSlots).setBase 1 0x24000) srcOf := by
  refine ⟨⟨redt_reads, ?_, ?_, fun b l => ?_⟩, ⟨?_, cpyt_reads _ _ ?_, ?_, ?_, ?_⟩, ⟨?_, _, _, _, eq_of_isFine (0, 0, []) ?_⟩, ⟨cpyt_reads _ _ ?_, ?_, ?_⟩,
    ⟨cpyt_reads _ _ ?_, ?_, ?_⟩, _, _, amaxtSlots, ?_, ?_, eq_of_isOk (r := amaxtRead) [] ?_, ?_, ?_, ?_, ?_, ?_, ?_, ?_, ?_, ?_,
    rfl⟩
  case refine_3 => simp only [show Table.get? (str pairsQ).hS 2 = none by decide +kernel]; simp
  all_goals first | decide +kernel | exact fun k => readSlots_one (valOf [] amaxtSlot) (eq_of_isOk (r := amaxtSlot) [] (by decide +kernel)) k | (intro b l; simp only [show Table.get? (str tq).hS 2 = none by decide +kernel]; simp)

/-! ### Bins, basins and waiting records (spec/17, spec/02) -/

def cl0 (s : State) (f : Cluster → Cluster) : State := s.updCluster 0 f
def on0 (s : State) (f : Core → Core) : State := s.updCore 0 f
def on0' (s : State) (c : Nat) : State :=
  s.updCore c fun k => { k with waves := (natsFrom 0 64).map fun n => (n, (hereOf one).wave) }
def cluster0 : ClItem := { cl := 0, n := 0 }
def slot0 : SlotId := { core := core0, slot := 0 }
/-- A bin of the thread of the small state, that waits for core 0. -/
def bin0 : Bin :=
  { kid := 1, pc := 0x10000, ckey := 0, target := .core 0, recs := [lane0 one], opened := 0, aged := true, crew := none
    starve := 0 }
/-- A record is filed, with no bin, and with a bin of its key; a bin is old, and has starved; a bin stands alone and can
issue; a record is spilled. -/
def filed : State := cl0 one fun c => { c with unbinned := [lane0 one] }
def joins : State := cl0 filed fun c => { c with bins := [(0, { bin0 with pc := (lane0 one).pc, ckey := (lane0 one).ckey })] }
def aging : State := cl0 one fun c => { c with bins := [(0, { bin0 with aged := false })], clock := 70000 }
def starting : State := cl0 boot fun c => { c with bins := [(0, { bin0 with target := .cluster })] }
def issuing : State := { starting with grids := one.grids, blocks := one.blocks, gangs := one.gangs }
def spilt : State := cl0 one fun c => { c with unbinned := [{ lane0 one with spilled := true }] }
def clus (s : State) : Cluster := s.cluster 0
/-- Every slot of every core of the cluster has a wave. -/
def brim : State := (natsFrom 0 8).foldl (fun s c => on0' s c) issuing
def binI : Bin := { bin0 with target := .cluster }
/-- The waits of the state. -/
def grace (s : State) : Nat := (s.part 0).binLimit

theorem wit_BinEvents :
    (Runs filed 0 ∧ (clus filed).unbinned = lane0 one :: [] ∧ (lane0 one).crewRef = none ∧
      (clus filed).binFor { lane0 one with wait := 0 } (filed.targetOf (lane0 one)) = none ∧
      Table.lowest (clus filed).bins 1024 0 = some 0) ∧
    (Runs joins 0 ∧ (clus joins).unbinned = lane0 one :: [] ∧
      (clus joins).binFor { lane0 one with wait := 0 } (joins.targetOf (lane0 one)) = some 0) ∧
    (Runs aging 0 ∧ Table.get? (clus aging).bins 0 = some { bin0 with aged := false } ∧ aging.partAt 0 = some 0 ∧
      grace aging < 70000 - 0 ∧ aging.targetFree 0 (.core 0) = true ∧ 0 + 64 < (clus aging).clock ∧
      0 < aging.clusters.length) ∧
    (issuing.partAt 0 = some 0 ∧ (clus issuing).clock - 0 ≤ grace issuing ∧ (clus issuing).clock < binI.starve + 64 ∧
      issuing.targetFree 0 .cluster = true ∧ (clus issuing).clock ≤ binI.starve + 64 ∧
      brim.targetFree 0 .cluster = false ∧ Table.get? (clus brim).bins 0 = some binI) ∧
    (Runs issuing 0 ∧ Table.get? (clus issuing).bins 0 = some binI ∧
      issuing.binCore 0 binI = some 0 ∧ issuing.binReady binI = true ∧ issuing.cc.order ≤ 2 ∧
      issuing.maySend 0 = true ∧ (∀ e ∈ (clus issuing).bins, ¬ e.2.opened < binI.opened) ∧
      issuing.waveFirst 0 (issuing.binTime 0 binI) = false ∧
      issuing.newSlot 0 = some 0 ∧ 0 < issuing.cores.length ∧ 0 < issuing.clusters.length ∧
      (issuing.ctx (((Table.get? issuing.grids binI.kid).map Grid.ctx).getD 0)).dbg.replay = 0) ∧
    (Runs spilt 0 ∧ 0 < spilt.clusters.length ∧ (clus spilt).nextBack = some 5 ∧ (clus spilt).slotsUsed < 32768) := by
  refine ⟨⟨?_, ?_⟩, ⟨?_, ?_⟩, ⟨?_, ?_⟩, ?_, ⟨?_, ?_⟩, ?_, ?_⟩ <;>
    first | decide +kernel | (unfold Runs; decide +kernel)

/-- R25: a record whose key has a bin joins it. -/
theorem test_recordBinned : ((clus (after (.recordBinned 0) joins)).bins.map fun e => e.2.recs.length) = [2] := by
  decide +kernel
/-- R401: a bin that has starved ages. -/
theorem test_binStarved : ((clus (after (.binStarved cluster0) aging)).bins.map fun e => e.2.aged) = [true] := by decide +kernel

/-- Lane 0 leaves for 0x10040, and every basin of its core is in use; a basin of its key stands alone. -/
def going : State := onLanes one fun _ t => { t with st := .leaving 0x10040 none }
def basin0 (n : Nat) : Basin :=
  { key := { kid := 1, blockUid := 4, pc := BitVec.ofNat 52 (0x20000 + 8 * n) }, threads := [lane0 one], opened := 0, eligible := true
    rcv := none }
def packed : State := on0 going fun k => { k with basins := (natsFrom 0 64).map fun n => (n, basin0 n) }
/-- The basin alone, its block there, its core with no wave; and old. -/
def drawing : State :=
  on0 { boot with grids := one.grids, blocks := one.blocks, gangs := one.gangs } fun k => { k with basins := [(0, basin0 0)] }
def oldBasin : State := cl0 drawing fun c => { c with clock := 70000 }
/-- A record that waits until the word at 0x20000 equals v0, which is 0. -/
def waiter : Thread := { lane0 data with wait := BitVec.ofNat 64 (2 ^ 62 + 0x20000) }
def waits : State := cl0 data fun c => { c with waiting := [waiter] }
def waitPa : Except UnitErr Nat × State := waits.unitPa { core := waits.coreOf waiter, cl := 0 } 0 0x20000 .read

theorem wit_BasinEvents :
    (Runs going 0 ∧ Table.get? (going.core 0).waves 0 = some (hereOf going).wave ∧
      Table.get? (hereOf going).wave.lanes 0 = some (lane0 going) ∧ (lane0 going).st = .leaving 0x10040 none ∧
      (lane0 going).flagsClear = true ∧ going.outstanding 0 0 [(lane0 going).uid] = false ∧ ∃ s1, going.fileBasin 0 (lane0 going) 0x10040 none = some s1) ∧
    (Table.get? (packed.core 0).waves 0 = some (hereOf packed).wave ∧
      packed.fileBasin 0 (lane0 packed) 0x10040 none = none ∧ packed.outstanding 0 0 [(lane0 packed).uid] = false ∧
      (packed.core 0).basinFor (basinKey (lane0 packed) 0x10040) = none ∧
      Table.lowest (packed.core 0).basins 64 0 = none) ∧
    (0 < going.cores.length ∧ (going.core 0).basinFor (basinKey (lane0 going) 0x10040) = none ∧
      Table.lowest (going.core 0).basins 64 0 = some 0) ∧
    (Runs oldBasin 0 ∧ Table.get? (oldBasin.core 0).basins 0 = some (basin0 0) ∧ oldBasin.partAt 0 = some 0 ∧
      (oldBasin.part 0).basinLimit < (clus oldBasin).clock - 0 ∧ oldBasin.newSlot 0 = some 0 ∧
      oldBasin.cc.order ≤ 2 ∧ (basin0 0).eligible = true ∧ 0 < oldBasin.cores.length ∧ oldBasin.runs 1 = true ∧
      (∀ e ∈ (oldBasin.core 0).basins, e.2.eligible = true → oldBasin.runs e.2.key.kid = true → 0 ≤ e.2.opened) ∧
      (oldBasin.ctx (((Table.get? oldBasin.grids 1).map Grid.ctx).getD 0)).dbg.replay = 0) ∧
    (Runs one 0 ∧ Table.get? (one.core 0).waves 0 = some (hereOf one).wave) := by
  refine ⟨⟨?_, ?_, ?_, ?_, ?_, ?_, Option.isSome_iff_exists.mp ?_⟩, ⟨?_, ?_, ?_, ?_, ?_⟩, ⟨?_, ?_, ?_⟩,
    ⟨?_, ?_, ?_, ?_, ?_, ?_, ?_, ?_⟩, ?_, ?_⟩ <;> first | decide +kernel | (unfold Runs; decide +kernel)

theorem wit_AwaitSample :
    Runs waits 0 ∧ (clus waits).waiting[0]? = some waiter ∧ Table.get? waits.grids waiter.kid = some (grid1 waits) ∧
    waiter.wait.toNat / 2 ^ 62 = 1 ∧ waits.runs waiter.kid = true ∧ waits.awaitsPage waiter.kid waiter.uid = false ∧
    waiter.wait.toNat % 2 ^ 52 = 0x20000 ∧
    waitPa = (.ok (valOf 0 waitPa), waitPa.2) ∧ waitPa.2.mem.poisoned (valOf 0 waitPa) 4 = false ∧
    (∀ a, waitPa.2.mem.chainFind (waitPa.2.links ((waitPa.2.coreOf waiter).getD (8 * 0)) waiter) .c a = none) ∧
    wcondHolds (descCond waiter.wait.toNat) 32 (waitPa.2.mem.numD (valOf 0 waitPa) 4) (waiter.reg 0).toNat = false := by
  refine ⟨?_, ?_, ?_, ?_, ?_, ?_, ?_, eq_of_isOk 0 ?_, ?_, fun a => ?_, ?_⟩ <;>
    first | decide +kernel | (unfold Runs; decide +kernel) | rfl

/-- A record whose word, 0, is equal to v0; one whose page is not there; and one that names a window. -/
def metW : Thread := { waiter with wait := BitVec.ofNat 64 (2 ^ 62 + 0x20400) }
def meets : State := cl0 data fun c => { c with waiting := [metW] }
def absentW : State := waits.updCtx 0 fun c => { c with root := 0x80000 }
def windowW : Thread := { waiter with wait := BitVec.ofNat 64 (2 ^ 62 + windowBase) }
def sampleOf (s : State) (t : Thread) : Except UnitErr Nat × State :=
  s.unitPa { core := s.coreOf t, cl := 0 } 0 (t.wait.toNat % 2 ^ 52) .read
def errAt (r : Except UnitErr Nat × State) : Option UnitErr :=
  match r.1 with
  | .error e => some e
  | .ok _ => none
theorem eq_of_errAt {r : Except UnitErr Nat × State} {e : UnitErr} (p : errAt r = some e) : r = (.error e, r.2) := by
  obtain ⟨x, t⟩ := r
  cases x with
  | ok a => exact absurd p (by simp [errAt])
  | error y => simp [errAt] at p; rw [p]

theorem wit_AwaitSampleMet :
    (Runs meets 0 ∧ (clus meets).waiting[0]? = some metW ∧ metW.wait.toNat / 2 ^ 62 = 1 ∧
      meets.runs metW.kid = true ∧ meets.awaitsPage metW.kid metW.uid = false ∧
      sampleOf meets metW = (.ok (valOf 0 (sampleOf meets metW)), (sampleOf meets metW).2) ∧
      (sampleOf meets metW).2.mem.poisoned (valOf 0 (sampleOf meets metW)) 4 = false ∧
      (∀ a, (sampleOf meets metW).2.mem.chainFind ((sampleOf meets metW).2.links
        (((sampleOf meets metW).2.coreOf metW).getD (8 * 0)) metW) .c a = none) ∧
      wcondHolds (descCond metW.wait.toNat) 32
        ((sampleOf meets metW).2.mem.numD (valOf 0 (sampleOf meets metW)) 4) (metW.reg 0).toNat = true ∧
      meets.mayWake 0 0 (metW.pc - 16).toNat metW.alane = true) ∧
    (Runs absentW 0 ∧ (clus absentW).waiting[0]? = some waiter ∧ absentW.runs waiter.kid = true ∧
      absentW.awaitsPage waiter.kid waiter.uid = false ∧
      sampleOf absentW waiter = (.error (.absent 0x20000 4), (sampleOf absentW waiter).2)) ∧
    (windowW.wait.toNat / 2 ^ 62 = 1 ∧
      sampleOf waits windowW = (.error (.window windowBase), (sampleOf waits windowW).2)) := by
  refine ⟨⟨?_, ?_, ?_, ?_, ?_, eq_of_isOk 0 ?_, ?_, fun a => ?_, ?_⟩, ⟨?_, ?_, ?_, ?_, eq_of_errAt ?_⟩, ?_,
    eq_of_errAt ?_⟩ <;> first | decide +kernel | (unfold Runs; decide +kernel) | rfl

/-- R30: a lane that leaves opens a basin with its key. -/
theorem test_laneFiled : (((after (.laneFiled { wave := slot0, lane := 0 }) going).core 0).basins.map fun e => e.2.key.pc) =
    [0x10040] := by decide +kernel


/-! ### The distributor, and blocks (spec/17, spec/11) -/

/-- A grid of one block that waits for its gang, tested; its context has waited long. -/
def grid0 : Grid := { Grid.fresh 1 0 0 0 0 (oneBlock 1) 0 with tested := true }
def placing : State := { boot with grids := [(1, grid0)], uids := 10 }
def longWait : State := { placing with tick := 2 ^ 21 }
/-- The same, when context 1 runs in the partition too and holds a block. -/
def unfair : State :=
  { longWait with
    ctxs := listUpd longWait.ctxs 1 fun _ => { longWait.ctx 0 with weight := 1 }
    grids := longWait.grids ++
      [(2, { grid0 with kid := 2, root := 2, ctx := 1, next := 1, lrec := { oneBlock 1 with floor := 16000 } })]
    blocks := (natsFrom 0 8).map fun c => (20 + c, { block0 one with uid := 20 + c, kid := 2, core := c }) }
def relieved : State :=
  (unfair.updPart 0 fun p => { p with stopped := some (0, 1, 7) }).updCtx 1 fun c => { c with byDevice := true }
def waitsOn : State := unfair.updPart 0 fun p => { p with stopped := some (0, 1, 0) }
def ageAll (s : State) : State := (((s.ageGangs 0).expireGangs 0).checkReserved 0).orderTo 1
def headGrid (s : State) : Grid := ((ageAll s).pendingOf 0).headD grid0

theorem wit_DistributorEvents :
    (placing.dev.stopped = false ∧ Table.get? placing.grids 1 = some grid0 ∧ placing.pendingGrid 0 grid0 = true ∧
      grid0.failed = none ∧ placing.tick < grid0.waitFrom + 8192) ∧
    ({ grid0 with failed := some 0 }.failed = some 0 ∧ 0 + 2048 ≤ longWait.tick ∧
      longWait.pendingGrid 0 { grid0 with failed := some 0 } = true) ∧
    ((placing.part 0).valid = true ∧ placing.cc.order ≤ 1 ∧ 0 ∉ placing.cc.gangs ∧ 1 < (placing.orderTo 2).cc.order ∧
      0 ∈ (placing.notePlaced 0).cc.gangs ∧ (ageAll placing).pendingOf 0 = headGrid placing :: [] ∧
      Table.get? (ageAll placing).grids (headGrid placing).kid = some (headGrid placing) ∧
      (headGrid placing).tested = true ∧ (headGrid placing).ending = false ∧
      (ageAll placing).prefNever 0 (headGrid placing) = false ∧
      ∃ s2, (ageAll placing).placeGang 0 (headGrid placing) (headGrid placing).lrec.gp = some s2) ∧
    ((∃ s2, placing.placeGang 0 grid0 1 = some s2) ∧ grid0.blocks = [] ∧ placing.blocks = []) ∧
    (longWait.dev.stopped = false ∧ (longWait.part 0).valid = true ∧
      (∃ g t, ((longWait.ageGangs 0).checkReserved 0).pendingOf 0 = g :: t ∧ g.waitFrom + 8192 ≤ longWait.tick) ∧
      (((longWait.ageGangs 0).checkReserved 0).part 0).reserved = none ∧
      ((longWait.ageGangs 0).checkReserved 0).clustersOf 0 ≠ []) ∧
    (unfair.dev.stopped = false ∧ unfair.dev.func.getLsbD 1 = false ∧ (unfair.part 0).stopped = none ∧
      ((unfair.runningIn 0).find? fun c => unfair.starved 0 c && unfair.keptOut 0 c) = some 0 ∧ unfair.longestRun 0 0 = some 1) ∧
    (relieved.dev.stopped = false ∧ (relieved.part 0).stopped = some (0, 1, 7) ∧ 7 ≠ 0 ∧ 7 + 2 ^ 20 ≤ relieved.tick + 1 ∧
      (relieved.ctx 1).byDevice = true ∧ relieved.dev.func.getLsbD 1 = false) ∧
    (unfair.starved 0 0 = true ∧ (placing.ctx 0).st = .running ∧ placing.starved 0 0 = false ∧
      (waitsOn.part 0).stopped = some (0, 1, 0) ∧ waitsOn.starved 0 0 = true) := by
  refine ⟨?_, ?_, ⟨?_, ?_, ?_, ?_, ?_, ?_, ?_, ?_, ?_, ?_, Option.isSome_iff_exists.mp ?_⟩,
    ⟨Option.isSome_iff_exists.mp ?_, ?_, ?_⟩, ⟨?_, ?_, ⟨((longWait.ageGangs 0).checkReserved 0).pendingOf 0 |>.headD grid0, [], ?_, ?_⟩, ?_, ?_⟩, ?_, ?_, ?_⟩ <;>
    decide +kernel

/-- R397: a gang is placed: its grid counts the block, which stands on the one cluster of the partition. -/
theorem test_gangPlacement :
    (after (.gangPlacement 0) placing).blocks.map (fun e => (e.2.kid, clusterOf e.2.core)) = [(1, 0)] ∧
    (after (.gangPlacement 0) placing).grids.map (fun e => e.2.next) = [1] := by decide +kernel

/-- The one thread of a block is gone; a cache mode is pending in a cluster with no wave; rays are to be written. -/
def ended : State := { (onBlock one fun b => { b with live := [] }) with cores := boot.cores }
def pendingMode : State := cl0 boot fun c => { c with pendMode := some 2 }
def batch : State :=
  { boot with grids := [(1, { grid0 with ray := true, lrec := rayRec, count := 40, next := 32 })] }
def rayGrid : Grid := { grid0 with ray := true, lrec := rayRec, count := 40, next := 32 }
def fullRays : State :=
  cl0 batch fun c => { c with bins := [(0, { bin0 with recs := List.replicate 30720 (lane0 one) })] }

def blockE : Block := { block0 one with live := [] }
/-- The block has a byte at B, and every entry of the gang buffer ways of its cluster is in use, with no log. -/
def bBuf : Buf :=
  { party := .block 4, level := .b, place := 4, kid := 1, arrivals := [], window := 0
    entries := [{ tag := 0x400, inLog := false, bytes := [{ addr := 0x20000, val := 1, who := [5], marks := [] }] }] }
def gBuf : Buf :=
  { party := .gang 77, level := .g, place := 0, kid := 9, arrivals := [], window := 0
    entries := List.replicate 16384 { tag := 9, inLog := false, bytes := [] } }
def gangsFull : State :=
  { (cl0 ended fun c => { c with mode := 1 }) with mem := { ended.mem with bufs := [bBuf, gBuf] } }
/-- What the block's commit makes of the memory, and of the state; and a block's end with an access to its grid's log, whose
page is not there. -/
def endMem (s : State) : Except Level Memory :=
  s.mem.stepInto ((s.blockLinks blockE).b.getD (s.blockLinks blockE).g) (s.blockLinks blockE).g (.block 4) []
def lastOf (s : State) : State :=
  { s with
    mem := if (((Table.get? s.gangs blockE.gangUid).map Gang.blocks).getD []) = [blockE.uid] then
        (fine s.mem (endMem s)).stepD s.tick (s.blockLinks blockE).g [] [] else fine s.mem (endMem s) }
def walkOf (s : State) : Except (UnitErr × Access) State :=
  (lastOf s).walkLog { core := some 0, cl := 0 } (s.ctxOfKid 1) 1
def missEnd : State :=
  { ended with mem := { ended.mem with logAcc := [{ kid := 1, place := 0, write := true }] } }.updCtx 0 fun c =>
    { c with root := 0x80000 }
def isOver (r : Except Level Memory) (l : Level) : Bool :=
  match r with
  | .error x => x = l
  | .ok _ => false
theorem eq_of_isOver {r : Except Level Memory} {l : Level} (p : isOver r l = true) : r = .error l := by
  cases r with
  | ok a => exact absurd p (by simp [isOver])
  | error e => simp [isOver] at p; rw [p]
/-- No context counts arrivals where none of its table does. -/
theorem noCount (s : State) (h : ∀ x ∈ s.ctxs, x.dbg.ctl.getLsbD 18 = false) (c : Nat) :
    (s.ctx c).dbg.ctl.getLsbD 18 = false := by
  unfold State.ctx listGet
  cases q : s.ctxs[c]? with
  | none => decide +kernel
  | some x => exact h x (List.mem_of_getElem? q)

theorem wit_BlockAndBatchEvents :
    (Runs ended 0 ∧ Table.get? ended.blocks 4 = some blockE ∧ Table.get? ended.grids 1 = some (grid1 one) ∧
      (grid1 one).ending = false ∧ blockE.core = 0 ∧ blockE.stands = true ∧ blockE.live = [] ∧
      blockE.stage ≤ blockE.stageIssued ∧ ended.copiesOf blockE = [] ∧ blockE.uid = 4 ∧
      ended.awaitsPage blockE.kid blockE.uid = false ∧ ended.cc.order = 0 ∧ 0 < (ended.orderTo 2).cc.order) ∧
    (∃ site, (ended.blockLinks blockE).b = some site ∧
      ended.mem.stepInto site (ended.blockLinks blockE).g (.block 4) [] = .ok (fine ended.mem (endMem ended))) ∧
    (walkOf ended = .ok (fine ended (walkOf ended)) ∧
      ∀ c, ((fine ended (walkOf ended)).ctx c).dbg.ctl.getLsbD 18 = false) ∧
    (isFine (endMem missEnd) = true ∧ (missEnd.blockLinks blockE).b.isSome = true ∧ isFine (walkOf missEnd) = false) ∧
    (∃ site, (gangsFull.blockLinks blockE).b = some site ∧
      gangsFull.mem.stepInto site (gangsFull.blockLinks blockE).g (.block 4) [] = .error .g) ∧
    (Runs pendingMode 0 ∧ (clus pendingMode).pendMode = some 2 ∧ (∀ c < 8, (pendingMode.core c).waves = []) ∧
      pendingMode.mem.entriesAt .g 0 = 0) ∧
    (boot.partAt 0 = some 0 ∧ boot.blocksOn 0 = []) ∧
    (Table.get? batch.grids 1 = some rayGrid ∧ batch.runs 1 = true ∧
      (batch.rayClusters rayGrid)[rayGrid.next / 32 % (batch.rayClusters rayGrid).length]? = some 0 ∧ Runs batch 0 ∧
      2048 < (clus batch).slotFree) ∧
    (fullRays.runs 1 = true ∧ (clus fullRays).slotFree ≤ 2048) := by
  refine ⟨⟨?_, ?_⟩, ⟨(ended.blockLinks blockE).b.getD (ended.blockLinks blockE).g, ?_,
      eq_of_isFine ended.mem ?_⟩, ⟨eq_of_isFine ended ?_, noCount _ ?_⟩, ?_, ⟨(gangsFull.blockLinks blockE).b.getD (gangsFull.blockLinks blockE).g, ?_,
      eq_of_isOver ?_⟩, ⟨?_, ?_⟩, ?_, ⟨?_, ?_, ?_, ?_, ?_⟩, ?_, ?_⟩ <;>
    first | decide +kernel | (unfold Runs; decide +kernel)

/-- R403: the next ray has index 32. -/
theorem test_rayRecordWrite :
    ((clus (after (.rayRecordWrite 1) batch)).bins.flatMap fun e => e.2.recs.map fun t => t.reg 2) = [32#32] := by decide +kernel

/-! ### Rotation, deadlock, saving and restoring (spec/02, spec/19) -/

/-- A wave resident past its quantum, while one that is ready has not issued for 1,024 cc; and as it stands saved. -/
def turning : State := { (cl0 (onWave one fun w => { w with resident := true }) fun c => { c with clock := 2 ^ 20 }) with
  tick := 2 ^ 20 }
def savedW : SavedWave := { core := 0, wave := (hereOf turning).wave, slot := 0, held := false }
/-- Every slot of the core has a wave that has stood its quantum, and an eligible basin waits for one. -/
def wanting : State :=
  on0 turning fun k => { k with
    waves := (natsFrom 0 64).map fun n => (n, { (hereOf turning).wave with issued := 2 ^ 20 })
    basins := [(0, basin0 0)] }
def rotated : State :=
  cl0 { one with cores := boot.cores } fun c =>
    { c with rotated := [savedW] }
def spiltBlock : State := { (onBlock one fun b => { b with placed := false }) with cores := boot.cores }
/-- A claim of 500 granules on a core where a younger block keeps 16,000 to itself. -/
def younger : Block := { Block.fresh 9 8 0 10 0 0 1 0 [] with placed := true }
def blockS : Block := { block0 one with placed := false }
def bigGrid : Grid := { grid1 one with kid := 8, root := 8, lrec := { oneBlock 1 with floor := 16000 } }
def locked (n : Nat) : State :=
  { parkedOn n with tick := 5000, blocks := (parkedOn n).blocks ++ [(9, younger)], grids := (parkedOn n).grids ++ [(8, bigGrid)] }
def dead (n : Nat) : State := { parkedOn n with tick := 5000 }
def noHome : State :=
  { spiltBlock with
    blocks := spiltBlock.blocks ++ (natsFrom 0 8).map fun c => (20 + c, { younger with uid := 20 + c, core := c })
    grids := spiltBlock.grids ++ [(8, bigGrid)] }

/-- A wave of two lanes of two blocks. -/
def mixedB : State :=
  onWave one fun w => { w with lanes := w.lanes ++ [(1, { lane0 one with uid := 900, blockUid := 9 })] }

theorem wit_RotationAndDeadlock :
    (Runs turning 0 ∧ Table.get? (turning.core 0).waves 0 = some (wave0 turning) ∧ turning.partAt 0 = some 0 ∧
      (wave0 turning).resident = true ∧ (wave0 turning).since + (turning.part 0).rotation ≤ (clus turning).clock ∧
      (turning.core 0).inFlight 0 = false ∧
      (∀ e ∈ (turning.core 0).waves, (e.1 / 16 = 0) → e.2.resident = true → e.2.since < (wave0 turning).since →
        (turning.core 0).inFlight e.1 = true) ∧
      turning.runs (wave0 turning).kid = true ∧ turning.wantsIssue 0 0 = true) ∧
    (Runs wanting 0 ∧ wanting.wantsIssue 0 0 = false ∧ wanting.wantsRoom 0 = true ∧
      (∀ e ∈ (wanting.core 0).waves, e.2.resident = true → ¬ e.2.since < (wave0 wanting).since) ∧
      (wave0 wanting).since + (wanting.part 0).rotation ≤ (clus wanting).clock ∧
      (wanting.core 0).inFlight 0 = false ∧ wanting.runs (wave0 wanting).kid = true) ∧
    ((clus one).clock < (wave0 one).since + (one.part 0).rotation) ∧
    (Runs rotated 0 ∧ (clus rotated).rotated[0]? = some savedW ∧
      rotated.cc.order ≤ 2 ∧ rotated.mayReturn savedW 0 = true ∧ rotated.returnTo savedW 0 = 0 ∧
      (∀ y ∈ (clus rotated).rotated, ¬ y.wave.age < (wave0 turning).age) ∧ (clus rotated).bins = [] ∧
      rotated.newSlot 0 = some 0 ∧ 0 < rotated.cores.length ∧ 0 < rotated.clusters.length) ∧
    (Runs spiltBlock 0 ∧ Table.get? spiltBlock.blocks 4 = some blockS ∧ blockS.placed = false ∧
      clusterOf blockS.core = 0 ∧ spiltBlock.runs 1 = true ∧ spiltBlock.homeFor blockS = some 0 ∧
      spiltBlock.isBatch blockS = false) ∧
    (noHome.homeFor blockS = none ∧
      Table.get? noHome.blocks 4 = some blockS) ∧
    ((parkedOn 1).deadHead 0 = some (0, false) ∧ (parkedOn 1).tick < ((parkedOn 1).core 0).deadFrom + 4096) ∧
    ((dead 1).deadHead 0 = some (0, false) ∧ ((dead 1).core 0).deadFrom + 4096 ≤ (dead 1).tick ∧
      (dead 1).headFits 0 0 false = true) ∧
    ((dead 65536).deadHead 0 = some (0, false) ∧ (dead 65536).headFits 0 0 false = false ∧
      youngest ((dead 65536).others 0 (wave0 (dead 65536))) = none) ∧
    (Runs (locked 500) 0 ∧ (locked 500).deadHead 0 = some (0, false) ∧ (locked 500).headFits 0 0 false = false ∧
      youngest ((locked 500).others 0 (wave0 (locked 500))) = some younger ∧ (locked 500).blockStill younger = true ∧
      ((locked 500).spill younger).headFits 0 0 false = true ∧
      Table.get? (((locked 500).spill younger).core 0).waves 0 = Table.get? ((locked 500).core 0).waves 0) ∧
    (Table.get? (mixedB.core 0).waves 0 = some (wave0 mixedB) ∧ (wave0 mixedB).crew = none ∧
      (∃ e ∈ (wave0 mixedB).lanes, mixedB.ownsThread (block0 one) e.2 = false) ∧
      ∃ e ∈ (wave0 mixedB).lanes, mixedB.ownsThread (block0 one) e.2 = true) := by
  refine ⟨⟨?_, ?_⟩, ⟨?_, ?_⟩, ?_, ⟨?_, ?_⟩, ⟨?_, ?_⟩, ?_, ?_, ?_, ?_, ⟨?_, ?_⟩, ?_⟩ <;>
    first | decide +kernel | (unfold Runs; decide +kernel)

/-- R54: the wave leaves its slot, and stands saved. -/
theorem test_waveRotation : ((after (.waveRotation slot0) turning).core 0).waves = [] ∧
    (clus (after (.waveRotation slot0) turning)).rotated.length = 1 := by decide +kernel

/-- A context that is stopping under call-out granularity, with a ray that has not yielded for 4,000 cc; one with no wave;
and one all of whose cores have halted. -/
def calling : State :=
  { (withRay (one.updCtx 0 fun c => { c with st := .stopping, gran := true, reqTick := 0 }) id) with tick := 4000 }
def quiet : State := boot.updCtx 0 fun c => { c with st := .stopping }
def allHalted : State := quiet.updCtx 0 fun c => { c with halted := natsFrom 0 8 }
def resuming : State := stopped.updCtx 0 fun c => { c with saveArea := 0x40000000, reqHeld := true }
def refusing : State := boot.updCtx 0 fun c => { c with st := .saved, reqHeld := true }

theorem wit_SavingAndRestoring :
    (Runs calling 0 ∧ Table.get? (calling.core 0).waves 0 = some (wave0 calling) ∧
      (calling.ctx (wave0 calling).ctx).st = .stopping ∧ (calling.ctx (wave0 calling).ctx).gran = true ∧
      (∃ e ∈ (wave0 calling).lanes, e.2.ray.isSome = true) ∧
      (calling.ctx (wave0 calling).ctx).reqTick + 4000 ≤ calling.tick ∧ (wave0 calling).park = .none) ∧
    (Runs quiet 0 ∧ (quiet.ctx 0).st = .stopping ∧ quiet.inPart (quiet.partOf 0) 0 = true ∧ 0 ∉ (quiet.ctx 0).halted ∧
      quiet.canHalt 0 0 = true ∧ 0 < quiet.ctxs.length) ∧
    ((allHalted.ctx 0).st = .stopping ∧ allHalted.dev.stopped = false ∧
      (∀ cl, allHalted.inPart (allHalted.partOf 0) cl = true → cl < 16 → (allHalted.cluster cl).dbg.frozen = false ∧
        ∀ co, clusterOf co = cl → co ∈ (allHalted.ctx 0).halted) ∧
      allHalted.ctxEnding 0 = false ∧ 0 < allHalted.ctxs.length) ∧
    ((refusing.ctx 0).st = .saved ∧ (refusing.ctx 0).reqHeld = true ∧ refusing.dev.stopped = false ∧
      refusing.imageAt (refusing.ctx 0).saveArea (refusing.part (refusing.partOf 0)).size = none) ∧
    ((resuming.ctx 0).st = .saved ∧ (resuming.ctx 0).reqHeld = true ∧ resuming.dev.stopped = false ∧
      (resuming.ctx 0).saveArea = 0x40000000 ∧ (resuming.part (resuming.partOf 0)).size = 0 ∧
      resuming.imageAt 0x40000000 0 = some saveImage ∧ ∃ s1, resuming.restoreCtx 0 saveImage = some s1) := by
  refine ⟨⟨?_, ?_⟩, ⟨?_, ?_⟩, ⟨?_, ?_, fun cl hp hl => ?_, ?_, ?_⟩, ?_, ?_, ?_, ?_, ?_, ?_, stopped_imageAt.1,
    Option.isSome_iff_exists.mp ?_⟩
  case refine_7 =>
    have one : ∀ n < 16, allHalted.inPart (allHalted.partOf 0) n = true →
      (allHalted.cluster n).dbg.frozen = false ∧ n = 0 := by decide +kernel
    have h := one cl hl hp
    have halted : (allHalted.ctx 0).halted = natsFrom 0 8 := by decide +kernel
    refine ⟨h.1, fun co hc => ?_⟩
    rw [halted, mem_natsFrom]
    simp only [clusterOf, h.2] at hc
    omega
  all_goals first | decide +kernel | (unfold Runs; decide +kernel)


/-! ### The Weir (spec/11) -/

/-- An entry of the queue's window, and the queue with some entries. -/
def ent (n : Nat) (i : Instr) (st : EntrySt) : Entry :=
  { (str queue).entry (some i) 0 0 with seq := n, st := st, pc := 0x10000 }
def win (l : List Entry) : State := ctx0 tq fun n => { n with win := l }
def id0 : EntryId := { ctx := 0, seq := 0 }
def ldesc : LDesc := { lrec := oneBlock 1, header := 0, table := 0, stride := 0, cmask := 0, count := 1, args := [] }
def rdesc : LDesc := { ldesc with lrec := rayRec, header := 0x22000, table := 0x23000, stride := 64, count := 3 }
def amaxTaskD : TDesc := (parseTask (valOf [] amaxtRead) amaxtSlots).setBase 1 0x24000
/-- A task issued; a launch, a batch and a task that are ready, the last with a slot that is not accepted; and a task behind
a WAITE. -/
def issuedE : Entry := { ent 0 (.amaxt amaxt) .issued with task := some amaxTaskD }
def launchE : Entry := { ent 0 (.klaunch (launchq .none)) .decoded with launch := some ldesc }
def raysE : Entry := { ent 0 (.rlaunch (launchq .none)) .decoded with launch := some rdesc }
def taskE : Entry := { ent 0 (.amaxt amaxt) .decoded with task := some amaxTaskD }
def badE : Entry := { taskE with task := some { amaxTaskD with f1 := slotOf 15 } }
def waitE : Entry := ent 1 (.waite { eq := true, ev := 3, val := .imm 0 }) .decoded
def argPas (s : State) : Except UnitErr (List Nat) × State :=
  s.unitPas (s.laneVia 0) 0 ((str s).arenaBase + 128 * raysE.slot) 128 .write
def calm (s : State) : Bool :=
  !s.dev.stopped && (s.ctx 0).st = .running && !(str s).reporting && !s.taskWaits 0 0 issueWaiter &&
  !s.taskWaits 0 0 finishWaiter

/-- A tile task that may start; one started; and one whose writes are all made. -/
def tileT (started : Bool) (out : Option (List (Nat × Byte))) : TileTask :=
  { ctx := 0, seq := 0, row := 0, col := 0, age := 0, waitFrom := 0, deps := [], mat := false, copy := false
    started := started, turn := 0, acc := false, pos := 0, said := [], out := out, pairs := [], wlines := [] }
def tileS (t : TileTask) : State := on0 (win [issuedE]) fun k => { k with deps := [(0, t)] }

theorem wit_TasksIssue :
    (calm (win [issuedE]) = true ∧ HasEntry (win [issuedE]) id0 issuedE ∧ issuedE.st = .issued) ∧
    (calm (win [launchE]) = true ∧ HasEntry (win [launchE]) id0 launchE ∧ launchE.st = .decoded ∧
      (str (win [launchE])).isReady launchE = true ∧ launchE.launch = some ldesc ∧
      ∀ y ∈ (win [launchE]).issuables ((win [launchE]).partOf 0), taskBefore y (0, launchE) = false) ∧
    (calm (win [taskE]) = true ∧ HasEntry (win [taskE]) id0 taskE ∧ (str (win [taskE])).isReady taskE = true ∧
      taskE.launch = none ∧ taskE.i = some (.amaxt amaxt) ∧ taskE.task = some amaxTaskD ∧
      (∀ k ∈ slotViews (.amaxt amaxt),
        ((amaxTaskD.slot k).accepted (taskAccepts (.amaxt amaxt) amaxTaskD k)).isSome = true) ∧
      Table.getD (win [taskE]).cc.tasks ((win [taskE]).partOf 0) 0 < 4 ∧
      ∀ y ∈ (win [taskE]).issuables ((win [taskE]).partOf 0), taskBefore y (0, taskE) = false) ∧
    (calm (win [badE]) = true ∧ HasEntry (win [badE]) id0 badE ∧ (str (win [badE])).isReady badE = true ∧
      ((slotViews (.amaxt amaxt)).find? fun k =>
        ((({ amaxTaskD with f1 := slotOf 15 } : TDesc).slot k).accepted
          (taskAccepts (.amaxt amaxt) { amaxTaskD with f1 := slotOf 15 } k)).isNone) = some 1 ∧
      ∀ y ∈ (win [badE]).issuables ((win [badE]).partOf 0), taskBefore y (0, badE) = false) ∧
    (calm (win [waitE, taskE]) = true ∧ HasEntry (win [waitE, taskE]) id0 taskE ∧
      (str (win [waitE, taskE])).isReady taskE = false) ∧
    (argPas (win [raysE]) = (.ok (valOf [] (argPas (win [raysE]))), (argPas (win [raysE])).2) ∧
      raysE.i = some (.rlaunch (launchq .none))) ∧
    (Runs (tileS (tileT false none)) 0 ∧ Table.get? ((tileS (tileT false none)).core 0).deps 0 = some (tileT false none) ∧
      (tileS (tileT false none)).taskReady 0 (tileT false none) = true ∧
      ∀ e ∈ ((tileS (tileT false none)).core 0).deps, (tileT false none).age ≤ e.2.age) ∧
    (Runs (tileS (tileT true none)) 0 ∧ (tileS (tileT true none)).taskReady 0 (tileT true none) = false ∧
      Table.get? ((tileS (tileT true none)).core 0).deps 0 = some (tileT true none) ∧
      (tileS (tileT true none)).entryOf 0 0 = some issuedE ∧ issuedE.i = some (.amaxt amaxt) ∧
      issuedE.task = some amaxTaskD ∧ (tileS (tileT true none)).taskWaits 0 0 (tileWaiter 0 0) = false ∧
      ((tileS (tileT true none)).core 0).mayBegin (tileT true none).turn = true ∧
      ((tileS { tileT true none with turn := 3 }).core 0).mayBegin 3 = true ∧
      ((on0 (tileS { tileT true none with turn := 3 }) fun k =>
        { k with deps := k.deps ++ [(1, tileT true none)] }).core 0).mayBegin 3 = false ∧ issuedE.st ≠ .faulted ∧
      ((tileS { tileT true none with copy := true }).core 0).copyTurn 0 = true ∧
      ((on0 (tileS { tileT true none with copy := true, turn := 3 }) fun k =>
        { k with deps := k.deps ++ [(1, { tileT true none with copy := true })] }).core 0).copyTurn 3 = false ∧
      (on0 (win [{ issuedE with st := .faulted }]) fun k => { k with deps := [(0, tileT true none)] }).entryOf 0 0 =
        some { issuedE with st := .faulted }) ∧
    (Table.get? ((tileS (tileT true (some [(0, 1)]))).core 0).deps 0 = some (tileT true (some [(0, 1)])) ∧
      Table.get? ((tileS (tileT true (some []))).core 0).deps 0 = some (tileT true (some [])) ∧
      0 < (tileS (tileT true (some []))).cores.length) := by
  refine ⟨?_, ?_, ⟨?_, ?_, ?_, ?_, ?_, ?_, ?_⟩, ?_, ?_, ⟨eq_of_isOk [] ?_, ?_⟩, ⟨?_, ?_, ?_, ?_⟩, ⟨?_, ?_, ?_⟩, ?_⟩ <;>
    first | decide +kernel | (unfold HasEntry; decide +kernel) | (unfold Runs; decide +kernel)

/-- R341: a tile task whose writes are made leaves its core. -/
theorem test_tileTaskComplete :
    ((after (.tileTaskComplete { core := core0, n := 0 }) (tileS (tileT true (some [])))).core 0).deps.length = 0 := by
  decide +kernel

/-- A fence; a launch whose grid has ended, or has not; a task with no tile left; a WAITE whose event has the value. -/
def fenceE : Entry := ent 0 (.fencet true) .decoded
def launchedE : Entry := { launchE with st := .issued, kid := some 1 }
def waitE0 : Entry := { waitE with seq := 0 }
def ran (done : Bool) : State := { win [launchedE] with grids := [(1, { grid0 with ended := done })] }
def waitOp : WaiteOp := { eq := true, ev := 3, val := .imm 0 }
/-- Entries at the head of the window: one that wrote q1 and handle 2, a signal, and a fault. -/
def setE : Entry := { ent 0 (.setq { d := 1, imm := 9 }) .done with qw := some (1, 9), maps := [] }
def bindE : Entry := { ent 0 (.bind { h := 2, a := 2, b := 1 }) .done with maps := [(2, some (.bound 0x20000 5))] }
def sigOp : SignalOp := { add := true, irq := true, ev := 3, val := .imm 2 }
def sigE : Entry := { ent 0 (.signal sigOp) .done with val := 2 }
def faultE : Entry := { ent 0 (.amaxt amaxt) .faulted with fault := some (FaultRec.blank 5 0) }
def young : Entry := { launchedE with seq := 1 }
def faulting (younger : List Entry) : State := { win (faultE :: younger) with grids := [(1, grid0)] }
def stopAll (rest : List Entry) : State :=
  (((faulting rest).runningGrids rest).foldl State.stopFamily (faulting rest)).withdrawAll 0
/-- An ending grid whose cores are idle; its fault goes to its entry. -/
def endingS : State :=
  { win [{ launchedE with seq := 0 }] with grids := [(1, { grid0 with ending := true, fault := some (FaultRec.blank 5 0) })] }

/-- A fence that has sent what D held, and one for which a request is still on the link; bytes of the peer at D, with a
pair and without; and a task of pairs, with a pair of its at the peer, and with a request on the link. -/
def sentE : Entry := { fenceE with sent := true }
def onLink (who : RillWho) : RillReq := { tag := 7, sent := 0, who := who, block := true, kid := 0, ctx := 0, old := [] }
def farFence : State := { win [sentE] with rill := { boot.rill with st := 2, out := [onLink (.task 0 0)] } }
def dirtyFence (st : BitVec 3) : State :=
  { win [fenceE] with
    mem := { (win [fenceE]).mem with dirty := [(2 ^ 50, 1#8)] }
    rill := { boot.rill with st := st } }
def redtE : Entry := { ent 0 (.redt redtOp) .issued with task := some redtTask, agent := 5 }
def flushing : State :=
  { win [redtE] with rill := { boot.rill with st := 2, pairs := [{ task := 5, addr := 0x24000, x := 1 }] } }
def taskOnLink : State := { win [redtE] with rill := { boot.rill with st := 2, out := [onLink (.task 0 0)] } }

theorem wit_TasksCompleteAndRetire :
    (calm (win [fenceE]) = true ∧ HasEntry (win [fenceE]) id0 fenceE ∧ (str (win [fenceE])).isReady fenceE = true ∧
      fenceE.i = some (.fencet true) ∧ fenceE.sent = false ∧ sentE.sent = true ∧ HasEntry (win [sentE]) id0 sentE ∧
      (str (win [sentE])).isReady sentE = true ∧ (win [sentE]).fenceOpen 0 sentE = false ∧
      farFence.fenceOpen 0 sentE = true) ∧
    ((win [fenceE]).mem.dirty = [] ∧ 0 < (win [fenceE]).ctxs.length ∧ (∃ y, (win [fenceE]).entryOf 0 fenceE.seq = some y) ∧
      (dirtyFence 2).mem.dirty ≠ [] ∧ (dirtyFence 2).paired = true ∧ (dirtyFence 2).rill.out.length < 4096 ∧
      (dirtyFence 0).paired = false) ∧
    (flushing.flushes redtE (.redt redtOp) redtTask = true ∧ flushing.flushes { redtE with sent := true } (.redt redtOp) redtTask = false ∧
      (flushing.linkBusy (.task 0 0) = false) ∧ taskOnLink.linkBusy (.task 0 0) = true) ∧
    (calm (ran true) = true ∧ HasEntry (ran true) id0 launchedE ∧ launchedE.st = .issued ∧ launchedE.kid = some 1 ∧
      Table.get? (ran true).grids 1 = some { grid0 with ended := true } ∧ grid0.ray = false ∧ grid0.ending = false ∧
      (ran true).complete 1 = true ∧ 0 < (ran true).ctxs.length) ∧
    (calm (ran false) = true ∧ HasEntry (ran false) id0 launchedE ∧ (ran false).complete 1 = false) ∧
    (issuedE.kid = none ∧ issuedE.task = some amaxTaskD ∧ issuedE.tiles = [] ∧ issuedE.inFlight = 0 ∧
      (str (win [issuedE])).padWaits issuedE (.amaxt amaxt) amaxTaskD = false) ∧
    (calm (win [waitE0]) = true ∧ HasEntry (win [waitE0]) id0 waitE0 ∧ waitE0.i = some (.waite waitOp) ∧
      (str (win [waitE0])).isReady waitE0 = true ∧ listGet ((win [waitE0]).ctx 0).events 3 0 = waitE0.val) ∧
    (HasEntry (win [{ waitE0 with val := 1 }]) id0 { waitE0 with val := 1 } ∧
      ¬ listGet ((win [{ waitE0 with val := 1 }]).ctx 0).events 3 0 = 1) ∧
    ((str (win [setE, waitE])).win = setE :: [waitE] ∧ setE.st = .done ∧ setE.task = none ∧ setE.launch = none ∧
      (∀ o ∈ [waitE], o.seq ≠ setE.seq) ∧ setE.i ≠ some .haltq ∧ setE.qw = some (1, 9) ∧
      bindE.maps = [(2, some (.bound 0x20000 5))] ∧ sigE.i = some (.signal sigOp) ∧ sigE.qw = none ∧ sigE.maps = [] ∧
      (win [sigE]).swrStands (0x080 + 3) 0 = false) ∧
    (calm (faulting [young]) = false ∧ (faulting [young]).dev.stopped = false ∧ ((faulting [young]).ctx 0).st = .running ∧
      (str (faulting [young])).win = faultE :: [young] ∧ faultE.fault = some (FaultRec.blank 5 0) ∧
      (stopAll [young]).stillStopping 0 (faultE :: [young]) = true) ∧
    ((str (faulting [])).win = faultE :: [] ∧ (stopAll []).stillStopping 0 (faultE :: []) = false) ∧
    (Table.get? endingS.grids 1 = some { grid0 with ending := true, fault := some (FaultRec.blank 5 0) } ∧ grid0.root = 1 ∧
      endingS.dev.stopped = false ∧ endingS.partFrozen grid0.ctx = false ∧
      endingS.familyLinks (fun n => (endingS.family 1).any fun x => x = n) = false ∧
      (∀ k ∈ endingS.cores, k.familyBusy (fun n => (endingS.family 1).any fun x => x = n) = false) ∧
      endingS.entryOf grid0.ctx grid0.seq = some launchedE ∧ grid0.ctx < endingS.ctxs.length) := by
  refine ⟨⟨?_, ?_, ?_, ?_, ?_, ?_, ?_, ?_⟩, ⟨?_, ?_, Option.isSome_iff_exists.mp ?_, ?_⟩, ?_, ?_, ?_, ?_, ?_, ?_, ?_, ?_,
      ?_, ?_⟩ <;>
    first | decide +kernel | (unfold HasEntry; decide +kernel)

/-- R331: SIGNAL adds 2 to its event and raises its context's bit when it retires. -/
theorem test_signal : listGet ((after (.entryRetire 0) (win [sigE])).ctx 0).events 3 0 = 2 ∧
    (after (.entryRetire 0) (win [sigE])).dev.sigPend = 1 := by decide +kernel
theorem test_eventWait : ((str (after (.eventWaitSatisfied id0) (win [waitE0]))).win.map Entry.st) = [.done] := by
  decide +kernel
/-- R431: the family is freed, and its entry faulted. -/
theorem test_gridEnding : (after (.gridEndingComplete 1) endingS).grids.length = 0 ∧
    ((str (after (.gridEndingComplete 1) endingS)).win.map Entry.st) = [.faulted] := by decide +kernel

/-! ### What the host writes (spec/16, spec/20, spec/21) -/

def ctxSt (st : CtxState) : State := boot.updCtx 0 fun c => { c with st := st }
def off : State := { boot with dev := { boot.dev with phase := 1 } }
def limitWrite : Instr := .streamLimitWrite 0 0x11000

theorem wit_HostRegisterWrites :
    (hostReg boot limitWrite = some (0x042, 0, 0x11000) ∧ boot.dev.phase = 3 ∧
      ∃ s', boot.regWrite .host 0x042 0 0x11000 = .ok s') ∧
    (hostReg boot (.clModeWrite 0 3) = some (0x020, 0, 3) ∧ boot.regWrite .host 0x020 0 3 = .error { code := 1 }) ∧
    (hostReg off limitWrite = some (0x042, 0, 0x11000) ∧ off.dev.phase ≠ 3) ∧
    ((ctxSt .stopped).dev.phase = 3 ∧ (ctxSt .stopped).ctxs[0]? = some ((ctxSt .stopped).ctx 0) ∧
      ((ctxSt .stopped).ctx 0).settled = true ∧ ((ctxSt .stopped).ctx 0).stream.win = [] ∧
      ((ctxSt .stopped).ctx 0).prog.length = 16 ∧ ((ctxSt .stopped).ctx 0).events.length = 64) ∧
    ((ctxSt .running).ctxs[0]? = some ((ctxSt .running).ctx 0) ∧ ((ctxSt .running).ctx 0).settled = false) := by
  refine ⟨⟨?_, ?_, _, eq_of_isFine boot ?_⟩, ⟨?_, ?_⟩, ?_, ?_, ?_⟩ <;> decide +kernel

def unboundCtx : State := { boot with ctxs := listUpd boot.ctxs 1 fun c => { c with bound := false } }
theorem wit_ContextRequests :
    (∀ st ∈ [CtxState.stopped, .stopping, .saved, .running],
      (ctxSt st).ctxs[0]? = some ((ctxSt st).ctx 0) ∧ (ctxSt st).dev.phase = 3 ∧ ((ctxSt st).ctx 0).bound = true ∧
      ((ctxSt st).part ((ctxSt st).ctx 0).part.toNat).valid = true ∧ ((ctxSt st).ctx 0).st = st) ∧
    (unboundCtx.ctxs[1]? = some (unboundCtx.ctx 1) ∧ (unboundCtx.part 0).valid = true ∧ (unboundCtx.ctx 1).bound = false) := by
  decide +kernel

/-- R381: a run that is asked for starts the stream at its base. -/
theorem test_ctxReqRun : ((after (.ctxReqRun 0) (ctxSt .stopped)).ctx 0).st = .running := by decide +kernel
theorem test_ctxReqStop : ((after (.ctxReqStop 0) (ctxSt .running)).ctx 0).st = .stopping := by decide +kernel
theorem test_ctxWeight : ((after (.ctxWeightWrite 0 9) boot).ctx 0).weight = 9 := by decide +kernel

/-- A context whose stream has halted below its limit; and a record of a page in the host's queue. -/
def haltedStr : State := ctx0 strm fun n => { n with status := .halted }
def asked : State := { boot with dev := { boot.dev with hostRing := [(3, { frec := FaultRec.blank 4 0, page := some 7 })] } }

/-- VALID, SIZE 0, channel 1 and stream area 3. -/
def partCfg : DWord := 0x8000100300000000#64

theorem wit_HostEvents :
    (haltedStr.dev.phase = 3 ∧ haltedStr.ctxs[0]? = some (haltedStr.ctx 0) ∧ (str haltedStr).status = .halted ∧
      (str haltedStr).spcS.toNat < (str haltedStr).limit ∧ 7 < (haltedStr.ctx 0).resCtl.length) ∧
    (strm.ctxs[0]? = some (strm.ctx 0) ∧ (str strm).status = .running) ∧
    ((strm.ctx 0).st = .running ∧ (0x80004000 : DWord).extractLsb' 15 2 = (strm.ctx 0).dbg.ctl.extractLsb' 15 2) ∧
    ((2 : DWord).toNat % 4 ≠ 3 ∧ (7 : DWord).toNat % 4 = 3) ∧
    (boot.dev.hostWait = [] ∧ (asked.dev.hostRing.find? fun e => e.1 = (3 : DWord).toNat % 256) =
        some (3, { frec := FaultRec.blank 4 0, page := some 7 }) ∧
      (asked.dev.hostRing.find? fun e => e.1 = (4 : DWord).toNat % 256) = none) ∧
    ((0 : BitVec 4).toNat < boot.handlers.length ∧ 16 < boot.handlers.length) ∧
    (0 < State.reset.parts.length ∧ partCfg.getLsbD 63 = true ∧ (partCfg.extractLsb' 60 3).toNat ≤ 4 ∧
      0 % 2 ^ (partCfg.extractLsb' 60 3).toNat = 0 ∧ partCfg.extractLsb' 44 8 ≠ 0 ∧ State.reset.anyBound 0 = false ∧
      ∀ g < 16, g ≠ 0 → (State.reset.part g).valid = false) := by decide +kernel

/-- R477: the bits written are cleared. -/
theorem test_irqClear : (after (.hostIrqpendClear 0x1) { boot with dev := { boot.dev with irqPend := 3 } }).dev.irqPend = 2 := by
  decide +kernel
theorem test_sigClear : (after (.hostSigpendClear 0x2) { boot with dev := { boot.dev with sigPend := 3 } }).dev.sigPend = 1 := by
  decide +kernel

/-! ### Debug (spec/20) -/

def frozen (s : State) : State := cl0 s fun c => { c with dbg := { c.dbg with frozen := true } }
def halt : State := frozen one
def empty : State := frozen boot
def stopDev (s : State) : State := { s with dev := { s.dev with stopped := true } }
def armed : State := { boot with tick := 9, dev := { boot.dev with armed := true, stopTick := 9 } }
def spentArm : State := { armed with dev := { armed.dev with spent := true } }
def stepped (n : Nat) (s : State) : State := cl0 s fun c => { c with dbg := { c.dbg with step := some (0, 0, n) } }
def skid (n : Nat) : State := { halt with dev := { halt.dev with skidActive := true, skidArm := true, skidLines := n } }
/-- A core has two replies to come for a frozen cluster; and the buffer is full. -/
def replying (n : Nat) : State :=
  (skid n).updCore 0 fun k => { k with ops := [(0, op0 loading), (1, op0 loading)] }
/-- A context takes samples at every tick, and a wave of the core has issued in this cc. -/
def sampling (on : Bool) : State :=
  let s := one.updCtx 0 fun c => { c with dbg := { c.dbg with ctl := if on then 0x80000#64 else 0 } }
  { s with tick := 2 ^ 31, cc := { s.cc with issued := (natsFrom 0 4).map fun p => (0, p) } }

theorem wit_DebugEvents :
    (boot.dev.phase = 3 ∧ boot.dev.stopped = false ∧ boot.partAt 1 = none ∧ boot.partAt 0 = some 0 ∧
      boot.inPart 0 0 = true ∧ (stopDev boot).dev.stopped = true) ∧
    (halt.dev.phase = 3 ∧ (clus halt).dbg.frozen = true ∧ halt.dev.stopped = false ∧ 0 < halt.clusters.length ∧
      Table.get? (halt.core 0).waves 0 = some (wave0 halt) ∧ 0 < halt.cores.length ∧ (clus halt).skid = []) ∧
    ((clus empty).dbg.frozen = true ∧ Table.get? (empty.core 0).waves 0 = none) ∧
    (Table.get? (wave0 halt).active 0 = some (lane0 halt) ∧ (∃ n, halt.newSlot 0 = some n) ∧
      (wave0 halt).crew = none ∧ (halt.core 0).basins.length < 64 ∧
      Table.get? (wave0 halt).lanes 0 = some (lane0 halt) ∧ halt.outstanding 0 0 [(lane0 halt).uid] = false ∧
      (halt.core 0).ops = []) ∧
    (armed.dev.armed = true ∧ armed.dev.stopped = false ∧ armed.dev.stopTick.toNat = armed.tick ∧
      armed.dev.spent = false ∧ boot.dev.armed = false ∧ spentArm.dev.spent = true) ∧
    ((clus (stepped 1 one)).dbg.step = some (0, 0, 1) ∧ (stepped 1 one).dev.stopped = false ∧
      Table.get? ((stepped 1 one).core 0).waves 0 = some (wave0 one) ∧ (stepped 1 one).stepBusy 0 0 = false ∧
      (0, 0 / 16) ∉ (stepped 1 one).cc.issued ∧ (stepped 1 loading).stepBusy 0 0 = false ∧
      (stepped 1 (onWave one fun w => { w with park := .port })).stepBusy 0 0 = true ∧
      (clus (stepped 2 one)).dbg.step = some (0, 0, 2) ∧ Table.get? ((stepped 2 boot).core 0).waves 0 = none ∧
      2 / 2 + 65536 ≤ { stepped 2 one with tick := 2 ^ 17 }.tick) ∧
    ((skid 0).dev.skidArm = true ∧ (clus (skid 0)).dbg.frozen = true ∧ (skid 0).dev.skidActive = true ∧
      (skid 0).dev.stopped = false ∧ 0 < (skid 0).clusters.length ∧ (skid 0).awaited 0 = [] ∧
      (replying 0).awaited 0 = [(0, 0), (0, 1)] ∧ (replying 0).dev.skidLines + (op0 loading).replyLines ≤ 65536 ∧
      Table.get? ((replying 0).core 0).ops 0 = some (op0 loading) ∧
      Table.get? ((replying 0).core 0).ops 1 = some (op0 loading) ∧ (skid 65536).partAt 0 = some 0 ∧
      65536 < (replying 65536).dev.skidLines + (op0 loading).replyLines ∧ boot.dev.skidArm = false ∧
      boot.dev.skidLines = 0) ∧
    (Runs (sampling true) 0 ∧ (sampling true).inPart ((sampling true).partOf 0) 0 = true ∧
      ((sampling true).ctx 0).bound = true ∧ ((sampling true).ctx 0).dbg.ctl.getLsbD 19 = true ∧
      (sampling true).tick % ((sampling true).ctx 0).dbg.period = 0 ∧
      Table.getD ((sampling true).core 0).sampled 0 0 ≤ (sampling true).tick ∧ 0 < (sampling true).cores.length ∧
      (0, ((sampling true).ctx 0).dbg.samplePart (sampling true).tick) ∈ (sampling true).cc.issued ∧ 0 < (sampling true).ctxs.length) ∧
    (Runs (sampling false) 0 ∧ ((sampling false).ctx 0).dbg.ctl.getLsbD 19 = false) := by
  refine ⟨?_, ?_, ?_, ⟨?_, Option.isSome_iff_exists.mp ?_, ?_⟩, ?_, ?_, ?_, ?_, ?_⟩ <;>
    first | decide +kernel | (unfold Runs; decide +kernel)

/-- R461: a step of a wave thaws its cluster; of no wave it fails. -/
theorem test_dbgStep : (clus (after (.dbgStep slot0) halt)).dbg.frozen = false ∧
    (clus (after (.dbgStep slot0) empty)).dbg.stepFail = true := by decide +kernel
/-- R463: a precise stop freezes every cluster. -/
theorem test_preciseStop : (after .preciseStop armed).clusters.all (fun c => c.dbg.frozen) = true := by decide +kernel

/-! ### Handlers, memory errors, power and heat, Rill (spec/16, spec/19, spec/21) -/

def handling : State := boot.updPart 0 fun p => { p with ring := [(2, { frec := FaultRec.blank 5 0, page := none })], fqbase := 0x40000 }
/-- What is below 1 GiB is within BAR2, whatever its size. -/
theorem bar2_fits {s : State} {off n : Nat} (hp : s.dev.phase = 3) (hn : off + n ≤ 2 ^ 30)
    (hc : s.dev.win * 2 ^ 30 + off + n ≤ s.capacity) : s.bar2Pa off n = some (s.dev.win * 2 ^ 30 + off) := by
  have big : 2 ^ 30 ≤ 2 ^ (30 + Config.bar2Size s.tick % 10) := Nat.pow_le_pow_right (by decide) (by omega)
  simp [State.bar2Pa, hp, Nat.le_trans hn big]
  omega
theorem window_at (n : Nat) (h : n ≤ 8) : boot.bar2Pa 0x20000 n = some 0x20000 := by
  have win : boot.dev.win = 0 := by decide +kernel
  have cap : 0x20000 + 8 ≤ boot.capacity := by decide +kernel
  have fit := bar2_fits (s := boot) (off := 0x20000) (n := n) (by decide +kernel) (by omega) (by rw [win]; omega)
  rw [fit, win, Nat.zero_mul, Nat.zero_add]

theorem wit_HandlerAndMemoryEvents :
    ((handling.handler 0).wave = none ∧ handling.dev.stopped = false ∧
      (handling.part 0).ring = (2, { frec := FaultRec.blank 5 0, page := none }) :: [] ∧ 0 < handling.handlers.length ∧
      0 < handling.parts.length) ∧
    (Runs boot 0 ∧ (boot.ctx 0).bound = true ∧ boot.inPart (boot.partOf 0) 0 = true ∧ 0x20000 < windowBase) ∧
    (boot.paValid (0x20000 / 128 * 128) = true ∧ boot.paValid 0x20000 = true ∧ boot.dev.ceCount ≠ 0xFFFF ∧ boot.dev.thresh = 0) ∧
    (boot.swrStands 0x005 0 = false ∧ boot.bar2Pa 0x20000 8 = some 0x20000 ∧ boot.mem.poisoned 0x20000 8 = false ∧ off.dev.phase ≠ 3) := by
  refine ⟨?_, ?_, ?_, ?_, window_at 8 (by omega), ?_⟩ <;> first | decide +kernel | (unfold Runs; decide +kernel)

/-- R386: v0 holds the record's address and v2 its class. -/
theorem test_handlerStart :
    (((after (.handlerStart 0) handling).handler 0).wave.map fun w => w.lanes.map fun e => (e.2.reg 0, e.2.reg 2)) =
      some [(0x40080#32, 5#32)] := by decide +kernel
/-- R475: the host's window writes device memory. -/
theorem test_bar2Write : (after (.bar2Write 0x20000 [0x5A#8]) boot).mem.atD 0x20000 = 0x5A#8 := by
  have e : exec (.bar2Write 0x20000 [0x5A#8]) boot =
      .next { boot with mem := boot.mem.agentWrite boot.tick hostAgent 0x20000 [0x5A#8] } := by
    show execBar2Write 0x20000 [0x5A#8] boot = _
    unfold execBar2Write
    rw [show ([0x5A#8] : List Byte).length = 1 from rfl, window_at 1 (by omega)]
    rfl
  unfold after
  rw [e]
  decide +kernel
/-- R434: the line is poisoned. -/
theorem test_ecc : (after (.eccErrorNoRequester 0x20044) boot).mem.poisoned 0x20000 1 = true := by decide +kernel

def phase (n : BitVec 3) : State := { boot with dev := { boot.dev with phase := n } }
def hot (f : BitVec 6) : State := { boot with dev := { boot.dev with hot := true, allow := 16, func := f } }

/-- The allowance has been reduced, at 100 °C. -/
def slowed : State := { boot with dev := { boot.dev with throttle := some 32, allow := 32 } }

theorem wit_PowerAndHeat :
    ((phase 1).dev.phase = 1 ∧ (phase 2).dev.phase = 2 ∧ boot.dev.phase ≠ 1) ∧
    (boot.tick % 1024 = 0 ∧ boot.dev.hot = false ∧ (32 : BitVec 8) ≠ 0 ∧ boot.dev.func.getLsbD 4 = false ∧ 1 < boot.dev.allow) ∧
    (100 ≤ (100 : BitVec 8).toNat ∧ 105 ≤ (105 : BitVec 8).toNat ∧ (99 : BitVec 8).toNat < 100 ∧ 115 ≤ (115 : BitVec 8).toNat) ∧
    (boot.dev.throttle = none ∧ slowed.dev.throttle = some 32 ∧ slowed.dev.hot = false ∧
      (∀ n, slowed.dev.throttle = some n → 1 ≤ n ∧ n ≤ 64) ∧ (96 : BitVec 8).toNat < 100 ∧ 95 < (96 : BitVec 8).toNat ∧
      (95 : BitVec 8).toNat ≤ 95) ∧
    ((hot 0x10).dev.hot = true ∧ (hot 0x10).dev.func.getLsbD 4 = true ∧ (hot 0).dev.func.getLsbD 4 = false) := by
  refine ⟨?_, ?_, ?_, ⟨?_, ?_, ?_, fun n h => ?_, ?_⟩, ?_⟩
  case refine_7 => have q : slowed.dev.throttle = some 32 := by decide +kernel
                   rw [q, Option.some.injEq] at h; omega
  all_goals decide +kernel

/-- R489: the hard limit leaves an allowance of 16, the shutdown ends in PHASE 4. -/
theorem test_hardLimit : (after (.thermalHardLimit 105) boot).dev.allow = 16 := by decide +kernel
theorem test_shutdown : (after (.thermalShutdown 115) boot).dev.phase = 4 := by decide +kernel

def linked (l : List RillReq) (m : List MergeEntry) : State :=
  { boot with tick := 2 ^ 21, rill := { boot.rill with st := 2, expect := 5, out := l, merge := m, early := [], heard := 2 ^ 21 } }
def req7 : RillReq := { tag := 7, sent := 0, who := .thread 5, block := false, kid := 0, ctx := 0, old := [] }
/-- The response to request 4 is kept; request 8 has come early. -/
def kept : State := { linked [] [] with rill := { (linked [] []).rill with cache := [(4, 9)] } }
def earlyS : State := { linked [] [] with rill := { (linked [] []).rill with early := [(8, .other)] } }
def pairM : MergeEntry := { task := 3, addr := 0x20000, x := 0x3F800000#32 }
def mergeFull : State := linked [] (List.replicate 65536 pairM)
def silent : State := { linked [] [] with rill := { (linked [] []).rill with heard := 0 } }
def pairing (n : BitVec 3) : State := { boot with rill := { boot.rill with st := n } }

theorem wit_RillEvents :
    ((linked [req7] []).dev.stopped = false ∧ (linked [req7] []).rill.st = 2 ∧ (linked [req7] []).rill.out[0]? = some req7 ∧
      req7.tag = (7 : Word).toNat ∧ req7.sent + 12800 ≤ (linked [req7] []).tick) ∧
    (tagBefore (4 : Word).toNat kept.rill.expect = true ∧ (kept.rill.cache.find? fun e => e.1 = (4 : Word).toNat) = some (4, 9) ∧
      (5 : Word).toNat = (linked [] []).rill.expect ∧ tagBefore (6 : Word).toNat (linked [] []).rill.expect = false ∧
      (6 : Word).toNat ≠ (linked [] []).rill.expect ∧ (linked [] []).rill.early = [] ∧
      tagBefore (8 : Word).toNat earlyS.rill.expect = false ∧ (∃ e ∈ earlyS.rill.early, e.1 = (8 : Word).toNat)) ∧
    (silent.rill.st = 2 ∧ silent.rill.heard + 1600000 ≤ silent.tick ∧
      (linked [] []).tick < (linked [] []).rill.heard + 1600000) ∧
    ((pairing 0).rill.st = 0 ∧ (pairing 3).rill.st = 3 ∧ (pairing 1).rill.st = 1 ∧ (pairing 1).dev.stopped = false) ∧
    (Config.serial + 1 ≠ Config.serial ∧ (4 : BitVec 6) ≠ 0 ∧ (4 : BitVec 6).toNat ≤ 32) ∧
    (tagBefore (4 : Word).toNat (linked [] []).rill.expect = true ∧ (linked [] []).rill.out.length < 4096 ∧
      (linked [] []).rill.pairs.length < 65536 ∧ 0x20000 % 4 = 0 ∧ 0x20000 + 4 ≤ (linked [] []).capacity ∧ (linked [] []).rill.merge.length < 65536 ∧
      (∀ e ∈ (linked [] []).rill.merge, ¬ (e.task = 3 ∧ e.addr = 0x20000)) ∧
      (linked [] [pairM]).rill.merge = [pairM] ∧ pairM.task = 3 ∧ pairM.addr = 0x20000) ∧
    (mergeFull.dev.stopped = false ∧ mergeFull.rill.st = 2 ∧ 65536 ≤ mergeFull.rill.merge.length ∧
      ∀ e ∈ mergeFull.rill.merge, ¬ (e.task = 3 ∧ e.addr = 0x20004)) := by
  refine ⟨?_, ?_, ?_, ?_, ⟨?_, ?_⟩, ?_, ?_, ?_, ?_, ?_⟩
  case refine_5 =>
    intro h
    have := congrArg (· - Config.serial) h
    simp at this
  case refine_11 =>
    intro e he
    rw [List.eq_of_mem_replicate (show e ∈ List.replicate 65536 pairM from he)]
    decide
  case refine_10 => show 65536 ≤ (List.replicate 65536 pairM).length; rw [List.length_replicate]
  all_goals decide +kernel

/-- R482: pairs of one element are added in FP32, 1 and 1 to 2. -/
theorem test_mergePair :
    ((after (.mergePair ⟨5, 3⟩ 0x20000 0x3F800000#32) (linked [] [pairM])).rill.merge.map fun e => e.x) = [0x40000000#32] := by
  decide +kernel


/-! ### Frames (spec/07, spec/05) -/

def goes (i : Instr) (s : State) : Bool :=
  match exec i s with
  | .next _ => true
  | _ => false
theorem next_of_goes {i : Instr} {s : State} (p : goes i s = true) : exec i s = .next (after i s) := by
  unfold goes at p
  unfold after
  cases h : exec i s with
  | next t => rfl
  | fault f => simp [h] at p
  | refused r => simp [h] at p

theorem wit_LaneInstructionFrame :
    laneShape (.iadd i32) = some (intForm i32, (1, 1), none) ∧ Issues one (intForm i32) (hereOf one) (lanesOf one .always) ∧
    exec (.iadd i32) one = .next (after (.iadd i32) one) ∧
    (laneShape (.icmp icmp)).isSome = true ∧ goes (.icmp icmp) one = true := by
  refine ⟨?_, issues_of ?_, next_of_goes ?_, ?_, ?_⟩ <;> decide +kernel

theorem wit_MemoryFrames :
    data.mem.wf = true ∧
    (∃ t, exec (.ld (ld .w128 .none)) data = .next t) ∧ (∃ t, exec (.lds (ld .w32 .none)) one = .next t) ∧
    (∃ t, exec (.ldw { ld .w32 .none with a := .k 0 }) data = .next t) ∧
    (∃ t, exec (.st (st .n8 .c)) data = .next t) ∧ (∃ t, exec (.sts (st .n8 .b)) one = .next t) ∧
    onePass ((puts data (st .n8 .c) (accsOf data (stReqs data (st .n8 .c)) .write false)).map Put.hit) = true ∧
    (bankedSts.core 0).port.isSome = true := by
  refine ⟨?_, ⟨_, next_of_goes ?_⟩, ⟨_, next_of_goes ?_⟩, ⟨_, next_of_goes ?_⟩, ⟨_, next_of_goes ?_⟩,
    ⟨_, next_of_goes ?_⟩, ?_, ?_⟩ <;> decide +kernel

/-- The page's entry has neither A nor D set; a store sets both. -/
def unused : State := { data with mem := data.mem.place 0x3000 [0x0F#8] }
theorem wit_TranslationFrame :
    unused.mem.wf = true ∧ ((unused.ctxs[0]?).map Ctx.root).getD 0 % 8 = 0 ∧
    Passes unused (hereOf unused) (stReqs unused (st .n8 .c)) .write false (accsOf unused (stReqs unused (st .n8 .c)) .write false)
      (passed unused (stReqs unused (st .n8 .c)) .write false) ∧
    unused.mem.atD 0x3000 = 0x0F#8 ∧ (passed unused (stReqs unused (st .n8 .c)) .write false).mem.atD 0x3000 = 0x6F#8 := by
  refine ⟨?_, ?_, passes_of ?_, ?_, ?_⟩ <;> decide +kernel

/-- Two bytes that arrive at D at 0x20000. -/
def bytes2 : List NewByte :=
  [{ addr := 0x20000, val := 0xAA, who := [5], marks := [] }, { addr := 0x20001, val := 0xBB, who := [5], marks := [] }]
theorem wit_ArrivalsReadBack : data.mem.wf = true ∧ (bytes2.map NewByte.addr).Nodup := by decide +kernel
theorem test_arrival : (data.mem.arriveD 0 (.thread 5) bytes2).numD 0x20000 4 = 0x0403BBAA := by decide +kernel

/-! ### Encoding and stepping (spec/07, spec/11) -/

/-- A word from the fields of R171: modifiers, kinds C, B and A, flag select, sources C, B and A, destination, guard,
opcode and length. -/
def word (mods kc kb ka fs c b a d guard op len : Nat) : DWord :=
  BitVec.ofNat 64 (len + 2 ^ 2 * op + 2 ^ 10 * guard + 2 ^ 16 * d + 2 ^ 24 * a + 2 ^ 32 * b + 2 ^ 40 * c + 2 ^ 48 * fs +
    2 ^ 50 * ka + 2 ^ 52 * kb + 2 ^ 54 * kc + 2 ^ 56 * mods)

/-- R211: PAND p5, !p1, p2. R219: BRA with target 64. R255: CMT.d.chk p3. R259: BAR.g 7 with group 2. -/
theorem test_control_words :
    decodeThread (word 1 0 0 0 0 0 2 1 5 0 0x52 0) 0 =
      .ok (.pand { g := .always, na := true, nb := false, nr := false, pd := 5, pa := 1, pb := 2 }) ∧
    decodeThread (word 0 0 0 0 0 0 0 0 0 0 0x01 1) 64 = .ok (.bra { g := .always, off := 64 }) ∧
    decodeThread (word 6 0 0 0 0 0 0 0 3 0 0xA0 0) 0 = .ok (.cmt { g := .always, lvl := .d, chk := some 3 }) ∧
    decodeThread (word 0x37 0 0 2 0 0 0 2 0 0 0xA3 0) 0 =
      .ok (.bar { g := .always, gang := true, n := 7, bind := some 2 }) := by decide +kernel

/-- R214: XLANE.up v2, v1, 1, 0. R240: LD.128 under flag A of v12 from [v2 + 16]. R275: TILEDEF tl5, line 3, 4 lines.
R264: REGCLM 9. R272: SEAL v7. -/
theorem test_memory_words :
    decodeThread (word 1 2 2 0 0 0 1 1 2 0 0x60 0) 0 =
      .ok (.xlane { g := .always, im := none, w := false, mode := .up, d := 2, a := .v 1, b := .k 1, c := .k 0 }) ∧
    decodeThread (word 6 0 2 0 1 0 16 2 12 0 0x70 0) 0 =
      .ok (.ld { g := .always, im := none, sel := .a, scope := .c, sz := .w128, d := 12, a := .v 2, b := .k 16 }) ∧
    decodeThread (word 5 0 0 0 0 0 0 0 0 0 0xB5 1) (BitVec.ofNat 64 (3 + 3 * 2 ^ 13)) =
      .ok (.tiledef { g := .always, inv := false, tile := 5, base := 3, count := 3 }) ∧
    decodeThread (word 9 0 0 0 0 0 0 0 0 0 0xB7 0) 0 = .ok (.regclm { g := .always, n := 9 }) ∧
    decodeThread (word 0 0 0 0 0 0 0 0 7 0 0xB2 0) 0 = .ok (.seal { g := .always, d := 7 }) := by decide +kernel

/-- R281: RAYGET field 3. R292: TEX2.lod v12, [v2], v8, 1.0. R387: SRD v12 of register 0x040 of context 2, and HOSTIRQ 4.
R318, R321: SETQ's opcode and its fields. -/
theorem test_unit_words :
    decodeThread (word 3 0 0 0 0 0 0 0 9 0 0xC1 0) 0 = .ok (.rayget { g := .always, sel := 3, d := 9 }) ∧
    decodeThread (word 1 0 0 0 0 8 0 2 12 0 0xE0 1) 0x3F800000 =
      .ok (.tex2 { g := .always, sel := .none, mode := .lod, d := 12, a := .v 2, c := 8, bias := 0x3F800000 }) ∧
    decodeThread (word 0 0 0 0 0 0 0 0 12 0 0xF0 1) 0x2040 = .ok (.srd { g := .always, d := 12, n := 0x040, i := 2 }) ∧
    decodeThread (word 4 0 0 0 0 0 0 0 0 0 0xFA 0) 0 = .ok (.hostirq { g := .always, n := 4 }) := by decide +kernel

/-- R171 to R174, R389: reserved fields and opcodes are refused. -/
theorem test_refused_words :
    ([word 0 0 0 0 3 0 0 0 0 0 0x70 0, word 0 0 0 0 0 0 0 0 1 0 0x00 0, word 0 0 0 0 0 0 0 0 0 1 0x00 0,
      word 8 0 0 0 0 0 2 1 5 0 0x52 0, word 0 0 0 0 0 0 0 0 0 0 0xFF 0].all fun w => !isFine (decodeThread w 0)) = true := by
  decide +kernel

theorem wit_EncodedInstructionsDecode :
    (Instr.wf (.imad i32) = true ∧ (Instr.imad i32).sfields = none ∧ ∃ c, encode (.imad i32) = some c) ∧
    (Instr.wf (.mmt { c := 3, a := 1, b := 2, desc := .imm 0x40000 }) = true ∧
      (Instr.mmt { c := 3, a := 1, b := 2, desc := .imm 0x40000 }).sfields.isSome = true ∧
      encode (.mmt { c := 3, a := 1, b := 2, desc := .imm 0x40000 }) =
        some { bits := 128, lo := 0x4000000201037000#64, hi := 0x40000#64 }) := by
  refine ⟨⟨?_, ?_, Option.isSome_iff_exists.mp ?_⟩, ?_⟩ <;> decide +kernel

theorem wit_DecodedWordsEncode :
    (∃ i, decodeThread 0x02C000030206C4C9#64 0x3FC00000#64 = .ok i) ∧
    (∃ i, decodeStream 0x4000000201037000#64 0x40000#64 = .ok i) ∧
    encode (.iadd { g := .pred false 3, im := none, sat := false, u := false, w := false, d := 4, a := .v 2, b := .k 100
                    c := .v 0 }) = some { bits := 64, lo := 0x0020006402048C40#64, hi := 0 } := by
  refine ⟨⟨_, eq_of_isFine (.nopq) ?_⟩, ⟨_, eq_of_isFine (.nopq) ?_⟩, ?_⟩ <;> decide +kernel

/-- A wave at `IADD v4, v2, 100` guarded by p3, and the steps of its fetch. -/
def fetching : State := State.reset.withFetchWord 64 0x0020006402048C40
def fWave : Wave := (Table.get? (fetching.core 0).waves 0).getD (Wave.ofThreads 0 0 0 [] 0)
def f0 : State := { fetching.offer 0 0 with cur := .wave 0 0 }
def fHere : Here := (f0.startClause { wave := fWave, core := 0, slot := 0, hand := none }).2
def f1 : State := f0.updCore 0 fun k => { k with waves := Table.put k.waves 0 fHere.wave }
def f2 : Trans × State := f1.translate fHere.via fHere.wave.ctx 0x10000 .fetch
def f3 : State := f2.2.freshCode fHere.wave.kid 0
def fPa : Nat := match f2.1 with
  | .ok a => a
  | _ => 0
def f4 : Nat × State := f3.codePos 0 (fPa / 32 * 32)

/-- The firmware at HOSTIRQ 4, and a stream at `SETQ q1, 5`. -/
def fwS : State := State.reset.withFetchWord 64 (word 4 0 0 0 0 0 0 0 0 0 0xFA 0).toNat
def qS : State := State.reset.withFetchWord 128 ((encode (.setq { d := 1, imm := 5 })).map fun c => c.lo.toNat + 2 ^ 64 * c.hi.toNat).get!
def fw0 : State := { fwS with cur := .handler 16 }
def q0 : State := { qS.takeTurn (qS.partOf 0) 0 with cur := .stream 0 }
def qRead : Except UnitErr (List Byte) × State := q0.unitRead (q0.laneVia 0) 0 (str q0).spcS.toNat 16

theorem wit_StepRunsTheInstruction :
    (fetching.agenda = .wave 0 0 :: []) ∧
    (Table.get? (fetching.core 0).waves 0 = some fWave ∧ fetching.mayIssue 0 0 fWave = true ∧
      (f0.startClause { wave := fWave, core := 0, slot := 0, hand := none }).1 = none ∧ fHere.wave.pc.toNat = 0x10000 ∧
      f2.1 = .ok fPa ∧ f3.codePoison 0 (fPa / 32 * 32) = none ∧
      f4.2.mem.slotAt f4.1 fPa = (0x0020006402048C40#64, 0) ∧ slotFits 0x10000 0x0020006402048C40#64 = true ∧
      isFine (decodeThread 0x0020006402048C40#64 0) = true ∧ (f4.2.ctx fHere.wave.ctx).breakAt fHere.wave.skipHit fHere.wave.pc = none ∧
      ((0x0020006402048C40#64).extractLsb' 2 8).toNat < 0xF0 ∧ ∀ i, f4.2.rillRoom (.iadd i) = true) ∧
    ((fwS.handler 16).wave = some (hereOf fw0).wave ∧ fwS.cc.sys = false ∧ (hereOf fw0).wave.active ≠ [] ∧
      ((hereOf fw0).wave.lanes.any fun e => fwS.awaitsLink e.2.uid) = false ∧ (hereOf fw0).wave.pc.toNat = 0x10000 ∧
      fw0.paValid 0x10000 = true ∧ fw0.mem.poisoned 0x10000 8 = false ∧
      fw0.mem.slotAt fw0.mem.pos 0x10000 = (word 4 0 0 0 0 0 0 0 0 0 0xFA 0, 0) ∧
      (hereOf fw0).wave.mode ≠ .user ∧ fw0.rillRoom (.hostirq { g := .always, n := 4 }) = true) ∧
    (qS.dev.stopped = false ∧ qS.turnOf (qS.partOf 0) = some 0 ∧ qRead = (.ok (valOf [] qRead), qRead.2) ∧
      decodeStream (BitVec.ofNat 64 (natOf ((valOf [] qRead).take 8))) (BitVec.ofNat 64 (natOf ((valOf [] qRead).drop 8))) =
        .ok (.setq { d := 1, imm := 5 })) ∧
    encode (.binAged { cl := 0, n := 0 }) = none := by
  refine ⟨?_, ⟨?_, ?_, ?_, ?_, ?_, ?_, ?_, ?_, ?_, ?_, ?_, fun i => ?_⟩, ?_, ⟨?_, ?_, eq_of_isOk [] ?_, ?_⟩, ?_⟩ <;>
    first | decide +kernel | rfl

theorem wit_ExecutionGoesOn :
    ((Instr.iadd i32).fields.isSome = true ∧ one.here.isSome = true ∧ boot.here = none) ∧
    (Instr.nopq.sfields.isSome = true ∧ strm.cur = .stream 0 ∧ ∀ c, boot.cur ≠ .stream c) := by
  refine ⟨?_, ?_, ?_, fun c => ?_⟩
  case refine_4 => have h : boot.cur = .idle := by decide +kernel
                   rw [h]; simp
  all_goals decide +kernel

theorem wit_StepsKeepMemoryCanonical : State.reset.mem.wf = true ∧ data.mem.wf = true := by decide +kernel

/-! ### Ill-formed terms: one for each check of WellFormed, each beside the well-formed term it comes from -/

/-- Each first term is well formed, and none of those beside it is. -/
def refuses (l : List (Instr × List Instr)) : Bool := l.all fun e => e.1.wf && e.2.all fun i => !i.wf
/-- Two sources, and one; of 32 bits and of 64. -/
def i2 : IntOp := { i32 with c := .v 0 }
def i1 : IntOp := { i2 with b := .v 0 }
def l2 : IntOp := { i64 with c := .v 0 }
def f2s : FOp := { fop with c := .v 0 }
def f1s : FOp := { f2s with b := .v 0 }
def ldc : LdOp := { ld .w32 .none with scope := .c }
def ldw : LdOp := { ldc with a := .w 2 }

theorem test_ill_formed_integer : refuses
    [(.iadd i2, [.iadd { i2 with a := .w 64 }, .iadd { i2 with b := .w 64 }, .iadd { i2 with c := .v 1 }, .iadd { i2 with a := .long 0 },
        .iadd { i2 with im := some 0, a := .long 0, b := .long 0 }]),
     (.iadd l2, [.iadd { l2 with a := .v 3 }, .iadd { l2 with a := .w 3 }, .iadd { l2 with d := 7 }]),
     (.imulh i2, [.imulh { i2 with sat := true }]), (.and i2, [.and { i2 with u := true }]),
     (.imad i32, [.imad { i32 with c := .w 64 }]),
     (.mov i1, [.mov { i1 with im := some 0 }, .mov { i1 with b := .v 1 }, .mov { i1 with a := .long 0 }]),
     (.shl i2, [.shl { i2 with sat := true }, .shl { i2 with u := true }, .shl { i2 with b := .w 64 }, .shl { i2 with c := .v 1 },
        .shl { i2 with a := .w 64 }, .shl { i2 with b := .long 0 }]),
     (.bfe { l2 with b := .v 3 }, [.bfe { l2 with d := 7 }]),
     (.bfi i32, [.bfi { i32 with sat := true }, .bfi { i32 with u := true }, .bfi { i32 with c := .w 64 }, .bfi { i32 with b := .w 64 },
        .bfi { i32 with a := .long 0 }]), (.bfi i64, [.bfi { i64 with a := .v 3 }, .bfi { i64 with d := 7 }]),
     (.popc i1, [.popc { i1 with b := .v 1 }, .popc { i1 with c := .v 1 }, .popc { i1 with im := some 0 }, .popc { i1 with u := true },
        .popc { i1 with sat := true }, .popc { i1 with a := .long 0 }, .popc { i1 with a := .w 64 }])] = true := by decide +kernel

theorem test_ill_formed_float : refuses
    [(.fmin f2s, [.fmin { f2s with tz := true }, .fmin { f2s with sat := true }, .fmin { f2s with a := .w 64 },
        .fmin { f2s with b := .w 64 }, .fmin { f2s with c := .v 1 }, .fmin { f2s with nc := true }, .fmin { f2s with a := .long 0 }]),
     (.fsqrt f1s, [.fsqrt { f1s with nb := true }, .fsqrt { f1s with ab := true }, .fsqrt { f1s with im := some 0 },
        .fsqrt { f1s with b := .v 1 }]), (.ffma fop, [.ffma { fop with c := .w 64 }]),
     (.pkadd { pk with c := .v 0 }, [.pkadd pk, .pkadd { pk with c := .v 0, nc := true }, .pkadd { pk with c := .v 0, a := .w 64 }]),
     (.pkfma pk, [.pkfma { pk with b := .w 64 }, .pkfma { pk with c := .w 64 }, .pkfma { pk with a := .long 0 }]),
     (.cvt (cvt .f32 .f16 1), [.cvt (cvt .f32 .f16 2)]), (.cvt (cvt .f32 .f32 0), [.cvt { cvt .f32 .f32 0 with sp := 1 }]),
     (.cvt (cvt .i64 .f32 0), [.cvt { cvt .i64 .f32 0 with a := .v 3 }, .cvt { cvt .i64 .f32 0 with a := .long 0 }]),
     (.cvt (cvt .f32 .i64 0), [.cvt { cvt .f32 .i64 0 with d := 3 }])] = true := by decide +kernel

theorem test_ill_formed_moves : refuses
    [(.movi movi, [.movi { movi with d := 3 }]), (.movi64 movi64, [.movi64 { movi64 with d := 3 }]),
     (.lea lea, [.lea { lea with b := .v 3 }, .lea { lea with d := 7 }, .lea { lea with a := .w 64 }, .lea { lea with a := .long 0 }]),
     (.lea { lea with w := false }, [.lea { lea with w := false, b := .w 64 }]),
     (.sel sel, [.sel { sel with a := .w 64 }, .sel { sel with b := .w 64 }, .sel { sel with b := .long 0 }]),
     (.sel { sel with w := true, d := 4, b := .v 4 }, [.sel { sel with w := true, d := 5, b := .v 4 }]),
     (.tern tern, [.tern { tern with a := .w 64 }, .tern { tern with b := .w 64 }, .tern { tern with c := .w 64 }, .tern { tern with a := .long 0 }]),
     (.icmp icmp, [.icmp { icmp with comb := .none }, .icmp { icmp with a := .w 64 }, .icmp { icmp with b := .w 64 },
        .icmp { icmp with a := .long 0 }]),
     (.fcmp fcmp, [.fcmp { fcmp with pc := 3 }, .fcmp { fcmp with a := .w 64 }, .fcmp { fcmp with b := .w 64 }, .fcmp { fcmp with a := .long 0 }]),
     (.xlane (xlane .up), [.xlane { xlane .up with a := .w 64 }, .xlane { xlane .up with b := .w 64 }, .xlane { xlane .up with c := .w 64 },
        .xlane { xlane .up with a := .long 0 }]),
     (.xlane { xlane .up with w := true, d := 4, c := .v 6 }, [.xlane { xlane .up with w := true, d := 3, c := .v 6 }]),
     (.bcast { g := .always, im := none, wd := 0, a := .v 0, b := .k 0 },
       [.bcast { g := .always, im := none, wd := 64, a := .v 0, b := .k 0 }, .bcast { g := .always, im := none, wd := 0, a := .v 0, b := .v 0 },
        .bcast { g := .always, im := none, wd := 0, a := .v 0, b := .w 64 }, .bcast { g := .always, im := none, wd := 0, a := .w 64, b := .k 0 },
        .bcast { g := .always, im := none, wd := 0, a := .long 0, b := .k 0 }]),
     (.redx (redx .iadd), [.redx { redx .iadd with ex := true }, .redx { redx .iadd with a := .long 0 }]),
     (.scanx (redx .iadd), [.scanx { redx .iadd with a := .w 64 }]),
     (.matchx { g := .always, w := true, d := 1, a := .v 2 },
       [.matchx { g := .always, w := true, d := 1, a := .v 3 }, .matchx { g := .always, w := true, d := 1, a := .long 0 }])] = true := by
  decide +kernel

theorem test_ill_formed_loads : refuses
    [(.ld ldc, [.ld { ldc with scope := .d }, .ld { ldc with a := .k 0 }, .ld { ldc with b := .v 0 }, .ld { ldc with b := .long 0 },
        .ld { ldc with sz := .w64, d := 13 }]),
     (.ldStrong (ld .w32 .none), [.ldStrong { ld .w128 .none with d := 14 }, .ldStrong { ld .w32 .none with a := .v 3 }]),
     (.lds { ldc with a := .v 1 }, [.lds { ld .w32 .none with a := .v 1 }, .lds { ldc with a := .k 0 }, .lds { ldc with sz := .w64, d := 13 }]),
     (.ldw ldw, [.ldw ldc, .ldw { ldw with scope := .d }, .ldw { ldw with a := .w 64 }, .ldw { ldw with d := 64 }, .ldw { ldw with b := .w 0 },
        .ldw { ldw with b := .long 0 }, .ldw { ldw with sz := .w64, d := 13 }]),
     (.ldt { g := .always, im := none, sel := .none, tile := 0, sz := .w64, d := 2, a := .v 1, b := .k 0 },
       [.ldt { g := .always, im := none, sel := .none, tile := 0, sz := .w64, d := 3, a := .v 1, b := .k 0 },
        .ldt { g := .always, im := none, sel := .none, tile := 0, sz := .w64, d := 2, a := .k 1, b := .k 0 }]),
     (.ldf { g := .always, im := none, sel := .none, pd := 0, sz := .w64, d := 2, a := .v 1, b := .k 0 },
       [.ldf { g := .always, im := none, sel := .none, pd := 0, sz := .w64, d := 3, a := .v 1, b := .k 0 },
        .ldf { g := .always, im := none, sel := .none, pd := 0, sz := .w64, d := 2, a := .v 1, b := .v 0 }]),
     (.pref { g := .always, im := none, toD := false, a := .v 2, b := .k 0 }, [.pref { g := .always, im := none, toD := false, a := .v 3, b := .k 0 }]),
     (.sete { g := .always, im := none, a := .v 0, b := .k 0 }, [.sete { g := .always, im := none, a := .v 0, b := .v 0 }])] = true := by
  decide +kernel

theorem test_ill_formed_stores : refuses
    [(.st (st .n8 .c), [.st { st .w64 .c with c := .v 3 }, .st { st .w128 .c with c := .k 0 }, .st { st .w128 .c with c := .w 2 },
        .st { st .n8 .c with a := .v 3 }, .st { st .n8 .c with b := .v 0 }, .st { st .n8 .c with c := .long 0 },
        .st { st .n8 .c with c := .w 64 }]),
     (.sts (st .n8 .c), [.sts (st .n8 .d), .sts { st .n8 .c with a := .k 0 }, .sts { st .n8 .c with b := .v 0 },
        .sts { st .w64 .c with c := .v 3 }, .sts { st .n8 .c with c := .long 0 }]),
     (.stt { g := .always, im := none, tile := 0, sz := .w64, a := .v 0, b := .k 0, c := .v 2 },
       [.stt { g := .always, im := none, tile := 0, sz := .w64, a := .k 0, b := .k 0, c := .v 2 },
        .stt { g := .always, im := none, tile := 0, sz := .w64, a := .v 0, b := .v 0, c := .v 2 },
        .stt { g := .always, im := none, tile := 0, sz := .w64, a := .v 0, b := .k 0, c := .v 3 },
        .stt { g := .always, im := none, tile := 0, sz := .w64, a := .v 0, b := .k 0, c := .long 0 }]),
     (.atom (atom .add (.lvl .d)), [.atom { atom .add (.lvl .d) with a := .v 3 }, .atom { atom .add (.lvl .d) with b := .v 0 },
        .atom { atom .add (.lvl .d) with c := .w 64 }, .atom { atom .add (.lvl .d) with c := .long 0 },
        .atom { atom .add (.lvl .d) with w := true, d := 13 }]),
     (.atom (atom .add .sp), [.atom { atom .add .sp with a := .k 0 }]),
     (.atom (atom .cas (.lvl .d)), [.atom { atom .cas (.lvl .d) with c := .v 3 }, .atom { atom .cas (.lvl .d) with c := .k 3 },
        .atom { atom .cas (.lvl .d) with w := true, c := .v 2 }]),
     (.atom (atom .fadd (.lvl .d)), [.atom { atom .fadd (.lvl .d) with w := true }]),
     (.atom (atom .fmax (.lvl .d)), [.atom { atom .fmax (.lvl .d) with w := true }]),
     (.red { atom .add (.lvl .d) with d := 0 }, [.red (atom .add (.lvl .d)), .red { atom .xchg (.lvl .d) with d := 0 },
        .red { atom .cas (.lvl .d) with d := 0 }, .red { atom .add (.lvl .d) with d := 0, a := .k 0 }]),
     (.amaxswp { g := .always, im := none, sel := .none, scope := .lvl .d, d := 0, a := .v 2, b := .k 0 },
       [.amaxswp { g := .always, im := none, sel := .none, scope := .lvl .d, d := 0, a := .k 0, b := .k 0 }])] = true := by decide +kernel

theorem test_ill_formed_control : refuses
    [(.await await, [.await { await with a := .k 0 }]), (.phase { g := .always, gang := true, n := 7 }, [.phase { g := .always, gang := true, n := 8 }]),
     (.call { g := .always, d := 2, off := 0 }, [.call { g := .always, d := 3, off := 0 }]),
     (.ret { g := .always, a := .v 2 }, [.ret { g := .always, a := .v 3 }]), (.jmpi { g := .always, a := .w 2 }, [.jmpi { g := .always, a := .k 0 }]),
     (.clause { count := 1, fb := 12, fa := 12, wait := 0 }, [.clause { count := 1, fb := 11, fa := 11, wait := 0 }]),
     (.cmt { g := .always, lvl := .s, chk := none }, [.cmt { g := .always, lvl := .c, chk := none }]),
     (.abt { g := .always, lvl := .g }, [.abt { g := .always, lvl := .d }, .abt { g := .always, lvl := .s }]),
     (.fence { g := .always, kind := .as, scope := .d }, [.fence { g := .always, kind := .as, scope := .b }]),
     (.bar { g := .always, gang := true, n := 7, bind := none }, [.bar { g := .always, gang := true, n := 8, bind := none }]),
     (.arrive { g := .always, gang := false, n := 15, bind := none }, [.arrive { g := .always, gang := true, n := 15, bind := none }]),
     (.join { g := .always, grp := 1 }, [.join { g := .always, grp := 0 }]), (.leave { g := .always, grp := 15 }, [.leave { g := .always, grp := 0 }])] =
    true := by decide +kernel

theorem test_ill_formed_resources : refuses
    [(.acopy acopy, [.acopy { acopy with ga := .v 5 }, .acopy { acopy with so := .long 0 }, .acopy { acopy with pa := .k 0 }]),
     (.acopyg acopyg, [.acopyg { acopyg with sb := .v 5 }, .acopyg { acopyg with db := .k 0 }, .acopyg { acopyg with pa := .k 0 }]),
     (.waitb { g := .always, im := none, a := .k 0 }, [.waitb { g := .always, im := none, a := .long 0 }, .waitb { g := .always, im := some 0, a := .v 0 }]),
     (.tiledef { g := .always, inv := true, tile := 0, base := 0, count := 0 }, [.tiledef { g := .always, inv := true, tile := 0, base := 1, count := 0 },
        .tiledef { g := .always, inv := true, tile := 0, base := 0, count := 1 }]),
     (.tiledefSt { stashOp 0 with a := .w 4 }, [.tiledefSt (stashOp 0), .tiledefSt { stashOp 0 with inv := true, a := .w 4, count := 0 },
        .tiledefSt { stashOp 0 with inv := true, a := .v 0 }, .tiledefSt { stashOp 0 with inv := true, a := .v 0, count := 0, line := 1 }]),
     (.regclm { g := .always, n := 31 }, [.regclm { g := .always, n := 0 }, .regclm { g := .always, n := 32 }]),
     (.regrel { g := .always, n := 0 }, [.regrel { g := .always, n := 32 }]),
     (.acclm { g := .always, n := 32 }, [.acclm { g := .always, n := 0 }, .acclm { g := .always, n := 33 }]),
     (.accrel { g := .always, n := 32 }, [.accrel { g := .always, n := 33 }]), (.rquery { g := .always, sel := 9, d := 0 }, [.rquery { g := .always, sel := 10, d := 0 }])] =
    true := by decide +kernel

theorem test_ill_formed_rays : refuses
    [(.rayset { g := .always, sel := 10, a := .v 0 }, [.rayset { g := .always, sel := 11, a := .v 0 }, .rayset { g := .always, sel := 0, a := .long 0 }]),
     (.rayget { g := .always, sel := 11, d := 0 }, [.rayget { g := .always, sel := 12, d := 0 }]),
     (.hitget { g := .always, sel := 10, d := 0 }, [.hitget { g := .always, sel := 11, d := 0 }]),
     (.trace { g := .always, a := .v 2, flags := none, mask := none, sel := none }, [.trace { g := .always, a := .k 0, flags := none, mask := none, sel := none }]),
     (.report { g := .always, im := none, kind := 0x7F, a := .v 0, b := .v 0, c := .v 0 },
       [.report { g := .always, im := none, kind := 0, a := .v 0, b := .v 0, c := .v 0 },
        .report { g := .always, im := none, kind := 0x80, a := .v 0, b := .v 0, c := .v 0 },
        .report { g := .always, im := none, kind := 1, a := .w 64, b := .v 0, c := .v 0 },
        .report { g := .always, im := none, kind := 1, a := .v 0, b := .w 64, c := .v 0 },
        .report { g := .always, im := none, kind := 1, a := .v 0, b := .v 0, c := .w 64 },
        .report { g := .always, im := none, kind := 1, a := .long 0, b := .v 0, c := .v 0 }]),
     (.key { g := .always, im := none, a := .v 0 }, [.key { g := .always, im := none, a := .long 0 }, .key { g := .always, im := none, a := .w 64 }]),
     (.accum { g := .always, a := .v 2, b := .k 0, c := 8 }, [.accum { g := .always, a := .v 2, b := .v 0, c := 8 },
        .accum { g := .always, a := .v 2, b := .k 0, c := 9 }, .accum { g := .always, a := .k 2, b := .k 0, c := 8 }]),
     (.rng rng, [.rng { rng with a := .long 0 }, .rng { rng with b := .w 64 }, .rng { rng with c := .long 0 }])] = true := by decide +kernel

theorem test_ill_formed_matrix : refuses
    [(.mma (mma 1 (.v 0) 0), [.mma { mma 1 (.v 0) 0 with wm := 1 }, .mma (mma 1 (.long 0) 0)]),
     (.mmas { mma 1 (.v 0) 0 with wm := 63 }, [.mmas { mma 1 (.v 0) 0 with wm := 64 }, .mmas (mma 1 (.long 0) 0)]),
     (.mld { mld with a := .w 2, crd := .v 0 }, [.mld { mld with crd := .v 0 }, .mld { mld with a := .w 2, crd := .k 1 }]),
     (.mst { mld with a := .w 2 }, [.mst mld, .mst { mld with a := .w 2, crd := .v 0 }, .mst { mld with a := .w 2, crd := .w 64 }]),
     (.mstSp mstSp, [.mstSp { mstSp with crd := .long 0 }, .mstSp { mstSp with crd := .w 64 }]),
     (.mcvt (mcvt (some (.w 2))), [.mcvt (mcvt (some (.v 2))), .mcvt { mcvt none with crd := .v 3 }, .mcvt { mcvt none with crd := .w 64 }]),
     (.tex2 tex2, [.tex2 { tex2 with d := 13 }, .tex2 { tex2 with a := .k 0 }]), (.texg texg, [.texg { texg with d := 14 }, .texg { texg with a := .v 3 }]),
     (.launch { g := .always, pd := 0, d := 0, a := .v 2 }, [.launch { g := .always, pd := 0, d := 0, a := .k 0 }]),
     (.lwait { g := .always, a := .v 3 }, [.lwait { g := .always, a := .k 0 }]),
     (.lwaitTest { g := .always, pd := 0, a := .w 3 }, [.lwaitTest { g := .always, pd := 0, a := .w 64 }])] = true := by decide +kernel

theorem test_ill_formed_system : refuses
    [(.srd { g := .always, d := 2, n := 0, i := 0 }, [.srd { g := .always, d := 3, n := 0, i := 0 }]),
     (.swr { g := .always, n := 0, i := 0, a := .v 2 }, [.swr { g := .always, n := 0, i := 0, a := .k 0 }]),
     (.tlbinv { g := .always, c := .v 0, page := some (.v 2) }, [.tlbinv { g := .always, c := .long 0, page := none },
        .tlbinv { g := .always, c := .v 0, page := some (.k 0) }]),
     (.cinv { g := .always, kind := .code, m := .k 1 }, [.cinv { g := .always, kind := .code, m := .long 0 }]),
     (.haltc { g := .always, resume := false, m := .k 1 }, [.haltc { g := .always, resume := false, m := .long 0 }]),
     (.dump { g := .always, d := 2, c := .v 0, a := .v 2, l := .v 4 }, [.dump { g := .always, d := 3, c := .v 0, a := .v 2, l := .v 4 },
        .dump { g := .always, d := 2, c := .long 0, a := .v 2, l := .v 4 }, .dump { g := .always, d := 2, c := .v 0, a := .v 3, l := .v 4 },
        .dump { g := .always, d := 2, c := .v 0, a := .v 2, l := .k 4 }]),
     (.ctxsave { g := .always, c := .v 0, a := .v 2 }, [.ctxsave { g := .always, c := .v 0, a := .v 3 }, .ctxsave { g := .always, c := .long 0, a := .v 2 }]),
     (.ctxload { g := .always, c := .v 0, a := .v 2 }, [.ctxload { g := .always, c := .w 64, a := .v 2 }, .ctxload { g := .always, c := .v 0, a := .k 2 }]),
     (.fqpop { g := .always, pd := 0, d := 2 }, [.fqpop { g := .always, pd := 0, d := 3 }]),
     (.waiti { g := .always, state := false, bell := true, queue := false }, [.waiti { g := .always, state := false, bell := false, queue := false }]),
     (.brq { z := false, a := 0, off := 16 }, [.brq { z := false, a := 0, off := 8 }]), (.jmpq 16, [.jmpq 8]), (.callq 32, [.callq 40])] = true := by
  decide +kernel

/-! ### More of the arithmetic, and traversal (spec/08, spec/03) -/

theorem wit_IntegerHighHalfAndOrder :
    32 = intWidth i32 ∧ i32.sat = false ∧ Issues one (intForm i32) (hereOf one) (lanesOf one .always) ∧
    64 = intWidth i64 ∧ Issues one (intForm i64) (hereOf one) (lanesOf one .always) := by
  refine ⟨?_, ?_, issues_of ?_, ?_, issues_of ?_⟩ <;> decide +kernel
theorem wit_BitwiseResults : 64 = intWidth i64 ∧ Issues one (intForm i64) (hereOf one) (lanesOf one .always) :=
  ⟨by decide, issues_of (by decide +kernel)⟩

/-- v2 holds a word. -/
def holding (x : Word) : State := withRegs one [(2, x)]
theorem wit_FloatMinMax :
    fop.sat = false ∧ Issues (holding 0x7FC00000) (fForm fop) (hereOf (holding 0x7FC00000)) (lanesOf (holding 0x7FC00000) .always) ∧
    isNan32 (fpSource fop (hereOf one) (lane0 (holding 0x7FC00000)) false false (.v 2)) = true ∧
    isNan32 (fpSource fop (hereOf one) (lane0 one) false false (.v 2)) = false := by
  refine ⟨?_, issues_of ?_, ?_, ?_⟩ <;> decide +kernel
/-- The word is what the first source of the small state that holds it in v2 reads as. -/
def readsAs (x : Word) : Prop := fpSource fop (hereOf one) (lane0 (holding x)) false false (.v 2) = x
/-- Each row of the table: NaN, the infinities, the zeros, a number below zero, and the integer 3. -/
theorem wit_SingleSourceFunctions :
    Issues one (fForm fop) (hereOf one) (lanesOf one .always) ∧
    (readsAs 0x7FC00000 ∧ readsAs 0x7F800000 ∧ readsAs 0xFF800000 ∧ readsAs 0 ∧ readsAs 0x80000000 ∧ readsAs 0xBF800000 ∧ readsAs 0x40400000) ∧
    isNan32 0x7FC00000#32 = true ∧ (0xBF800000#32).msb = true ∧ (f32 0x40400000#32).eq (.ofInt 3) = true := by
  refine ⟨issues_of ?_, ⟨?_, ?_, ?_, ?_, ?_, ?_, ?_⟩, ?_, ?_, ?_⟩ <;> first | decide +kernel | (unfold readsAs; decide +kernel)

def vec (x y z : Word) : Vec3 := { x := x, y := y, z := z }
/-- The triangle (-1, -1, 1), (1, -1, 1), (0, 1, 1) seen from the origin along z; and along x, in its plane. -/
def tri (d : Vec3) : Option TriHit :=
  triTest (vec 0 0 0) d 0 0x7F800000 (some 0x40000000) false (vec 0xBF800000 0xBF800000 0x3F800000)
    (vec 0x3F800000 0xBF800000 0x3F800000) (vec 0 0x3F800000 0x3F800000)
def childOf (e : Word) : Child := { entry := e, kind := 0, ptr := 0, cnt := 1 }
def stackE : StackEntry := { bottom := false, leaf := 0, kind := 0, rank := 0, level := 0, ptr := 0 }
def inst0 (flags : BitVec 8) : AsInst := { m := [], bot := 0, id := 0, mask := 0, off := 0, flags := flags }

theorem wit_TraversalDecisions :
    (∃ y, tri (vec 0 0 0x3F800000) = some y) ∧
    feq32 (((vec 0x3F800000 0xBF800000 0x3F800000).sub (vec 0xBF800000 0xBF800000 0x3F800000)).dot
      ((vec 0x3F800000 0 0).cross ((vec 0 0x3F800000 0x3F800000).sub (vec 0xBF800000 0xBF800000 0x3F800000)))) 0 = true ∧
    isNan32 (((vec 0x7FC00000 0 0).sub (vec 0 0 0)).dot ((vec 0 0 0x3F800000).cross (vec 0 0x3F800000 0))) = true ∧
    ({ RayPart.zero with flags := 1 }.flags.getLsbD 0 = true ∧ { RayPart.zero with flags := 2 }.flags.getLsbD 1 = true ∧
      RayPart.zero.flags.getLsbD 0 = false ∧ RayPart.zero.flags.getLsbD 1 = false ∧ (inst0 1).flags.getLsbD 0 = true ∧
      (inst0 2).flags.getLsbD 1 = true ∧ (inst0 0).flags.getLsbD 1 = false) ∧
    flt32 0x40000000 (childOf 0x3F800000).entry = false ∧
    (RayPart.zero.stack.length < 8 ∧ 8 ≤ { RayPart.zero with stack := List.replicate 8 stackE }.stack.length) := by
  refine ⟨Option.isSome_iff_exists.mp ?_, ?_, ?_, ?_, ?_, ?_⟩ <;> decide +kernel

/-- R72: the ray meets the triangle at t = 1, in the middle of its width and half way up: u = 1/4 and v = 1/2. -/
theorem test_triangle : ((tri (vec 0 0 0x3F800000)).map fun y => (y.t, y.u, y.v)) =
    some (0x3F800000#32, 0x3E800000#32, 0x3F000000#32) := by decide +kernel

/-- The ray of the small state in traversal; the same while its context stops, with a run in progress or without. -/
def trav (stop : BitVec 3) : State :=
  cl0 (withRay one fun r => { r with stop := stop }) fun c =>
    { c with trav := [(5, lane0 (withRay one fun r => { r with stop := stop }))] }
def travStop (stop : BitVec 3) : State := (trav stop).updCtx 0 fun c => { c with st := .stopping, inRun := [5] }
def treeletBin : Bin := { bin0 with target := .treelet 0x21000, recs := [lane0 rays] }
def fetchT : State := cl0 rays fun c => { c with bins := [(0, treeletBin)] }
def treePa : Except UnitErr Nat × State := (fetchT.travUnit 0).2.unitPa (fetchT.travUnit 0).1.via 0 0x21000 .read
/-- The same read by any unit of the cluster. -/
def treePaOf (n : Nat) : Except UnitErr Nat × State :=
  let u : TravUnit := { core := 8 * 0 + n / 2, unit := n % 2 }
  ({ fetchT with fresh := fetchT.fresh + 1 } : State).unitPa u.via 0 0x21000 .read
theorem treePa_any : ∀ n < 16, isOk (treePaOf n) = true ∧ 0 < (treePaOf n).2.clusters.length := by decide +kernel
theorem treePa_ok : isOk treePa = true ∧ 0 < treePa.2.clusters.length :=
  treePa_any (Config.free fetchT.fresh % 16) (Nat.mod_lt _ (by decide))

theorem wit_TraversalEvents :
    (Runs (trav 0) 0 ∧ (∃ y, (trav 0).travReady 0 5 = some y) ∧ ((trav 0).ctx (grid1 rays).ctx).st = .running) ∧
    (Runs (travStop 0) 0 ∧ (∃ y, (travStop 0).travReady 0 5 = some y) ∧ ((travStop 0).ctx (grid1 rays).ctx).st = .stopping ∧
      5 ∈ ((travStop 0).ctx (grid1 rays).ctx).inRun ∧ 5 ∉ ((trav 0).ctx (grid1 rays).ctx).inRun) ∧
    (((travStop 5).travReady 0 5).map fun y => y.2.2.stop) = some 5 ∧
    (Runs fetchT 0 ∧ Table.get? (clus fetchT).bins 0 = some treeletBin ∧ treeletBin.target = .treelet 0x21000 ∧
      Table.get? fetchT.grids treeletBin.kid = some (grid1 rays) ∧ (grid1 rays).ending = false ∧
      (∃ e ∈ (clus fetchT).bins, e.2.kid = treeletBin.kid ∧ e.2.target = treeletBin.target ∧
        (e.2.aged = true ∨ (fetchT.part (fetchT.partOf (grid1 rays).ctx)).treeletNeed ≤ e.2.recs.length)) ∧
      treePa = (.ok (valOf 0 treePa), treePa.2) ∧ 0 < treePa.2.clusters.length ∧ treeletBin.recs ≠ [] ∧
      (fetchT.ctx (grid1 rays).ctx).st = .running ∧
      ((fetchT.updCtx 0 fun c => { c with st := .stopping }).ctx (grid1 rays).ctx).st ≠ .running) := by
  refine ⟨⟨?_, Option.isSome_iff_exists.mp ?_, ?_⟩, ⟨?_, Option.isSome_iff_exists.mp ?_, ?_⟩, ?_, ?_, ?_, ?_, ?_, ?_, ?_,
    eq_of_isOk 0 treePa_ok.1, treePa_ok.2, ?_⟩ <;> first | decide +kernel | (unfold Runs; decide +kernel)

/-! ### Completion, and waves of many lanes (spec/08, spec/09) -/

theorem wit_ComputingInstructionsComplete :
    (laneShape (.iadd i32) = some (intForm i32, (1, 1), none) ∧ Issues one (intForm i32) (hereOf one) (lanesOf one .always)) ∧
    (crewShape (.ballot { g := .always, na := false, d := 1, pa := 2 }) = some (f8 [(1, 1)], (1, 1)) ∧
      CrewIssues counted (f8 [(1, 1)]) (hereOf counted) (lanesOf counted .always)) ∧
    Issues one { len := lenOf none, g := .always, cluster := true, uses := runs [.v 2] } (hereOf one)
      (lanesOf one .always) :=
  ⟨⟨by decide +kernel, issues_of (by decide +kernel)⟩,
   ⟨by decide +kernel, crewIssues_of (f := f8 [(1, 1)]) (by decide +kernel)⟩,
   issues_of (f := { len := lenOf none, g := .always, cluster := true, uses := runs [.v 2] }) (by decide +kernel)⟩

/-- The block of a wave of 32 lanes; and with an arrival at its barrier 0, which group 0 holds. -/
def manyBlock (s : State) : Block := (s.blockOf (lane0 s)).getD (Block.fresh 0 0 0 0 0 0 0 0 [])
def manyB (n : Nat) : State :=
  onBlock many fun b => { b with
    bars := [(0, { Barrier.fresh 0 with arrived := [{ uid := 99, episode := 0, batch := 0 }].take n })] }
def lanesM (n : Nat) : Table Thread := lanesOf (manyB n) .always
def phased (s : State) : State × List (Nat × Thread × Filing) :=
  (lanesOf s .always).foldl (fun (r : State × List (Nat × Thread × Filing)) e =>
    let u := r.1.phaseLane (hereOf s) false 0 e.2
    (u.1, r.2 ++ [(e.1, u.2)])) (s, [])
def phasedOn : Except Level State :=
  (phased many).1.yieldLanes (hereOf many) ((phased many).2.map fun e => (e.1, e.2.1)) 3 ((hereOf many).wave.after 16)
    (fun t => (((phased many).2.find? fun e => e.2.1.uid = t.uid).map fun e => e.2.2).getD .bin)

theorem wit_WavesOfManyLanesComplete :
    (∀ n ∈ [0, 1], Issues (manyB n) { f8 [] with cluster := true, orders := true } (hereOf (manyB n)) (lanesM n) ∧
      Issues (manyB n) { f8 [] with cluster := true } (hereOf (manyB n)) (lanesM n) ∧
      1 < (lanesM n).length ∧ 0 < (manyB n).barCount (hereOf (manyB n)).wave.kid false ∧
      (∀ e ∈ lanesM n, (manyB n).blockOf e.2 = some (manyBlock (manyB n)))) ∧
    ((manyB 0).barrier (manyBlock (manyB 0)) false 0).arrived = [] ∧
    (((manyB 1).barrier (manyBlock (manyB 1)) false 0).arrived ≠ [] ∧
      ((manyB 1).barrier (manyBlock (manyB 1)) false 0).group = 0 ∧ (lanesM 1).head?.isSome = true ∧
      Table.get? (manyB 1).blocks (manyBlock (manyB 1)).uid = some (manyBlock (manyB 1))) ∧
    (∀ e ∈ lanesM 0, (Table.getD (manyBlock (manyB 0)).live e.2.uid 0).getLsbD 3 = false) ∧
    (Issues many { f8 [] with len := 16, final := true, cluster := true, whole := true, orders := true } (hereOf many) (lanesOf many .always) ∧
      MayYield many (hereOf many) (lanesOf many .always) ∧ ∃ t, phasedOn = .ok t) ∧
    (Issues many (f8 []) (hereOf many) (lanesOf many .always) ∧ (hereOf many).hand = none ∧ (hereOf many).wave.crew = none ∧ (hereOf counted).wave.crew ≠ none) := by
  refine ⟨?_, ?_, ?_, ?_, ⟨?_, ?_, _, eq_of_isFine many ?_⟩, ?_, ?_⟩ <;>
    first | decide +kernel | (unfold Issues; decide +kernel) | (unfold MayYield; decide +kernel)

/-- R261: every lane of the wave arrives; R261: and waits there. -/
theorem test_bar_many :
    let s := after (.bar { g := .always, gang := false, n := 0, bind := none }) (manyB 0)
    ((manyBlock s).bars.map fun e => e.2.arrived.length) = [32] := by decide +kernel

end Sys2Proof.Tests
end

/-! ## The reset state (spec/16 R381 to R384, spec/20 R451 to R460, spec/21 R483 to R487) -/

namespace Sys2Proof.Machine

/-- At reset every context, partition, cluster and core is the one that a read past the end gives: no bound on the
number is needed to read one. -/
theorem listGet_replicate {α : Type} (n k : Nat) (d : α) : listGet (List.replicate n d) k d = d := by
  unfold listGet
  rw [List.getElem?_replicate]
  split <;> rfl

@[simp] theorem State.reset_ctx (c : Nat) : State.reset.ctx c = Ctx.reset := listGet_replicate _ _ _
@[simp] theorem State.reset_part (f : Nat) : State.reset.part f = Part.reset := listGet_replicate _ _ _
@[simp] theorem State.reset_cluster (cl : Nat) : State.reset.cluster cl = Cluster.reset := listGet_replicate _ _ _

theorem eq_reset_of_mem_reset_cores {k : Core} (hk : k ∈ State.reset.cores) : k = Core.reset :=
  List.eq_of_mem_replicate hk

/-- CTX_CTL, CTX_STREAM_STATUS and DBG_CTL of every context: WEIGHT 1 and nothing else, halted, and zero. -/
theorem regRead_reset_ctx (c : Nat) : State.reset.regRead 0x040 c = 1 ∧ State.reset.regRead 0x044 c = 2 ∧
    State.reset.regRead 0x110 c = 0 := by
  simp only [State.regRead, State.ctxReg, State.reset_ctx]
  exact ⟨rfl, rfl, rfl⟩

/-- PART_CFG and PART_SCHED of every partition. -/
theorem regRead_reset_part (f : Nat) : State.reset.regRead 0x010 f = 0x200000000 ∧
    State.reset.regRead 0x011 f = 0x0800100204000100 := by
  simp only [State.regRead, State.partReg, State.reset_part]
  exact ⟨rfl, rfl⟩

/-- CL_MODE and DBG_STATUS of every cluster. -/
theorem regRead_reset_cluster (cl : Nat) : State.reset.regRead 0x020 cl = 0 ∧ State.reset.regRead 0x103 cl = 0 := by
  simp only [State.regRead, State.clusterReg, State.reset_cluster]
  exact ⟨rfl, rfl⟩

/-- Settles O58: a register of a context, a partition or a cluster is read from the one value that all of them hold at
reset, and the device's registers are evaluated. -/
theorem resetValues : Obligations.ResetValues :=
  ⟨rfl, fun c _ => regRead_reset_ctx c, fun f _ => regRead_reset_part f, fun cl _ => regRead_reset_cluster cl,
    rfl, rfl, rfl, rfl, rfl, rfl, Memory.reset_wf, fun k hk => by rw [eq_reset_of_mem_reset_cores hk]; rfl⟩

end Sys2Proof.Machine

/-! ## Memory keeps its canonical form through every step (O57, log 2)

The bytes at memory's home change in three operations alone: `Memory.setD`, and through it every arrival;
`Memory.arriveHome`; `Memory.sendHome`. What follows says of every operation that a step can call, in the order of
the model's files, one of two things: it leaves memory as it was (`…_mem`, for `simp`), or it keeps the canonical
form (`…_wf`). Each proof unfolds its operation once and cites the lemmas of the operations that this one calls;
`grind` splits the branches and needs no linear arithmetic for it. -/

namespace Sys2Proof.Machine

-- One proof at a time: proofs elaborated side by side would need more memory than the check gives.
set_option Elab.async false

variable {s : State}

/-! ### What is kept of an outcome -/

/-- Where the outcome is a next state, its memory has the canonical form. -/
def NextWf (r : Res) : Prop := ∀ t, r = .next t → t.mem.wf = true

@[simp] theorem nextWf_next : NextWf (.next s) ↔ s.mem.wf = true := by simp [NextWf]
@[simp] theorem nextWf_fault {e : Fault} : NextWf (.fault e) := by simp [NextWf]

/-- The memory of the state that a choice of what issues leaves has the canonical form. -/
def Issue.MemWf : Issue → Prop
  | .instr _ s => s.mem.wf = true
  | .over s => s.mem.wf = true

@[simp] theorem Issue.memWf_instr {i : Instr} : (Issue.instr i s).MemWf ↔ s.mem.wf = true := Iff.rfl
@[simp] theorem Issue.memWf_over : (Issue.over s).MemWf ↔ s.mem.wf = true := Iff.rfl

/-- The memory of the state that a fetch leaves has the canonical form. -/
def Fetched.MemWf : Fetched → Prop
  | .slot _ _ s => s.mem.wf = true
  | .over s => s.mem.wf = true

@[simp] theorem Fetched.memWf_slot {lo hi : DWord} : (Fetched.slot lo hi s).MemWf ↔ s.mem.wf = true := Iff.rfl
@[simp] theorem Fetched.memWf_over : (Fetched.over s).MemWf ↔ s.mem.wf = true := Iff.rfl

/-! ### Branches and folds -/

theorem ite_wf {c : Prop} [Decidable c] {t : State} (hs : s.mem.wf = true) (ht : t.mem.wf = true) :
    (if c then s else t).mem.wf = true := by
  split <;> assumption

theorem exceptMap_eq_ok {ε α β : Type} {f : α → β} {x : Except ε α} {y : β} (e : x.map f = .ok y) :
    ∃ a, x = .ok a ∧ f a = y := by
  cases x with
  | error => simp [Except.map] at e
  | ok a => exact ⟨a, rfl, by simpa [Except.map] using e⟩

theorem foldl_mem {α : Type} {f : State → α → State} (hf : ∀ s a, (f s a).mem = s.mem) (l : List α) (s : State) :
    (l.foldl f s).mem = s.mem :=
  List.foldlRecOn (motive := fun t => t.mem = s.mem) l f rfl fun t ht a _ => (hf t a).trans ht

theorem foldl_wf {α : Type} {f : State → α → State} (hf : ∀ s a, s.mem.wf = true → (f s a).mem.wf = true) {l : List α}
    (hs : s.mem.wf = true) : (l.foldl f s).mem.wf = true :=
  List.foldlRecOn (motive := fun t => t.mem.wf = true) l f hs fun t ht a _ => hf t a ht

theorem foldl_fst_wf {α β : Type} {f : State × β → α → State × β} {l : List α} {r : State × β}
    (hf : ∀ r a, r.1.mem.wf = true → (f r a).1.mem.wf = true) (hr : r.1.mem.wf = true) :
    (l.foldl f r).1.mem.wf = true :=
  List.foldlRecOn (motive := fun t => t.1.mem.wf = true) l f hr fun t ht a _ => hf t a ht

theorem foldl_snd_wf {α β : Type} {f : β × State → α → β × State} {l : List α} {r : β × State}
    (hf : ∀ r a, r.2.mem.wf = true → (f r a).2.mem.wf = true) (hr : r.2.mem.wf = true) :
    (l.foldl f r).2.mem.wf = true :=
  List.foldlRecOn (motive := fun t => t.2.mem.wf = true) l f hr fun t ht a _ => hf t a ht

theorem Memory.foldl_wf {α : Type} {f : Memory → α → Memory} (hf : ∀ m a, m.wf = true → (f m a).wf = true)
    {l : List α} {m : Memory} (hm : m.wf = true) : (l.foldl f m).wf = true :=
  List.foldlRecOn (motive := fun t => t.wf = true) l f hm fun t ht a _ => hf t a ht

/-- An arrival keeps the form, a commit step as well as any other. -/
theorem Memory.arriveD_keeps_wf {m : Memory} {now : Nat} {who : Party} {bs : List NewByte} {step : Bool}
    {makers : List Nat} (hm : m.wf = true) : (m.arriveD now who bs step makers).wf = true :=
  Memory.foldl_setD_wf bs hm

/-! ### Memory by levels: buffers, stores, loads and fences -/

theorem Memory.noteLog_wf {m : Memory} {kid : Nat} {p : Party} {tag : Nat} {write : Bool} (hm : m.wf = true) :
    (m.noteLog kid p tag write).wf = true := by
  unfold Memory.noteLog
  grind -linarith [Memory.wf]

theorem Memory.putByte_wf {m : Memory} {s : Site} {x : BufByte} {t : Memory} (e : m.putByte s x = some t)
    (hm : m.wf = true) : t.wf = true := by
  unfold Memory.putByte at e
  grind -linarith [Memory.noteLog_wf, Memory.wf]

theorem Memory.putBytes_wf {m : Memory} {s : Site} {l : List BufByte} {t : Memory} (e : m.putBytes s l = some t)
    (hm : m.wf = true) : t.wf = true := by
  fun_induction Memory.putBytes m s l generalizing t <;> grind -linarith [→ Memory.putByte_wf]

theorem Memory.noteWords_wf {m : Memory} {s : Site} {who : Party} {addrs : List Nat} (hm : m.wf = true) :
    (m.noteWords s who addrs).wf = true := by
  unfold Memory.noteWords
  grind -linarith [Memory.wf]

theorem Memory.fixLower_wf {m : Memory} {ps : List Party} {x : BufByte} (hm : m.wf = true) :
    (m.fixLower ps x).wf = true :=
  Memory.foldl_wf (fun _ _ => Memory.noteLog_wf) hm

theorem Memory.store_wf {m : Memory} {now : Nat} {k : Links} {x : Level} {bs : List NewByte} {t : Memory}
    (e : m.store now k x bs = .ok t) (hm : m.wf = true) : t.wf = true := by
  unfold Memory.store at e
  grind -linarith [Memory.arriveHome_wf, Memory.arriveD_keeps_wf, Memory.noteWords_wf, → Memory.putBytes_wf,
    Memory.fixLower_wf, Memory.foldl_wf]

theorem Memory.emptyBuf_wf {m : Memory} {p : Party} (hm : m.wf = true) : (m.emptyBuf p).wf = true := by
  unfold Memory.emptyBuf
  grind -linarith [Memory.wf]

theorem Memory.readLog_wf {m : Memory} {p : Party} (hm : m.wf = true) : (m.readLog p).wf = true := by
  unfold Memory.readLog
  split
  · exact hm
  · exact Memory.foldl_wf (fun _ _ => Memory.noteLog_wf) hm

theorem Memory.stepInto_wf {m : Memory} {src dst : Site} {sib : Party} {marks : List Mark} {t : Memory}
    (e : m.stepInto src dst sib marks = .ok t) (hm : m.wf = true) : t.wf = true := by
  unfold Memory.stepInto at e
  grind -linarith [Memory.noteWords_wf, Memory.emptyBuf_wf, → Memory.putBytes_wf, Memory.readLog_wf, Memory.wf]

theorem Memory.stepD_wf {m : Memory} {now : Nat} {src : Site} {marks own : List Mark} (hm : m.wf = true) :
    (m.stepD now src marks own).wf = true := by
  unfold Memory.stepD
  grind -linarith [Memory.arriveD_keeps_wf, Memory.emptyBuf_wf, Memory.readLog_wf, Memory.wf]

theorem Memory.gather_wf {m : Memory} {marks : List Mark} {l : List Links} {t : Memory} (e : m.gather marks l = .ok t)
    (hm : m.wf = true) : t.wf = true := by
  fun_induction Memory.gather m marks l generalizing t <;> grind -linarith [→ Memory.stepInto_wf]

theorem Memory.commit_wf {m : Memory} {now : Nat} {k : Links} {x : Level} {before own : List Mark} {more : List Links}
    {t : Memory} (e : m.commit now k x before own more = .ok t) (hm : m.wf = true) : t.wf = true := by
  unfold Memory.commit at e
  grind -linarith [→ Memory.gather_wf, Memory.sendHome_wf, Memory.stepD_wf, → Memory.stepInto_wf]

theorem Memory.reopen_wf {m : Memory} {k : Links} {ps : List Party} {more : List Links} (hm : m.wf = true) :
    (m.reopen k ps more).wf = true := by
  unfold Memory.reopen
  grind -linarith [Memory.wf]

theorem Memory.abort_wf {m : Memory} {k : Links} {x : Level} (hm : m.wf = true) : (m.abort k x).wf = true := by
  unfold Memory.abort
  grind -linarith [Memory.emptyBuf_wf, Memory.wf]

theorem Memory.joinCrew_wf {m : Memory} {crew : Site} {lanes : List Party} {t : Memory}
    (e : m.joinCrew crew lanes = some t) (hm : m.wf = true) : t.wf = true :=
  Memory.putBytes_wf e (Memory.foldl_wf (fun _ _ => Memory.readLog_wf) hm)

theorem Memory.dropKid_wf {m : Memory} {kid : Nat} (hm : m.wf = true) : (m.dropKid kid).wf = true := by
  unfold Memory.dropKid
  grind -linarith [Memory.wf]

/-! ### Translation and its faults -/

@[simp] theorem State.pick_mem (s : State) (n : Nat) : (s.pick n).2.mem = s.mem := by
  unfold State.pick
  grind -linarith

@[simp] theorem State.pickFrom_mem {α : Type} [DecidableEq α] (s : State) (l : List α) (d : α) :
    (s.pickFrom l d).2.mem = s.mem := by
  unfold State.pickFrom
  grind -linarith [State.pick_mem]

@[simp] theorem State.fillTlb_mem (s : State) (x : Via) (o : WalkOut) : (s.fillTlb x o).mem = s.mem := by
  unfold State.fillTlb
  grind -linarith

theorem State.applyWalk_wf {x : Via} {o : WalkOut} (hs : s.mem.wf = true) : (s.applyWalk x o).mem.wf = true := by
  unfold State.applyWalk
  grind -linarith [State.fillTlb_mem, Memory.agentWrite_wf]

theorem State.take_wf {x : Via} {x1 : Route} (hs : s.mem.wf = true) : (s.take x x1).mem.wf = true := by
  unfold State.take
  grind -linarith [State.applyWalk_wf]

theorem State.translate_wf {x : Via} {ctx va : Nat} {kind : Access} (hs : s.mem.wf = true) :
    (s.translate x ctx va kind).2.mem.wf = true := by
  unfold State.translate
  grind -linarith [State.pick_mem, State.take_wf]

@[simp] theorem State.dropTlb_mem (s : State) (ctx : Nat) (page : Option Nat) (inCl : Nat → Bool) :
    (s.dropTlb ctx page inCl).mem = s.mem :=
  rfl

/-! ### What the operations share: faults, signals and the ends of blocks -/

theorem State.live_wf {cl : Nat} {k : Res} (hs : s.mem.wf = true) (hk : NextWf k) : NextWf (s.live cl k) := by
  unfold State.live
  grind -linarith [nextWf_next]

@[simp] theorem State.causal_mem (s : State) (h : Here) : (s.causal h).mem = s.mem := by
  unfold State.causal
  grind -linarith [State.updCore_mem, State.updCtx_mem, foldl_mem]

@[simp] theorem State.done_mem (s : State) (h : Here) (w : Wave) (pc : Pc) : (s.done h w pc).mem = s.mem := by
  unfold State.done
  grind -linarith [State.putWave_mem, State.causal_mem]

@[simp] theorem State.doneLen_mem (s : State) (h : Here) (w : Wave) (len : Nat) : (s.doneLen h w len).mem = s.mem := by
  unfold State.doneLen
  grind -linarith [State.done_mem]

theorem State.trace_wf {ctx cls core slot detail pc : Nat} (hs : s.mem.wf = true) :
    (s.trace ctx cls core slot detail pc).mem.wf = true := by
  unfold State.trace
  grind -linarith [Memory.agentWrite_wf]

@[simp] theorem State.placePage_mem (s : State) (page : Option Nat) (slot : Nat) :
    (s.placePage page slot).mem = s.mem := by
  unfold State.placePage
  grind -linarith

theorem drainPartGo_wf {n n1 : Nat} (hs : s.mem.wf = true) : (drainPartGo n s n1).mem.wf = true := by
  fun_induction drainPartGo n s n1 <;> grind -linarith [Memory.agentWrite_wf, State.placePage_mem, State.updPart_mem]

theorem State.drainPart_wf {f : Nat} (hs : s.mem.wf = true) : (s.drainPart f).mem.wf = true := drainPartGo_wf hs

theorem drainHostGo_wf {n : Nat} (hs : s.mem.wf = true) : (drainHostGo n s).mem.wf = true := by
  fun_induction drainHostGo n s <;> grind -linarith [State.setDev_mem, Memory.arriveHome_wf, State.placePage_mem]

theorem State.drainHost_wf (hs : s.mem.wf = true) : s.drainHost.mem.wf = true := drainHostGo_wf hs

theorem State.postHost_wf {q : Queued} (hs : s.mem.wf = true) : (s.postHost q).mem.wf = true := State.drainHost_wf hs

theorem State.post_wf {f : Nat} {q : Queued} (hs : s.mem.wf = true) : (s.post f q).mem.wf = true := by
  unfold State.post
  grind -linarith [State.updPart_mem, State.drainPart_wf, State.postHost_wf]

theorem State.traceFault_wf {ctx slot : Nat} {r : FaultRec} (hs : s.mem.wf = true) :
    (s.traceFault ctx slot r).mem.wf = true :=
  State.trace_wf hs

theorem State.endGrid_wf {kid slot : Nat} {r : FaultRec} (hs : s.mem.wf = true) :
    (s.endGrid kid slot r).mem.wf = true := by
  unfold State.endGrid
  grind -linarith [State.traceFault_wf, State.updGrid_mem]

@[simp] theorem State.enter_mem (s : State) (c : Nat) (i : Option Instr) (u : Entry → Entry) (f : Stream → Stream) :
    (s.enter c i u f).mem = s.mem :=
  rfl

theorem State.streamFault_wf {c : Nat} {r : FaultRec} (hs : s.mem.wf = true) : (s.streamFault c r).mem.wf = true :=
  State.trace_wf hs

theorem State.failEntry_wf {c seq : Nat} {r : FaultRec} (hs : s.mem.wf = true) :
    (s.failEntry c seq r).mem.wf = true := by
  unfold State.failEntry
  grind -linarith [State.updCtx_mem, State.trace_wf]

theorem State.resolvePage_wf {id outcome : Nat} (hs : s.mem.wf = true) : (s.resolvePage id outcome).mem.wf = true := by
  unfold State.resolvePage
  dsimp only
  split
  · exact hs
  refine ite_wf hs (foldl_wf (fun s c hs => ite_wf (State.streamFault_wf hs) hs) (foldl_wf (fun s w hs => ?_)
    (foldl_wf (fun s c hs => ite_wf (State.endGrid_wf hs) hs) (foldl_wf (fun _ _ => State.endGrid_wf) hs))))
  split
  · exact State.failEntry_wf hs
  · exact State.endGrid_wf hs

theorem State.releaseHeld_wf {f : Nat} (hs : s.mem.wf = true) : (s.releaseHeld f).mem.wf = true := by
  unfold State.releaseHeld
  grind -linarith [State.drainPart_wf, State.resolvePage_wf, State.updPart_mem]

theorem State.endHandler_wf {f : Nat} (hs : s.mem.wf = true) : (s.endHandler f).mem.wf = true := by
  unfold State.endHandler
  grind -linarith [State.releaseHeld_wf, State.updHandler_mem]

theorem State.handlerFault_wf {f : Nat} {pc : Pc} {addr : Nat} (hs : s.mem.wf = true) :
    (s.handlerFault f pc addr).mem.wf = true := by
  unfold State.handlerFault
  grind -linarith [State.endHandler_wf, State.postHost_wf]

theorem State.raise_wf {h : Here} {x : Flt} (hs : s.mem.wf = true) : (s.raise h x).mem.wf = true := by
  unfold State.raise
  grind -linarith [State.endGrid_wf, State.handlerFault_wf]

theorem State.ret_wf {f : Nat} (hs : s.mem.wf = true) : (s.ret f).mem.wf = true := State.endHandler_wf hs

theorem State.rewriteRec_wf {p : PageRec} (hs : s.mem.wf = true) : (s.rewriteRec p).mem.wf = true := by
  unfold State.rewriteRec
  grind -linarith [Memory.agentWrite_wf, Memory.arriveHome_wf]

theorem State.pageFault_wf {x : PageMiss} {r : FaultRec} {who : List PageWaiter} (hs : s.mem.wf = true) :
    (s.pageFault x r who).2.mem.wf = true := by
  unfold State.pageFault
  grind -linarith [State.post_wf, State.rewriteRec_wf]

theorem State.parkPage_wf {h : Here} {lane : Nat} {x : PageMiss} {src : Nat} (hs : s.mem.wf = true) :
    (s.parkPage h lane x src).mem.wf = true := by
  unfold State.parkPage
  grind -linarith [State.putWave_mem, State.pageFault_wf]

@[simp] theorem State.freeze_mem (s : State) (cl why core slot lane : Nat) (x : Skip) :
    (s.freeze cl why core slot lane x).mem = s.mem := by
  unfold State.freeze
  grind -linarith [State.updCore_mem, State.updCluster_mem, foldl_mem]

theorem State.traceAll_wf {cl cls : Nat} (hs : s.mem.wf = true) : (s.traceAll cl cls).mem.wf = true := by
  unfold State.traceAll
  grind -linarith [State.trace_wf, foldl_wf]

theorem State.hit_wf {h : Here} {x : Skip} {low lane detail addr : Nat} (hs : s.mem.wf = true) :
    (s.hit h x low lane detail addr).mem.wf = true := by
  unfold State.hit
  grind -linarith [State.raise_wf, State.freeze_mem, State.trace_wf]

/-! ### Residency: waves, cores and placement -/

@[simp] theorem State.trimData_mem (n : Nat) (s : State) (n1 : Nat) : (State.trimData n s n1).mem = s.mem := by
  fun_induction State.trimData n s n1 <;> grind -linarith [State.updCluster_mem, State.pick_mem]

@[simp] theorem State.putData_mem (s : State) (cl pa : Nat) : (s.putData cl pa).mem = s.mem := by
  unfold State.putData
  grind -linarith [State.updCluster_mem, State.trimData_mem]

@[simp] theorem State.reach_mem (s : State) (x : Source) (c va pa : Nat) : (s.reach x c va pa).mem = s.mem := by
  unfold State.reach
  grind -linarith

@[simp] theorem State.reachAll_mem (s : State) (x : Source) (c : Nat) (l : List (Nat × Nat)) :
    (s.reachAll x c l).mem = s.mem := by
  unfold State.reachAll
  grind -linarith [State.reach_mem, foldl_mem]

@[simp] theorem State.reachLines_mem (s : State) (x : Source) (c : Nat) (l : List (Nat × Nat)) :
    (s.reachLines x c l).mem = s.mem := by
  unfold State.reachLines
  grind -linarith [State.reachAll_mem]

@[simp] theorem State.dropKept_mem (s : State) (c k : Nat) : (s.dropKept c k).mem = s.mem := rfl

@[simp] theorem State.trimKept_mem (s : State) : s.trimKept.mem = s.mem := rfl

/-! ### Records read from memory -/

@[simp] theorem freeBytes_mem (n : Nat) (s : State) : (freeBytes n s).2.mem = s.mem := by
  fun_induction freeBytes n s <;> grind -linarith [State.pick_mem]

@[simp] theorem State.recordBytes_mem (s : State) (t : Thread) (pc : Pc) (key : Word) :
    (s.recordBytes t pc key).2.mem = s.mem := by
  unfold State.recordBytes
  grind -linarith [freeBytes_mem]

/-! ### The units and their queues -/

@[simp] theorem State.rillSend_mem (s : State) (who : RillWho) (kid : Nat) (block : Bool) (old : List (Nat × Byte)) :
    (s.rillSend who kid block old).mem = s.mem := by
  unfold State.rillSend
  grind -linarith [State.updRill_mem]

@[simp] theorem State.farRead_mem (s : State) (who : RillWho) (kid : Nat) (block : Bool) (pas : List Nat) :
    (s.farRead who kid block pas).mem = s.mem := by
  unfold State.farRead
  grind -linarith [State.rillSend_mem]

theorem State.unitPa_wf {x : Via} {ctx va : Nat} {kind : Access} (hs : s.mem.wf = true) :
    (s.unitPa x ctx va kind).2.mem.wf = true := by
  unfold State.unitPa
  grind -linarith [State.translate_wf]

theorem unitPasGo_wf {n : Nat} {x : Via} {n1 n2 n3 : Nat} {x1 : Access} (hs : s.mem.wf = true) :
    (unitPasGo n s x n1 n2 n3 x1).2.mem.wf = true := by
  fun_induction unitPasGo n s x n1 n2 n3 x1 <;> grind -linarith [State.unitPa_wf]

theorem State.unitPas_wf {x : Via} {ctx va n : Nat} {kind : Access} (hs : s.mem.wf = true) :
    (s.unitPas x ctx va n kind).2.mem.wf = true :=
  unitPasGo_wf hs

theorem State.unitFetch_wf {x : Via} {ctx va n : Nat} (hs : s.mem.wf = true) :
    (s.unitFetch x ctx va n).2.mem.wf = true := by
  unfold State.unitFetch
  grind -linarith [State.unitPas_wf]

theorem State.unitRead_wf {x : Via} {ctx va n : Nat} (hs : s.mem.wf = true) :
    (s.unitRead x ctx va n).2.mem.wf = true := by
  unfold State.unitRead
  grind -linarith [State.unitFetch_wf]

theorem State.once_wf {ε : Type} {f : State → Except ε (List Nat) × State} (hs : s.mem.wf = true)
    (hf : ∀ (s : State), s.mem.wf = true → (f s).2.mem.wf = true) : (s.once f).2.mem.wf = true := by
  unfold State.once
  grind -linarith

@[simp] theorem State.hear_mem (s : State) (l : List (List Nat)) : (s.hear l).mem = s.mem := rfl

@[simp] theorem State.unhear_mem (s : State) : s.unhear.mem = s.mem := rfl

theorem State.unitFault_wf {h : Here} {lane src : Nat} {e : UnitErr} {kind : Access} (hs : s.mem.wf = true) :
    (s.unitFault h lane src e kind).mem.wf = true := by
  unfold State.unitFault
  grind -linarith [State.raise_wf, State.parkPage_wf]

theorem logWalk_wf {x : Via} {ctx : Nat} {l : List (Nat × Access)} {s t : State} (e : logWalk x ctx l s = .ok t)
    (hs : s.mem.wf = true) : t.mem.wf = true := by
  fun_induction logWalk x ctx l s generalizing t <;> grind -linarith [State.unitPa_wf]

theorem State.logFault_wf {h : Here} {e : UnitErr} {kind : Access} (hs : s.mem.wf = true) :
    (s.logFault h e kind).mem.wf = true :=
  State.unitFault_wf hs

theorem State.walkLog_wf {x : Via} {ctx kid : Nat} {t : State} (e : s.walkLog x ctx kid = .ok t)
    (hs : s.mem.wf = true) : t.mem.wf = true :=
  logWalk_wf e hs

theorem State.logged_wf {s' : State} {h : Here} (hs : s.mem.wf = true) (hs' : s'.mem.wf = true) :
    (s.logged s' h).mem.wf = true := by
  unfold State.logged
  grind -linarith [State.logFault_wf, State.walkLog_wf, Memory.wf]

theorem State.lateLogFault_wf {h : Here} {lane : Nat} {t : Thread} {e : UnitErr} {kind : Access}
    (hs : s.mem.wf = true) : (s.lateLogFault h lane t e kind).mem.wf = true := by
  unfold State.lateLogFault
  grind -linarith [State.unitFault_wf, State.pageFault_wf]

/-! ### Outstanding accesses -/

@[simp] theorem drawBytes_mem (f : Nat → List Choice) (l : List Nat) (s : State) : (drawBytes f l s).2.mem = s.mem := by
  fun_induction drawBytes f l s <;> grind -linarith [State.pickFrom_mem]

@[simp] theorem State.drawShared_mem (s : State) (l : List Reader) : (s.drawShared l).2.mem = s.mem := by
  unfold State.drawShared
  grind -linarith [drawBytes_mem]

@[simp] theorem State.landLate_mem (s : State) (core key : Nat) (p : PendOp) : (s.landLate core key p).mem = s.mem := by
  unfold State.landLate
  grind -linarith [State.updCore_mem, State.drawShared_mem]

@[simp] theorem State.endLoad_mem (s : State) (core key : Nat) (p : PendOp) : (s.endLoad core key p).mem = s.mem := rfl

@[simp] theorem State.landOp_mem (s : State) (core key : Nat) : (s.landOp core key).mem = s.mem := by
  unfold State.landOp
  grind -linarith [State.endLoad_mem, State.landLate_mem]

theorem State.overflow_wf {h : Here} {lane : Nat} {e : Level} (hs : s.mem.wf = true) :
    (s.overflow h lane e).mem.wf = true :=
  State.raise_wf hs

theorem State.landStore_wf {s0 : State} {core : Nat} {x : LateStore} (hs0 : s0.mem.wf = true) :
    (s0.landStore core x).mem.wf = true := by
  unfold State.landStore
  dsimp only
  split
  · exact hs0
  split
  · exact hs0
  split
  · exact hs0
  split
  · exact State.raise_wf hs0
  split
  · exact State.overflow_wf hs0
  next m hm =>
    have hm : m.wf = true := Memory.store_wf hm hs0
    split
    next h => exact State.walkLog_wf h hm
    · exact State.lateLogFault_wf hs0

theorem State.landStores_wf {core slot : Nat} {uids : List Nat} (hs : s.mem.wf = true) :
    (s.landStores core slot uids).mem.wf = true := by
  unfold State.landStores
  grind -linarith [State.landStore_wf, foldl_wf]

theorem State.settle_wf {core slot : Nat} {uids : List Nat} (hs : s.mem.wf = true) :
    (s.settle core slot uids).mem.wf = true := by
  unfold State.settle
  grind -linarith [State.landOp_mem, State.landStores_wf, foldl_mem]

/-! ### The flags -/

theorem State.await_wf {f : Form} {h : Here} {ls : Table Thread} (hs : s.mem.wf = true) :
    (s.await f h ls).mem.wf = true := by
  unfold State.await
  grind -linarith [State.settle_wf, State.landOp_mem, foldl_mem]

theorem State.issue_wf {f : Form} {k : Here → Table Thread → State} (hs : s.mem.wf = true)
    (hk : ∀ h ls, (k h ls).mem.wf = true) : NextWf (s.issue f k) := by
  unfold State.issue
  grind -linarith [State.await_wf, State.doneLen_mem, State.raise_wf, nextWf_next, nextWf_fault]

theorem State.lanewise_wf {f : Form} {k : Wave → Thread → Thread} (hs : s.mem.wf = true) : NextWf (s.lanewise f k) := by
  unfold State.lanewise
  grind -linarith [State.doneLen_mem, State.issue_wf]

@[simp] theorem State.addOp_mem (s : State) (core : Nat) (op : PendOp) : (s.addOp core op).mem = s.mem := rfl

@[simp] theorem State.doneWrites_mem (s : State) (h : Here) (w : Wave) (len : Nat) (sel : FlagSel) (ls : Table Thread)
    (ws : List PWrite) (late : List LateRead) (scr : Bool) (stash : List Nat) :
    (s.doneWrites h w len sel ls ws late scr stash).mem = s.mem := by
  unfold State.doneWrites
  grind -linarith [State.addOp_mem, State.doneLen_mem]

/-! ### Floating point -/

theorem fRun_wf {x : FOp} {f : Word → Word → Word → Word} (hs : s.mem.wf = true) : NextWf (fRun x s f) :=
  State.lanewise_wf hs

theorem fExact_wf {x : FOp} {f : Real' → Real' → Real' → Real'} (hs : s.mem.wf = true) : NextWf (fExact x s f) :=
  fRun_wf hs

theorem execFadd_wf {x : FOp} (hs : s.mem.wf = true) : NextWf (execFadd x s) := fExact_wf hs

theorem execFmul_wf {x : FOp} (hs : s.mem.wf = true) : NextWf (execFmul x s) := fExact_wf hs

theorem execFfma_wf {x : FOp} (hs : s.mem.wf = true) : NextWf (execFfma x s) := fExact_wf hs

theorem execFdiv_wf {x : FOp} (hs : s.mem.wf = true) : NextWf (execFdiv x s) := fExact_wf hs

theorem execFmin_wf {x : FOp} (hs : s.mem.wf = true) : NextWf (execFmin x s) := fRun_wf hs

theorem execFmax_wf {x : FOp} (hs : s.mem.wf = true) : NextWf (execFmax x s) := fRun_wf hs

theorem execFrcp_wf {x : FOp} (hs : s.mem.wf = true) : NextWf (execFrcp x s) := fRun_wf hs

theorem execFrsq_wf {x : FOp} (hs : s.mem.wf = true) : NextWf (execFrsq x s) := fRun_wf hs

theorem execFsqrt_wf {x : FOp} (hs : s.mem.wf = true) : NextWf (execFsqrt x s) := fRun_wf hs

theorem execFexp2_wf {x : FOp} (hs : s.mem.wf = true) : NextWf (execFexp2 x s) := fRun_wf hs

theorem execFlog2_wf {x : FOp} (hs : s.mem.wf = true) : NextWf (execFlog2 x s) := fRun_wf hs

theorem execFsin_wf {x : FOp} (hs : s.mem.wf = true) : NextWf (execFsin x s) := fRun_wf hs

theorem execFcos_wf {x : FOp} (hs : s.mem.wf = true) : NextWf (execFcos x s) := fRun_wf hs

theorem pkRun_wf {x : PkOp} {f : Real' → Real' → Real' → Real'} (hs : s.mem.wf = true) : NextWf (pkRun x s f) := by
  unfold pkRun
  grind -linarith [State.lanewise_wf]

theorem execPkadd_wf {x : PkOp} (hs : s.mem.wf = true) : NextWf (execPkadd x s) := pkRun_wf hs

theorem execPkmul_wf {x : PkOp} (hs : s.mem.wf = true) : NextWf (execPkmul x s) := pkRun_wf hs

theorem execPkfma_wf {x : PkOp} (hs : s.mem.wf = true) : NextWf (execPkfma x s) := pkRun_wf hs

theorem execCvt_wf {x : CvtOp} (hs : s.mem.wf = true) : NextWf (execCvt x s) := by
  unfold execCvt
  grind -linarith [State.lanewise_wf]

/-! ### Integers -/

theorem intRun_wf {x : IntOp} {f : ℤ → ℤ → ℤ → ℤ} (hs : s.mem.wf = true) : NextWf (intRun x s f) := State.lanewise_wf hs

theorem intBits_wf {x : IntOp} {f : DWord → Nat → DWord} (hs : s.mem.wf = true) : NextWf (intBits x s f) := by
  unfold intBits
  grind -linarith [State.lanewise_wf]

theorem intLogic_wf {x : IntOp} {f : DWord → DWord → DWord} (hs : s.mem.wf = true) : NextWf (intLogic x s f) :=
  State.lanewise_wf hs

theorem intCount_wf {x : IntOp} {f : Nat → DWord → Nat} (hs : s.mem.wf = true) : NextWf (intCount x s f) :=
  State.lanewise_wf hs

theorem execIadd_wf {x : IntOp} (hs : s.mem.wf = true) : NextWf (execIadd x s) := intRun_wf hs

theorem execIsum3_wf {x : IntOp} (hs : s.mem.wf = true) : NextWf (execIsum3 x s) := intRun_wf hs

theorem execIsub_wf {x : IntOp} (hs : s.mem.wf = true) : NextWf (execIsub x s) := intRun_wf hs

theorem execImul_wf {x : IntOp} (hs : s.mem.wf = true) : NextWf (execImul x s) := intRun_wf hs

theorem execImulh_wf {x : IntOp} (hs : s.mem.wf = true) : NextWf (execImulh x s) := intRun_wf hs

theorem execImad_wf {x : IntOp} (hs : s.mem.wf = true) : NextWf (execImad x s) := intRun_wf hs

theorem execIdiv_wf {x : IntOp} (hs : s.mem.wf = true) : NextWf (execIdiv x s) := intRun_wf hs

theorem execIrem_wf {x : IntOp} (hs : s.mem.wf = true) : NextWf (execIrem x s) := intRun_wf hs

theorem execImin_wf {x : IntOp} (hs : s.mem.wf = true) : NextWf (execImin x s) := intRun_wf hs

theorem execImax_wf {x : IntOp} (hs : s.mem.wf = true) : NextWf (execImax x s) := intRun_wf hs

theorem execIabs_wf {x : IntOp} (hs : s.mem.wf = true) : NextWf (execIabs x s) := intRun_wf hs

theorem execMov_wf {x : IntOp} (hs : s.mem.wf = true) : NextWf (execMov x s) := State.lanewise_wf hs

theorem execMovi_wf {x : MoviOp} (hs : s.mem.wf = true) : NextWf (execMovi x s) := State.lanewise_wf hs

theorem execMovi64_wf {x : Movi64Op} (hs : s.mem.wf = true) : NextWf (execMovi64 x s) := State.lanewise_wf hs

theorem execLea_wf {x : LeaOp} (hs : s.mem.wf = true) : NextWf (execLea x s) := by
  unfold execLea
  grind -linarith [State.lanewise_wf]

theorem execSel_wf {x : SelOp} (hs : s.mem.wf = true) : NextWf (execSel x s) := by
  unfold execSel
  grind -linarith [State.lanewise_wf]

theorem execShl_wf {x : IntOp} (hs : s.mem.wf = true) : NextWf (execShl x s) := intBits_wf hs

theorem execShr_wf {x : IntOp} (hs : s.mem.wf = true) : NextWf (execShr x s) := intBits_wf hs

theorem execSar_wf {x : IntOp} (hs : s.mem.wf = true) : NextWf (execSar x s) := intBits_wf hs

theorem execAnd_wf {x : IntOp} (hs : s.mem.wf = true) : NextWf (execAnd x s) := intLogic_wf hs

theorem execOr_wf {x : IntOp} (hs : s.mem.wf = true) : NextWf (execOr x s) := intLogic_wf hs

theorem execXor_wf {x : IntOp} (hs : s.mem.wf = true) : NextWf (execXor x s) := intLogic_wf hs

theorem execNot_wf {x : IntOp} (hs : s.mem.wf = true) : NextWf (execNot x s) := intLogic_wf hs

theorem execTern_wf {x : TernOp} (hs : s.mem.wf = true) : NextWf (execTern x s) := by
  unfold execTern
  grind -linarith [State.lanewise_wf]

theorem execPopc_wf {x : IntOp} (hs : s.mem.wf = true) : NextWf (execPopc x s) := intCount_wf hs

theorem execClz_wf {x : IntOp} (hs : s.mem.wf = true) : NextWf (execClz x s) := intCount_wf hs

theorem execBrev_wf {x : IntOp} (hs : s.mem.wf = true) : NextWf (execBrev x s) := intLogic_wf hs

theorem execBfe_wf {x : IntOp} (hs : s.mem.wf = true) : NextWf (execBfe x s) := intBits_wf hs

theorem execBfi_wf {x : IntOp} (hs : s.mem.wf = true) : NextWf (execBfi x s) := by
  unfold execBfi
  grind -linarith [State.lanewise_wf]

/-! ### Predicates -/

theorem execIcmp_wf {x : IcmpOp} (hs : s.mem.wf = true) : NextWf (execIcmp x s) := State.lanewise_wf hs

theorem execFcmp_wf {x : FcmpOp} (hs : s.mem.wf = true) : NextWf (execFcmp x s) := State.lanewise_wf hs

theorem predRun_wf {x : PredOp} {f : Bool → Bool → Bool} (hs : s.mem.wf = true) : NextWf (predRun x s f) :=
  State.lanewise_wf hs

theorem execPand_wf {x : PredOp} (hs : s.mem.wf = true) : NextWf (execPand x s) := predRun_wf hs

theorem execPor_wf {x : PredOp} (hs : s.mem.wf = true) : NextWf (execPor x s) := predRun_wf hs

theorem execPxor_wf {x : PredOp} (hs : s.mem.wf = true) : NextWf (execPxor x s) := predRun_wf hs

theorem execPnot_wf {x : PnotOp} (hs : s.mem.wf = true) : NextWf (execPnot x s) := State.lanewise_wf hs

theorem execPmov_wf {x : PmovOp} (hs : s.mem.wf = true) : NextWf (execPmov x s) := State.lanewise_wf hs

theorem execVote_wf {x : VoteOp} (hs : s.mem.wf = true) : NextWf (execVote x s) := by
  unfold execVote
  grind -linarith [State.doneLen_mem, State.issue_wf]

/-! ### Lane exchange and reductions -/

theorem State.issueCrew_wf {f : Form} {k : Here → Table Thread → State} (hs : s.mem.wf = true)
    (hk : ∀ h ls, (k h ls).mem.wf = true) : NextWf (s.issueCrew f k) := by
  unfold State.issueCrew
  grind -linarith [State.raise_wf, State.issue_wf]

theorem State.raiseSparse_wf {h : Here} {f : SparseFault} (hs : s.mem.wf = true) : (s.raiseSparse h f).mem.wf = true :=
  State.raise_wf hs

theorem State.crewStop_wf {h : Here} {t : State} (e : s.crewStop h = some t) (hs : s.mem.wf = true) :
    t.mem.wf = true := by
  unfold State.crewStop at e
  grind -linarith [State.raiseSparse_wf]

theorem State.collective_wf {f : Form} {k : Wave → Nat → Thread → Thread} (hs : s.mem.wf = true) :
    NextWf (s.collective f k) := by
  unfold State.collective
  grind -linarith [State.doneLen_mem, State.issueCrew_wf]

theorem execXlane_wf {x : XlaneOp} (hs : s.mem.wf = true) : NextWf (execXlane x s) := by
  unfold execXlane
  grind -linarith [State.collective_wf]

theorem execBcast_wf {x : BcastOp} (hs : s.mem.wf = true) : NextWf (execBcast x s) := by
  unfold execBcast
  grind -linarith [State.doneLen_mem, State.issueCrew_wf]

theorem execRedx_wf {x : RedxOp} (hs : s.mem.wf = true) : NextWf (execRedx x s) := State.collective_wf hs

theorem execScanx_wf {x : RedxOp} (hs : s.mem.wf = true) : NextWf (execScanx x s) := State.collective_wf hs

theorem execBallot_wf {x : BallotOp} (hs : s.mem.wf = true) : NextWf (execBallot x s) := State.collective_wf hs

theorem execMatchx_wf {x : MatchOp} (hs : s.mem.wf = true) : NextWf (execMatchx x s) := State.collective_wf hs

/-! ### Replay after a page fault -/

@[simp] theorem State.countEvent_mem (s : State) (ctx cl : Nat) : (s.countEvent ctx cl).mem = s.mem := rfl

theorem State.reportDivergence_wf {ctx cl n expected found : Nat} (hs : s.mem.wf = true) :
    (s.reportDivergence ctx cl n expected found).mem.wf = true := by
  unfold State.reportDivergence
  grind -linarith [State.updCtx_mem, State.trace_wf, State.updCluster_mem, Memory.agentWrite_wf]

theorem State.diverge_wf {ctx cl n expected found : Nat} (hs : s.mem.wf = true) :
    (s.diverge ctx cl n expected found).mem.wf = true := by
  unfold State.diverge
  grind -linarith [State.updCtx_mem, State.freeze_mem, State.traceAll_wf, State.reportDivergence_wf]

theorem State.event_wf {ctx cl cls : Nat} {contents : List Nat} {value payload : Nat} (hs : s.mem.wf = true) :
    (s.event ctx cl cls contents value payload).mem.wf = true := by
  unfold State.event
  grind -linarith [State.diverge_wf, State.updCluster_mem, State.countEvent_mem, Memory.agentWrite_wf]

theorem State.input_wf {ctx cl pc kind lane value : Nat} (hs : s.mem.wf = true) :
    (s.input ctx cl pc kind lane value).mem.wf = true :=
  State.event_wf hs

/-! ### Accesses and what they reach -/

@[simp] theorem State.setLines_mem (s : State) (core row : Nat) (empty : Bool) (ls : List Nat) :
    (s.setLines core row empty ls).mem = s.mem :=
  rfl

theorem translateAll_error_wf {l : List Req} {h : Here} {x : Access} {t : State}
    (e : (translateAll l s h x).1 = .error t) (hs : s.mem.wf = true) : t.mem.wf = true := by
  induction l generalizing s with
  | nil => grind -linarith [translateAll]
  | cons r l ih =>
    unfold translateAll at e
    grind -linarith [State.translate_wf, State.parkPage_wf, State.raise_wf]

theorem translateAll_snd_wf {l : List Req} {h : Here} {x : Access} (hs : s.mem.wf = true) :
    (translateAll l s h x).2.mem.wf = true := by
  induction l generalizing s with
  | nil => exact hs
  | cons r l ih =>
    unfold translateAll
    grind -linarith [State.translate_wf]

@[simp] theorem State.startFill_mem (s : State) (h : Here) (t : Thread) (b : Block) (line : Nat) :
    (s.startFill h t b line).mem = s.mem := by
  unfold State.startFill
  grind -linarith [State.updCore_mem, State.setLines_mem]

@[simp] theorem State.notReady_mem (s : State) (h : Here) (p : Park) : (s.notReady h p).mem = s.mem := by
  unfold State.notReady
  grind -linarith [State.putWave_mem]

theorem State.prepare_error_wf {h : Here} {rs : List Req} {kind : Access} {reads : Bool} {t : State}
    (e : (s.prepare h rs kind reads).1 = .error t) (hs : s.mem.wf = true) : t.mem.wf = true := by
  unfold State.prepare at e
  have hu : (translateAll rs s h kind).2.mem.wf = true := translateAll_snd_wf hs
  split at e
  · grind -linarith [State.notReady_mem]
  split at e
  · grind -linarith
  dsimp only at e
  split at e
  · grind -linarith [State.hit_wf]
  split at e
  · grind -linarith [State.raise_wf]
  split at e
  · grind -linarith [State.raise_wf]
  split at e
  · grind -linarith [State.raise_wf]
  split at e
  · grind -linarith [State.raise_wf]
  split at e
  · grind -linarith [→ translateAll_error_wf]
  split at e
  · grind -linarith [State.logFault_wf, State.landStores_wf]
  · grind -linarith [State.startFill_mem, State.notReady_mem, foldl_wf]

theorem State.prepare_snd_wf {h : Here} {rs : List Req} {kind : Access} {reads : Bool} (hs : s.mem.wf = true) :
    (s.prepare h rs kind reads).2.mem.wf = true := by
  unfold State.prepare
  have hu : (translateAll rs s h kind).2.mem.wf = true := translateAll_snd_wf hs
  split
  · exact hs
  split
  · exact hs
  dsimp only
  split
  · exact hs
  split
  · exact hs
  split
  · exact hs
  split
  · exact hs
  split
  · exact hs
  split
  · exact hu
  split
  · grind -linarith [→ logWalk_wf]
  · exact foldl_wf (fun s e hs => by grind -linarith [State.startFill_mem]) hu

@[simp] theorem State.awaitLines_mem (s : State) (h : Here) (l : List Acc) : (s.awaitLines h l).mem = s.mem := by
  unfold State.awaitLines
  grind -linarith [State.notReady_mem]

@[simp] theorem readAll_mem (l : List Acc) (s : State) (h : Here) (k : LoadKind) : (readAll l s h k).2.mem = s.mem := by
  unfold readAll
  grind -linarith [State.drawShared_mem]

@[simp] theorem reachAccs_mem (k : LoadKind) (l : List Acc) (s : State) (h : Here) :
    (reachAccs k l s h).mem = s.mem := by
  fun_induction reachAccs k l s h <;> grind -linarith [State.reach_mem, State.pick_mem, State.putData_mem]

@[simp] theorem State.loadAll_mem (s : State) (h : Here) (k' : LoadKind) (l : List Acc) :
    (s.loadAll h k' l).2.2.mem = s.mem := by
  unfold State.loadAll
  grind -linarith [reachAccs_mem, readAll_mem]

@[simp] theorem State.lateReads_mem (s : State) (h : Here) (k : LoadKind) (sel : FlagSel) (d : Nat) (z : Size)
    (accs : List Acc) : (s.lateReads h k sel d z accs).2.mem = s.mem := by
  unfold State.lateReads
  grind -linarith [State.pick_mem]

theorem storeOne_wf {h : Here} {x : Level} {lower higher : List Put} {p : Put} {t : State}
    (e : storeOne s h x lower higher p = .ok t) (hs : s.mem.wf = true) : t.mem.wf = true := by
  unfold storeOne at e
  split at e
  · grind -linarith [State.updCore_mem]
  dsimp only at e
  split at e
  · grind -linarith [Memory.arriveD_keeps_wf]
  · grind -linarith [→ Memory.store_wf, Memory.foldl_wf, Memory.fixLower_wf]

theorem storeGo_wf {l l1 : List Put} {h : Here} {x : Level} {t : State} (e : storeGo l l1 s h x = .ok t)
    (hs : s.mem.wf = true) : t.mem.wf = true := by
  fun_induction storeGo l l1 s h x generalizing t <;> grind -linarith [→ storeOne_wf]

theorem storeAll_wf {l : List Put} {h : Here} {x : Level} {t : State} (e : storeAll l s h x = .ok t)
    (hs : s.mem.wf = true) : t.mem.wf = true :=
  storeGo_wf e hs

/-! ### The scratchpads -/

@[simp] theorem State.fillLines_mem (s : State) (core : Nat) (ls : List Nat) : (s.fillLines core ls).mem = s.mem := rfl

/-! ### The memory port -/

theorem atomLane_wf {h : Here} {x : Level} {k : AtomStep} {a : Acc} {t : State × Nat × List ByteRead × Bool}
    (e : atomLane s h x k a = .ok t) (hs : s.mem.wf = true) : t.1.mem.wf = true := by
  unfold atomLane at e
  grind -linarith [→ storeOne_wf]

theorem atomLanes_wf {l : List Acc} {h : Here} {x : Level} {x1 : AtomStep} {t : AtomOut}
    (e : atomLanes l s h x x1 = .ok t) (hs : s.mem.wf = true) : t.s.mem.wf = true := by
  fun_induction atomLanes l s h x x1 generalizing t <;> grind -linarith [→ atomLane_wf]

theorem settleCopies_wf {h : Here} {x : Level} {l : List Acc} (hs : s.mem.wf = true) :
    (settleCopies s h x l).mem.wf = true := by
  unfold settleCopies
  split
  · exact hs
  · refine foldl_wf (fun s a hs => ?_) hs
    grind -linarith [Memory.foldl_wf, Memory.fixLower_wf]

theorem State.passPort_wf {h : Here} {p : PortOp} {t : State × PortOp} (e : s.passPort h p = .ok t)
    (hs : s.mem.wf = true) : t.1.mem.wf = true := by
  unfold State.passPort at e
  grind -linarith [settleCopies_wf, → atomLanes_wf, → storeAll_wf]

theorem State.passPort_error_wf {h : Here} {p : PortOp} {t : State} (e : s.passPort h p = .error t)
    (hs : s.mem.wf = true) : t.mem.wf = true := by
  unfold State.passPort at e
  grind -linarith [State.overflow_wf]

theorem State.takePort_wf {h : Here} {f : Form} {kind : PortKind} {w : Wave} {ls : Table Thread}
    {accs : List (Acc × List Byte)} {mem : List (Nat × List Byte)} (hs : s.mem.wf = true) :
    (s.takePort h f kind w ls accs mem).mem.wf = true := by
  unfold State.takePort
  grind -linarith [State.updCore_mem, State.putWave_mem, → State.passPort_wf, → State.passPort_error_wf]

theorem State.atomEvents_wf {h : Here} {l : List (Nat × Nat)} (hs : s.mem.wf = true) :
    (s.atomEvents h l).mem.wf = true := by
  unfold State.atomEvents
  grind -linarith [State.event_wf, foldl_wf]

theorem State.leavePort_wf {h : Here} {p : PortOp} (hs : s.mem.wf = true) : (s.leavePort h p).mem.wf = true := by
  unfold State.leavePort
  grind -linarith [State.atomEvents_wf, State.doneWrites_mem, State.doneLen_mem, State.updCore_mem]

theorem State.tickPort_wf {core : Nat} (hs : s.mem.wf = true) : (s.tickPort core).mem.wf = true := by
  unfold State.tickPort
  dsimp only
  split
  · exact hs
  split
  · exact hs
  · grind -linarith [State.leavePort_wf, State.lateLogFault_wf, → State.walkLog_wf, → State.passPort_wf,
    → State.passPort_error_wf,
      State.updCore_mem]

/-! ### Loads and stores -/

@[simp] theorem State.farLoads_mem (s : State) (h : Here) (wait : Bool) (accs : List Acc) :
    (s.farLoads h wait accs).mem = s.mem := by
  unfold State.farLoads
  grind -linarith [State.farRead_mem, foldl_mem]

@[simp] theorem State.loadReqs_mem (s0 s : State) (h : Here) (k : LoadKind) (sel : FlagSel) (late : List LateRead)
    (accs : List Acc) : (s0.loadReqs s h k sel late accs).mem = s.mem := by
  unfold State.loadReqs
  grind -linarith [State.farLoads_mem, reachAccs_mem]

theorem State.finishLoad_wf {h : Here} {f : Form} {k : LoadKind} {d : Nat} {z : Size} {ls : Table Thread}
    {accs : List Acc} (hs : s.mem.wf = true) : (s.finishLoad h f k d z ls accs).mem.wf = true := by
  unfold State.finishLoad
  grind -linarith [State.takePort_wf, State.loadReqs_mem, State.doneWrites_mem, State.loadAll_mem, State.lateReads_mem,
    State.raise_wf]

theorem State.load_wf {f : Form} {k : LoadKind} {d : Nat} {z : Size} {req : Here → Nat → Thread → Req}
    (hs : s.mem.wf = true) : NextWf (s.load f k d z req) := by
  unfold State.load
  grind -linarith [State.finishLoad_wf, State.awaitLines_mem, State.prepare_error_wf, State.prepare_snd_wf,
    State.issue_wf]

@[simp] theorem State.reachPuts_mem (s : State) (h : Here) (x : Level) (ps : List Put) :
    (s.reachPuts h x ps).mem = s.mem := by
  unfold State.reachPuts
  grind -linarith [State.reach_mem, foldl_mem]

@[simp] theorem State.holdsStores_mem (s : State) (h : Here) (x : Level) (ps : List Put) :
    (s.holdsStores h x ps).2.mem = s.mem := by
  unfold State.holdsStores
  grind -linarith [State.pick_mem]

@[simp] theorem State.holdStores_mem (s : State) (h : Here) (x : Level) (ps : List Put) :
    (s.holdStores h x ps).mem = s.mem :=
  rfl

theorem State.finishStore_wf {h : Here} {f : Form} {x : Level} {ps : List Put} (hs : s.mem.wf = true) :
    (s.finishStore h f x ps).mem.wf = true := by
  unfold State.finishStore
  grind -linarith [State.takePort_wf, State.overflow_wf, → storeAll_wf, State.holdStores_mem, State.reachPuts_mem,
    State.doneLen_mem, State.holdsStores_mem]

theorem State.storeInstr_wf {f : Form} {x : Level} {z : Size} {im : Option Word} {c : Src}
    {req : Here → Nat → Thread → Req} (hs : s.mem.wf = true) : NextWf (s.storeInstr f x z im c req) := by
  unfold State.storeInstr
  grind -linarith [State.finishStore_wf, State.prepare_error_wf, State.prepare_snd_wf, State.issue_wf]

theorem execLd_wf {x : LdOp} (hs : s.mem.wf = true) : NextWf (execLd x s) := State.load_wf hs

theorem execLdStrong_wf {x : LdOp} (hs : s.mem.wf = true) : NextWf (execLdStrong x s) := State.load_wf hs

theorem execLds_wf {x : LdOp} (hs : s.mem.wf = true) : NextWf (execLds x s) := State.load_wf hs

theorem execLdw_wf {x : LdOp} (hs : s.mem.wf = true) : NextWf (execLdw x s) := by
  unfold execLdw
  grind -linarith [State.loadReqs_mem, State.doneWrites_mem, State.loadAll_mem, State.raise_wf, State.awaitLines_mem,
    → State.prepare_error_wf, State.prepare_snd_wf, State.issue_wf]

theorem State.tiled_wf {f : Form} {tile : Nat} {im : Option Word} {a b : Src} {n : Nat} {kind : Access}
    {k : State → Here → Table Thread → List Acc → State} (hs : s.mem.wf = true)
    (hk : ∀ s h ls accs, s.mem.wf = true → (k s h ls accs).mem.wf = true) :
    NextWf (s.tiled f tile im a b n kind k) := by
  refine State.issue_wf hs fun h ls => ?_
  dsimp only
  split
  · exact State.raise_wf hs
  split
  · exact State.raise_wf hs
  split
  · exact State.raise_wf hs
  split
  · exact State.raise_wf hs
  · grind -linarith [State.notReady_mem, → State.prepare_error_wf, State.prepare_snd_wf]

theorem execLdt_wf {x : LdtOp} (hs : s.mem.wf = true) : NextWf (execLdt x s) := by
  unfold execLdt
  grind -linarith [State.finishLoad_wf, State.tiled_wf]

theorem execLdf_wf {x : LdfOp} (hs : s.mem.wf = true) : NextWf (execLdf x s) := by
  unfold execLdf
  grind -linarith [State.takePort_wf, State.doneWrites_mem, State.loadAll_mem, State.prepare_error_wf,
    State.prepare_snd_wf, State.issue_wf]

theorem execPref_wf {x : PrefOp} (hs : s.mem.wf = true) : NextWf (execPref x s) := by
  unfold execPref
  grind -linarith [State.doneLen_mem, State.issue_wf]

theorem execSt_wf {x : StOp} (hs : s.mem.wf = true) : NextWf (execSt x s) := State.storeInstr_wf hs

theorem execSts_wf {x : StOp} (hs : s.mem.wf = true) : NextWf (execSts x s) := State.storeInstr_wf hs

theorem execStt_wf {x : SttOp} (hs : s.mem.wf = true) : NextWf (execStt x s) := by
  unfold execStt
  grind -linarith [State.finishStore_wf, State.tiled_wf]

theorem execSete_wf {x : SeteOp} (hs : s.mem.wf = true) : NextWf (execSete x s) := by
  unfold execSete
  grind -linarith [State.setLines_mem, State.doneLen_mem, State.prepare_error_wf, State.prepare_snd_wf, State.issue_wf]

/-! ### Atomics -/

@[simp] theorem State.reachAtoms_mem (s : State) (h : Here) (x : Level) (accs : List Acc) :
    (s.reachAtoms h x accs).mem = s.mem := by
  unfold State.reachAtoms
  grind -linarith [State.reachPuts_mem]

theorem State.atomicOn_wf {h : Here} {f : Form} {x : Level} {ls : Table Thread} {im : Option Word} {accs : List Acc}
    {a : AtomKind} (hs : s.mem.wf = true) : (s.atomicOn h f x ls im accs a).mem.wf = true := by
  unfold State.atomicOn
  grind -linarith [State.takePort_wf, State.doneWrites_mem, settleCopies_wf, State.reachAtoms_mem, State.atomEvents_wf,
    State.overflow_wf, atomLanes_wf, State.raise_wf]

theorem State.atomic_wf {f : Form} {sc : AScope} {im : Option Word} {a b : Src} {y : AtomKind} (hs : s.mem.wf = true) :
    NextWf (s.atomic f sc im a b y) := by
  unfold State.atomic
  grind -linarith [State.atomicOn_wf, State.prepare_error_wf, State.prepare_snd_wf, State.issue_wf]

theorem execAtom_wf {x : AtomOps} (hs : s.mem.wf = true) : NextWf (execAtom x s) := State.atomic_wf hs

theorem execRed_wf {x : AtomOps} (hs : s.mem.wf = true) : NextWf (execRed x s) := State.atomic_wf hs

theorem execAmaxswp_wf {x : AmaxOp} (hs : s.mem.wf = true) : NextWf (execAmaxswp x s) := State.atomic_wf hs

/-! ### Commits and fences -/

theorem State.commitParty_wf {h : Here} {ts : Table Thread} {x : Level} {more : List Links} {t : State × Table Thread}
    (e : s.commitParty h ts x more = .ok t) (hs : s.mem.wf = true) : t.1.mem.wf = true := by
  unfold State.commitParty at e
  grind -linarith [→ Memory.commit_wf]

theorem commitAll_wf {l : List (Table Thread)} {h : Here} {x : Level} {x1 : Bool}
    {t : State × Table Thread × List Nat} (e : commitAll l s h x x1 = .ok t) (hs : s.mem.wf = true) :
    t.1.mem.wf = true := by
  fun_induction commitAll l s h x x1 generalizing t <;> grind -linarith [Memory.reopen_wf, → State.commitParty_wf]

theorem execCmt_wf {x : CmtOp} (hs : s.mem.wf = true) : NextWf (execCmt x s) := by
  refine State.issue_wf hs fun h ls => ?_
  grind -linarith [State.overflow_wf, → commitAll_wf, Memory.sendHome_wf, State.doneLen_mem]

theorem State.abortParty_wf {h : Here} {ts : Table Thread} {x : Level} (hs : s.mem.wf = true) :
    (s.abortParty h ts x).mem.wf = true := by
  unfold State.abortParty
  split
  · exact Memory.foldl_wf (fun _ _ => Memory.abort_wf) hs
  · exact hs

theorem execAbt_wf {x : AbtOp} (hs : s.mem.wf = true) : NextWf (execAbt x s) := by
  unfold execAbt
  grind -linarith [State.abortParty_wf, State.doneLen_mem, State.issue_wf, foldl_wf]

theorem State.scFence_wf {h : Here} {l : Nat} {t : Thread} {x : Level} {w : Wave} (hs : s.mem.wf = true) :
    (s.scFence h l t x w).1.mem.wf = true := by
  unfold State.scFence
  grind -linarith [Memory.wf]

theorem execFence_wf {x : FenceOp} (hs : s.mem.wf = true) : NextWf (execFence x s) := by
  refine State.issue_wf hs fun h ls => ?_
  have hf : (ls.foldl (fun r e => State.scFence r.1 h e.1 e.2 x.scope r.2) (s, h.wave)).1.mem.wf = true :=
    foldl_fst_wf (fun _ _ => State.scFence_wf) hs
  grind -linarith [State.putWave_mem, State.doneLen_mem]

/-! ### The cistern -/

theorem State.rayKey_wf {cl kid : Nat} {r : RayPart} {shader : Nat} {pos : Vec3} (hs : s.mem.wf = true) :
    (s.rayKey cl kid r shader pos).2.mem.wf = true :=
  State.unitRead_wf hs

theorem State.seat_wf {cl : Nat} {t : Thread} (hs : s.mem.wf = true) : (s.seat cl t).2.mem.wf = true := by
  unfold State.seat
  dsimp only
  split
  · exact hs
  · dsimp only
    split
    · exact Memory.agentWrite_wf _ _ _ _ (by simpa using hs)
    · simpa using hs

theorem State.file_wf {cl : Nat} {t : Thread} (hs : s.mem.wf = true) : (s.file cl t).mem.wf = true := State.seat_wf hs

theorem takeAll_wf {l : List Thread} {n : Nat} (hs : s.mem.wf = true) : (takeAll l s n).2.mem.wf = true := by
  fun_induction takeAll l s n <;> grind -linarith [State.updCluster_mem, State.seat_wf]

@[simp] theorem State.binCrew_mem (s : State) (cl : Nat) (ts : List Thread) (id : Nat) :
    (s.binCrew cl ts id).mem = s.mem := by
  unfold State.binCrew
  grind -linarith [State.updCluster_mem]

theorem State.fileCrew_wf {cl : Nat} {ts : List Thread} {id : Nat} (hs : s.mem.wf = true) :
    (s.fileCrew cl ts id).mem.wf = true := by
  unfold State.fileCrew
  grind -linarith [State.updCluster_mem, State.binCrew_mem, takeAll_wf]

theorem State.fileWaiting_wf {cl : Nat} {t : Thread} (hs : s.mem.wf = true) : (s.fileWaiting cl t).mem.wf = true :=
  State.seat_wf hs

@[simp] theorem State.binWaiting_mem (s : State) (cl : Nat) : (s.binWaiting cl).mem = s.mem := by
  unfold State.binWaiting
  grind -linarith [State.binCrew_mem, State.updCluster_mem, foldl_mem]

@[simp] theorem State.enrol_mem (s : State) (core : Nat) (t : Thread) (j : Nat) : (s.enrol core t j).mem = s.mem := by
  unfold State.enrol
  grind -linarith [State.updCore_mem, State.updBlock_mem]

@[simp] theorem State.unenrol_mem (s : State) (core : Nat) (t : Thread) (j : Option Nat) :
    (s.unenrol core t j).mem = s.mem := by
  unfold State.unenrol
  grind -linarith [State.updCore_mem, State.updBlock_mem, foldl_mem]

@[simp] theorem State.judgeBasins_mem (s : State) (core : Nat) : (s.judgeBasins core).mem = s.mem := rfl

@[simp] theorem State.fileBasin_mem (s : State) (core : Nat) (t : Thread) (pc : Pc) (rcv : Option (Nat × Nat))
    {t' : State} (e : s.fileBasin core t pc rcv = some t') : t'.mem = s.mem := by
  unfold State.fileBasin at e
  grind -linarith [State.updCore_mem]

theorem State.keyFor_wf {cl : Nat} {t : Thread} (hs : s.mem.wf = true) : (s.keyFor cl t).2.mem.wf = true := by
  unfold State.keyFor
  grind -linarith [State.rayKey_wf]

theorem State.yieldCommit_wf {h : Here} {l : Nat} {t : Thread} {t' : State} (e : s.yieldCommit h l t = .ok t')
    (hs : s.mem.wf = true) : t'.mem.wf = true := by
  unfold State.yieldCommit at e
  grind -linarith [→ State.commitParty_wf, → exceptMap_eq_ok]

theorem yieldCommits_wf {x : Table Thread} {h : Here} {t : State} (e : yieldCommits x s h = .ok t)
    (hs : s.mem.wf = true) : t.mem.wf = true := by
  fun_induction yieldCommits x s h generalizing t <;> grind -linarith [→ State.yieldCommit_wf]

@[simp] theorem State.dissolve_mem (s : State) (core id : Nat) : (s.dissolve core id).mem = s.mem := rfl

@[simp] theorem State.leave_mem (s : State) (h : Here) (w : Wave) (ls : List Nat) : (s.leave h w ls).1.mem = s.mem := by
  unfold State.leave
  grind -linarith [State.dissolve_mem]

theorem State.lastCommit_wf {h : Here} {ls : Table Thread} {t : State} (e : s.lastCommit h ls = .ok t)
    (hs : s.mem.wf = true) : t.mem.wf = true := by
  unfold State.lastCommit at e
  grind -linarith [→ State.commitParty_wf, → exceptMap_eq_ok]

/-! ### Barriers -/

@[simp] theorem State.setBarrier_mem (s : State) (b : Block) (gang : Bool) (n : Nat) (x : Barrier) :
    (s.setBarrier b gang n x).mem = s.mem := by
  unfold State.setBarrier
  grind -linarith [State.updBlock_mem, State.updGang_mem]

@[simp] theorem State.completePhase_mem (s : State) (b : Block) (gang : Bool) (n : Nat) (x : Barrier) :
    (s.completePhase b gang n x).mem = s.mem := by
  unfold State.completePhase
  grind -linarith [State.binWaiting_mem, State.updCluster_mem, State.updBlock_mem, State.updCore_mem,
    State.setBarrier_mem, foldl_mem]

@[simp] theorem State.judgeBar_mem (s : State) (b : Block) (gang : Bool) (n : Nat) :
    (s.judgeBar b gang n).mem = s.mem := by
  unfold State.judgeBar
  grind -linarith [State.completePhase_mem]

@[simp] theorem State.judgeBlock_mem (s : State) (b : Block) : (s.judgeBlock b).mem = s.mem := by
  unfold State.judgeBlock
  grind -linarith [State.judgeBar_mem, foldl_mem]

@[simp] theorem State.judgeBars_mem (s : State) (cl : Nat) : (s.judgeBars cl).mem = s.mem := by
  unfold State.judgeBars
  grind -linarith [State.judgeBlock_mem, foldl_mem]

@[simp] theorem State.arrive_mem (s : State) (h : Here) (t : Thread) (b : Block) (gang : Bool) (n : Nat) :
    (s.arrive h t b gang n).1.mem = s.mem := by
  unfold State.arrive
  grind -linarith [State.setBarrier_mem]

@[simp] theorem State.withdraw_mem (s : State) (b : Block) (uid : Nat) (bound : Nat → Bool) :
    (s.withdraw b uid bound).mem = s.mem :=
  rfl

@[simp] theorem State.bindBar_mem (s : State) (b : Block) (gang : Bool) (n g : Nat) {t : State}
    (e : s.bindBar b gang n g = some t) : t.mem = s.mem := by
  unfold State.bindBar at e
  grind -linarith [State.setBarrier_mem]

@[simp] theorem State.barLane_mem (s : State) (h : Here) (w : Wave) (l : Nat) (t : Thread) (b : Block)
    (gang stop : Bool) (n : Nat) (pc : Pc) : (s.barLane h w l t b gang stop n pc).1.mem = s.mem := by
  unfold State.barLane
  grind -linarith [State.arrive_mem]

theorem foldl_bindBar_wf {l : List Block} {gang : Bool} {n g : Nat} {o : Option State} {t : State}
    (e : l.foldl (fun (o : Option State) b => match o with | none => none | some s => s.bindBar b gang n g) o = some t)
    (ho : ∀ s, o = some s → s.mem.wf = true) : t.mem.wf = true := by
  induction l generalizing o with
  | nil => exact ho t e
  | cons b l ih => exact ih e (by grind -linarith [→ State.bindBar_mem])

theorem barRun_wf {x : BarOp} {stop : Bool} (hs : s.mem.wf = true) : NextWf (barRun x stop s) := by
  refine State.issue_wf hs fun h ls => ?_
  dsimp only
  split
  · exact State.raise_wf hs
  split
  · exact State.raise_wf hs
  next s0 h0 =>
    have hs0 : s0.mem.wf = true := by
      split at h0
      · grind -linarith
      · exact foldl_bindBar_wf h0 (by grind)
    simp only [State.done_mem]
    exact foldl_fst_wf (fun r e hr => by grind -linarith [State.barLane_mem]) hs0

theorem execBar_wf {x : BarOp} (hs : s.mem.wf = true) : NextWf (execBar x s) := barRun_wf hs

theorem execArrive_wf {x : BarOp} (hs : s.mem.wf = true) : NextWf (execArrive x s) := barRun_wf hs

theorem groupRun_wf {x : GroupOp} {enter : Bool} (hs : s.mem.wf = true) : NextWf (groupRun x enter s) := by
  refine State.issue_wf hs fun h ls => ?_
  dsimp only
  split
  · exact State.raise_wf hs
  · simp only [State.doneLen_mem]
    exact foldl_fst_wf (fun r e hr => by grind -linarith [State.withdraw_mem, State.updBlock_mem]) hs

theorem execJoin_wf {x : GroupOp} (hs : s.mem.wf = true) : NextWf (execJoin x s) := groupRun_wf hs

theorem execLeave_wf {x : GroupOp} (hs : s.mem.wf = true) : NextWf (execLeave x s) := groupRun_wf hs

/-! ### Control transfer -/

theorem execNop_wf {x : NullOp} (hs : s.mem.wf = true) : NextWf (execNop x s) := by
  unfold execNop
  grind -linarith [State.doneLen_mem, State.issue_wf]

theorem execBra_wf {x : BraOp} (hs : s.mem.wf = true) : NextWf (execBra x s) := by
  unfold execBra
  grind -linarith [State.done_mem, State.issue_wf]

@[simp] theorem State.forceBasin_mem (s : State) (core : Nat) : (s.forceBasin core).mem = s.mem := rfl

@[simp] theorem State.divide_mem (s : State) (h : Here) (yes no : Table Thread) (tgt fall : Pc) :
    (s.divide h yes no tgt fall).mem = s.mem := by
  unfold State.divide
  grind -linarith [State.done_mem]

@[simp] theorem State.maskDivide_mem (s : State) (h : Here) (j : BitVec 4) (no : Table Thread) (tgt fall : Pc) :
    (s.maskDivide h j no tgt fall).mem = s.mem := by
  unfold State.maskDivide
  grind -linarith [State.done_mem]

theorem execBrd_wf {x : BrdOp} (hs : s.mem.wf = true) : NextWf (execBrd x s) := by
  unfold execBrd
  grind -linarith [State.forceBasin_mem, State.divide_mem, State.maskDivide_mem, State.raise_wf, State.done_mem,
    State.enrol_mem, State.issue_wf, foldl_mem]

@[simp] theorem State.maskRcv_mem (s : State) (h : Here) (ls : Table Thread) (e : MaskEntry) (t : List MaskEntry)
    (j : Nat) : (s.maskRcv h ls e t j).mem = s.mem := by
  unfold State.maskRcv
  grind -linarith [State.done_mem, State.unenrol_mem, foldl_mem]

theorem execRcv_wf {x : RcvOp} (hs : s.mem.wf = true) : NextWf (execRcv x s) := by
  unfold execRcv
  grind -linarith [State.done_mem, State.unenrol_mem, State.forceBasin_mem, State.maskRcv_mem, State.raise_wf,
    State.doneLen_mem, State.issue_wf, foldl_mem]

theorem execReform_wf {x : NullOp} (hs : s.mem.wf = true) : NextWf (execReform x s) := by
  unfold execReform
  grind -linarith [State.forceBasin_mem, State.done_mem, State.doneLen_mem, State.issue_wf]

theorem State.yieldLanes_wf {h : Here} {ls : Table Thread} {cause : BitVec 3} {pc : Pc} {place : Thread → Filing}
    {t : State} (e : s.yieldLanes h ls cause pc place = .ok t) (hs : s.mem.wf = true) : t.mem.wf = true := by
  unfold State.yieldLanes at e
  dsimp only at e
  split at e
  · contradiction
  next s1 h1 =>
    have hs1 : s1.mem.wf = true := yieldCommits_wf h1 hs
    obtain rfl := Except.ok.inj e
    have hs2 : (ls.foldl (fun s e => s.unenrol h.core e.2 none) s1).mem.wf = true := by
      simpa [foldl_mem] using hs1
    simp only [State.done_mem]
    generalize hr : List.foldl _ (_, _) ls = r
    have hr : r.1.mem.wf = true := by
      rw [← hr]
      exact foldl_fst_wf (fun r e hr => by grind -linarith [State.keyFor_wf, State.file_wf, State.fileWaiting_wf]) hs2
    split
    · split
      · exact State.fileCrew_wf hr
      · exact foldl_wf (fun _ _ => State.fileWaiting_wf) hr
    · exact hr

theorem State.yieldStop_wf {h : Here} {ls : Table Thread} {t : State} (e : s.yieldStop h ls = some t)
    (hs : s.mem.wf = true) : t.mem.wf = true := by
  unfold State.yieldStop at e
  grind -linarith [→ State.crewStop_wf, State.notReady_mem, State.raise_wf]

theorem State.yieldRun_wf {h : Here} {ls : Table Thread} {cause : BitVec 3} {len : Nat} {place : Thread → Filing}
    (hs : s.mem.wf = true) : (s.yieldRun h ls cause len place).mem.wf = true := by
  unfold State.yieldRun
  grind -linarith [State.overflow_wf, State.yieldLanes_wf, State.doneLen_mem]

theorem execYield_wf {x : NullOp} (hs : s.mem.wf = true) : NextWf (execYield x s) := by
  unfold execYield
  grind -linarith [State.yieldRun_wf, → State.yieldStop_wf, State.issue_wf]

theorem execAwait_wf {x : AwaitOp} (hs : s.mem.wf = true) : NextWf (execAwait x s) := by
  unfold execAwait
  refine State.issue_wf hs fun h ls => ?_
  dsimp only
  split
  · exact State.raise_wf hs
  split
  · exact State.raise_wf hs
  split
  · exact State.raise_wf hs
  split
  · exact State.raise_wf hs
  split
  next e => exact State.prepare_error_wf e hs
  · grind -linarith [State.yieldRun_wf, State.putWave_mem, State.loadAll_mem, → State.yieldStop_wf, State.raise_wf,
    State.prepare_snd_wf]

@[simp] theorem State.phaseLane_mem (s : State) (h : Here) (gang : Bool) (n : Nat) (t : Thread) :
    (s.phaseLane h gang n t).1.mem = s.mem := by
  unfold State.phaseLane
  grind -linarith [State.arrive_mem]

theorem execPhase_wf {x : PhaseOp} (hs : s.mem.wf = true) : NextWf (execPhase x s) := by
  refine State.issue_wf hs fun h ls => ?_
  dsimp only
  split
  · exact State.raise_wf hs
  split
  next h1 => exact State.yieldStop_wf h1 hs
  split
  next h1 => 
    exact State.yieldLanes_wf h1 (foldl_fst_wf (fun r e hr => by simpa using hr) hs)
  · exact State.overflow_wf hs

theorem execCall_wf {x : CallOp} (hs : s.mem.wf = true) : NextWf (execCall x s) := by
  unfold execCall
  grind -linarith [State.done_mem, State.raise_wf, State.issue_wf]

theorem State.jumpStop_wf {h : Here} {ls : Table Thread} {a : Src} {t : State} (e : s.jumpStop h ls a = some t)
    (hs : s.mem.wf = true) : t.mem.wf = true := by
  unfold State.jumpStop at e
  grind -linarith [State.forceBasin_mem, State.raise_wf]

@[simp] theorem State.jumpGo_mem (s : State) (h : Here) (ls : Table Thread) (a : Src) (after : Thread → Thread) :
    (s.jumpGo h ls a after).mem = s.mem := by
  unfold State.jumpGo
  grind -linarith [State.done_mem]

theorem State.jumpLanes_wf {h : Here} {ls : Table Thread} {a : Src} {after : Thread → Thread} (hs : s.mem.wf = true) :
    (s.jumpLanes h ls a after).mem.wf = true := by
  unfold State.jumpLanes
  grind -linarith [State.jumpGo_mem, → State.jumpStop_wf]

theorem execJmpi_wf {x : JumpOp} (hs : s.mem.wf = true) : NextWf (execJmpi x s) := by
  unfold execJmpi
  grind -linarith [State.jumpLanes_wf, State.issue_wf]

theorem State.endCallouts_wf {h : Here} {ls : Table Thread} {t : State × Wave} (e : s.endCallouts h ls = .ok t)
    (hs : s.mem.wf = true) : t.1.mem.wf = true := by
  unfold State.endCallouts at e
  grind -linarith [State.leave_mem, State.file_wf, State.keyFor_wf, State.unenrol_mem, → yieldCommits_wf, foldl_wf]

theorem execRet_wf {x : JumpOp} (hs : s.mem.wf = true) : NextWf (execRet x s) := by
  unfold execRet
  grind -linarith [State.overflow_wf, → State.endCallouts_wf, State.notReady_mem, State.jumpGo_mem, → State.jumpStop_wf,
    State.raise_wf, State.issue_wf]

theorem State.exitCommits_wf {x : Table Thread} {h : Here} {t : State} (e : State.exitCommits x s h = .ok t)
    (hs : s.mem.wf = true) : t.mem.wf = true := by
  fun_induction State.exitCommits x s h generalizing t <;>
    grind -linarith [→ State.commitParty_wf, → exceptMap_eq_ok, → State.yieldCommit_wf]

@[simp] theorem State.retire_mem (s : State) (t : Thread) : (s.retire t).mem = s.mem := by
  unfold State.retire
  grind -linarith [State.withdraw_mem, State.updBlock_mem, State.updGrid_mem]

theorem State.exitLanes_wf {h : Here} {ls : Table Thread} (hs : s.mem.wf = true) :
    (s.exitLanes h ls).mem.wf = true := by
  unfold State.exitLanes
  grind -linarith [State.done_mem, State.leave_mem, State.unenrol_mem, State.retire_mem, → State.lastCommit_wf,
    State.overflow_wf, → State.exitCommits_wf, foldl_mem]

theorem execExit_wf {x : NullOp} (hs : s.mem.wf = true) : NextWf (execExit x s) := by
  unfold execExit
  grind -linarith [State.exitLanes_wf, → State.crewStop_wf, State.ret_wf, State.issue_wf]

theorem execCrew_wf {x : NullOp} (hs : s.mem.wf = true) : NextWf (execCrew x s) := by
  unfold execCrew
  grind -linarith [State.overflow_wf, State.doneLen_mem, Memory.joinCrew_wf, State.updCore_mem, State.raise_wf,
    State.issue_wf]

theorem execUncrew_wf {x : NullOp} (hs : s.mem.wf = true) : NextWf (execUncrew x s) := by
  refine State.issue_wf hs fun h ls => ?_
  dsimp only
  split
  · exact State.raise_wf hs
  split
  next h1 => exact State.crewStop_wf h1 hs
  split
  · exact State.overflow_wf hs
  next s1 h1 =>
    have hs1 : s1.mem.wf = true := by grind -linarith [→ exceptMap_eq_ok, → State.commitParty_wf]
    simp only [State.doneLen_mem]
    refine foldl_wf (fun s e hs => ?_) (by simpa using hs1)
    exact ite_wf hs (Memory.emptyBuf_wf hs)

theorem execTrap_wf {x : TrapOp} (hs : s.mem.wf = true) : NextWf (execTrap x s) := by
  unfold execTrap
  grind -linarith [State.raise_wf, State.issue_wf]

theorem execBkpt_wf {x : TrapOp} (hs : s.mem.wf = true) : NextWf (execBkpt x s) := by
  unfold execBkpt
  grind -linarith [State.hit_wf, State.doneLen_mem, State.issue_wf]

theorem execClause_wf {x : ClauseOp} (hs : s.mem.wf = true) : NextWf (execClause x s) := by
  unfold execClause
  grind -linarith [State.putWave_mem, State.raise_wf, nextWf_next, nextWf_fault]

/-! ### Reservation -/

@[simp] theorem State.noteTaken_mem (s : State) (core : Nat) (acc : Bool) (a : Ask) :
    (s.noteTaken core acc a).mem = s.mem :=
  rfl

@[simp] theorem State.noteTaskTile_mem (s : State) (core : Nat) : (s.noteTaskTile core).mem = s.mem := rfl

@[simp] theorem State.noteGone_mem (s : State) (l : List Block) : (s.noteGone l).mem = s.mem := rfl

/-! ### Matrix instructions -/

@[simp] theorem State.queueOp_mem (s : State) (h : Here) (len : Nat) (sel : FlagSel) (o : EngineOp) :
    (s.queueOp h len sel o).mem = s.mem := by
  unfold State.queueOp
  grind -linarith [State.updCore_mem, State.setLines_mem, State.doneLen_mem]

theorem State.slotFault_wf {h : Here} {k : Nat} (hs : s.mem.wf = true) : (s.slotFault h k).mem.wf = true :=
  State.raise_wf hs

theorem State.issueMatrix_wf {f : Form} {k : Here → Table Thread → Crew → State} {mem : Bool} (hs : s.mem.wf = true)
    (hk : ∀ h ls c, (k h ls c).mem.wf = true) : NextWf (s.issueMatrix f k mem) := by
  unfold State.issueMatrix
  grind -linarith [State.raise_wf, State.notReady_mem, State.issueCrew_wf]

theorem State.withTiles_wf {h : Here} {blk : Block} {ts : List (Nat × TileEntry)} {k : State} (hs : s.mem.wf = true)
    (hk : k.mem.wf = true) : (s.withTiles h blk ts k).mem.wf = true := by
  unfold State.withTiles
  grind -linarith [State.notReady_mem]

@[simp] theorem State.reachShell_mem (s : State) (h : Here) (base : Nat) (shell : Table Nat) :
    (s.reachShell h base shell).mem = s.mem := by
  unfold State.reachShell
  grind -linarith [State.reachLines_mem]

theorem shellSpots_wf {l : List Nat} {x : Via} {n n1 : Nat} (hs : s.mem.wf = true) :
    (shellSpots l s x n n1).2.mem.wf = true := by
  fun_induction shellSpots l s x n n1 <;> grind -linarith [State.unitPa_wf]

theorem State.mmaIssue_wf {x : MmaOp} {sparse : Bool} {i : Instr} (hs : s.mem.wf = true) :
    NextWf (s.mmaIssue x sparse i) := by
  refine State.issueMatrix_wf hs fun h ls c => ?_
  dsimp only
  split
  · exact State.slotFault_wf hs
  split
  · exact State.slotFault_wf hs
  refine ite_wf (State.raise_wf hs) (ite_wf (State.raise_wf hs) (ite_wf (State.raise_wf hs) ?_))
  split
  · exact State.raise_wf hs
  split
  · exact State.raise_wf hs
  refine ite_wf (State.raise_wf hs) ?_
  split
  · exact State.raise_wf hs
  grind -linarith [State.reachShell_mem, State.queueOp_mem, State.unitFault_wf, shellSpots_wf, State.withTiles_wf]

theorem execMma_wf {x : MmaOp} (hs : s.mem.wf = true) : NextWf (execMma x s) := State.mmaIssue_wf hs

theorem execMmas_wf {x : MmaOp} (hs : s.mem.wf = true) : NextWf (execMmas x s) := State.mmaIssue_wf hs

theorem rowPas_wf {n : Nat} {x : Via} {n1 n2 n3 n4 : Nat} {x1 : Access} (hs : s.mem.wf = true) :
    (rowPas n s x n1 n2 n3 n4 x1).2.mem.wf = true := by
  fun_induction rowPas n s x n1 n2 n3 n4 x1 <;> grind -linarith [State.unitPas_wf]

theorem State.globalRegion_wf {x : MldOp} {i : Instr} {kind : Access} (hs : s.mem.wf = true) :
    NextWf (s.globalRegion x i kind) := by
  unfold State.globalRegion
  grind -linarith [State.reachLines_mem, State.queueOp_mem, State.farRead_mem, State.unitFault_wf, rowPas_wf,
    State.raise_wf, State.slotFault_wf, State.issueMatrix_wf]

theorem execMld_wf {x : MldOp} (hs : s.mem.wf = true) : NextWf (execMld x s) := State.globalRegion_wf hs

theorem execMst_wf {x : MldOp} (hs : s.mem.wf = true) : NextWf (execMst x s) := State.globalRegion_wf hs

theorem execMstSp_wf {x : MstSpOp} (hs : s.mem.wf = true) : NextWf (execMstSp x s) := by
  unfold execMstSp
  grind -linarith [State.queueOp_mem, State.withTiles_wf, State.raise_wf, State.slotFault_wf, State.issueMatrix_wf]

theorem execMzero_wf {x : MzeroOp} (hs : s.mem.wf = true) : NextWf (execMzero x s) := by
  unfold execMzero
  grind -linarith [State.raise_wf, State.queueOp_mem, State.issueMatrix_wf]

@[simp] theorem State.updCrew_mem (s : State) (core uid : Nat) (f : Crew → Crew) : (s.updCrew core uid f).mem = s.mem :=
  rfl

theorem execMzeroStat_wf {x : MzeroOp} (hs : s.mem.wf = true) : NextWf (execMzeroStat x s) := by
  unfold execMzeroStat
  grind -linarith [State.updCrew_mem, State.doneLen_mem, State.raiseSparse_wf, State.issueMatrix_wf]

theorem execMcvt_wf {x : McvtOp} (hs : s.mem.wf = true) : NextWf (execMcvt x s) := by
  unfold execMcvt
  refine State.issueMatrix_wf hs fun h ls c => ?_
  split
  · exact State.slotFault_wf hs
  grind -linarith [State.reachLines_mem, State.unitFault_wf, State.unitPas_wf, State.queueOp_mem, State.raise_wf]

theorem execCbdec_wf {x : CbdecOp} (hs : s.mem.wf = true) : NextWf (execCbdec x s) := by
  unfold execCbdec
  grind -linarith [State.reachShell_mem, State.queueOp_mem, State.unitFault_wf, shellSpots_wf, State.raise_wf,
    State.slotFault_wf, State.issueMatrix_wf]

theorem execBscale_wf {x : BscaleOp} (hs : s.mem.wf = true) : NextWf (execBscale x s) := by
  unfold execBscale
  grind -linarith [State.raise_wf, State.queueOp_mem, State.issueMatrix_wf]

@[simp] theorem mixBytes_mem (l l1 : List Byte) (s : State) : (mixBytes l l1 s).2.mem = s.mem := by
  fun_induction mixBytes l l1 s <;> grind -linarith [State.pickFrom_mem]

@[simp] theorem linePoss_mem (l : List Nat) (n : Nat) (s : State) : (linePoss l n s).2.mem = s.mem := by
  fun_induction linePoss l n s <;> grind -linarith [State.pick_mem]

@[simp] theorem State.snapshot_mem (s : State) (p0 : Nat) (pas : List Nat) : (s.snapshot p0 pas).2.mem = s.mem := by
  unfold State.snapshot
  grind -linarith [linePoss_mem]

@[simp] theorem State.numSince_mem (s : State) (p0 pa n : Nat) : (s.numSince p0 pa n).2.mem = s.mem := by
  unfold State.numSince
  grind -linarith [State.pick_mem]

@[simp] theorem shellDraw_mem (a : List Byte) (spots : Table Nat) (p0 : Nat) (l : List Nat) (s : State) :
    (shellDraw a spots p0 l s).2.mem = s.mem := by
  fun_induction shellDraw a spots p0 l s <;> grind -linarith [State.numSince_mem]

@[simp] theorem State.setTile_mem (s : State) (core : Nat) (o : EngineOp) (n : Nat) (t : Table Word) :
    (s.setTile core o n t).mem = s.mem :=
  rfl

theorem State.amaxUpdate_wf {agent : Nat} {pas : List Nat} {v : Word} {rel : List Mark} (hs : s.mem.wf = true) :
    (s.amaxUpdate agent pas v rel).mem.wf = true := by
  unfold State.amaxUpdate
  grind -linarith [Memory.arriveD_keeps_wf]

@[simp] theorem State.engineReads_mem (s : State) (core : Nat) (o : EngineOp) :
    (s.engineReads core o).2.mem = s.mem := by
  unfold State.engineReads
  grind -linarith [shellDraw_mem, mixBytes_mem]

theorem State.begin_wf {s0 : State} {core : Nat} {o0 : EngineOp} (hs0 : s0.mem.wf = true) :
    (s0.begin core o0).s.mem.wf = true := by
  unfold State.begin
  grind -linarith [State.amaxUpdate_wf, State.snapshot_mem, State.setTile_mem, mixBytes_mem, State.engineReads_mem]

theorem State.beginKey_wf {core key : Nat} {p : PendOp} {o : EngineOp} {t : State}
    (e : s.beginKey core key p o = some t) (hs : s.mem.wf = true) : t.mem.wf = true := by
  unfold State.beginKey at e
  grind -linarith [State.begin_wf, State.endGrid_wf, State.updCore_mem]

theorem State.outLine_wf {core key : Nat} {p : PendOp} {o : EngineOp} {l : Nat} (hs : s.mem.wf = true) :
    (s.outLine core key p o l).mem.wf = true := by
  unfold State.outLine
  grind -linarith [Memory.arriveD_keeps_wf, State.endGrid_wf, State.fillLines_mem, State.updCore_mem]

theorem outAll_wf {l : List Nat} {n n1 : Nat} (hs : s.mem.wf = true) : (outAll l s n n1).mem.wf = true := by
  fun_induction outAll l s n n1 <;> grind -linarith [State.outLine_wf]

@[simp] theorem State.endOp_mem (s0 : State) (core key : Nat) (p : PendOp) : (s0.endOp core key p).mem = s0.mem := by
  unfold State.endOp
  grind -linarith [State.updCrew_mem, State.updCore_mem, State.updGrid_mem]

theorem execFlagOpComplete_wf {x : CoreItem} {k : Option Nat} (hs : s.mem.wf = true) :
    NextWf (execFlagOpComplete x k s) := by
  refine State.live_wf hs ?_
  dsimp only
  split
  · exact nextWf_next.mpr hs
  split
  · exact nextWf_next.mpr hs
  next s1 h1 =>
    have hs1 : s1.mem.wf = true := by grind -linarith [→ State.beginKey_wf]
    split
    · exact nextWf_next.mpr hs1
    split
    · grind -linarith [State.outLine_wf, State.landOp_mem, State.updCore_mem, nextWf_next]
    · grind -linarith [State.endOp_mem, State.landLate_mem, outAll_wf, nextWf_next]

/-! ### Resources and tiles -/

@[simp] theorem State.satisfy_mem (s : State) (core slot : Nat) (w : Wave) (acc : Bool) (n : Nat) :
    (s.satisfy core slot w acc n).mem = s.mem := by
  unfold State.satisfy
  grind -linarith [State.updCore_mem, State.noteTaken_mem]

@[simp] theorem State.tryClaim_mem (s : State) (core : Nat) (acc : Bool) (only : Option Nat) :
    (s.tryClaim core acc only).mem = s.mem := by
  unfold State.tryClaim
  grind -linarith [State.satisfy_mem, State.updCore_mem]

theorem execClaimSatisfied_wf {x : CoreId} {acc : Bool} (hs : s.mem.wf = true) :
    NextWf (execClaimSatisfied x acc s) := by
  unfold execClaimSatisfied
  grind -linarith [State.tryClaim_mem, State.live_wf, nextWf_next]

theorem State.issueRes_wf {g : Guard} {needCrew : Bool} {k : Here → Table Thread → State} (hs : s.mem.wf = true)
    (hk : ∀ h ls, (k h ls).mem.wf = true) : NextWf (s.issueRes g needCrew k) := by
  unfold State.issueRes
  grind -linarith [State.raise_wf, State.issue_wf]

@[simp] theorem State.parkClaim_mem (s : State) (h : Here) (acc : Bool) (n : Nat) :
    (s.parkClaim h acc n).mem = s.mem := by
  unfold State.parkClaim
  grind -linarith [State.doneLen_mem, State.updCore_mem, State.tryClaim_mem]

theorem execRegclm_wf {x : CountOp} (hs : s.mem.wf = true) : NextWf (execRegclm x s) := by
  unfold execRegclm
  grind -linarith [State.parkClaim_mem, State.raise_wf, State.issueRes_wf]

theorem execRegrel_wf {x : CountOp} (hs : s.mem.wf = true) : NextWf (execRegrel x s) := by
  unfold execRegrel
  grind -linarith [State.doneLen_mem, State.issueRes_wf]

theorem execAcclm_wf {x : CountOp} (hs : s.mem.wf = true) : NextWf (execAcclm x s) := by
  unfold execAcclm
  grind -linarith [State.parkClaim_mem, State.raise_wf, State.issueRes_wf]

theorem execAccrel_wf {x : CountOp} (hs : s.mem.wf = true) : NextWf (execAccrel x s) := by
  unfold execAccrel
  grind -linarith [State.updCrew_mem, State.doneLen_mem, State.raise_wf, State.issueRes_wf]

theorem execRquery_wf {x : QueryOp} (hs : s.mem.wf = true) : NextWf (execRquery x s) := by
  unfold execRquery
  grind -linarith [State.doneLen_mem, State.issue_wf]

/-! ### Copies -/

theorem readProgs_wf {l : List CopyReq} {x : Via} {n : Nat} (hs : s.mem.wf = true) :
    (readProgs l s x n).2.mem.wf = true := by
  fun_induction readProgs l s x n <;> grind -linarith [State.unitRead_wf]

theorem State.checkCopies_wf {v : Via} {ctx : Nat} {acopy : Bool} {tile : CopyReq → Option Nat} {l : List CopyReq}
    (hs : s.mem.wf = true) : (s.checkCopies v ctx acopy tile l).2.mem.wf = true := by
  unfold State.checkCopies
  dsimp only
  split
  · exact hs
  split
  · exact hs
  have hu : (readProgs l s v ctx).2.mem.wf = true := readProgs_wf hs
  split
  · exact hu
  split
  · exact hu
  split
  · exact hu
  split
  · exact hu
  grind -linarith

@[simp] theorem State.queueCopy_mem (s : State) (core : Nat) (c : Copy) : (s.queueCopy core c).mem = s.mem := rfl

theorem State.copyStop_wf {h : Here} {c : CopyChk} (hs : s.mem.wf = true) : (s.copyStop h c).mem.wf = true := by
  unfold State.copyStop
  grind -linarith [State.unitFault_wf, State.raise_wf]

theorem execAcopy_wf {x : AcopyOp} (hs : s.mem.wf = true) : NextWf (execAcopy x s) := by
  unfold execAcopy
  grind -linarith [State.copyStop_wf, State.queueCopy_mem, State.doneLen_mem, State.checkCopies_wf, State.notReady_mem,
    State.raise_wf, State.issue_wf, foldl_mem]

theorem execAcopyg_wf {x : AcopygOp} (hs : s.mem.wf = true) : NextWf (execAcopyg x s) := by
  unfold execAcopyg
  grind -linarith [State.copyStop_wf, State.queueCopy_mem, State.doneLen_mem, State.checkCopies_wf, State.notReady_mem,
    State.issue_wf, foldl_mem]

theorem State.copyErr_wf {core key : Nat} {c : Copy} {kind : Access} {e : UnitErr} (hs : s.mem.wf = true) :
    (s.copyErr core key c kind e).mem.wf = true := by
  unfold State.copyErr
  grind -linarith [State.endGrid_wf, State.updCore_mem, State.pageFault_wf]

theorem State.copyLine_wf {core ctx a : Nat} {kind : Access} (hs : s.mem.wf = true) :
    (s.copyLine core ctx a kind).2.mem.wf = true := by
  unfold State.copyLine
  grind -linarith [State.reach_mem, State.unitPa_wf]

theorem State.readCopyLine_wf {core key : Nat} {c : Copy} {r : Run} (hs : s.mem.wf = true) :
    (s.readCopyLine core key c r).mem.wf = true := by
  unfold State.readCopyLine
  grind -linarith [State.farRead_mem, State.copyErr_wf, State.copyLine_wf, State.updCore_mem]

@[simp] theorem State.doneCopy_mem (s : State) (core key : Nat) (c : Copy) (f : Run → Bool) :
    (s.doneCopy core key c f).mem = s.mem :=
  rfl

theorem State.writeCopyLine_wf {core key : Nat} {c : Copy} {r : Run} (hs : s.mem.wf = true) :
    (s.writeCopyLine core key c r).mem.wf = true := by
  unfold State.writeCopyLine
  grind -linarith [Memory.arriveD_keeps_wf, State.copyErr_wf, State.copyLine_wf, State.updCore_mem, State.doneCopy_mem]

theorem execEngineWriteComplete_wf {x : CoreItem} {run : Nat} (hs : s.mem.wf = true) :
    NextWf (execEngineWriteComplete x run s) := by
  unfold execEngineWriteComplete
  grind -linarith [State.writeCopyLine_wf, State.readCopyLine_wf, State.live_wf, nextWf_next]

theorem execCopyComplete_wf {x : CoreItem} (hs : s.mem.wf = true) : NextWf (execCopyComplete x s) := by
  unfold execCopyComplete
  grind -linarith [State.updBlock_mem, State.updCluster_mem, State.updCore_mem, State.live_wf, nextWf_next]

theorem execSeal_wf {x : SealOp} (hs : s.mem.wf = true) : NextWf (execSeal x s) := by
  unfold execSeal
  grind -linarith [State.doneLen_mem, State.raise_wf, State.issue_wf]

theorem execWaitb_wf {x : OneSrcOp} (hs : s.mem.wf = true) : NextWf (execWaitb x s) := by
  unfold execWaitb
  grind -linarith [State.doneLen_mem, State.issue_wf]

theorem execStage_wf {x : CountOp} (hs : s.mem.wf = true) : NextWf (execStage x s) := by
  unfold execStage
  grind -linarith [State.doneLen_mem, State.updBlock_mem, State.raise_wf, State.issue_wf, foldl_mem]

theorem State.stageErr_wf {b : Block} {c : Copy} {e : UnitErr} (hs : s.mem.wf = true) :
    (s.stageErr b c e).mem.wf = true := by
  unfold State.stageErr
  grind -linarith [State.endGrid_wf, State.pageFault_wf]

theorem State.issueStage_wf {b : Block} (hs : s.mem.wf = true) : (s.issueStage b).mem.wf = true := by
  unfold State.issueStage
  grind -linarith [State.queueCopy_mem, State.updBlock_mem, State.checkCopies_wf, State.endGrid_wf, State.stageErr_wf,
    State.unitRead_wf]

theorem execStageCopyIssue_wf {x : CoreItem} (hs : s.mem.wf = true) : NextWf (execStageCopyIssue x s) := by
  unfold execStageCopyIssue
  grind -linarith [State.issueStage_wf, State.live_wf, nextWf_next]

theorem State.inBlocks_wf {h : Here} {ls : Table Thread} {k : List Block → State} (hs : s.mem.wf = true)
    (hk : ∀ bs, (k bs).mem.wf = true) : (s.inBlocks h ls k).mem.wf = true := by
  unfold State.inBlocks
  grind -linarith [State.raise_wf]

theorem execTiledef_wf {x : TiledefOp} (hs : s.mem.wf = true) : NextWf (execTiledef x s) := by
  unfold execTiledef
  grind -linarith [State.updBlock_mem, State.doneLen_mem, State.raise_wf, State.inBlocks_wf, State.issue_wf, foldl_mem]

@[simp] theorem State.mapStash_mem (s : State) (b : Block) (k : Nat) (e : StashEntry) :
    (s.mapStash b k e).mem = s.mem := by
  unfold State.mapStash
  grind -linarith [State.updBlock_mem, State.setLines_mem]

theorem execTiledefSt_wf {x : TiledefStOp} (hs : s.mem.wf = true) : NextWf (execTiledefSt x s) := by
  unfold execTiledefSt
  grind -linarith [State.mapStash_mem, State.updBlock_mem, State.doneLen_mem, State.raise_wf, State.inBlocks_wf,
    State.issue_wf, foldl_mem]

theorem execTilest_wf {x : TilestOp} (hs : s.mem.wf = true) : NextWf (execTilest x s) := by
  unfold execTilest
  grind -linarith [State.setLines_mem, State.doneLen_mem, State.raise_wf, State.issue_wf, foldl_mem]

theorem execStashFillComplete_wf {x : CoreItem} {line : Nat} (hs : s.mem.wf = true) :
    NextWf (execStashFillComplete x line s) := by
  refine State.live_wf hs ?_
  dsimp only
  split
  · exact nextWf_next.mpr hs
  split
  · exact nextWf_next.mpr hs
  grind -linarith [State.updBlock_mem, State.updCore_mem, State.fillLines_mem, State.copyErr_wf, State.copyLine_wf,
    nextWf_next]

theorem execStashRecall_wf {x : CoreItem} {line : Nat} (hs : s.mem.wf = true) : NextWf (execStashRecall x line s) := by
  unfold execStashRecall
  grind -linarith [State.updBlock_mem, State.setLines_mem, State.live_wf, nextWf_next]

/-! ### Rays -/

theorem State.issueRay_wf {f : Form} {bad : Thread → Bool} {k : Here → Table Thread → State} (hs : s.mem.wf = true)
    (hk : ∀ h ls, (k h ls).mem.wf = true) : NextWf (s.issueRay f bad k) := by
  unfold State.issueRay
  grind -linarith [State.raise_wf, State.issue_wf]

theorem execRayget_wf {x : QueryOp} (hs : s.mem.wf = true) : NextWf (execRayget x s) := by
  unfold execRayget
  grind -linarith [State.doneLen_mem, State.issueRay_wf]

theorem execRayset_wf {x : RaysetOp} (hs : s.mem.wf = true) : NextWf (execRayset x s) := by
  unfold execRayset
  grind -linarith [State.doneLen_mem, State.issueRay_wf]

@[simp] theorem State.linePos_mem (s : State) (t : Thread) (least l : Nat) : (s.linePos t least l).2.mem = s.mem := by
  unfold State.linePos
  grind -linarith [State.pick_mem]

@[simp] theorem lineMoments_mem (l : List Nat) (s : State) (x : Thread) (n : Nat) :
    (lineMoments l s x n).2.mem = s.mem := by
  fun_induction lineMoments l s x n <;> grind -linarith [State.linePos_mem]

@[simp] theorem State.snapRead_mem (s : State) (cl : Nat) (t : Thread) (pas : List Nat) :
    (s.snapRead cl t pas).2.mem = s.mem := by
  unfold State.snapRead
  grind -linarith [lineMoments_mem]

theorem State.snapVa_wf {v : Via} {ctx : Nat} {t : Thread} {va n : Nat} (hs : s.mem.wf = true) :
    (s.snapVa v ctx t va n).2.mem.wf = true := by
  unfold State.snapVa
  grind -linarith [State.reachLines_mem, State.snapRead_mem, State.unitPas_wf]

theorem hitWords_wf {x : Table Thread} {h : Here} {n : Nat} (hs : s.mem.wf = true) :
    (hitWords x s h n).2.mem.wf = true := by
  fun_induction hitWords x s h n <;> grind -linarith [State.snapVa_wf]

theorem execHitget_wf {x : QueryOp} (hs : s.mem.wf = true) : NextWf (execHitget x s) := by
  unfold execHitget
  grind -linarith [State.doneLen_mem, State.unitFault_wf, hitWords_wf, State.issueRay_wf]

theorem State.toTraversal_wf {h : Here} {ls : Table Thread} {len : Nat} {pc : Thread → Pc}
    {f : Thread → RayPart → RayPart} (hs : s.mem.wf = true) : (s.toTraversal h ls len pc f).mem.wf = true := by
  unfold State.toTraversal
  grind -linarith [State.doneLen_mem, State.leave_mem, State.updCluster_mem, State.unenrol_mem, State.overflow_wf,
    → yieldCommits_wf, foldl_mem]

theorem execTrace_wf {x : TraceOp} (hs : s.mem.wf = true) : NextWf (execTrace x s) := by
  unfold execTrace
  grind -linarith [State.toTraversal_wf, State.raise_wf, State.issueRay_wf]

theorem State.endHit_wf {h : Here} {ls : Table Thread} {len : Nat} {f : Thread → RayPart → RayPart}
    (hs : s.mem.wf = true) : (s.endHit h ls len f).mem.wf = true := by
  unfold State.endHit
  grind -linarith [State.toTraversal_wf]

theorem execAccept_wf {x : NullOp} (hs : s.mem.wf = true) : NextWf (execAccept x s) := by
  unfold execAccept
  grind -linarith [State.endHit_wf, State.issueRay_wf]

theorem execIgnore_wf {x : NullOp} (hs : s.mem.wf = true) : NextWf (execIgnore x s) := by
  unfold execIgnore
  grind -linarith [State.endHit_wf, State.issueRay_wf]

theorem execReport_wf {x : ReportOp} (hs : s.mem.wf = true) : NextWf (execReport x s) := by
  unfold execReport
  grind -linarith [State.endHit_wf, State.issueRay_wf]

theorem execKey_wf {x : OneSrcOp} (hs : s.mem.wf = true) : NextWf (execKey x s) := State.lanewise_wf hs

theorem State.accumOne_wf {h : Here} {c pa : Nat} {l : List Acc} {t : State × Wave} (e : s.accumOne h c pa l = .ok t)
    (hs : s.mem.wf = true) : t.1.mem.wf = true := by
  unfold State.accumOne at e
  grind -linarith [settleCopies_wf, → storeOne_wf]

theorem accumAll_wf {l : List Nat} {h : Here} {n : Nat} {l1 : List Acc} {t : State × Wave}
    (e : accumAll l s h n l1 = .ok t) (hs : s.mem.wf = true) : t.1.mem.wf = true := by
  fun_induction accumAll l s h n l1 generalizing t <;> grind -linarith [→ State.accumOne_wf]

theorem execAccum_wf {x : AccumOp} (hs : s.mem.wf = true) : NextWf (execAccum x s) := by
  unfold execAccum
  grind -linarith [State.reachAtoms_mem, State.doneLen_mem, State.overflow_wf, → accumAll_wf, → State.prepare_error_wf,
    State.prepare_snd_wf, State.raise_wf, State.issue_wf]

theorem execRng_wf {x : RngOp} (hs : s.mem.wf = true) : NextWf (execRng x s) := State.lanewise_wf hs

/-! ### Launches and tasks -/

@[simp] theorem State.poolFree_mem (s : State) : s.poolFree.2.mem = s.mem := by
  unfold State.poolFree
  grind -linarith [State.pick_mem]

theorem State.launchChild_wf {g : Grid} {r : LaunchRec} {view : View} {t : Nat × State}
    (e : s.launchChild g r view = some t) (hs : s.mem.wf = true) : t.2.mem.wf = true := by
  unfold State.launchChild at e
  grind -linarith [Memory.agentWrite_wf, State.poolFree_mem]

theorem launchRecs_wf {h : Here} {addr : Thread → Nat} {x : Table Thread} (hs : s.mem.wf = true) :
    (launchRecs h addr x s).2.mem.wf = true := by
  fun_induction launchRecs h addr x s <;> grind -linarith [State.reachLines_mem, State.unitFetch_wf]

theorem State.launchLane_wf {h : Here} {pd d : Nat} {w : Wave} {l : Nat} {t : Thread} {r : LaunchRec}
    (hs : s.mem.wf = true) : (s.launchLane h pd d w l t r).1.mem.wf = true := by
  unfold State.launchLane
  grind -linarith [State.input_wf, → State.launchChild_wf]

theorem execLaunch_wf {x : LaunchOp} (hs : s.mem.wf = true) : NextWf (execLaunch x s) := by
  unfold execLaunch
  refine State.issue_wf hs fun h ls => ?_
  dsimp only
  split
  · exact State.raise_wf hs
  split
  · exact State.raise_wf hs
  split
  · exact State.unitFault_wf (launchRecs_wf hs)
  split
  · exact State.raise_wf (launchRecs_wf hs)
  · simp only [State.doneLen_mem]
    exact foldl_fst_wf (fun r e hr => by grind -linarith [State.launchLane_wf]) (launchRecs_wf hs)

theorem execLwait_wf {x : LwaitOp} (hs : s.mem.wf = true) : NextWf (execLwait x s) := by
  unfold execLwait
  grind -linarith [State.doneLen_mem, State.putWave_mem, State.issue_wf]

theorem execLwaitTest_wf {x : LwaitTestOp} (hs : s.mem.wf = true) : NextWf (execLwaitTest x s) := by
  refine State.issue_wf hs fun h ls => ?_
  dsimp only
  split
  · exact hs
  · simp only [State.doneLen_mem]
    exact foldl_fst_wf (fun r e => State.input_wf) hs

theorem execProg_wf {x : ProgOp} (hs : s.mem.wf = true) : NextWf (execProg x s) := by
  unfold execProg
  grind -linarith [State.updCtx_mem, State.doneLen_mem, State.issue_wf]

/-! ### Contexts -/

@[simp] theorem State.setShares_mem (s : State) (f : Nat) : (s.setShares f).mem = s.mem := by
  unfold State.setShares
  grind -linarith [State.updCtx_mem, foldl_mem]

@[simp] theorem State.changed_mem (s : State) (c : Nat) : (s.changed c).mem = s.mem := rfl

@[simp] theorem State.startRun_mem (s : State) (c : Nat) (start : Bool) : (s.startRun c start).mem = s.mem := rfl

@[simp] theorem State.reqRun_mem (s : State) (c : Nat) : (s.reqRun c).mem = s.mem := by
  unfold State.reqRun
  grind -linarith [State.updCtx_mem, State.startRun_mem]

@[simp] theorem pickSome_mem (l : List Nat) (n : Nat) (s : State) : (pickSome l n s).2.mem = s.mem := by
  fun_induction pickSome l n s <;> grind -linarith [State.pick_mem]

@[simp] theorem State.runsNow_mem (s : State) (c cl : Nat) : (s.runsNow c cl).2.mem = s.mem := by
  unfold State.runsNow
  grind -linarith [pickSome_mem]

@[simp] theorem runsIn_mem (c : Nat) (l : List Nat) (s : State) : (runsIn c l s).2.mem = s.mem := by
  fun_induction runsIn c l s <;> grind -linarith [State.runsNow_mem]

@[simp] theorem State.endTurn_mem (s : State) (f c : Nat) : (s.endTurn f c).mem = s.mem := by
  unfold State.endTurn
  grind -linarith [State.updPart_mem]

@[simp] theorem State.reqStop_mem (s : State) (c : Nat) : (s.reqStop c).mem = s.mem := by
  unfold State.reqStop
  grind -linarith [State.changed_mem, State.updCore_mem, State.updCtx_mem, State.endTurn_mem, runsIn_mem, foldl_mem]

@[simp] theorem State.bindCtx_mem (s : State) (c : Nat) (p : BitVec 4) : (s.bindCtx c p).mem = s.mem := rfl

@[simp] theorem State.unbindCtx_mem (s : State) (c : Nat) : (s.unbindCtx c).mem = s.mem := rfl

@[simp] theorem State.movePart_mem (s : State) (c : Nat) (p : BitVec 4) : (s.movePart c p).mem = s.mem := rfl

@[simp] theorem State.setWeight_mem (s : State) (c : Nat) (w : BitVec 8) : (s.setWeight c w).mem = s.mem := rfl

/-! ### Debugging -/

@[simp] theorem State.passHit_mem (s : State) (cl : Nat) : (s.passHit cl).mem = s.mem := by
  unfold State.passHit
  grind -linarith [State.updCore_mem, State.updCluster_mem]

@[simp] theorem State.clearDead_mem (s : State) (cl : Nat) : (s.clearDead cl).mem = s.mem := by
  unfold State.clearDead
  grind -linarith [State.updCore_mem, foldl_mem]

@[simp] theorem State.skidWrite_mem (s : State) (arm : Bool) : (s.skidWrite arm).mem = s.mem := rfl

theorem State.spread_wf {cl : Nat} (hs : s.mem.wf = true) : (s.spread cl).mem.wf = true := by
  unfold State.spread
  grind -linarith [State.freeze_mem, State.updCluster_mem, State.traceAll_wf, foldl_wf]

theorem State.skidCapture_wf {cl : Nat} (hs : s.mem.wf = true) : (s.skidCapture cl).mem.wf = true := by
  unfold State.skidCapture
  grind -linarith [State.landLate_mem, State.updCluster_mem, State.spread_wf, State.pick_mem]

@[simp] theorem State.deliver_mem (s : State) (r : SkidReply) : (s.deliver r).mem = s.mem := by
  unfold State.deliver
  grind -linarith [State.endOp_mem]

@[simp] theorem State.drainSkid_mem (s : State) (cl : Nat) : (s.drainSkid cl).mem = s.mem := by
  unfold State.drainSkid
  grind -linarith [State.deliver_mem, State.updCluster_mem, foldl_mem]

theorem State.thaw_wf {cl : Nat} (hs : s.mem.wf = true) : (s.thaw cl).mem.wf = true := by
  unfold State.thaw
  grind -linarith [State.traceAll_wf, State.trace_wf, State.clearDead_mem, State.passHit_mem, State.drainSkid_mem,
    State.updCluster_mem]

theorem State.dbgResume_wf {cl : Nat} (hs : s.mem.wf = true) : (s.dbgResume cl).mem.wf = true := by
  unfold State.dbgResume
  grind -linarith [State.thaw_wf, foldl_wf]

@[simp] theorem State.stepFails_mem (s : State) (cl : Nat) : (s.stepFails cl).mem = s.mem := rfl

@[simp] theorem State.dbgStep_mem (s : State) (core slot : Nat) : (s.dbgStep core slot).mem = s.mem := by
  unfold State.dbgStep
  grind -linarith [State.clearDead_mem, State.updCore_mem, State.drainSkid_mem, State.updCluster_mem,
    State.stepFails_mem]

theorem State.finishOf_wf {core slot uid : Nat} (hs : s.mem.wf = true) : (s.finishOf core slot uid).mem.wf = true := by
  unfold State.finishOf
  grind -linarith [State.landStores_wf, State.endOp_mem, State.landLate_mem, foldl_mem]

theorem State.dbgStepLane_wf {s0 : State} {core slot lane : Nat} (hs0 : s0.mem.wf = true) :
    (s0.dbgStepLane core slot lane).mem.wf = true := by
  unfold State.dbgStepLane
  grind -linarith [State.dbgStep_mem, State.updCore_mem, State.drainSkid_mem, State.finishOf_wf, State.stepFails_mem]

@[simp] theorem State.refreeze_mem (s : State) (cl : Nat) (fail : Bool) : (s.refreeze cl fail).mem = s.mem := by
  unfold State.refreeze
  grind -linarith [State.updCore_mem, State.updCluster_mem, State.clearDead_mem]

@[simp] theorem State.endStep_mem (s : State) (cl : Nat) : (s.endStep cl).mem = s.mem := by
  unfold State.endStep
  grind -linarith [State.refreeze_mem]

theorem State.gate_wf {cl : Nat} (hs : s.mem.wf = true) : (s.gate cl).mem.wf = true := by
  unfold State.gate
  grind -linarith [State.freeze_mem, State.updCluster_mem, State.clearDead_mem, State.traceAll_wf]

theorem State.preciseStop_wf (hs : s.mem.wf = true) : s.preciseStop.mem.wf = true := by
  unfold State.preciseStop
  grind -linarith [State.gate_wf, foldl_wf]

@[simp] theorem State.spendArm_mem (s : State) : s.spendArm.mem = s.mem := by
  unfold State.spendArm
  grind -linarith

@[simp] theorem State.arm_mem (s : State) : s.arm.mem = s.mem := by
  unfold State.arm
  grind -linarith [State.spendArm_mem]

@[simp] theorem State.disarm_mem (s : State) : s.disarm.mem = s.mem := rfl

@[simp] theorem State.dbgCtl_mem (s : State) (c : Nat) (x : DWord) : (s.dbgCtl c x).mem = s.mem := by
  unfold State.dbgCtl
  grind -linarith [State.updCluster_mem, State.updCtx_mem, foldl_mem]

theorem State.traceBase_wf {c base : Nat} (hs : s.mem.wf = true) : (s.traceBase c base).mem.wf = true := by
  unfold State.traceBase
  grind -linarith [Memory.agentWrite_wf]

@[simp] theorem State.sampleWhy_mem (s : State) (core : Nat) (w : Wave) : (s.sampleWhy core w).2.mem = s.mem := by
  unfold State.sampleWhy
  grind -linarith [State.pick_mem]

theorem State.sample_wf {core ctx : Nat} (hs : s.mem.wf = true) : (s.sample core ctx).mem.wf = true := by
  unfold State.sample
  grind -linarith [State.updCore_mem, State.trace_wf, State.sampleWhy_mem, State.updCtx_mem]

theorem State.samples_wf {cl : Nat} (hs : s.mem.wf = true) : (s.samples cl).mem.wf = true := by
  unfold State.samples
  grind -linarith [State.sample_wf, foldl_wf]

/-! ### The Rill links -/

theorem State.failReq_wf {q : RillReq} (hs : s.mem.wf = true) : (s.failReq q).mem.wf = true := by
  unfold State.failReq
  grind -linarith [State.failEntry_wf, State.endGrid_wf, State.raise_wf]

theorem State.takeBack_wf {l : List RillReq} (hs : s.mem.wf = true) : (s.takeBack l).mem.wf = true := by
  unfold State.takeBack
  grind -linarith [Memory.arriveHome_wf, foldl_wf, Memory.wf]

theorem State.endPair_wf {st : BitVec 3} (hs : s.mem.wf = true) : (s.endPair st).mem.wf = true := by
  unfold State.endPair
  grind -linarith [State.updRill_mem, State.takeBack_wf, State.failReq_wf, State.pick_mem, foldl_wf]

theorem execRillResponseReceive_wf {tag : Word} (hs : s.mem.wf = true) : NextWf (execRillResponseReceive tag s) := by
  unfold execRillResponseReceive
  grind -linarith [State.updRill_mem, nextWf_next]

theorem execRillRetransmit_wf {tag : Word} (hs : s.mem.wf = true) : NextWf (execRillRetransmit tag s) := by
  unfold execRillRetransmit
  grind -linarith [State.updRill_mem, nextWf_next]

theorem execLinkRetrain_wf (hs : s.mem.wf = true) : NextWf (execLinkRetrain s) := by
  unfold execLinkRetrain
  grind -linarith [State.updRill_mem, nextWf_next]

theorem execRillLinkFailure_wf (hs : s.mem.wf = true) : NextWf (execRillLinkFailure s) := by
  unfold execRillLinkFailure
  grind -linarith [State.endPair_wf, nextWf_next]

theorem execHostReadComplete_wf {x : Nat} (hs : s.mem.wf = true) : NextWf (execHostReadComplete x s) := by
  unfold execHostReadComplete
  grind -linarith [State.updRill_mem, nextWf_next]

theorem State.mergeAdd_wf {a : Nat} {x : Word} (hs : s.mem.wf = true) : (s.mergeAdd a x).mem.wf = true :=
  Memory.arriveD_keeps_wf hs

theorem State.mergePair_wf {task a : Nat} {x : Word} (hs : s.mem.wf = true) : (s.mergePair task a x).mem.wf = true := by
  unfold State.mergePair
  grind -linarith [State.mergeAdd_wf, State.updRill_mem]

theorem State.mergeFlush_wf {task : Nat} (hs : s.mem.wf = true) : (s.mergeFlush task).mem.wf = true := by
  unfold State.mergeFlush
  grind -linarith [State.updRill_mem, State.mergeAdd_wf, foldl_wf]

theorem State.peerWrite_wf {l : List (Nat × Byte)} {step : Bool} (hs : s.mem.wf = true) :
    (s.peerWrite l step).mem.wf = true :=
  Memory.arriveD_keeps_wf hs

theorem State.applyReq_wf {x : PeerReq} (hs : s.mem.wf = true) : (s.applyReq x).2.mem.wf = true := by
  unfold State.applyReq
  grind -linarith [State.mergeFlush_wf, State.mergePair_wf, State.peerWrite_wf]

theorem applyEarly_wf {n : Nat} (hs : s.mem.wf = true) : (applyEarly n s).mem.wf = true := by
  fun_induction applyEarly n s <;> grind -linarith [State.updRill_mem, State.applyReq_wf]

theorem State.receive_wf {t : Nat} {x : PeerReq} (hs : s.mem.wf = true) : (s.receive t x).mem.wf = true := by
  unfold State.receive
  grind -linarith [applyEarly_wf, State.updRill_mem]

@[simp] theorem State.acknowledged_mem (s : State) (t : Nat) : (s.acknowledged t).mem = s.mem := rfl

theorem execRillRequestReceive_wf {tag : Word} {payload : Nat} (hs : s.mem.wf = true) :
    NextWf (execRillRequestReceive tag payload s) := by
  unfold execRillRequestReceive
  grind -linarith [State.receive_wf, State.acknowledged_mem, nextWf_next]

theorem execMergePair_wf {task : PeerTask} {addr : Nat} {x : Word} (hs : s.mem.wf = true) :
    NextWf (execMergePair task addr x s) := by
  unfold execMergePair
  grind -linarith [State.receive_wf, nextWf_next]

theorem execMergeFlush_wf {task : PeerTask} (hs : s.mem.wf = true) : NextWf (execMergeFlush task s) := by
  unfold execMergeFlush
  grind -linarith [State.receive_wf, nextWf_next]

@[simp] theorem State.pair_mem (s : State) : s.pair.mem = s.mem := by
  unfold State.pair
  grind -linarith [State.updRill_mem]

theorem State.unpair_wf (hs : s.mem.wf = true) : s.unpair.mem.wf = true := by
  unfold State.unpair
  grind -linarith [State.endPair_wf]

theorem execRillPaired_wf {peer : DWord} {cap : BitVec 20} {tick : Nat} {lanes : BitVec 6} (hs : s.mem.wf = true) :
    NextWf (execRillPaired peer cap tick lanes s) := by
  unfold execRillPaired
  grind -linarith [State.updRill_mem, nextWf_next]

/-! ### Device registers -/

theorem fwOnly_eq_ok {w : Who} {same : Bool} {k : RegRes} {t : State} (e : fwOnly w same k = .ok t) : k = .ok t := by
  unfold fwOnly at e
  grind -linarith

@[simp] theorem State.acked_mem (s : State) (w : Who) (vs : List Nat) : (s.acked w vs).mem = s.mem := by
  unfold State.acked
  grind -linarith

theorem State.qhead_wf {w : Who} {x : DWord} (hs : s.mem.wf = true) : (s.qhead w x).mem.wf = true := by
  unfold State.qhead
  grind -linarith [State.setDev_mem, State.acked_mem, State.drainHost_wf]

theorem State.qdone_wf {x : DWord} (hs : s.mem.wf = true) : (s.qdone x).mem.wf = true := by
  unfold State.qdone
  grind -linarith [State.resolvePage_wf]

theorem State.doorbell_wf {f : Nat} (hs : s.mem.wf = true) : (s.doorbell f).mem.wf = true := State.post_wf hs

theorem State.devWrite_wf {w : Who} {n : Nat} {x : DWord} {t : State} (e : s.devWrite w n x = .ok t)
    (hs : s.mem.wf = true) : t.mem.wf = true := by
  unfold State.devWrite at e
  grind -linarith [State.spendArm_mem, State.setDev_mem, State.acked_mem, State.qdone_wf, State.qhead_wf,
    State.unpair_wf, State.pair_mem, State.skidWrite_mem, → fwOnly_eq_ok]

@[simp] theorem State.partCfg_mem (s : State) (w : Who) (f : Nat) (x : DWord) {t : State}
    (e : s.partCfg w f x = .ok t) : t.mem = s.mem := by
  unfold State.partCfg at e
  grind -linarith [State.updPart_mem, → fwOnly_eq_ok]

theorem State.partWrite_wf {w : Who} {n f : Nat} {x : DWord} {t : State} (e : s.partWrite w n f x = .ok t)
    (hs : s.mem.wf = true) : t.mem.wf = true := by
  unfold State.partWrite at e
  grind -linarith [State.updPart_mem, → State.partCfg_mem, State.doorbell_wf]

theorem State.dbgCmd_wf {w : Who} {cl : Nat} {x : DWord} {t : State} (e : s.dbgCmd w cl x = .ok t)
    (hs : s.mem.wf = true) : t.mem.wf = true := by
  unfold State.dbgCmd at e
  grind -linarith [State.disarm_mem, State.arm_mem, → fwOnly_eq_ok, State.dbgStepLane_wf, State.dbgStep_mem,
    State.dbgResume_wf]

theorem State.clusterWrite_wf {w : Who} {n i : Nat} {x : DWord} {t : State} (e : s.clusterWrite w n i x = .ok t)
    (hs : s.mem.wf = true) : t.mem.wf = true := by
  unfold State.clusterWrite at e
  grind -linarith [→ State.dbgCmd_wf, State.updCluster_mem]

@[simp] theorem State.ctxCtl_mem (s : State) (w : Who) (i : Nat) (x : DWord) {t : State} (e : s.ctxCtl w i x = .ok t) :
    t.mem = s.mem := by
  unfold State.ctxCtl at e
  grind -linarith [State.reqStop_mem, State.reqRun_mem, State.setWeight_mem, State.movePart_mem, State.unbindCtx_mem,
    State.bindCtx_mem, → fwOnly_eq_ok, State.updCtx_mem]

@[simp] theorem State.streamWrite_mem (s : State) (n i : Nat) (x : DWord) {t : State}
    (e : s.streamWrite n i x = .ok t) : t.mem = s.mem := by
  unfold State.streamWrite at e
  grind -linarith [State.updCtx_mem]

theorem State.dbgWrite_wf {n i : Nat} {x : DWord} {t : State} (e : s.dbgWrite n i x = .ok t) (hs : s.mem.wf = true) :
    t.mem.wf = true := by
  unfold State.dbgWrite at e
  grind -linarith [State.traceBase_wf, State.dbgCtl_mem, State.updCtx_mem]

theorem State.ctxWrite_wf {w : Who} {n i : Nat} {x : DWord} {t : State} (e : s.ctxWrite w n i x = .ok t)
    (hs : s.mem.wf = true) : t.mem.wf = true := by
  unfold State.ctxWrite at e
  grind -linarith [→ State.dbgWrite_wf, State.dropKept_mem, State.updCtx_mem, → State.streamWrite_mem,
    → State.ctxCtl_mem]

theorem State.regWrite_wf {w : Who} {n i : Nat} {x : DWord} {t : State} (e : s.regWrite w n i x = .ok t)
    (hs : s.mem.wf = true) : t.mem.wf = true := by
  unfold State.regWrite at e
  grind -linarith [→ State.ctxWrite_wf, → State.clusterWrite_wf, → State.partWrite_wf, → State.devWrite_wf]

theorem State.hostWrite_wf {n i : Nat} {x : DWord} (hs : s.mem.wf = true) : (s.hostWrite n i x).mem.wf = true := by
  unfold State.hostWrite
  grind -linarith [→ State.regWrite_wf]

theorem State.bar0Write_wf {w : Nat} {x : DWord} (hs : s.mem.wf = true) : (s.bar0Write w x).mem.wf = true := by
  unfold State.bar0Write
  grind -linarith [State.hostWrite_wf]

theorem State.fwWrite_wf {n i : Nat} {x : DWord} (hs : s.mem.wf = true) : (s.fwWrite n i x).mem.wf = true := by
  unfold State.fwWrite
  grind -linarith [→ State.regWrite_wf]

theorem execRegisterWrite_wf {x : RegWrite} (hs : s.mem.wf = true) : NextWf (execRegisterWrite x s) :=
  nextWf_next.mpr (State.bar0Write_wf hs)

theorem execCtxReqRun_wf {ctx : BitVec 6} (hs : s.mem.wf = true) : NextWf (execCtxReqRun ctx s) := by
  unfold execCtxReqRun
  grind -linarith [State.hostWrite_wf, nextWf_next]

theorem execCtxReqStop_wf {ctx : BitVec 6} (hs : s.mem.wf = true) : NextWf (execCtxReqStop ctx s) := by
  unfold execCtxReqStop
  grind -linarith [State.hostWrite_wf, nextWf_next]

theorem execCtxBoundSet_wf {ctx : BitVec 6} {part : BitVec 4} (hs : s.mem.wf = true) :
    NextWf (execCtxBoundSet ctx part s) := by
  unfold execCtxBoundSet
  grind -linarith [State.fwWrite_wf, nextWf_next]

theorem execCtxBoundClear_wf {ctx : BitVec 6} (hs : s.mem.wf = true) : NextWf (execCtxBoundClear ctx s) := by
  unfold execCtxBoundClear
  grind -linarith [State.fwWrite_wf, nextWf_next]

theorem execCtxWeightWrite_wf {ctx : BitVec 6} {w : BitVec 8} (hs : s.mem.wf = true) :
    NextWf (execCtxWeightWrite ctx w s) := by
  unfold execCtxWeightWrite
  grind -linarith [State.hostWrite_wf, nextWf_next]

theorem execStreamResume_wf {ctx : BitVec 6} (hs : s.mem.wf = true) : NextWf (execStreamResume ctx s) := by
  unfold execStreamResume
  grind -linarith [State.hostWrite_wf, nextWf_next]

theorem execCtxSpcWrite_wf {ctx : BitVec 6} {x : DWord} (hs : s.mem.wf = true) : NextWf (execCtxSpcWrite ctx x s) := by
  unfold execCtxSpcWrite
  grind -linarith [State.hostWrite_wf, nextWf_next]

theorem execStreamLimitWrite_wf {ctx : BitVec 6} {x : DWord} (hs : s.mem.wf = true) :
    NextWf (execStreamLimitWrite ctx x s) := by
  unfold execStreamLimitWrite
  grind -linarith [State.hostWrite_wf, nextWf_next]

theorem execArenaWrite_wf {ctx : BitVec 6} {base size : DWord} (hs : s.mem.wf = true) :
    NextWf (execArenaWrite ctx base size s) := by
  unfold execArenaWrite
  grind -linarith [State.hostWrite_wf, nextWf_next]

theorem execPartCfgWrite_wf {f : BitVec 4} {x : DWord} (hs : s.mem.wf = true) : NextWf (execPartCfgWrite f x s) := by
  unfold execPartCfgWrite
  grind -linarith [State.fwWrite_wf, nextWf_next]

theorem execClModeWrite_wf {cl : BitVec 4} {x : DWord} (hs : s.mem.wf = true) : NextWf (execClModeWrite cl x s) := by
  unfold execClModeWrite
  grind -linarith [State.hostWrite_wf, nextWf_next]

theorem execResidencyWrite_wf {ctx : BitVec 6} {n : BitVec 3} {x : DWord} (hs : s.mem.wf = true) :
    NextWf (execResidencyWrite ctx n x s) := by
  unfold execResidencyWrite
  grind -linarith [State.hostWrite_wf, nextWf_next]

theorem execHostQdone_wf {x : DWord} (hs : s.mem.wf = true) : NextWf (execHostQdone x s) := by
  unfold execHostQdone
  grind -linarith [State.hostWrite_wf, nextWf_next]

theorem execHostQheadWrite_wf {x : DWord} (hs : s.mem.wf = true) : NextWf (execHostQheadWrite x s) := by
  unfold execHostQheadWrite
  grind -linarith [State.hostWrite_wf, nextWf_next]

theorem execHostDoorbell_wf {f : BitVec 4} (hs : s.mem.wf = true) : NextWf (execHostDoorbell f s) := by
  unfold execHostDoorbell
  grind -linarith [State.hostWrite_wf, nextWf_next]

theorem execHostSigpendClear_wf {x : DWord} (hs : s.mem.wf = true) : NextWf (execHostSigpendClear x s) := by
  unfold execHostSigpendClear
  grind -linarith [State.hostWrite_wf, nextWf_next]

theorem execHostIrqpendClear_wf {x : DWord} (hs : s.mem.wf = true) : NextWf (execHostIrqpendClear x s) := by
  unfold execHostIrqpendClear
  grind -linarith [State.hostWrite_wf, nextWf_next]

theorem execRillPair_wf (hs : s.mem.wf = true) : NextWf (execRillPair s) := by
  unfold execRillPair
  grind -linarith [State.fwWrite_wf, nextWf_next]

theorem execRillUnpair_wf (hs : s.mem.wf = true) : NextWf (execRillUnpair s) := by
  unfold execRillUnpair
  grind -linarith [State.fwWrite_wf, nextWf_next]

theorem execDevSkidWrite_wf {x : DWord} (hs : s.mem.wf = true) : NextWf (execDevSkidWrite x s) := by
  unfold execDevSkidWrite
  grind -linarith [State.fwWrite_wf, nextWf_next]

theorem execSkidActive_wf (hs : s.mem.wf = true) : NextWf (execSkidActive s) := by
  unfold execSkidActive
  grind -linarith [nextWf_next]

theorem execSkidDisarmApply_wf (hs : s.mem.wf = true) : NextWf (execSkidDisarmApply s) := by
  unfold execSkidDisarmApply
  grind -linarith [nextWf_next]

theorem execSkidReplyCapture_wf {cl : BitVec 4} (hs : s.mem.wf = true) : NextWf (execSkidReplyCapture cl s) := by
  unfold execSkidReplyCapture
  grind -linarith [State.skidCapture_wf, nextWf_next]

theorem execDbgCtlWrite_wf {ctx : BitVec 6} {x : DWord} (hs : s.mem.wf = true) : NextWf (execDbgCtlWrite ctx x s) := by
  unfold execDbgCtlWrite
  grind -linarith [State.hostWrite_wf, nextWf_next]

theorem execDbgTraceBaseWrite_wf {ctx : BitVec 6} {x : DWord} (hs : s.mem.wf = true) :
    NextWf (execDbgTraceBaseWrite ctx x s) := by
  unfold execDbgTraceBaseWrite
  grind -linarith [State.hostWrite_wf, nextWf_next]

theorem execDbgResume_wf {cl : BitVec 4} (hs : s.mem.wf = true) : NextWf (execDbgResume cl s) := by
  unfold execDbgResume
  grind -linarith [State.hostWrite_wf, nextWf_next]

theorem execDbgStep_wf {x : SlotId} (hs : s.mem.wf = true) : NextWf (execDbgStep x s) := by
  unfold execDbgStep
  grind -linarith [State.hostWrite_wf, nextWf_next]

theorem execDbgStepLane_wf {x : LaneId} (hs : s.mem.wf = true) : NextWf (execDbgStepLane x s) := by
  unfold execDbgStepLane
  grind -linarith [State.hostWrite_wf, nextWf_next]

theorem execDbgArmStop_wf (hs : s.mem.wf = true) : NextWf (execDbgArmStop s) := by
  unfold execDbgArmStop
  grind -linarith [State.fwWrite_wf, nextWf_next]

theorem execDbgDisarm_wf (hs : s.mem.wf = true) : NextWf (execDbgDisarm s) := by
  unfold execDbgDisarm
  grind -linarith [State.fwWrite_wf, nextWf_next]

theorem execStepComplete_wf {cl : BitVec 4} (hs : s.mem.wf = true) : NextWf (execStepComplete cl s) := by
  unfold execStepComplete
  grind -linarith [State.refreeze_mem, nextWf_next]

theorem execStepTimeout_wf {cl : BitVec 4} (hs : s.mem.wf = true) : NextWf (execStepTimeout cl s) := by
  unfold execStepTimeout
  grind -linarith [State.refreeze_mem, nextWf_next]

theorem execPreciseStop_wf (hs : s.mem.wf = true) : NextWf (execPreciseStop s) := by
  unfold execPreciseStop
  grind -linarith [State.preciseStop_wf, nextWf_next]

theorem execSampleRecord_wf {x : CoreId} {ctx : BitVec 6} (hs : s.mem.wf = true) :
    NextWf (execSampleRecord x ctx s) := by
  unfold execSampleRecord
  grind -linarith [State.sample_wf, State.live_wf, nextWf_next]

/-! ### Scheduling -/

@[simp] theorem State.addBlock_mem (s : State) (kid idx gang core : Nat) (r : LaunchRec) :
    (s.addBlock kid idx gang core r).mem = s.mem :=
  rfl

theorem State.fileBlock_wf {g : Grid} {uid idx cl : Nat} (hs : s.mem.wf = true) :
    (s.fileBlock g uid idx cl).mem.wf = true := by
  unfold State.fileBlock
  grind -linarith [State.file_wf, foldl_wf]

@[simp] theorem placeBlocks_mem (g : Grid) (gang cl : Nat) (l : List Nat) (s : State) {t : State}
    (e : placeBlocks g gang cl l s = some t) : t.mem = s.mem := by
  fun_induction placeBlocks g gang cl l s generalizing t <;> grind -linarith [State.addBlock_mem]

theorem State.gangSite_mem {f : Nat} {g : Grid} {n : Nat} {t : Nat × State} (e : s.gangSite f g n = some t) :
    t.2.mem = s.mem := by
  refine List.foldlRecOn _ _ (motive := fun o => ∀ t, o = some t → t.2.mem = s.mem) ?_ ?_ t e
  · simp
  · intro o ho cl _ t e
    split at e
    · exact ho t e
    next s1 h1 =>
      have hs1 := placeBlocks_mem _ _ _ _ _ h1
      grind -linarith

theorem State.placeGang_wf {f : Nat} {g : Grid} {n : Nat} {t : State} (e : s.placeGang f g n = some t)
    (hs : s.mem.wf = true) : t.mem.wf = true := by
  unfold State.placeGang at e
  grind -linarith [State.trace_wf, State.updPart_mem, State.updGrid_mem, State.fileBlock_wf, → State.gangSite_mem,
    foldl_wf]

@[simp] theorem State.orderTo_mem (s : State) (n : Nat) : (s.orderTo n).mem = s.mem := rfl

@[simp] theorem State.ageGangs_mem (s : State) (f : Nat) : (s.ageGangs f).mem = s.mem := rfl

@[simp] theorem State.expireGangs_mem (s : State) (f : Nat) : (s.expireGangs f).mem = s.mem := rfl

theorem execGangPriorityAge_wf {part : BitVec 4} (hs : s.mem.wf = true) : NextWf (execGangPriorityAge part s) := by
  unfold execGangPriorityAge
  grind -linarith [State.ageGangs_mem, nextWf_next]

theorem execGangFallbackExpiry_wf {part : BitVec 4} (hs : s.mem.wf = true) :
    NextWf (execGangFallbackExpiry part s) := by
  unfold execGangFallbackExpiry
  grind -linarith [State.expireGangs_mem, nextWf_next]

theorem State.unplaceable_wf {g : Grid} (hs : s.mem.wf = true) : (s.unplaceable g).mem.wf = true := State.endGrid_wf hs

theorem State.testGrid_wf {f : Nat} {g : Grid} (hs : s.mem.wf = true) : (s.testGrid f g).mem.wf = true := by
  unfold State.testGrid
  grind -linarith [State.unplaceable_wf, State.updGrid_mem]

@[simp] theorem State.notePlaced_mem (s : State) (f : Nat) : (s.notePlaced f).mem = s.mem := rfl

theorem tryGangs_wf {f : Nat} {l : List Grid} (hs : s.mem.wf = true) : (tryGangs f l s).mem.wf = true := by
  fun_induction tryGangs f l s <;> grind -linarith [State.updGrid_mem, State.notePlaced_mem, State.placeGang_wf,
    State.testGrid_wf]

@[simp] theorem State.checkReserved_mem (s : State) (f : Nat) : (s.checkReserved f).mem = s.mem := rfl

theorem execGangPlacement_wf {part : BitVec 4} (hs : s.mem.wf = true) : NextWf (execGangPlacement part s) := by
  unfold execGangPlacement
  grind -linarith [tryGangs_wf, State.ageGangs_mem, State.expireGangs_mem, State.checkReserved_mem, State.orderTo_mem,
    nextWf_next]

theorem execClusterReservation_wf {part : BitVec 4} (hs : s.mem.wf = true) :
    NextWf (execClusterReservation part s) := by
  unfold execClusterReservation
  grind -linarith [State.updPart_mem, State.ageGangs_mem, State.checkReserved_mem, nextWf_next]

theorem execContextFairnessStop_wf {part : BitVec 4} (hs : s.mem.wf = true) :
    NextWf (execContextFairnessStop part s) := by
  unfold execContextFairnessStop
  grind -linarith [State.reqStop_mem, State.updCtx_mem, State.updPart_mem, nextWf_next]

theorem execContextFairnessRun_wf {part : BitVec 4} (hs : s.mem.wf = true) :
    NextWf (execContextFairnessRun part s) := by
  unfold execContextFairnessRun
  grind -linarith [State.reqRun_mem, State.updPart_mem, nextWf_next]

theorem execBinAged_wf {x : ClItem} (hs : s.mem.wf = true) : NextWf (execBinAged x s) := by
  unfold execBinAged
  grind -linarith [State.updCluster_mem, State.live_wf, nextWf_next]

@[simp] theorem State.starveBins_mem (s : State) (cl : Nat) : (s.starveBins cl).mem = s.mem := rfl

theorem execBinStarved_wf {x : ClItem} (hs : s.mem.wf = true) : NextWf (execBinStarved x s) := by
  unfold execBinStarved
  grind -linarith [State.updCluster_mem, State.live_wf, nextWf_next]

@[simp] theorem State.noteSent_mem (s : State) (core : Nat) : (s.noteSent core).mem = s.mem := rfl

theorem State.dispatchBin_wf {cl n core : Nat} {b : Bin} (hs : s.mem.wf = true) :
    (s.dispatchBin cl n core b).mem.wf = true := by
  unfold State.dispatchBin
  grind -linarith [State.event_wf, State.updCore_mem, State.noteTaken_mem, State.noteSent_mem, State.updCluster_mem]

theorem execBinIssue_wf {x : ClItem} (hs : s.mem.wf = true) : NextWf (execBinIssue x s) := by
  unfold execBinIssue
  grind -linarith [State.dispatchBin_wf, State.live_wf, nextWf_next]

theorem execDispatchComplete_wf {x : SlotId} (hs : s.mem.wf = true) : NextWf (execDispatchComplete x s) := by
  unfold execDispatchComplete
  grind -linarith [State.updCore_mem, State.live_wf, nextWf_next]

theorem execRecordBinned_wf {c4 : BitVec 4} (hs : s.mem.wf = true) : NextWf (execRecordBinned c4 s) := by
  unfold execRecordBinned
  grind -linarith [State.updCluster_mem, State.live_wf, nextWf_next]

theorem execSpilledRecordReturn_wf {c4 : BitVec 4} (hs : s.mem.wf = true) : NextWf (execSpilledRecordReturn c4 s) := by
  unfold execSpilledRecordReturn
  grind -linarith [State.updCluster_mem, State.live_wf, nextWf_next]

theorem execLaneFiled_wf {x : LaneId} {s0 : State} (hs0 : s0.mem.wf = true) : NextWf (execLaneFiled x s0) := by
  refine State.live_wf hs0 ?_
  dsimp only
  split
  · exact nextWf_next.mpr hs0
  generalize hs : (@ite State _ (instDecidableEqBool _ true) (s0.settle _ _ _) s0) = s
  have hs : s.mem.wf = true := by grind -linarith [State.settle_wf]
  grind -linarith [State.putWave_mem, State.updCore_mem, → State.fileBasin_mem, nextWf_next]

theorem execBasinAged_wf {x : CoreItem} (hs : s.mem.wf = true) : NextWf (execBasinAged x s) := by
  unfold execBasinAged
  grind -linarith [State.updCore_mem, State.live_wf, nextWf_next]

theorem State.drawBasin_wf {core n slot : Nat} {b : Basin} (hs : s.mem.wf = true) :
    (s.drawBasin core n slot b).mem.wf = true :=
  State.event_wf hs

theorem execBasinDraw_wf {x : CoreItem} (hs : s.mem.wf = true) : NextWf (execBasinDraw x s) := by
  unfold execBasinDraw
  grind -linarith [State.drawBasin_wf, State.live_wf, nextWf_next]

theorem execElevatedPriority_wf {x : SlotId} (hs : s.mem.wf = true) : NextWf (execElevatedPriority x s) := by
  unfold execElevatedPriority
  grind -linarith [State.updCore_mem, State.live_wf, nextWf_next]

@[simp] theorem State.updWaiting_mem (s : State) (cl n : Nat) (f : Thread → Thread) :
    (s.updWaiting cl n f).mem = s.mem :=
  rfl

@[simp] theorem State.awaitBack_mem (s : State) (cl : Nat) (t : Thread) : (s.awaitBack cl t).mem = s.mem := by
  unfold State.awaitBack
  grind -linarith [State.updCluster_mem, State.binWaiting_mem]

theorem State.awaitPage_wf {ctx va level : Nat} {kind : Access} {t : Thread} (hs : s.mem.wf = true) :
    (s.awaitPage ctx va level kind t).mem.wf = true :=
  State.pageFault_wf hs

theorem State.awaitRun_wf {cl n ctx : Nat} {t : Thread} (hs : s.mem.wf = true) :
    (s.awaitRun cl n ctx t).mem.wf = true := by
  unfold State.awaitRun
  grind -linarith [State.input_wf, State.updWaiting_mem, State.binWaiting_mem, State.farLoads_mem, State.loadAll_mem,
    → logWalk_wf, State.awaitBack_mem, State.awaitPage_wf, State.unitPa_wf]

theorem execAwaitSample_wf {x : ClItem} (hs : s.mem.wf = true) : NextWf (execAwaitSample x s) := by
  unfold execAwaitSample
  grind -linarith [State.awaitRun_wf, State.live_wf, nextWf_next]

theorem State.endOverflow_wf {b : Block} {l : Level} (hs : s.mem.wf = true) : (s.endOverflow b l).mem.wf = true :=
  State.endGrid_wf hs

theorem State.freeBlock_wf {b : Block} (hs : s.mem.wf = true) : (s.freeBlock b).mem.wf = true := by
  unfold State.freeBlock
  grind -linarith [State.trace_wf, State.updGrid_mem, Memory.wf]

theorem State.endMiss_wf {b : Block} {e : UnitErr} {kind : Access} (hs : s.mem.wf = true) :
    (s.endMiss b e kind).mem.wf = true := by
  unfold State.endMiss
  grind -linarith [State.endGrid_wf, State.pageFault_wf]

theorem State.endBlock_wf {b : Block} (hs : s.mem.wf = true) : (s.endBlock b).mem.wf = true := by
  unfold State.endBlock
  grind -linarith [State.updGrid_mem, State.endMiss_wf, → State.walkLog_wf, Memory.stepD_wf, State.endOverflow_wf,
    → Memory.stepInto_wf, State.freeBlock_wf]

theorem execBlockEnd_wf {x : CoreItem} (hs : s.mem.wf = true) : NextWf (execBlockEnd x s) := by
  unfold execBlockEnd
  grind -linarith [State.endBlock_wf, State.live_wf, nextWf_next]

theorem execCacheModeApply_wf {c4 : BitVec 4} (hs : s.mem.wf = true) : NextWf (execCacheModeApply c4 s) := by
  unfold execCacheModeApply
  grind -linarith [State.updCluster_mem, State.live_wf, nextWf_next]

theorem execSareaApply_wf {x : CoreId} (hs : s.mem.wf = true) : NextWf (execSareaApply x s) := by
  unfold execSareaApply
  grind -linarith [State.updCore_mem, nextWf_next]

theorem execRayRecordWrite_wf {kid : Nat} (hs : s.mem.wf = true) : NextWf (execRayRecordWrite kid s) := by
  unfold execRayRecordWrite
  grind -linarith [State.trace_wf, State.file_wf, State.updGrid_mem, State.live_wf, nextWf_next]

/-! ### Traversal -/

@[simp] theorem State.travUnit_mem (s : State) (cl : Nat) : (s.travUnit cl).2.mem = s.mem := rfl

@[simp] theorem State.copyRead_mem (s : State) (x : TravUnit) (ctx va : Nat) (node : Bool) (pas : List Nat) :
    (s.copyRead x ctx va node pas).2.mem = s.mem := by
  unfold State.copyRead
  grind -linarith [State.reach_mem, State.farRead_mem, State.trimData_mem, State.updCluster_mem, State.pick_mem]

theorem State.putTreelet_wf {cl pa : Nat} (hs : s.mem.wf = true) : (s.putTreelet cl pa).mem.wf = true := by
  unfold State.putTreelet
  grind -linarith [State.updCluster_mem, State.pickFrom_mem]

theorem State.readHere_wf {x : TravUnit} {ctx va n : Nat} {node : Bool} (hs : s.mem.wf = true) :
    (State.readHere x ctx va n node s).2.mem.wf = true := by
  unfold State.readHere
  grind -linarith [State.copyRead_mem, State.unitPas_wf]

theorem State.readOnce_wf {x : TravUnit} {ctx va n : Nat} {node : Bool} (hs : s.mem.wf = true) :
    (s.readOnce x ctx va n node).2.mem.wf = true := by
  unfold State.readOnce
  grind -linarith [State.readHere_wf, State.once_wf]

theorem State.readRec_wf {x : TravUnit} {ctx va n : Nat} (hs : s.mem.wf = true) :
    (s.readRec x ctx va n).2.mem.wf = true :=
  State.readOnce_wf hs

theorem State.readNode_wf {x : TravUnit} {ctx va : Nat} (hs : s.mem.wf = true) :
    (s.readNode x ctx va).2.mem.wf = true :=
  State.readOnce_wf hs

theorem TravRun.readInst_wf {x : TravRun} {i : Nat} (hs : s.mem.wf = true) : (x.readInst s i).2.mem.wf = true := by
  unfold TravRun.readInst
  grind -linarith [State.readRec_wf]

theorem rankGo_wf {x : TravRun} {bs : List Byte} {l : List Nat} {l1 : List Child} (hs : s.mem.wf = true) :
    (rankGo x bs l s l1).2.mem.wf = true := by
  fun_induction rankGo x bs l s l1 <;> grind -linarith [TravRun.readInst_wf]

theorem TravRun.visit_wf {x : TravRun} {node l : Nat} (hs : s.mem.wf = true) : (x.visit s node l).2.mem.wf = true := by
  unfold TravRun.visit
  grind -linarith [rankGo_wf, State.readNode_wf]

theorem TravRun.visitEnter_wf {x : TravRun} {node l : Nat} {stand : RayPart} (hs : s.mem.wf = true) :
    (x.visitEnter s node l stand).2.mem.wf = true := by
  unfold TravRun.visitEnter
  grind -linarith [TravRun.visit_wf]

theorem TravRun.intoInst_wf {x : TravRun} {i : Nat} {rec' : AsInst} (hs : s.mem.wf = true) :
    (x.intoInst s i rec').2.mem.wf = true := by
  unfold TravRun.intoInst
  grind -linarith [State.readRec_wf]

theorem TravRun.shaderPc_wf {x : TravRun} {id field : Nat} (hs : s.mem.wf = true) :
    (x.shaderPc s id field).2.mem.wf = true := by
  unfold TravRun.shaderPc
  grind -linarith [State.readRec_wf]

theorem TravRun.leafGo_wf {n : Nat} {x : TravRun} {x1 : StackEntry} {x2 : AsInst} {n1 n2 : Nat} (hs : s.mem.wf = true) :
    (TravRun.leafGo n x s x1 x2 n1 n2).2.mem.wf = true := by
  induction n generalizing x s n1 with
  | zero => exact hs
  | succ n ih =>
    unfold TravRun.leafGo
    grind -linarith [State.readRec_wf, TravRun.shaderPc_wf]

theorem revisitGo_wf {n : Nat} {x : TravRun} {n1 n2 n3 : Nat} {l : List (List Child × Bool)} (hs : s.mem.wf = true) :
    (revisitGo n x s n1 n2 n3 l).2.mem.wf = true := by
  fun_induction revisitGo n x s n1 n2 n3 l <;> grind -linarith
    [TravRun.intoInst_wf, TravRun.readInst_wf, TravRun.visit_wf]

theorem TravRun.doRestart_wf {x : TravRun} (hs : s.mem.wf = true) : (x.doRestart s).2.mem.wf = true := by
  unfold TravRun.doRestart
  grind -linarith [revisitGo_wf]

theorem TravRun.doFinish_wf {x : TravRun} {miss : Bool} (hs : s.mem.wf = true) :
    (x.doFinish s miss).2.mem.wf = true := by
  unfold TravRun.doFinish
  grind -linarith [TravRun.shaderPc_wf]

theorem TravRun.go_wf {x : TravRun} {e : StackEntry} (hs : s.mem.wf = true) : (x.go s e).2.mem.wf = true := by
  unfold TravRun.go
  grind -linarith [TravRun.intoInst_wf, TravRun.readInst_wf, TravRun.leafGo_wf, TravRun.visitEnter_wf]

theorem TravRun.begin_wf {x : TravRun} (hs : s.mem.wf = true) : (x.begin s).2.mem.wf = true := by
  unfold TravRun.begin
  grind -linarith [TravRun.intoInst_wf, TravRun.readInst_wf, TravRun.visitEnter_wf]

theorem TravRun.act_wf {x : TravRun} {x1 : TravDo} (hs : s.mem.wf = true) : (x.act s x1).2.mem.wf = true := by
  unfold TravRun.act
  grind -linarith [TravRun.doFinish_wf, TravRun.doRestart_wf, TravRun.go_wf, TravRun.begin_wf]

theorem travGo_wf {n : Nat} {x : TravRun} {x1 : TravDo} (hs : s.mem.wf = true) : (travGo n x s x1).2.mem.wf = true := by
  fun_induction travGo n x s x1 <;> grind -linarith [TravRun.act_wf]

theorem State.runFrom_wf {x : TravUnit} {ctx : Nat} {g : Grid} {t : Thread} {r : RayPart} {left : Option Nat}
    (hs : s.mem.wf = true) : (s.runFrom x ctx g t r left).2.mem.wf = true := by
  unfold State.runFrom
  grind -linarith [travGo_wf, State.readRec_wf]

theorem State.runRay_wf {x : TravUnit} {ctx : Nat} {g : Grid} {t : Thread} {r : RayPart} {left : Option Nat}
    (hs : s.mem.wf = true) : (s.runRay x ctx g t r left).2.mem.wf = true :=
  State.runFrom_wf hs

theorem State.fileTreelet_wf {cl : Nat} {t : Thread} {va : Nat} (hs : s.mem.wf = true) :
    (s.fileTreelet cl t va).mem.wf = true := by
  unfold State.fileTreelet
  grind -linarith [State.seat_wf, State.updCluster_mem]

theorem State.travErr_wf {core ctx : Nat} {g : Grid} {t : Thread} {e : UnitErr} (hs : s.mem.wf = true) :
    (s.travErr core ctx g t e).mem.wf = true := by
  unfold State.travErr
  grind -linarith [State.pageFault_wf, State.endGrid_wf]

theorem State.settleRay_wf {core ctx : Nat} {g : Grid} {t : Thread} {o : TravOut} (hs : s.mem.wf = true) :
    (s.settleRay core ctx g t o).mem.wf = true := by
  unfold State.settleRay
  grind -linarith [State.fileTreelet_wf, State.travErr_wf, State.file_wf, State.rayKey_wf, State.updCluster_mem]

theorem execTraversalRun_wf {x : ClItem} (hs : s.mem.wf = true) : NextWf (execTraversalRun x s) := by
  unfold execTraversalRun
  grind -linarith [State.settleRay_wf, State.runRay_wf, State.travUnit_mem, State.live_wf, nextWf_next]

theorem execStepBudgetStop_wf {x : ClItem} (hs : s.mem.wf = true) : NextWf (execStepBudgetStop x s) := by
  unfold execStepBudgetStop
  grind -linarith [State.settleRay_wf, State.runRay_wf, State.travUnit_mem, State.pick_mem, State.live_wf, nextWf_next]

theorem execTreeletFetchComplete_wf {x : ClItem} (hs : s.mem.wf = true) : NextWf (execTreeletFetchComplete x s) := by
  unfold execTreeletFetchComplete
  grind -linarith [State.updCluster_mem, State.putTreelet_wf, State.reachAll_mem, State.unitPa_wf, State.travUnit_mem,
    State.live_wf, nextWf_next]

/-! ### Save and restore -/

@[simp] theorem State.resumeCopies_mem (s : State) (core : Nat) (p : Copy → Bool) :
    (s.resumeCopies core p).mem = s.mem :=
  rfl

@[simp] theorem State.bringCopies_mem (s : State) (p : Copy → Bool) (dest core : Nat) :
    (s.bringCopies p dest core).mem = s.mem := by
  unfold State.bringCopies
  grind -linarith [State.updCore_mem]

@[simp] theorem State.rotateOut_mem (s : State) (core slot : Nat) (w : Wave) : (s.rotateOut core slot w).mem = s.mem :=
  rfl

theorem execWaveRotation_wf {x : SlotId} (hs : s.mem.wf = true) : NextWf (execWaveRotation x s) := by
  unfold execWaveRotation
  grind -linarith [State.rotateOut_mem, State.live_wf, nextWf_next]

theorem Memory.buffersTo_wf {m : Memory} {uids crews : List Nat} {core : Nat} (hm : m.wf = true) :
    (m.buffersTo uids crews core).wf = true := by
  unfold Memory.buffersTo
  grind -linarith [Memory.wf]

theorem State.waveIn_wf {core : Nat} {r : SavedWave} (hs : s.mem.wf = true) : (s.waveIn core r).mem.wf = true := by
  unfold State.waveIn
  grind -linarith [State.resumeCopies_mem, State.updCore_mem, Memory.buffersTo_wf, State.bringCopies_mem,
    State.noteTaken_mem, foldl_mem]

theorem execRotatedWaveRestore_wf {x : CoreItem} (hs : s.mem.wf = true) : NextWf (execRotatedWaveRestore x s) := by
  unfold execRotatedWaveRestore
  grind -linarith [State.waveIn_wf, State.updCluster_mem, State.noteSent_mem, State.live_wf, nextWf_next]

@[simp] theorem State.lift_mem (s : State) (b : Block) : (s.lift b).mem = s.mem := rfl

@[simp] theorem State.spill_mem (s : State) (b : Block) : (s.spill b).mem = s.mem := rfl

@[simp] theorem State.basinIn_mem (s : State) (core : Nat) (b : Basin) : (s.basinIn core b).mem = s.mem := by
  unfold State.basinIn
  grind -linarith [State.updCluster_mem, State.updCore_mem]

theorem State.settleBlock_wf {core : Nat} {b : Block} (hs : s.mem.wf = true) : (s.settleBlock core b).mem.wf = true :=
  Memory.buffersTo_wf hs

@[simp] theorem State.fixRecs_mem (s : State) (core : Nat) (b : Block) : (s.fixRecs core b).mem = s.mem := by
  unfold State.fixRecs
  grind -linarith [State.updCluster_mem]

@[simp] theorem State.basinsBack_mem (s : State) (core : Nat) (b : Block) : (s.basinsBack core b).mem = s.mem := by
  unfold State.basinsBack
  grind -linarith [State.basinIn_mem, foldl_mem]

@[simp] theorem State.copiesBack_mem (s : State) (core : Nat) (b : Block) : (s.copiesBack core b).mem = s.mem := rfl

theorem State.seatHeld_wf {cl : Nat} {p : SavedWave → Bool} (hs : s.mem.wf = true) :
    (s.seatHeld cl p).mem.wf = true := by
  unfold State.seatHeld
  grind -linarith [State.updCluster_mem, State.waveIn_wf, foldl_wf]

theorem execBlockRestore_wf {x : ClItem} (hs : s.mem.wf = true) : NextWf (execBlockRestore x s) := by
  unfold execBlockRestore
  grind -linarith [State.basinsBack_mem, State.copiesBack_mem, State.settleBlock_wf, State.fixRecs_mem,
    State.seatHeld_wf, State.live_wf, nextWf_next]

theorem deadlockGo_wf {n n1 n2 : Nat} {x : Bool} (hs : s.mem.wf = true) : (deadlockGo n s n1 n2 x).mem.wf = true := by
  fun_induction deadlockGo n s n1 n2 x <;> grind -linarith [State.raise_wf, State.spill_mem, State.tryClaim_mem]

theorem execDeadlockDetect_wf {x : CoreId} (hs : s.mem.wf = true) : NextWf (execDeadlockDetect x s) := by
  unfold execDeadlockDetect
  grind -linarith [deadlockGo_wf, State.live_wf, nextWf_next]

theorem execCalloutGranTimeout_wf {x : SlotId} (hs : s.mem.wf = true) : NextWf (execCalloutGranTimeout x s) := by
  unfold execCalloutGranTimeout
  grind -linarith [State.updCore_mem, State.live_wf, nextWf_next]

@[simp] theorem State.withdrawTiles_mem (s : State) (core c : Nat) : (s.withdrawTiles core c).mem = s.mem := by
  unfold State.withdrawTiles
  grind -linarith [State.updCtx_mem, State.updCore_mem, foldl_mem]

@[simp] theorem State.liftCore_mem (s : State) (core c : Nat) : (s.liftCore core c).mem = s.mem := by
  unfold State.liftCore
  grind -linarith [State.noteGone_mem, State.lift_mem, foldl_mem]

theorem execCoreHalted_wf {x : CoreId} {c6 : BitVec 6} (hs : s.mem.wf = true) : NextWf (execCoreHalted x c6 s) := by
  unfold execCoreHalted
  grind -linarith [State.withdrawTiles_mem, State.liftCore_mem, State.updCtx_mem, State.updCore_mem, State.live_wf,
    nextWf_next]

@[simp] theorem drawUsed_mem (n : Nat) (s : State) : (drawUsed n s).2.mem = s.mem := by
  fun_induction drawUsed n s <;> grind -linarith [State.pick_mem]

@[simp] theorem State.putImage_mem (s : State) (m : Image) : (s.putImage m).mem = s.mem := rfl

theorem State.writeImage_wf {m : Image} (hs : s.mem.wf = true) : (s.writeImage m).mem.wf = true := by
  unfold State.writeImage
  grind -linarith [State.putImage_mem, Memory.arriveD_keeps_wf]

theorem State.strip_wf {c : Nat} (hs : s.mem.wf = true) : (s.strip c).mem.wf = true := by
  unfold State.strip
  grind -linarith [Memory.wf]

theorem State.saveCtx_wf {s0 : State} {c : Nat} (hs0 : s0.mem.wf = true) : (s0.saveCtx c).mem.wf = true := by
  simp only [State.saveCtx, State.changed_mem, State.updPart_mem, State.updCtx_mem]
  exact State.writeImage_wf (State.strip_wf (by simpa using hs0))

theorem execContextSaved_wf {c6 : BitVec 6} (hs : s.mem.wf = true) : NextWf (execContextSaved c6 s) := by
  unfold execContextSaved
  grind -linarith [State.saveCtx_wf, nextWf_next]

theorem State.rejectImage_wf {c : Nat} (hs : s.mem.wf = true) : (s.rejectImage c).mem.wf = true := by
  unfold State.rejectImage
  grind -linarith [State.post_wf, State.updCtx_mem]

@[simp] theorem State.imageFor_mem (s : State) (c : Nat) (m : Image) : (s.imageFor c m).2.mem = s.mem := by
  unfold State.imageFor
  grind -linarith

theorem settleAll_wf {l : List Block} {t : List (Nat × Block) × State} (e : settleAll l s = some t)
    (hs : s.mem.wf = true) : t.2.mem.wf = true := by
  fun_induction settleAll l s generalizing t <;> grind -linarith [State.settleBlock_wf, Option.map_eq_some_iff]

theorem State.openImage_wf {c : Nat} {m : Image} (hs : s.mem.wf = true) : (s.openImage c m).mem.wf = true := by
  unfold State.openImage
  grind -linarith [State.updCluster_mem, foldl_mem, Memory.wf]

theorem State.restoreCtx_wf {s0 : State} {c : Nat} {m0 : Image} {t : State} (e : s0.restoreCtx c m0 = some t)
    (hs0 : s0.mem.wf = true) : t.mem.wf = true := by
  unfold State.restoreCtx at e
  grind -linarith [State.copiesBack_mem, State.startRun_mem, State.fixRecs_mem, State.updCluster_mem,
    State.basinsBack_mem, State.seatHeld_wf, State.openImage_wf, → settleAll_wf, State.imageFor_mem, foldl_wf]

theorem execContextRestored_wf {c6 : BitVec 6} (hs : s.mem.wf = true) : NextWf (execContextRestored c6 s) := by
  unfold execContextRestored
  grind -linarith [State.restoreCtx_wf, State.rejectImage_wf, nextWf_next]

/-! ### Dumps -/

@[simp] theorem State.dumpSections_mem (s0 : State) (c : Nat) : (s0.dumpSections c).2.mem = s0.mem := rfl

theorem State.writeValid_wf {a : Nat} {bs : List Byte} (hs : s.mem.wf = true) :
    (s.writeValid a bs).2.mem.wf = true := by
  unfold State.writeValid
  grind -linarith [Memory.agentWrite_wf]

theorem writeSections_wf {base len : Nat} {l : List Section'} {x : DumpRun} (hx : x.s.mem.wf = true) :
    (writeSections base len l x).s.mem.wf = true := by
  fun_induction writeSections base len l x <;> grind -linarith [State.writeValid_wf]

theorem State.dump_wf {s0 : State} {c base len : Nat} (hs0 : s0.mem.wf = true) :
    (s0.dump c base len).s.mem.wf = true := by
  unfold State.dump
  grind -linarith [writeSections_wf, State.writeValid_wf, State.dumpSections_mem]

/-! ### System instructions -/

theorem State.system_wf {f : Form} {k : Here → Nat → Thread → State} (hs : s.mem.wf = true)
    (hk : ∀ h c t, (k h c t).mem.wf = true) : NextWf (s.system f k) := by
  unfold State.system
  grind -linarith [State.issue_wf]

@[simp] theorem State.doneThread_mem (s : State) (h : Here) (lane : Nat) (t : Thread) (len : Nat) :
    (s.doneThread h lane t len).mem = s.mem := by
  unfold State.doneThread
  grind -linarith [State.doneLen_mem]

theorem State.refuse_wf {h : Here} {e : RegErr} (hs : s.mem.wf = true) : (s.refuse h e).mem.wf = true :=
  State.raise_wf hs

theorem execSrd_wf {x : SrdOp} (hs : s.mem.wf = true) : NextWf (execSrd x s) := by
  unfold execSrd
  grind -linarith [State.doneThread_mem, State.refuse_wf, State.system_wf]

theorem execSwr_wf {x : SwrOp} (hs : s.mem.wf = true) : NextWf (execSwr x s) := by
  unfold execSwr
  grind -linarith [State.doneLen_mem, State.refuse_wf, → State.regWrite_wf, State.system_wf]

theorem execTret_wf {x : NullOp} (hs : s.mem.wf = true) : NextWf (execTret x s) := by
  unfold execTret
  grind -linarith [State.ret_wf, State.system_wf]

theorem execTlbinv_wf {x : TlbinvOp} (hs : s.mem.wf = true) : NextWf (execTlbinv x s) := by
  unfold execTlbinv
  grind -linarith [State.doneLen_mem, State.dropTlb_mem, State.refuse_wf, State.system_wf]

theorem execCinv_wf {x : CinvOp} (hs : s.mem.wf = true) : NextWf (execCinv x s) := by
  unfold execCinv
  grind -linarith [State.updCluster_mem, State.doneLen_mem, State.refuse_wf, State.system_wf, foldl_mem]

theorem State.haltCluster_wf {cl : Nat} (hs : s.mem.wf = true) : (s.haltCluster cl).mem.wf = true := by
  unfold State.haltCluster
  grind -linarith [State.clearDead_mem, State.traceAll_wf, State.updCluster_mem]

theorem execHaltc_wf {x : HaltcOp} (hs : s.mem.wf = true) : NextWf (execHaltc x s) := by
  unfold execHaltc
  grind -linarith [State.doneLen_mem, State.haltCluster_wf, State.thaw_wf, State.refuse_wf, State.system_wf, foldl_wf]

theorem execDump_wf {x : DumpOp} (hs : s.mem.wf = true) : NextWf (execDump x s) := by
  unfold execDump
  grind -linarith [State.doneThread_mem, State.raise_wf, State.dump_wf, State.refuse_wf, State.system_wf]

theorem State.copyImage_wf {src dst n : Nat} (hs : s.mem.wf = true) : (s.copyImage src dst n).mem.wf = true :=
  Memory.arriveD_keeps_wf hs

theorem execCtxsave_wf {x : CtxImgOp} (hs : s.mem.wf = true) : NextWf (execCtxsave x s) := by
  unfold execCtxsave
  grind -linarith [State.copyImage_wf, State.doneLen_mem, State.raise_wf, State.reqStop_mem, State.refuse_wf,
    State.system_wf]

theorem execCtxload_wf {x : CtxImgOp} (hs : s.mem.wf = true) : NextWf (execCtxload x s) := by
  unfold execCtxload
  grind -linarith [State.updCtx_mem, State.changed_mem, State.doneLen_mem, State.copyImage_wf, State.putImage_mem,
    State.raise_wf, State.refuse_wf, State.system_wf]

@[simp] theorem State.pop_mem (s : State) (f : Nat) : (s.pop f).2.mem = s.mem := by
  unfold State.pop
  grind -linarith [State.updPart_mem]

theorem execFqpop_wf {x : FqpopOp} (hs : s.mem.wf = true) : NextWf (execFqpop x s) := by
  unfold execFqpop
  grind -linarith [State.doneThread_mem, State.releaseHeld_wf, State.pop_mem, State.system_wf]

theorem execHostirq_wf {x : HostirqOp} (hs : s.mem.wf = true) : NextWf (execHostirq x s) := by
  unfold execHostirq
  grind -linarith [State.setDev_mem, State.doneLen_mem, State.system_wf]

theorem execWaiti_wf {x : WaitiOp} (hs : s.mem.wf = true) : NextWf (execWaiti x s) := by
  unfold execWaiti
  grind -linarith [State.updHandler_mem, State.doneLen_mem, State.system_wf]

theorem execHandlerStart_wf {f5 : BitVec 5} (hs : s.mem.wf = true) : NextWf (execHandlerStart f5 s) := by
  unfold execHandlerStart
  grind -linarith [State.updHandler_mem, State.pop_mem, nextWf_next]

/-! ### Power, reset and bring-up -/

theorem execTranslationWalk_wf {x : CoreId} {ctx : BitVec 6} {va : BitVec 52} (hs : s.mem.wf = true) :
    NextWf (execTranslationWalk x ctx va s) := by
  unfold execTranslationWalk
  grind -linarith [State.translate_wf, State.live_wf, nextWf_next]

theorem State.postDevice_wf {r : FaultRec} (hs : s.mem.wf = true) : (s.postDevice r).mem.wf = true := by
  unfold State.postDevice
  grind -linarith [State.postHost_wf, State.post_wf]

theorem execEccErrorNoRequester_wf {line : Nat} (hs : s.mem.wf = true) : NextWf (execEccErrorNoRequester line s) := by
  unfold execEccErrorNoRequester
  grind -linarith [State.postDevice_wf, nextWf_next, Memory.wf]

theorem execEccCorrectableError_wf {line : Nat} (hs : s.mem.wf = true) : NextWf (execEccCorrectableError line s) := by
  unfold execEccCorrectableError
  grind -linarith [State.postDevice_wf, nextWf_next]

theorem execBar2Write_wf {off : Nat} {bytes : List Byte} (hs : s.mem.wf = true) :
    NextWf (execBar2Write off bytes s) := by
  unfold execBar2Write
  grind -linarith [Memory.agentWrite_wf, nextWf_next]

theorem execBar2Read_wf {off n : Nat} (hs : s.mem.wf = true) : NextWf (execBar2Read off n s) := by
  unfold execBar2Read
  grind -linarith [nextWf_next]

theorem execDeviceReset_wf (hs : s.mem.wf = true) : NextWf (execDeviceReset s) := by
  unfold execDeviceReset
  grind -linarith [nextWf_next, Memory.wf]

theorem execMemoryTrainingDone_wf (hs : s.mem.wf = true) : NextWf (execMemoryTrainingDone s) := by
  unfold execMemoryTrainingDone
  grind -linarith [nextWf_next]

theorem execFirmwareReady_wf (hs : s.mem.wf = true) : NextWf (execFirmwareReady s) := by
  unfold execFirmwareReady
  grind -linarith [nextWf_next]

theorem execBringupFailure_wf (hs : s.mem.wf = true) : NextWf (execBringupFailure s) := by
  unfold execBringupFailure
  grind -linarith [nextWf_next]

theorem execAllowRecompute_wf {a : BitVec 8} (hs : s.mem.wf = true) : NextWf (execAllowRecompute a s) := by
  unfold execAllowRecompute
  grind -linarith [nextWf_next]

@[simp] theorem State.reduce_mem (s : State) : s.reduce.mem = s.mem := by
  unfold State.reduce
  grind -linarith [State.pick_mem]

theorem execThermalAlert_wf {t : BitVec 8} (hs : s.mem.wf = true) : NextWf (execThermalAlert t s) := by
  unfold execThermalAlert
  grind -linarith [State.reduce_mem, State.postHost_wf, nextWf_next]

theorem execThermalHardLimit_wf {t : BitVec 8} (hs : s.mem.wf = true) : NextWf (execThermalHardLimit t s) := by
  unfold execThermalHardLimit
  grind -linarith [State.reduce_mem, nextWf_next]

@[simp] theorem State.release_mem (s : State) : s.release.mem = s.mem := by
  unfold State.release
  grind -linarith [State.pick_mem]

theorem execThermalRecover_wf {t : BitVec 8} (hs : s.mem.wf = true) : NextWf (execThermalRecover t s) := by
  unfold execThermalRecover
  grind -linarith [State.release_mem, nextWf_next]

theorem execThermalShutdown_wf {t : BitVec 8} (hs : s.mem.wf = true) : NextWf (execThermalShutdown t s) := by
  unfold execThermalShutdown
  grind -linarith [nextWf_next]

/-! ### Streams and queue commands -/

theorem State.onStream_wf {k : Nat → Stream → State} (hk : ∀ c n, (k c n).mem.wf = true) : NextWf (s.onStream k) := by
  unfold State.onStream
  grind -linarith [nextWf_next, nextWf_fault]

theorem State.decodeFault_wf {c code cause addr : Nat} (hs : s.mem.wf = true) :
    (s.decodeFault c code cause addr).mem.wf = true :=
  State.streamFault_wf hs

theorem State.streamErr_wf {c : Nat} {e : UnitErr} (hs : s.mem.wf = true) : (s.streamErr c e).mem.wf = true := by
  unfold State.streamErr
  grind -linarith [State.decodeFault_wf, State.updCtx_mem, State.pageFault_wf]

theorem State.streamRead_wf {c va n : Nat} {k : State → List Byte → State} (hs : s.mem.wf = true)
    (hk : ∀ (s : State) bs, s.mem.wf = true → (k s bs).mem.wf = true) : (s.streamRead c va n k).mem.wf = true := by
  unfold State.streamRead
  grind -linarith [State.streamErr_wf, State.unitRead_wf]

theorem execNopq_wf (hs : s.mem.wf = true) : NextWf (execNopq s) := by
  unfold execNopq
  grind -linarith [State.enter_mem, State.onStream_wf]

theorem execHaltq_wf (hs : s.mem.wf = true) : NextWf (execHaltq s) := by
  unfold execHaltq
  grind -linarith [State.enter_mem, State.onStream_wf]

@[simp] theorem State.setQ_mem (s : State) (c : Nat) (i : Instr) (d : BitVec 5) (v : DWord) (f : Stream → Stream) :
    (s.setQ c i d v f).mem = s.mem :=
  rfl

theorem execSetq_wf {x : SetqOp} (hs : s.mem.wf = true) : NextWf (execSetq x s) := by
  unfold execSetq
  grind -linarith [State.setQ_mem, State.onStream_wf]

theorem execMovq_wf {x : MovqOp} (hs : s.mem.wf = true) : NextWf (execMovq x s) := by
  unfold execMovq
  grind -linarith [State.setQ_mem, State.onStream_wf]

theorem execAddq_wf {x : AddqOp} (hs : s.mem.wf = true) : NextWf (execAddq x s) := by
  unfold execAddq
  grind -linarith [State.setQ_mem, State.onStream_wf]

theorem execCmpq_wf {x : CmpqOp} (hs : s.mem.wf = true) : NextWf (execCmpq x s) := by
  unfold execCmpq
  grind -linarith [State.setQ_mem, State.onStream_wf]

theorem execLdq_wf {x : LdqOp} (hs : s.mem.wf = true) : NextWf (execLdq x s) := by
  unfold execLdq
  grind -linarith [State.setQ_mem, State.streamErr_wf, State.unitFetch_wf, State.decodeFault_wf, State.onStream_wf]

theorem State.withTarget_wf {c : Nat} {off : DWord} {k : State} (hs : s.mem.wf = true) (hk : k.mem.wf = true) :
    (s.withTarget c off k).mem.wf = true := by
  unfold State.withTarget
  grind -linarith [State.decodeFault_wf]

theorem execBrq_wf {x : BrqOp} (hs : s.mem.wf = true) : NextWf (execBrq x s) := by
  unfold execBrq
  grind -linarith [State.enter_mem, State.withTarget_wf, State.onStream_wf]

theorem execJmpq_wf {off : DWord} (hs : s.mem.wf = true) : NextWf (execJmpq off s) := by
  unfold execJmpq
  grind -linarith [State.enter_mem, State.withTarget_wf, State.onStream_wf]

theorem execCallq_wf {off : DWord} (hs : s.mem.wf = true) : NextWf (execCallq off s) := by
  unfold execCallq
  grind -linarith [State.enter_mem, State.decodeFault_wf, State.withTarget_wf, State.onStream_wf]

theorem execRetq_wf (hs : s.mem.wf = true) : NextWf (execRetq s) := by
  unfold execRetq
  grind -linarith [State.enter_mem, State.decodeFault_wf, State.onStream_wf]

theorem execBind_wf {x : BindOp} (hs : s.mem.wf = true) : NextWf (execBind x s) := by
  unfold execBind
  grind -linarith [State.enter_mem, State.decodeFault_wf, State.onStream_wf]

theorem execFree_wf {h : BitVec 8} (hs : s.mem.wf = true) : NextWf (execFree h s) := by
  unfold execFree
  grind -linarith [State.enter_mem, State.onStream_wf]

theorem execFencet_wf {b : Bool} (hs : s.mem.wf = true) : NextWf (execFencet b s) := by
  unfold execFencet
  grind -linarith [State.enter_mem, State.onStream_wf]

theorem execWaite_wf {x : WaiteOp} (hs : s.mem.wf = true) : NextWf (execWaite x s) := by
  unfold execWaite
  grind -linarith [State.enter_mem, State.onStream_wf]

theorem execSignal_wf {x : SignalOp} (hs : s.mem.wf = true) : NextWf (execSignal x s) := by
  unfold execSignal
  grind -linarith [State.enter_mem, State.onStream_wf]

theorem State.enterLaunch_wf {c : Nat} {i : Instr} {x : LaunchqOp} {d : LDesc} (hs : s.mem.wf = true) :
    (s.enterLaunch c i x d).mem.wf = true := by
  unfold State.enterLaunch
  grind -linarith [State.enter_mem, State.decodeFault_wf]

theorem State.withRecord_wf {c : Nat} {ray : Bool} {a : Nat} {k : State → LaunchRec → State} (hs : s.mem.wf = true)
    (hk : ∀ (s : State) r, s.mem.wf = true → (k s r).mem.wf = true) : (s.withRecord c ray a k).mem.wf = true := by
  unfold State.withRecord
  grind -linarith [State.decodeFault_wf, State.streamRead_wf]

theorem execKlaunch_wf {x : LaunchqOp} (hs : s.mem.wf = true) : NextWf (execKlaunch x s) := by
  unfold execKlaunch
  grind -linarith [State.enterLaunch_wf, State.withRecord_wf, State.decodeFault_wf, State.onStream_wf]

theorem execRlaunch_wf {x : LaunchqOp} (hs : s.mem.wf = true) : NextWf (execRlaunch x s) := by
  unfold execRlaunch
  grind -linarith [State.enterLaunch_wf, State.withRecord_wf, State.streamRead_wf, State.decodeFault_wf,
    State.onStream_wf]

/-! ### Tensors -/

theorem State.readSlots_wf {c : Nat} {l : List (Nat × Nat)} {x : Table (BitVec 128)}
    {x1 : State → Table (BitVec 128) → State} (hs : s.mem.wf = true)
    (hx1 : ∀ (s : State) l, s.mem.wf = true → (x1 s l).mem.wf = true) : (s.readSlots c l x x1).mem.wf = true := by
  fun_induction State.readSlots s c l x x1 <;> grind -linarith [State.streamRead_wf]

theorem State.enterTask_wf {c : Nat} {i : Instr} {d : TDesc} {dst : Option (BitVec 8)} {srcs : List (Nat × BitVec 8)}
    (hs : s.mem.wf = true) : (s.enterTask c i d dst srcs).mem.wf = true := by
  unfold State.enterTask
  grind -linarith [State.enter_mem, State.decodeFault_wf]

theorem State.tensorTask_wf {i : Instr} {u : TaskUse} {desc : QSrc} {dst : Option (BitVec 8)}
    {srcs : List (Nat × BitVec 8)} (hs : s.mem.wf = true) : NextWf (s.tensorTask i u desc dst srcs) := by
  unfold State.tensorTask
  grind -linarith [State.enterTask_wf, State.readSlots_wf, State.streamRead_wf, State.decodeFault_wf, State.onStream_wf]

theorem execMmt_wf {x : MmtOp} (hs : s.mem.wf = true) : NextWf (execMmt x s) := State.tensorTask_wf hs

theorem execCnvt_wf {x : TwoTOp} (hs : s.mem.wf = true) : NextWf (execCnvt x s) := State.tensorTask_wf hs

theorem execCpyt_wf {x : TwoTOp} (hs : s.mem.wf = true) : NextWf (execCpyt x s) := State.tensorTask_wf hs

theorem execRedt_wf {x : TwoTOp} (hs : s.mem.wf = true) : NextWf (execRedt x s) := State.tensorTask_wf hs

theorem execFillt_wf {x : OneTOp} (hs : s.mem.wf = true) : NextWf (execFillt x s) := State.tensorTask_wf hs

theorem execAmaxt_wf {x : OneTOp} (hs : s.mem.wf = true) : NextWf (execAmaxt x s) := State.tensorTask_wf hs

@[simp] theorem raceBytes_mem (p0 : Nat) (l : List Nat) (s : State) : (raceBytes p0 l s).2.mem = s.mem := by
  fun_induction raceBytes p0 l s <;> grind -linarith [State.pickFrom_mem]

@[simp] theorem State.reachTask_mem (s : State) (q : TaskUnit) (va : Nat) (pas : List Nat) :
    (s.reachTask q va pas).mem = s.mem := by
  unfold State.reachTask
  grind -linarith [State.reachLines_mem]

theorem State.taskPas_wf {q : TaskUnit} {va n : Nat} {kind : Access} (hs : s.mem.wf = true) :
    (s.taskPas q va n kind).2.mem.wf = true := by
  unfold State.taskPas
  grind -linarith [State.unitPas_wf]

theorem State.readSpan_wf {q : TaskUnit} {e : Nat × Nat} (hs : s.mem.wf = true) : (s.readSpan q e).2.mem.wf = true := by
  unfold State.readSpan
  grind -linarith [State.reachTask_mem, State.farRead_mem, raceBytes_mem, State.taskPas_wf, State.once_wf]

theorem readSpans_wf {q : TaskUnit} {l : List (Nat × Nat)} (hs : s.mem.wf = true) :
    (readSpans q l s).2.mem.wf = true := by
  fun_induction readSpans q l s <;> grind -linarith [State.readSpan_wf]

theorem thenRead_wf {α β : Type} {r : Except UnitErr α × State} {k : α → State → Except UnitErr β × State}
    (hr : r.2.mem.wf = true) (hk : ∀ x (s : State), s.mem.wf = true → (k x s).2.mem.wf = true) :
    (thenRead r k).2.mem.wf = true := by
  unfold thenRead
  grind -linarith

theorem codeDraw_wf {q : TaskUnit} {base : Nat} {l : List (Nat × Nat)} (hs : s.mem.wf = true) :
    (codeDraw q base l s).2.mem.wf = true := by
  fun_induction codeDraw q base l s <;> grind -linarith [State.reachTask_mem, State.farRead_mem, State.numSince_mem,
    State.taskPas_wf, State.once_wf]

theorem State.readPart_wf {q : TaskUnit} {v : TView} {sl : Slot} {f : Fmt} {p : Part4} (hs : s.mem.wf = true) :
    (s.readPart q v sl f p).2.mem.wf = true := by
  unfold State.readPart
  grind -linarith [codeDraw_wf, readSpans_wf, thenRead_wf]

@[simp] theorem splitRanges_mem (n n1 n2 : Nat) (s : State) : (splitRanges n n1 n2 s).2.mem = s.mem := by
  fun_induction splitRanges n n1 n2 s <;> grind -linarith [State.pick_mem]

@[simp] theorem sumRanges_mem (g : Nat) (prod : Nat → Real') (n : Nat) (l : List (Nat × Nat)) (x : Word) (s : State) :
    (sumRanges g prod n l x s).2.mem = s.mem := by
  fun_induction sumRanges g prod n l x s <;> grind -linarith [State.pick_mem]

@[simp] theorem mmtElem_mem (g kk : Nat) (ranges : List (Nat × Nat)) (acc : Word) (prod : Nat → Real') (s : State) :
    (mmtElem g kk ranges acc prod s).2.mem = s.mem := by
  unfold mmtElem
  grind -linarith [sumRanges_mem]

theorem mmtCols_wf {f : Nat → State → Word × State} {l : List Nat}
    (hf : ∀ c (s : State), s.mem.wf = true → (f c s).2.mem.wf = true) (hs : s.mem.wf = true) :
    (mmtCols f l s).2.mem.wf = true := by
  fun_induction mmtCols f l s <;> grind -linarith

theorem mmtRows_wf {f : Nat → Nat → State → Word × State} {enc : Nat → List Word → List (Nat × List Byte)}
    {cols l : List Nat} (hf : ∀ c d (s : State), s.mem.wf = true → (f c d s).2.mem.wf = true) (hs : s.mem.wf = true) :
    (mmtRows f enc cols l s).2.mem.wf = true := by
  fun_induction mmtRows f enc cols l s <;> grind -linarith [mmtCols_wf]

theorem mmtTile_wf {q : TaskUnit} {d : TDesc} {p : Part4} (hs : s.mem.wf = true) :
    (mmtTile s q d p).2.mem.wf = true := by
  unfold mmtTile
  grind -linarith [mmtRows_wf, mmtElem_mem, splitRanges_mem, readSpans_wf, State.readPart_wf, thenRead_wf]

theorem cnvtTile_wf {q : TaskUnit} {d : TDesc} {p : Part4} {conv : Bool} (hs : s.mem.wf = true) :
    (cnvtTile s q d p conv).2.mem.wf = true := by
  unfold cnvtTile
  grind -linarith [State.readPart_wf, thenRead_wf]

theorem redtTile_wf {q : TaskUnit} {d : TDesc} {p : Part4} (hs : s.mem.wf = true) :
    (redtTile s q d p).2.mem.wf = true := by
  unfold redtTile
  grind -linarith [readSpans_wf, thenRead_wf]

theorem pairTile_wf {q : TaskUnit} {d : TDesc} {p : Part4} (hs : s.mem.wf = true) :
    (pairTile s q d p).2.mem.wf = true := by
  unfold pairTile
  grind -linarith [readSpans_wf, thenRead_wf]

theorem cpytTile_wf {q : TaskUnit} {d : TDesc} {p : Part4} (hs : s.mem.wf = true) :
    (cpytTile s q d p).2.mem.wf = true := by
  unfold cpytTile
  grind -linarith [readSpans_wf, thenRead_wf]

theorem computeTile_wf {q : TaskUnit} {i : Instr} {d : TDesc} {p : Part4} (hs : s.mem.wf = true) :
    (computeTile s q i d p).2.mem.wf = true := by
  unfold computeTile
  grind -linarith [cpytTile_wf, redtTile_wf, pairTile_wf, cnvtTile_wf, mmtTile_wf]

theorem State.writeSpan_wf {q : TaskUnit} {va n : Nat} (hs : s.mem.wf = true) :
    (s.writeSpan q va n).2.mem.wf = true := by
  unfold State.writeSpan
  grind -linarith [State.reachTask_mem, State.taskPas_wf, State.once_wf]

theorem writeSpans_wf {q : TaskUnit} {l : List (Nat × List Byte)} (hs : s.mem.wf = true) :
    (writeSpans q l s).2.mem.wf = true := by
  fun_induction writeSpans q l s <;> grind -linarith [State.writeSpan_wf, thenRead_wf]

theorem pairPas_wf {q : TaskUnit} {l : List (Nat × Word)} (hs : s.mem.wf = true) : (pairPas q l s).2.mem.wf = true := by
  fun_induction pairPas q l s <;> grind -linarith [State.writeSpan_wf, thenRead_wf]

@[simp] theorem State.updEntry_mem (s : State) (ctx seq : Nat) (f : Entry → Entry) :
    (s.updEntry ctx seq f).mem = s.mem :=
  rfl

theorem State.taskErr_wf {c seq uid src core : Nat} {kind : Access} {e : UnitErr} (hs : s.mem.wf = true) :
    (s.taskErr c seq uid src core kind e).mem.wf = true := by
  unfold State.taskErr
  grind -linarith [State.failEntry_wf, State.pageFault_wf]

@[simp] theorem State.endTile_mem (s : State) (core key : Nat) (t : TileTask) : (s.endTile core key t).mem = s.mem :=
  rfl

theorem State.tileErr_wf {core key : Nat} {t : TileTask} {i : Instr} {kind : Access} {e : UnitErr}
    (hs : s.mem.wf = true) : (s.tileErr core key t i kind e).mem.wf = true := by
  unfold State.tileErr
  grind -linarith [State.endTile_mem, State.taskErr_wf]

theorem execTileTaskIssue_wf {x : CoreItem} (hs : s.mem.wf = true) : NextWf (execTileTaskIssue x s) := by
  unfold execTileTaskIssue
  grind -linarith [State.updCore_mem, State.setLines_mem, State.noteTaskTile_mem, State.live_wf, nextWf_next]

theorem runTile_wf {q : TaskUnit} {i : Instr} {d : TDesc} {p : Part4} (hs : s.mem.wf = true) :
    (runTile s q i d p).2.mem.wf = true := by
  unfold runTile
  grind -linarith [pairPas_wf, writeSpans_wf, computeTile_wf]

theorem State.beginTile_wf {core key : Nat} {t : TileTask} {i : Instr} {d : TDesc} (hs : s.mem.wf = true) :
    (s.beginTile core key t i d).mem.wf = true := by
  unfold State.beginTile
  grind -linarith [State.updEntry_mem, State.tileErr_wf, State.updCore_mem, State.unhear_mem, State.hear_mem,
    runTile_wf]

theorem State.addAtPeer_wf {agent pa : Nat} {x : Word} {rel : List Mark} (hs : s.mem.wf = true) :
    (s.addAtPeer agent pa x rel).2.mem.wf = true := by
  unfold State.addAtPeer
  grind -linarith [Memory.arriveHome_wf]

theorem State.pairToPeer_wf {ctx seq task pa : Nat} {x : Word} {rel : List Mark} (hs : s.mem.wf = true) :
    (s.pairToPeer ctx seq task pa x rel).mem.wf = true := by
  unfold State.pairToPeer
  grind -linarith [State.addAtPeer_wf, State.updRill_mem, State.rillSend_mem]

theorem State.flushToPeer_wf {ctx seq task : Nat} {rel : List Mark} (hs : s.mem.wf = true) :
    (s.flushToPeer ctx seq task rel).mem.wf = true := by
  simp only [State.flushToPeer, State.rillSend_mem, State.updRill_mem]
  refine foldl_snd_wf (fun _ _ h => ?_) ?_
  · exact State.addAtPeer_wf h
  · exact hs

theorem State.addPair_wf {ctx seq agent pa : Nat} {x : Word} {rel : List Mark} (hs : s.mem.wf = true) :
    (s.addPair ctx seq agent pa x rel).mem.wf = true := by
  unfold State.addPair
  grind -linarith [Memory.arriveD_keeps_wf, State.pairToPeer_wf]

theorem State.tileLost_wf {core key : Nat} {t : TileTask} {pa : Nat} (hs : s.mem.wf = true) :
    (s.tileLost core key t pa).mem.wf = true :=
  State.failEntry_wf hs

theorem State.writeTile_wf {core key agent : Nat} {t : TileTask} {out : List (Nat × Byte)} (hs : s.mem.wf = true) :
    (s.writeTile core key agent t out).mem.wf = true := by
  unfold State.writeTile
  grind -linarith [State.addPair_wf, Memory.arriveD_keeps_wf, State.tileLost_wf, State.pick_mem, State.updCore_mem]

theorem execTileTaskComplete_wf {x : CoreItem} (hs : s.mem.wf = true) : NextWf (execTileTaskComplete x s) := by
  refine State.live_wf hs ?_
  dsimp only
  split
  · exact nextWf_next.mpr hs
  split
  · exact nextWf_next.mpr hs
  split
  · grind -linarith [State.writeTile_wf, State.beginTile_wf, State.endTile_mem, nextWf_next]
  · exact nextWf_next.mpr hs

/-! ### Textures -/

@[simp] theorem State.texelFloor_mem (s : State) (x : Word) : (s.texelFloor x).2.2.mem = s.mem := by
  unfold State.texelFloor
  grind -linarith [State.pick_mem]

@[simp] theorem State.tap_mem (s : State) (d : TexDesc) (l : Nat) (four : Bool) (u v : Word) :
    (s.tap d l four u v).2.mem = s.mem := by
  unfold State.tap
  grind -linarith [State.texelFloor_mem]

@[simp] theorem State.taps_mem (s : State) (d : TexDesc) (lam u v : Word) : (s.taps d lam u v).2.2.mem = s.mem := by
  unfold State.taps
  grind -linarith [State.tap_mem]

theorem texLanes_wf {h : Here} {addr : Thread → Nat} {place : State → Thread → TexDesc → List Tap × Real' × State}
    {x : Table Thread} (hplace : ∀ (s : State) t d, s.mem.wf = true → (place s t d).2.2.mem.wf = true)
    (hs : s.mem.wf = true) : (texLanes h addr place x s).2.2.mem.wf = true := by
  fun_induction texLanes h addr place x s <;> grind -linarith [State.snapVa_wf]

theorem texPas_wf {v : Via} {ctx n : Nat} {l : List Nat} (hs : s.mem.wf = true) :
    (texPas v ctx n l s).2.mem.wf = true := by
  fun_induction texPas v ctx n l s <;> grind -linarith [State.unitPas_wf]

theorem readTexels_wf {h : Here} {l : List TexLane} (hs : s.mem.wf = true) : (readTexels h l s).2.mem.wf = true := by
  fun_induction readTexels h l s <;> grind -linarith [State.reachLines_mem, State.snapRead_mem, texPas_wf]

theorem State.texRun_wf {f : Form} {a : Src} {d : Nat} {place : State → Thread → TexDesc → List Tap × Real' × State}
    {result : TexLane → List Rgba → List Word} (hs : s.mem.wf = true)
    (hplace : ∀ (s : State) t d, s.mem.wf = true → (place s t d).2.2.mem.wf = true) :
    NextWf (s.texRun f a d place result) := by
  unfold State.texRun
  grind -linarith [State.doneWrites_mem, readTexels_wf, State.unitFault_wf, texLanes_wf, State.raise_wf,
    State.notReady_mem, State.issue_wf]

theorem execTex2_wf {x : Tex2Op} (hs : s.mem.wf = true) : NextWf (execTex2 x s) := by
  unfold execTex2
  grind -linarith [State.texRun_wf, State.taps_mem]

theorem execTexg_wf {x : TexgOp} (hs : s.mem.wf = true) : NextWf (execTexg x s) := by
  unfold execTexg
  grind -linarith [State.texRun_wf, State.tap_mem]

/-! ### The weir -/

theorem State.issueFault_wf {c seq src code cause addr detail : Nat} (hs : s.mem.wf = true) :
    (s.issueFault c seq src code cause addr detail).mem.wf = true :=
  State.failEntry_wf hs

theorem State.issueLaunch_wf {c : Nat} {e : Entry} {d : LDesc} (hs : s.mem.wf = true) :
    (s.issueLaunch c e d).mem.wf = true := by
  unfold State.issueLaunch
  grind -linarith [State.testGrid_wf, State.updEntry_mem, State.trace_wf, Memory.arriveD_keeps_wf, State.taskErr_wf,
    State.unitPas_wf]

@[simp] theorem State.drawDeps_mem (s : State) (core c seq : Nat) : (s.drawDeps core c seq).2.mem = s.mem := by
  unfold State.drawDeps
  grind -linarith [State.pick_mem, pickSome_mem]

@[simp] theorem placeTilesGo_mem (n : Nat) (s : State) (n1 n2 : Nat) : (placeTilesGo n s n1 n2).mem = s.mem := by
  fun_induction placeTilesGo n s n1 n2 <;> grind -linarith [State.updEntry_mem, State.updCore_mem, State.drawDeps_mem,
    State.pick_mem]

@[simp] theorem State.placeTiles_mem (s : State) (c seq : Nat) : (s.placeTiles c seq).mem = s.mem := by
  unfold State.placeTiles
  grind -linarith [placeTilesGo_mem]

theorem State.startTask_wf {c : Nat} {e : Entry} {i : Instr} {d : TDesc} (hs : s.mem.wf = true) :
    (s.startTask c e i d).mem.wf = true := by
  unfold State.startTask
  grind -linarith [State.trace_wf, State.placeTiles_mem, State.updEntry_mem]

theorem State.issueCpyt_wf {c : Nat} {e : Entry} {i : Instr} {d : TDesc} (hs : s.mem.wf = true) :
    (s.issueCpyt c e i d).mem.wf = true := by
  unfold State.issueCpyt
  grind -linarith [State.startTask_wf, State.taskErr_wf, State.issueFault_wf, State.checkCopies_wf]

@[simp] theorem State.entrySaid_mem (s : State) (c seq : Nat) : (s.entrySaid c seq).mem = s.mem := rfl

theorem State.issuePairs_wf {c : Nat} {e : Entry} {i : Instr} {d : TDesc} (hs : s.mem.wf = true) :
    (s.issuePairs c e i d).mem.wf = true := by
  unfold State.issuePairs
  grind -linarith [State.startTask_wf, State.unhear_mem, State.updEntry_mem, State.entrySaid_mem, State.taskErr_wf,
    State.hear_mem, readSpans_wf, State.issueFault_wf]

theorem State.issueTask_wf {c : Nat} {e : Entry} {i : Instr} {d : TDesc} (hs : s.mem.wf = true) :
    (s.issueTask c e i d).mem.wf = true := by
  unfold State.issueTask
  grind -linarith [State.startTask_wf, State.issuePairs_wf, State.issueCpyt_wf, State.issueFault_wf]

@[simp] theorem State.noteTask_mem (s : State) (f : Nat) : (s.noteTask f).mem = s.mem := rfl

theorem execTaskIssue_wf {x : EntryId} (hs : s.mem.wf = true) : NextWf (execTaskIssue x s) := by
  unfold execTaskIssue
  grind -linarith [State.issueTask_wf, State.issueLaunch_wf, State.noteTask_mem, State.placeTiles_mem, nextWf_next]

theorem padBytes_wf {q : TaskUnit} {prev : Option (Nat × Nat)} {l : List (Nat × Nat)} (hs : s.mem.wf = true) :
    (padBytes q prev l s).2.mem.wf = true := by
  fun_induction padBytes q prev l s <;> grind -linarith [State.readSpan_wf, thenRead_wf]

theorem State.taskWrite_wf {c : Nat} {e : Entry} {l : List (Nat × Byte)} (hs : s.mem.wf = true) :
    (s.taskWrite c e l).2.mem.wf = true := by
  unfold State.taskWrite
  grind -linarith [Memory.arriveD_keeps_wf]

theorem State.padTask_wf {c : Nat} {e : Entry} {i : Instr} {d : TDesc} (hs : s.mem.wf = true) :
    (s.padTask c e i d).2.mem.wf = true := by
  unfold State.padTask
  grind -linarith [State.taskWrite_wf, writeSpans_wf, padBytes_wf]

theorem State.amaxTask_wf {c : Nat} {e : Entry} {d : TDesc} (hs : s.mem.wf = true) :
    (s.amaxTask c e d).2.mem.wf = true := by
  unfold State.amaxTask
  grind -linarith [State.amaxUpdate_wf, State.writeSpan_wf]

theorem State.lastOfTask_wf {c : Nat} {e : Entry} {i : Instr} {d : TDesc} (hs : s.mem.wf = true) :
    (s.lastOfTask c e i d).2.mem.wf = true := by
  unfold State.lastOfTask
  grind -linarith [State.amaxTask_wf, State.padTask_wf]

theorem State.finishTask_wf {c : Nat} {e : Entry} {i : Instr} {d : TDesc} (hs : s.mem.wf = true) :
    (s.finishTask c e i d).mem.wf = true := by
  unfold State.finishTask
  grind -linarith [State.updEntry_mem, State.updCtx_mem, State.unhear_mem, State.entrySaid_mem, State.taskErr_wf,
    State.hear_mem, State.lastOfTask_wf]

theorem State.flushTask_wf {c : Nat} {e : Entry} (hs : s.mem.wf = true) : (s.flushTask c e).mem.wf = true := by
  unfold State.flushTask
  grind -linarith [State.flushToPeer_wf, State.updEntry_mem]

theorem State.sendFence_wf {c : Nat} {e : Entry} (hs : s.mem.wf = true) : (s.sendFence c e).mem.wf = true := by
  unfold State.sendFence
  grind -linarith [State.updEntry_mem, State.updRill_mem, Memory.sendHome_wf, State.rillSend_mem, State.failEntry_wf]

theorem State.endBatch_wf {kid : Nat} (hs : s.mem.wf = true) : (s.endBatch kid).mem.wf = true := by
  unfold State.endBatch
  grind -linarith [State.updGrid_mem, State.trace_wf]

theorem State.dropFamily_wf {fam : List Nat} (hs : s.mem.wf = true) : (s.dropFamily fam).mem.wf = true :=
  Memory.foldl_wf (fun _ _ => Memory.dropKid_wf) hs

theorem State.finishLaunch_wf {c seq kid : Nat} (hs : s.mem.wf = true) : (s.finishLaunch c seq kid).mem.wf = true := by
  unfold State.finishLaunch
  grind -linarith [State.dropFamily_wf, State.updEntry_mem, State.updCtx_mem, State.endBatch_wf]

theorem execTaskComplete_wf {x : EntryId} (hs : s.mem.wf = true) : NextWf (execTaskComplete x s) := by
  unfold execTaskComplete
  grind -linarith [State.finishTask_wf, State.flushTask_wf, State.finishLaunch_wf, State.updEntry_mem,
    State.sendFence_wf, nextWf_next]

@[simp] theorem State.judgeWaite_mem (s : State) (c : Nat) (e : Entry) : (s.judgeWaite c e).mem = s.mem := by
  unfold State.judgeWaite
  grind -linarith [State.updEntry_mem]

theorem execEventWaitSatisfied_wf {x : EntryId} (hs : s.mem.wf = true) : NextWf (execEventWaitSatisfied x s) := by
  unfold execEventWaitSatisfied
  grind -linarith [State.judgeWaite_mem, nextWf_next]

@[simp] theorem State.judgeWaites_mem (s : State) (c : Nat) : (s.judgeWaites c).mem = s.mem := by
  unfold State.judgeWaites
  grind -linarith [State.judgeWaite_mem, foldl_mem]

theorem State.retireEffect_wf {c : Nat} {e : Entry} (hs : s.mem.wf = true) : (s.retireEffect c e).mem.wf = true := by
  unfold State.retireEffect
  grind -linarith [State.post_wf, State.setDev_mem, State.updCtx_mem]

theorem State.retireEntry_wf {c : Nat} {e : Entry} (hs : s.mem.wf = true) : (s.retireEntry c e).mem.wf = true := by
  unfold State.retireEntry
  grind -linarith [State.event_wf, State.trace_wf, State.retireEffect_wf, State.updCtx_mem]

@[simp] theorem State.stopFamily_mem (s : State) (root : Nat) : (s.stopFamily root).mem = s.mem := rfl

@[simp] theorem State.withdrawAll_mem (s : State) (c : Nat) : (s.withdrawAll c).mem = s.mem := by
  unfold State.withdrawAll
  grind -linarith [State.withdrawTiles_mem, foldl_mem]

theorem State.report_wf {c : Nat} {e : Entry} {r : FaultRec} (hs : s.mem.wf = true) :
    (s.report c e r).mem.wf = true := by
  unfold State.report
  grind -linarith [State.updCtx_mem, State.post_wf, State.dump_wf]

theorem execEntryRetire_wf {c6 : BitVec 6} (hs : s.mem.wf = true) : NextWf (execEntryRetire c6 s) := by
  unfold execEntryRetire
  grind -linarith [State.report_wf, State.stopFamily_mem, State.withdrawAll_mem, State.retireEntry_wf, foldl_mem,
    nextWf_next]

theorem State.freeFamily_wf {fam : List Nat} (hs : s.mem.wf = true) : (s.freeFamily fam).mem.wf = true := by
  unfold State.freeFamily
  grind -linarith [State.dropFamily_wf, State.noteGone_mem, State.updCore_mem, foldl_mem]

theorem execGridEndingComplete_wf {kid : Nat} (hs : s.mem.wf = true) : NextWf (execGridEndingComplete kid s) := by
  unfold execGridEndingComplete
  grind -linarith [State.updEntry_mem, State.freeFamily_wf, nextWf_next]

/-! ### Every instruction -/

/-- The meaning of every instruction keeps the form: one arm for each. -/
theorem exec_wf {i : Instr} (hs : s.mem.wf = true) : NextWf (exec i s) :=
  match i with
  | .nop _ => execNop_wf hs
  | .bra _ => execBra_wf hs
  | .brd _ => execBrd_wf hs
  | .rcv _ => execRcv_wf hs
  | .reform _ => execReform_wf hs
  | .yield _ => execYield_wf hs
  | .await _ => execAwait_wf hs
  | .phase _ => execPhase_wf hs
  | .call _ => execCall_wf hs
  | .ret _ => execRet_wf hs
  | .jmpi _ => execJmpi_wf hs
  | .exit _ => execExit_wf hs
  | .crew _ => execCrew_wf hs
  | .uncrew _ => execUncrew_wf hs
  | .trap _ => execTrap_wf hs
  | .bkpt _ => execBkpt_wf hs
  | .clause _ => execClause_wf hs
  | .iadd _ => execIadd_wf hs
  | .isum3 _ => execIsum3_wf hs
  | .isub _ => execIsub_wf hs
  | .imul _ => execImul_wf hs
  | .imulh _ => execImulh_wf hs
  | .imad _ => execImad_wf hs
  | .idiv _ => execIdiv_wf hs
  | .irem _ => execIrem_wf hs
  | .imin _ => execImin_wf hs
  | .imax _ => execImax_wf hs
  | .iabs _ => execIabs_wf hs
  | .mov _ => execMov_wf hs
  | .movi _ => execMovi_wf hs
  | .movi64 _ => execMovi64_wf hs
  | .lea _ => execLea_wf hs
  | .sel _ => execSel_wf hs
  | .shl _ => execShl_wf hs
  | .shr _ => execShr_wf hs
  | .sar _ => execSar_wf hs
  | .and _ => execAnd_wf hs
  | .or _ => execOr_wf hs
  | .xor _ => execXor_wf hs
  | .not _ => execNot_wf hs
  | .tern _ => execTern_wf hs
  | .popc _ => execPopc_wf hs
  | .clz _ => execClz_wf hs
  | .brev _ => execBrev_wf hs
  | .bfe _ => execBfe_wf hs
  | .bfi _ => execBfi_wf hs
  | .fadd _ => execFadd_wf hs
  | .fmul _ => execFmul_wf hs
  | .ffma _ => execFfma_wf hs
  | .fdiv _ => execFdiv_wf hs
  | .fmin _ => execFmin_wf hs
  | .fmax _ => execFmax_wf hs
  | .frcp _ => execFrcp_wf hs
  | .frsq _ => execFrsq_wf hs
  | .fsqrt _ => execFsqrt_wf hs
  | .fexp2 _ => execFexp2_wf hs
  | .flog2 _ => execFlog2_wf hs
  | .fsin _ => execFsin_wf hs
  | .fcos _ => execFcos_wf hs
  | .pkadd _ => execPkadd_wf hs
  | .pkmul _ => execPkmul_wf hs
  | .pkfma _ => execPkfma_wf hs
  | .cvt _ => execCvt_wf hs
  | .icmp _ => execIcmp_wf hs
  | .fcmp _ => execFcmp_wf hs
  | .pand _ => execPand_wf hs
  | .por _ => execPor_wf hs
  | .pxor _ => execPxor_wf hs
  | .pnot _ => execPnot_wf hs
  | .pmov _ => execPmov_wf hs
  | .vote _ => execVote_wf hs
  | .xlane _ => execXlane_wf hs
  | .bcast _ => execBcast_wf hs
  | .redx _ => execRedx_wf hs
  | .scanx _ => execScanx_wf hs
  | .ballot _ => execBallot_wf hs
  | .matchx _ => execMatchx_wf hs
  | .ld _ => execLd_wf hs
  | .ldStrong _ => execLdStrong_wf hs
  | .lds _ => execLds_wf hs
  | .ldw _ => execLdw_wf hs
  | .ldt _ => execLdt_wf hs
  | .ldf _ => execLdf_wf hs
  | .pref _ => execPref_wf hs
  | .st _ => execSt_wf hs
  | .sts _ => execSts_wf hs
  | .stt _ => execStt_wf hs
  | .sete _ => execSete_wf hs
  | .atom _ => execAtom_wf hs
  | .red _ => execRed_wf hs
  | .amaxswp _ => execAmaxswp_wf hs
  | .cmt _ => execCmt_wf hs
  | .abt _ => execAbt_wf hs
  | .fence _ => execFence_wf hs
  | .bar _ => execBar_wf hs
  | .arrive _ => execArrive_wf hs
  | .join _ => execJoin_wf hs
  | .leave _ => execLeave_wf hs
  | .acopy _ => execAcopy_wf hs
  | .acopyg _ => execAcopyg_wf hs
  | .seal _ => execSeal_wf hs
  | .waitb _ => execWaitb_wf hs
  | .stage _ => execStage_wf hs
  | .tiledef _ => execTiledef_wf hs
  | .tiledefSt _ => execTiledefSt_wf hs
  | .tilest _ => execTilest_wf hs
  | .regclm _ => execRegclm_wf hs
  | .regrel _ => execRegrel_wf hs
  | .acclm _ => execAcclm_wf hs
  | .accrel _ => execAccrel_wf hs
  | .rquery _ => execRquery_wf hs
  | .rayset _ => execRayset_wf hs
  | .rayget _ => execRayget_wf hs
  | .hitget _ => execHitget_wf hs
  | .trace _ => execTrace_wf hs
  | .accept _ => execAccept_wf hs
  | .ignore _ => execIgnore_wf hs
  | .report _ => execReport_wf hs
  | .key _ => execKey_wf hs
  | .accum _ => execAccum_wf hs
  | .rng _ => execRng_wf hs
  | .mma _ => execMma_wf hs
  | .mmas _ => execMmas_wf hs
  | .mld _ => execMld_wf hs
  | .mst _ => execMst_wf hs
  | .mstSp _ => execMstSp_wf hs
  | .mzero _ => execMzero_wf hs
  | .mzeroStat _ => execMzeroStat_wf hs
  | .mcvt _ => execMcvt_wf hs
  | .cbdec _ => execCbdec_wf hs
  | .bscale _ => execBscale_wf hs
  | .tex2 _ => execTex2_wf hs
  | .texg _ => execTexg_wf hs
  | .launch _ => execLaunch_wf hs
  | .lwait _ => execLwait_wf hs
  | .lwaitTest _ => execLwaitTest_wf hs
  | .prog _ => execProg_wf hs
  | .srd _ => execSrd_wf hs
  | .swr _ => execSwr_wf hs
  | .tret _ => execTret_wf hs
  | .tlbinv _ => execTlbinv_wf hs
  | .cinv _ => execCinv_wf hs
  | .haltc _ => execHaltc_wf hs
  | .dump _ => execDump_wf hs
  | .ctxsave _ => execCtxsave_wf hs
  | .ctxload _ => execCtxload_wf hs
  | .fqpop _ => execFqpop_wf hs
  | .hostirq _ => execHostirq_wf hs
  | .waiti _ => execWaiti_wf hs
  | .nopq => execNopq_wf hs
  | .haltq => execHaltq_wf hs
  | .setq _ => execSetq_wf hs
  | .movq _ => execMovq_wf hs
  | .addq _ => execAddq_wf hs
  | .cmpq _ => execCmpq_wf hs
  | .ldq _ => execLdq_wf hs
  | .brq _ => execBrq_wf hs
  | .jmpq _ => execJmpq_wf hs
  | .callq _ => execCallq_wf hs
  | .retq => execRetq_wf hs
  | .bind _ => execBind_wf hs
  | .free _ => execFree_wf hs
  | .fencet _ => execFencet_wf hs
  | .waite _ => execWaite_wf hs
  | .signal _ => execSignal_wf hs
  | .klaunch _ => execKlaunch_wf hs
  | .rlaunch _ => execRlaunch_wf hs
  | .mmt _ => execMmt_wf hs
  | .cnvt _ => execCnvt_wf hs
  | .cpyt _ => execCpyt_wf hs
  | .redt _ => execRedt_wf hs
  | .fillt _ => execFillt_wf hs
  | .amaxt _ => execAmaxt_wf hs
  | .taskIssue _ => execTaskIssue_wf hs
  | .tileTaskIssue _ => execTileTaskIssue_wf hs
  | .tileTaskComplete _ => execTileTaskComplete_wf hs
  | .taskComplete _ => execTaskComplete_wf hs
  | .eventWaitSatisfied _ => execEventWaitSatisfied_wf hs
  | .entryRetire _ => execEntryRetire_wf hs
  | .gangPlacement _ => execGangPlacement_wf hs
  | .gangFallbackExpiry _ => execGangFallbackExpiry_wf hs
  | .gangPriorityAge _ => execGangPriorityAge_wf hs
  | .clusterReservation _ => execClusterReservation_wf hs
  | .contextFairnessStop _ => execContextFairnessStop_wf hs
  | .contextFairnessRun _ => execContextFairnessRun_wf hs
  | .recordBinned _ => execRecordBinned_wf hs
  | .spilledRecordReturn _ => execSpilledRecordReturn_wf hs
  | .binAged _ => execBinAged_wf hs
  | .binStarved _ => execBinStarved_wf hs
  | .binIssue _ => execBinIssue_wf hs
  | .dispatchComplete _ => execDispatchComplete_wf hs
  | .laneFiled _ => execLaneFiled_wf hs
  | .basinAged _ => execBasinAged_wf hs
  | .basinDraw _ => execBasinDraw_wf hs
  | .elevatedPriority _ => execElevatedPriority_wf hs
  | .waveRotation _ => execWaveRotation_wf hs
  | .rotatedWaveRestore _ => execRotatedWaveRestore_wf hs
  | .claimSatisfied _ _ => execClaimSatisfied_wf hs
  | .deadlockDetect _ => execDeadlockDetect_wf hs
  | .blockRestore _ => execBlockRestore_wf hs
  | .awaitSample _ => execAwaitSample_wf hs
  | .flagOpComplete _ _ => execFlagOpComplete_wf hs
  | .copyComplete _ => execCopyComplete_wf hs
  | .engineWriteComplete _ _ => execEngineWriteComplete_wf hs
  | .stageCopyIssue _ => execStageCopyIssue_wf hs
  | .stashFillComplete _ _ => execStashFillComplete_wf hs
  | .stashRecall _ _ => execStashRecall_wf hs
  | .blockEnd _ => execBlockEnd_wf hs
  | .cacheModeApply _ => execCacheModeApply_wf hs
  | .sareaApply _ => execSareaApply_wf hs
  | .rayRecordWrite _ => execRayRecordWrite_wf hs
  | .traversalRun _ => execTraversalRun_wf hs
  | .treeletFetchComplete _ => execTreeletFetchComplete_wf hs
  | .stepBudgetStop _ => execStepBudgetStop_wf hs
  | .gridEndingComplete _ => execGridEndingComplete_wf hs
  | .translationWalk _ _ _ => execTranslationWalk_wf hs
  | .eccErrorNoRequester _ => execEccErrorNoRequester_wf hs
  | .eccCorrectableError _ => execEccCorrectableError_wf hs
  | .handlerStart _ => execHandlerStart_wf hs
  | .coreHalted _ _ => execCoreHalted_wf hs
  | .contextSaved _ => execContextSaved_wf hs
  | .calloutGranTimeout _ => execCalloutGranTimeout_wf hs
  | .contextRestored _ => execContextRestored_wf hs
  | .rillRequestReceive _ _ => execRillRequestReceive_wf hs
  | .rillResponseReceive _ => execRillResponseReceive_wf hs
  | .rillRetransmit _ => execRillRetransmit_wf hs
  | .rillLinkFailure => execRillLinkFailure_wf hs
  | .rillPaired _ _ _ _ => execRillPaired_wf hs
  | .mergePair _ _ _ => execMergePair_wf hs
  | .mergeFlush _ => execMergeFlush_wf hs
  | .bar2Write _ _ => execBar2Write_wf hs
  | .bar2Read _ _ => execBar2Read_wf hs
  | .registerWrite _ => execRegisterWrite_wf hs
  | .ctxReqRun _ => execCtxReqRun_wf hs
  | .ctxReqStop _ => execCtxReqStop_wf hs
  | .ctxBoundSet _ _ => execCtxBoundSet_wf hs
  | .ctxBoundClear _ => execCtxBoundClear_wf hs
  | .ctxWeightWrite _ _ => execCtxWeightWrite_wf hs
  | .streamResume _ => execStreamResume_wf hs
  | .ctxSpcWrite _ _ => execCtxSpcWrite_wf hs
  | .streamLimitWrite _ _ => execStreamLimitWrite_wf hs
  | .arenaWrite _ _ _ => execArenaWrite_wf hs
  | .partCfgWrite _ _ => execPartCfgWrite_wf hs
  | .clModeWrite _ _ => execClModeWrite_wf hs
  | .residencyWrite _ _ _ => execResidencyWrite_wf hs
  | .hostQdone _ => execHostQdone_wf hs
  | .hostQheadWrite _ => execHostQheadWrite_wf hs
  | .hostDoorbell _ => execHostDoorbell_wf hs
  | .hostSigpendClear _ => execHostSigpendClear_wf hs
  | .hostIrqpendClear _ => execHostIrqpendClear_wf hs
  | .rillPair => execRillPair_wf hs
  | .rillUnpair => execRillUnpair_wf hs
  | .devSkidWrite _ => execDevSkidWrite_wf hs
  | .skidActive => execSkidActive_wf hs
  | .skidDisarmApply => execSkidDisarmApply_wf hs
  | .skidReplyCapture _ => execSkidReplyCapture_wf hs
  | .dbgCtlWrite _ _ => execDbgCtlWrite_wf hs
  | .dbgTraceBaseWrite _ _ => execDbgTraceBaseWrite_wf hs
  | .dbgResume _ => execDbgResume_wf hs
  | .dbgStep _ => execDbgStep_wf hs
  | .dbgStepLane _ => execDbgStepLane_wf hs
  | .dbgArmStop => execDbgArmStop_wf hs
  | .dbgDisarm => execDbgDisarm_wf hs
  | .stepComplete _ => execStepComplete_wf hs
  | .stepTimeout _ => execStepTimeout_wf hs
  | .preciseStop => execPreciseStop_wf hs
  | .sampleRecord _ _ => execSampleRecord_wf hs
  | .deviceReset => execDeviceReset_wf hs
  | .memoryTrainingDone => execMemoryTrainingDone_wf hs
  | .firmwareReady => execFirmwareReady_wf hs
  | .bringupFailure => execBringupFailure_wf hs
  | .allowRecompute _ => execAllowRecompute_wf hs
  | .thermalAlert _ => execThermalAlert_wf hs
  | .thermalHardLimit _ => execThermalHardLimit_wf hs
  | .thermalRecover _ => execThermalRecover_wf hs
  | .thermalShutdown _ => execThermalShutdown_wf hs
  | .hostReadComplete _ => execHostReadComplete_wf hs
  | .linkRetrain => execLinkRetrain_wf hs

/-! ### Fetch -/

@[simp] theorem State.freshCode_mem (s : State) (kid cl : Nat) : (s.freshCode kid cl).mem = s.mem := by
  unfold State.freshCode
  grind -linarith [State.updGrid_mem, State.updCluster_mem]

@[simp] theorem State.codePos_mem (s : State) (cl block : Nat) : (s.codePos cl block).2.mem = s.mem := by
  unfold State.codePos
  grind -linarith [State.pick_mem, State.updCluster_mem]

theorem State.fetch_wf {h : Here} (hs : s.mem.wf = true) : (s.fetch h).MemWf := by
  unfold State.fetch
  grind -linarith [State.codePos_mem, State.freshCode_mem, State.parkPage_wf, State.translate_wf, State.raise_wf,
    Fetched.memWf_slot, Fetched.memWf_over]

theorem State.decodeSlot_wf {h : Here} {lo hi : DWord} (hs : s.mem.wf = true) : (s.decodeSlot h lo hi).MemWf := by
  unfold State.decodeSlot
  grind -linarith [State.raise_wf, State.hit_wf, Issue.memWf_instr, Issue.memWf_over]

theorem State.issueFor_wf {h : Here} (hs : s.mem.wf = true) : (s.issueFor h).MemWf := by
  unfold State.issueFor
  grind -linarith [State.decodeSlot_wf, State.fetch_wf, Issue.memWf_over, Fetched.memWf_slot, Fetched.memWf_over]

theorem State.startClause_wf {h : Here} {t : State} (e : (s.startClause h).1 = some t) (hs : s.mem.wf = true) :
    t.mem.wf = true := by
  unfold State.startClause at e
  grind -linarith [State.raiseSparse_wf]

theorem State.nextOfWave_wf {s0 : State} {core slot : Nat} (hs0 : s0.mem.wf = true) :
    (s0.nextOfWave core slot).MemWf := by
  unfold State.nextOfWave
  grind -linarith [State.updCore_mem, State.issueFor_wf, → State.startClause_wf, State.offer_mem, Issue.memWf_over]

theorem State.nextOfHandler_wf {s0 : State} {f : Nat} (hs0 : s0.mem.wf = true) : (s0.nextOfHandler f).MemWf := by
  unfold State.nextOfHandler
  grind -linarith [State.issueFor_wf, Issue.memWf_over]

@[simp] theorem State.sendAll_mem (s s' : State) (cmt wait : Bool) (peer : List (Nat × List Nat)) (ts : List Thread) :
    (s.sendAll s' cmt wait peer ts).mem = s'.mem := by
  unfold State.sendAll
  grind -linarith [State.rillSend_mem, foldl_mem]

theorem State.sendRill_wf {s' : State} {h : Here} {i : Instr} {ts : List Thread} (hs : s.mem.wf = true)
    (hs' : s'.mem.wf = true) : (s.sendRill s' h i ts).mem.wf = true := by
  unfold State.sendRill
  grind -linarith [State.updRill_mem, State.sendAll_mem, State.raise_wf]

@[simp] theorem State.noteIssue_mem (s' : State) (w : Wave) (core slot : Nat) (i : Instr) :
    (s'.noteIssue w core slot i).mem = s'.mem := by
  unfold State.noteIssue
  grind -linarith [State.updCluster_mem, State.updCore_mem]

theorem State.afterWave_wf {s' : State} {core slot : Nat} {i : Instr} (hs : s.mem.wf = true) (hs' : s'.mem.wf = true) :
    (s.afterWave s' core slot i).mem.wf = true := by
  unfold State.afterWave
  grind -linarith [State.logged_wf, State.sendRill_wf, State.noteIssue_mem]

theorem State.afterHandler_wf {s' : State} {f : Nat} {i : Instr} (hs : s.mem.wf = true) (hs' : s'.mem.wf = true) :
    (s.afterHandler s' f i).mem.wf = true := by
  unfold State.afterHandler
  grind -linarith [State.logged_wf, State.sendRill_wf]

@[simp] theorem State.takeTurn_mem (s : State) (f c : Nat) : (s.takeTurn f c).mem = s.mem := by
  unfold State.takeTurn
  grind -linarith [State.updPart_mem]

@[simp] theorem State.afterStream_mem (s s' : State) (c : Nat) : (s.afterStream s' c).mem = s'.mem := rfl

theorem State.nextOfStream_wf {s0 : State} {c : Nat} (hs0 : s0.mem.wf = true) : (s0.nextOfStream c).MemWf := by
  unfold State.nextOfStream
  grind -linarith [State.decodeFault_wf, State.streamErr_wf, State.unitRead_wf, State.takeTurn_mem, Issue.memWf_instr,
    Issue.memWf_over]

@[simp] theorem mixLogBytes_mem (vs : List Byte) (l : List BufByte) (s : State) :
    (mixLogBytes vs l s).2.mem = s.mem := by
  fun_induction mixLogBytes vs l s <;> grind -linarith [State.pickFrom_mem]

@[simp] theorem mixLogEntries_mem (vs : List Byte) (l : List BufEntry) (s : State) :
    (mixLogEntries vs l s).2.mem = s.mem := by
  fun_induction mixLogEntries vs l s <;> grind -linarith [mixLogBytes_mem]

@[simp] theorem mixLogBufs_mem (rivals : Nat → List Byte) (l : List Buf) (s : State) :
    (mixLogBufs rivals l s).2.mem = s.mem := by
  fun_induction mixLogBufs rivals l s <;> grind -linarith [mixLogEntries_mem]

theorem State.mixLogs_wf (hs : s.mem.wf = true) : s.mixLogs.mem.wf = true := by
  unfold State.mixLogs
  grind -linarith [mixLogBufs_mem, Memory.wf]

theorem State.landSome_wf {core : Nat} (hs : s.mem.wf = true) : (s.landSome core).mem.wf = true := by
  unfold State.landSome
  grind -linarith [State.landStore_wf, State.landOp_mem, State.pick_mem, foldl_wf]

theorem State.tickCore_wf {core : Nat} (hs : s.mem.wf = true) : (s.tickCore core).mem.wf = true := by
  unfold State.tickCore
  grind -linarith [State.updCore_mem, State.judgeBasins_mem, State.tickPort_wf, State.landSome_wf]

theorem State.tickCluster_wf {cl : Nat} (hs : s.mem.wf = true) : (s.tickCluster cl).mem.wf = true := by
  unfold State.tickCluster
  grind -linarith [State.judgeBars_mem, State.starveBins_mem, State.updCluster_mem, State.endStep_mem, State.samples_wf,
    State.tickCore_wf, foldl_wf]

@[simp] theorem State.tickLane_mem (s : State) (f : Nat) : (s.tickLane f).mem = s.mem := by
  unfold State.tickLane
  grind -linarith [State.updPart_mem]

theorem State.strike_wf (hs : s.mem.wf = true) : s.strike.mem.wf = true := by
  unfold State.strike
  grind -linarith [Memory.wf]

@[simp] theorem State.advance_mem (s : State) : s.advance.mem = s.mem := by
  unfold State.advance
  grind -linarith [State.updRill_mem]

theorem State.stopIfDue_wf (hs : s.mem.wf = true) : s.stopIfDue.mem.wf = true := by
  unfold State.stopIfDue
  grind -linarith [State.preciseStop_wf]

theorem State.cycle_wf (hs : s.mem.wf = true) : s.cycle.mem.wf = true := by
  unfold State.cycle
  grind -linarith [State.strike_wf, State.mixLogs_wf, State.spendArm_mem, State.setShares_mem, State.trimKept_mem,
    State.advance_mem, State.judgeWaites_mem, State.tickLane_mem, State.stopIfDue_wf, State.tickCluster_wf, foldl_wf]

@[simp] theorem State.nextActor_mem (s : State) : s.nextActor.2.mem = s.mem := by
  unfold State.nextActor
  grind -linarith

/-! ### The step of each agent -/

theorem follow_wf {f : State → State} {x : Res} (hf : ∀ (s : State), s.mem.wf = true → (f s).mem.wf = true)
    (hx : NextWf x) : NextWf (follow f x) := by
  unfold follow
  grind -linarith [nextWf_next]

theorem stepWave_wf {core slot : Nat} (hs : s.mem.wf = true) : NextWf (stepWave core slot s) := by
  unfold stepWave
  have := State.nextOfWave_wf (core := core) (slot := slot) hs
  split
  next h => simpa [h] using this
  next h =>
    rw [h, Issue.memWf_instr] at this
    split
    · exact follow_wf (fun _ => State.afterWave_wf this) (exec_wf this)
    · simpa using hs

theorem stepHandler_wf {f : Nat} (hs : s.mem.wf = true) : NextWf (stepHandler f s) := by
  unfold stepHandler
  have hi := State.nextOfHandler_wf (f := f) hs
  split
  next h => simpa [h] using hi
  next h =>
    rw [h, Issue.memWf_instr] at hi
    split
    · exact follow_wf (fun _ => State.afterHandler_wf hi) (exec_wf hi)
    · simpa using hs

theorem stepStream_wf {c : Nat} (hs : s.mem.wf = true) : NextWf (stepStream c s) := by
  unfold stepStream
  have hi := State.nextOfStream_wf (c := c) hs
  split
  next h => simpa [h] using hi
  next h =>
    rw [h, Issue.memWf_instr] at hi
    exact follow_wf (fun t ht => by simpa using ht) (exec_wf hi)

theorem act_wf {a : Actor} (hs : s.mem.wf = true) : NextWf (act a s) := by
  unfold act
  grind -linarith [State.cycle_wf, exec_wf, stepStream_wf, stepHandler_wf, stepWave_wf, nextWf_next]

theorem step_wf (hs : s.mem.wf = true) : NextWf (step s) := by
  unfold step
  grind -linarith [State.nextActor_mem, act_wf]

/-- Settles O57, by the case of the agent that acts: whichever does, what it leaves has the form. -/
theorem stepsKeepMemoryCanonical : Obligations.StepsKeepMemoryCanonical := fun _ t hs e => step_wf hs t e

end Sys2Proof.Machine

/-! ## What the updates of a core leave of its other parts -/

namespace Sys2Proof.Machine

variable {s : State}

/-- The clocks of a cluster run, so its event has its own meaning. -/
theorem Runs.live {cl : Nat} (hr : Runs s cl) (k : Res) : s.live cl k = k := by
  obtain ⟨hf, hd⟩ := hr
  simp [State.live, hf, hd]

theorem Table.get?_map {α : Type} {f : Nat × α → Nat × α} (hf : ∀ e, (f e).1 = e.1) (t : Table α) (n : Nat) :
    Table.get? (t.map f) n = (Table.get? t n).map fun x => (f (n, x)).2 := by
  induction t with
  | nil => rfl
  | cons e t ih =>
    obtain ⟨k, x⟩ := e
    obtain ⟨y, hy⟩ : ∃ y, f (k, x) = (k, y) := ⟨(f (k, x)).2, Prod.ext (hf (k, x)) rfl⟩
    rw [List.map_cons, hy]
    simp only [Table.get?]
    split
    next h => subst h; simp [hy]
    next h => exact ih

theorem listGet_listUpd_congr {α β : Type} {g : α → β} {f : α → α} (hf : ∀ a, g (f a) = g a) (l : List α) (n m : Nat)
    (d : α) : g (listGet (listUpd l n f) m d) = g (listGet l m d) := by
  simp only [listGet, getElem?_listUpd]
  split
  · cases l[m]? <;> simp [hf]
  · rfl

/-- A part of a core that an update leaves reads as before, of whichever core. -/
theorem State.core_updCore_congr {β : Type} {g : Core → β} {f : Core → Core} (hf : ∀ k, g (f k) = g k) (s : State)
    (c n : Nat) : g ((s.updCore c f).core n) = g (s.core n) := listGet_listUpd_congr hf _ _ _ _

section
variable (s : State) (core row : Nat) (empty : Bool) (ls : List Nat) (n : Nat)

theorem State.setLines_core_congr {β : Type} {g : Core → β} (hg : ∀ (k : Core) l, g { k with empty := l } = g k) :
    g ((s.setLines core row empty ls).core n) = g (s.core n) :=
  State.core_updCore_congr (fun k => hg k _) _ _ _

@[simp] theorem State.setLines_deps : ((s.setLines core row empty ls).core n).deps = (s.core n).deps :=
  s.setLines_core_congr core row empty ls n fun _ _ => rfl
@[simp] theorem State.setLines_ops : ((s.setLines core row empty ls).core n).ops = (s.core n).ops :=
  s.setLines_core_congr core row empty ls n fun _ _ => rfl
@[simp] theorem State.setLines_scratch : ((s.setLines core row empty ls).core n).scratch = (s.core n).scratch :=
  s.setLines_core_congr core row empty ls n fun _ _ => rfl

end

/-- The trace record touches memory and the context's debug registers. -/
@[simp] theorem State.trace_grids (ctx cls core slot detail pc : Nat) :
    (s.trace ctx cls core slot detail pc).grids = s.grids := by
  unfold State.trace
  dsimp only
  split <;> rfl

@[simp] theorem State.trace_cores (ctx cls core slot detail pc : Nat) :
    (s.trace ctx cls core slot detail pc).cores = s.cores := by
  unfold State.trace
  dsimp only
  split <;> rfl

/-- A fault of a grid reaches no core. -/
@[simp] theorem State.endGrid_cores (kid slot : Nat) (r : FaultRec) : (s.endGrid kid slot r).cores = s.cores := by
  unfold State.endGrid State.traceFault
  dsimp only
  split
  · rfl
  · rw [State.trace_cores]
    split
    · rfl
    · split <;> rfl

/-! ## The Weir issues tasks (O41) -/

/-- What a fault of its family leaves of a grid. -/
def Grid.unfaulted (g : Grid) : Grid := { g with ending := false, fault := none, faultSlot := 0 }

theorem State.map_get?_updGrid {β : Type} {g : Grid → β} {f : Grid → Grid} (hf : ∀ x, g (f x) = g x) (k n : Nat) :
    (Table.get? (s.updGrid k f).grids n).map g = (Table.get? s.grids n).map g := by
  rw [State.get?_updGrid]
  split
  · cases Table.get? s.grids n <;> simp [hf]
  · rfl

theorem State.get?_endGrid_unfaulted (kid slot : Nat) (r : FaultRec) (k : Nat) :
    (Table.get? (s.endGrid kid slot r).grids k).map Grid.unfaulted = (Table.get? s.grids k).map Grid.unfaulted := by
  unfold State.endGrid State.traceFault
  dsimp only
  split
  · rfl
  · rw [State.trace_grids]
    split
    · rw [Table.get?_map fun e => by split <;> [rfl; split <;> rfl]]
      cases Table.get? s.grids k with
      | none => rfl
      | some g =>
        simp only [Option.map_some]
        split <;> [rfl; split <;> rfl]
    · split
      · exact State.map_get?_updGrid (by intro; rfl) _ _
      · exact State.map_get?_updGrid (by intro; rfl) _ _

/-- The test of a grid that has not been tested marks it, and changes nothing else of it but its fault. -/
theorem State.get?_testGrid {g : Grid} {f k : Nat} {P : Grid → Prop} (hk : g.kid = k) (ht : g.tested = false)
    (hg : Table.get? s.grids k = some g) (hP : ∀ g', g'.unfaulted = { g with tested := true }.unfaulted → P g') :
    ∃ g', Table.get? (s.testGrid f g).grids k = some g' ∧ P g' := by
  suffices h : (Table.get? (s.testGrid f g).grids k).map Grid.unfaulted = some { g with tested := true }.unfaulted by
    obtain ⟨g', hg', hu⟩ := Option.map_eq_some_iff.mp h
    exact ⟨g', hg', hP g' hu⟩
  subst hk
  unfold State.testGrid
  simp only [ht, Bool.false_eq_true, if_false]
  split
  · simp [State.get?_updGrid, hg]
  · unfold State.unplaceable
    rw [State.get?_endGrid_unfaulted]
    simp [State.get?_updGrid, hg]

section
variable {x : EntryId} {e : Entry}

theorem State.streamIssues_of {c : Nat} (hd : s.dev.stopped = false) (hr : (s.ctx c).st = .running)
    (hp : (s.ctx c).stream.reporting = false) : s.streamIssues c = true := by
  simp [State.streamIssues, hd, hr, hp]

/-- The tile tasks of a task that has issued are placed. -/
theorem taskIssue_issued (he : HasEntry s x e) (hs : s.streamIssues x.ctx.toNat = true) (hi : e.st = .issued) :
    exec (.taskIssue x) s = .next (s.placeTiles x.ctx.toNat x.seq) := by
  rw [exec_taskIssue, execTaskIssue, show s.entryOf _ _ = some e from he]
  simp [hi, hs]

/-- A task that is not ready, has no place left in the cc, or is not the first of its lane, stays. -/
theorem taskIssue_stays (he : HasEntry s x e) (hi : e.st = .decoded)
    (hn : s.issuable x.ctx.toNat e = false ∨ 4 ≤ Table.getD s.cc.tasks (s.partOf x.ctx.toNat) 0 ∨
      ∃ y ∈ s.issuables (s.partOf x.ctx.toNat), taskBefore y (x.ctx.toNat, e) = true) :
    exec (.taskIssue x) s = .next s := by
  rw [exec_taskIssue, execTaskIssue, show s.entryOf _ _ = some e from he]
  have hc : (!s.issuable x.ctx.toNat e || decide (4 ≤ Table.getD s.cc.tasks (s.partOf x.ctx.toNat) 0) ||
      (s.issuables (s.partOf x.ctx.toNat)).any fun y => taskBefore y (x.ctx.toNat, e)) = true := by
    simpa [or_assoc] using hn
  simp only [hi, hc]
  rfl

/-- The task of an entry is the next of its lane to issue (R329, R392). -/
def NextTask (s : State) (x : EntryId) (e : Entry) : Prop :=
  HasEntry s x e ∧ s.streamIssues x.ctx.toNat = true ∧ e.st = .decoded ∧
  (s.ctx x.ctx.toNat).stream.isReady e = true ∧ s.taskWaits x.ctx.toNat e.seq issueWaiter = false ∧
  Table.getD s.cc.tasks (s.partOf x.ctx.toNat) 0 < 4 ∧
  ∀ y ∈ s.issuables (s.partOf x.ctx.toNat), taskBefore y (x.ctx.toNat, e) = false

theorem NextTask.goes (hn : NextTask s x e) (hk : (e.launch.isSome || e.task.isSome) = true) :
    (!s.issuable x.ctx.toNat e || decide (4 ≤ Table.getD s.cc.tasks (s.partOf x.ctx.toNat) 0) ||
      (s.issuables (s.partOf x.ctx.toNat)).any fun y => taskBefore y (x.ctx.toNat, e)) = false := by
  obtain ⟨he, hs, hd, hr, hw, hc, hb⟩ := hn
  have hi : s.issuable x.ctx.toNat e = true := by simp only [State.issuable, hs, hd, hr, hw, hk]; rfl
  simpa [hi] using And.intro hc hb

theorem NextTask.launch (hn : NextTask s x e) {d : LDesc} (hl : e.launch = some d) :
    exec (.taskIssue x) s = .next ((s.noteTask (s.partOf x.ctx.toNat)).issueLaunch x.ctx.toNat e d) := by
  have hg := hn.goes (by simp [hl])
  obtain ⟨he, hs, hd, hr, hw, hc, hb⟩ := hn
  rw [exec_taskIssue, execTaskIssue, show s.entryOf _ _ = some e from he]
  simp only [hg, hd, hl]
  rfl

theorem NextTask.task (hn : NextTask s x e) {i : Instr} {d : TDesc} (hl : e.launch = none) (hi : e.i = some i)
    (ht : e.task = some d) :
    exec (.taskIssue x) s = .next ((s.noteTask (s.partOf x.ctx.toNat)).issueTask x.ctx.toNat e i d) := by
  have hg := hn.goes (by simp [ht])
  obtain ⟨he, hs, hd, hr, hw, hc, hb⟩ := hn
  rw [exec_taskIssue, execTaskIssue, show s.entryOf _ _ = some e from he]
  simp only [hg, hd, hl, hi, ht]
  rfl

end

/-- A tensor task whose slots are all accepted starts, where it reads nothing of its own first. -/
theorem State.issueTask_start {c : Nat} {e : Entry} {i : Instr} {d : TDesc}
    (hs : ∀ k ∈ slotViews i, ((d.slot k).accepted (taskAccepts i d k)).isSome = true)
    (hc : ∀ y, i ≠ .cpyt y) (hr : ∀ y, i = .redt y → d.pairsMode = false) :
    s.issueTask c e i d = s.startTask c e i d := by
  have hf : ((slotViews i).find? fun k => ((d.slot k).accepted (taskAccepts i d k)).isNone) = none := by
    rw [List.find?_eq_none]
    intro k hk
    simp [Option.isNone_eq_false_iff.mpr (hs k hk)]
  simp only [State.issueTask, hf]
  split
  next y => exact absurd rfl (hc y)
  next y => simp [hr y rfl]
  next => rfl

/-- A slot that is not accepted is the task's fault. -/
theorem State.issueTask_fault {c : Nat} {e : Entry} {i : Instr} {d : TDesc} {k : Nat}
    (hf : ((slotViews i).find? fun k => ((d.slot k).accepted (taskAccepts i d k)).isNone) = some k) :
    s.issueTask c e i d = s.issueFault c e.seq 4 9 0 0 (k + 8) := by
  simp only [State.issueTask, hf]

/-- The grid of a launch whose argument area has been translated to the state `s1`. -/
theorem State.issueLaunch_grid {s1 : State} {c : Nat} {e : Entry} {d : LDesc} {pas : List Nat}
    (hp : s.unitPas (s.laneVia c) c ((s.ctx c).stream.arenaBase + 128 * e.slot) 128 .write = (.ok pas, s1)) :
    ∃ g, Table.get? (s.issueLaunch c e d).grids s1.uids = some g ∧ g.ctx = c ∧ g.seq = e.seq ∧ g.lrec = d.lrec ∧
      g.count = d.count ∧ g.next = 0 ∧ g.root = s1.uids ∧ g.argAddr = (s.ctx c).stream.arenaBase + 128 * e.slot ∧
      (∀ y, e.i = some (.rlaunch y) → g.ray = true ∧ g.header = d.header) ∧
      (∀ y, e.i = some (.klaunch y) → g.ray = false ∧ g.tested = true) := by
  unfold State.issueLaunch
  simp only [hp]
  split
  next y hr =>
    rw [if_pos rfl]
    refine ⟨_, by rw [State.trace_grids]; exact Table.get?_put_self _ _ _, rfl, rfl, rfl, rfl, rfl, rfl, rfl, ?_, ?_⟩
    · exact fun _ _ => ⟨rfl, rfl⟩
    · exact fun _ hy => by simp [hy] at hr
  next hr =>
    rw [if_neg Bool.false_ne_true]
    refine State.get?_testGrid rfl rfl (by rw [State.trace_grids]; exact Table.get?_put_self _ _ _) fun g hu => ?_
    refine ⟨congrArg Grid.ctx hu, congrArg Grid.seq hu, congrArg Grid.lrec hu, congrArg Grid.count hu,
      congrArg Grid.next hu, congrArg Grid.root hu, congrArg Grid.argAddr hu, ?_, ?_⟩
    · exact fun y hy => absurd hy (hr y)
    · exact fun _ _ => ⟨congrArg Grid.ray hu, congrArg Grid.tested hu⟩

section
variable {x : CoreItem} {t : TileTask}

/-- Of the tile tasks of a core that can start, the oldest takes its place in the order of its engine. -/
theorem tileTaskIssue_starts (hr : Runs s (clusterOf (coreNum x.core)))
    (ht : Table.get? (s.core (coreNum x.core)).deps x.n = some t) (hg : s.taskReady (coreNum x.core) t = true)
    (ho : ∀ e ∈ (s.core (coreNum x.core)).deps, s.taskReady (coreNum x.core) e.2 = true → t.age ≤ e.2.age) :
    exec (.tileTaskIssue x) s = .next ((({ (if t.mat then s.noteTaskTile (coreNum x.core) else s) with
        uids := s.uids + 1 } : State).updCore (coreNum x.core) fun k => { k with
      deps := Table.put k.deps x.n
        { t with started := true, turn := s.uids, acc := t.mat, pos := s.mem.pos } }).setLines (coreNum x.core) 2 true
          t.wlines) := by
  have hold : ((s.core (coreNum x.core)).deps.any fun e => s.taskReady (coreNum x.core) e.2 && e.2.before t) = false := by
    simpa [TileTask.before] using ho
  simp only [exec_tileTaskIssue, execTileTaskIssue, hr.live, ht, hg, hold]
  rfl

/-- A tile task that is not ready does not start. -/
theorem tileTaskIssue_stays (hr : Runs s (clusterOf (coreNum x.core)))
    (ht : Table.get? (s.core (coreNum x.core)).deps x.n = some t) (hg : s.taskReady (coreNum x.core) t = false) :
    exec (.tileTaskIssue x) s = .next s := by
  simp only [exec_tileTaskIssue, execTileTaskIssue, hr.live, ht, hg]
  rfl

/-- A tile task that leaves its core stands there no longer. -/
theorem State.endTile_leaves {core key : Nat} (hc : core < s.cores.length) :
    (s.endTile core key t).mem = s.mem ∧ Table.get? ((s.endTile core key t).core core).deps key = none := by
  refine ⟨rfl, ?_⟩
  unfold State.endTile State.updEntry
  rw [State.updCtx_core, State.setLines_deps, State.core_updCore_self _ _ _ hc]
  dsimp only
  rw [Table.get?_map (by intro; rfl), Table.get?_del_self, Option.map_none]

section
variable {e : Entry} {i : Instr} {d : TDesc}

/-- A tile task that has started and waits for no page, with its entry, instruction and descriptor. -/
def TileGoes (s : State) (x : CoreItem) (t : TileTask) (e : Entry) (i : Instr) (d : TDesc) : Prop :=
  Runs s (clusterOf (coreNum x.core)) ∧ Table.get? (s.core (coreNum x.core)).deps x.n = some t ∧
  s.entryOf t.ctx t.seq = some e ∧ e.i = some i ∧ e.task = some d ∧ t.started = true ∧
  s.taskWaits t.ctx t.seq (tileWaiter (coreNum x.core) x.n) = false

/-- Before it has computed it ends where its entry has faulted, and else computes in its turn. -/
theorem TileGoes.computes (h : TileGoes s x t e i d) (ho : t.out = none) :
    exec (.tileTaskComplete x) s = .next (if e.st = .faulted then s.endTile (coreNum x.core) x.n t
      else if (if t.copy then (s.core (coreNum x.core)).copyTurn t.turn
          else (s.core (coreNum x.core)).mayBegin t.turn) then s.beginTile (coreNum x.core) x.n t i d
      else s) := by
  obtain ⟨hr, ht, he, hi, hd, hs, hw⟩ := h
  simp only [exec_tileTaskComplete, execTileTaskComplete, hr.live, ht, he, hi, hd, hs, hw, ho, Bool.not_true,
    Bool.or_self, Bool.false_eq_true, if_false]
  split <;> rfl

/-- Once it has computed it makes its writes, and leaves its core with the last. -/
theorem TileGoes.writes (h : TileGoes s x t e i d) {out : List (Nat × Byte)} (ho : t.out = some out) :
    exec (.tileTaskComplete x) s = .next (if out = [] ∧ t.pairs = [] then s.endTile (coreNum x.core) x.n t
      else s.writeTile (coreNum x.core) x.n e.agent t out) := by
  obtain ⟨hr, ht, he, hi, hd, hs, hw⟩ := h
  simp only [exec_tileTaskComplete, execTileTaskComplete, hr.live, ht, he, hi, hd, hs, hw, ho, Bool.not_true,
    Bool.or_self, Bool.false_eq_true, if_false, Bool.and_eq_true, List.isEmpty_iff]
  split <;> rfl

end
end

/-- Settles O41, by the case of the event, and within it by how far the task has come. -/
theorem tasksIssue : Obligations.TasksIssue := by
  refine ⟨?_, ?_, ?_⟩
  · intro x s e c hd hr hp he f
    have hs := State.streamIssues_of hd hr hp
    refine ⟨taskIssue_issued he hs, ?_, ?_⟩
    · intro hi hrd hw hc hb
      have hn : NextTask s x e := ⟨he, hs, hi, hrd, hw, hc, hb⟩
      refine ⟨fun d => hn.launch, ?_, ?_⟩
      · intro i d hl hi ht hk hcp hrt
        rw [hn.task hl hi ht, State.issueTask_start hk hcp hrt]
      · intro i d k hl hi ht hk
        rw [hn.task hl hi ht, State.issueTask_fault hk]
    · intro hi hn
      refine taskIssue_stays he hi (hn.imp_left fun h => ?_)
      show s.issuable c e = false
      simp [State.issuable, h]
  · exact fun s s1 c e d pas => State.issueLaunch_grid
  · intro x s t core hr ht
    refine ⟨tileTaskIssue_starts hr ht, tileTaskIssue_stays hr ht, ?_⟩
    intro e i d he hi hd hs hw turn
    have hg : TileGoes s x t e i d := ⟨hr, ht, he, hi, hd, hs, hw⟩
    refine ⟨?_, ?_, ?_, ?_, ?_⟩
    · intro ho hf hturn
      rw [hg.computes ho, if_neg hf, if_pos hturn]
    · intro ho hf hturn
      rw [hg.computes ho, if_neg hf, if_neg (Bool.not_eq_true _ ▸ hturn)]
    · intro ho hf
      rw [hg.computes ho, if_pos hf]
    · intro out ho hne
      rw [hg.writes ho, if_neg (not_and_or.mpr hne)]
    · intro ho hp hc
      rw [hg.writes ho, if_pos ⟨rfl, hp⟩]
      exact ⟨_, rfl, State.endTile_leaves hc⟩

end Sys2Proof.Machine

/-! ## What a translation and a request leave of a core -/

namespace Sys2Proof.Machine

variable {s : State}

@[simp] theorem State.pick_cores (s : State) (n : Nat) : (s.pick n).2.cores = s.cores := by
  unfold State.pick
  split <;> rfl

theorem State.core_eq_of_cores {t : State} (h : t.cores = s.cores) (n : Nat) : t.core n = s.core n := by
  simp only [State.core, h]

section
variable {β : Type} {g : Core → β} (hg : ∀ (k : Core) l, g { k with tlb := l } = g k)
include hg

theorem State.fillTlb_core_congr (s : State) (x : Via) (o : WalkOut) (n : Nat) :
    g ((s.fillTlb x o).core n) = g (s.core n) := by
  unfold State.fillTlb
  dsimp only
  split
  · exact listGet_listUpd_congr (fun k => hg k _) _ _ _ _
  · rfl

theorem State.take_core_congr (s : State) (x : Via) (r : Route) (n : Nat) :
    g ((s.take x r).core n) = g (s.core n) := by
  unfold State.take
  split
  · rfl
  · split
    · exact listGet_listUpd_congr (fun k => hg k _) _ _ _ _
    · rfl
  · unfold State.applyWalk
    rw [State.fillTlb_core_congr hg]
    split <;> rfl

/-- A translation changes no part of a core but its translations. -/
theorem State.translate_core_congr (s : State) (x : Via) (ctx va : Nat) (kind : Access) (n : Nat) :
    g ((s.translate x ctx va kind).2.core n) = g (s.core n) := by
  unfold State.translate
  dsimp only
  split
  · rfl
  · split
    · exact State.take_core_congr hg _ _ _ _
    · rw [State.take_core_congr hg, State.core_eq_of_cores (State.pick_cores _ _)]

theorem State.unitPa_core_congr (s : State) (x : Via) (ctx va : Nat) (kind : Access) (n : Nat) :
    g ((s.unitPa x ctx va kind).2.core n) = g (s.core n) := by
  unfold State.unitPa
  dsimp only
  split
  · rfl
  · split <;> exact State.translate_core_congr hg _ _ _ _ _ _

end

@[simp] theorem State.take_length (s : State) (x : Via) (r : Route) :
    (s.take x r).cores.length = s.cores.length := by
  unfold State.take State.applyWalk State.fillTlb
  dsimp only
  split
  · rfl
  · split <;> simp
  · split <;> split <;> simp

@[simp] theorem State.unitPa_length (s : State) (x : Via) (ctx va : Nat) (kind : Access) :
    (s.unitPa x ctx va kind).2.cores.length = s.cores.length := by
  have ht : (s.translate x ctx va kind).2.cores.length = s.cores.length := by
    unfold State.translate
    dsimp only
    split
    · rfl
    · split <;> simp
  unfold State.unitPa
  dsimp only
  split
  · rfl
  · split <;> exact ht

@[simp] theorem State.reach_cores (x : Source) (c va pa : Nat) : (s.reach x c va pa).cores = s.cores := by
  unfold State.reach
  split <;> rfl

@[simp] theorem State.farRead_cores (who : RillWho) (kid : Nat) (block : Bool) (pas : List Nat) :
    (s.farRead who kid block pas).cores = s.cores := by
  unfold State.farRead State.rillSend
  split <;> [split <;> rfl; rfl]

theorem State.copyLine_copies {s' : State} {core ctx a pa : Nat} {kind : Access}
    (h : s.copyLine core ctx a kind = (.ok pa, s')) (n : Nat) :
    (s'.core n).copies = (s.core n).copies ∧ s'.cores.length = s.cores.length := by
  unfold State.copyLine at h
  dsimp only at h
  split at h
  · cases h
  · obtain ⟨-, rfl⟩ := Prod.mk.inj h
    rw [State.core_eq_of_cores (State.reach_cores _ _ _ _), State.reach_cores]
    exact ⟨State.unitPa_core_congr (g := Core.copies) (fun _ _ => rfl) _ _ _ _ _ _, State.unitPa_length _ _ _ _ _⟩

/-! ## Copies are handed to the engine (O22) -/

/-- The requests of an ACOPY's lanes. -/
def acopyReqs (x : AcopyOp) (h : Here) (ls : Table Thread) : List CopyReq :=
  ls.map fun e =>
    { lane := e.1, t := e.2, prog := (Src.int64 h.wave none e.2 x.pa).toNat
      gbase := (Src.int64 h.wave none e.2 x.ga).toNat, other := 0
      so := (Src.int h.wave none e.2 x.so).toNat }

/-- The requests of an ACOPYG's lanes. -/
def acopygReqs (x : AcopygOp) (h : Here) (ls : Table Thread) : List CopyReq :=
  ls.map fun e =>
    let sb := (Src.int64 h.wave none e.2 x.sb).toNat
    let db := (Src.int64 h.wave none e.2 x.db).toNat
    { lane := e.1, t := e.2, prog := (Src.int64 h.wave none e.2 x.pa).toNat
      gbase := if x.scatter then db else sb, other := if x.scatter then sb else db, so := 0 }

section
variable {s' : State} {h : Here} {ls : Table Thread} {l : List (CopyReq × Prog)}

/-- The first byte of the tile that a thread's copy names, in its core's scratchpad. -/
def State.tileByte (s : State) (t : Thread) (n : Nat) : Nat :=
  ((s.tileNamed t n).map fun e => e.1.scratch + 128 * e.2.base).getD 0

/-- An ACOPY whose copies pass their checks waits for its tiles, then for room, and then hands its copies over. -/
theorem acopy_checked {x : AcopyOp}
    (hi : Issues s { len := 16, g := x.g, cluster := true, orders := true,
                     uses := Src.run 2 x.ga ++ Src.run 1 x.so ++ Src.run 2 x.pa } h ls)
    (hr : ∀ e ∈ ls, e.2.ray = none) (hf : s.requestsFull h = false)
    (hc : s.checkCopies h.via h.wave.ctx true (fun r => (s.tileNamed r.t x.tile.toNat).map fun e =>
      (e.2.count + 1) * 128) (acopyReqs x h ls) = (.ok l, s')) :
    exec (.acopy x) s = .next (if ∀ e ∈ ls, s'.tileReady e.2 x.tile.toNat = true then
        if s'.queueRoom h.core ls.length = true then
          (l.foldl (fun u e => u.queueCopy h.core (copyOf u h s'.uids e.1 (if x.out then .tileOut else .tileIn)
            (e.2.pieces e.1.gbase (s.tileByte e.1.t x.tile.toNat + e.1.so)))) s').doneLen h h.wave 16
        else s'
      else s'.notReady h (.tiles (tilesNamed ls x.tile.toNat))) := by
  have hray : (ls.find? fun e => e.2.ray.isSome) = none := by
    rw [List.find?_eq_none]
    intro e he
    simp [hr e he]
  rw [exec_acopy, execAcopy, hi.run]
  simp only [hray, hf, Bool.false_eq_true, if_false]
  unfold acopyReqs at hc
  simp only [hc]
  by_cases hrd : ∀ e ∈ ls, s'.tileReady e.2 x.tile.toNat = true
  · have : (ls.any fun e => !s'.tileReady e.2 x.tile.toNat) = false := by simpa using hrd
    rw [if_pos hrd, this]
    cases s'.queueRoom h.core ls.length <;> rfl
  · have : (ls.any fun e => !s'.tileReady e.2 x.tile.toNat) = true := by simpa using hrd
    rw [if_neg hrd, this]
    rfl

/-- An ACOPYG whose copies pass their checks waits for room, and then hands its copies over. -/
theorem acopyg_checked {x : AcopygOp}
    (hi : Issues s { len := 16, g := x.g, cluster := true, orders := true,
                     uses := Src.run 2 x.sb ++ Src.run 2 x.db ++ Src.run 2 x.pa } h ls)
    (hf : s.requestsFull h = false)
    (hc : s.checkCopies h.via h.wave.ctx false (fun _ => none) (acopygReqs x h ls) = (.ok l, s')) :
    exec (.acopyg x) s = .next (if s'.queueRoom h.core ls.length = true then
        (l.foldl (fun u e => u.queueCopy h.core (copyOf u h s'.uids e.1 (if x.scatter then .scatter else .gather)
          (e.2.pieces e.1.gbase e.1.other))) s').doneLen h h.wave 16
      else s') := by
  rw [exec_acopyg, execAcopyg, hi.run]
  simp only [hf, Bool.false_eq_true, if_false]
  unfold acopygReqs at hc
  simp only [hc]
  cases s'.queueRoom h.core ls.length <;> rfl

theorem seal_issues {x : SealOp}
    (hi : Issues s { len := 8, g := x.g, cluster := true, uses := [(x.d.toNat, 1)] } h ls)
    (hb : ∀ e ∈ ls, e.2.batch < 2 ^ 32) :
    EndsWith (.seal x) s h ls 8 fun _ t =>
      { t.setReg x.d.toNat (BitVec.ofNat 32 t.batch) with batch := t.batch + 1 } := by
  have hf : (ls.find? fun e => decide (e.2.batch ≥ 2 ^ 32)) = none := by
    rw [List.find?_eq_none]
    intro e he
    simpa using hb e he
  rw [EndsWith, exec_seal, execSeal, hi.run]
  simp only [hf]

/-- The last batch that a lane's WAITB names. -/
def waitbLast (x : OneSrcOp) (h : Here) (t : Thread) : Nat := min (Src.int h.wave x.im t x.a).toNat (t.batch - 1)

theorem waitb_waits {x : OneSrcOp}
    (hi : Issues s { len := lenOf x.im, g := x.g, cluster := true, uses := runs [x.a] } h ls)
    (hb : ∃ e ∈ ls, s.batchBusy e.2 (waitbLast x h e.2) = true) : exec (.waitb x) s = .next s := by
  rw [exec_waitb, execWaitb, hi.run]
  exact congrArg _ (if_pos (List.any_eq_true.mpr hb))

theorem waitb_acquires {x : OneSrcOp}
    (hi : Issues s { len := lenOf x.im, g := x.g, cluster := true, uses := runs [x.a] } h ls)
    (hb : ∀ e ∈ ls, s.batchBusy e.2 (waitbLast x h e.2) = false) :
    EndsWith (.waitb x) s h ls (lenOf x.im) fun _ t => { t with
      view := (s.doneOf (clusterOf h.core) t).foldl (fun v d =>
        if d.stage = none ∧ d.uid = t.uid ∧ d.episode = t.episode ∧ d.batch ≤ waitbLast x h t then v.join d.view
          else v) t.view } := by
  have hn : ¬ (ls.any fun e => s.batchBusy e.2 (waitbLast x h e.2)) = true := by simpa using hb
  rw [EndsWith, exec_waitb, execWaitb, hi.run]
  refine (congrArg _ (if_neg hn)).trans ?_
  simp only [Bool.and_eq_true, decide_eq_true_eq, Option.isNone_iff_eq_none, and_assoc]
  rfl

end

theorem copiesComplete : Claim.CopiesComplete := by
  refine ⟨?_, ?_, ?_, ?_⟩
  · intro x s s' h ls l hi hr hf tile base hc ready
    have hx := acopy_checked hi hr hf hc
    refine ⟨fun hrd hq => ?_, fun hrd hq => ?_, fun hrd => ?_⟩
    · rw [hx, if_pos hrd, if_pos hq]
      rfl
    · rw [hx, if_pos hrd, hq]
      rfl
    · rw [hx, if_neg hrd]
  · intro x s s' h ls l hi hf hc
    have hx := acopyg_checked hi hf hc
    refine ⟨fun hq => ?_, fun hq => ?_⟩
    · rw [hx, if_pos hq]
    · rw [hx, hq]
      rfl
  · exact fun x s h ls => seal_issues
  · intro x s h ls hi m
    exact ⟨waitb_waits hi, waitb_acquires hi⟩

end Sys2Proof.Machine

/-! ## The copy engine (O22) -/

namespace Sys2Proof.Machine

variable {s s' : State}

/-- A run of a copy of the engine that is not done, where the copy is neither held nor cancelled. -/
def RunGoes (s : State) (x : CoreItem) (run : Nat) (c : Copy) (r : Run) : Prop :=
  Runs s (clusterOf (coreNum x.core)) ∧ Table.get? (s.core (coreNum x.core)).copies x.n = some c ∧
  c.runs[run]? = some r ∧ r.done = false ∧ c.kind ≠ .fill ∧ c.cancelled = false ∧ c.stuck = none

section
variable {x : CoreItem} {run : Nat} {c : Copy} {r : Run}

/-- Before its copy's turn a run waits. -/
theorem RunGoes.waits (h : RunGoes s x run c r) (ht : (s.core (coreNum x.core)).copyTurn c.turn = false) :
    exec (.engineWriteComplete x run) s = .next s := by
  obtain ⟨hr, hg, hrun, -, -, -, -⟩ := h
  simp only [exec_engineWriteComplete, execEngineWriteComplete, hr.live, hg, hrun, ht, Bool.not_false, Bool.or_true,
    if_true]

/-- In its copy's turn a run is read, or what has been read is written. -/
theorem RunGoes.goes (h : RunGoes s x run c r) (ht : (s.core (coreNum x.core)).copyTurn c.turn = true) :
    exec (.engineWriteComplete x run) s = .next (if r.data = none then s.readCopyLine (coreNum x.core) x.n c r
      else s.writeCopyLine (coreNum x.core) x.n c r) := by
  obtain ⟨hr, hg, hrun, hd, hk, hc, hs⟩ := h
  simp only [exec_engineWriteComplete, execEngineWriteComplete, hr.live, hg, hrun, hd, hk, hc, hs, ht]
  cases r.data <;> rfl

end

/-- The copy of a key takes, for each run that is still to be read from the source line `l`, the bytes `f`. -/
def State.takeLine (s : State) (core key : Nat) (c : Copy) (l : Option Nat) (f : Run → List Byte) : State :=
  s.updCore core fun k => { k with copies := Table.upd k.copies key fun y => { y with
    runs := y.runs.map fun q =>
      if q.data.isNone && !q.done && c.kind.source q = l then { q with data := some (f q) } else q } }

/-- What a copy holds once the line `l` has been read for its runs. -/
theorem State.takeLine_copies {core key l : Nat} {c : Copy} {f : Run → List Byte} (hc : core < s.cores.length)
    (hg : Table.get? (s.core core).copies key = some c) :
    ∃ c' : Copy, Table.get? ((s.takeLine core key c (some l) f).core core).copies key = some c' ∧
      ∀ (k : Nat) (q : Run), c.runs[k]? = some q → ∃ q' : Run, c'.runs[k]? = some q' ∧
        (q.data = none ∧ q.done = false ∧ c.kind.source q = some l → q' = { q with data := some (f q) }) ∧
        (¬ (q.data = none ∧ q.done = false ∧ c.kind.source q = some l) → q' = q) := by
  unfold State.takeLine
  rw [State.core_updCore_self _ _ _ hc]
  dsimp only
  rw [Table.get?_upd, if_pos rfl, hg]
  refine ⟨_, rfl, fun k q hq => ?_⟩
  rw [List.getElem?_map, hq]
  refine ⟨_, rfl, fun h => if_pos ?_, fun h => if_neg ?_⟩
  · simpa [and_assoc] using h
  · simpa [and_assoc] using h

section
variable {core key l pa : Nat} {c : Copy} {r : Run}

/-- A tile's line is read where it is full. -/
theorem State.readCopyLine_tile (hk : c.kind = .tileOut) (hl : c.kind.source r = some l)
    (he : l ∉ (s.core core).empty) : s.readCopyLine core key c r =
      s.takeLine core key c (some l) fun q => (natsFrom q.dense q.len).map fun a => cellGet (s.core core).scratch a := by
  rw [hk] at hl
  simp only [State.readCopyLine, State.takeLine, hk, hl, he, if_false]
  rfl

/-- The read of a tile's line that is empty waits. -/
theorem State.readCopyLine_empty (hk : c.kind = .tileOut) (hl : c.kind.source r = some l)
    (he : l ∈ (s.core core).empty) : s.readCopyLine core key c r = s := by
  rw [hk] at hl
  simp only [State.readCopyLine, hk, hl, he, if_true]

/-- A line at D is read as one snapshot, the peer's over Rill. -/
theorem State.readCopyLine_line (hk : c.kind ≠ .tileOut) (hl : c.kind.source r = some l)
    (hp : s.copyLine core c.ctx (c.kind.from r) .read = (.ok pa, s')) (hb : s'.mem.poisoned pa 128 = false) :
    s.readCopyLine core key c r = (s'.farRead (.copy c.id) c.kid false (natsFrom pa 128)).takeLine core key c (some l)
      fun q => (natsFrom (pa + c.kind.from q % 128) q.len).map s'.mem.atD := by
  unfold State.readCopyLine
  dsimp only
  split
  next h => rw [hl] at h; cases h
  next h _ => exact absurd h hk
  next h =>
    rw [hp]
    simp only [hb, hl]
    rfl

end

/-- The read of a line, to the state `t` that memory and the link are left in and the runs' bytes `f`. -/
theorem engineRead {x : CoreItem} {run l : Nat} {c : Copy} {r : Run} {t : State} {f : Run → List Byte}
    (h : RunGoes s x run c r) (ht : (s.core (coreNum x.core)).copyTurn c.turn = true) (hd : r.data = none)
    (hr : s.readCopyLine (coreNum x.core) x.n c r = t.takeLine (coreNum x.core) x.n c (some l) f)
    (hc : coreNum x.core < t.cores.length) (hg : (t.core (coreNum x.core)).copies = (s.core (coreNum x.core)).copies) :
    ∃ (u : State) (c' : Copy), exec (.engineWriteComplete x run) s = .next u ∧ u.mem = t.mem ∧
      Table.get? (u.core (coreNum x.core)).copies x.n = some c' ∧
      ∀ (k : Nat) (q : Run), c.runs[k]? = some q → ∃ q' : Run, c'.runs[k]? = some q' ∧
        (q.data = none ∧ q.done = false ∧ c.kind.source q = some l → q' = { q with data := some (f q) }) ∧
        (¬ (q.data = none ∧ q.done = false ∧ c.kind.source q = some l) → q' = q) := by
  obtain ⟨-, hget, -⟩ := id h
  obtain ⟨c', hc', hruns⟩ := State.takeLine_copies (l := l) (f := f) hc (hg ▸ hget)
  refine ⟨t.takeLine (coreNum x.core) x.n c (some l) f, c', ?_, rfl, hc', hruns⟩
  rw [h.goes ht, if_pos hd, hr]

section
variable {core key pa : Nat} {c : Copy} {r : Run}

/-- The runs of a copy that are not done and are written to the line that a run is written to. -/
def Copy.toLine (c : Copy) (r q : Run) : Bool := !q.done && c.kind.to q / 128 = c.kind.to r / 128

/-- What runs have read, by destination. -/
def Copy.readBytes (c : Copy) (l : List Run) : List (Nat × Byte) :=
  lastBytes (l.flatMap fun q => (natsFrom (c.kind.to q) (q.data.getD []).length).zip (q.data.getD []))

/-- A tile's line is written once what goes into it has been read. -/
theorem State.writeCopyLine_tile (hk : c.kind = .tileIn)
    (ha : ((c.runs.filter (c.toLine r)).any fun q => q.data.isNone) = false) :
    s.writeCopyLine core key c r = (s.updCore core fun k => { k with
      scratch := (c.readBytes (c.runs.filter (c.toLine r))).foldl (fun l e => cellSet l e.1 e.2) k.scratch }).doneCopy
        core key c (c.toLine r) :=
  (if_neg (Bool.eq_false_iff.mp ha)).trans (if_pos hk)

/-- A line at D is written once what goes into it has been read, as one arrival. -/
theorem State.writeCopyLine_line (hk : c.kind ≠ .tileIn)
    (ha : ((c.runs.filter (c.toLine r)).any fun q => q.data.isNone) = false)
    (hp : s.copyLine core c.ctx (c.kind.to r) .write = (.ok pa, s')) :
    s.writeCopyLine core key c r = State.doneCopy { s' with
      mem := s'.mem.arriveD s'.tick (.agent c.id) ((c.readBytes (c.runs.filter (c.toLine r))).map fun e =>
        { addr := pa + e.1 % 128, val := e.2, who := [], marks := [] }) } core key c (c.toLine r) := by
  refine (if_neg (Bool.eq_false_iff.mp ha)).trans ((if_neg hk).trans ?_)
  simp only [hp]
  rfl

end

section
variable {x : CoreItem} {c : Copy}

/-- A copy whose runs are all done, and which the peer has answered. -/
def CopyDone (s : State) (x : CoreItem) (c : Copy) : Prop :=
  Runs s (clusterOf (coreNum x.core)) ∧ Table.get? (s.core (coreNum x.core)).copies x.n = some c ∧ c.kind ≠ .fill ∧
  c.cancelled = false ∧ (c.runs.all fun r => r.done) = true ∧ s.linkBusy (.copy c.id) = false

/-- A copy of no block leaves the engine, and its cluster knows what it brought. -/
theorem CopyDone.leaves (h : CopyDone s x c) (hb : Table.get? s.blocks c.blockUid = none)
    (hc : coreNum x.core < s.cores.length) :
    ∃ t : State, exec (.copyComplete x) s = .next t ∧ t.mem = s.mem ∧
      Table.get? (t.core (coreNum x.core)).copies x.n = none := by
  obtain ⟨hr, hg, hk, hcc, hd, hl⟩ := h
  simp only [exec_copyComplete, execCopyComplete, hr.live, hg, hk, hcc, hd, hl, hb]
  refine ⟨_, rfl, rfl, ?_⟩
  rw [State.updCluster_core, State.core_updCore_self _ _ _ hc]
  exact Table.get?_del_self _ _

/-- A copy of a block leaves the engine, and the block knows what it brought. -/
theorem CopyDone.joins {b : Block} (h : CopyDone s x c) (hb : Table.get? s.blocks c.blockUid = some b) :
    ∃ d : DoneCopy, exec (.copyComplete x) s = .next ((s.updCore (coreNum x.core) fun k =>
        { k with copies := Table.del k.copies x.n }).updBlock b.uid fun b => { b with done := b.done ++ [d] }) ∧
      d.uid = c.uid ∧ d.batch = c.batch ∧ d.stage = c.stage ∧ d.view = s.mem.agentView c.id := by
  obtain ⟨hr, hg, hk, hcc, hd, hl⟩ := h
  simp only [exec_copyComplete, execCopyComplete, hr.live, hg, hk, hcc, hd, hl, hb]
  exact ⟨_, rfl, rfl, rfl, rfl, rfl⟩

/-- The next released stage of a block issues its copy, unless it waits for a page. -/
theorem stageCopyIssue_issues {b : Block} {g : Grid} (hr : Runs s x.core.cl.toNat)
    (hb : Table.get? s.blocks x.n = some b) (hg : Table.get? s.grids b.kid = some g) (he : g.ending = false)
    (hp : b.placed = true) (hc : b.core = coreNum x.core) (hs : b.stageIssued < b.stage) :
    exec (.stageCopyIssue x) s = .next (if s.awaitsPage b.kid b.uid then s else s.issueStage b) := by
  simp only [exec_stageCopyIssue, execStageCopyIssue, hr.live, hb, hg, hp, hs, ← hc, Option.map_some, Option.getD_some,
    he]
  cases s.awaitsPage b.kid b.uid <;> simp

/-- A line of the stash that the memory-side cache records is absent again. -/
theorem stashRecall_recalls {line : Nat} {b : Block} {y : StashLine} (hr : Runs s x.core.cl.toNat)
    (hb : Table.get? s.blocks x.n = some b) (hy : (b.lines.find? fun y => y.line = line) = some y)
    (hp : b.placed = true) (hc : b.core = coreNum x.core) (hd : s.recorded b y = true) :
    exec (.stashRecall x line) s = .next ((s.updBlock b.uid fun b =>
      { b with lines := b.lines.filter fun y => y.line != line }).setLines b.core 7 true
        [(b.scratch + (s.sizes b).1) / 128 + line]) := by
  simp only [exec_stashRecall, execStashRecall, hr.live, hb, hy, hp, hd, ← hc]
  simp

/-- A line of the stash that is filled is present and full. -/
theorem stashFillComplete_fills {line key pa : Nat} {b : Block} {r : Run}
    (hr : Runs s (clusterOf (coreNum x.core))) (hb : Table.get? s.blocks x.n = some b)
    (hf : ((s.core (coreNum x.core)).copies.find? fun e => e.2.kind = .fill && e.2.blockUid = b.uid &&
      e.2.runs.any fun r => r.dense = b.scratch + (s.sizes b).1 + 128 * line) = some (key, c))
    (hc : c.cancelled = false) (hs : c.stuck = none) (hrun : c.runs.head? = some r)
    (hp : s.copyLine (coreNum x.core) c.ctx r.g .read = (.ok pa, s')) (hq : s'.mem.poisoned pa 128 = false) :
    exec (.stashFillComplete x line) s = .next (((s'.updBlock b.uid fun b =>
      { b with lines := b.lines ++ [{ line := line, pa := pa, pos := s'.mem.pos }] }).updCore
        (coreNum x.core) fun k => { k with copies := Table.del k.copies key }).fillLines (coreNum x.core)
          [(b.scratch + (s.sizes b).1 + 128 * line) / 128]) := by
  simp only [exec_stashFillComplete, execStashFillComplete, hr.live, hb, hf, hc, hs, hrun, hp, hq]
  rfl

end

theorem copyEngineEvents : Claim.CopyEngineEvents := by
  refine ⟨?_, ?_, ?_, ?_, ?_, ?_⟩
  · intro x run s c r core hr hg hc hrun hd hk hcc hst
    have h : RunGoes s x run c r := ⟨hr, hg, hrun, hd, hk, hcc, hst⟩
    refine ⟨h.waits, fun ht => ⟨?_, ?_⟩⟩
    · intro l hdata hl same reads
      refine ⟨fun hk he => ?_, fun hk he => ?_, fun hk pa s' hp hq => ?_⟩
      · exact engineRead h ht hdata (State.readCopyLine_tile hk hl he) hc rfl
      · rw [h.goes ht, if_pos hdata, State.readCopyLine_empty hk hl he]
      · obtain ⟨hcopies, hlen⟩ := State.copyLine_copies hp core
        refine engineRead h ht hdata (State.readCopyLine_line hk hl hp hq) ?_ ?_
        · rw [State.farRead_cores, hlen]
          exact hc
        · rw [State.core_eq_of_cores (State.farRead_cores _ _ _ _), hcopies]
    · intro hdata mine bs ha
      have hn : r.data ≠ none := Option.isSome_iff_ne_none.mp hdata
      refine ⟨fun hk => ?_, fun hk pa s' hp => ?_⟩
      · rw [h.goes ht, if_neg hn, State.writeCopyLine_tile hk ha]
        rfl
      · rw [h.goes ht, if_neg hn, State.writeCopyLine_line hk ha hp]
        rfl
  · exact fun x s c hr hg hk hcc hd hl hb hc => CopyDone.leaves ⟨hr, hg, hk, hcc, hd, hl⟩ hb hc
  · exact fun x s c b hr hg hk hcc hd hl hb => CopyDone.joins ⟨hr, hg, hk, hcc, hd, hl⟩ hb
  · intro x s b g hr hb hg he hp hc hs
    rw [stageCopyIssue_issues hr hb hg he hp hc hs]
    exact ⟨fun hw => by rw [hw]; rfl, fun hw => by rw [hw]; rfl⟩
  · exact fun x line s b y => stashRecall_recalls
  · exact fun x line key pa s s' b c r hr hb => stashFillComplete_fills hr hb

/-- Settles O22: the instructions by what their checks give, the events of the engine by how far a copy has come. -/
theorem copiesAndCopyEngine : Obligations.CopiesAndCopyEngine := ⟨copiesComplete, copyEngineEvents⟩

end Sys2Proof.Machine

/-! ## Operations in flight (O27) -/

namespace Sys2Proof.Machine

variable {s t : State}

/-! ### Free choices leave the rest of the state -/

/-- A state is another but for the choices that have been drawn. -/
def State.Drew (s t : State) : Prop := ∃ n, t = { s with fresh := n }

theorem State.Drew.refl (s : State) : s.Drew s := ⟨s.fresh, rfl⟩

theorem State.Drew.trans {u : State} (h : s.Drew t) (h' : t.Drew u) : s.Drew u := by
  obtain ⟨n, rfl⟩ := h
  obtain ⟨m, rfl⟩ := h'
  exact ⟨m, rfl⟩

theorem State.Drew.cores (h : s.Drew t) : t.cores = s.cores := by
  obtain ⟨n, rfl⟩ := h
  rfl

theorem State.Drew.core (h : s.Drew t) (n : Nat) : t.core n = s.core n := State.core_eq_of_cores h.cores n

theorem State.Drew.rill (h : s.Drew t) : t.rill = s.rill := by
  obtain ⟨n, rfl⟩ := h
  rfl

theorem State.pick_drew (s : State) (n : Nat) : s.Drew (s.pick n).2 := by
  unfold State.pick
  split
  · exact .refl s
  · exact ⟨_, rfl⟩

theorem State.pickFrom_drew {α : Type} [DecidableEq α] (s : State) (l : List α) (d : α) :
    s.Drew (s.pickFrom l d).2 := by
  unfold State.pickFrom
  split
  · exact .refl s
  · dsimp only
    split
    · exact .refl s
    · exact s.pick_drew _

theorem drawBytes_drew (f : Nat → List Choice) (l : List Nat) (s : State) : s.Drew (drawBytes f l s).2 := by
  induction l generalizing s with
  | nil => exact .refl s
  | cons a l ih => exact (s.pickFrom_drew _ _).trans (ih _)

theorem State.drawShared_drew (s : State) (l : List Reader) : s.Drew (s.drawShared l).2 := drawBytes_drew _ _ s

theorem mixBytes_drew (l m : List Byte) (s : State) : s.Drew (mixBytes l m s).2 := by
  fun_induction mixBytes l m s with
  | case1 a as b bs s r u ih => exact (s.pickFrom_drew _ _).trans ih
  | case2 => exact .refl _

theorem linePoss_drew (l : List Nat) (p0 : Nat) (s : State) : s.Drew (linePoss l p0 s).2 := by
  induction l generalizing s with
  | nil => exact .refl s
  | cons a l ih =>
    refine State.Drew.trans ?_ (ih _)
    split
    · exact s.pick_drew _
    · exact .refl s

theorem State.numSince_drew (s : State) (p0 pa n : Nat) : s.Drew (s.numSince p0 pa n).2 := by
  unfold State.numSince
  dsimp only
  split
  · exact s.pick_drew _
  · exact .refl s

theorem shellDraw_drew (a : List Byte) (spots : Table Nat) (p0 : Nat) (l : List Nat) (s : State) :
    s.Drew (shellDraw a spots p0 l s).2 := by
  induction l generalizing s with
  | nil => exact .refl s
  | cons k l ih => exact (s.numSince_drew _ _ _).trans (ih _)

/-- What an operation reads of the scratchpad changes nothing but the choices drawn. -/
theorem State.engineReads_drew (s : State) (core : Nat) (o : EngineOp) : s.Drew (s.engineReads core o).2 :=
  (mixBytes_drew _ _ s).trans (shellDraw_drew _ _ _ _ _)

/-! ### Tables and updates -/

theorem Table.upd_eq_self {α : Type} {f : α → α} (hf : ∀ x, f x = x) (t : Table α) (n : Nat) : Table.upd t n f = t := by
  unfold Table.upd
  refine (List.map_congr_left fun e _ => ?_).trans (List.map_id t)
  split
  · rw [hf]
    rfl
  · rfl

theorem Table.del_put {α : Type} (t : Table α) (n : Nat) (x : α) : Table.del (Table.put t n x) n = Table.del t n := by
  induction t with
  | nil => simp [Table.put, Table.del]
  | cons e t ih =>
    obtain ⟨k, y⟩ := e
    simp only [Table.del] at ih
    simp only [Table.put]
    split
    · simp [Table.del]
    · split
      next h => simp [Table.del, h]
      next h => simp [Table.del, List.filter_cons, ih]

theorem listUpd_listUpd {α : Type} (l : List α) (n : Nat) (f g : α → α) :
    listUpd (listUpd l n f) n g = listUpd l n fun a => g (f a) := by
  induction l generalizing n with
  | nil => rfl
  | cons a l ih =>
    cases n with
    | zero => rfl
    | succ n => exact congrArg _ (ih n)

theorem State.updCore_updCore (s : State) (c : Nat) (f g : Core → Core) :
    (s.updCore c f).updCore c g = s.updCore c fun k => g (f k) := by
  simp only [State.updCore, listUpd_listUpd]

theorem listGet_listSet_self {α : Type} (l : List α) (n : Nat) (x d : α) (h : n < l.length) :
    listGet (listSet l n x) n d = x := by
  induction l generalizing n with
  | nil => cases h
  | cons a l ih =>
    cases n with
    | zero => rfl
    | succ n => exact ih n (Nat.lt_of_succ_lt_succ h)

/-- A core that has an operation in flight is one of the device's. -/
theorem State.core_lt_of_op {c n : Nat} {p : PendOp} (h : Table.get? (s.core c).ops n = some p) : c < s.cores.length := by
  by_contra hc
  have : s.core c = Core.reset := by simp [State.core, listGet, List.getElem?_eq_none (Nat.le_of_not_lt hc)]
  rw [this] at h
  cases h

/-! ### The reads that an operation has left -/

/-- An operation once the reads that it had left are made. -/
def PendOp.landed (p : PendOp) (s : State) : PendOp :=
  { p with
    writes := p.writes ++ p.late.flatMap fun l => l.writes (s.drawShared (p.late.map fun l => l.reader s)).1
    late := [] }

/-- A wave but for what its threads have seen. -/
def Wave.blind (w : Wave) : Wave := { w with lanes := w.lanes.map fun e => (e.1, { e.2 with seen := [] }) }

theorem Wave.blind_mapLanes {f : Nat × Thread → Thread} (w : Wave)
    (hf : ∀ e, { f e with seen := [] } = { e.2 with seen := [] }) :
    Wave.blind { w with lanes := w.lanes.map fun e => (e.1, f e) } = w.blind := by
  simp only [Wave.blind, List.map_map, Function.comp_def, hf]

/-- A register write does not look at what threads have seen. -/
theorem Wave.blind_write (w : Wave) (x : PWrite) : (w.write x).blind = w.blind.write x := by
  cases x with
  | w r v => rfl
  | v uid r v =>
    simp only [Wave.write, Wave.blind, List.map_map, Wave.mk.injEq, true_and, and_true]
    refine List.map_congr_left fun e _ => ?_
    simp only [Function.comp_apply]
    split <;> rfl
  | p uid i b =>
    simp only [Wave.write, Wave.blind, List.map_map, Wave.mk.injEq, true_and, and_true]
    refine List.map_congr_left fun e _ => ?_
    simp only [Function.comp_apply]
    split <;> rfl

theorem Wave.blind_writes (w : Wave) (l : List PWrite) : (w.writes l).blind = w.blind.writes l := by
  induction l generalizing w with
  | nil => rfl
  | cons x l ih => exact (ih (w.write x)).trans (congrArg (Wave.writes · l) (w.blind_write x))

section
variable {core key : Nat} {p : PendOp}

@[simp] theorem State.landLate_length : (s.landLate core key p).cores.length = s.cores.length := by
  unfold State.landLate
  rw [State.length_updCore, (s.drawShared_drew _).cores]

theorem State.landLate_ops (hc : core < s.cores.length) :
    Table.get? ((s.landLate core key p).core core).ops key = some (p.landed s) := by
  unfold State.landLate
  rw [State.core_updCore_self _ _ _ (by rwa [(s.drawShared_drew _).cores])]
  exact Table.get?_put_self _ _ _

/-- The threads of the wave see the releases of the bytes read, and nothing else of the wave changes. -/
theorem State.landLate_wave {w : Wave} (hc : core < s.cores.length)
    (hw : Table.get? (s.core core).waves p.slot = some w) :
    ∃ v, Table.get? ((s.landLate core key p).core core).waves p.slot = some v ∧ v.blind = w.blind := by
  unfold State.landLate
  rw [State.core_updCore_self _ _ _ (by rwa [(s.drawShared_drew _).cores]), (s.drawShared_drew _).core]
  dsimp only
  rw [Table.get?_upd, if_pos rfl, hw]
  refine ⟨_, rfl, Wave.blind_mapLanes w ?_⟩
  intro e
  split <;> rfl

/-- An operation with no read left stands as it is. -/
theorem State.landLate_of_nil (hl : p.late = []) :
    s.landLate core key p = s.updCore core fun k => { k with ops := Table.put k.ops key p } := by
  have hd : s.drawShared [] = ([], s) := rfl
  have hp : { p with writes := p.writes ++ [], late := [] } = p := by
    rw [List.append_nil, ← hl]
  have hw : ∀ w : Wave, { w with lanes := w.lanes.map fun e => (e.1, e.2) } = w := fun w => by simp
  unfold State.landLate
  simp only [hl, List.map_nil, hd, List.flatMap_nil, hp, List.find?_nil, Table.upd_eq_self hw]

theorem PendOp.landed_of_nil (hl : p.late = []) : p.landed s = p := by
  unfold PendOp.landed
  rw [hl, List.flatMap_nil, List.append_nil, ← hl]

end

/-! ### The events of an operation that is no engine's -/

/-- An operation in flight on a core whose clocks run. -/
def OpGoes (s : State) (x : CoreItem) (p : PendOp) : Prop :=
  Runs s (clusterOf (coreNum x.core)) ∧ Table.get? (s.core (coreNum x.core)).ops x.n = some p

/-- What the end of an operation that is no engine's makes of its wave. -/
def Wave.opEnds (w : Wave) (key : Nat) (p : PendOp) : Wave :=
  { w.writes p.writes with
    lanes := (w.writes p.writes).lanes.map fun e => (e.1, match p.flag with
      | some n => if e.2.uid ∈ p.uids then e.2.flagDown n else e.2
      | none => e.2)
    park := if (w.writes p.writes).park = .engine key then .none else (w.writes p.writes).park }

theorem State.endOp_of_load {core key : Nat} {p : PendOp} (he : p.eng = none) :
    s.endOp core key p = s.updCore core fun k =>
      { k with ops := Table.del k.ops key, waves := Table.upd k.waves p.slot fun v => v.opEnds key p } := by
  simp only [State.endOp, he, if_true]
  unfold Wave.opEnds
  cases p.flag <;> rfl

section
variable {x : CoreItem} {p : PendOp}

/-- One of the register writes left is made early. -/
theorem OpGoes.write {j : Nat} {w : PWrite} (h : OpGoes s x p) (he : p.eng = none) (hw : p.writes[j]? = some w) :
    exec (.flagOpComplete x (some j)) s = .next (s.updCore (coreNum x.core) fun c =>
      { c with
        waves := Table.upd c.waves p.slot fun v => v.write w
        ops := Table.put c.ops x.n { p with writes := p.writes.take j ++ p.writes.drop (j + 1) } }) := by
  obtain ⟨hr, hg⟩ := h
  simp only [exec_flagOpComplete, execFlagOpComplete, hr.live, hg, he, hw]
  rfl

/-- The reads left are made. -/
theorem OpGoes.lands {j : Nat} (h : OpGoes s x p) (he : p.eng = none) (hj : p.writes.length ≤ j) :
    exec (.flagOpComplete x (some j)) s = .next (s.landOp (coreNum x.core) x.n) := by
  obtain ⟨hr, hg⟩ := h
  simp only [exec_flagOpComplete, execFlagOpComplete, hr.live, hg, he, List.getElem?_eq_none hj]

/-- An operation waits for what it reads of the peer's. -/
theorem OpGoes.held (h : OpGoes s x p) (he : p.eng = none) (hl : s.linkHolds p.uids = true) :
    exec (.flagOpComplete x none) s = .next s := by
  obtain ⟨hr, hg⟩ := h
  simp only [exec_flagOpComplete, execFlagOpComplete, hr.live, hg, he, hl, if_true]

/-- An operation makes the reads it has left and completes. -/
theorem OpGoes.ends (h : OpGoes s x p) (he : p.eng = none) (hl : s.linkHolds p.uids = false) :
    exec (.flagOpComplete x none) s =
      .next ((s.landLate (coreNum x.core) x.n p).endOp (coreNum x.core) x.n (p.landed s)) := by
  obtain ⟨hr, hg⟩ := h
  simp only [exec_flagOpComplete, execFlagOpComplete, hr.live, hg, he, hl, Bool.false_eq_true, if_false,
    State.landLate_ops (State.core_lt_of_op hg)]

/-- What the reads of an operation leave: with a flag its writes are ready, without one it is done. -/
theorem State.landOp_load {core key : Nat} (hg : Table.get? (s.core core).ops key = some p) (he : p.eng = none) :
    (p.flag.isSome = true → Table.get? ((s.landOp core key).core core).ops key = some (p.landed s)) ∧
    (p.flag = none → Table.get? ((s.landOp core key).core core).ops key = none ∧
      ∀ w, Table.get? (s.core core).waves p.slot = some w →
        ∃ w', Table.get? ((s.landOp core key).core core).waves p.slot = some w' ∧
          w'.blind = (w.writes (p.landed s).writes).blind) := by
  have hc := State.core_lt_of_op hg
  have ho := State.landLate_ops (key := key) (p := p) hc
  refine ⟨fun hf => ?_, fun hf => ?_⟩
  · obtain ⟨n, hn⟩ := Option.isSome_iff_exists.mp hf
    simp only [State.landOp, hg, hn, ho]
  · simp only [State.landOp, hg, hf, he, ho, State.endLoad]
    rw [State.core_updCore_self _ _ _ (by rwa [State.landLate_length])]
    refine ⟨Table.get?_del_self _ _, fun w hw => ?_⟩
    obtain ⟨v, hv, hb⟩ := State.landLate_wave (key := key) hc hw
    refine ⟨v.writes (p.landed s).writes, ?_, ?_⟩
    · dsimp only
      rw [show (p.landed s).slot = p.slot from rfl, Table.get?_upd, if_pos rfl, hv]
      rfl
    · rw [Wave.blind_writes, Wave.blind_writes, hb]

/-- An operation with no read left completes: its writes are made, and its flag counts one less. -/
theorem OpGoes.ends_of_nil (h : OpGoes s x p) (he : p.eng = none) (hl : s.linkHolds p.uids = false)
    (hn : p.late = []) :
    exec (.flagOpComplete x none) s = .next (s.updCore (coreNum x.core) fun c =>
      { c with ops := Table.del c.ops x.n, waves := Table.upd c.waves p.slot fun v => v.opEnds x.n p }) := by
  rw [h.ends he hl, PendOp.landed_of_nil hn, State.landLate_of_nil hn, State.endOp_of_load he, State.updCore_updCore]
  simp only [Table.del_put]

end

end Sys2Proof.Machine

/-! ## The engine performs an operation (O27) -/

namespace Sys2Proof.Machine

variable {s : State} {core key : Nat} {p : PendOp} {o : EngineOp}

/-! ### The tiles of a crew -/

/-- The crews of a core with their names and tiles. -/
def Core.crewTiles (k : Core) : List (Nat × Nat × List (Table Word)) :=
  k.crews.map fun e => (e.1, e.2.uid, e.2.tiles)

theorem State.updCrew_crewTiles {f : Crew → Crew} (hu : ∀ c, (f c).uid = c.uid) (ht : ∀ c, (f c).tiles = c.tiles)
    (s : State) (core uid n : Nat) : ((s.updCrew core uid f).core n).crewTiles = (s.core n).crewTiles := by
  refine State.core_updCore_congr (fun k => ?_) s core n
  simp only [Core.crewTiles, List.map_map]
  refine List.map_congr_left fun e _ => ?_
  simp only [Function.comp_apply]
  split
  · rw [hu, ht]
  · rfl

@[simp] theorem State.updCrew_ops (s : State) (core uid n : Nat) (f : Crew → Crew) :
    ((s.updCrew core uid f).core n).ops = (s.core n).ops :=
  State.core_updCore_congr (g := Core.ops) (by intro; rfl) _ _ _

@[simp] theorem State.setTile_length (s : State) (core : Nat) (o : EngineOp) (n : Nat) (t : Table Word) :
    (s.setTile core o n t).cores.length = s.cores.length := State.length_updCore _ _ _

/-- A tile that has been stored reads back. -/
theorem State.tileOf_setTile {e : Nat × Crew} {n : Nat} (t : Table Word)
    (he : ((s.core core).crews.find? fun e => e.2.uid = o.crewUid) = some e) (hc : core < s.cores.length)
    (hn : n < e.2.tiles.length) : (s.setTile core o n t).tileOf core o n = t := by
  have hu : e.2.uid = o.crewUid := by simpa using List.find?_some he
  have hf : ((fun e : Nat × Crew => decide (e.2.uid = o.crewUid)) ∘ fun e =>
      if e.2.uid = o.crewUid then (e.1, { e.2 with tiles := listSet e.2.tiles n t }) else e) =
        fun e => decide (e.2.uid = o.crewUid) := by
    funext e
    simp only [Function.comp_apply]
    split <;> rfl
  unfold State.tileOf State.setTile State.updCrew
  rw [State.core_updCore_self _ _ _ hc]
  dsimp only
  rw [List.find?_map, hf, he]
  simp only [Option.map_some, hu, if_true]
  exact listGet_listSet_self _ _ _ _ hn

theorem State.Drew.tileOf {t : State} (h : s.Drew t) (n : Nat) : t.tileOf core o n = s.tileOf core o n := by
  simp only [State.tileOf, h.core]

/-! ### Beginning -/

theorem State.begin_mzero {x : MzeroOp} (h : o.i = .mzero x) :
    (s.begin core o).s = (s.engineReads core o).2.setTile core o x.d.toNat [] := by
  simp only [State.begin, show (s.engineReads core o).1.i = .mzero x from h]
  rfl

theorem State.begin_bscale {x : BscaleOp} (h : o.i = .bscale x) :
    (s.begin core o).s = (s.engineReads core o).2.setTile core o x.tile.toNat
      (bscaleTile x o.a ((s.engineReads core o).2.tileOf core o x.tile.toNat)) := by
  simp only [State.begin, show (s.engineReads core o).1.i = .bscale x from h]
  rfl

/-- Beginning an operation sends nothing over Rill, and takes no core away. -/
theorem State.begin_frame (s : State) (core : Nat) (o : EngineOp) :
    (s.begin core o).s.rill = s.rill ∧ (s.begin core o).s.cores.length = s.cores.length := by
  have hr := s.engineReads_drew core o
  have hset {u : State} (hu : s.Drew u) (o' : EngineOp) (n : Nat) (t : Table Word) :
      (u.setTile core o' n t).rill = s.rill ∧ (u.setTile core o' n t).cores.length = s.cores.length := by
    rw [State.setTile_length, hu.cores]
    exact ⟨hu.rill, rfl⟩
  have hsame : (s.engineReads core o).2.rill = s.rill ∧
      (s.engineReads core o).2.cores.length = s.cores.length := by rw [hr.cores]; exact ⟨hr.rill, rfl⟩
  unfold State.begin
  dsimp only
  split
  · exact hset (hr.trans (mixBytes_drew _ _ _)) _ _ _
  · exact hset (hr.trans (mixBytes_drew _ _ _)) _ _ _
  · exact hset (hr.trans (linePoss_drew _ _ _)) _ _ _
  · exact hsame
  · exact hsame
  · exact hset hr _ _ _
  · unfold State.amaxUpdate
    split <;> exact hsame
  · exact hsame
  · exact hset hr _ _ _
  · exact hsame

/-! ### Ending -/

/-- An operation that leaves a core takes no crew's tiles along. -/
theorem State.dropOp_core {t : State} {w : Core → Table Wave} (ht : t.cores = s.cores) (hc : core < s.cores.length) :
    ((t.updCore core fun k => { k with waves := w k, ops := Table.del k.ops key }).core core).crewTiles =
        (s.core core).crewTiles ∧
      Table.get? ((t.updCore core fun k => { k with waves := w k, ops := Table.del k.ops key }).core core).ops key =
        none := by
  rw [State.core_updCore_self _ _ _ (by rwa [ht]), State.core_eq_of_cores ht]
  exact ⟨rfl, Table.get?_del_self _ _⟩

/-- An operation that ends leaves its core, and its crew keeps its tiles. -/
theorem State.endOp_core (hc : core < s.cores.length) :
    ((s.endOp core key p).core core).crewTiles = (s.core core).crewTiles ∧
      Table.get? ((s.endOp core key p).core core).ops key = none := by
  cases he : p.eng with
  | none =>
    rw [State.endOp_of_load he]
    exact State.dropOp_core rfl hc
  | some o =>
    simp only [State.endOp, he]
    split
    · split
      · exact State.dropOp_core rfl hc
      · rw [State.updCrew_crewTiles (by intro; rfl) (by intro; rfl), State.updCrew_ops]
        exact State.dropOp_core rfl hc
    · exact State.dropOp_core rfl hc

/-! ### The events of an engine's operation -/

section
variable {x : CoreItem}

theorem State.beginKey_waits (ho : o.out = none)
    (hw : (s.core core).mayBegin o.id = false ∨ ∃ l ∈ o.lines, l ∈ (s.core core).empty) :
    s.beginKey core key p o = none := by
  have : (!(s.core core).mayBegin o.id || o.lines.any fun l => decide (l ∈ (s.core core).empty)) = true := by
    simpa using hw
  simp only [State.beginKey, ho, Option.isSome_none, Bool.false_eq_true, if_false, this, if_true]

theorem State.beginKey_begun {out : List (Nat × Byte)} (ho : o.out = some out) : s.beginKey core key p o = some s := by
  simp only [State.beginKey, ho, Option.isSome_some, if_true]

/-- An operation of a key stands changed on its core. -/
def State.putOp (s : State) (core key : Nat) (q : PendOp) : State :=
  s.updCore core fun k => { k with ops := Table.put k.ops key q }

@[simp] theorem State.putOp_length (q : PendOp) : (s.putOp core key q).cores.length = s.cores.length :=
  State.length_updCore _ _ _

theorem State.putOp_ops {q : PendOp} (hc : core < s.cores.length) :
    Table.get? ((s.putOp core key q).core core).ops key = some q := by
  unfold State.putOp
  rw [State.core_updCore_self _ _ _ hc]
  exact Table.get?_put_self _ _ _

@[simp] theorem State.putOp_crewTiles (q : PendOp) (n : Nat) :
    ((s.putOp core key q).core n).crewTiles = (s.core n).crewTiles :=
  State.core_updCore_congr (g := Core.crewTiles) (by intro; rfl) _ _ _

/-- An operation that may begin, and reads no poisoned line, leaves its tile changed and its writes to make. -/
theorem State.beginKey_begins (ho : o.out = none) (hm : (s.core core).mayBegin o.id = true)
    (hl : ∀ l ∈ o.lines, l ∉ (s.core core).empty)
    (hpas : ((∃ y, o.i = .mld y) ∨ (∃ y, o.i = .mcvt y)) → ∀ a ∈ o.pas, s.mem.poisoned a 1 = false)
    (hshell : (∀ y, o.i ≠ .mld y) → (∀ y, o.i ≠ .mcvt y) → ∀ e ∈ o.shell, s.mem.poisoned e.2 4 = false) :
    ∃ (q : PendOp) (o' : EngineOp), s.beginKey core key p o = some ((s.begin core o).s.putOp core key q) ∧
      q.uids = p.uids ∧ q.eng = some o' ∧ o'.out = some (s.begin core o).out := by
  have hw : (!(s.core core).mayBegin o.id || o.lines.any fun l => decide (l ∈ (s.core core).empty)) = false := by
    simpa [hm] using hl
  simp only [State.beginKey, ho, Option.isSome_none, Bool.false_eq_true, if_false, hw]
  split
  next a hbad =>
    exfalso
    split at hbad
    next y hy =>
      have := hpas (.inl ⟨y, hy⟩) a (List.mem_of_find?_eq_some hbad)
      simp [List.find?_some hbad] at this
    next y hy =>
      have := hpas (.inr ⟨y, hy⟩) a (List.mem_of_find?_eq_some hbad)
      simp [List.find?_some hbad] at this
    next hld hcvt =>
      obtain ⟨e, he, rfl⟩ := List.mem_map.mp (List.mem_of_find?_eq_some hbad)
      have := hshell hld hcvt e he
      simp [List.find?_some hbad] at this
  next => exact ⟨_, _, rfl, rfl, rfl, rfl⟩

/-- An operation that must wait changes nothing. -/
theorem OpGoes.waits (h : OpGoes s x p) (he : p.eng = some o) (hb : s.beginKey (coreNum x.core) x.n p o = none)
    (k : Option Nat) : exec (.flagOpComplete x k) s = .next s := by
  obtain ⟨hr, hg⟩ := h
  simp only [exec_flagOpComplete, execFlagOpComplete, hr.live, hg, he, hb]

/-- An operation that has begun, and has no line left to write, ends. -/
theorem OpGoes.engineEnds {t : State} {q : PendOp} {o' : EngineOp} (h : OpGoes s x p) (he : p.eng = some o)
    (hb : s.beginKey (coreNum x.core) x.n p o = some t) (hq : Table.get? (t.core (coreNum x.core)).ops x.n = some q)
    (hqe : q.eng = some o') (ho : o'.out = some []) (hl : t.linkHolds q.uids = false) :
    exec (.flagOpComplete x none) s = .next (t.endOp (coreNum x.core) x.n q) := by
  obtain ⟨hr, hg⟩ := h
  have hlines : o'.outLines = [] := by simp [EngineOp.outLines, ho]
  simp only [exec_flagOpComplete, execFlagOpComplete, hr.live, hg, he, hb, hq, hqe, hl, hlines, outAll,
    Bool.false_eq_true, if_false]

/-- An operation that begins with nothing to write to memory completes: its tile is changed, and it leaves its core. -/
theorem OpGoes.beginsAndEnds (h : OpGoes s x p) (he : p.eng = some o) (ho : o.out = none)
    (hm : (s.core (coreNum x.core)).mayBegin o.id = true)
    (hlines : ∀ l ∈ o.lines, l ∉ (s.core (coreNum x.core)).empty)
    (hpas : ((∃ y, o.i = .mld y) ∨ (∃ y, o.i = .mcvt y)) → ∀ a ∈ o.pas, s.mem.poisoned a 1 = false)
    (hshell : (∀ y, o.i ≠ .mld y) → (∀ y, o.i ≠ .mcvt y) → ∀ e ∈ o.shell, s.mem.poisoned e.2 4 = false)
    (hl : s.linkHolds p.uids = false) (hout : (s.begin (coreNum x.core) o).out = []) :
    ∃ t : State, exec (.flagOpComplete x none) s = .next t ∧ t.mem = (s.begin (coreNum x.core) o).s.mem ∧
      (t.core (coreNum x.core)).crewTiles = ((s.begin (coreNum x.core) o).s.core (coreNum x.core)).crewTiles ∧
      Table.get? (t.core (coreNum x.core)).ops x.n = none := by
  obtain ⟨q, o', hb, hu, hq, ho'⟩ := State.beginKey_begins (key := x.n) (p := p) ho hm hlines hpas hshell
  obtain ⟨hrill, hlen⟩ := s.begin_frame (coreNum x.core) o
  have hc : coreNum x.core < (s.begin (coreNum x.core) o).s.cores.length := hlen ▸ State.core_lt_of_op h.2
  have hl' : ((s.begin (coreNum x.core) o).s.putOp (coreNum x.core) x.n q).linkHolds q.uids = false := by
    simpa only [State.linkHolds, State.putOp, State.updCore_rill, hrill, hu] using hl
  obtain ⟨hcrews, hops⟩ := State.endOp_core (key := x.n) (p := q) ((State.putOp_length q).symm ▸ hc)
  refine ⟨_, h.engineEnds he hb (State.putOp_ops hc) hq (ho'.trans (congrArg some hout)) hl', ?_, ?_, hops⟩
  · exact State.endOp_mem _ _ _ _
  · rw [hcrews, State.putOp_crewTiles]

/-! ### The lines that an operation writes -/

/-- An operation that has written one of its lines. -/
def EngineOp.wrote (o : EngineOp) (l : Nat) : EngineOp :=
  { o with
    out := some ((o.out.getD []).filter fun e => e.1 / 128 != l)
    wlines := o.wlines.filter fun n => n != l }

theorem EngineOp.not_mem_outLines_wrote (o : EngineOp) (l : Nat) : l ∉ (o.wrote l).outLines := by
  simp [EngineOp.outLines, EngineOp.wrote, List.mem_eraseDups]

theorem State.fillLines_ops (s : State) (c : Nat) (ls : List Nat) (n : Nat) :
    ((s.fillLines c ls).core n).ops = (s.core n).ops := State.setLines_ops _ _ _ _ _ _

theorem State.outLine_ops {l : Nat} (hc : core < s.cores.length) :
    Table.get? ((s.outLine core key p o l).core core).ops key = some { p with eng := some (o.wrote l) } := by
  unfold State.outLine
  dsimp only
  split
  · rw [State.fillLines_ops]
    exact State.putOp_ops (by rwa [State.length_updCore])
  · split
    · exact State.putOp_ops (by rwa [State.endGrid_cores])
    · exact State.putOp_ops hc

/-- A line of memory is one arrival at D. -/
theorem State.outLine_memory {l : Nat} {out : List (Nat × Byte)} (ho : o.out = some out) (ht : o.toScratch = false)
    (hf : s.farLost ((out.filter fun e => e.1 / 128 = l).map Prod.fst) = false) :
    (s.outLine core key p o l).mem = s.mem.arriveD s.tick (.agent o.id) ((out.filter fun e => e.1 / 128 = l).map
      fun e => { addr := e.1, val := e.2, who := [], marks := [] }) := by
  simp only [State.outLine, ho, ht, Option.getD_some, Bool.false_eq_true, if_false, hf, State.updCore_mem]

/-- A line of the scratchpad is written there. -/
theorem State.outLine_scratch {l : Nat} {out : List (Nat × Byte)} (ho : o.out = some out) (ht : o.toScratch = true)
    (hc : core < s.cores.length) :
    (s.outLine core key p o l).mem = s.mem ∧ ((s.outLine core key p o l).core core).scratch =
      (out.filter fun e => e.1 / 128 = l).foldl (fun c e => cellSet c e.1 e.2) (s.core core).scratch := by
  simp only [State.outLine, ho, ht, Option.getD_some, if_true, State.fillLines_mem, State.updCore_mem, true_and]
  unfold State.fillLines
  rw [State.setLines_scratch, State.updCore_updCore, State.core_updCore_self _ _ _ hc]

/-- An operation that has begun writes one of the lines it has left. -/
theorem OpGoes.engineLine {out : List (Nat × Byte)} {j l : Nat} (h : OpGoes s x p) (he : p.eng = some o)
    (ho : o.out = some out) (hl : o.outLines[j]? = some l) :
    exec (.flagOpComplete x (some (p.writes.length + j))) s = .next (s.outLine (coreNum x.core) x.n p o l) := by
  obtain ⟨hr, hg⟩ := h
  simp only [exec_flagOpComplete, execFlagOpComplete, hr.live, hg, he, State.beginKey_begun ho,
    List.getElem?_eq_none (Nat.le_add_right p.writes.length j), Nat.add_sub_cancel_left, hl]

end

/-! ### The obligation -/

/-- Settles O27, by the case of the operation: a load's by what it has left, an engine's by whether it has begun. -/
theorem operationsComplete : Obligations.OperationsComplete := by
  refine ⟨?_, ?_, ?_⟩
  · intro x s p hr hg he
    have h : OpGoes s x p := ⟨hr, hg⟩
    refine ⟨fun j w => h.write he, fun j hj _ => ?_, h.held he, fun hl => ?_, fun hl hn => h.ends_of_nil he hl hn⟩
    · exact ⟨_, h.lands he hj, State.landOp_mem _ _ _, State.landOp_load hg he⟩
    · refine ⟨_, h.ends he hl, ?_, fun hc => (State.endOp_core (by rwa [State.landLate_length])).2⟩
      rw [State.endOp_mem, State.landLate_mem]
  · intro x s p o core hr hg he hc
    have h : OpGoes s x p := ⟨hr, hg⟩
    refine ⟨fun ho hw => h.waits he (State.beginKey_waits ho hw), ?_, ?_⟩
    · intro ho hm hlines hpas hshell hl b hout
      exact h.beginsAndEnds he ho hm hlines hpas hshell hl hout
    · intro out j l ho hl
      refine ⟨_, h.engineLine he ho hl, ⟨_, _, State.outLine_ops hc, rfl, o.not_mem_outLines_wrote l, ?_⟩,
        State.outLine_memory ho, fun ht => State.outLine_scratch ho ht hc⟩
      rw [EngineOp.wrote, ho]
      exact congrArg some (List.filter_congr fun e _ => Bool.eq_iff_iff.mpr (by simp))
  · intro s core o e he hc
    have hr := s.engineReads_drew core o
    have he' : (((s.engineReads core o).2.core core).crews.find? fun e => e.2.uid = o.crewUid) = some e := by
      rw [hr.core]
      exact he
    have hc' : core < (s.engineReads core o).2.cores.length := by rwa [hr.cores]
    refine ⟨fun x n hi hn => ?_, fun x hi hn => ?_⟩
    · rw [State.begin_mzero hi, State.tileOf_setTile _ he' hc' hn]
      rfl
    · rw [State.begin_bscale hi, State.tileOf_setTile _ he' hc' hn, hr.tileOf]

end Sys2Proof.Machine

/-! ## Barriers and groups (O13) -/

namespace Sys2Proof.Machine

variable {s : State}

/-! ### Arrivals and their barriers -/

section
variable {h : Here} {l n : Nat} {t : Thread} {b : Block} {x : BarOp} {stop gang : Bool} {w : Wave} {pc : Pc}

/-- BAR or ARRIVE of one lane that binds no barrier. -/
theorem barRun_one (hi : Issues s { len := 8, g := x.g, cluster := true, orders := true } h [(l, t)])
    (hb : BarrierHere s h [(l, t)] x) (hx : x.bind = none) (ht : s.blockOf t = some b) :
    barRun x stop s = .next (let r := s.barLane h h.wave l t b x.gang stop x.n.toNat (h.wave.after 8)
      r.1.done h r.2 (h.wave.after 8)) := by
  obtain ⟨hn, -⟩ := hb
  have hf : ([(l, t)].find? fun e => (s.blockOf e.2).isNone || x.n.toNat ≥ s.barCount h.wave.kid x.gang) = none := by
    simp [ht, hn]
  rw [barRun, hi.run]
  simp only [hf, hx, List.foldl_cons, List.foldl_nil, ht]

theorem State.stands_no {y : Barrier} (hp : t.pending gang n = none) : s.stands h t y gang n = .no := by
  simp [State.stands, hp]

theorem State.stands_now {y : Barrier} {p : PendArr} (hp : t.pending gang n = some p) (hy : p.phase = y.phase) :
    s.stands h t y gang n = .now := by
  simp [State.stands, hp, hy]

theorem State.stands_past {y : Barrier} {p : PendArr} (hp : t.pending gang n = some p) (hy : p.phase ≠ y.phase) :
    s.stands h t y gang n = .past (s.phaseView h.core gang ((Table.get? y.past p.phase).getD View.zero)
      (t.dropPending gang n)) := by
  simp [State.stands, hp, hy]

/-- A thread that is no member of the barrier's group goes on. -/
theorem State.barLane_stranger (hm : b.member t.uid (s.barrier b gang n).group = false) :
    s.barLane h w l t b gang stop n pc = (s, w) := by
  simp [State.barLane, hm]

/-- A member with no pending arrival arrives; BAR stops it, and ARRIVE leaves its arrival pending. -/
theorem State.barLane_no (hm : b.member t.uid (s.barrier b gang n).group = true)
    (hs : s.stands h t (s.barrier b gang n) gang n = .no) :
    let y := s.barrier b gang n
    let r := s.arrive h t b gang n
    s.barLane h w l t b gang true n pc = (r.1, w.setLane l { r.2 with st := .stopped gang n y.phase, pc := pc }) ∧
    s.barLane h w l t b gang false n pc =
      (r.1, w.setLane l { r.2 with pend := r.2.pend ++ [{ gang := gang, n := n, phase := y.phase }] }) := by
  constructor <;> simp only [State.barLane, hm, hs, Bool.not_true, Bool.false_eq_true, if_false]

/-- A member whose arrival is pending in the current phase stops at BAR with no new one. -/
theorem State.barLane_now (hm : b.member t.uid (s.barrier b gang n).group = true)
    (hs : s.stands h t (s.barrier b gang n) gang n = .now) :
    s.barLane h w l t b gang true n pc = (s, w.setLane l
      { t.dropPending gang n with st := .stopped gang n (s.barrier b gang n).phase, pc := pc }) ∧
    s.barLane h w l t b gang false n pc = (s, w) := by
  constructor <;> simp only [State.barLane, hm, hs, Bool.not_true, Bool.false_eq_true, if_false]

/-- A member whose arrival is pending in a phase that is over goes on at BAR, and arrives anew at ARRIVE. -/
theorem State.barLane_past {t1 : Thread} (hm : b.member t.uid (s.barrier b gang n).group = true)
    (hs : s.stands h t (s.barrier b gang n) gang n = .past t1) :
    let r := s.arrive h (t.dropPending gang n) b gang n
    s.barLane h w l t b gang true n pc = (s, w.setLane l t1) ∧
    s.barLane h w l t b gang false n pc = (r.1, w.setLane l
      { r.2 with pend := r.2.pend ++ [{ gang := gang, n := n, phase := (s.barrier b gang n).phase }] }) := by
  constructor <;> simp only [State.barLane, hm, hs, Bool.not_true, Bool.false_eq_true, if_false]

end

theorem barrierArrival : Claim.BarrierArrival := by
  intro x s h l t b hi hb hx ht n y pc
  have hrun (stop : Bool) := barRun_one (stop := stop) hi hb hx ht
  rw [exec_bar, exec_arrive, execBar, execArrive, hrun true, hrun false]
  refine ⟨fun hm hp => ?_, fun hm p hp => ⟨fun hy => ?_, fun hy => ?_⟩, fun hm => ?_⟩
  · obtain ⟨hbar, harr⟩ := State.barLane_no (l := l) (w := h.wave) (pc := h.wave.after 8) hm (State.stands_no hp)
    rw [hbar, harr]
    exact ⟨rfl, rfl⟩
  · obtain ⟨hbar, harr⟩ := State.barLane_now (l := l) (w := h.wave) (pc := h.wave.after 8) hm (State.stands_now hp hy)
    rw [hbar, harr]
    exact ⟨rfl, rfl⟩
  · obtain ⟨hbar, harr⟩ := State.barLane_past (l := l) (w := h.wave) (pc := h.wave.after 8) hm (State.stands_past hp hy)
    rw [hbar, harr]
    exact ⟨rfl, rfl⟩
  · rw [State.barLane_stranger hm, State.barLane_stranger hm]
    exact ⟨rfl, rfl⟩

/-! ### Phases -/

/-- The barriers of a block or its gang that are in use. -/
def State.bars (s : State) (b : Block) (gang : Bool) : Table Barrier :=
  if gang then ((Table.get? s.gangs b.gangUid).map Gang.bars).getD []
  else ((Table.get? s.blocks b.uid).map Block.bars).getD []

/-- The block, or the gang, whose barriers these are is there. -/
def State.hasBars (s : State) (b : Block) (gang : Bool) : Bool :=
  if gang then (Table.get? s.gangs b.gangUid).isSome else (Table.get? s.blocks b.uid).isSome

theorem State.barrier_of_bars {b : Block} {gang : Bool} {n : Nat} {y : Barrier}
    (h : Table.get? (s.bars b gang) n = some y) : s.barrier b gang n = y := by
  simp only [State.bars] at h
  simp only [State.barrier, h, Option.getD_some]

/-- A barrier that has been stored is read back, where its block or gang is there. -/
theorem State.bars_setBarrier {b : Block} {gang : Bool} (hb : s.hasBars b gang = true) (n : Nat) (y : Barrier) :
    Table.get? ((s.setBarrier b gang n y).bars b gang) n = some y := by
  cases gang with
  | false =>
    obtain ⟨c, hc⟩ := Option.isSome_iff_exists.mp hb
    simp [State.setBarrier, State.bars, State.get?_updBlock, hc]
  | true =>
    obtain ⟨c, hc⟩ := Option.isSome_iff_exists.mp hb
    simp [State.setBarrier, State.bars, State.get?_updGang, hc]

/-- From `s` to `t` every block and gang keeps its barriers. -/
def State.SameBars (s t : State) : Prop := ∀ b gang, t.bars b gang = s.bars b gang

theorem State.SameBars.refl (s : State) : s.SameBars s := fun _ _ => rfl

theorem State.SameBars.trans {t u : State} (h : s.SameBars t) (h' : t.SameBars u) : s.SameBars u :=
  fun b gang => (h' b gang).trans (h b gang)

theorem State.sameBars_of_eq {t : State} (hb : t.blocks = s.blocks) (hg : t.gangs = s.gangs) : s.SameBars t := by
  intro b gang
  simp only [State.bars, hb, hg]

theorem State.sameBars_updBlock {f : Block → Block} (hf : ∀ b, (f b).bars = b.bars) (s : State) (k : Nat) :
    s.SameBars (s.updBlock k f) := by
  intro b gang
  simp only [State.bars, State.updBlock_gangs, State.get?_updBlock]
  split <;> [rfl; skip]
  split
  · cases Table.get? s.blocks b.uid <;> simp [hf]
  · rfl

theorem State.sameBars_foldl {α : Type} {f : State → α → State} (hf : ∀ (s : State) a, s.SameBars (f s a)) (l : List α)
    (s : State) : s.SameBars (l.foldl f s) :=
  List.foldlRecOn (motive := fun t => s.SameBars t) l f (.refl s) fun t ht a _ => ht.trans (hf t a)

/-- From `s` to `t` nothing has changed but the clusters. -/
def State.OnlyClusters (s t : State) : Prop := ∃ cs, t = { s with clusters := cs }

theorem State.OnlyClusters.refl (s : State) : s.OnlyClusters s := ⟨s.clusters, rfl⟩

theorem State.OnlyClusters.trans {t u : State} (h : s.OnlyClusters t) (h' : t.OnlyClusters u) : s.OnlyClusters u := by
  obtain ⟨cs, rfl⟩ := h
  obtain ⟨cs', rfl⟩ := h'
  exact ⟨cs', rfl⟩

theorem State.updCluster_only (s : State) (cl : Nat) (f : Cluster → Cluster) : s.OnlyClusters (s.updCluster cl f) :=
  ⟨_, rfl⟩

theorem State.OnlyClusters.foldl {α : Type} {f : State → α → State} (hf : ∀ (s : State) a, s.OnlyClusters (f s a)) (l : List α)
    (s : State) : s.OnlyClusters (l.foldl f s) :=
  List.foldlRecOn (motive := fun t => s.OnlyClusters t) l f (.refl s) fun t ht a _ => ht.trans (hf t a)

theorem State.binCrew_only (s : State) (cl : Nat) (ts : List Thread) (id : Nat) : s.OnlyClusters (s.binCrew cl ts id) := by
  unfold State.binCrew
  split
  · exact .refl s
  · exact s.updCluster_only _ _

/-- Binning the waiting records of a cluster changes clusters alone. -/
theorem State.binWaiting_only (s : State) (cl : Nat) : s.OnlyClusters (s.binWaiting cl) :=
  ((s.updCluster_only cl _).trans (.foldl (fun s _ => s.updCluster_only cl _) _ _)).trans
    (.foldl (fun s _ => s.binCrew_only cl _ _) _ _)

theorem State.OnlyClusters.sameBars {t : State} (h : s.OnlyClusters t) : s.SameBars t := by
  obtain ⟨cs, rfl⟩ := h
  exact .refl s

/-- What a completed phase leaves of its barrier (R262). -/
theorem State.completePhase_bars {b : Block} {gang : Bool} (hb : s.hasBars b gang = true) (n : Nat) (x : Barrier) :
    ∃ v, Table.get? ((s.completePhase b gang n x).bars b gang) n = some { x with
      arrived := [], phase := (x.phase + 1) % 2 ^ 32, view := v, marks := [], past := Table.put x.past x.phase v } := by
  refine ⟨batchView (s.barBlocks b gang) x.arrived (x.marks.foldl (fun v k => v.join k.view) View.zero), ?_⟩
  unfold State.completePhase
  refine .trans (congrArg (Table.get? · n) ?_) (State.bars_setBarrier hb n _)
  refine State.SameBars.trans (State.SameBars.trans ?_ (State.sameBars_foldl (fun s u => ?_) _ _))
    (State.sameBars_foldl (fun s cl => ?_) _ _) b gang
  · refine State.sameBars_foldl (fun s c => ?_) _ _
    exact State.sameBars_of_eq rfl rfl
  · refine State.sameBars_updBlock (fun b => ?_) _ _
    rfl
  · exact .trans (State.sameBars_of_eq rfl rfl) (State.binWaiting_only _ _).sameBars

/-- The phase of a barrier is full: every member has arrived, and the batches they sealed have completed (R262). -/
def State.phaseFull (s : State) (b : Block) (gang : Bool) (n : Nat) : Prop :=
  let x := s.barrier b gang n
  let bs := s.barBlocks b gang
  x.arrived ≠ [] ∧ membership bs x.group ≤ x.arrived.length ∧ s.batchesDone bs x.arrived = true

theorem State.judgeBar_full {b : Block} {gang : Bool} {n : Nat} (h : s.phaseFull b gang n) :
    s.judgeBar b gang n = s.completePhase b gang n (s.barrier b gang n) := by
  obtain ⟨ha, hm, hd⟩ := h
  refine if_pos ?_
  simp [ha, hm, hd]

theorem State.judgeBar_waits {b : Block} {gang : Bool} {n : Nat} (h : ¬ s.phaseFull b gang n) :
    s.judgeBar b gang n = s := by
  refine if_neg fun hc => h ?_
  simpa [State.phaseFull, and_assoc] using hc

theorem barrierPhase : Claim.BarrierPhase := by
  intro s b gang n x bs full
  refine ⟨State.judgeBar_waits, fun hf hb => ?_, fun h t hb => ?_⟩
  · intro y
    obtain ⟨v, hv⟩ := State.completePhase_bars hb n x
    have hy : y = _ := (congrArg (State.barrier · b gang n) (State.judgeBar_full hf)).trans (State.barrier_of_bars hv)
    rw [hy]
    exact ⟨rfl, rfl, rfl, by simp⟩
  · intro r y
    have hy : y = _ := State.barrier_of_bars (State.bars_setBarrier hb n _)
    rw [hy]
    exact ⟨rfl, rfl, by simp [barScope], rfl⟩

/-! ### Membership of groups -/

section
variable {x : GroupOp} {h : Here} {l : Nat} {t : Thread} {b : Block}

/-- The group's bit in a thread's mask. -/
def groupBit (x : GroupOp) : BitVec 16 := BitVec.ofNat 16 (2 ^ x.grp.toNat)

/-- JOIN and LEAVE of one lane have no fault to raise, where the group is not the block's own. -/
theorem groupRun_legal (hg : x.grp ≠ 0) (ht : s.blockOf t = some b) :
    ([(l, t)].find? fun e => (s.blockOf e.2).isNone || x.grp.toNat = 0) = none := by
  have : x.grp.toNat ≠ 0 := fun h0 => hg (BitVec.eq_of_toNat_eq h0)
  simp [ht, this]

theorem join_one (hi : Issues s { len := 8, g := x.g, cluster := true } h [(l, t)]) (hg : x.grp ≠ 0)
    (ht : s.blockOf t = some b) :
    exec (.join x) s = .next ((s.updBlock b.uid fun b' =>
      { b' with live := Table.put b'.live t.uid (Table.getD b.live t.uid 0 ||| groupBit x) }).doneLen h h.wave 8) := by
  rw [exec_join, execJoin, groupRun, hi.run]
  simp only [groupRun_legal hg ht, List.foldl_cons, List.foldl_nil, ht, if_true]
  rfl

theorem leave_stranger (hi : Issues s { len := 8, g := x.g, cluster := true } h [(l, t)]) (hg : x.grp ≠ 0)
    (ht : s.blockOf t = some b) (hm : (Table.getD b.live t.uid 0).getLsbD x.grp.toNat = false) :
    exec (.leave x) s = .next (s.doneLen h h.wave 8) := by
  rw [exec_leave, execLeave, groupRun, hi.run]
  simp only [groupRun_legal hg ht, List.foldl_cons, List.foldl_nil, ht, hm, Bool.false_eq_true, if_false, Bool.not_false,
    if_true]

/-- The state in which a thread is no member of a group any more. -/
def State.leftGroup (s : State) (x : GroupOp) (b : Block) (t : Thread) : State :=
  s.updBlock b.uid fun b' =>
    { b' with live := Table.put b'.live t.uid (Table.getD b.live t.uid 0 &&& ~~~groupBit x) }

/-- A pending arrival stands in the current phase of a barrier of the group. -/
def PendArr.leaves (p : PendArr) (s : State) (b : Block) (g : Nat) : Bool :=
  (s.barrier b p.gang p.n).group = g && p.phase = (s.barrier b p.gang p.n).phase

theorem leave_member (hi : Issues s { len := 8, g := x.g, cluster := true } h [(l, t)]) (hg : x.grp ≠ 0)
    (ht : s.blockOf t = some b) (hm : (Table.getD b.live t.uid 0).getLsbD x.grp.toNat = true) :
    exec (.leave x) s = .next (((s.leftGroup x b t).withdraw b t.uid fun q => decide (q = x.grp.toNat)).doneLen h
      (h.wave.setLane l { t with pend := t.pend.filter fun p => !p.leaves (s.leftGroup x b t) b x.grp.toNat }) 8) := by
  rw [exec_leave, execLeave, groupRun, hi.run]
  simp only [groupRun_legal hg ht, List.foldl_cons, List.foldl_nil, ht, hm, Bool.false_eq_true, if_false, Bool.not_true]
  rfl

end

theorem groupMembership : Claim.GroupMembership := by
  intro x s h l t b hi hg ht bit m
  refine ⟨join_one hi hg ht, leave_stranger hi hg ht, fun hm => ?_⟩
  intro s1
  refine ⟨_, leave_member hi hg ht hm, fun p hp => ?_⟩
  simp only [List.mem_filter, hp, true_and, PendArr.leaves, Bool.not_eq_true', Bool.and_eq_false_iff, decide_eq_false_iff_not,
    not_and_or]
  rfl

/-- Settles O13: the arrival by how the thread's last one stands, the phase by whether it is full, and the groups by
whether the thread is a member. -/
theorem barriers : Obligations.Barriers := ⟨barrierArrival, barrierPhase, groupMembership⟩

end Sys2Proof.Machine

/-! ## The checks that come first, traps and clause headers (O20) -/

namespace Sys2Proof.Machine

variable {s : State}

/-! ### The common checks of an instruction -/

section
variable {f : Form} {h : Here} {ls : Table Thread}

/-- An instruction above the wave's level raises 0x11 (R183). -/
theorem State.issue_privileged (hh : s.here = some h) (hl : Mode.rank h.wave.mode < Mode.rank f.level)
    (k : Here → Table Thread → State) :
    s.issue f k = .next (s.raise h { code := 0x11, lane := lowLane h.wave.active }) := by
  simp only [State.issue, hh, hl, if_true]

theorem Form.not_above_of_user (hf : f.level = .user) (m : Mode) : ¬ Mode.rank m < Mode.rank f.level := by
  rw [hf]
  exact Nat.not_lt_zero _

/-- A passing lane that names a register beyond its range raises 0x01 (R44, R181). -/
theorem State.issue_beyond {e : Nat × Thread} (hh : s.here = some h) (hu : f.level = .user) (hl : f.illegal h = false)
    (he : ((h.wave.passing f.g).find? fun e => !e.2.inRange f.uses) = some e) (k : Here → Table Thread → State) :
    s.issue f k = .next (s.raise h { code := 0x01, lane := some e.1 }) := by
  simp only [State.issue, hh, Form.not_above_of_user hu, hl, he, if_false, Bool.false_eq_true]

/-- An instruction that some active lanes execute and others not, where all must, raises 0x02 (R183). -/
theorem State.issue_diverges (hh : s.here = some h) (hu : f.level = .user) (hl : f.illegal h = false)
    (hr : ((h.wave.passing f.g).find? fun e => !e.2.inRange f.uses) = none)
    (hd : f.diverges h.wave (h.wave.passing f.g) = true) (k : Here → Table Thread → State) :
    s.issue f k = .next (s.raise h { code := 0x02, lane := lowLane (h.wave.passing f.g) }) := by
  simp only [State.issue, hh, Form.not_above_of_user hu, hl, hr, hd, if_false, if_true, Bool.false_eq_true]

/-- Where the guard passes in no lane the instruction does nothing but end (R182). -/
theorem State.issue_nobody (hh : s.here = some h) (hu : f.level = .user) (hl : f.illegal h = false)
    (hp : h.wave.passing f.g = []) (k : Here → Table Thread → State) :
    s.issue f k = .next (s.doneLen h h.wave f.len) := by
  have hd : f.diverges h.wave [] = false := by simp [Form.diverges]
  simp only [State.issue, hh, Form.not_above_of_user hu, hl, hp, hd, List.find?_nil, List.isEmpty_nil, if_false, if_true,
    Bool.false_eq_true]

end

theorem commonChecks : Claim.CommonChecks := by
  intro s h hh
  refine ⟨fun x hm => ?_, fun x hm => ?_, fun x hm => ?_, fun x l t hl hp hn => ?_, fun x hl hp => ?_⟩
  · rw [exec_ctxsave, execCtxsave, State.system, State.issue_privileged hh (by rw [hm]; exact Nat.zero_lt_succ _)]
    rfl
  · rw [exec_srd, execSrd, State.system, State.issue_privileged hh (by rw [hm]; exact Nat.zero_lt_succ _)]
    rfl
  · rw [exec_tret, execTret, State.system, State.issue_privileged hh (by rw [hm]; exact Nat.zero_lt_succ _)]
    rfl
  · have hne : h.wave.passing x.g ≠ [] := by
      intro h0
      simp [h0] at hp
    rw [exec_bra, execBra, State.issue_diverges hh rfl hl (by simp [Thread.inRange]) (by simp [Form.diverges, hne, hn])]
    simp only [lowLane, hp, Option.map_some]
  · rw [exec_iadd, execIadd, intRun, State.lanewise, State.issue_nobody hh rfl hl hp]
    rfl

theorem registerRange : Claim.RegisterRange := by
  intro x s h e hh hl he t
  have hx (k : Wave → Thread → Thread) : s.lanewise (intForm x) k = .next t := State.issue_beyond hh rfl hl he _
  simp only [exec_iadd, exec_isum3, exec_isub, exec_imul, exec_imad, exec_imulh, exec_idiv, exec_irem, exec_imin, exec_imax,
    exec_mov, execIadd, execIsum3, execIsub, execImul, execImad, execImulh, execIdiv, execIrem, execImin, execImax, execMov,
    intRun, hx, and_self]

/-! ### Clause headers -/

theorem clauseHeader : Claim.ClauseHeader := by
  intro x s h hh
  refine ⟨fun hc => ?_, fun hc => ?_⟩
  · simp only [exec_clause, execClause, hh, hc]
    rfl
  · obtain ⟨c, hc⟩ := Option.isSome_iff_exists.mp hc
    simp only [exec_clause, execClause, hh, hc]
    rfl

/-! ### Traps and breakpoints -/

@[simp] theorem State.trace_clusters (ctx cls core slot detail pc : Nat) :
    (s.trace ctx cls core slot detail pc).clusters = s.clusters := by
  unfold State.trace
  dsimp only
  split <;> rfl

/-- The counts of some cores start anew: nothing else of any core changes, and no cluster. -/
theorem State.foldl_deadFrom (l : List Nat) (s : State) :
    let t := l.foldl (fun s k => s.updCore k fun c => { c with deadFrom := s.tick }) s
    t.clusters = s.clusters ∧ ∀ c, { t.core c with deadFrom := (s.core c).deadFrom } = s.core c := by
  induction l generalizing s with
  | nil => exact ⟨rfl, fun _ => rfl⟩
  | cons k l ih =>
    obtain ⟨hcl, hk⟩ := ih (s.updCore k fun c => { c with deadFrom := s.tick })
    refine ⟨hcl, fun c => ?_⟩
    have hu := State.core_updCore_congr (g := fun x => { x with deadFrom := (s.core c).deadFrom })
      (f := fun c => { c with deadFrom := s.tick }) (fun _ => rfl) s k c
    exact (congrArg (fun x : Core => { x with deadFrom := (s.core c).deadFrom }) (hk c)).trans hu

/-- The debug status of a cluster that a hit has frozen (R460). -/
def DbgStatus.froze (d : DbgStatus) (why core slot lane : Nat) (x : Skip) : DbgStatus :=
  { d with
    frozen := true, why := BitVec.ofNat 3 why, core := BitVec.ofNat 3 core, slot := BitVec.ofNat 6 slot
    lane := BitVec.ofNat 5 lane, hit := x }

/-- A cluster that a hit freezes says where and why, and no core changes but in its count (R457, R460). -/
theorem State.freeze_says {cl : Nat} (hcl : cl < s.clusters.length) (why core slot lane : Nat) (x : Skip) :
    ((s.freeze cl why core slot lane x).cluster cl).dbg = (s.cluster cl).dbg.froze why core slot lane x ∧
    ∀ c, { (s.freeze cl why core slot lane x).core c with deadFrom := (s.core c).deadFrom } = s.core c := by
  obtain ⟨hc, hk⟩ := State.foldl_deadFrom (natsFrom (8 * cl) 8)
    (s.updCluster cl fun c => { c with dbg := c.dbg.froze why core slot lane x })
  refine ⟨?_, hk⟩
  have hs := State.cluster_updCluster_self s cl (fun c => { c with dbg := c.dbg.froze why core slot lane x }) hcl
  exact (congrArg (fun l => (listGet l cl Cluster.reset).dbg) hc).trans (congrArg Cluster.dbg hs)

theorem trapsAndBreakpoints : Claim.TrapsAndBreakpoints := by
  intro x s h ls l t hi hl
  have hlow : lowLane ls = some l := by simp [lowLane, hl]
  refine ⟨?_, fun hc => ?_, fun hc => ?_⟩
  · rw [exec_trap, execTrap, hi.run, hlow]
  · rw [exec_bkpt, execBkpt, hi.run]
    simp only [hc, if_true]
    rfl
  · intro freezes
    have hx : exec (.bkpt x) s = .next (s.hit h .bkpt l l x.n.toNat 0) := by
      rw [exec_bkpt, execBkpt, hi.run]
      simp only [hc, hlow, Bool.false_eq_true, if_false, Option.getD_some]
    refine ⟨fun hf => ?_, fun hf hcl => ?_⟩
    · rw [hx, State.hit, if_neg (Bool.eq_false_iff.mp hf)]
    · obtain ⟨hd, hk⟩ := State.freeze_says hcl 1 (h.core % 8) h.slot l .bkpt
      rw [State.hit, if_pos hf] at hx
      refine ⟨_, hx, ?_⟩
      simp only [State.cluster, State.core, State.trace_clusters, State.trace_cores] at hd hk ⊢
      rw [Skip.why, hd]
      exact ⟨rfl, rfl, rfl, rfl, rfl, hk⟩

/-- Settles O20: each check by the one lemma that says when an instruction meets it. -/
theorem checksTrapsAndHeaders : Obligations.ChecksTrapsAndHeaders :=
  ⟨trapsAndBreakpoints, clauseHeader, commonChecks, registerRange⟩

end Sys2Proof.Machine

/-! ## BRD and RCV (O15) -/

namespace Sys2Proof.Machine

variable {s : State}

/-- A branch goes as many slots of 8 bytes from its PC as its offset says (R190). -/
theorem branchTarget_eq (pc : Pc) (off : Word) : branchTarget pc off = BitVec.ofInt 52 (pc.toNat + 8 * off.toInt) := by
  apply BitVec.eq_of_toInt_eq
  rw [branchTarget, BitVec.toInt_add, BitVec.toInt_mul, BitVec.toInt_ofInt, BitVec.toInt_signExtend_of_le (by decide),
    show (8 : Pc).toInt = 8 from rfl, BitVec.toInt_eq_toNat_bmod, Int.bmod_add_bmod, Int.add_bmod_bmod, Int.mul_comm]

/-! ### BRD -/

section
variable {x : BrdOp} {h : Here} {ls : Table Thread}

/-- The lanes that a BRD takes to its target, and those that fall through. -/
def brdTaken (x : BrdOp) (ls : Table Thread) : Table Thread := ls.filter fun e => e.2.pred x.pa.toNat != x.neg
def brdFalls (x : BrdOp) (ls : Table Thread) : Table Thread := ls.filter fun e => !(e.2.pred x.pa.toNat != x.neg)

/-- The lanes of a branch enrolled under its soft barrier. -/
def State.enrolAll (s : State) (core : Nat) (ls : Table Thread) (j : BitVec 4) : State :=
  ls.foldl (fun s e => s.enrol core e.2 j.toNat) s

/-- Which lanes leave where a BRD divides a wave, and where to: the smaller group (R31). -/
def brdLeaves (x : BrdOp) (h : Here) (ls : Table Thread) : Table Thread × Pc :=
  if (brdFalls x ls).length ≥ (brdTaken x ls).length then (brdTaken x ls, branchTarget h.wave.pc x.off)
  else (brdFalls x ls, h.wave.after 16)

/-- What a BRD of a core's wave does whose mask stack is empty or which is a crew with room on it, and which finds the
basins it needs. -/
theorem brd_issues (hi : Issues s { len := 16, g := .always, final := true } h ls) (hh : h.hand = none) :
    exec (.brd x) s = .next (
      let s1 := s.enrolAll h.core ls x.j
      let tgt := branchTarget h.wave.pc x.off
      let fall := h.wave.after 16
      let filed := brdLeaves x h ls
      if (brdFalls x ls).isEmpty then s1.done h h.wave tgt
      else if (brdTaken x ls).isEmpty then s1.done h h.wave fall
      else if h.wave.crew.isSome then
        if h.wave.depth ≥ 16 then s.raise h { code := 2, lane := lowLane ls }
        else s1.maskDivide h x.j (brdFalls x ls) tgt fall
      else if h.wave.mask.isEmpty || h.wave.depth ≥ 16 then
        if s.basinsFor h.core (filed.1.map fun e => (e.2, filed.2)) then
          s1.divide h (brdTaken x ls) (brdFalls x ls) tgt fall
        else if h.wave.depth ≥ 16 || (s.core h.core).slotFree then s.forceBasin h.core
        else ((s.forceBasin h.core).enrolAll h.core ls x.j).maskDivide h x.j (brdFalls x ls) tgt fall
      else s1.maskDivide h x.j (brdFalls x ls) tgt fall) := by
  rw [exec_brd, execBrd, hi.run]
  simp only [hh, Option.isSome_none, Bool.false_eq_true, if_false]
  rfl

end

theorem divergentBranch : Claim.DivergentBranch := by
  intro x s h ls hi hh taken tgt fall yes no s1
  have hx := brd_issues (x := x) hi hh
  have hyes : brdTaken x ls = yes := rfl
  have hno : brdFalls x ls = no := rfl
  have htgt : branchTarget h.wave.pc x.off = tgt := branchTarget_eq _ _
  have hs1 : s.enrolAll h.core ls x.j = s1 := rfl
  have hfall : h.wave.after 16 = fall := rfl
  simp only [brdLeaves, hyes, hno, htgt, hs1, hfall, List.isEmpty_iff] at hx
  refine ⟨fun h0 => ?_, fun h0 h1 => ?_, fun h0 h1 hc hd => ?_, fun h0 h1 hc hm => ⟨fun hl hb => ?_, fun hl hb => ?_⟩⟩
  · rw [hx, if_pos h0]
  · rw [hx, if_neg h0, if_pos h1]
  · rw [hx, if_neg h0, if_neg h1, if_pos hc, if_neg (Nat.not_le.mpr hd)]
    rfl
  · rw [if_pos hl] at hx
    simp only [hx, h0, h1, hc, hm, hb, State.divide, hl, Option.isSome_none, Bool.false_eq_true, if_false, if_true, Bool.true_or,
      List.isEmpty_nil, ge_iff_le]
  · rw [if_neg (Nat.not_le.mpr hl)] at hx
    simp only [hx, h0, h1, hc, hm, hb, State.divide, Nat.not_le.mpr hl, Option.isSome_none, Bool.false_eq_true, if_false,
      if_true, Bool.true_or, List.isEmpty_nil, ge_iff_le]

/-! ### RCV -/

section
variable {x : RcvOp} {h : Here} {ls : Table Thread} {e : MaskEntry} {t : List MaskEntry}

/-- Some lanes' enrolment under a soft barrier ends. -/
def State.unenrolAll (s : State) (core : Nat) (ls : Table Thread) (j : BitVec 4) : State :=
  ls.foldl (fun s e => s.unenrol core e.2 (some j.toNat)) s

/-- The lanes of an RCV that are enrolled under its soft barrier. -/
def State.rcvCome (s : State) (core : Nat) (ls : Table Thread) (j : BitVec 4) : Table Thread :=
  ls.filter fun e => s.enrolled core e.2 j.toNat

/-- Outside a mask stack the enrolled lanes of an RCV leave for a basin at the next slot. -/
theorem rcv_outside (hi : Issues s { len := 8, g := x.g, final := true } h ls) (hh : h.hand = none)
    (hc : h.wave.crew = none) (hm : h.wave.mask = []) :
    exec (.rcv x) s = .next (
      let come := s.rcvCome h.core ls x.j
      let pc := h.wave.after 8
      if come.isEmpty then s.doneLen h h.wave 8
      else if !s.basinsFor h.core (come.map fun e => (e.2, pc)) then s.forceBasin h.core
      else (s.unenrolAll h.core come x.j).done h (h.wave.leaving come pc (some (x.t.toNat + 1, x.j.toNat))) pc) := by
  rw [exec_rcv, execRcv, hi.run]
  simp only [hh, hc, hm, Option.isSome_none, List.isEmpty_nil, Bool.not_true, Bool.or_self, Bool.false_eq_true, if_false]
  rfl

/-- On a mask stack an RCV that is not that of the top entry, or that the other side does not wait at, does nothing. -/
theorem rcv_elsewhere (hi : Issues s { len := 8, g := x.g, final := true } h ls) (hh : h.hand = none)
    (hm : h.wave.mask = e :: t) (hn : e.id ≠ x.j ∨ e.second = true ∧ e.pc ≠ h.wave.after 8) :
    exec (.rcv x) s = .next (s.doneLen h h.wave 8) := by
  have hn' : (e.id != x.j || (e.second && e.pc != h.wave.after 8)) = true := by simpa using hn
  rw [exec_rcv, execRcv, hi.run]
  simp only [hh, hm, hn', Option.isSome_none, List.isEmpty_cons, Bool.not_false, Bool.or_true, Bool.false_eq_true, if_false,
    if_true]

/-- With its id on top of the stack, an RCV of the whole side meets there. -/
theorem rcv_meets (hi : Issues s { len := 8, g := x.g, final := true } h ls) (hh : h.hand = none)
    (hm : h.wave.mask = e :: t) (hid : e.id = x.j) (hl : ls.length = h.wave.active.length)
    (hp : e.second = true → e.pc = h.wave.after 8) :
    exec (.rcv x) s = .next (s.maskRcv h ls e t x.j.toNat) := by
  have hn : (e.id != x.j || (e.second && e.pc != h.wave.after 8)) = false := by simpa [hid] using hp
  rw [exec_rcv, execRcv, hi.run]
  simp only [hh, hm, hn, hl, Option.isSome_none, List.isEmpty_cons, Bool.not_false, Bool.or_true, Bool.false_eq_true, if_false,
    if_true, bne_self_eq_false]

end

theorem reconvergence : Claim.Reconvergence := by
  intro x s h ls hi hh pc come gone met
  refine ⟨fun hc hm => ?_, fun e t hm hid hl => ?_, fun e t hm hid => rcv_elsewhere hi hh hm (.inl hid)⟩
  · have hx := rcv_outside (x := x) hi hh hc hm
    have hcome : s.rcvCome h.core ls x.j = come := rfl
    simp only [hcome, List.isEmpty_iff] at hx
    refine ⟨fun h0 => ?_, fun h0 hb => ?_⟩
    · rw [hx, if_pos h0]
      rfl
    · rw [hx, if_neg h0, show h.wave.after 8 = pc from rfl, hb]
      rfl
  · refine ⟨fun h2 => ?_, fun h2 hp => ?_, fun h2 hp => rcv_elsewhere hi hh hm (.inr ⟨h2, hp⟩)⟩
    · rw [rcv_meets hi hh hm hid hl (by simp [h2])]
      simp only [State.maskRcv, h2, Bool.false_eq_true, if_false]
      rfl
    · rw [rcv_meets hi hh hm hid hl fun _ => hp]
      simp only [State.maskRcv, h2, if_true]
      rfl

/-- Settles O15: BRD by which lanes it takes and where it can divide them, RCV by whether its wave has a mask stack. -/
theorem divergenceAndReconvergence : Obligations.DivergenceAndReconvergence := ⟨divergentBranch, reconvergence⟩

end Sys2Proof.Machine

/-! ## The frame of the lane-wise instructions (O49) -/

namespace Sys2Proof.Machine

variable {s : State} {h : Here} {ls : Table Thread}

/-- A change of a thread writes nothing but the registers `dst` and the predicate `pd`. -/
def WritesOnly (dst : RegRun) (pd : Option (BitVec 4)) (g : Thread → Thread) : Prop :=
  ∀ t, (∀ r, ¬ (dst.1 ≤ r ∧ r < dst.1 + dst.2) → (g t).reg r = t.reg r) ∧
    (∀ p : BitVec 4, pd ≠ some p → (g t).pred p.toNat = t.pred p.toNat) ∧
    { g t with v := t.v, p := t.p } = t

theorem Thread.reg_setReg_of_ne (t : Thread) {n r : Nat} (x : Word) (hr : r ≠ n) : (t.setReg n x).reg r = t.reg r := by
  simp [Thread.reg, Thread.setReg, Table.getD, Table.get?_put_of_ne _ _ hr]

theorem Thread.pred_setPred_of_ne (t : Thread) {p q : BitVec 4} (b : Bool) (hp : p ≠ q) :
    (t.setPred p.toNat b).pred q.toNat = t.pred q.toNat := by
  have hne : p.toNat ≠ q.toNat := fun e => hp (BitVec.eq_of_toNat_eq e)
  have hbit : (BitVec.ofNat 16 (2 ^ p.toNat)).getLsbD q.toNat = false := by
    simp only [BitVec.getLsbD_ofNat, Nat.testBit_two_pow, hne, decide_false, Bool.and_false]
  cases b
  · simp only [Thread.pred, Thread.setPred, Bool.false_eq_true, if_false, BitVec.getLsbD_and, BitVec.getLsbD_not, hbit]
    have : q.toNat < 16 := q.isLt
    simp [this]
  · simp only [Thread.pred, Thread.setPred, if_true, BitVec.getLsbD_or, hbit, Bool.or_false]

theorem writesOnly_setReg (n : Nat) (val : Thread → Word) : WritesOnly (n, 1) none fun t => t.setReg n (val t) :=
  fun t => ⟨fun r hr => t.reg_setReg_of_ne _ (by omega), fun _ _ => rfl, rfl⟩

theorem writesOnly_setPair (n : Nat) (val : Thread → DWord) : WritesOnly (n, 2) none fun t => t.setPair n (val t) := by
  refine fun t => ⟨fun r hr => ?_, fun _ _ => rfl, rfl⟩
  have h0 : r ≠ n := by omega
  have h1 : r ≠ n + 1 := by omega
  simp [Thread.setPair, Thread.reg_setReg_of_ne, h0, h1]

theorem writesOnly_setW (wide : Bool) (n : Nat) (val : Thread → DWord) :
    WritesOnly (n, if wide then 2 else 1) none fun t => t.setW wide n (val t) := by
  cases wide
  · exact writesOnly_setReg n _
  · exact writesOnly_setPair n _

theorem writesOnly_setPred (p : BitVec 4) (val : Thread → Bool) :
    WritesOnly (0, 0) (some p) fun t => t.setPred p.toNat (val t) :=
  fun t => ⟨fun _ _ => rfl, fun _ hq => t.pred_setPred_of_ne _ fun e => hq (e ▸ rfl), rfl⟩

/-- An instruction ends at the next slot, having made one change of every issuing lane, within `dst` and `pd`. -/
def Computes (r : Res) (s : State) (h : Here) (ls : Table Thread) (f : Form) (dst : RegRun) (pd : Option (BitVec 4)) :
    Prop :=
  ∃ g, WritesOnly dst pd g ∧ r = .next (s.doneLen h (h.wave.updLanes ls fun _ => g) f.len)

section
variable {f : Form} {dst : RegRun} {pd : Option (BitVec 4)}

theorem Issues.computes (hi : Issues s f h ls) {k : Wave → Thread → Thread} (hk : ∀ w, WritesOnly dst pd (k w)) :
    Computes (s.lanewise f k) s h ls f dst pd := ⟨k h.wave, hk _, hi.lanes k⟩

theorem intRun_computes {x : IntOp} (hi : Issues s (intForm x) h ls) (f : Int → Int → Int → Int) :
    Computes (intRun x s f) s h ls (intForm x) (x.d.toNat, if x.w then 2 else 1) none :=
  hi.computes fun _ => writesOnly_setW _ _ _

theorem intLogic_computes {x : IntOp} (hi : Issues s (intForm x) h ls) (f : DWord → DWord → DWord) :
    Computes (intLogic x s f) s h ls (intForm x) (x.d.toNat, if x.w then 2 else 1) none :=
  hi.computes fun _ => writesOnly_setW _ _ _

theorem intBits_computes {x : IntOp} (hi : Issues s (shiftForm x) h ls) (f : DWord → Nat → DWord) :
    Computes (intBits x s f) s h ls (shiftForm x) (x.d.toNat, if x.w then 2 else 1) none := by
  rw [shiftForm] at hi ⊢
  rw [intBits]
  exact hi.computes fun _ => writesOnly_setW _ _ _

theorem intCount_computes {x : IntOp}
    (hi : Issues s { intForm x with uses := (x.d.toNat, 1) :: Src.runW x.w x.a } h ls) (f : Nat → DWord → Nat) :
    Computes (intCount x s f) s h ls { intForm x with uses := (x.d.toNat, 1) :: Src.runW x.w x.a } (x.d.toNat, 1) none :=
  hi.computes fun _ => writesOnly_setReg _ _

theorem fRun_computes {x : FOp} (hi : Issues s (fForm x) h ls) (f : Word → Word → Word → Word) :
    Computes (fRun x s f) s h ls (fForm x) (x.d.toNat, 1) none :=
  hi.computes fun _ => writesOnly_setReg _ _

theorem pkRun_computes {x : PkOp} (hi : Issues s (pkForm x) h ls) (f : Real' → Real' → Real' → Real') :
    Computes (pkRun x s f) s h ls (pkForm x) (x.d.toNat, 1) none := by
  rw [pkForm] at hi ⊢
  rw [pkRun]
  exact hi.computes fun _ => writesOnly_setReg _ _

theorem predRun_computes {x : PredOp} (hi : Issues s { len := 8, g := x.g } h ls) (f : Bool → Bool → Bool) :
    Computes (predRun x s f) s h ls { len := 8, g := x.g } (0, 0) (some x.pd) :=
  hi.computes fun _ => writesOnly_setPred _ _

theorem vote_computes {x : VoteOp} (hi : Issues s { len := 8, g := x.g } h ls) :
    Computes (execVote x s) s h ls { len := 8, g := x.g } (0, 0) (some x.pd) :=
  ⟨_, writesOnly_setPred x.pd _, hi.run _⟩

/-- CVT writes a pair where the result has 64 bits, and else a part of a register. -/
theorem cvt_computes {x : CvtOp} {uses : List RegRun} {d : RegRun} (hd : d = (x.d.toNat, if cvtBits x.dt = 64 then 2 else 1))
    (hu : uses = d :: Src.run (if cvtBits x.st = 64 then 2 else 1) x.a)
    (hi : Issues s { len := 8, g := x.g, uses := uses } h ls) :
    Computes (execCvt x s) s h ls { len := 8, g := x.g, uses := uses } d none := by
  subst hu hd
  rw [execCvt]
  refine hi.computes fun w => ?_
  by_cases hm : cvtBits x.dt = 64
  · simpa only [hm, if_true] using writesOnly_setPair _ _
  · simpa only [hm, if_false] using writesOnly_setReg _ _

/-- Every instruction that computes in each lane does so within its destinations. -/
theorem laneShape_computes {i : Instr} (hsh : laneShape i = some (f, dst, pd)) (hi : Issues s f h ls) :
    Computes (exec i s) s h ls f dst pd := by
  cases i with
  | iadd x => cases hsh; rw [exec_iadd, execIadd]; exact intRun_computes hi _
  | isum3 x => cases hsh; rw [exec_isum3, execIsum3]; exact intRun_computes hi _
  | isub x => cases hsh; rw [exec_isub, execIsub]; exact intRun_computes hi _
  | imul x => cases hsh; rw [exec_imul, execImul]; exact intRun_computes hi _
  | imulh x => cases hsh; rw [exec_imulh, execImulh]; exact intRun_computes hi _
  | imad x => cases hsh; rw [exec_imad, execImad]; exact intRun_computes hi _
  | idiv x => cases hsh; rw [exec_idiv, execIdiv]; exact intRun_computes hi _
  | irem x => cases hsh; rw [exec_irem, execIrem]; exact intRun_computes hi _
  | imin x => cases hsh; rw [exec_imin, execImin]; exact intRun_computes hi _
  | imax x => cases hsh; rw [exec_imax, execImax]; exact intRun_computes hi _
  | iabs x => cases hsh; rw [exec_iabs, execIabs]; exact intRun_computes hi _
  | mov x => cases hsh; rw [exec_mov, execMov]; exact hi.computes fun _ => writesOnly_setW _ _ _
  | movi x => cases hsh; rw [exec_movi, execMovi]; exact hi.computes fun _ => writesOnly_setW _ _ _
  | lea x => cases hsh; rw [exec_lea, execLea]; exact hi.computes fun _ => writesOnly_setW _ _ _
  | sel x => cases hsh; rw [exec_sel, execSel]; exact hi.computes fun _ => writesOnly_setW _ _ _
  | bfi x => cases hsh; rw [exec_bfi, execBfi]; exact hi.computes fun _ => writesOnly_setW _ _ _
  | and x => cases hsh; rw [exec_and, execAnd]; exact intLogic_computes hi _
  | or x => cases hsh; rw [exec_or, execOr]; exact intLogic_computes hi _
  | xor x => cases hsh; rw [exec_xor, execXor]; exact intLogic_computes hi _
  | not x => cases hsh; rw [exec_not, execNot]; exact intLogic_computes hi _
  | brev x => cases hsh; rw [exec_brev, execBrev]; exact intLogic_computes hi _
  | shl x => cases hsh; rw [exec_shl, execShl]; exact intBits_computes hi _
  | shr x => cases hsh; rw [exec_shr, execShr]; exact intBits_computes hi _
  | sar x => cases hsh; rw [exec_sar, execSar]; exact intBits_computes hi _
  | bfe x => cases hsh; rw [exec_bfe, execBfe]; exact intBits_computes hi _
  | popc x => cases hsh; rw [exec_popc, execPopc]; exact intCount_computes hi _
  | clz x => cases hsh; rw [exec_clz, execClz]; exact intCount_computes hi _
  | fadd x => cases hsh; rw [exec_fadd, execFadd, fExact]; exact fRun_computes hi _
  | fmul x => cases hsh; rw [exec_fmul, execFmul, fExact]; exact fRun_computes hi _
  | ffma x => cases hsh; rw [exec_ffma, execFfma, fExact]; exact fRun_computes hi _
  | fdiv x => cases hsh; rw [exec_fdiv, execFdiv, fExact]; exact fRun_computes hi _
  | fmin x => cases hsh; rw [exec_fmin, execFmin]; exact fRun_computes hi _
  | fmax x => cases hsh; rw [exec_fmax, execFmax]; exact fRun_computes hi _
  | frcp x => cases hsh; rw [exec_frcp, execFrcp]; exact fRun_computes hi _
  | frsq x => cases hsh; rw [exec_frsq, execFrsq]; exact fRun_computes hi _
  | fsqrt x => cases hsh; rw [exec_fsqrt, execFsqrt]; exact fRun_computes hi _
  | fexp2 x => cases hsh; rw [exec_fexp2, execFexp2]; exact fRun_computes hi _
  | flog2 x => cases hsh; rw [exec_flog2, execFlog2]; exact fRun_computes hi _
  | fsin x => cases hsh; rw [exec_fsin, execFsin]; exact fRun_computes hi _
  | fcos x => cases hsh; rw [exec_fcos, execFcos]; exact fRun_computes hi _
  | movi64 x => cases hsh; rw [exec_movi64, execMovi64]; exact hi.computes fun _ => writesOnly_setPair _ _
  | tern x => cases hsh; rw [exec_tern, execTern]; exact hi.computes fun _ => writesOnly_setReg _ _
  | rng x => cases hsh; rw [exec_rng, execRng]; exact hi.computes fun _ => writesOnly_setReg _ _
  | icmp x => cases hsh; rw [exec_icmp, execIcmp]; exact hi.computes fun _ => writesOnly_setPred _ _
  | fcmp x => cases hsh; rw [exec_fcmp, execFcmp]; exact hi.computes fun _ => writesOnly_setPred _ _
  | pnot x => cases hsh; rw [exec_pnot, execPnot]; exact hi.computes fun _ => writesOnly_setPred _ _
  | pmov x => cases hsh; rw [exec_pmov, execPmov]; exact hi.computes fun _ => writesOnly_setPred _ _
  | pand x => cases hsh; rw [exec_pand, execPand]; exact predRun_computes hi _
  | por x => cases hsh; rw [exec_por, execPor]; exact predRun_computes hi _
  | pxor x => cases hsh; rw [exec_pxor, execPxor]; exact predRun_computes hi _
  | vote x => cases hsh; rw [exec_vote]; exact vote_computes hi
  | pkadd x => cases hsh; rw [exec_pkadd, execPkadd]; exact pkRun_computes hi _
  | pkmul x => cases hsh; rw [exec_pkmul, execPkmul]; exact pkRun_computes hi _
  | pkfma x => cases hsh; rw [exec_pkfma, execPkfma]; exact pkRun_computes hi _
  | cvt x => cases hsh; rw [exec_cvt]; exact cvt_computes rfl rfl hi
  | _ => cases hsh

end

/-! ### What ending an instruction leaves alone -/

/-- An update of another core, or of one there is none of, leaves a core. -/
theorem State.core_updCore_same {c n : Nat} (f : Core → Core) (hn : ¬ (n = c ∧ c < s.cores.length)) :
    (s.updCore c f).core n = s.core n := by
  by_cases hc : n = c
  · have : s.cores.length ≤ c := by omega
    simp [State.core, State.updCore, listGet, hc, this]
  · exact State.core_updCore_of_ne _ f hc

/-- Where an update changes the waves, the rest of every core stands. -/
theorem State.core_updCore_waves (s : State) (c n : Nat) (x : Core → Table Wave) :
    let k := (s.updCore c fun k => { k with waves := x k }).core n
    { k with waves := (s.core n).waves } = s.core n :=
  State.core_updCore_congr (f := fun k => { k with waves := x k })
    (g := fun k : Core => { k with waves := (s.core n).waves }) (fun _ => rfl) s c n

/-- Only waves of cores differ, those only in the debt they carry, and the wave of `h` not at all. -/
structure OnlyDebt (h : Here) (s t : State) : Prop where
  rest : { t with cores := s.cores } = s
  core : ∀ c, { t.core c with waves := (s.core c).waves } = s.core c
  debt : ∀ c n, (Table.get? (t.core c).waves n).map (fun w => { w with debt := 0 }) =
    (Table.get? (s.core c).waves n).map fun w => { w with debt := 0 }
  own : Table.get? (t.core h.core).waves h.slot = Table.get? (s.core h.core).waves h.slot

theorem OnlyDebt.refl (h : Here) (s : State) : OnlyDebt h s s := ⟨rfl, fun _ => rfl, fun _ _ => rfl, rfl⟩

theorem OnlyDebt.trans {s t u : State} (a : OnlyDebt h s t) (b : OnlyDebt h t u) : OnlyDebt h s u where
  rest := by rw [← a.rest, ← b.rest]
  core c := by rw [← a.core c, ← b.core c]
  debt c n := (b.debt c n).trans (a.debt c n)
  own := b.own.trans a.own

theorem OnlyDebt.foldl {f : State → Nat → State} (hf : ∀ s n, OnlyDebt h s (f s n)) (l : List Nat) (s : State) :
    OnlyDebt h s (l.foldl f s) := by
  induction l generalizing s with
  | nil => exact .refl h s
  | cons n l ih => exact (hf s n).trans (ih _)

/-- A change of the debt of waves of a core, the wave of `h` apart. -/
theorem State.updCore_onlyDebt {c : Nat} {b : Nat × Wave → Nat × Wave} (hk : ∀ e, (b e).1 = e.1)
    (hd : ∀ e, { (b e).2 with debt := 0 } = { e.2 with debt := 0 }) (ho : c = h.core → ∀ w, b (h.slot, w) = (h.slot, w))
    (s : State) : OnlyDebt h s (s.updCore c fun x => { x with waves := x.waves.map b }) where
  rest := rfl
  core n := s.core_updCore_waves c n _
  debt n m := by
    by_cases hn : n = c ∧ c < s.cores.length
    · obtain ⟨rfl, hc⟩ := hn
      rw [State.core_updCore_self _ _ _ hc, Table.get?_map hk, Option.map_map]
      congr 1
      exact funext fun w => hd (m, w)
    · rw [State.core_updCore_same _ hn]
  own := by
    by_cases hn : h.core = c ∧ c < s.cores.length
    · obtain ⟨rfl, hc⟩ := hn
      rw [State.core_updCore_self _ _ _ hc, Table.get?_map hk]
      simp [ho]
    · rw [State.core_updCore_same _ hn]

/-- Where an update changes the hits that are counted, the rest of every context stands. -/
theorem State.ctx_updCtx_cxHits (s : State) (c n : Nat) (x : Ctx → DWord) :
    let k := (s.updCtx c fun k => { k with dbg := { k.dbg with cxHits := x k } }).ctx n
    { k with dbg := { k.dbg with cxHits := (s.ctx n).dbg.cxHits } } = s.ctx n :=
  listGet_listUpd_congr (f := fun k => { k with dbg := { k.dbg with cxHits := x k } })
    (g := fun k : Ctx => { k with dbg := { k.dbg with cxHits := (s.ctx n).dbg.cxHits } }) (fun _ => rfl) s.ctxs c n Ctx.reset

/-- The causal engine counts a hit of its context, and burdens other waves (R466, R467). -/
theorem State.causal_burdens (s : State) (h : Here) : ∃ u : State, OnlyDebt h u (s.causal h) ∧
    { u with ctxs := s.ctxs } = s ∧ ∀ c, { u.ctx c with dbg := { (u.ctx c).dbg with cxHits := (s.ctx c).dbg.cxHits } } = s.ctx c := by
  unfold State.causal
  dsimp only
  split
  · refine ⟨_, OnlyDebt.foldl (fun s n => ?_) _ _, rfl, fun c => ?_⟩
    · refine State.updCore_onlyDebt (fun e => ?_) (fun e => ?_) (fun hc w => ?_) s
      · split <;> rfl
      · split <;> rfl
      · simp [hc]
    · exact s.ctx_updCtx_cxHits _ c _
  · exact ⟨s, .refl h s, rfl, fun _ => rfl⟩

theorem State.causal_handed {f : Nat} (hf : h.hand = some f) (s : State) : s.causal h = s := by
  simp [State.causal, hf]

/-! ### A lane that runs keeps its side -/

theorem Wave.settle_of_side {w : Wave} (hw : w.side.isEmpty = false) : w.settle = w := by
  rw [Wave.settle]
  cases w.mask.length with
  | zero => rfl
  | succ n => simp [settleGo, hw]

theorem Wave.side_of_active {w : Wave} {e : Nat × Thread} (he : e ∈ w.active) : w.side.isEmpty = false := by
  simp only [Wave.active, List.mem_filter, Bool.and_eq_true, decide_eq_true_eq] at he
  obtain ⟨hl, hst, hm⟩ := he
  rw [List.isEmpty_eq_false_iff]
  exact List.ne_nil_of_mem (List.mem_filter.mpr ⟨hl, by simp [hst, hm]⟩)

/-! ### The frame -/

/-- The wave of `h` stands in its slot, or runs its handler. -/
theorem State.here_cases (hh : s.here = some h) :
    (h.hand = none ∧ h.core < s.cores.length ∧ Table.get? (s.core h.core).waves h.slot = some h.wave) ∨
    ∃ f, h.hand = some f ∧ f < s.handlers.length ∧ (s.handler f).wave = some h.wave := by
  unfold State.here at hh
  split at hh
  next c n _ =>
    obtain ⟨w, hw, rfl⟩ := Option.map_eq_some_iff.mp hh
    refine .inl ⟨rfl, ?_, hw⟩
    by_contra hc
    rw [State.core, listGet, List.getElem?_eq_none (Nat.le_of_not_lt hc)] at hw
    cases hw
  next f _ =>
    obtain ⟨w, hw, rfl⟩ := Option.map_eq_some_iff.mp hh
    refine .inr ⟨f, rfl, ?_, hw⟩
    by_contra hc
    rw [State.handler, listGet, List.getElem?_eq_none (Nat.le_of_not_lt hc)] at hw
    cases hw
  · cases hh
  · cases hh

section
variable {w : Wave}

/-- A wave that has lanes is put into its slot. -/
theorem State.putWave_slot (hh : h.hand = none) (hw : w.settle = w) (hl : w.lanes.isEmpty = false) :
    s.putWave h w = s.updCore h.core fun k => { k with waves := Table.put k.waves h.slot w } := by
  simp [State.putWave, hh, hw, hl]

theorem State.putWave_handler {f : Nat} (hh : h.hand = some f) (hw : w.settle = w) (hl : w.lanes.isEmpty = false) :
    s.putWave h w = s.updHandler f fun x => { x with wave := some w } := by
  simp [State.putWave, hh, hw, hl]

/-- A wave in its slot is the only one an instruction's end changes, but for what others owe. -/
theorem onlyWave_slot (hh : h.hand = none) (hc : h.core < s.cores.length) (hw : w.settle = w)
    (hl : w.lanes.isEmpty = false) :
    OnlyWave s ((s.putWave h w).causal h) h ∧ ((s.putWave h w).causal h).issuerWave h = some w := by
  rw [State.putWave_slot hh hw hl]
  set v := s.updCore h.core fun k => { k with waves := Table.put k.waves h.slot w } with hv
  have hcore (c : Nat) : { v.core c with waves := (s.core c).waves } = s.core c :=
    s.core_updCore_waves h.core c _
  have hother (c n : Nat) (hn : ¬ (c = h.core ∧ n = h.slot)) :
      Table.get? (v.core c).waves n = Table.get? (s.core c).waves n := by
    by_cases hcc : c = h.core
    · subst hcc
      rw [hv, State.core_updCore_self _ _ _ hc, Table.get?_put_of_ne _ _ (by tauto)]
    · rw [hv, State.core_updCore_of_ne _ _ hcc]
  have hself : Table.get? (v.core h.core).waves h.slot = some w := by
    rw [hv, State.core_updCore_self _ _ _ hc, Table.get?_put_self]
  obtain ⟨u, hd, hu, hx⟩ := v.causal_burdens h
  generalize v.causal h = t at hd ⊢
  have hcu (c : Nat) : u.core c = v.core c := congrArg (·.core c) hu
  have hrest {α : Type} (g : State → α) (hg : ∀ (s : State) cs xs, g { s with cores := cs, ctxs := xs } = g s) :
      g t = g s := calc
    g t = g { t with cores := u.cores } := (hg t u.cores t.ctxs).symm
    _ = g u := congrArg g hd.rest
    _ = g { u with ctxs := v.ctxs } := (hg u u.cores v.ctxs).symm
    _ = g v := congrArg g hu
    _ = g s := hg s v.cores s.ctxs
  refine ⟨⟨hrest (·.mem) ?_, hrest (·.clusters) ?_, hrest (·.blocks) ?_, hrest (·.gangs) ?_, hrest (·.grids) ?_,
    hrest (·.parts) ?_, hrest (·.dev) ?_, hrest (·.rill) ?_, hrest (·.pages) ?_, hrest (·.images) ?_, hrest (·.tick) ?_,
    hrest (·.uids) ?_, fun c => ?_, fun c => ?_, fun f => ?_, fun c n hn => ?_, fun f _ => hrest (·.handler f) ?_⟩, ?_⟩
  all_goals try exact fun _ _ _ => rfl
  · rw [show t.ctx c = u.ctx c from congrArg (·.ctx c) hd.rest]
    exact hx c
  · calc { t.core c with waves := (s.core c).waves }
        = { { t.core c with waves := (u.core c).waves } with waves := (s.core c).waves } := rfl
      _ = { u.core c with waves := (s.core c).waves } := by rw [hd.core]
      _ = s.core c := by rw [hcu, hcore]
  · rw [show t.handler f = s.handler f from hrest (·.handler f) fun _ _ _ => rfl]
  · rw [hd.debt, hcu, hother c n fun e => hn ⟨hh, e⟩]
  · rw [State.issuerWave, hh]
    exact (hd.own.trans (by rw [hcu])).trans hself

/-- A wave that runs a handler is all that an instruction's end changes. -/
theorem onlyWave_handler {f : Nat} (hh : h.hand = some f) (hf : f < s.handlers.length) (hw : w.settle = w)
    (hl : w.lanes.isEmpty = false) :
    OnlyWave s ((s.putWave h w).causal h) h ∧ ((s.putWave h w).causal h).issuerWave h = some w := by
  rw [State.causal_handed hh, State.putWave_handler hh hw hl]
  refine ⟨⟨rfl, rfl, rfl, rfl, rfl, rfl, rfl, rfl, rfl, rfl, rfl, rfl, fun _ => rfl, fun _ => rfl, fun n => ?_,
    fun _ _ _ => rfl, fun n hn => ?_⟩, ?_⟩
  · exact listGet_listUpd_congr (f := fun x => { x with wave := some w })
      (g := fun x : Handler => { x with wave := (s.handler n).wave }) (fun _ => rfl) s.handlers f n Handler.reset
  · exact State.handler_updHandler_of_ne _ _ fun e => hn (e ▸ hh)
  · rw [State.issuerWave, hh]
    exact congrArg Handler.wave (State.handler_updHandler_self _ _ _ hf)

/-- Ending an instruction, its wave put back with a lane that runs, changes the wave alone. -/
theorem onlyWave_done (hh : s.here = some h) {e : Nat × Thread} {len : Nat} (he : e ∈ w.active) :
    OnlyWave s (s.doneLen h w len) h ∧ (s.doneLen h w len).issuerWave h = some
      { w with
        pc := w.after len, clause := nextClause w.clause, issued := (s.cluster (clusterOf h.core)).clock
        elevated := false, skipHit := .none } := by
  have hl : w.lanes.isEmpty = false :=
    List.isEmpty_eq_false_iff.mpr (List.ne_nil_of_mem (List.mem_of_mem_filter he))
  obtain ⟨hn, hc, -⟩ | ⟨f, hf, hlt, -⟩ := State.here_cases hh
  · exact onlyWave_slot hn hc (Wave.settle_of_side (Wave.side_of_active he)) hl
  · exact onlyWave_handler hf hlt (Wave.settle_of_side (Wave.side_of_active he)) hl

end

section
variable {w : Wave} {g : Thread → Thread}

/-- A lane whose thread goes on running is active in the changed wave. -/
theorem Wave.active_updLanes (hg : ∀ t, (g t).st = t.st) {e : Nat × Thread} (he : e ∈ w.active) (hls : e ∈ ls) :
    (e.1, g e.2) ∈ (w.updLanes ls fun _ => g).active := by
  obtain ⟨hl, hr⟩ := List.mem_filter.mp he
  have hany : (ls.any fun x => x.1 = e.1) = true := List.any_eq_true.mpr ⟨e, hls, by simp⟩
  exact List.mem_filter.mpr ⟨List.mem_map.mpr ⟨e, hl, by simp [hany]⟩, by rw [hg]; exact hr⟩

theorem Wave.updLanes_keys : ((w.updLanes ls fun _ => g).lanes.map Prod.fst) = w.lanes.map Prod.fst := by
  rw [Wave.updLanes, List.map_map]
  refine List.map_congr_left fun e _ => ?_
  dsimp only [Function.comp]
  split <;> rfl

theorem Wave.get?_updLanes (l : Nat) : Table.get? (w.updLanes ls fun _ => g).lanes l =
    (Table.get? w.lanes l).map fun t => if ls.any fun x => x.1 = l then g t else t := by
  rw [Wave.updLanes, Table.get?_map fun e => by split <;> rfl]
  congr 1
  funext t
  dsimp only
  split <;> rfl

end

/-- Settles O49: each of these instructions makes one change of its issuing lanes, within its destinations. -/
theorem laneInstructionFrame : Obligations.LaneInstructionFrame := by
  intro i f dst pd s t h ls hsh hi ht
  obtain ⟨g, hg, hx⟩ := laneShape_computes hsh hi
  obtain ⟨hh, hp, hne, -⟩ := hi
  have hst (t : Thread) : (g t).st = t.st := by
    obtain ⟨-, -, hrest⟩ := hg t
    exact congrArg (·.st) hrest
  obtain ⟨e, he⟩ := List.exists_mem_of_ne_nil _ hne
  have hact : e ∈ h.wave.active := List.mem_of_mem_filter (hp ▸ he)
  obtain ⟨hframe, hw⟩ := onlyWave_done (len := f.len) hh (Wave.active_updLanes hst hact he)
  obtain rfl := Host.Outcome.next.inj (hx.symm.trans ht)
  refine ⟨hframe, _, hw, rfl, rfl, rfl, rfl, rfl, rfl, rfl, rfl, Wave.updLanes_keys, fun l u hu => ?_⟩
  refine ⟨if ls.any fun x => x.1 = l then g u else u, (Wave.get?_updLanes l).trans (by rw [hu]; rfl), fun hl => ?_, ?_⟩
  · exact if_neg fun hany => by
      obtain ⟨x, hx, hxl⟩ := List.any_eq_true.mp hany
      exact hl x hx (of_decide_eq_true hxl)
  · split
    · exact hg u
    · exact ⟨fun _ _ => rfl, fun _ _ => rfl, rfl⟩

end Sys2Proof.Machine

/-! ## Claims, stages and tiles (O21) -/

namespace Sys2Proof.Machine

variable {s : State} {h : Here} {ls : Table Thread} {g : Guard} {needCrew : Bool}

/-! ### Claims are parked, and releases made -/

theorem ClaimIssues.run (hi : ClaimIssues s g needCrew h ls) (k : Here → Table Thread → State) :
    s.issueRes g needCrew k = .next (k h ls) := by
  obtain ⟨hi, hfull⟩ := hi
  rw [State.issueRes, hi.run]
  by_cases hc : needCrew = true ∨ h.wave.crew.isSome = true
  · simp [hfull hc]
  · rw [not_or, Bool.not_eq_true, Bool.not_eq_true] at hc
    simp [hc.1, hc.2]

section
variable {x : CountOp} {r : LaunchRec} {c : Crew}

theorem regclm_parks (hi : ClaimIssues s x.g false h ls) (hr : s.lrec? h.wave.kid = some r)
    (hle : ∀ e ∈ ls, e.2.base + 8 * (e.2.claimed + x.n.toNat) ≤ r.ceil) :
    exec (.regclm x) s = .next (s.parkClaim h false x.n.toNat) := by
  have hf : (ls.find? fun e => e.2.base + 8 * (e.2.claimed + x.n.toNat) > r.ceil) = none :=
    List.find?_eq_none.mpr fun e he => by simpa using hle e he
  rw [exec_regclm, execRegclm, hi.run]
  simp only [hr, Option.map_some, Option.getD_some, hf]

theorem acclm_parks (hi : ClaimIssues s x.g true h ls) (hc : s.crewHere h = some c) (hr : s.lrec? h.wave.kid = some r)
    (hle : c.tiles.length + x.n.toNat ≤ r.accCeil) :
    exec (.acclm x) s = .next (s.parkClaim h true x.n.toNat) := by
  rw [exec_acclm, execAcclm, hi.run]
  simp only [hr, Option.map_some, Option.getD_some, hc, Nat.not_lt.mpr hle, if_false]

theorem accrel_releases (hi : ClaimIssues s x.g true h ls) (hc : s.crewHere h = some c)
    (hb : s.engineBusy h.core c.uid = false) :
    exec (.accrel x) s = .next ((s.updCrew h.core c.uid fun c =>
      { c with tiles := c.tiles.take (c.tiles.length - x.n.toNat) }).doneLen h h.wave 8) := by
  rw [exec_accrel, execAccrel, hi.run]
  simp only [hc, hb, Bool.false_eq_true, if_false]

end

/-- The limit of each thread of the issuing lanes once REGREL has released. -/
def relLimit (x : CountOp) (ls : Table Thread) (uid : Nat) : Option Nat :=
  (ls.find? fun e => e.2.uid = uid).map fun e => e.2.base + 8 * (e.2.claimed - x.n.toNat)

/-- No write in flight of the wave's operations goes above a limit. -/
def State.quietAbove (s : State) (h : Here) (lim : Nat → Option Nat) : Prop :=
  ∀ e ∈ (s.core h.core).ops, e.2.slot = h.slot →
    (∀ w ∈ e.2.writes, w.above lim = false) ∧
    (∀ l ∈ e.2.late, l.toW = false → ∀ n, lim l.uid = some n → l.d + sizeRegs l.z ≤ n) ∧
    (∀ o, e.2.eng = some o → ∀ u ∈ e.2.uids, ∀ r ∈ engineDest o.i (s.resultBytes o), ∀ n, lim u = some n →
      r.1 + r.2 ≤ n)

section
variable {x : CountOp}

/-- REGREL waits exactly while a write in flight goes above a limit. -/
theorem regrel_run (hi : ClaimIssues s x.g false h ls) :
    (s.quietAbove h (relLimit x ls) → EndsWith (.regrel x) s h ls 8 fun _ t => { t with
      claimed := t.claimed - x.n.toNat
      v := t.v.filter fun e => decide (e.1 < t.base + 8 * (t.claimed - x.n.toNat)) }) ∧
    (¬ s.quietAbove h (relLimit x ls) → exec (.regrel x) s = .next s) := by
  unfold EndsWith
  rw [exec_regrel, execRegrel, hi.run]
  dsimp only
  refine ⟨fun hq => congrArg Host.Outcome.next (if_neg fun hw => ?_), fun hq => congrArg Host.Outcome.next (if_pos ?_)⟩
  · obtain ⟨e, he, hw⟩ := List.any_eq_true.mp hw
    simp only [Bool.and_eq_true, decide_eq_true_eq, Bool.or_eq_true, List.any_eq_true, Bool.not_eq_true'] at hw
    obtain ⟨hslot, hw⟩ := hw
    obtain ⟨h1, h2, h3⟩ := hq e he hslot
    rcases hw with (⟨w, hw, ha⟩ | ⟨l, hl, ht, hm⟩) | hm
    · exact Bool.noConfusion ((h1 w hw).symm.trans ha)
    · split at hm
      next n hn => exact absurd (h2 l hl ht n hn) (by simpa using hm)
      next => cases hm
    · split at hm
      next o ho =>
        obtain ⟨u, hu, r, hr, hm⟩ := by simpa only [List.any_eq_true] using hm
        split at hm
        next n hn => exact absurd (h3 o ho u hu r hr n hn) (by simpa using hm)
        next => cases hm
      next => cases hm
  · by_contra hn
    refine hq fun e he hslot => ?_
    have hw := List.any_eq_false.mp (Bool.not_eq_true _ ▸ hn) e he
    simp only [hslot, decide_true, Bool.true_and, Bool.not_eq_true, Bool.or_eq_false_iff, List.any_eq_false] at hw
    obtain ⟨⟨h1, h2⟩, h3⟩ := hw
    refine ⟨h1, fun l hl ht n hn => ?_, fun o ho u hu r hr n hn => ?_⟩
    · have hm := h2 l hl
      have hn' : relLimit x ls l.uid = some n := hn
      rw [relLimit] at hn'
      simpa [ht, hn'] using hm
    · have hn' : relLimit x ls u = some n := hn
      rw [relLimit] at hn'
      simp only [ho, List.any_eq_false, Bool.not_eq_true] at h3
      simpa [hn'] using h3 u hu r hr

end

/-! ### Claims are satisfied -/

section
variable {x : CoreId} {acc : Bool} {slot n tick : Nat} {w : Wave}

theorem Table.get?_filter_key {α : Type} (t : Table α) (p : Nat → Bool) (r : Nat) :
    Table.get? (t.filter fun e => p e.1) r = if p r then Table.get? t r else none := by
  induction t with
  | nil => simp [Table.get?]
  | cons e t ih =>
    obtain ⟨k, y⟩ := e
    by_cases hk : k = r
    · subst hk
      by_cases hp : p k <;> simp [hp, Table.get?, ih]
    · by_cases hp : p k <;> simp [hp, Table.get?, ih, hk]

/-- The registers that a claim adds read zero. -/
theorem Thread.claim_reg {t : Thread} {n r : Nat} (hl : t.limit ≤ r) (hr : r < t.limit + 8 * n) :
    (t.claim n).reg r = 0 := by
  simp only [Thread.reg, Thread.claim, Table.getD,
    Table.get?_filter_key t.v (fun k => !(t.limit ≤ k && k < t.limit + 8 * n)), hl, hr, decide_true, Bool.and_self,
    Bool.not_true, Bool.false_eq_true, if_false, Option.getD_none]

@[simp] theorem State.noteTaken_cores (s : State) (core : Nat) (acc : Bool) (a : Ask) :
    (s.noteTaken core acc a).cores = s.cores := rfl

/-- The wave whose claim for registers is satisfied goes on, its lanes with the granules. -/
theorem State.satisfy_wave {core : Nat} (hc : core < s.cores.length) :
    Table.get? ((s.satisfy core slot w false n).core core).waves slot =
      some { w.updLanes w.active fun _ t => t.claim n with park := .none } := by
  rw [State.satisfy]
  dsimp only
  rw [if_neg Bool.false_ne_true, State.core_updCore_self _ _ _ (by simpa using hc), Table.get?_put_self]

theorem claimSatisfied_run (hr : Runs s x.cl.toNat) (hs : s.claimHead (coreNum x) acc = some slot)
    (hw : Table.get? (s.core (coreNum x)).waves slot = some w) (hp : w.park = .claim acc n tick) :
    exec (.claimSatisfied x acc) s = .next
      (if !s.taskAhead (coreNum x) acc w && s.meets (coreNum x) acc (s.claimAsk (coreNum x) w acc n) then
        (s.satisfy (coreNum x) slot w acc n).updCore (coreNum x) fun k => { k with deadFrom := s.tick }
      else s) := by
  rw [exec_claimSatisfied, execClaimSatisfied, hr.live, State.tryClaim]
  simp only [hs, hw, hp, Option.isSome_none, Bool.false_and, Bool.false_eq_true, if_false]

end

theorem rquery_run {x : QueryOp}
    (hi : Issues s { len := 8, g := x.g, cluster := true, uses := [(x.d.toNat, 1)] } h ls) :
    EndsWith (.rquery x) s h ls 8 fun _ t => t.setReg x.d.toNat (BitVec.ofNat 32 (s.rquery h x.sel.toNat t)) := by
  unfold EndsWith
  rw [exec_rquery, execRquery, hi.run]

theorem claimsComplete : Claim.ClaimsComplete := by
  refine ⟨fun x s h ls => ⟨fun hi => ⟨fun r hr hle => regclm_parks hi hr hle, regrel_run hi⟩, fun hi c hc => ?_⟩,
    fun x s h ls r hi hr => ⟨s.rquery h x.sel.toNat, rquery_run hi, fun t => ?_⟩, ?_, fun t n r => Thread.claim_reg⟩
  · exact ⟨fun r hr hle => acclm_parks hi hc hr hle, accrel_releases hi hc⟩
  · refine ⟨?_, ?_, ?_, ?_, ?_, ?_, ?_, ?_, ?_, ?_⟩ <;> intro h0 <;> simp [h0, State.rquery, hr]
  · intro x acc s slot n tick w hf hd hs hw hp ask
    have hrun := claimSatisfied_run (x := x) ⟨hf, hd⟩ hs hw hp
    refine ⟨fun ht hm => ⟨?_, ?_⟩, fun hm => ?_⟩
    · simpa [ht, show s.meets (coreNum x) acc (s.claimAsk (coreNum x) w acc n) = true from hm] using hrun
    · rintro rfl hc
      exact ⟨_, State.satisfy_wave hc, rfl, rfl⟩
    · simpa [show s.meets (coreNum x) acc (s.claimAsk (coreNum x) w acc n) = false from hm] using hrun

/-! ### Stages -/

theorem View.le_at_put {v : View} {k p a : Nat} (h : Table.getD v.bytes k 0 ≤ p) :
    v.at a ≤ View.at { v with bytes := Table.put v.bytes k p } a := by
  by_cases ha : a = k
  · subst ha
    simp only [View.at, Table.getD, Table.get?_put_self, Option.getD_some] at *
    omega
  · simp [View.at, Table.getD, Table.get?_put_of_ne _ _ ha]

/-- Raising bytes one after another, each to no less than it has, lowers none. -/
theorem View.le_at_raises (l : Table Nat) (v : View) (a : Nat) :
    v.at a ≤ View.at { v with
      bytes := l.foldl (fun t e => Table.put t e.1 (max e.2 (Table.getD t e.1 0))) v.bytes } a := by
  induction l generalizing v with
  | nil => exact le_rfl
  | cons e l ih =>
    exact (View.le_at_put (Nat.le_max_right _ _)).trans
      (ih { v with bytes := Table.put v.bytes e.1 (max e.2 (Table.getD v.bytes e.1 0)) })

theorem View.le_at_raises_of (l : Table Nat) (v : View) (a : Nat) :
    Table.getD l a 0 ≤ View.at { v with
      bytes := l.foldl (fun t e => Table.put t e.1 (max e.2 (Table.getD t e.1 0))) v.bytes } a := by
  induction l generalizing v with
  | nil => exact Nat.zero_le _
  | cons e l ih =>
    obtain ⟨k, y⟩ := e
    by_cases hk : k = a
    · subst hk
      refine le_trans ?_ (View.le_at_raises l { v with bytes := Table.put v.bytes k (max y (Table.getD v.bytes k 0)) } k)
      simp [View.at, Table.getD, Table.get?]
    · have := ih { v with bytes := Table.put v.bytes k (max y (Table.getD v.bytes k 0)) }
      simpa [Table.getD, Table.get?, hk] using this

theorem View.le_join_left (v w : View) (a : Nat) : v.at a ≤ (v.join w).at a := by
  have := View.le_at_raises w.bytes v a
  simp only [View.join, View.at] at *
  omega

theorem View.le_join_right (v w : View) (a : Nat) : w.at a ≤ (v.join w).at a := by
  have := View.le_at_raises_of w.bytes v a
  simp only [View.join, View.at] at *
  omega

/-- What is joined of a list of completed batches lies above each that is taken. -/
theorem View.le_joins {α : Type} {p : α → Bool} {f : α → View} (l : List α) (v : View) (a : Nat) :
    v.at a ≤ (l.foldl (fun v d => if p d then v.join (f d) else v) v).at a ∧
    ∀ d ∈ l, p d = true → (f d).at a ≤ (l.foldl (fun v d => if p d then v.join (f d) else v) v).at a := by
  induction l generalizing v with
  | nil => exact ⟨le_rfl, fun d hd => by cases hd⟩
  | cons d l ih =>
    obtain ⟨h1, h2⟩ := ih (if p d then v.join (f d) else v)
    refine ⟨le_trans ?_ h1, fun d' hd hp => ?_⟩
    · split
      · exact View.le_join_left _ _ _
      · exact le_rfl
    · rcases List.mem_cons.mp hd with rfl | hd
      · exact le_trans (by rw [if_pos hp]; exact View.le_join_right _ _ _) h1
      · exact h2 d' hd hp

theorem State.le_stageView {t : Thread} {b : Block} (hb : s.blockOf t = some b) {d} (hd : d ∈ b.done)
    (hs : d.stage.isSome = true) (a : Nat) : d.view.at a ≤ (s.stageView t).at a := by
  simp only [State.stageView, hb]
  exact (View.le_joins b.done View.zero a).2 d hd hs

theorem Block.release_stages (b : Block) (n : Nat) (pc : Pc) : (b.release n pc).stage = max b.stage n ∧
    (b.release n pc).stagePc = b.stagePc ++ List.replicate (n - b.stage) pc ∧
    { b.release n pc with stage := b.stage, stagePc := b.stagePc } = b := by
  refine ⟨rfl, ?_, rfl⟩
  simp only [Block.release, show max b.stage n - b.stage = n - b.stage by omega]

theorem stage_run {x : CountOp} {r : LaunchRec} (hi : Issues s { len := 8, g := x.g, uniform := true, cluster := true } h ls)
    (hb : ∀ e ∈ ls, (s.blockOf e.2).isSome = true) (hr : s.lrec? h.wave.kid = some r) :
    exec (.stage x) s = .next (((s.blocksHere ls).foldl (fun s b =>
        s.updBlock b.uid fun b => b.release (min x.n.toNat r.stages) h.wave.pc) s).doneLen h
      (h.wave.updLanes ls fun _ t => { t with view := t.view.join (s.stageView t) }) 8) := by
  have hf : (ls.find? fun e => (s.blockOf e.2).isNone) = none :=
    List.find?_eq_none.mpr fun e he => by simpa [Option.isSome_iff_ne_none] using hb e he
  rw [exec_stage, execStage, hi.run]
  simp only [hf, hr, Option.map_some, Option.getD_some]

/-! ### Tiles -/

theorem State.inBlocks_run (hb : ∀ e ∈ ls, (s.blockOf e.2).isSome = true) (k : List Block → State) :
    s.inBlocks h ls k = k (s.blocksHere ls) := by
  have hf : (ls.find? fun e => (s.blockOf e.2).isNone) = none :=
    List.find?_eq_none.mpr fun e he => by simpa [Option.isSome_iff_ne_none] using hb e he
  simp only [State.inBlocks, hf]

theorem tiledef_run {x : TiledefOp} {r : LaunchRec}
    (hi : Issues s { len := 16, g := x.g, uniform := true, cluster := true } h ls)
    (hb : ∀ e ∈ ls, (s.blockOf e.2).isSome = true) (hr : s.lrec? h.wave.kid = some r) (hn : x.tile.toNat < r.tiles)
    (hin : ∀ b ∈ s.blocksHere ls, x.inv = false → x.base.toNat + x.count.toNat < (s.sizes b).1 / 128)
    (hmv : ∀ b ∈ s.blocksHere ls, s.tileMoves b x.tile.toNat = false) (hsc : s.scratchBusy h = false) :
    exec (.tiledef x) s = .next (((s.blocksHere ls).foldl (fun s b => s.updBlock b.uid fun b' => { b' with
      tl := if x.inv then Table.del b'.tl x.tile.toNat
        else Table.put b'.tl x.tile.toNat { base := x.base.toNat, count := x.count.toNat } }) s).doneLen
          h h.wave 16) := by
  have hm : ((s.blocksHere ls).any fun b => s.tileMoves b x.tile.toNat) = false := by simpa using hmv
  have ho : (!x.inv && (s.blocksHere ls).any fun b => decide (x.base.toNat + x.count.toNat ≥ (s.sizes b).1 / 128)) = false := by
    cases hx : x.inv
    · simpa using fun b hb => hin b hb hx
    · rfl
  rw [exec_tiledef, execTiledef, hi.run]
  simp only [State.inBlocks_run hb, hr, Option.map_some, Option.getD_some, ge_iff_le, Nat.not_le.mpr hn, if_false, ho, hm, hsc,
    Bool.or_self, Bool.false_eq_true]
  cases x.inv <;> rfl

/-- An access of a line of the mapping that an entry of these blocks has is outstanding, or a fill of one. -/
def State.mappingBusy (s : State) (bs : List Block) (k : Nat) : Prop :=
  ∃ b ∈ bs, ∃ o, Table.get? b.st k = some o ∧ s.mapBusy b o = true

theorem State.mappingBusy_iff (s : State) (bs : List Block) (k : Nat) : s.mappingBusy bs k ↔
    (bs.any fun b => ((Table.get? b.st k).map fun o => s.mapBusy b o).getD false) = true := by
  rw [State.mappingBusy, List.any_eq_true]
  refine exists_congr fun b => and_congr_right fun _ => ?_
  cases Table.get? b.st k <;> simp

theorem tiledefSt_run {x : TiledefStOp} {l : Nat} {t : Thread}
    (hi : Issues s { len := 16, g := x.g, uniform := true, cluster := true } h ls)
    (hb : ∀ e ∈ ls, (s.blockOf e.2).isSome = true) (hl : ls.head? = some (l, t)) {va : Nat}
    (hva : (Src.int64 h.wave none t x.a).toNat = va) {e : StashEntry}
    (he : e = { line := x.line.toNat, count := x.count.toNat, base := va })
    (hmay : x.inv = true ∨ offGlobal va = false ∧ va % 128 = 0 ∧
      ∀ b ∈ s.blocksHere ls, s.mapRefused b x.entry.toNat e = false) :
    (s.mappingBusy (s.blocksHere ls) x.entry.toNat → exec (.tiledefSt x) s = .next s) ∧
    (¬ s.mappingBusy (s.blocksHere ls) x.entry.toNat →
      exec (.tiledefSt x) s = .next (((s.blocksHere ls).foldl (fun s b =>
        if x.inv then s.updBlock b.uid fun b => b.unmap x.entry.toNat else s.mapStash b x.entry.toNat e) s).doneLen
          h h.wave 16)) := by
  rw [State.mappingBusy_iff, Bool.not_eq_true, exec_tiledefSt, execTiledefSt, hi.run]
  simp only [State.inBlocks_run hb, hl, Option.map_some, Option.getD_some, hva, ← he]
  cases hx : x.inv with
  | true => exact ⟨fun hbusy => by simp [hbusy], fun hbusy => by simp [hbusy]⟩
  | false =>
    obtain ⟨ho, ha, hr⟩ := hmay.resolve_left (by simp [hx])
    have hr' : ((s.blocksHere ls).any fun b => s.mapRefused b x.entry.toNat e) = false := by simpa using hr
    exact ⟨fun hbusy => by simp [ho, ha, hr', hbusy], fun hbusy => by simp [ho, ha, hr', hbusy]⟩

theorem tilest_run {x : TilestOp} (hi : Issues s { len := 8, g := x.g, uniform := true, cluster := true } h ls)
    (hb : ∀ e ∈ ls, (s.tileNamed e.2 x.tile.toNat).isSome = true)
    (hmv : ∀ b ∈ s.blocksHere ls, s.tileMoves b x.tile.toNat = false) (hsc : s.scratchBusy h = false) :
    exec (.tilest x) s = .next (((s.blocksHere ls).foldl (fun s b => match s.tile? b x.tile.toNat with
      | some te => s.setLines b.core 6 (!x.ready) (b.tileLines te)
      | none => s) s).doneLen h h.wave 8) := by
  have hf : (ls.find? fun e => (s.tileNamed e.2 x.tile.toNat).isNone) = none :=
    List.find?_eq_none.mpr fun e he => by simpa [Option.isSome_iff_ne_none] using hb e he
  have hm : ((s.blocksHere ls).any fun b => s.tileMoves b x.tile.toNat) = false := by simpa using hmv
  rw [exec_tilest, execTilest, hi.run]
  simp only [hf, hm, hsc, Bool.or_self, Bool.false_eq_true, if_false] <;> rfl

/-! ### Full/empty bits -/

section
variable {core row l : Nat} {empty : Bool} {lines : List Nat}

/-- An event of a later row of this cc holds the bit of a line (R97). -/
def State.lineHeld (s : State) (core row l : Nat) : Prop :=
  ∃ e ∈ s.cc.lines, e.core = core ∧ e.line = l ∧ row < e.row ∧ ¬ (row = 2 ∧ e.row = 3)

theorem State.lineHeld_iff (s : State) (core row l : Nat) : s.lineHeld core row l ↔
    (s.cc.lines.any fun e => e.core = core && e.line = l && row < e.row && !(row = 2 && e.row = 3)) = true := by
  simp [State.lineHeld, List.any_eq_true, and_assoc, imp_iff_not_or]

/-- An event makes its lines empty or full, but those whose bit a later row of this cc holds. -/
theorem State.mem_empty_setLines (hc : core < s.cores.length) (hl : l ∈ lines) :
    l ∈ ((s.setLines core row empty lines).core core).empty ↔
      if empty then l ∈ (s.core core).empty ∨ ¬ s.lineHeld core row l
      else l ∈ (s.core core).empty ∧ s.lineHeld core row l := by
  rw [State.setLines]
  dsimp only
  rw [State.core_updCore_self _ _ _ (by exact hc), State.lineHeld_iff]
  cases empty with
  | false => simp [hl, State.core, and_assoc, imp_iff_not_or]
  | true => by_cases hm : l ∈ (listGet s.cores core Core.reset).empty <;> simp [hl, hm, State.core]

end

/-! ### The stash map -/

section
variable {k : Nat} {e : StashEntry}

theorem Block.get?_unmap_self (b : Block) (k : Nat) : Table.get? (b.unmap k).st k = none := by
  unfold Block.unmap
  split
  · exact Table.get?_del_self _ _
  · assumption

theorem Block.not_mem_dropLines {b : Block} {e : StashEntry} {y} (hy : y ∈ (b.dropLines e).lines) :
    ¬ (e.line ≤ y.line ∧ y.line ≤ e.line + e.count) := by
  obtain ⟨-, hy⟩ := List.mem_filter.mp hy
  simpa [imp_iff_not_or] using hy

/-- A block with its stash map's entry written. -/
def Block.remap (b : Block) (k : Nat) (e : StashEntry) : Block :=
  { (b.unmap k).dropLines e with st := Table.put ((b.unmap k).dropLines e).st k e }

theorem State.mapStash_blocks (b : Block) :
    (s.mapStash b k e).blocks = (s.updBlock b.uid fun b => b.remap k e).blocks := rfl

/-- The block that is mapped has the entry and no present line of it. -/
theorem State.mapStash_block {b b0 : Block} (hb : Table.get? s.blocks b.uid = some b0) :
    ∃ b1, Table.get? (s.mapStash b k e).blocks b.uid = some b1 ∧ Table.get? b1.st k = some e ∧
      ∀ y ∈ b1.lines, ¬ (e.line ≤ y.line ∧ y.line ≤ e.line + e.count) := by
  refine ⟨b0.remap k e, ?_, Table.get?_put_self _ _ _, fun y hy => Block.not_mem_dropLines hy⟩
  rw [State.mapStash_blocks, State.get?_updBlock, if_pos rfl, hb, Option.map_some]

/-- Where no event of this cc is of a later row than TILEDEF's, the lines of the mapping are empty. -/
theorem State.mapStash_empty {b : Block} (hc : b.core < s.cores.length) (hv : ∀ v ∈ s.cc.lines, v.row ≤ 7) {n : Nat}
    (hlo : e.line ≤ n) (hhi : n ≤ e.line + e.count) :
    (b.scratch + (s.sizes b).1) / 128 + n ∈ ((s.mapStash b k e).core b.core).empty := by
  have hmem : (b.scratch + (s.sizes b).1) / 128 + n ∈ natsFrom (s.stashFirst b + e.line) (e.count + 1) :=
    mem_natsFrom.mpr (by rw [State.stashFirst]; omega)
  refine (State.mem_empty_setLines (by exact hc) hmem).mpr (.inr ?_)
  rintro ⟨v, hv', -, -, hrow, -⟩
  exact absurd (hv v hv') (Nat.not_le.mpr hrow)

end

theorem tilesAndStages : Claim.TilesAndStages := by
  refine ⟨fun x s h ls r hi hb hr => stage_run hi hb hr, Block.release_stages,
    fun s t b hb d hd hs a => State.le_stageView hb hd hs a,
    fun x s h ls r hi hb hr hn hin hmv hsc => tiledef_run hi hb hr hn hin hmv hsc, ?_, ?_,
    fun x s h ls hi hb hmv hsc => tilest_run hi hb hmv hsc, ?_⟩
  · intro x s h ls l t hi hb hl busy va e may
    exact ⟨fun hmay => (tiledefSt_run hi hb hl rfl rfl hmay).1, fun hmay => (tiledefSt_run hi hb hl rfl rfl hmay).2⟩
  · intro s b k e t
    exact ⟨rfl, b.get?_unmap_self k, fun b0 hb => State.mapStash_block hb,
      fun hc hv n hlo hhi => State.mapStash_empty hc hv hlo hhi⟩
  · intro s core row empty ls l hc hl held t
    have hmem : l ∈ (t.core core).empty ↔ _ := State.mem_empty_setLines hc hl
    have hheld : s.lineHeld core row l ↔ held := Iff.rfl
    rw [hmem, hheld]
    cases empty with
    | false => exact ⟨fun hn => by simp [hn], fun hy => by simp [hy]⟩
    | true => exact ⟨fun hn => by simp [hn], fun hy => by simp [hy]⟩

/-- Settles O21: each instruction by what its checks give, the rest by what one block or one line is left with. -/
theorem claimsTilesAndStages : Obligations.ClaimsTilesAndStages := ⟨claimsComplete, tilesAndStages⟩

end Sys2Proof.Machine

/-! ## Bins, basins and waiting records (O35) -/

namespace Sys2Proof.Machine

variable {s : State}

/-! ### Records enter bins (R25) -/

theorem Cluster.bin_joins {c : Cluster} {t : Thread} {x : Target} {k : Nat} (hb : c.binFor { t with wait := 0 } x = some k) :
    c.bin t x = some { c with
      bins := Table.upd c.bins k fun b => { b with recs := b.recs ++ [{ t with wait := 0 }] } } := by
  simp only [Cluster.bin, hb]

theorem Cluster.bin_opens {c : Cluster} {t : Thread} {x : Target} {k : Nat} (hb : c.binFor { t with wait := 0 } x = none)
    (hk : Table.lowest c.bins 1024 0 = some k) : c.bin t x = some { c with
      bins := Table.put c.bins k
        { kid := t.kid, pc := t.pc, ckey := t.ckey, target := x, recs := [{ t with wait := 0 }], opened := c.clock
          aged := false, crew := none, starve := c.clock } } := by
  simp only [Cluster.bin, hb, Cluster.openBin, hk]

theorem recordBinned_run {cl : BitVec 4} {t : Thread} {rest : List Thread} {c : Cluster} (hr : Runs s cl.toNat)
    (hu : (s.cluster cl.toNat).unbinned = t :: rest) (hc : t.crewRef = none)
    (hb : ({ s.cluster cl.toNat with unbinned := rest }).bin t (s.targetOf t) = some c) :
    exec (.recordBinned cl) s = .next (s.updCluster cl.toNat fun _ => c) := by
  rw [exec_recordBinned, execRecordBinned, hr.live]
  simp only [hu, hc, hb]

/-! ### Bins age (R26, R401) -/

section
variable {x : ClItem} {b : Bin} {f : Nat}

theorem binAged_late (hr : Runs s x.cl.toNat) (hb : Table.get? (s.cluster x.cl.toNat).bins x.n = some b)
    (hf : s.partAt x.cl.toNat = some f) (hl : (s.part f).binLimit < (s.cluster x.cl.toNat).clock - b.opened) :
    exec (.binAged x) s = .next (s.updCluster x.cl.toNat fun c => { c with
      bins := Table.upd c.bins x.n fun b => { b with aged := true } }) := by
  rw [exec_binAged, execBinAged, hr.live]
  simp only [hb, hf, hl, if_true]

theorem binAged_early (hr : Runs s x.cl.toNat) (hb : Table.get? (s.cluster x.cl.toNat).bins x.n = some b)
    (hf : s.partAt x.cl.toNat = some f) (hl : (s.cluster x.cl.toNat).clock - b.opened ≤ (s.part f).binLimit) :
    exec (.binAged x) s = .next s := by
  rw [exec_binAged, execBinAged, hr.live]
  simp only [hb, hf, Nat.not_lt.mpr hl, if_false]

theorem binStarved_late (hr : Runs s x.cl.toNat) (hb : Table.get? (s.cluster x.cl.toNat).bins x.n = some b)
    (ht : s.targetFree x.cl.toNat b.target = true) (hl : b.starve + 64 < (s.cluster x.cl.toNat).clock) :
    exec (.binStarved x) s = .next (s.updCluster x.cl.toNat fun c => { c with
      bins := Table.upd c.bins x.n fun b => { b with aged := true } }) := by
  rw [exec_binStarved, execBinStarved, hr.live]
  simp only [hb, ht, hl, decide_true, Bool.and_self, if_true]

theorem binStarved_early (hr : Runs s x.cl.toNat) (hb : Table.get? (s.cluster x.cl.toNat).bins x.n = some b)
    (hl : (s.cluster x.cl.toNat).clock ≤ b.starve + 64) : exec (.binStarved x) s = .next s := by
  rw [exec_binStarved, execBinStarved, hr.live]
  simp only [hb, Nat.not_lt.mpr hl, decide_false, Bool.and_false, Bool.false_eq_true, if_false]

/-- The end of a cc for one bin: it counts anew, is marked aged, or stands. -/
theorem State.starveBins_bin {cl k : Nat} {y : Bin} (hc : cl < s.clusters.length)
    (hy : Table.get? (s.cluster cl).bins k = some y) (ht : ∀ n, y.target ≠ .treelet n) :
    let z := Table.get? ((s.starveBins cl).cluster cl).bins k
    (s.targetFree cl y.target = true → y.starve + 64 ≤ (s.cluster cl).clock → z = some { y with aged := true }) ∧
    (s.targetFree cl y.target = true → (s.cluster cl).clock < y.starve + 64 → z = some y) ∧
    (s.targetFree cl y.target = false → z = some { y with starve := (s.cluster cl).clock }) := by
  intro z
  have hz : z = Table.get? ((s.starveBins cl).cluster cl).bins k := rfl
  unfold State.starveBins at hz
  rw [State.cluster_updCluster_self _ _ _ hc] at hz
  dsimp only at hz
  rw [Table.get?_map, hy, Option.map_some] at hz
  · rw [hz]
    dsimp only
    split
    next n hn => exact absurd hn (ht n)
    next =>
      exact ⟨fun hf hl => by simp [hf, hl], fun hf hl => by simp [hf, Nat.not_le.mpr hl], fun hf => by simp [hf]⟩
  · exact fun _ => rfl

end

/-! ### A bin becomes a wave (R26, R27, R400) -/

/-- In a context that neither records nor replays, an event leaves the state. -/
theorem State.event_off {ctx cl cls : Nat} {l : List Nat} {v p : Nat} (h : (s.ctx ctx).dbg.replay = 0) :
    s.event ctx cl cls l v p = s := by
  simp only [State.event, h, if_true]

section
variable {x : ClItem} {b : Bin} {core slot : Nat}

/-- The context of a kernel, as a dispatch names it. -/
def State.ctxOf (s : State) (kid : Nat) : Nat := ((Table.get? s.grids kid).map Grid.ctx).getD 0

theorem binIssue_dispatches (hr : Runs s x.cl.toNat) (hb : Table.get? (s.cluster x.cl.toNat).bins x.n = some b)
    (hc : s.binCore x.cl.toNat b = some core) (hrd : s.binReady b = true) (ho : s.cc.order ≤ 2)
    (hm : s.maySend core = true)
    (hold : ∀ e ∈ (s.cluster x.cl.toNat).bins, e.2.opened < b.opened → s.binReady e.2 = true →
      ∀ k, s.binCore x.cl.toNat e.2 = some k → s.maySend k = false)
    (hw : s.waveFirst x.cl.toNat (s.binTime x.cl.toNat b) = false) :
    exec (.binIssue x) s = .next (s.dispatchBin x.cl.toNat x.n core b) := by
  have hgo : s.binGoes x.cl.toNat b = true := by simp [State.binGoes, hrd, hc, hm]
  have hno : ((s.cluster x.cl.toNat).bins.any fun e => e.2.opened < b.opened && s.binGoes x.cl.toNat e.2) = false := by
    refine List.any_eq_false.mpr fun e he hgoes => ?_
    obtain ⟨hlt, hready, hsend⟩ := by simpa only [State.binGoes, Bool.and_eq_true, decide_eq_true_eq] using hgoes
    split at hsend
    next k hk => exact Bool.noConfusion ((hold e he hlt hready k hk).symm.trans hsend)
    next => cases hsend
  rw [exec_binIssue, execBinIssue, hr.live]
  simp only [hb, hc, ho, hgo, hno, hw, decide_true, Bool.not_false, Bool.and_self, if_true]

theorem State.dispatchBin_wave {cl n : Nat} (hn : s.newSlot core = some slot) (hc : core < s.cores.length)
    (hcl : cl < s.clusters.length) (hd : (s.ctx (s.ctxOf b.kid)).dbg.replay = 0) :
    (s.dispatchBin cl n core b).mem = s.mem ∧ Table.get? ((s.dispatchBin cl n core b).cluster cl).bins n = none ∧
    Table.get? ((s.dispatchBin cl n core b).core core).waves slot =
      some (b.wave (s.ctxOf b.kid) s.tick (s.cluster cl).clock) := by
  unfold State.dispatchBin
  simp only [hn]
  rw [State.event_off]
  · refine ⟨rfl, ?_, ?_⟩
    · rw [show ∀ (s : State) c f n, (s.updCore c f).cluster n = s.cluster n from fun _ _ _ _ => rfl,
        State.cluster_updCluster_self _ _ _ (by exact hcl), Table.get?_del_self]
    · rw [State.core_updCore_self _ _ _ (by exact hc), Table.get?_put_self]
      rfl
  · exact hd

end

/-! ### A spilled record returns (R402) -/

theorem spilledRecordReturn_run {cl : BitVec 4} {u : Nat} (hr : Runs s cl.toNat) (hcl : cl.toNat < s.clusters.length)
    (hu : (s.cluster cl.toNat).nextBack = some u) (hs : (s.cluster cl.toNat).slotsUsed < 32768) :
    let back (t : Thread) : Thread := if t.uid = u then { t with spilled := false, oslot := 0 } else t
    ∃ t : State, exec (.spilledRecordReturn cl) s = .next t ∧ t.mem = s.mem ∧ t.cores = s.cores ∧
      (t.cluster cl.toNat).unbinned = (s.cluster cl.toNat).unbinned.map back ∧
      (t.cluster cl.toNat).waiting = (s.cluster cl.toNat).waiting.map back := by
  intro back
  rw [exec_spilledRecordReturn, execSpilledRecordReturn, hr.live]
  simp only [hu, ge_iff_le, Nat.not_le.mpr hs, if_false]
  refine ⟨_, rfl, rfl, rfl, ?_, ?_⟩ <;> rw [State.cluster_updCluster_self _ _ _ hcl]

theorem binEvents : Claim.BinEvents := by
  refine ⟨?_, ?_, ?_, ?_⟩
  · intro cl s t rest hr hu hc c x t0
    exact ⟨fun k hb => recordBinned_run hr hu hc (Cluster.bin_joins hb),
      fun k hb hk => recordBinned_run hr hu hc (Cluster.bin_opens hb hk)⟩
  · intro x s b hr hb c aged
    exact ⟨fun f hf hl => binAged_late hr hb hf hl, fun f hf hl => binAged_early hr hb hf hl,
      fun ht hl => binStarved_late hr hb ht hl, fun hl => binStarved_early hr hb hl,
      fun cl k y hc hy ht => State.starveBins_bin hc hy ht⟩
  · intro x s b core slot hr c hb hc hrd ho hm hold hw hn hlt hcl hd
    exact ⟨_, binIssue_dispatches hr hb hc hrd ho hm hold hw, State.dispatchBin_wave hn hlt hcl hd⟩
  · intro cl s u hr hcl c hu hs
    exact spilledRecordReturn_run hr hcl hu hs

/-! ### Lanes are filed into basins (R28, R30, R33) -/

section
variable {x : LaneId} {w : Wave} {t : Thread} {pc : Pc} {rcv : Option (Nat × Nat)}

theorem laneFiled_forces (hr : Runs s (clusterOf (coreNum x.wave.core)))
    (hw : Table.get? (s.core (coreNum x.wave.core)).waves x.wave.slot.toNat = some w)
    (ht : Table.get? w.lanes x.lane.toNat = some t) (hst : t.st = .leaving pc rcv) (hf : t.flagsClear = true)
    (ho : s.outstanding (coreNum x.wave.core) x.wave.slot.toNat [t.uid] = false)
    (hb : s.fileBasin (coreNum x.wave.core) t pc rcv = none) :
    exec (.laneFiled x) s = .next (s.updCore (coreNum x.wave.core) Core.forceOldest) := by
  rw [exec_laneFiled, execLaneFiled, hr.live]
  simp only [hw, ht, hf, ho, Bool.and_false, Bool.false_eq_true, if_false, Option.getD_some, hst, Bool.not_true, Bool.or_self, hb]

theorem laneFiled_files {s1 : State} (hr : Runs s (clusterOf (coreNum x.wave.core)))
    (hw : Table.get? (s.core (coreNum x.wave.core)).waves x.wave.slot.toNat = some w)
    (ht : Table.get? w.lanes x.lane.toNat = some t) (hst : t.st = .leaving pc rcv) (hf : t.flagsClear = true)
    (ho : s.outstanding (coreNum x.wave.core) x.wave.slot.toNat [t.uid] = false)
    (hb : s.fileBasin (coreNum x.wave.core) t pc rcv = some s1) :
    exec (.laneFiled x) s = .next (s1.putWave
      { wave := w, core := coreNum x.wave.core, slot := x.wave.slot.toNat, hand := none }
      (w.dropLanes [x.lane.toNat])) := by
  rw [exec_laneFiled, execLaneFiled, hr.live]
  simp only [hw, ht, hf, ho, Bool.and_false, Bool.false_eq_true, if_false, Option.getD_some, hst, Bool.not_true, Bool.or_self, hb]

variable {core : Nat}

/-- The basin that a thread opens. -/
def State.newBasin (s : State) (core : Nat) (t : Thread) (pc : Pc) (rcv : Option (Nat × Nat)) : Basin :=
  { key := basinKey t pc, threads := [{ t with st := .run, pc := pc }], opened := (s.cluster (clusterOf core)).clock
    eligible := false, rcv := rcv }

theorem State.fileBasin_opens {i : Nat} (hc : core < s.cores.length) (hk : (s.core core).basinFor (basinKey t pc) = none)
    (hi : Table.lowest (s.core core).basins 64 0 = some i) :
    ∃ s1 b, s.fileBasin core t pc rcv = some s1 ∧ Table.get? (s1.core core).basins i = some b ∧
      b.key = basinKey t pc ∧ b.threads = [{ t with st := .run, pc := pc }] ∧ b.rcv = rcv := by
  have hf : s.fileBasin core t pc rcv = some (s.updCore core fun k => { k with
      basins := Table.put k.basins i (s.newBasin core t pc rcv) }) := by
    simp only [State.fileBasin, hk, hi, State.newBasin]
  refine ⟨_, s.newBasin core t pc rcv, hf, ?_, rfl, rfl, rfl⟩
  rw [State.core_updCore_self _ _ _ hc, Table.get?_put_self]

theorem State.fileBasin_full (hk : (s.core core).basinFor (basinKey t pc) = none)
    (hi : Table.lowest (s.core core).basins 64 0 = none) : s.fileBasin core t pc rcv = none := by
  simp only [State.fileBasin, hk, hi]

end

/-! ### A basin becomes a wave (R29, R55) -/

section
variable {x : CoreItem} {b : Basin} {slot : Nat}

theorem basinAged_late {f : Nat} (hr : Runs s (clusterOf (coreNum x.core)))
    (hb : Table.get? (s.core (coreNum x.core)).basins x.n = some b) (hf : s.partAt (clusterOf (coreNum x.core)) = some f)
    (hl : (s.part f).basinLimit < (s.cluster (clusterOf (coreNum x.core))).clock - b.opened) :
    exec (.basinAged x) s = .next (s.updCore (coreNum x.core) fun k => { k with
      basins := Table.upd k.basins x.n fun b => { b with eligible := true } }) := by
  rw [exec_basinAged, execBasinAged, hr.live]
  simp only [hb, hf, hl, if_true]

theorem basinDraw_draws (hr : Runs s (clusterOf (coreNum x.core)))
    (hb : Table.get? (s.core (coreNum x.core)).basins x.n = some b) (hn : s.newSlot (coreNum x.core) = some slot)
    (ho : s.cc.order ≤ 2) (he : b.eligible = true) (hk : s.runs b.key.kid = true)
    (hold : ∀ e ∈ (s.core (coreNum x.core)).basins, e.2.eligible = true → s.runs e.2.key.kid = true →
      b.opened ≤ e.2.opened) :
    exec (.basinDraw x) s = .next (s.drawBasin (coreNum x.core) x.n slot b) := by
  have hno : ((s.core (coreNum x.core)).basins.any fun e =>
      e.2.eligible && e.2.opened < b.opened && s.runs e.2.key.kid) = false := by
    refine List.any_eq_false.mpr fun e hm h => ?_
    simp only [Bool.and_eq_true, decide_eq_true_eq] at h
    obtain ⟨⟨hel, hlt⟩, hrun⟩ := h
    exact absurd (hold e hm hel hrun) (Nat.not_le.mpr hlt)
  rw [exec_basinDraw, execBasinDraw, hr.live]
  simp only [hb, hn, ho, he, hk, hno, decide_true, Bool.not_false, Bool.and_self, if_true]

theorem Wave.ofThreads_uids (ctx kid : Nat) (pc : Pc) (ts : List Thread) (tick clock : Nat) :
    (Wave.ofThreads ctx kid pc ts tick clock).lanes.map (fun e => e.2.uid) = ts.map Thread.uid := by
  have hlen : (natsFrom 0 ts.length).length = ts.length := by simp
  calc (Wave.ofThreads ctx kid pc ts tick clock).lanes.map (fun e => e.2.uid)
      = (((natsFrom 0 ts.length).zip ts).map Prod.snd).map Thread.uid := by simp [Wave.ofThreads]
    _ = ts.map Thread.uid := by rw [List.map_snd_zip (by omega)]

theorem State.drawBasin_wave {core n : Nat} (hc : core < s.cores.length)
    (hd : (s.ctx (s.ctxOf b.key.kid)).dbg.replay = 0) :
    ∃ w, (s.drawBasin core n slot b).mem = s.mem ∧ Table.get? ((s.drawBasin core n slot b).core core).basins n = none ∧
      Table.get? ((s.drawBasin core n slot b).core core).waves slot = some w ∧ w.pc = b.key.pc ∧ w.kid = b.key.kid ∧
      w.crew = none ∧ w.mask = [] ∧ w.lanes.map (fun e => e.2.uid) = b.threads.map Thread.uid := by
  unfold State.drawBasin
  dsimp only
  rw [State.event_off]
  · rw [State.core_updCore_self _ _ _ (by exact hc)]
    refine ⟨_, rfl, Table.get?_del_self _ _, Table.get?_put_self _ _ _, rfl, rfl, rfl, rfl, ?_⟩
    exact Wave.ofThreads_uids (s.ctxOf b.key.kid) b.key.kid b.key.pc b.threads s.tick
      (s.cluster (clusterOf core)).clock
  · exact hd

end

/-! ### Waves become resident, and are elevated (R54, R55, R58) -/

section
variable {x : SlotId} {w : Wave}

/-- A wave of a core after a change of that wave. -/
theorem State.get?_updCore_wave {core slot : Nat} {f : Wave → Wave} (hc : core < s.cores.length)
    (hw : Table.get? (s.core core).waves slot = some w) :
    Table.get? ((s.updCore core fun k => { k with waves := Table.upd k.waves slot f }).core core).waves slot =
      some (f w) := by
  rw [State.core_updCore_self _ _ _ hc, Table.get?_upd, if_pos rfl, hw, Option.map_some]

theorem dispatchComplete_run (hr : Runs s (clusterOf (coreNum x.core))) (hc : coreNum x.core < s.cores.length)
    (hw : Table.get? (s.core (coreNum x.core)).waves x.slot.toNat = some w) :
    ∃ u : State, exec (.dispatchComplete x) s = .next u ∧ u.mem = s.mem ∧
      ∃ w', Table.get? (u.core (coreNum x.core)).waves x.slot.toNat = some w' ∧ w'.resident = true ∧
        w'.lanes = w.lanes ∧ w'.pc = w.pc := by
  rw [exec_dispatchComplete, execDispatchComplete, hr.live]
  refine ⟨_, rfl, rfl, _, State.get?_updCore_wave hc hw, ?_⟩
  by_cases h : w.resident = true <;> simp [h]

theorem elevatedPriority_run (hr : Runs s (clusterOf (coreNum x.core))) (hc : coreNum x.core < s.cores.length)
    (hw : Table.get? (s.core (coreNum x.core)).waves x.slot.toNat = some w) :
    ∃ u : State, exec (.elevatedPriority x) s = .next u ∧ u.mem = s.mem ∧
      ∃ w', Table.get? (u.core (coreNum x.core)).waves x.slot.toNat = some w' ∧ w'.lanes = w.lanes ∧
        w'.elevated = (w.elevated || (s.ready (coreNum x.core) x.slot.toNat w &&
          decide (w.issued + 256 ≤ (s.cluster (clusterOf (coreNum x.core))).clock))) := by
  rw [exec_elevatedPriority, execElevatedPriority, hr.live]
  refine ⟨_, rfl, rfl, _, State.get?_updCore_wave hc hw, ?_⟩
  split
  next h => exact ⟨rfl, by rw [h, Bool.or_true]⟩
  next h => exact ⟨rfl, by rw [Bool.eq_false_iff.mpr h, Bool.or_false]⟩

end

/-! ### A translation leaves blocks and crews -/

@[simp] theorem State.pick_blocks (n : Nat) : (s.pick n).2.blocks = s.blocks := by
  unfold State.pick
  split <;> rfl

theorem State.take_blocks (x : Via) (r : Route) : (s.take x r).blocks = s.blocks := by
  unfold State.take State.applyWalk State.fillTlb
  dsimp only
  split
  · rfl
  · split <;> rfl
  · split <;> split <;> rfl

theorem State.translate_blocks (x : Via) (ctx va : Nat) (kind : Access) :
    (s.translate x ctx va kind).2.blocks = s.blocks := by
  unfold State.translate
  dsimp only
  split
  · rfl
  · split
    · exact State.take_blocks _ _
    · rw [State.take_blocks, State.pick_blocks]

theorem State.unitPa_blocks (x : Via) (ctx va : Nat) (kind : Access) :
    (s.unitPa x ctx va kind).2.blocks = s.blocks := by
  unfold State.unitPa
  dsimp only
  split
  · rfl
  · split <;> exact State.translate_blocks _ _ _ _

/-- Cores that agree in one part, each with its like, agree in the list of it. -/
theorem State.map_cores_congr {β : Type} {g : Core → β} {t : State} (hl : t.cores.length = s.cores.length)
    (hg : ∀ n, g (t.core n) = g (s.core n)) : t.cores.map g = s.cores.map g := by
  refine List.ext_getElem (by simp [hl]) fun n h1 h2 => ?_
  have := hg n
  rw [List.length_map] at h1 h2
  simpa [State.core, listGet, h1, h2] using this

theorem State.crewCore_eq (s : State) (uid : Nat) : s.crewCore uid =
    ((s.cores.map Core.crews).findIdx? fun l => l.any fun e => e.2.uid = uid).or
      ((s.blocks.find? fun e => e.2.screws.any fun c => c.2.uid = uid).map fun e => e.2.core) := by
  rw [List.findIdx?_map]
  rfl

/-- The core whose thread a record is, after a translation. -/
theorem State.unitPa_coreOf (x : Via) (ctx va : Nat) (kind : Access) (t : Thread) :
    (s.unitPa x ctx va kind).2.coreOf t = s.coreOf t := by
  have hb := s.unitPa_blocks x ctx va kind
  have hc : (s.unitPa x ctx va kind).2.cores.map Core.crews = s.cores.map Core.crews :=
    State.map_cores_congr (State.unitPa_length _ _ _ _ _)
      fun n => State.unitPa_core_congr (g := Core.crews) (fun _ _ => rfl) s x ctx va kind n
  simp only [State.coreOf, State.blockOf, State.crewCore_eq, hb, hc]

/-! ### What a load at D gives that no buffer of its chain serves -/

theorem Memory.chainWhere_none {m : Memory} {k : Links} {a : Nat} (h : m.chainFind k .c a = none) :
    m.chainWhere k .c a = none := by
  have hlv : k.level .c = .c := by simp only [Links.level]
  simp only [Memory.chainFind, hlv, Option.or_eq_none_iff] at h
  obtain ⟨hc, hb⟩ := h
  simp only [Memory.chainWhere, hlv, hc, Option.map_none, Option.none_or]
  split at hb
  next y hy => simp only [Option.or_eq_none_iff] at hb; simp [hb]
  next => simp [hb]

theorem Memory.poisoned_byte {m : Memory} {pa n a : Nat} (h : m.poisoned pa n = false) (ha : a ∈ natsFrom pa n) :
    m.poisoned a 1 = false := by
  rw [mem_natsFrom] at ha
  simp only [Memory.poisoned, List.any_eq_false, Bool.and_eq_true, decide_eq_true_eq] at h ⊢
  intro l hl
  have := h l hl
  omega

section
variable {h : Here} {x : Acc} {pa : Nat}

theorem poisonHit_none (hx : x.spot = .mem pa none) (hp : s.mem.poisoned pa x.req.size = false) :
    poisonHit s h [x] = none := by
  have hf : ((natsFrom pa x.req.size).find? fun a => s.mem.poisoned a 1 &&
      (h.hand.isSome || (s.mem.chainFind (s.linksOf h x.req.t) .c a).isNone)) = none :=
    List.find?_eq_none.mpr fun a ha => by simp [Memory.poisoned_byte hp ha]
  simp only [poisonHit, List.findSome?_cons, hx, hf, Option.map_none, List.findSome?_nil]

variable (hx : x.spot = .mem pa none) (hc : ∀ a, s.mem.chainFind (s.linksOf h x.req.t) .c a = none)
include hx hc

theorem State.logServed_nil : s.logServed h [x] = [] := by
  simp only [State.logServed, hx, Memory.chainWhere_none (hc _), Option.bind_none, List.flatMap_cons, List.flatMap_nil]
  split <;> simp

variable (hh : h.hand = none)
include hh

theorem State.readAcc_atD : (s.readAcc h (.strong .d) [] x).map ByteRead.val = s.mem.readD pa x.req.size := by
  simp only [State.readAcc, hx, hh, hc, List.find?_nil, List.map_map, Memory.readD]
  exact List.map_congr_left fun a _ => by simp

end

/-- A strong load reads no byte that may be chosen. -/
theorem readAll_strong (s : State) (h : Here) (x : Acc) :
    readAll [x] s h (.strong .d) = ([(x, s.readAcc h (.strong .d) [] x)], s) := by
  have hr : (([x].map fun x => s.reader h (.strong .d) x).filter fun q => !q.2.isEmpty) = [] := by
    simp [State.reader, State.plainAddrs]
  simp only [readAll, hr]
  rfl

@[simp] theorem State.farRead_clusters (who : RillWho) (kid : Nat) (block : Bool) (pas : List Nat) :
    (s.farRead who kid block pas).clusters = s.clusters := by
  unfold State.farRead State.rillSend
  split <;> [split <;> rfl; rfl]

theorem State.farLoads_clusters (h : Here) (wait : Bool) (l : List Acc) : (s.farLoads h wait l).clusters = s.clusters :=
  List.foldlRecOn (motive := fun t : State => t.clusters = s.clusters) l _ rfl fun _ ht _ _ => (State.farRead_clusters _ _ _ _).trans ht

theorem State.reach_clusters (x : Source) (c va pa : Nat) : (s.reach x c va pa).clusters = s.clusters := by
  unfold State.reach
  split <;> rfl

/-- The requests of a strong load leave the clusters. -/
theorem reachAccs_clusters (s : State) (h : Here) (x : Acc) : (reachAccs (.strong .d) [x] s h).clusters = s.clusters := by
  simp only [reachAccs, reduceCtorEq, if_false]
  split
  · split
    · rfl
    · split
      · rfl
      · exact State.reach_clusters _ _ _ _
  · rfl

/-! ### Waiting records are sampled (R229) -/

section
variable {cl ctx : Nat} {t : Thread}

/-- The wave of one lane that a sample is made for. -/
def State.awaitHere (s : State) (cl ctx : Nat) (t : Thread) : Here :=
  { wave := Wave.ofThreads ctx t.kid t.pc [t] s.tick, core := (s.coreOf t).getD (8 * cl), slot := 0, hand := none }

/-- The load of the word that a record waits for. -/
def awaitAcc (t : Thread) (pa : Nat) : Acc :=
  { req := { lane := 0, t := t, addr := t.wait.toNat % 2 ^ 52, space := .global (t.wait.toNat % 2 ^ 52), size := 4
             form := false }
    spot := .mem pa none }

/-- The state that the sample's load leaves. -/
def State.awaitLoaded (s s' : State) (cl ctx : Nat) (t : Thread) (pa : Nat) : State :=
  (s'.loadAll (s.awaitHere cl ctx t) (.strong .d) [awaitAcc t pa]).2.2.farLoads (s.awaitHere cl ctx t) false [awaitAcc t pa]

/-- The record after the sample's load. -/
def State.awaitSeen (s s' : State) (cl ctx : Nat) (t : Thread) (pa : Nat) : Thread :=
  { ((Table.get? (s'.loadAll (s.awaitHere cl ctx t) (.strong .d) [awaitAcc t pa]).2.1.lanes 0).getD t) with st := t.st }

theorem State.awaitLoaded_mem (s s' : State) (pa : Nat) : (s.awaitLoaded s' cl ctx t pa).mem = s'.mem := by
  simp [State.awaitLoaded, State.loadAll, readAll]

theorem State.awaitLoaded_clusters (s s' : State) (pa : Nat) :
    (s.awaitLoaded s' cl ctx t pa).clusters = s'.clusters := by
  rw [State.awaitLoaded, State.farLoads_clusters, State.loadAll]
  have hk : (s.awaitHere cl ctx t).loadKind (.strong .d) = .strong .d := rfl
  dsimp only
  rw [hk, reachAccs_clusters, readAll_strong]

theorem State.awaitSeen_thread (s s' : State) (pa : Nat) :
    (s.awaitSeen s' cl ctx t pa).uid = t.uid ∧ (s.awaitSeen s' cl ctx t pa).pc = t.pc ∧
      (s.awaitSeen s' cl ctx t pa).v = t.v ∧ (s.awaitSeen s' cl ctx t pa).wait = t.wait := by
  have hk : (s.awaitHere cl ctx t).loadKind (.strong .d) = .strong .d := rfl
  have hl : Table.get? (s'.loadAll (s.awaitHere cl ctx t) (.strong .d) [awaitAcc t pa]).2.1.lanes 0 = some
      (afterRead s' (s.awaitHere cl ctx t) (.strong .d) { t with st := .run } (awaitAcc t pa)
        (s'.readAcc (s.awaitHere cl ctx t) (.strong .d) [] (awaitAcc t pa))) := by
    rw [State.loadAll]
    dsimp only
    rw [hk, readAll_strong]
    rfl
  rw [State.awaitSeen, hl, Option.getD_some]
  exact ⟨rfl, rfl, rfl, rfl⟩

section
variable {s' : State} {pa n : Nat}
  (hs : s.unitPa { core := s.coreOf t, cl := cl } ctx (t.wait.toNat % 2 ^ 52) .read = (.ok pa, s'))
  (hc : ∀ a, s'.mem.chainFind (s'.links ((s'.coreOf t).getD (8 * cl)) t) .c a = none)
include hs hc

theorem State.awaitChain_none (a : Nat) :
    s'.mem.chainFind (s'.linksOf (s.awaitHere cl ctx t) (awaitAcc t pa).req.t) .c a = none := by
  have hco : s'.coreOf t = s.coreOf t := by
    have := State.unitPa_coreOf (s := s) { core := s.coreOf t, cl := cl } ctx (t.wait.toNat % 2 ^ 52) .read t
    rwa [hs] at this
  have h := hc a
  rwa [hco] at h

theorem State.awaitRun_ok (hp : s'.mem.poisoned pa 4 = false) : s.awaitRun cl n ctx t =
    if wcondHolds (descCond t.wait.toNat) 32 (s'.mem.numD pa 4)
        (t.reg ((t.wait.toNat / 2 ^ 57 % 4) * 8 + t.wait.toNat / 2 ^ 54 % 8)).toNat &&
      s.mayWake ctx cl (t.pc - 16).toNat t.alane then
      (((s.awaitLoaded s' cl ctx t pa).input ctx cl (t.pc - 16).toNat 2 t.alane (s'.mem.numD pa 4)).updWaiting cl n
        fun _ => { s.awaitSeen s' cl ctx t pa with wait := 0 }).binWaiting cl
    else (s.awaitLoaded s' cl ctx t pa).updWaiting cl n fun _ => s.awaitSeen s' cl ctx t pa := by
  have hx : (awaitAcc t pa).spot = .mem pa none := rfl
  have hchain := State.awaitChain_none hs hc
  have h1 : poisonHit s' (s.awaitHere cl ctx t) [awaitAcc t pa] = none := poisonHit_none hx hp
  have h2 : s'.logServed (s.awaitHere cl ctx t) [awaitAcc t pa] = [] := State.logServed_nil hx hchain
  have h3 : natOf ((s'.loadAll (s.awaitHere cl ctx t) (.strong .d) [awaitAcc t pa]).1.flatMap Prod.snd) =
      s'.mem.numD pa 4 := by
    have hk : (s.awaitHere cl ctx t).loadKind (.strong .d) = .strong .d := rfl
    rw [State.loadAll]
    dsimp only
    rw [hk, readAll_strong]
    simp only [List.map_cons, List.map_nil, List.flatMap_cons, List.flatMap_nil, List.append_nil,
      State.readAcc_atD hx hchain rfl]
    rfl
  simp only [State.awaitHere, awaitAcc] at h1 h2 h3
  simp only [State.awaitRun, hs, h1, h2, h3, Option.isSome_none, Bool.false_eq_true, if_false, List.map_nil, logWalk]
  rfl

end

end

theorem awaitSample_run {x : ClItem} {t : Thread} {g : Grid} (hr : Runs s x.cl.toNat)
    (hw : (s.cluster x.cl.toNat).waiting[x.n]? = some t) (hg : Table.get? s.grids t.kid = some g)
    (hd : t.wait.toNat / 2 ^ 62 = 1) (hk : s.runs t.kid = true) (ha : s.awaitsPage t.kid t.uid = false) :
    exec (.awaitSample x) s = .next (s.awaitRun x.cl.toNat x.n g.ctx t) := by
  rw [exec_awaitSample, execAwaitSample, hr.live]
  simp only [hw, hg, hd, hk, ha, decide_true, Bool.not_false, Bool.and_self, if_true]

section
variable {cl ctx n : Nat} {t : Thread} {s' : State}

theorem State.awaitRun_absent {a l : Nat} (hs : s.unitPa { core := s.coreOf t, cl := cl } ctx (t.wait.toNat % 2 ^ 52) .read =
    (.error (.absent a l), s')) : s.awaitRun cl n ctx t = s'.awaitPage ctx a l .read t := by
  simp only [State.awaitRun, hs]

theorem State.awaitRun_fails {e : UnitErr} (he : ∀ a l, e ≠ .absent a l)
    (hs : s.unitPa { core := s.coreOf t, cl := cl } ctx (t.wait.toNat % 2 ^ 52) .read = (.error e, s')) :
    s.awaitRun cl n ctx t = s'.awaitBack cl t := by
  simp only [State.awaitRun, hs]

end

theorem basinEvents : Claim.BasinEvents := by
  refine ⟨?_, ?_, ?_, ?_, ?_⟩
  · intro x s w t pc rcv core slot hr hw ht hst hf ho
    exact ⟨laneFiled_forces hr hw ht hst hf ho, fun s1 => laneFiled_files hr hw ht hst hf ho⟩
  · intro s core t pc rcv hc hk
    exact ⟨fun i => State.fileBasin_opens hc hk, State.fileBasin_full hk⟩
  · intro x s b core hr hb
    refine ⟨fun f hf hl => basinAged_late hr hb hf hl, fun slot hn ho he hk hold hc hd => ?_⟩
    obtain ⟨w, hm, hrest⟩ := State.drawBasin_wave (n := x.n) (slot := slot) hc hd
    exact ⟨_, w, basinDraw_draws hr hb hn ho he hk hold, hm, hrest⟩
  · intro x s w core hr hc hw
    exact ⟨dispatchComplete_run hr hc hw, elevatedPriority_run hr hc hw⟩
  · intro x s s' t g hr hw hg hd hk ha cl sample
    rw [awaitSample_run hr hw hg hd hk ha]
    refine ⟨?_, fun a l hs => congrArg Host.Outcome.next (State.awaitRun_absent hs), fun c a hs => ?_⟩
    · intro pa hs hp hc y reg holds pc
      have hrun := State.awaitRun_ok (n := x.n) hs hc hp
      obtain ⟨huid, hpc, hv, hwait⟩ := State.awaitSeen_thread (cl := cl) (ctx := g.ctx) (t := t) s s' pa
      by_cases hgo : (holds && s.mayWake g.ctx cl pc t.alane) = true
      · obtain ⟨hh, hm⟩ := (Bool.and_eq_true _ _).mp hgo
        refine ⟨s.awaitLoaded s' cl g.ctx t pa, { s.awaitSeen s' cl g.ctx t pa with wait := 0 }, State.awaitLoaded_mem _ _ _,
          State.awaitLoaded_clusters _ _ _, huid, hpc, hv, fun hno => ?_, fun _ _ => ⟨rfl, ?_⟩⟩
        · simp [hh, hm] at hno
        · rw [hrun, if_pos hgo]
      · refine ⟨s.awaitLoaded s' cl g.ctx t pa, s.awaitSeen s' cl g.ctx t pa, State.awaitLoaded_mem _ _ _,
          State.awaitLoaded_clusters _ _ _, huid, hpc, hv, fun _ => ⟨hwait, ?_⟩, fun hh hm => ?_⟩
        · rw [hrun, if_neg hgo]
        · exact absurd (by rw [hh, hm]; rfl) hgo
    · rcases hs with hs | hs | hs <;>
        exact congrArg Host.Outcome.next (State.awaitRun_fails (fun _ _ => by simp) hs)

/-- Settles O35: the events of bins and basins by their conditions, a sample by what its load at D reads. -/
theorem binsAndBasins : Obligations.BinsAndBasins := ⟨binEvents, basinEvents⟩

end Sys2Proof.Machine

/-! ## Rotation, spills and deadlock (O38) -/

namespace Sys2Proof.Machine

variable {s : State}

/-! ### Rotation (R54) -/

section
variable {x : SlotId} {w : Wave} {f : Nat}

/-- No resident wave that `p` names has been so for longer than `w`, but those with work in flight. -/
def Core.oldest (k : Core) (w : Wave) (p : Nat → Bool) : Prop :=
  ∀ e ∈ k.waves, p e.1 = true → e.2.resident = true → e.2.since < w.since → k.inFlight e.1 = true

theorem Core.oldest_iff (k : Core) (w : Wave) (p : Nat → Bool) : k.oldest w p ↔
    (k.waves.any fun e => p e.1 && e.2.resident && e.2.since < w.since && !k.inFlight e.1) = false := by
  simp only [Core.oldest, List.any_eq_false, Bool.and_eq_true, decide_eq_true_eq, Bool.not_eq_true', not_and,
    Bool.not_eq_false, and_imp]

theorem waveRotation_early (hr : Runs s (clusterOf (coreNum x.core)))
    (hw : Table.get? (s.core (coreNum x.core)).waves x.slot.toNat = some w)
    (hf : s.partAt (clusterOf (coreNum x.core)) = some f)
    (hc : (s.cluster (clusterOf (coreNum x.core))).clock < w.since + (s.part f).rotation) :
    exec (.waveRotation x) s = .next s := by
  rw [exec_waveRotation, execWaveRotation, hr.live]
  simp only [hw, hf, Nat.not_le.mpr hc, decide_false, Bool.and_false, Bool.false_and, Bool.false_eq_true, if_false]

theorem waveRotation_saves (hr : Runs s (clusterOf (coreNum x.core)))
    (hw : Table.get? (s.core (coreNum x.core)).waves x.slot.toNat = some w)
    (hf : s.partAt (clusterOf (coreNum x.core)) = some f) (hres : w.resident = true)
    (hc : w.since + (s.part f).rotation ≤ (s.cluster (clusterOf (coreNum x.core))).clock)
    (hfl : (s.core (coreNum x.core)).inFlight x.slot.toNat = false) (hk : s.runs w.kid = true)
    (hwant : (s.wantsRoom (coreNum x.core) = true ∧ (s.core (coreNum x.core)).oldest w fun _ => true) ∨
      (s.wantsIssue (coreNum x.core) (x.slot.toNat / 16) = true ∧
        (s.core (coreNum x.core)).oldest w fun n => n / 16 = x.slot.toNat / 16)) :
    exec (.waveRotation x) s = .next (s.rotateOut (coreNum x.core) x.slot.toNat w) := by
  rw [Core.oldest_iff, Core.oldest_iff] at hwant
  rw [exec_waveRotation, execWaveRotation, hr.live]
  simp only [hw, hf]
  refine if_pos ?_
  simp only [hres, hc, hfl, hk, decide_true, Bool.not_false, Bool.and_true, Bool.true_and, Bool.or_eq_true, Bool.and_eq_true,
    Bool.not_eq_true']
  exact hwant

theorem State.rotateOut_saves {core slot : Nat} (hc : core < s.cores.length) (hcl : clusterOf core < s.clusters.length) :
    Table.get? ((s.rotateOut core slot w).core core).waves slot = none ∧
    ((s.rotateOut core slot w).cluster (clusterOf core)).rotated = (s.cluster (clusterOf core)).rotated ++
      [{ core := core, wave := { w with debt := 0, park := w.park.aside }, slot := slot, held := false }] := by
  constructor
  · change Table.get? ((s.updCore core _).core core).waves slot = none
    rw [State.core_updCore_self _ _ _ hc]
    exact Table.get?_del_self _ _
  · exact congrArg Cluster.rotated (State.cluster_updCluster_self _ _ _ (by exact hcl))

end

/-! ### A saved wave returns (R54, R52) -/

/-- What every step of a fold keeps, the fold keeps. -/
theorem foldl_keeps {α β : Type} {g : State → β} {f : State → α → State} (hf : ∀ (s : State) a, g (f s a) = g s) (l : List α)
    (s : State) : g (l.foldl f s) = g s :=
  List.foldlRecOn (motive := fun t => g t = g s) l f rfl fun t ht a _ => (hf t a).trans ht

section
variable {p : Copy → Bool} {dest core slot : Nat} {e : SavedWave}

@[simp] theorem State.bringCopies_clusters : (s.bringCopies p dest core).clusters = s.clusters := by
  unfold State.bringCopies
  split <;> rfl

@[simp] theorem State.bringCopies_length : (s.bringCopies p dest core).cores.length = s.cores.length := by
  unfold State.bringCopies
  split
  · rfl
  · simp

@[simp] theorem State.resumeCopies_clusters : (s.resumeCopies core p).clusters = s.clusters := rfl

@[simp] theorem State.resumeCopies_length : (s.resumeCopies core p).cores.length = s.cores.length := by
  simp [State.resumeCopies, State.setLines, State.updCore]

/-- A saved wave as it takes a slot: its views are raised, and its times begin. -/
def State.waveBack (s : State) (core : Nat) (r : SavedWave) : Wave :=
  { r.wave.fresh s.mem.nowView with
    since := (s.cluster (clusterOf core)).clock, issued := (s.cluster (clusterOf core)).clock, resident := true
    newborn := true, age := if r.held then s.tick else r.wave.age }

theorem State.waveIn_slot (hn : s.newSlot dest = some slot) (hd : dest < s.cores.length) :
    (s.waveIn dest e).mem = s.mem.buffersTo (e.wave.lanes.map fun l => l.2.uid) [] dest ∧
    Table.get? ((s.waveIn dest e).core dest).waves slot = some (s.waveBack dest e) ∧
    (s.waveIn dest e).clusters = s.clusters := by
  unfold State.waveIn
  simp only [hn]
  generalize hs0 : (if e.held = true then s else s.noteTaken dest false e.wave.ask) = s0
  have hc0 : s0.cores = s.cores ∧ s0.clusters = s.clusters ∧ s0.mem = s.mem := by
    subst hs0
    split <;> exact ⟨rfl, rfl, rfl⟩
  obtain ⟨hc, hcl, hm⟩ := hc0
  refine ⟨?_, ?_, ?_⟩
  · rw [State.updCore_mem, State.resumeCopies_mem, foldl_mem (fun _ _ => State.bringCopies_mem _ _ _ _), hm]
  · rw [State.core_updCore_self, Table.get?_put_self]
    · rfl
    · rw [State.resumeCopies_length, foldl_keeps (g := fun s => s.cores.length) (fun _ _ => State.bringCopies_length)]
      exact hc ▸ hd
  · rw [State.updCore_clusters, State.resumeCopies_clusters, foldl_keeps (g := State.clusters) (fun _ _ => State.bringCopies_clusters)]
    exact hcl

theorem rotatedWaveRestore_run {x : CoreItem} (hr : Runs s (clusterOf (coreNum x.core)))
    (he : (s.cluster (clusterOf (coreNum x.core))).rotated[x.n]? = some e) (ho : s.cc.order ≤ 2)
    (hm : s.mayReturn e (coreNum x.core) = true)
    (hold : ∀ y ∈ (s.cluster (clusterOf (coreNum x.core))).rotated, y.wave.age < e.wave.age →
      s.mayReturn y (coreNum x.core) = false)
    (hbin : ∀ b ∈ (s.cluster (clusterOf (coreNum x.core))).bins,
      s.waveTime e < s.binTime (clusterOf (coreNum x.core)) b.2 → s.binGoes (clusterOf (coreNum x.core)) b.2 = false) :
    exec (.rotatedWaveRestore x) s = .next ((((s.updCluster (clusterOf (coreNum x.core)) fun c =>
      { c with rotated := dropNth c.rotated x.n }).noteSent (s.returnTo e (coreNum x.core))).waveIn
        (s.returnTo e (coreNum x.core)) e)) := by
  rw [exec_rotatedWaveRestore, execRotatedWaveRestore, hr.live]
  simp only [he]
  refine if_pos ?_
  simp only [ho, hm, decide_true, Bool.true_and, Bool.and_eq_true, Bool.not_eq_true', List.any_eq_false, decide_eq_true_eq, not_and,
    Bool.not_eq_true]
  exact ⟨hold, hbin⟩

end

/-! ### A spilled block returns (R52, R53) -/

section
variable {x : ClItem} {b : Block} {core : Nat}

theorem blockRestore_home (hr : Runs s x.cl.toNat) (hb : Table.get? s.blocks x.n = some b) (hp : b.placed = false)
    (hc : clusterOf b.core = x.cl.toNat) (hk : s.runs b.kid = true) (hh : s.homeFor b = some core) :
    exec (.blockRestore x) s =
      .next (((((s.settleBlock core b).fixRecs core b).seatHeld x.cl.toNat fun r => r.wave.kid = b.kid).basinsBack
        core b).copiesBack core b) := by
  rw [exec_blockRestore, execBlockRestore, hr.live]
  simp only [hb, hp, hc, hk, hh, bne_self_eq_false, Bool.not_true, Bool.or_self, Bool.false_eq_true, if_false]

theorem blockRestore_waits (hr : Runs s x.cl.toNat) (hb : Table.get? s.blocks x.n = some b) (hp : b.placed = false)
    (hc : clusterOf b.core = x.cl.toNat) (hk : s.runs b.kid = true) (hh : s.homeFor b = none) :
    exec (.blockRestore x) s = .next s := by
  rw [exec_blockRestore, execBlockRestore, hr.live]
  simp only [hb, hp, hc, hk, hh, bne_self_eq_false, Bool.not_true, Bool.or_self, Bool.false_eq_true, if_false]

theorem State.settleBlock_block (hb : s.isBatch b = false) :
    ∃ n, Table.get? (s.settleBlock core b).blocks b.uid = some n ∧ n.core = core ∧
      n.scratch = (s.runFor core (s.needOf b).bytes).getD 0 ∧ n.placed = true ∧ n.lifted = false ∧
      n.live = b.live ∧ n.bars = b.bars ∧ n.tl = b.tl ∧ n.st = b.st := by
  have hblocks : ∃ n, (s.settleBlock core b).blocks = Table.put s.blocks b.uid n ∧ n.core = core ∧
      n.scratch = (s.runFor core (s.needOf b).bytes).getD 0 ∧ n.placed = true ∧ n.lifted = false ∧
      n.live = b.live ∧ n.bars = b.bars ∧ n.tl = b.tl ∧ n.st = b.st :=
    ⟨_, if_neg (by simp [hb]), rfl, rfl, rfl, rfl, rfl, rfl, rfl, rfl⟩
  obtain ⟨n, hn, hrest⟩ := hblocks
  exact ⟨n, by rw [hn, Table.get?_put_self], hrest⟩

theorem Wave.reCrew_fresh_uids (w : Wave) (m : Table Nat) (v : View) :
    ((w.reCrew m).fresh v).lanes.map (fun l => (l.1, l.2.uid)) = w.lanes.map fun l => (l.1, l.2.uid) := by
  simp [Wave.fresh, Wave.reCrew, Thread.fresh, Thread.reCrew]

theorem State.settleBlock_waves (hcl : clusterOf core < s.clusters.length) :
    ∀ w ∈ b.swaves, ∃ r ∈ ((s.settleBlock core b).cluster (clusterOf core)).rotated, r.core = core ∧ r.held = true ∧
      r.wave.pc = w.pc ∧ r.wave.mask = w.mask ∧
      r.wave.lanes.map (fun l => (l.1, l.2.uid)) = w.lanes.map fun l => (l.1, l.2.uid) := by
  intro w hw
  have hrot : ((s.settleBlock core b).cluster (clusterOf core)).rotated = (s.cluster (clusterOf core)).rotated ++ _ :=
    congrArg Cluster.rotated (State.cluster_updCluster_self _ _ _ (by exact hcl))
  rw [hrot]
  exact ⟨_, List.mem_append_right _ (List.mem_map_of_mem hw), rfl, rfl, rfl, rfl, w.reCrew_fresh_uids _ _⟩

theorem State.settleBlock_stays : ((s.settleBlock core b).core core).waves = (s.core core).waves := by
  change ((State.updCore _ core _).core core).waves = _
  refine (State.core_updCore_congr (g := Core.waves) ?_ _ core core).trans rfl
  exact fun _ => rfl

end

/-! ### A claim that cannot be met (R49 to R51) -/

section
variable {x : CoreId} {slot : Nat} {acc : Bool} {w : Wave}

theorem deadlockDetect_run (hr : Runs s (clusterOf (coreNum x))) (hd : s.deadHead (coreNum x) = some (slot, acc)) :
    exec (.deadlockDetect x) s = .next (if (s.core (coreNum x)).deadFrom + 4096 ≤ s.tick then
      deadlockGo ((s.blocksOn (coreNum x)).length + (s.batchesOn (coreNum x)).length + 2) s (coreNum x) slot acc
    else s) := by
  rw [exec_deadlockDetect, execDeadlockDetect, hr.live]
  simp only [hd]
  split <;> rfl

variable {core n : Nat}

theorem deadlockGo_fits (hw : Table.get? (s.core core).waves slot = some w) (hf : s.headFits core slot acc = true) :
    deadlockGo (n + 1) s core slot acc = s.tryClaim core acc (some slot) := by
  simp only [deadlockGo, hw, hf, if_true]

theorem deadlockGo_faults (hw : Table.get? (s.core core).waves slot = some w) (hf : s.headFits core slot acc = false)
    (hy : youngest (s.others core w) = none) :
    deadlockGo (n + 1) s core slot acc = s.raise { wave := w, core := core, slot := slot, hand := none }
      { code := 0x0A, cause := 1, lane := lowLane w.active } := by
  simp only [deadlockGo, hw, hf, hy, Bool.false_eq_true, if_false]

theorem deadlockGo_spills {b : Block} (hw : Table.get? (s.core core).waves slot = some w)
    (hf : s.headFits core slot acc = false) (hy : youngest (s.others core w) = some b) (hs : s.blockStill b = true) :
    deadlockGo (n + 1) s core slot acc = deadlockGo n (s.spill b) core slot acc := by
  simp only [deadlockGo, hw, hf, hy, hs, Bool.false_eq_true, if_false, if_true]

end

/-! ### A block is spilled (R50) -/

theorem settleGo_lanes (n : Nat) (w : Wave) : (settleGo n w).lanes = w.lanes := by
  induction n generalizing w with
  | zero => rfl
  | succ n ih =>
    simp only [settleGo]
    split
    · split
      · rfl
      · exact ih _
    · rfl

/-- Where lanes remain, the wave remains, with those lanes. -/
theorem Wave.only_some {w : Wave} {p : Nat × Thread → Bool} (hp : ∃ e ∈ w.lanes, p e = true) :
    ∃ w', w.only p = some w' ∧ w'.lanes = w.lanes.filter p := by
  obtain ⟨e, he, hpe⟩ := hp
  have hl : ({ w with lanes := w.lanes.filter p }.settle).lanes = w.lanes.filter p := settleGo_lanes _ _
  have hne : (w.lanes.filter p).isEmpty = false :=
    List.isEmpty_eq_false_iff.mpr (List.ne_nil_of_mem (List.mem_filter.mpr ⟨he, hpe⟩))
  exact ⟨_, if_neg (by rw [hl, hne]; exact Bool.false_ne_true), hl⟩

theorem Table.get?_filterMap {α : Type} {f : α → Option α} {t : Table α} {n : Nat} {x y : α}
    (hx : Table.get? t n = some x) (hy : f x = some y) :
    Table.get? (t.filterMap fun e => (f e.2).map fun z => (e.1, z)) n = some y := by
  induction t with
  | nil => cases hx
  | cons e t ih =>
    obtain ⟨k, z⟩ := e
    rw [Table.get?] at hx
    split at hx
    next hk =>
      cases hx
      simp [hy, Table.get?, hk]
    next hk =>
      cases hz : f z <;> simp [hz, Table.get?, hk, ih hx]

section
variable (s : State) (b : Block)

theorem State.spill_block : ∃ b', Table.get? (s.spill b).blocks b.uid = some b' ∧ b'.placed = false ∧
    b'.spilledAt = s.tick ∧ b'.lifted = true ∧ b'.tl = b.tl ∧ b'.st = b.st ∧ b'.bars = b.bars ∧ b'.live = b.live := by
  obtain ⟨o, ho, hl⟩ : ∃ o, (s.lift b).blocks = Table.put s.blocks b.uid o ∧
      o.lifted = true ∧ o.tl = b.tl ∧ o.st = b.st ∧ o.bars = b.bars ∧ o.live = b.live :=
    ⟨_, rfl, rfl, rfl, rfl, rfl, rfl⟩
  refine ⟨{ o with placed := false, spilledAt := s.tick }, ?_, rfl, rfl, hl⟩
  rw [State.spill, State.get?_updBlock, if_pos rfl, ho, Table.get?_put_self]
  rfl

/-- A wave of no crew goes on without the lanes of the block that is spilled. -/
theorem State.spill_wave {slot : Nat} {w : Wave} (hw : Table.get? (s.core b.core).waves slot = some w)
    (hcr : w.crew = none) (hl : ∃ e ∈ w.lanes, s.ownsThread b e.2 = false) :
    ∃ w', Table.get? ((s.spill b).core b.core).waves slot = some w' ∧
      w'.lanes = w.lanes.filter fun e => !s.ownsThread b e.2 := by
  have hc : b.core < s.cores.length := by
    by_contra hc
    rw [State.core, listGet, List.getElem?_eq_none (Nat.le_of_not_lt hc)] at hw
    cases hw
  obtain ⟨w', hw', hlanes⟩ := Wave.only_some (w := w) (p := fun e => !s.ownsThread b e.2)
    (hl.imp fun e he => ⟨he.1, by rw [he.2]; rfl⟩)
  refine ⟨w', ?_, hlanes⟩
  have hstay : (w.only fun e => !w.leaves (s.ownsThread b) e) = some w' := by
    simpa only [Wave.leaves, hcr, Option.isSome_none, Bool.false_eq_true, if_false] using hw'
  change Table.get? ((s.updCore b.core _).core b.core).waves slot = some w'
  rw [State.core_updCore_self _ _ _ hc]
  exact Table.get?_filterMap (f := fun w => w.only fun e => !w.leaves (s.ownsThread b) e) hw hstay

end

/-- Settles O38: each event by its conditions, and what it calls by the part of the state it moves. -/
theorem rotationAndDeadlock : Obligations.RotationAndDeadlock := by
  refine ⟨?_, ?_, ?_, ?_, ?_, ?_⟩
  · intro x s w f core slot cl hr hw hf hres
    refine ⟨waveRotation_early hr hw hf, fun hc hfl hk => ?_⟩
    intro oldest hwant hlt hcl
    exact ⟨_, waveRotation_saves hr hw hf hres hc hfl hk hwant, rfl, State.rotateOut_saves hlt hcl⟩
  · intro x s e slot cl dest hr he ho hm hold hbin hn hd hcl
    obtain ⟨hmem, hw, hcls⟩ := State.waveIn_slot (e := e) (dest := dest)
      (s := (s.updCluster cl fun c => { c with rotated := dropNth c.rotated x.n }).noteSent dest) hn hd
    refine ⟨_, _, rotatedWaveRestore_run hr he ho hm hold hbin, hmem, hw, rfl, rfl, rfl, rfl, rfl, rfl, rfl, ?_⟩
    refine (congrArg (fun l => (listGet l cl Cluster.reset).rotated) hcls).trans ?_
    exact congrArg Cluster.rotated (State.cluster_updCluster_self _ _ _ hcl)
  · intro x s b core hr hb hp hc hk
    exact ⟨blockRestore_home hr hb hp hc hk, blockRestore_waits hr hb hp hc hk⟩
  · intro s b core hb hc hcl t a
    exact ⟨State.settleBlock_block hb, State.settleBlock_waves hcl, State.settleBlock_stays⟩
  · intro x s slot acc w core hr hd hw next
    have hrun := deadlockDetect_run hr hd
    refine ⟨fun ht => ?_, fun ht => ⟨fun hf => ?_, fun hf hy => ?_, fun b hf hy hs hf' hw' => ?_⟩⟩
    · rw [hrun, if_neg (Nat.not_le.mpr ht)]
    · rw [hrun, if_pos ht, deadlockGo_fits hw hf]
    · rw [hrun, if_pos ht, deadlockGo_faults hw hf hy]
    · rw [hrun, if_pos ht, deadlockGo_spills hw hf hy hs, deadlockGo_fits hw' hf']
  · intro s b
    obtain ⟨b', hb, hp, ha, hl, htl, hst, hbars, hlive⟩ := s.spill_block b
    exact ⟨b', hb, hp, ha, hl, htl, hst, hbars, hlive, s.spill_mem b,
      fun slot w hw hcr => s.spill_wave b hw hcr⟩

end Sys2Proof.Machine

/-! ## Crews (O18) -/

namespace Sys2Proof.Machine

/-! ### A wave whose lowest lane is not active

CREW counts active lanes. A wave of 33 lanes, which no launch makes but a state may hold, has 32 active ones while lane 0
is stopped. The overflow then names lane 1, the lowest of the lanes that issue, and not lane 0, the lowest of the wave. -/

/-- The thread of lane n: lane 0's is stopped at a barrier. -/
def idleLane (n : Nat) : Thread :=
  { handlerThread (10 + n) 0 0 0 with kid := 1, blockUid := 4, st := if n = 0 then .stopped false 0 0 else .run }

/-- Lane 0, stopped, and 32 lanes that run. -/
def lanes33 : Table Thread := (natsFrom 0 33).map fun n => (n, idleLane n)

/-- The wave of those lanes, of no crew. -/
def wave33 : Wave := { Wave.ofThreads 0 1 0 [] 0 with lanes := lanes33 }

/-- The C buffer of a thread, on core 0. -/
def cBuf (uid : Nat) (es : List BufEntry) : Buf :=
  { party := .thread uid, level := .c, place := 0, kid := 1, entries := es, arrivals := [], window := 0 }

/-- Core 0 runs the wave; lane 1 holds a byte at C, where another thread's entries leave no room. -/
def state33 : State :=
  { State.reset with
    cur := .wave 0 0
    mem := { Memory.reset with bufs :=
      [cBuf 999 (List.replicate 512 { tag := 0, inLog := false, bytes := [] }),
       cBuf 11 [{ tag := 0, inLog := false, bytes := [{ addr := 0, val := 0, who := [11], marks := [] }] }]] }
    grids := [(1, Grid.fresh 1 0 0 0 0 (parseLaunch []) 0)]
    cores := listUpd State.reset.cores 0 fun k => { k with waves := [(0, wave33)] } }

def here33 : Here := { wave := wave33, core := 0, slot := 0, hand := none }

/-- The lane that the fault of the root grid names. -/
def Res.faultLane : Res → Option (BitVec 8)
  | .next t => (Table.get? t.grids 1).bind fun g => g.fault.map fun r => r.lane
  | _ => none

def crewForm : Form := { len := 8, g := .always, uniform := true, final := true, cluster := true }

theorem state33_issues : Issues state33 crewForm here33 (wave33.passing .always) := by
  unfold Issues
  decide +kernel

theorem state33_active : here33.wave.active.length = 32 := by decide +kernel

/-- The crew that CREW would form, and the state it would form it in. -/
def crew33 : Crew :=
  { uid := state33.uids, kid := 1, blockUid := 4, formed := state33.mem.pos, tiles := [], sparse := false, pend := none }

def formed33 : State :=
  ({ state33 with uids := state33.uids + 1 }).updCore 0 fun k => { k with crews := Table.put k.crews 0 crew33 }

/-- What the running lanes hold at C does not fit. -/
theorem formed33_full : formed33.mem.joinCrew (formed33.linksOf here33 (idleLane 0)).c
    (((wave33.passing .always).filter fun e => e.2.ray.isNone).map fun e => (state33.linksOf here33 e.2).c.party) = none := by
  decide +kernel

/-- CREW overflows in the lowest lane that issues. -/
theorem crew_state33_faultLane : Res.faultLane (exec (.crew { g := .always }) state33) = some 1 := by
  decide +kernel

theorem overflow_state33_faultLane : Res.faultLane (.next (state33.overflow here33 0 .c)) = some 0 := by
  decide +kernel

/-- Refutes O18: with lane 0 stopped, a wave of 33 lanes has 32 active ones, and CREW's overflow names lane 1, the lowest
that issues, where the statement says lane 0. -/
theorem not_crewsFormAndEnd : ¬ Obligations.CrewsFormAndEnd := by
  intro h
  obtain ⟨hform, -⟩ := h { g := .always } state33 here33 (wave33.passing .always)
  have hover := (hform state33_issues rfl state33_active 0 1 (idleLane 1) (by decide +kernel) (by decide +kernel)
    (0, idleLane 0) (by decide +kernel)).2 formed33_full
  have hlane := crew_state33_faultLane
  rw [hover, overflow_state33_faultLane] at hlane
  exact absurd hlane (by decide)

end Sys2Proof.Machine

/-! ## Branches, calls and returns (O14) -/

namespace Sys2Proof.Machine

/-! ### Changes of no lane -/

@[simp] theorem Wave.updLanes_nil (w : Wave) (f : Nat → Thread → Thread) : w.updLanes [] f = w := by
  simp [Wave.updLanes]

@[simp] theorem Wave.updLanes_id (w : Wave) (ls : Table Thread) : (w.updLanes ls fun _ t => t) = w := by
  simp [Wave.updLanes]

/-! ### Where lanes jump (R225) -/

section
variable {s : State} {h : Here} {ls : Table Thread} {a : Src} {p : Pc}

theorem Issues.some_lane {f : Form} (hi : Issues s f h ls) : ls ≠ [] := by
  obtain ⟨-, -, hne, -⟩ := hi
  exact hne

theorem jumpTargets_pcs (hr : ∀ e ∈ ls, (Src.int64 h.wave none e.2 a).toNat < 2 ^ 52) :
    (ls.find? fun e => decide ((jumpTarget h.wave e.2 a).toNat ≥ 2 ^ 52)) = none := by
  rw [List.find?_eq_none]
  intro e he
  simpa [jumpTarget] using hr e he

section
variable (hp : ∀ e ∈ ls, Src.int64 h.wave none e.2 a = p.setWidth 64)
include hp

/-- A common target that is a PC is that PC. -/
theorem jumpPc_common {e : Nat × Thread} (he : e ∈ ls) : jumpPc h.wave a e.2 = p := by
  rw [jumpPc, jumpTarget, hp e he]
  exact BitVec.setWidth_setWidth_of_le p (by decide)

theorem Wave.apart_common : h.wave.apart ls a = [] := by
  unfold Wave.apart
  split
  next => rfl
  next e0 h0 =>
    rw [List.filter_eq_nil_iff]
    intro e he
    rw [jumpPc_common hp he, jumpPc_common hp (List.mem_of_head? h0)]
    simp

theorem State.jumpStop_common : s.jumpStop h ls a = none := by
  have hr : ∀ e ∈ ls, (Src.int64 h.wave none e.2 a).toNat < 2 ^ 52 := by
    intro e he
    have := p.isLt
    rw [hp e he, BitVec.toNat_setWidth]
    omega
  simp only [State.jumpStop, jumpTargets_pcs hr, Wave.apart_common hp, List.isEmpty_nil, if_true]

theorem State.jumpGo_common (hne : ls ≠ []) (after : Thread → Thread) :
    s.jumpGo h ls a after = s.done h (h.wave.updLanes ls fun _ t => after t) p := by
  obtain ⟨e, t, rfl⟩ := List.exists_cons_of_ne_nil hne
  simp only [State.jumpGo, List.head?_cons, Wave.apart_common hp, Wave.updLanes_nil,
    jumpPc_common hp List.mem_cons_self]

end

/-- Lanes outside a crew whose targets are PCs may part where they find the basins they need. -/
theorem State.jumpStop_parts (hr : ∀ e ∈ ls, (Src.int64 h.wave none e.2 a).toNat < 2 ^ 52) (hc : h.wave.crew = none)
    (hb : s.basinsFor h.core ((h.wave.apart ls a).map fun e => (e.2, jumpPc h.wave a e.2)) = true) :
    s.jumpStop h ls a = none := by
  simp only [State.jumpStop, jumpTargets_pcs hr, hc, hb, Option.isSome_none, Bool.not_true, Bool.false_eq_true, if_false,
    ite_self]

theorem jmpi_goes {x : JumpOp}
    (hi : Issues s { len := 8, g := x.g, uniform := true, final := true, uses := Src.run 2 x.a } h ls)
    (hs : s.jumpStop h ls x.a = none) : exec (.jmpi x) s = .next (s.jumpGo h ls x.a id) := by
  rw [exec_jmpi, execJmpi, hi.run]
  simp only [State.jumpLanes, hs]

end

/-! ### RET (R82, R225) -/

/-- At call depth 0, in one of two episodes. -/
def Thread.endsIn (t : Thread) (p q : Episode) : Bool :=
  let ep : Episode := (t.ray.map RayPart.ep).getD .plain
  decide (t.depth = 0) && (decide (ep = p) || decide (ep = q))

theorem Thread.endsIn_eq_false {t : Thread} {p q : Episode} (ht : t.depth ≠ 0 ∨ t.ep = .plain) (hp : p ≠ .plain)
    (hq : q ≠ .plain) : t.endsIn p q = false := by
  rcases ht with h | h
  · simp only [Thread.endsIn, h, decide_false, Bool.false_and]
  · simp [Thread.endsIn, show (t.ray.map RayPart.ep).getD .plain = .plain from h, hp.symm, hq.symm]

/-- The lanes of a RET that end their closest-hit or miss episode. -/
def retEnds (ls : Table Thread) : Table Thread := ls.filter fun e => e.2.endsIn .closest .miss
theorem retEnds_eq (ls : Table Thread) : retEnds ls =
    ls.filter fun e => decide (e.2.depth = 0 ∧
      ((e.2.ray.map RayPart.ep).getD .plain = .closest ∨ (e.2.ray.map RayPart.ep).getD .plain = .miss)) :=
  List.filter_congr fun e _ => by simp [Thread.endsIn]

/-- The lanes of a RET that jump. -/
def retGo (ls : Table Thread) : Table Thread := ls.filter fun e => !((retEnds ls).any fun x => decide (x.1 = e.1))

/-- A thread after its return: one call fewer. -/
def Thread.returned (t : Thread) : Thread := { t with depth := if t.depth = 0 then 0 else t.depth - 1 }

section
variable {s s1 : State} {x : JumpOp} {h : Here} {ls : Table Thread} {w : Wave}
  (hi : Issues s { len := 8, g := x.g, uniform := true, final := true, orders := true, uses := Src.run 2 x.a } h ls)
include hi

theorem ret_jumps (ha : ∀ e ∈ ls, e.2.depth ≠ 0 ∨ e.2.ep = .plain) (hs : s.jumpStop h ls x.a = none) :
    exec (.ret x) s = .next (s.jumpGo h ls x.a Thread.returned) := by
  have hf : (ls.find? fun e => e.2.endsIn .anyHit .isect) = none := by
    rw [List.find?_eq_none]
    intro e he
    simp [Thread.endsIn_eq_false (ha e he)]
  have hends : retEnds ls = [] := by
    rw [retEnds, List.filter_eq_nil_iff]
    intro e he
    simp [Thread.endsIn_eq_false (ha e he)]
  rw [exec_ret, execRet, hi.run]
  dsimp only [retEnds, Thread.endsIn] at hf hends
  simp only [hf, hends, List.any_nil, Bool.not_false, List.filter_true, hs, List.isEmpty_nil, if_true]
  rfl

theorem ret_ends (ha : ∀ e ∈ ls, e.2.depth = 0 → e.2.ep ≠ .anyHit ∧ e.2.ep ≠ .isect) (hne : retEnds ls ≠ [])
    (hs : s.jumpStop h (retGo ls) x.a = none) (hfl : flagsClear (retEnds ls) = true) (hb : s.crewBusy h = false)
    (hr : s.noRoom h (retEnds ls).length = false) (he : s.endCallouts h (retEnds ls) = .ok (s1, w)) :
    exec (.ret x) s = .next (s1.jumpGo { h with wave := w } (retGo ls) x.a Thread.returned) := by
  have hf : (ls.find? fun e => e.2.endsIn .anyHit .isect) = none := by
    rw [List.find?_eq_none]
    intro e he
    simpa [Thread.endsIn, Thread.ep] using ha e he
  have hne' : (retEnds ls).isEmpty = false := by simpa using hne
  rw [exec_ret, execRet, hi.run]
  dsimp only [retGo, retEnds, Thread.endsIn] at hf hne' hs hfl hr he ⊢
  simp only [hf, hs, hne', hfl, hb, hr, he, Bool.not_true, Bool.or_self, Bool.false_eq_true, if_false]
  rfl

end

theorem call_goes {s : State} {x : CallOp} {h : Here} {ls : Table Thread}
    (hi : Issues s { len := 16, g := x.g, uniform := true, final := true, uses := [(x.d.toNat, 2)] } h ls)
    (hd : ∀ e ∈ ls, e.2.depth ≠ 255) :
    exec (.call x) s = .next (s.done h
      (h.wave.updLanes ls fun _ t =>
        { t.setPair x.d.toNat ((h.wave.pc + 16).setWidth 64) with depth := t.depth + 1 })
      (branchTarget h.wave.pc x.off)) := by
  have hf : (ls.find? fun e => decide (e.2.depth = 255)) = none := by
    rw [List.find?_eq_none]
    simpa using hd
  rw [exec_call, execCall, hi.run]
  simp only [hf]
  rfl

/-- What the lanes of a jump are left with: those that part leave, each for its own target. -/
theorem Wave.get?_parting {w : Wave} {ls : Table Thread} {pc : Thread → Pc} {n : Nat} {u : Thread}
    (hu : Table.get? w.lanes n = some u) :
    ∃ u', Table.get? (w.updLanes ls fun _ t => { t with st := .leaving (pc t) none }).lanes n = some u' ∧
      ((∃ e ∈ ls, e.1 = n) → u' = { u with st := .leaving (pc u) none }) ∧
      ((∀ e ∈ ls, e.1 ≠ n) → u' = u) := by
  rw [Wave.get?_updLanes, hu]
  refine ⟨_, rfl, fun hin => if_pos (by simpa using hin), fun hout => if_neg ?_⟩
  simpa using fun x hx => hout (n, x) hx rfl

/-- Settles O14: each instruction by where its lanes go, RET by which of them end an episode. -/
theorem branchesComplete : Obligations.BranchesComplete := by
  refine ⟨fun x s h ls hi => ?_, fun x s h ls hi => ?_, fun x s h ls hi hd => ?_, fun x s h ls p hi hp => ?_,
    fun x s h ls p hi hp ha => ?_, fun x s s1 h ls w hi => ?_,
    fun x s h ls l t hi h0 hc hr hne hb => ?_⟩
  case refine_1 =>
    rw [exec_nop, execNop]
    exact hi.run _
  case refine_2 =>
    rw [exec_bra, execBra, hi.run, branchTarget_eq]
  case refine_3 =>
    rw [call_goes hi hd, branchTarget_eq]
  case refine_4 =>
    refine ⟨h.wave.updLanes ls fun _ t => t, ?_, congrArg Wave.lanes (Wave.updLanes_id _ _)⟩
    rw [jmpi_goes hi (State.jumpStop_common hp), State.jumpGo_common hp hi.some_lane]
    rfl
  case refine_5 =>
    refine ⟨h.wave.updLanes ls fun _ t => t.returned, ?_, rfl⟩
    rw [ret_jumps hi ha (State.jumpStop_common hp), State.jumpGo_common hp hi.some_lane]
  case refine_6 =>
    intro ep ha ends go hne hs hf hb hr he
    have hends : retEnds ls = ends := retEnds_eq ls
    have hgo : retGo ls = go := by rw [retGo, hends]
    rw [← hends] at hne hf hr he
    rw [← hgo] at hs ⊢
    exact ret_ends hi ha hne hs hf hb hr he
  case refine_7 =>
    have hap : h.wave.apart ls x.a = ls.filter fun e => jumpPc h.wave x.a e.2 != jumpPc h.wave x.a t := by
      simp only [Wave.apart, h0]
    have hgo := jmpi_goes hi (State.jumpStop_parts hr hc (by rw [hap]; exact hb))
    simp only [State.jumpGo, h0, hap] at hgo
    refine ⟨_, hgo, fun n u hu => Wave.get?_parting (pc := jumpPc h.wave x.a) ?_⟩
    simpa using hu

end Sys2Proof.Machine

/-! ## Rays enter traversal (O23) -/

namespace Sys2Proof.Machine

section
variable {s : State} {f : Form} {h : Here} {ls : Table Thread}

/-- A ray instruction whose lanes are ray threads that may execute it has its own meaning. -/
theorem RayIssues.run {ok : Thread → Prop} {bad : Thread → Bool} (hi : RayIssues s f h ls ok)
    (hb : ∀ t, ok t → bad t = false) (k : Here → Table Thread → State) : s.issueRay f bad k = .next (k h ls) := by
  obtain ⟨hi, hok⟩ := hi
  have hf : (ls.find? fun e => e.2.ray.isNone || bad e.2) = none := by
    rw [List.find?_eq_none]
    intro e he
    obtain ⟨hr, ho⟩ := hok e he
    obtain ⟨r, hr⟩ := Option.isSome_iff_exists.mp hr
    simp [hr, hb _ ho]
  rw [State.issueRay, hi.run]
  simp only [hf]

/-- Lanes that are sent to a traversal unit enter it. -/
theorem entersTraversal {i : Instr} {len : Nat} {pc : Thread → Pc} {g : Thread → RayPart → RayPart}
    (hx : exec i s = .next (s.toTraversal h ls len pc g)) : EntersTraversal i s h ls len pc g := by
  intro hf hb s1 hc
  rw [hx, State.toTraversal]
  simp only [hf, hb, hc, Bool.not_true, Bool.or_self, Bool.false_eq_true, if_false]
  rfl

/-- TRACE of the grid's own structure, at an aligned address below the windows. -/
theorem trace_enters {x : TraceOp} {g : Grid}
    (hi : RayIssues s { len := 16, g := x.g, final := true, orders := true, uses := Src.run 2 x.a } h ls
      fun t => t.ep = .plain)
    (hg : Table.get? s.grids h.wave.kid = some g) (hw : g.header < windowBase) (h64 : g.header % 64 = 0)
    (ha : ∀ e ∈ ls, (Src.int64 h.wave none e.2 x.a).toNat = g.header) :
    exec (.trace x) s = .next (s.toTraversal h ls 16 (fun _ => h.wave.pc + 16) fun _ r =>
      { r.fresh with
        flags := x.flags.getD r.flags, mask := x.mask.getD r.mask, sel := x.sel.getD r.sel
        stack := [], trail := 0 }) := by
  have hwin : (ls.find? fun e => decide ((Src.int64 h.wave none e.2 x.a).toNat ≥ windowBase)) = none := by
    rw [List.find?_eq_none]
    intro e he
    simpa [ha e he] using hw
  have halign : (ls.find? fun e => (Src.int64 h.wave none e.2 x.a).toNat % 64 != 0) = none := by
    rw [List.find?_eq_none]
    intro e he
    simp [ha e he, h64]
  have hhead : (ls.find? fun e => (Src.int64 h.wave none e.2 x.a).toNat != g.header) = none := by
    rw [List.find?_eq_none]
    intro e he
    simp [ha e he]
  rw [exec_trace, execTrace, hi.run (by simp)]
  simp only [hg, Option.map_some, Option.getD_some, hwin, halign, hhead]
  rfl

end

/-- Settles O23: TRACE by its address, the ends of a call-out by the episode of its lanes. -/
theorem raysEnterTraversal : Obligations.RaysEnterTraversal := by
  refine ⟨fun x s h ls g hi hg hw h64 ha => entersTraversal (trace_enters hi hg hw h64 ha),
    fun x s h ls => ⟨fun hi => entersTraversal ?_, fun hi => entersTraversal ?_⟩,
    fun x s h ls hi => entersTraversal ?_⟩
  case refine_1 =>
    rw [exec_accept, execAccept, hi.run (by simp)]
    rfl
  case refine_2 =>
    rw [exec_ignore, execIgnore, hi.run (by rintro t (h | h) <;> simp [h])]
    rfl
  case refine_3 =>
    rw [exec_report, execReport, hi.run (by simp)]
    rfl

end Sys2Proof.Machine

/-! ## Commits, aborts and fences (O12) -/

namespace Sys2Proof.Machine

/-! ### Buffers by their party -/

theorem bufFind_party {l : List Buf} {p : Party} {b : Buf} (h : bufFind l p = some b) : b.party = p := by
  induction l with
  | nil => cases h
  | cons x l ih =>
    simp only [bufFind] at h
    split at h
    next hx => exact (Option.some.inj h) ▸ hx
    next => exact ih h

theorem bufFind_bufPut (l : List Buf) (b : Buf) (p : Party) :
    bufFind (bufPut l b) p = if b.party = p then some b else bufFind l p := by
  induction l with
  | nil => rfl
  | cons x l ih =>
    simp only [bufPut]
    split
    next hx =>
      simp only [bufFind, hx]
      split <;> rfl
    next hx =>
      simp only [bufFind, ih]
      grind

theorem bufFind_map {f : Buf → Buf} (hf : ∀ b, (f b).party = b.party) (l : List Buf) (p : Party) :
    bufFind (l.map f) p = (bufFind l p).map f := by
  induction l with
  | nil => rfl
  | cons x l ih =>
    simp only [List.map_cons, bufFind, hf, ih]
    split <;> rfl

theorem Memory.party_bufAt (m : Memory) (x : Site) : (m.bufAt x).party = x.party := by
  unfold Memory.bufAt
  split
  next b hb => exact (bufFind_party hb :)
  next => rfl

/-- The buffer of a site holds what its party's buffer holds. -/
theorem Memory.bytes_bufAt (m : Memory) (x : Site) : (m.bufAt x).bytes = m.bytesOf x.party := by
  unfold Memory.bufAt Memory.bytesOf
  split <;> simp [Buf.bytes, *]

theorem Memory.bytesOf_bufAt (m : Memory) (x : Site) (p : Party) :
    ({ m with bufs := bufPut m.bufs (m.bufAt x) } : Memory).bytesOf p = m.bytesOf p := by
  by_cases hp : x.party = p
  · subst hp
    rw [← m.bytes_bufAt x, Memory.bytesOf]
    simp only [bufFind_bufPut, Memory.party_bufAt, if_true]
  · simp only [Memory.bytesOf, bufFind_bufPut, Memory.party_bufAt, hp, if_false]

theorem Memory.bytesOf_emptyBuf (m : Memory) (q p : Party) :
    (m.emptyBuf q).bytesOf p = if p = q then [] else m.bytesOf p := by
  simp only [Memory.bytesOf, Memory.emptyBuf]
  rw [bufFind_map fun b => by split <;> rfl]
  cases hb : bufFind m.bufs p with
  | none => simp
  | some b =>
    have hp := bufFind_party hb
    subst hp
    by_cases hq : b.party = q <;> simp [Buf.bytes, hq]

/-! ### ABT (R126, R257) -/

/-- Which buffer an abort at a level discards. -/
def Links.aborts (k : Links) : Level → Option Site
  | .c => some k.c
  | .b => k.b
  | .g => some k.g
  | .d => none
  | .s => none

theorem Memory.abort_eq (m : Memory) (k : Links) (x : Level) : m.abort k x = match k.aborts x with
    | some y => ({ m with bufs := bufPut m.bufs (m.bufAt y) } : Memory).emptyBuf y.party
    | none => m := by
  obtain ⟨chain, c, b, g⟩ := k
  cases x <;> cases b <;> rfl

theorem Memory.bytesOf_abort (m : Memory) (k : Links) (x : Level) (p : Party) :
    (m.abort k x).bytesOf p = if (k.aborts x).map Site.party = some p then [] else m.bytesOf p := by
  rw [Memory.abort_eq]
  cases k.aborts x with
  | none => simp
  | some y => simp only [Memory.bytesOf_emptyBuf, Memory.bytesOf_bufAt, Option.map_some, Option.some.injEq, eq_comm]

theorem Memory.atD_abort (m : Memory) (k : Links) (x : Level) (a : Nat) : (m.abort k x).atD a = m.atD a := by
  rw [Memory.abort_eq]
  cases k.aborts x <;> rfl

section
variable {s : State} {h : Here} {ls : Table Thread}

/-- Outside a crew each lane's abort discards the buffer of its own party. -/
theorem State.abortParties_alone (hc : h.wave.crew = none) (x : Level) :
    (ls.map fun e => [e]).foldl (fun s ts => s.abortParty h ts x) s =
      { s with mem := (ls.map fun e => s.linksOf h e.2).foldl (fun m k => m.abort k x) s.mem } := by
  induction ls generalizing s with
  | nil => rfl
  | cons e ls ih =>
    have h1 : s.abortParty h [e] x = { s with mem := s.mem.abort (s.linksOf h e.2) x } := by
      simp [State.abortParty, State.mates, hc]
    rw [List.map_cons, List.foldl_cons, h1, ih]
    rfl

theorem abt_alone {x : AbtOp} (hi : Issues s { len := 8, g := x.g } h ls) (hh : h.hand = none) (hc : h.wave.crew = none) :
    exec (.abt x) s = .next (State.doneLen { s with
      mem := (ls.map fun e => s.linksOf h e.2).foldl (fun m k => m.abort k x.lvl) s.mem } h h.wave 8) := by
  rw [exec_abt, execAbt, hi.run]
  simp only [hh, partiesOf, hc, Option.isSome_none, Bool.false_eq_true, if_false, State.abortParties_alone hc]

theorem abt_crew {x : AbtOp} {e : Nat × Thread} (hi : Issues s { len := 8, g := x.g } h ls) (hh : h.hand = none)
    (hc : h.wave.crew.isSome = true) (he : ls.head? = some e) :
    exec (.abt x) s = .next (State.doneLen { s with
      mem := (s.linksOf h e.2 :: if x.lvl = .c then s.mates h e else []).foldl (fun m k => m.abort k x.lvl) s.mem }
      h h.wave 8) := by
  have hne : ls.isEmpty = false := by
    cases ls with
    | nil => cases he
    | cons => rfl
  rw [exec_abt, execAbt, hi.run]
  simp only [hh, partiesOf, hc, hne, if_true, Bool.false_eq_true, if_false, List.foldl_cons, List.foldl_nil,
    State.abortParty, he]

/-! ### CMT (R255, R256) -/

/-- An unchecked commit finds no conflict. -/
theorem commitAll_unchecked {l : List (Table Thread)} {x : Level} {s1 : State} {ts : Table Thread} {bad : List Nat}
    (hc : commitAll l s h x false = .ok (s1, ts, bad)) : bad = [] := by
  induction l generalizing s s1 ts bad with
  | nil =>
    cases hc
    rfl
  | cons p l ih =>
    simp only [commitAll, Bool.false_eq_true, if_false, List.isEmpty_nil, if_true] at hc
    split at hc
    next => exact ih hc
    next =>
      split at hc
      next => cases hc
      next =>
        split at hc
        next => cases hc
        next hr =>
          cases hc
          exact ih hr

/-- A lane after a commit that found the conflicts `bad`: a checked one says in its predicate whether the lane's step was
one of them. -/
def cmtNoted (x : CmtOp) (bad : List Nat) (e : Nat × Thread) : Thread :=
  match x.chk with
  | some p => e.2.setPred p.toNat (decide (e.1 ∈ bad))
  | none => e.2

theorem cmt_commits {x : CmtOp} {s1 u : State} {ts : Table Thread} {v : Table Thread × List Nat} {bad : List Nat}
    (hi : Issues s { len := 8, g := x.g, orders := true } h ls)
    (hh : h.hand = none) (hu : commitAll (partiesOf h ls) s h x.lvl false = .ok (u, v))
    (hc : commitAll (partiesOf h ls) s h x.lvl x.chk.isSome = .ok (s1, ts, bad)) :
    exec (.cmt x) s = .next (s1.doneLen h (ts.foldl (fun w e => w.setLane e.1 (cmtNoted x bad e)) h.wave) 8) := by
  rw [exec_cmt, execCmt, hi.run]
  simp only [hh, hu, hc]
  rfl

/-- A thread has released at a scope. -/
def Thread.ReleasedAt (t : Thread) (y : Level) : Prop := ∃ k ∈ t.rel, k.scope = y

theorem Thread.release_releasedAt (t : Thread) (k : Mark) : (t.release k).ReleasedAt k.scope :=
  ⟨k, by simp [Thread.release], rfl⟩

theorem Thread.ReleasedAt.release {t : Thread} {y : Level} (hr : t.ReleasedAt y) (k : Mark) :
    (t.release k).ReleasedAt y := by
  obtain ⟨m, hm, rfl⟩ := hr
  by_cases hk : m.who = k.who ∧ m.scope = k.scope
  · exact hk.2 ▸ t.release_releasedAt k
  · exact ⟨m, List.mem_append_left _ (List.mem_filter.mpr ⟨hm, by simpa [imp_iff_not_or] using hk⟩), rfl⟩

theorem Thread.ReleasedAt.releases {t : Thread} {y : Level} (hr : t.ReleasedAt y) (l : List Level) :
    (s.releases h t l).ReleasedAt y :=
  List.foldlRecOn (motive := fun t : Thread => t.ReleasedAt y) l _ hr fun _ ht _ _ => ht.release _

theorem State.releases_releasedAt {t : Thread} {y : Level} {l : List Level} (hy : y ∈ l) :
    (s.releases h t l).ReleasedAt y := by
  induction l generalizing t with
  | nil => cases hy
  | cons z l ih =>
    rcases List.mem_cons.mp hy with rfl | hy
    · exact (t.release_releasedAt (s.markOf h t y)).releases l
    · exact ih hy

end

/-- What becomes of a lane that an update names. -/
theorem Wave.mem_updLanes {w : Wave} {ls : Table Thread} {f : Nat → Thread → Thread} {e : Nat × Thread}
    (he : e ∈ (w.updLanes ls f).lanes) (hin : ∃ u ∈ ls, u.1 = e.1) : ∃ t, e = (e.1, f e.1 t) := by
  obtain ⟨e0, -, rfl⟩ := List.mem_map.mp he
  have hkey : (if ls.any fun x => x.1 = e0.1 then (e0.1, f e0.1 e0.2) else e0).1 = e0.1 := by split <;> rfl
  rw [hkey] at hin ⊢
  exact ⟨e0.2, if_pos (by simpa using hin)⟩

theorem commitsComplete : Claim.CommitsComplete := by
  refine ⟨fun x s s1 h ls ts bad hi hh ⟨u, hu⟩ hc => ⟨cmt_commits hi hh hu hc, fun hn => ?_⟩,
    fun x s h ls hi hh => ⟨abt_alone hi hh, fun e => abt_crew hi hh⟩, fun m k x p => ?_,
    fun x y s h ls f hh => ⟨fun hi => ⟨?_, ?_⟩, fun hi => ?_⟩⟩
  case refine_1 =>
    rw [hn] at hc
    exact commitAll_unchecked hc
  case refine_2 =>
    intro t gone
    have hg : gone ↔ (k.aborts x).map Site.party = some p := by
      cases x <;> simp [gone, Links.aborts, eq_comm]
    refine ⟨fun hp => ?_, fun hp => ?_, m.atD_abort k x⟩
    · exact (m.bytesOf_abort k x p).trans (if_pos (hg.mp hp))
    · exact (m.bytesOf_abort k x p).trans (if_neg fun h => hp (hg.mpr h))
  case refine_3 =>
    obtain ⟨w, core, slot, hand⟩ := h
    cases hh
    rw [exec_cmt, execCmt]
    exact hi.run _
  case refine_4 =>
    intro e he hin y hy
    obtain ⟨t, ht⟩ := Wave.mem_updLanes he hin
    have hr : (s.releases h t (commitScopes x.lvl)).ReleasedAt y := State.releases_releasedAt hy
    rw [ht]
    dsimp only
    split <;> exact hr
  case refine_5 =>
    rw [exec_abt, execAbt, hi.run]
    simp only [hh]

/-! ### Fences (R132 to R135, R258) -/

section
variable {s : State} {h : Here}

/-- SC fences add to the order of such fences, one each, and change nothing else of memory that is listed here. -/
theorem State.scFences_mem (x : Level) (ls : Table Thread) (w : Wave) :
    let r := ls.foldl (fun r e => State.scFence r.1 h e.1 e.2 x r.2) (s, w)
    r.1.mem.sc.length = s.mem.sc.length + ls.length ∧ r.1.mem.cells = s.mem.cells ∧ r.1.mem.bufs = s.mem.bufs := by
  induction ls generalizing s w with
  | nil => exact ⟨rfl, rfl, rfl⟩
  | cons e ls ih =>
    obtain ⟨hl, hc, hb⟩ := ih (s := (s.scFence h e.1 e.2 x w).1) (w := (s.scFence h e.1 e.2 x w).2)
    refine ⟨hl.trans ?_, hc, hb⟩
    simp only [State.scFence, List.length_append, List.length_cons, List.length_nil]
    omega

end

theorem fencesComplete : Claim.FencesComplete := by
  refine ⟨fun x s h ls hi => ⟨fun hk => ?_, fun hk => ?_, fun hk => ?_, fun hk => ⟨fun hr => ?_, fun hr => ?_⟩⟩,
    fun s h l t x w => ?_⟩
  case refine_1 =>
    rw [EndsWith, exec_fence, execFence, hi.run]
    simp only [hk]
    rfl
  case refine_2 =>
    rw [EndsWith, exec_fence, execFence, hi.run]
    simp only [hk]
  case refine_3 =>
    refine ⟨?_, State.scFences_mem _ _ _⟩
    rw [exec_fence, execFence, hi.run]
    simp only [hk]
  case refine_4 =>
    obtain ⟨hruns, hbuf⟩ := hr
    have hany : (ls.any fun e => s.ownBuffered h e.2) = false := by simpa using hbuf
    rw [exec_fence, execFence, hi.run]
    simp only [hk, hruns, hany, List.isEmpty_nil, Bool.not_true, Bool.or_self, Bool.false_eq_true, if_false]
    rfl
  case refine_5 =>
    have hany : (!(s.fenceRuns h).isEmpty || ls.any fun e => s.ownBuffered h e.2) = true := by
      simpa [or_iff_not_imp_left] using hr
    rw [exec_fence, execFence, hi.run]
    simp only [hk, hany, if_true]
  case refine_6 =>
    refine ⟨_, rfl, fun a => ?_⟩
    let k := (s.linksOf h t).chain
    obtain ⟨hle, hall⟩ := View.le_joins (f := ScFence.view)
      (p := fun f : ScFence => scopeHas f.scope f.who k && scopeHas x k f.who) s.mem.sc (acquireView t.view k x t.seen) a
    exact ⟨hle, fun f hf h1 h2 => hall f hf (Bool.and_eq_true_iff.mpr ⟨h1, h2⟩)⟩

/-- Settles O12: commits and aborts by the executing parties, fences by their kind. -/
theorem commitsAndFences : Obligations.CommitsAndFences := ⟨commitsComplete, fencesComplete⟩

end Sys2Proof.Machine

/-! ## Traversal (O40) -/

namespace Sys2Proof.Machine

/-! ### The order of FP32 values (R148) -/

/-- A finite value has a denominator. -/
def Real'.Proper : Real' → Prop
  | .fin _ _ d => 0 < d
  | _ => True

/-- A numerator with its sign. -/
def signedNum (s : Bool) (n : Nat) : Int := if s then -(n : Int) else n

theorem Real'.proper_scaled (s : Bool) (n : Nat) (e : Int) : (Real'.scaled s n e).Proper := by
  unfold Real'.scaled
  split
  · exact Nat.one_pos
  · exact Nat.div_pos (Nat.gcd_le_right _ (by positivity)) (Nat.gcd_pos_of_pos_right _ (by positivity))

theorem f32_proper (x : Word) : (f32 x).Proper := by
  unfold f32 FloatFmt.decode
  dsimp only
  split
  · split
    · exact Nat.one_pos
    · exact Real'.proper_scaled _ _ _
  · split
    · split <;> trivial
    · split
      · trivial
      · exact Real'.proper_scaled _ _ _

/-- Finite values are ordered as fractions. -/
theorem Real'.lt_fin {s t : Bool} {n d m e : Nat} (hd : 0 < d) (he : 0 < e) :
    (Real'.fin s n d).lt (.fin t m e) = true ↔ signedNum s n * e < signedNum t m * d := by
  have hn : 0 ≤ (n : Int) * e := by positivity
  have hm : 0 ≤ (m : Int) * d := by positivity
  have hn0 : (n : Int) * e = 0 ↔ n = 0 := by simp [he.ne']
  have hm0 : (m : Int) * d = 0 ↔ m = 0 := by simp [hd.ne']
  have hlt : n * e < m * d ↔ (n : Int) * e < m * d := by exact_mod_cast Iff.rfl
  have hgt : m * d < n * e ↔ (m : Int) * d < n * e := by exact_mod_cast Iff.rfl
  simp only [Real'.lt, signedNum]
  -- by the two signs: numerators are compared as they are, or the other way round, or not at all
  cases s <;> cases t <;> simp [hlt, hgt] <;> omega

theorem Real'.lt_asymm {x y : Real'} (hx : x.Proper) (hy : y.Proper) (h : x.lt y = true) : y.lt x = false := by
  rw [Bool.eq_false_iff]
  intro h'
  cases x with
  | nan => cases h
  | inf s => cases y <;> simp_all [Real'.lt]
  | fin s n d =>
    cases y with
    | nan => cases h
    | inf t => simp_all [Real'.lt]
    | fin t m e =>
      rw [Real'.lt_fin hx hy] at h
      rw [Real'.lt_fin hy hx] at h'
      omega

theorem Real'.lt_trans {x y z : Real'} (hx : x.Proper) (hy : y.Proper) (hz : z.Proper) (h : x.lt y = true)
    (h' : y.lt z = true) : x.lt z = true := by
  cases y with
  | nan => cases h'
  | inf t => cases x <;> cases z <;> simp_all [Real'.lt]
  | fin t m e =>
    cases x with
    | nan => cases h
    | inf s => cases z <;> simp_all [Real'.lt]
    | fin s n d =>
      cases z with
      | nan => cases h'
      | inf u => simpa [Real'.lt] using h'
      | fin u k f =>
        rw [Real'.lt_fin hx hy] at h
        rw [Real'.lt_fin hy hz] at h'
        rw [Real'.lt_fin hx hz]
        have hx : (0 : Int) < d := Int.natCast_pos.mpr hx
        have hz : (0 : Int) < f := Int.natCast_pos.mpr hz
        refine lt_of_mul_lt_mul_right ?_ (Int.natCast_nonneg e)
        calc signedNum s n * f * e = signedNum s n * e * f := by ring
          _ < signedNum t m * d * f := mul_lt_mul_of_pos_right h hz
          _ = signedNum t m * f * d := by ring
          _ < signedNum u k * e * d := mul_lt_mul_of_pos_right h' hx
          _ = signedNum u k * d * e := by ring

theorem flt32_asymm {a b : Word} (h : flt32 a b = true) : flt32 b a = false :=
  Real'.lt_asymm (f32_proper a) (f32_proper b) h

theorem flt32_trans {a b c : Word} (h : flt32 a b = true) (h' : flt32 b c = true) : flt32 a c = true :=
  Real'.lt_trans (f32_proper a) (f32_proper b) (f32_proper c) h h'

/-! ### What traversal decides -/

/-- What a triangle's hit meets (R73). -/
theorem triTest_hit {o d : Vec3} {tmin tmax : Word} {lim : Option Word} {flip : Bool} {a b c : Vec3} {y : TriHit}
    (h : triTest o d tmin tmax lim flip a b c = some y) :
    fle32 0 y.u = true ∧ fle32 0 y.v = true ∧ fle32 (fadd32 y.u y.v) one32 = true ∧
    fle32 tmin y.t = true ∧ fle32 y.t tmax = true ∧ (∀ l, lim = some l → flt32 y.t l = true) ∧
    y.front = (flt32 0 ((b.sub a).dot (d.cross (c.sub a))) != flip) := by
  unfold triTest at h
  rw [Option.ite_none_left_eq_some, Option.ite_none_right_eq_some] at h
  obtain ⟨-, hc, hy⟩ := h
  obtain rfl := Option.some.inj hy
  simp only [Bool.and_eq_true] at hc
  obtain ⟨⟨⟨⟨⟨hu, hv⟩, huv⟩, hmin⟩, hmax⟩, hnear⟩ := hc
  refine ⟨hu, hv, huv, hmin, hmax, ?_, rfl⟩
  rintro l rfl
  exact hnear

theorem triTest_flat {o d : Vec3} {tmin tmax : Word} {lim : Option Word} {flip : Bool} {a b c : Vec3} {det : Word}
    (hd : det = (b.sub a).dot (d.cross (c.sub a))) (h : feq32 det 0 = true ∨ isNan32 det = true) :
    triTest o d tmin tmax lim flip a b c = none := by
  subst hd
  exact if_pos (by simpa using h)

theorem insertChild_perm (c : Child) (l : List Child) : (insertChild c l).Perm (c :: l) := by
  induction l with
  | nil => exact .refl _
  | cons x l ih =>
    simp only [insertChild]
    split
    · exact .refl _
    · exact (ih.cons x).trans (.swap c x l)

/-- Ranked children stay ranked (R76). -/
theorem insertChild_ranked {c : Child} {l : List Child} (hl : l.Pairwise fun x y => flt32 y.entry x.entry = false) :
    (insertChild c l).Pairwise fun x y => flt32 y.entry x.entry = false := by
  induction l with
  | nil => exact List.pairwise_singleton _ _
  | cons x l ih =>
    obtain ⟨hx, hl'⟩ := List.pairwise_cons.mp hl
    simp only [insertChild]
    split
    next hc =>
      refine List.pairwise_cons.mpr ⟨fun y hy => ?_, hl⟩
      rcases List.mem_cons.mp hy with rfl | hy
      · exact flt32_asymm hc
      · exact Bool.eq_false_iff.mpr fun hyc => Bool.eq_false_iff.mp (hx y hy) (flt32_trans hyc hc)
    next hc =>
      refine List.pairwise_cons.mpr ⟨fun y hy => ?_, ih hl'⟩
      rcases List.mem_cons.mp ((insertChild_perm c l).mem_iff.mp hy) with rfl | hy
      · exact Bool.eq_false_iff.mpr hc
      · exact hx y hy

/-! ### The trail (R65, R77) -/

section
variable {r : RayPart} {l k m : Nat}

theorem trail_lt (n : Nat) (hk : k < 16) : n % 16 ^ l + k * 16 ^ l < 16 ^ (l + 1) := by
  have hn : n % 16 ^ l < 16 ^ l := Nat.mod_lt _ (by positivity)
  have hkl : k * 16 ^ l ≤ 15 * 16 ^ l := Nat.mul_le_mul_right _ (by omega)
  rw [pow_succ]
  omega

theorem RayPart.toNat_setTrail (hl : l < 32) (hk : k < 16) :
    (r.setTrail l k).trail.toNat = r.trail.toNat % 16 ^ l + k * 16 ^ l := by
  have hp : 16 ^ (l + 1) ≤ 16 ^ 32 := Nat.pow_le_pow_right (by decide) hl
  rw [RayPart.setTrail, BitVec.toNat_ofNat]
  exact Nat.mod_eq_of_lt ((trail_lt _ hk).trans_le hp)

theorem RayPart.trailAt_setTrail_self (hl : l < 32) (hk : k < 16) : (r.setTrail l k).trailAt l = k := by
  rw [RayPart.trailAt, RayPart.toNat_setTrail hl hk, Nat.add_mul_div_right _ _ (by positivity),
    Nat.div_eq_of_lt (Nat.mod_lt _ (by positivity)), Nat.zero_add, Nat.mod_eq_of_lt hk]

theorem RayPart.trailAt_setTrail_below (hl : l < 32) (hk : k < 16) (hm : m < l) :
    (r.setTrail l k).trailAt m = r.trailAt m := by
  have hdvd : 16 ^ m * 16 ∣ 16 ^ l := pow_succ 16 m ▸ pow_dvd_pow 16 hm
  rw [RayPart.trailAt, RayPart.trailAt, RayPart.toNat_setTrail hl hk, ← Nat.mod_mul_right_div_self,
    ← Nat.mod_mul_right_div_self, Nat.add_mod, Nat.mod_mod_of_dvd _ hdvd, Nat.mod_eq_zero_of_dvd (hdvd.mul_left k),
    Nat.add_zero, Nat.mod_mod]

theorem RayPart.trailAt_setTrail_above (hl : l < 32) (hk : k < 16) (hm : l < m) : (r.setTrail l k).trailAt m = 0 := by
  have hp : 16 ^ (l + 1) ≤ 16 ^ m := Nat.pow_le_pow_right (by decide) hm
  rw [RayPart.trailAt, RayPart.toNat_setTrail hl hk, Nat.div_eq_of_lt ((trail_lt _ hk).trans_le hp)]

end

theorem traversalDecisions : Claim.TraversalDecisions := by
  refine ⟨fun o d tmin tmax lim flip a b c => ⟨fun y h => triTest_hit h, fun det hd h => triTest_flat hd h⟩,
    fun r i f => ⟨fun h0 => ?_, fun h0 h1 => ?_, fun h0 h1 => ⟨fun h2 => ?_, fun h2 h3 => ?_, fun h2 h3 => ?_⟩⟩,
    fun c l hl => ⟨insertChild_ranked hl, (insertChild_perm c l).length_eq, ?_, fun x hx => ?_⟩,
    fun r e => ⟨List.length_take_le _ _, rfl, fun hl => ⟨?_, ?_⟩, fun hl => ?_⟩,
    fun r l k hl hk => ⟨RayPart.trailAt_setTrail_self hl hk, fun m => RayPart.trailAt_setTrail_below hl hk,
      fun m => RayPart.trailAt_setTrail_above hl hk⟩⟩
  case refine_1 => simp only [opaquePrim, h0, if_true]
  case refine_2 => simp only [opaquePrim, h0, h1, if_true, Bool.false_eq_true, if_false]
  case refine_3 => simp only [opaquePrim, h0, h1, h2, if_true, Bool.false_eq_true, if_false]
  case refine_4 => simp only [opaquePrim, h0, h1, h2, h3, if_true, Bool.false_eq_true, if_false]
  case refine_5 => simp only [opaquePrim, h0, h1, h2, h3, Bool.false_eq_true, if_false]
  case refine_6 => exact (insertChild_perm c l).mem_iff.mpr List.mem_cons_self
  case refine_7 => exact (insertChild_perm c l).mem_iff.mpr (List.mem_cons_of_mem _ hx)
  case refine_8 => exact List.take_of_length_le (by simpa using hl)
  case refine_9 => simp [RayPart.push, hl]
  case refine_10 => simp [RayPart.push, hl]

/-! ### Runs on the units of a cluster (R77, R78, R88, R89) -/

section
variable {s t : State}

theorem State.Drew.clusters (h : s.Drew t) : t.clusters = s.clusters := by
  obtain ⟨n, rfl⟩ := h
  rfl

theorem State.Drew.mem (h : s.Drew t) : t.mem = s.mem := by
  obtain ⟨n, rfl⟩ := h
  rfl

theorem State.travUnit_drew (s : State) (cl : Nat) : s.Drew (s.travUnit cl).2 := State.pick_drew s 16

theorem State.pick_lt (s : State) {n : Nat} (hn : 0 < n) : (s.pick n).1 < n := by
  unfold State.pick
  split
  · exact hn
  · exact Nat.mod_lt _ hn

/-- A unit that takes a run is one of its cluster's. -/
theorem State.travUnit_cl (s : State) (cl : Nat) : (s.travUnit cl).1.cl = cl := by
  have := s.pick_lt (n := 16) (by decide)
  simp only [State.travUnit, TravUnit.cl, clusterOf]
  omega

/-- The unit that takes the run of a record. -/
def State.unitFor (s : State) (cl : Nat) (t : Thread) : TravUnit :=
  { (s.travUnit cl).1 with ray := t.uid, kid := t.kid }

end

section
variable {s : State} {x : ClItem} {g : Grid} {t : Thread} {r : RayPart}

theorem traversalRun_runs (hr : Runs s x.cl.toNat) (ht : s.travReady x.cl.toNat x.n = some (g, t, r))
    (hc : (s.ctx g.ctx).st = .running) :
    let u := s.unitFor x.cl.toNat t
    let o := (s.travUnit x.cl.toNat).2.runRay u g.ctx g t r none
    exec (.traversalRun x) s = .next (o.2.settleRay u.core g.ctx g t o.1) := by
  rw [exec_traversalRun, execTraversalRun, hr.live]
  simp only [ht, hc, bne_self_eq_false, Bool.false_eq_true, if_false]
  rfl

theorem traversalRun_stays (hr : Runs s x.cl.toNat) (ht : s.travReady x.cl.toNat x.n = some (g, t, r))
    (hc : (s.ctx g.ctx).st ≠ .running) : exec (.traversalRun x) s = .next s := by
  rw [exec_traversalRun, execTraversalRun, hr.live]
  simp only [ht, bne_iff_ne.mpr hc, if_true]

/-- What a run under a pre-emption leaves: a treelet that misses is not fetched. -/
def TravOut.unfetched : TravOut → TravOut
  | .stand r (.treelet _) => .stand r .budget
  | y => y

theorem stepBudgetStop_runs (hr : Runs s x.cl.toNat) (ht : s.travReady x.cl.toNat x.n = some (g, t, r))
    (hc : (s.ctx g.ctx).st = .stopping) (h5 : r.stop ≠ 5) (hn : x.n ∈ (s.ctx g.ctx).inRun) :
    let more := s.pick (2 ^ 32)
    let u := more.2.unitFor x.cl.toNat t
    let o := (more.2.travUnit x.cl.toNat).2.runRay u g.ctx g t r (some ((s.ctx g.ctx).budget.toNat + more.1))
    exec (.stepBudgetStop x) s = .next (o.2.settleRay u.core g.ctx g t o.1.unfetched) := by
  rw [exec_stepBudgetStop, execStepBudgetStop, hr.live]
  simp only [ht, hc, h5, hn, bne_self_eq_false, decide_true, decide_false, Bool.not_true, Bool.or_self,
    Bool.false_eq_true, if_false]
  rfl

theorem stepBudgetStop_stays (hr : Runs s x.cl.toNat) (ht : s.travReady x.cl.toNat x.n = some (g, t, r))
    (hn : r.stop = 5 ∨ x.n ∉ (s.ctx g.ctx).inRun) : exec (.stepBudgetStop x) s = .next s := by
  rw [exec_stepBudgetStop, execStepBudgetStop, hr.live]
  simp only [ht]
  exact if_pos (by rcases hn with h | h <;> simp [h])

end

/-! ### The fetch of a treelet (R84) -/

section
variable {β : Type} {f : Cluster → β} (hf : ∀ (c : Cluster) l w, f { c with tlb := l, walks := w } = f c)
include hf

theorem State.fillTlb_cluster_congr (s : State) (x : Via) (o : WalkOut) (n : Nat) :
    f ((s.fillTlb x o).cluster n) = f (s.cluster n) := by
  unfold State.fillTlb
  dsimp only
  split <;> refine listGet_listUpd_congr (fun c => ?_) _ _ _ _ <;> cases o.leaf <;> exact hf c _ _

theorem State.take_cluster_congr (s : State) (x : Via) (r : Route) (n : Nat) :
    f ((s.take x r).cluster n) = f (s.cluster n) := by
  unfold State.take
  split
  · rfl
  · split <;> rfl
  · unfold State.applyWalk
    rw [State.fillTlb_cluster_congr hf]
    split <;> rfl

/-- A translation changes no part of a cluster but its translations and walks. -/
theorem State.translate_cluster_congr (s : State) (x : Via) (ctx va : Nat) (kind : Access) (n : Nat) :
    f ((s.translate x ctx va kind).2.cluster n) = f (s.cluster n) := by
  unfold State.translate
  dsimp only
  split
  · rfl
  · split
    · exact State.take_cluster_congr hf _ _ _ _
    · rw [State.take_cluster_congr hf, State.cluster, State.cluster, (State.pick_drew _ _).clusters]

theorem State.unitPa_cluster_congr (s : State) (x : Via) (ctx va : Nat) (kind : Access) (n : Nat) :
    f ((s.unitPa x ctx va kind).2.cluster n) = f (s.cluster n) := by
  unfold State.unitPa
  dsimp only
  split
  · rfl
  · split <;> exact State.translate_cluster_congr hf _ _ _ _ _ _

end

theorem Table.mem_of_get? {α : Type} {t : Table α} {n : Nat} {x : α} (h : Table.get? t n = some x) : (n, x) ∈ t := by
  induction t with
  | nil => cases h
  | cons e t ih =>
    obtain ⟨k, y⟩ := e
    simp only [Table.get?] at h
    split at h
    next hk =>
      cases h
      exact hk ▸ List.mem_cons_self
    next => exact List.mem_cons_of_mem _ (ih h)

theorem Table.get?_foldl_put {α β : Type} {k : β → Nat} {v : β → α} {l : List β} {t : Table α} {n : Nat}
    (h : (Table.get? t n).isSome = true ∨ ∃ a ∈ l, k a = n) :
    ∃ y, Table.get? (l.foldl (fun t a => Table.put t (k a) (v a)) t) n = some y := by
  induction l generalizing t with
  | nil => exact Option.isSome_iff_exists.mp (h.resolve_right (by simp))
  | cons a l ih =>
    refine ih ?_
    rw [Table.get?_put]
    by_cases ha : k a = n
    · simp [ha]
    · rw [if_neg (Ne.symm ha)]
      simpa [ha] using h

section
variable {s : State}

/-- The treelet takes its place, and no record moves. -/
theorem State.putTreelet_comes {cl : Nat} (pa : Nat) (hcl : cl < s.clusters.length) :
    Table.get? ((s.putTreelet cl pa).cluster cl).treelets (copyKey true pa) = some s.mem.pos ∧
    ((s.putTreelet cl pa).cluster cl).bins = (s.cluster cl).bins ∧
    ((s.putTreelet cl pa).cluster cl).trav = (s.cluster cl).trav ∧
    (s.putTreelet cl pa).clusters.length = s.clusters.length ∧ (s.putTreelet cl pa).mem = s.mem := by
  unfold State.putTreelet
  dsimp only
  generalize hr : s.pickFrom (α := Option Nat) _ none = r
  obtain ⟨n, hn⟩ : s.Drew r.2 := hr ▸ s.pickFrom_drew _ _
  rw [hn, State.cluster_updCluster_self _ _ _ (by exact hcl)]
  exact ⟨Table.get?_put_self _ _ _, rfl, rfl, length_listUpd _ _ _, rfl⟩

/-- A bin has the key of another (R84). -/
def Bin.sameKey (b y : Bin) : Bool := decide (y.kid = b.kid) && decide (y.target = b.target)

/-- A fetched treelet in its place, with the requests that brought its lines. -/
def State.treeletHere (s : State) (u : TravUnit) (cl ctx va pa : Nat) : State :=
  (s.putTreelet cl pa).reachAll u.src ctx ((natsFrom 0 32).map fun i => (va + 128 * i, pa + 128 * i))

/-- Every record in a bin of a key returns to traversal. -/
def State.treeletBack (s : State) (cl : Nat) (b : Bin) : State :=
  s.updCluster cl fun c => { c with
    bins := c.bins.filter fun e => !b.sameKey e.2
    trav := ((s.cluster cl).bins.flatMap fun e => if b.sameKey e.2 then e.2.recs else []).foldl
      (fun t r => Table.put t r.uid { r with spilled := false }) c.trav }

theorem State.treeletHere_comes {u : TravUnit} {cl ctx va pa : Nat} (hcl : cl < s.clusters.length) :
    Table.get? ((s.treeletHere u cl ctx va pa).cluster cl).treelets (copyKey true pa) = some s.mem.pos ∧
    ((s.treeletHere u cl ctx va pa).cluster cl).bins = (s.cluster cl).bins ∧
    ((s.treeletHere u cl ctx va pa).cluster cl).trav = (s.cluster cl).trav ∧
    (s.treeletHere u cl ctx va pa).clusters.length = s.clusters.length ∧
    (s.treeletHere u cl ctx va pa).mem = s.mem := by
  have hc : (s.treeletHere u cl ctx va pa).clusters = (s.putTreelet cl pa).clusters :=
    foldl_keeps (fun s a => s.reach_clusters _ _ _ _) _ _
  rw [State.cluster, hc, State.treeletHere, State.reachAll_mem]
  exact State.putTreelet_comes pa hcl

theorem State.treeletBack_bins {cl : Nat} {b : Bin} (hcl : cl < s.clusters.length) :
    ∀ e ∈ ((s.treeletBack cl b).cluster cl).bins, ¬ (e.2.kid = b.kid ∧ e.2.target = b.target) := by
  intro e he
  rw [State.treeletBack, State.cluster_updCluster_self _ _ _ hcl] at he
  simpa [Bin.sameKey, imp_iff_not_or] using (List.mem_filter.mp he).2

theorem State.treeletBack_trav {cl n : Nat} {b : Bin} {t : Thread} (hcl : cl < s.clusters.length)
    (hb : Table.get? (s.cluster cl).bins n = some b) (ht : t ∈ b.recs) :
    ∃ y, Table.get? ((s.treeletBack cl b).cluster cl).trav t.uid = some y := by
  rw [State.treeletBack, State.cluster_updCluster_self _ _ _ hcl]
  refine Table.get?_foldl_put (k := Thread.uid) (.inr ⟨t, ?_, rfl⟩)
  exact List.mem_flatMap.mpr ⟨(n, b), Table.mem_of_get? hb, by simpa [Bin.sameKey] using ht⟩

theorem treeletFetchComplete_run {x : ClItem} {s' : State} {b : Bin} {g : Grid} {va pa : Nat} (hr : Runs s x.cl.toNat)
    (hb : Table.get? (s.cluster x.cl.toNat).bins x.n = some b) (ht : b.target = .treelet va)
    (hg : Table.get? s.grids b.kid = some g) (he : g.ending = false)
    (hd : ∃ e ∈ (s.cluster x.cl.toNat).bins, e.2.kid = b.kid ∧ e.2.target = b.target ∧
      (e.2.aged = true ∨ (s.part (s.partOf g.ctx)).treeletNeed ≤ e.2.recs.length))
    (hu : (s.travUnit x.cl.toNat).2.unitPa (s.travUnit x.cl.toNat).1.via g.ctx va .read = (.ok pa, s')) :
    let s1 := s'.treeletHere (s.travUnit x.cl.toNat).1 x.cl.toNat g.ctx va pa
    exec (.treeletFetchComplete x) s =
      .next (if (s.ctx g.ctx).st = .running then s1.treeletBack x.cl.toNat b else s1) := by
  have hva : b.treeletVa = some va := by rw [Bin.treeletVa, ht]
  have hdue : ((s.cluster x.cl.toNat).bins.any fun e => (decide (e.2.kid = b.kid) && decide (e.2.target = b.target)) &&
      (e.2.aged || decide (e.2.recs.length ≥ (s.part (s.partOf g.ctx)).treeletNeed))) = true := by
    simpa [and_assoc] using hd
  intro s1
  rw [exec_treeletFetchComplete, execTreeletFetchComplete, hr.live]
  simp only [hb, hva, hg, hdue, he, hu, Bool.not_true, Bool.or_self, Bool.false_eq_true, if_false]
  split
  next hc => rw [if_neg (bne_iff_ne.mp hc)]; rfl
  next hc => rw [if_pos (by simpa using hc)]; rfl

end

theorem traversalEvents : Claim.TraversalEvents := by
  refine ⟨fun x s g t r hr ht => ⟨fun hc => ?_, fun hc => ?_, fun hc h5 hn => ?_, fun hn => ?_⟩,
    fun s core ctx g t r hcl => ?_, fun x s s' b g va pa hr hb ht hg he hd hu hcl => ?_⟩
  case refine_1 =>
    have hd := s.travUnit_drew x.cl.toNat
    exact ⟨s.unitFor x.cl.toNat t, (s.travUnit x.cl.toNat).2, s.travUnit_cl _, rfl, rfl, hd.mem, hd.clusters,
      traversalRun_runs hr ht hc⟩
  case refine_2 => exact traversalRun_stays hr ht hc
  case refine_3 =>
    have hd := (s.pick_drew (2 ^ 32)).trans ((s.pick (2 ^ 32)).2.travUnit_drew x.cl.toNat)
    refine ⟨(s.pick (2 ^ 32)).1, (s.pick (2 ^ 32)).2.unitFor x.cl.toNat t, ((s.pick (2 ^ 32)).2.travUnit x.cl.toNat).2,
      State.travUnit_cl _ x.cl.toNat, rfl, rfl, hd.mem, hd.clusters, (stepBudgetStop_runs hr ht hc h5 hn).trans ?_⟩
    rfl
  case refine_4 => exact stepBudgetStop_stays hr ht hn
  case refine_5 =>
    refine ⟨{ t with ray := some { r with stop := 5 } }, ?_, rfl, rfl⟩
    rw [State.settleRay, State.cluster_updCluster_self _ _ _ hcl, Table.get?_put_self]
  case refine_6 =>
    have hrun := treeletFetchComplete_run hr hb ht hg he hd hu
    dsimp only at hrun
    obtain ⟨htree, hbins, htrav, hlen, hmem⟩ :=
      State.treeletHere_comes (u := (s.travUnit x.cl.toNat).1) (ctx := g.ctx) (va := va) (pa := pa) hcl
    have hs' : (s'.cluster x.cl.toNat).bins = (s.cluster x.cl.toNat).bins := by
      have := State.unitPa_cluster_congr (f := Cluster.bins) (fun _ _ _ => rfl) (s.travUnit x.cl.toNat).2
        (s.travUnit x.cl.toNat).1.via g.ctx va .read x.cl.toNat
      rw [hu] at this
      rw [this, State.cluster, (s.travUnit_drew x.cl.toNat).clusters]
      rfl
    by_cases hc : (s.ctx g.ctx).st = .running
    · rw [if_pos hc] at hrun
      refine ⟨_, hrun, hmem, ?_, fun _ => ⟨?_, fun t ht => ?_⟩, fun h => absurd hc h⟩
      · rw [State.treeletBack, State.cluster_updCluster_self _ _ _ (hlen ▸ hcl)]
        exact htree
      · exact State.treeletBack_bins (hlen ▸ hcl)
      · exact State.treeletBack_trav (hlen ▸ hcl) (by rw [hbins, hs']; exact hb) ht
    · rw [if_neg hc] at hrun
      exact ⟨_, hrun, hmem, htree, fun h => absurd h hc, fun _ => ⟨hbins, htrav⟩⟩

/-- Settles O40: what traversal decides by each decision, its events by whether the context runs. -/
theorem traversal : Obligations.Traversal := ⟨traversalDecisions, traversalEvents⟩

end Sys2Proof.Machine

/-! ## Atomics (O11) -/

namespace Sys2Proof.Machine

/-! ### What an atomic stores (R251) -/

/-- The number that `atomOp` compares is the word in two's complement. -/
theorem signed_toNat {n : Nat} (hn : n = 32 ∨ n = 64) (m : BitVec n) :
    (if m.toNat ≥ 2 ^ (n - 1) then (m.toNat : Int) - 2 ^ n else m.toNat) = m.toInt := by
  rw [BitVec.toInt_eq_toNat_cond]
  obtain rfl | rfl := hn <;> split <;> split <;> omega

theorem atomicOperations : Claim.AtomicOperations := by
  intro n hn m x is
  have hs (a b : BitVec n) : a.slt b = decide (a.toInt < b.toInt) := rfl
  refine ⟨?_, ?_, ?_, ?_, ?_, ?_, ?_, ?_, ?_, ?_⟩
  case refine_1 => exact (BitVec.toNat_add m x).symm
  case refine_2 => exact (BitVec.toNat_and m x).symm
  case refine_3 => exact (BitVec.toNat_or m x).symm
  case refine_4 => exact (BitVec.toNat_xor m x).symm
  case refine_5 => rfl
  case refine_6 =>
    simp only [is, atomOp, signed_toNat hn, hs, decide_eq_true_eq]
    split <;> rfl
  case refine_7 =>
    simp only [is, atomOp, signed_toNat hn, hs, decide_eq_true_eq]
    split <;> rfl
  case refine_8 =>
    simp only [is, atomOp, BitVec.ult, decide_eq_true_eq]
    split <;> omega
  case refine_9 =>
    simp only [is, atomOp, BitVec.ult, decide_eq_true_eq]
    split <;> omega
  case refine_10 =>
    rintro rfl
    simp [is, atomOp]

/-! ### ATOM, RED and AMAXSWP (R250 to R254) -/

/-- ATOM, RED and AMAXSWP are one instruction, of their form, place and kind. -/
theorem AtomicIs.exec_eq {i : Instr} {f : Form} {sc : AScope} {im : Option Word} {a b : Src} {y : AtomKind}
    (h : AtomicIs i f sc im a b y) (s : State) : f.cluster = false ∧ exec i s = s.atomic f sc im a b y := by
  unfold AtomicIs at h
  split at h
  case h_4 => exact h.elim
  all_goals
    obtain ⟨rfl, rfl, rfl, rfl, rfl, rfl⟩ := h
    exact ⟨rfl, rfl⟩

/-- The place of an atomic's arrivals: the scratchpad's word has no level. -/
def placeLevel : AScope → Level
  | .sp => .b
  | .lvl x => x

/-- A lane's request of an atomic. -/
def atomReq (sc : AScope) (im : Option Word) (a b : Src) (n : Nat) (h : Here) (e : Nat × Thread) : Req :=
  if sc = .sp then scratchReq im a b n h e.1 e.2 else genericReq im a b n h e.1 e.2

section
variable {s s' : State} {h : Here} {ls : Table Thread} {accs : List Acc} {f : Form} {im : Option Word} {y : AtomKind}

/-- An atomic whose accesses pass is made on them. -/
theorem State.atomic_passes {sc : AScope} {a b : Src} (hf : f.cluster = false)
    (hi : Issues s { f with cluster := decide (sc = .sp) } h ls)
    (hp : Passes s h (ls.map (atomReq sc im a b (if y.wide then 8 else 4) h)) .write true accs s') :
    s.atomic f sc im a b y = .next (s'.atomicOn h f (placeLevel sc) ls im accs y) := by
  rw [← Bool.false_or (decide (sc = .sp)), ← hf] at hi
  unfold Passes at hp
  cases sc with
  | sp =>
    have hp : s.prepare h (ls.map fun e => scratchReq im a b (if y.wide then 8 else 4) h e.1 e.2) .write true =
      (.ok accs, s') := hp
    unfold State.atomic
    rw [hi.run]
    simp only [hp]
    rfl
  | lvl x =>
    have hp : s.prepare h (ls.map fun e => genericReq im a b (if y.wide then 8 else 4) h e.1 e.2) .write true =
      (.ok accs, s') := hp
    unfold State.atomic
    rw [hi.run]
    simp only [hp]
    rfl

/-- Each lane has its turn, in order. -/
theorem atomLanes_fst {x : Level} {k : AtomStep} {r : AtomOut} (hr : atomLanes accs s h x k = .ok r) :
    r.olds.map Prod.fst = accs ∧ r.reads.map Prod.fst = accs := by
  induction accs generalizing s r with
  | nil =>
    cases hr
    exact ⟨rfl, rfl⟩
  | cons a t ih =>
    simp only [atomLanes] at hr
    split at hr
    next => cases hr
    next =>
      split at hr
      next => cases hr
      next ht =>
        cases hr
        obtain ⟨ho, hd⟩ := ih ht
        exact ⟨congrArg (a :: ·) ho, congrArg (a :: ·) hd⟩

end

theorem atomicsComplete : Claim.AtomicsComplete := by
  intro f sc im a b y i s s' h ls accs r q hk n req x step hi hp hn hr hq events saw
  obtain ⟨hf, he⟩ := hk.exec_eq s
  have hx : x = (placeLevel sc) := rfl
  have hrun := he.trans (State.atomic_passes (y := y) (b := b) hf hi hp)
  unfold State.atomicOn at hrun
  simp only [hn] at hrun
  rw [← hx, hr, hq] at hrun
  dsimp only at hrun
  have hev (t : State) (l : List (Acc × Nat)) : events t l =
      if h.hand.isSome || y.d.isNone then t else t.atomEvents h (l.map fun e => (e.1.req.addr, e.2)) := by
    simp only [events, State.atomEvents, List.foldl_map]
  obtain ⟨ho, hd⟩ := atomLanes_fst hr
  refine ⟨ho, hd, fun h1 => ?_, fun h1 => ?_⟩
  · rw [hrun, if_pos h1, hev]
    rfl
  · rw [hrun, if_neg (by simp [h1]), hev]
    rfl

/-- Settles O11: the operations by the numbers they compare and add, the instructions by one run of the lanes' turns. -/
theorem atomics : Obligations.Atomics := ⟨atomicOperations, atomicsComplete⟩

end Sys2Proof.Machine

/-! ## Loads (O9)

R116 brings every byte that one load reads of a commit step to the step's own value, where another of its bytes came
from the step. That this value is one the order of D allows rests on the arrivals being listed in the order of their
positions. The state below lists them out of it, which no step of the machine leaves but a state may hold. -/

namespace Sys2Proof.Machine

/-- A commit step of bytes 0 and 1 at position 5, listed below an arrival of byte 0 at position 1. -/
def stepOutOfOrder : List Arrival :=
  let w (a : Nat) (x : Byte) : ByteWrite := { addr := a, new := x, old := 0, who := [], marks := [] }
  [{ pos := 1, tick := 0, party := .agent 0, step := false, makers := [], bytes := [w 0 0] },
   { pos := 5, tick := 0, party := .agent 0, step := true, makers := [], bytes := [w 0 9, w 1 0] }]

def outOfOrder : State := { State.reset with mem := { Memory.reset with log := stepOutOfOrder, pos := 5 } }

/-- A thread that has seen all that had reached D. -/
def seenAll : Thread := { handlerThread 10 0 0 0 with view := { floor := 5, bytes := [] } }

def outOfOrderHere : Here := { wave := Wave.ofThreads 0 1 0 [seenAll] 0, core := 0, slot := 0, hand := none }

/-- A load of bytes 0 and 1. -/
def twoBytes : Acc :=
  { req := { lane := 0, t := seenAll, addr := 0, space := .global 0, size := 2, form := false }, spot := .mem 0 none }

/-- Byte 1 comes from the commit step, so byte 0 takes the step's value. -/
theorem loadAll_outOfOrder : (outOfOrder.loadAll outOfOrderHere .plain [twoBytes]).1 = [(twoBytes, [9, 0])] := by
  decide +kernel

theorem chainFind_outOfOrder :
    outOfOrder.mem.chainFind (outOfOrder.linksOf outOfOrderHere twoBytes.req.t) .c (0 + 0) = none := by
  decide +kernel

/-- D holds 0 in byte 0, and its order allows the thread no other value. -/
theorem choices_outOfOrder : outOfOrder.mem.atD (0 + 0) = 0 ∧ (outOfOrder.mem.choices outOfOrder.tick twoBytes.req.t.uid
    (outOfOrder.dataFloor outOfOrderHere) twoBytes.req.t.view (0 + 0)).map Choice.val = [0] := by
  decide +kernel

/-- Refutes O9: where the arrivals at D are listed out of the order of their positions, a load that takes one byte from a
commit step takes of another the step's value (R116), which is neither D's nor one that D's order allows. -/
theorem not_loads : ¬ Obligations.Loads := by
  rintro ⟨-, -, hvalues, -⟩
  obtain ⟨-, hread⟩ := hvalues outOfOrder outOfOrderHere .plain [twoBytes] rfl
  have hbyte := (hread (twoBytes, [9, 0]) (loadAll_outOfOrder ▸ List.mem_singleton_self _)).2 0 (by decide)
  have hspot : twoBytes.spot = .mem 0 none := rfl
  simp only [hspot, chainFind_outOfOrder, choices_outOfOrder] at hbyte
  obtain ⟨h0 | ⟨-, -, h0⟩, -⟩ := hbyte <;> exact absurd h0 (by decide)

end Sys2Proof.Machine

/-! ## Stores and tile accesses (O10) -/

namespace Sys2Proof.Machine

/-! ### How loads and stores on checked accesses end -/

section
variable {i : Instr} {s0 s s' : State} {h : Here} {ls : Table Thread} {f : Form} {accs : List Acc}

/-- An instruction that performs checked loads, none of which meets a poisoned line, ends as a load does. -/
theorem State.finishLoad_ends {k : LoadKind} {d : BitVec 8} {z : Size}
    (he : exec i s0 = .next (s.finishLoad h f k d.toNat z ls accs)) (hp : poisonHit s h accs = none) :
    LoadEnds i s0 s h ls f k d z accs := by
  unfold State.finishLoad at he
  simp only [hp] at he
  exact ⟨fun h1 => by rw [he, if_pos h1], fun h1 => by rw [he, if_neg (by simp [h1])]⟩

/-- An instruction that performs checked stores ends as a store does. -/
theorem State.finishStore_ends {x : Level} {ps : List Put} (he : exec i s0 = .next (s.finishStore h f x ps)) :
    StoreEnds i s0 s h f x ps := by
  unfold State.finishStore at he
  refine ⟨fun hr => ?_, fun hr s1 h1 => ⟨fun hone => ?_, fun hone s2 h2 => ?_⟩⟩
  · simpa only [hr, if_true] using he
  · simpa only [hr, h1, hone, Bool.false_eq_true, if_true, if_false] using he
  · simpa only [hr, h1, hone, h2, Bool.false_eq_true, if_false] using he

/-- Accesses to ready tiles that pass are made. -/
theorem State.tiled_ready {tile n : Nat} {im : Option Word} {a b : Src} {kind : Access} (hi : Issues s f h ls)
    (ht : TileReady s h ls tile im a b n kind accs s') (k : State → Here → Table Thread → List Acc → State) :
    s.tiled f tile im a b n kind k = .next (k s' h ls accs) := by
  obtain ⟨te, hte, hp⟩ := ht
  have hblock : (ls.find? fun e => (s.blockOf e.2).isNone) = none := by
    refine List.find?_eq_none.mpr fun e he => ?_
    obtain ⟨blk, hn, -⟩ := hte e he
    unfold State.tileNamed at hn
    cases hb : s.blockOf e.2 with
    | none => rw [hb] at hn; cases hn
    | some => simp
  have hal : (ls.find? fun e => scratchOff h.wave im e.2 a b % (n : Int) != 0) = none := by
    refine List.find?_eq_none.mpr fun e he => ?_
    obtain ⟨blk, -, -, hz, -⟩ := hte e he
    simp [hz]
  have hnamed : (ls.find? fun e => (s.tileNamed e.2 tile).isNone) = none := by
    refine List.find?_eq_none.mpr fun e he => ?_
    obtain ⟨blk, hn, -⟩ := hte e he
    simp [hn]
  have hentry : ∀ e ∈ ls, ((s.tileNamed e.2 tile).map Prod.snd).getD { base := 0, count := 0 } = te e := by
    intro e he
    obtain ⟨blk, hn, -⟩ := hte e he
    rw [hn]
    rfl
  have hrange : (ls.find? fun e => scratchOff h.wave im e.2 a b < 0 || scratchOff h.wave im e.2 a b + (n : Int) >
      (((((s.tileNamed e.2 tile).map Prod.snd).getD { base := 0, count := 0 }).count + 1) * 128 : Nat)) = none := by
    refine List.find?_eq_none.mpr fun e he => ?_
    obtain ⟨blk, -, -, -, hlo, hhi⟩ := hte e he
    rw [hentry e he]
    simp only [Bool.or_eq_true, decide_eq_true_eq, not_or]
    omega
  have hreqs : (ls.map fun e => ({
      lane := e.1, t := e.2, addr := offAddr (scratchOff h.wave im e.2 a b)
      space := .scratch (scratchOff h.wave im e.2 a b +
        128 * (((s.tileNamed e.2 tile).map Prod.snd).getD { base := 0, count := 0 }).base)
      size := n, form := true } : Req)) = ls.map fun e => tileReq h im a b n (te e) e :=
    List.map_congr_left fun e he => by rw [hentry e he]; rfl
  have hready : (ls.all fun e => s.tileReady e.2 tile) = true := by
    refine List.all_eq_true.mpr fun e he => ?_
    obtain ⟨blk, hn, hst, -⟩ := hte e he
    simp [State.tileReady, hn, hst]
  unfold Passes at hp
  rw [State.tiled, hi.run]
  simp only [hblock, hal, hnamed, hrange, hreqs, hp, hready, if_true]

end

theorem tileAccessesComplete : Claim.TileAccessesComplete := by
  refine ⟨?_, ?_, ?_⟩
  case refine_1 =>
    intro x s s' h ls accs hi ht hp
    refine State.finishLoad_ends ?_ hp
    rw [exec_ldt, execLdt]
    exact State.tiled_ready hi ht _
  case refine_2 =>
    intro x s s' h ls accs f hi ht
    refine State.finishStore_ends ?_
    rw [exec_stt, execStt]
    exact State.tiled_ready hi ht _
  case refine_3 =>
    intro x s s' h ls accs f hi hp full r
    have he := exec_ldf (x := x) s
    unfold Passes at hp
    rw [execLdf, hi.run] at he
    simp only [hp] at he
    exact ⟨fun h1 => he.trans (by rw [if_pos h1]), fun h1 => he.trans (by rw [if_neg (by simp [h1])])⟩

theorem storesComplete : Claim.StoresComplete := by
  refine ⟨?_, ?_, ?_⟩
  case refine_1 =>
    intro x s s' h ls accs puts f fs
    unfold Passes
    refine ⟨fun hi hp => State.finishStore_ends ?_, fun hi hp => State.finishStore_ends ?_⟩
    · rw [exec_st, execSt, State.storeInstr, hi.run]
      simp only [hp]
      rfl
    · rw [exec_sts, execSts, State.storeInstr, hi.run]
      simp only [hp]
      rfl
  case refine_2 =>
    intro x s s' h ls accs hi hp hb
    refine ⟨accs.filterMap fun a => a.scr.map (· / 128), ?_, fun n => ?_, fun hc hrow n hn => ?_⟩
    · unfold Passes at hp
      rw [exec_sete, execSete, hi.run]
      simp only [hp, hb, Bool.false_eq_true, if_false]
    · simp only [List.mem_filterMap, Option.map_eq_some_iff, Acc.scr]
      refine exists_congr fun a => and_congr_right fun _ => ?_
      cases a.spot <;> simp [eq_comm]
    · refine (State.mem_empty_setLines hc hn).mpr (.inr ?_)
      rintro ⟨e, he, -, -, hlt, -⟩
      exact absurd (hrow e he) (Nat.not_le.mpr hlt)
  case refine_3 =>
    intro x s h ls hi
    rw [exec_pref, execPref, hi.run]

end Sys2Proof.Machine

/-! ## Where a store arrives (O10) -/

namespace Sys2Proof.Machine

/-! ### Bytes of an entry, a buffer and a party -/

theorem BufEntry.putByte_tag (e : BufEntry) (x : BufByte) : (e.putByte x).tag = e.tag := by
  unfold BufEntry.putByte
  split <;> rfl

/-- An entry holds the byte put into it, and its other bytes as before. -/
theorem BufEntry.find?_putByte (e : BufEntry) (x : BufByte) (a : Nat) :
    (((e.putByte x).bytes.find? fun y => y.addr = a).map BufByte.val) =
      if a = x.addr then some x.val else (e.bytes.find? fun y => y.addr = a).map BufByte.val := by
  unfold BufEntry.putByte
  split
  next hn =>
    simp only [List.find?_append]
    split
    next ha => subst ha; simp [hn]
    next ha => simp [Ne.symm ha]
  next y hy =>
    have hp : ((fun y : BufByte => decide (y.addr = a)) ∘ fun y => if y.addr = x.addr then
        { x with who := addWho x.who y.who, marks := addMarks x.marks y.marks } else y) =
        fun y => decide (y.addr = a) := by
      funext z
      simp only [Function.comp_apply]
      split
      next hz => rw [hz]
      next => rfl
    simp only [List.find?_map, hp, Option.map_map]
    split
    next ha => subst ha; simp [hy, by simpa using List.find?_some hy]
    next ha =>
      cases hz : e.bytes.find? fun y => decide (y.addr = a) with
      | none => rfl
      | some z =>
        have : z.addr = a := by simpa using List.find?_some hz
        simp [this, ha]

/-- The value of a byte that a buffer holds. -/
def Buf.valAt (b : Buf) (a : Nat) : Option Byte := (b.find a).map BufByte.val

/-- A buffer with a byte put into the entries of its tag. -/
def Buf.putEntry (b : Buf) (x : BufByte) : Buf :=
  { b with entries := b.entries.map fun e => if e.tag = x.addr / entrySize b.level then e.putByte x else e }

theorem Buf.any_tag_of_find {b : Buf} {a : Nat} (h : (b.find a).isSome = true) :
    (b.entries.any fun e => e.tag = a / entrySize b.level) = true := by
  simp only [Buf.find] at h
  cases he : b.entries.find? fun e => decide (e.tag = a / entrySize b.level) with
  | none => simp [he] at h
  | some e => exact List.any_eq_true.mpr ⟨e, List.mem_of_find?_eq_some he, by simpa using List.find?_some he⟩

/-- Putting a byte into entries leaves their tags. -/
theorem Buf.find?_putEntry (b : Buf) (x : BufByte) (n : Nat) :
    ((b.putEntry x).entries.find? fun e => e.tag = n) = (b.entries.find? fun e => e.tag = n).map fun e =>
      if e.tag = x.addr / entrySize b.level then e.putByte x else e := by
  rw [Buf.putEntry, List.find?_map]
  congr 2
  funext e
  simp only [Function.comp_apply]
  split
  · rw [BufEntry.putByte_tag]
  · rfl

theorem Buf.valAt_putEntry (b : Buf) (x : BufByte) (a : Nat) : (b.putEntry x).valAt a =
    if a = x.addr ∧ (b.entries.any fun e => e.tag = x.addr / entrySize b.level) = true then some x.val
    else b.valAt a := by
  have hlevel : (b.putEntry x).level = b.level := rfl
  simp only [Buf.valAt, Buf.find, Buf.find?_putEntry, hlevel]
  cases he : b.entries.find? fun e => decide (e.tag = a / entrySize b.level) with
  | none =>
    rw [if_neg]
    · rfl
    · rintro ⟨rfl, hany⟩
      rw [List.find?_eq_none] at he
      obtain ⟨e, hm, ht⟩ := List.any_eq_true.mp hany
      exact he e hm ht
  | some e =>
    have ht : e.tag = a / entrySize b.level := by simpa using List.find?_some he
    have hmem := List.mem_of_find?_eq_some he
    simp only [Option.map_some]
    by_cases ha : a = x.addr
    · subst ha
      have hany : (b.entries.any fun e => e.tag = x.addr / entrySize b.level) = true :=
        List.any_eq_true.mpr ⟨e, hmem, by simpa using ht⟩
      rw [if_pos ht, if_pos ⟨rfl, hany⟩, BufEntry.find?_putByte, if_pos rfl]
    · rw [if_neg (show ¬ (a = x.addr ∧ _) from fun h => ha h.1)]
      split
      · rw [BufEntry.find?_putByte, if_neg ha]
      · rfl

/-- What a buffer reads does not depend on which entries are in the log. -/
theorem Buf.valAt_eq (b : Buf) (a : Nat) : b.valAt a =
    (((b.entries.map fun e => (e.tag, e.bytes)).find? fun e => e.1 = a / entrySize b.level).bind
      fun e => e.2.find? fun y => y.addr = a).map BufByte.val := by
  have hp : ((fun e : Nat × List BufByte => decide (e.1 = a / entrySize b.level)) ∘ fun e : BufEntry =>
      (e.tag, e.bytes)) = fun e => decide (e.tag = a / entrySize b.level) := rfl
  simp only [Buf.valAt, Buf.find, List.find?_map, hp]
  cases b.entries.find? fun e => decide (e.tag = a / entrySize b.level) <;> rfl

/-- A buffer with the entries `es` and a new one for a byte. -/
def Buf.addEntry (b : Buf) (es : List BufEntry) (inLog : Bool) (x : BufByte) : Buf :=
  { b with entries := es ++ [{ tag := x.addr / entrySize b.level, inLog := inLog, bytes := [x] }] }

/-- A new entry, whose tag no other has, adds its byte to what the buffer holds. -/
theorem Buf.valAt_addEntry (b : Buf) (x : BufByte) (inLog : Bool) {es : List BufEntry}
    (hes : es.map (fun e => (e.tag, e.bytes)) = b.entries.map fun e => (e.tag, e.bytes))
    (hn : (b.entries.any fun e => e.tag = x.addr / entrySize b.level) = false) (a : Nat) :
    (b.addEntry es inLog x).valAt a = if a = x.addr then some x.val else b.valAt a := by
  have hnone : ((b.entries.map fun e => (e.tag, e.bytes)).find? fun e =>
      decide (e.1 = x.addr / entrySize b.level)) = none := by
    rw [List.find?_map, Option.map_eq_none_iff, List.find?_eq_none]
    exact fun e he => by simpa using List.any_eq_false.mp hn e he
  simp only [Buf.valAt_eq, Buf.addEntry, List.map_append, hes, List.find?_append]
  by_cases ha : a = x.addr
  · subst ha
    simp [hnone]
  · rw [if_neg ha]
    by_cases ht : x.addr / entrySize b.level = a / entrySize b.level
    · rw [← ht, hnone]
      simp [Ne.symm ha]
    · simp [ht]

theorem spillOldest_bytes {l es : List BufEntry} (h : spillOldest l = some es) :
    es.map (fun e => (e.tag, e.bytes)) = l.map fun e => (e.tag, e.bytes) := by
  induction l generalizing es with
  | nil => cases h
  | cons e l ih =>
    simp only [spillOldest] at h
    split at h
    next =>
      obtain ⟨es', he, rfl⟩ := Option.map_eq_some_iff.mp h
      rw [List.map_cons, List.map_cons, ih he]
    next =>
      cases h
      rfl

/-- The value of a byte that a party's buffer holds. -/
def Memory.valIn (m : Memory) (p : Party) (a : Nat) : Option Byte := (m.held p a).map BufByte.val

theorem Memory.valIn_eq (m : Memory) (p : Party) (a : Nat) : m.valIn p a = (bufFind m.bufs p).bind fun b => b.valAt a := by
  unfold Memory.valIn Memory.held Buf.valAt
  cases bufFind m.bufs p <;> rfl

/-- Two memories hold the same bytes at D. -/
def Memory.SameD (m t : Memory) : Prop := t.cells = m.cells ∧ t.dirty = m.dirty

theorem Memory.SameD.atD {m t : Memory} (h : m.SameD t) (a : Nat) : t.atD a = m.atD a := by
  obtain ⟨hc, hd⟩ := h
  simp only [Memory.atD, hc, hd]

theorem Memory.SameD.trans {m t u : Memory} (h : m.SameD t) (h' : t.SameD u) : m.SameD u :=
  ⟨h'.1.trans h.1, h'.2.trans h.2⟩

@[simp] theorem Memory.noteLog_bufs (m : Memory) (kid : Nat) (p : Party) (tag : Nat) (write : Bool) :
    (m.noteLog kid p tag write).bufs = m.bufs := by
  unfold Memory.noteLog
  split <;> rfl

theorem Memory.noteLog_sameD (m : Memory) (kid : Nat) (p : Party) (tag : Nat) (write : Bool) :
    m.SameD (m.noteLog kid p tag write) := by
  unfold Memory.noteLog
  split <;> exact ⟨rfl, rfl⟩

/-! ### Lower copies (R121) -/

theorem Memory.fixLower_frame (m : Memory) (ps : List Party) (x : BufByte) : m.SameD (m.fixLower ps x) ∧
    (m.fixLower ps x).bufs = m.bufs.map fun b =>
      if b.party ∈ ps && (b.find x.addr).isSome then b.putEntry x else b := by
  unfold Memory.fixLower
  have hfold (l : List Buf) : ∀ m : Memory, m.SameD (l.foldl (fun m b =>
      m.noteLog b.kid b.party (x.addr / entrySize b.level) true) m) ∧ (l.foldl (fun m b =>
      m.noteLog b.kid b.party (x.addr / entrySize b.level) true) m).bufs = m.bufs := by
    induction l with
    | nil => exact fun m => ⟨⟨rfl, rfl⟩, rfl⟩
    | cons b l ih =>
      intro m
      obtain ⟨hd, hb⟩ := ih (m.noteLog b.kid b.party (x.addr / entrySize b.level) true)
      exact ⟨(m.noteLog_sameD _ _ _ _).trans hd, hb.trans (Memory.noteLog_bufs _ _ _ _ _)⟩
  obtain ⟨hd, hb⟩ := hfold (m.bufs.filter fun b => b.party ∈ ps && (b.find x.addr).isSome) m
  exact ⟨hd, congrArg _ hb⟩

/-- A store fixes its byte in the lower buffers that hold it, and leaves every other byte of every buffer. -/
theorem Memory.valIn_fixLower (m : Memory) (ps : List Party) (x : BufByte) (p : Party) (a : Nat) :
    (m.fixLower ps x).valIn p a =
      if a = x.addr ∧ p ∈ ps then (m.valIn p a).map fun _ => x.val else m.valIn p a := by
  have hparty (b : Buf) : (if b.party ∈ ps && (b.find x.addr).isSome then b.putEntry x else b).party = b.party := by
    split <;> rfl
  rw [Memory.valIn_eq, Memory.valIn_eq, (m.fixLower_frame ps x).2, bufFind_map hparty]
  cases hb : bufFind m.bufs p with
  | none => simp
  | some b =>
    have hp := bufFind_party hb
    simp only [Option.map_some, Option.bind_some]
    cases hf : (b.find x.addr).isSome with
    | true =>
      obtain ⟨v, hv⟩ : ∃ v, b.valAt x.addr = some v := by
        obtain ⟨y, hy⟩ := Option.isSome_iff_exists.mp hf
        exact ⟨y.val, by rw [Buf.valAt, hy]; rfl⟩
      by_cases hps : p ∈ ps
      · simp only [hp, hps, decide_true, Bool.and_self, if_true, Buf.valAt_putEntry, Buf.any_tag_of_find hf, and_true]
        split
        next ha => rw [ha, hv]; rfl
        next => rfl
      · simp [hp, hps]
    | false =>
      have hv : b.valAt x.addr = none := by
        rw [Buf.valAt, show b.find x.addr = none by simpa using hf]
        rfl
      simp only [Bool.and_false, Bool.false_eq_true, if_false]
      split
      next ha => rw [ha.1, hv]; rfl
      next => rfl

/-! ### Arrivals in a buffer (R118) -/

/-- The buffer of a site stands there: a party's buffer has the site's level. -/
def Memory.SitsAt (m : Memory) (s : Site) : Prop := ∃ b, bufFind m.bufs s.party = some b ∧ b.level = s.level

theorem Memory.level_bufAt (m : Memory) (s : Site) : (m.bufAt s).level = s.level := by
  unfold Memory.bufAt
  split <;> rfl

theorem Memory.SitsAt.valIn {m : Memory} {s : Site} (h : m.SitsAt s) (a : Nat) :
    m.valIn s.party a = (m.bufAt s).valAt a := by
  obtain ⟨b, hb, hl⟩ := h
  simp only [Memory.valIn_eq, hb, Option.bind_some, Memory.bufAt, Buf.valAt, Buf.find, hl]

/-- A memory in which a buffer of a site has been put back. -/
theorem Memory.valIn_of_bufs {m t : Memory} {b : Buf} (h : t.bufs = bufPut m.bufs b) (p : Party) (a : Nat) :
    t.valIn p a = if b.party = p then b.valAt a else m.valIn p a := by
  rw [Memory.valIn_eq, Memory.valIn_eq, h, bufFind_bufPut]
  split <;> rfl

/-- An arrival of a byte in the buffer of a site: the buffer that it leaves there. -/
theorem Memory.putByte_cases {m t : Memory} {s : Site} {x : BufByte} (h : m.putByte s x = some t) :
    m.SameD t ∧ ∃ b, b.party = s.party ∧ b.level = s.level ∧ t.bufs = bufPut m.bufs b ∧
      ∀ a, b.valAt a = if a = x.addr then some x.val else (m.bufAt s).valAt a := by
  have hl := m.level_bufAt s
  have hp := m.party_bufAt s
  simp only [Memory.putByte] at h
  split at h
  next hany =>
    obtain rfl := Option.some.inj h
    rw [← hl] at hany ⊢
    refine ⟨Memory.noteLog_sameD _ _ _ _ _, (m.bufAt s).putEntry x, hp, rfl, Memory.noteLog_bufs _ _ _ _ _, fun a => ?_⟩
    rw [Buf.valAt_putEntry]
    simp only [hany, and_true]
  next hany =>
    rw [← hl] at hany
    have hn : ((m.bufAt s).entries.any fun e => e.tag = x.addr / entrySize (m.bufAt s).level) = false := by
      simpa using hany
    split at h
    next =>
      obtain rfl := Option.some.inj h
      refine ⟨⟨rfl, rfl⟩, (m.bufAt s).addEntry (m.bufAt s).entries false x, hp, hl, ?_, Buf.valAt_addEntry _ _ _ rfl hn⟩
      rw [Buf.addEntry, hl]
    next =>
      split at h
      next =>
        split at h
        next es hes =>
          obtain rfl := Option.some.inj h
          refine ⟨Memory.noteLog_sameD _ _ _ _ _, (m.bufAt s).addEntry es false x, hp, hl, ?_,
            Buf.valAt_addEntry _ _ _ (spillOldest_bytes hes) hn⟩
          rw [Memory.noteLog_bufs, Buf.addEntry, hl]
        next =>
          obtain rfl := Option.some.inj h
          refine ⟨Memory.noteLog_sameD _ _ _ _ _, (m.bufAt s).addEntry (m.bufAt s).entries true x, hp, hl, ?_,
            Buf.valAt_addEntry _ _ _ rfl hn⟩
          rw [Memory.noteLog_bufs, Buf.addEntry, hl]
      next => cases h

theorem Memory.putByte_sits {m t : Memory} {s : Site} {x : BufByte} (h : m.putByte s x = some t) : t.SitsAt s := by
  obtain ⟨-, b, hp, hl, hb, -⟩ := Memory.putByte_cases h
  refine ⟨b, ?_, hl⟩
  rw [hb, bufFind_bufPut, if_pos hp]

/-- What a party holds after an arrival in the buffer of a site. -/
theorem Memory.valIn_putByte {m t : Memory} {s : Site} {x : BufByte} (h : m.putByte s x = some t) (p : Party) (a : Nat) :
    t.valIn p a = if p = s.party then (if a = x.addr then some x.val else (m.bufAt s).valAt a) else m.valIn p a := by
  obtain ⟨-, b, hp, -, hb, hv⟩ := Memory.putByte_cases h
  rw [Memory.valIn_of_bufs hb, hp, hv]
  simp only [eq_comm]

/-- Arrivals leave the other parties' buffers, and D. -/
theorem Memory.putBytes_frame {m t : Memory} {s : Site} {l : List BufByte} (h : m.putBytes s l = some t) :
    m.SameD t ∧ ∀ p, p ≠ s.party → ∀ a, t.valIn p a = m.valIn p a := by
  induction l generalizing m with
  | nil =>
    cases h
    exact ⟨⟨rfl, rfl⟩, fun _ _ _ => rfl⟩
  | cons x l ih =>
    simp only [Memory.putBytes] at h
    split at h
    next m1 h1 =>
      obtain ⟨hd, hf⟩ := ih h
      exact ⟨(Memory.putByte_cases h1).1.trans hd, fun p hp a => by rw [hf p hp, Memory.valIn_putByte h1, if_neg hp]⟩
    next => cases h

/-- Arrivals of other bytes leave a byte where the buffer stands. -/
theorem Memory.valIn_putBytes_of_not_mem {m t : Memory} {s : Site} {l : List BufByte} (h : m.putBytes s l = some t)
    (hs : m.SitsAt s) {a : Nat} (ha : a ∉ l.map BufByte.addr) : t.SitsAt s ∧ t.valIn s.party a = m.valIn s.party a := by
  induction l generalizing m with
  | nil =>
    cases h
    exact ⟨hs, rfl⟩
  | cons x l ih =>
    simp only [Memory.putBytes] at h
    split at h
    next m1 h1 =>
      simp only [List.map_cons, List.mem_cons, not_or] at ha
      obtain ⟨hs', hv⟩ := ih h (Memory.putByte_sits h1) ha.2
      refine ⟨hs', ?_⟩
      rw [hv, Memory.valIn_putByte h1, if_pos rfl, if_neg ha.1, hs.valIn]
    next => cases h

/-- The bytes that arrive stand in the buffer. -/
theorem Memory.valIn_putBytes {m t : Memory} {s : Site} {l : List BufByte} (h : m.putBytes s l = some t)
    (hn : (l.map BufByte.addr).Nodup) {x : BufByte} (hx : x ∈ l) :
    t.SitsAt s ∧ t.valIn s.party x.addr = some x.val := by
  induction l generalizing m with
  | nil => cases hx
  | cons y l ih =>
    simp only [Memory.putBytes] at h
    rw [List.map_cons, List.nodup_cons] at hn
    split at h
    next m1 h1 =>
      rcases List.mem_cons.mp hx with rfl | hx
      · obtain ⟨hs, hv⟩ := Memory.valIn_putBytes_of_not_mem h (Memory.putByte_sits h1) hn.1
        exact ⟨hs, by rw [hv, Memory.valIn_putByte h1, if_pos rfl, if_pos rfl]⟩
      · exact ih h hn.2 hx
    next => cases h

/-- Noting who brought words changes no byte of a buffer that stands at its site. -/
theorem Memory.valIn_noteWords {m : Memory} {s : Site} (hs : m.SitsAt s) (who : Party) (addrs : List Nat) (p : Party)
    (a : Nat) : (m.noteWords s who addrs).valIn p a = m.valIn p a := by
  rw [Memory.valIn_of_bufs rfl]
  dsimp only
  rw [m.party_bufAt]
  split
  next hp => subst hp; exact (hs.valIn a).symm
  next => rfl

/-! ### Stores in the buffers of a chain (R120, R121) -/

/-- The bytes of a store as a buffer takes them. -/
def bufBytes (bs : List NewByte) : List BufByte :=
  bs.map fun b => { addr := b.addr, val := b.val, who := b.who, marks := b.marks }

theorem addr_bufBytes (bs : List NewByte) : (bufBytes bs).map BufByte.addr = bs.map NewByte.addr := by
  simp [bufBytes, Function.comp_def]

/-- The copies that some parties' buffers hold of the bytes of a store are fixed. -/
def Memory.fixAll (m : Memory) (ps : List Party) (l : List BufByte) : Memory := l.foldl (fun m y => m.fixLower ps y) m

theorem Memory.fixAll_sameD (m : Memory) (ps : List Party) (l : List BufByte) : m.SameD (m.fixAll ps l) :=
  List.foldlRecOn (motive := fun t : Memory => m.SameD t) l _ ⟨rfl, rfl⟩ fun t ht y _ => ht.trans (t.fixLower_frame ps y).1

theorem Memory.valIn_fixAll_of_not_mem (m : Memory) (ps : List Party) {l : List BufByte} {a : Nat}
    (ha : a ∉ l.map BufByte.addr) (p : Party) : (m.fixAll ps l).valIn p a = m.valIn p a := by
  induction l generalizing m with
  | nil => rfl
  | cons y l ih =>
    rw [List.map_cons, List.mem_cons, not_or] at ha
    rw [Memory.fixAll, List.foldl_cons]
    exact (ih (m.fixLower ps y) ha.2).trans (by rw [Memory.valIn_fixLower, if_neg fun h => ha.1 h.1])

/-- A buffer holds no value of a byte but the one given. -/
def Memory.HoldsOnly (m : Memory) (p : Party) (a : Nat) (v : Byte) : Prop := ∀ y, m.valIn p a = some y → y = v

theorem Memory.holdsOnly_fixAll (m : Memory) {ps : List Party} {l : List BufByte} (hn : (l.map BufByte.addr).Nodup)
    {x : BufByte} (hx : x ∈ l) {p : Party} (hp : p ∈ ps) : (m.fixAll ps l).HoldsOnly p x.addr x.val := by
  induction l generalizing m with
  | nil => cases hx
  | cons y l ih =>
    rw [List.map_cons, List.nodup_cons] at hn
    rcases List.mem_cons.mp hx with rfl | hx
    · intro z hz
      have h := (m.fixLower ps x).valIn_fixAll_of_not_mem ps hn.1 p
      rw [Memory.valIn_fixLower, if_pos ⟨rfl, hp⟩] at h
      obtain ⟨w, -, rfl⟩ := Option.map_eq_some_iff.mp (h.symm.trans hz)
      rfl
    · exact ih (m.fixLower ps y) hn.2 hx

section
variable {m t : Memory} {s : Site} {bs : List NewByte} {b : NewByte}

/-- The bytes of a store stand in the buffer in which they arrive. -/
theorem Memory.valIn_putNew (h : m.putBytes s (bufBytes bs) = some t) (hn : (bs.map NewByte.addr).Nodup) (hb : b ∈ bs) :
    t.SitsAt s ∧ t.valIn s.party b.addr = some b.val :=
  Memory.valIn_putBytes h ((addr_bufBytes bs).symm ▸ hn)
    (List.mem_map_of_mem (f := fun b : NewByte => ({ addr := b.addr, val := b.val, who := b.who, marks := b.marks } : BufByte)) hb)

/-- The storer's lower buffers hold no other value of the bytes of a store. -/
theorem Memory.holdsOnly_putNew {ps : List Party} (h : (m.fixAll ps (bufBytes bs)).putBytes s (bufBytes bs) = some t)
    (hn : (bs.map NewByte.addr).Nodup) (hb : b ∈ bs) {p : Party} (hp : p ∈ ps) : t.HoldsOnly p b.addr b.val := by
  intro y hy
  by_cases hs : p = s.party
  · subst hs
    rw [(Memory.valIn_putNew h hn hb).2] at hy
    exact (Option.some.inj hy).symm
  · rw [(Memory.putBytes_frame h).2 p hs] at hy
    exact m.holdsOnly_fixAll ((addr_bufBytes bs).symm ▸ hn)
      (List.mem_map_of_mem (f := fun b : NewByte => ({ addr := b.addr, val := b.val, who := b.who, marks := b.marks } : BufByte)) hb) hp y hy

end

/-- What the B and G buffers of a chain give for a byte. -/
def Memory.aboveC (m : Memory) (k : Links) (a : Nat) : Option Byte :=
  match k.b with
  | some s => (m.valIn s.party a).or (m.valIn k.g.party a)
  | none => m.valIn k.g.party a

theorem Memory.chainVal_c (m : Memory) (k : Links) (a : Nat) :
    (m.chainFind k .c a).map BufByte.val = (m.valIn k.c.party a).or (m.aboveC k a) := by
  obtain ⟨chain, c, b, g⟩ := k
  cases b <;> simp [Memory.chainFind, Links.level, Memory.aboveC, Memory.valIn, Option.map_or]

theorem Memory.HoldsOnly.or {m : Memory} {p : Party} {a : Nat} {v : Byte} {o : Option Byte} (h : m.HoldsOnly p a v)
    (ho : o = some v) : (m.valIn p a).or o = some v := by
  cases hy : m.valIn p a with
  | none => simpa using ho
  | some y => rw [h y hy, Option.some_or]

theorem Memory.chainVal_of_level (m : Memory) {k : Links} {x : Level} (hl : k.level x = .c) (a : Nat) :
    m.chainFind k x a = m.chainFind k .c a := by
  have hc : k.level .c = .c := by simp only [Links.level]
  simp only [Memory.chainFind, hl, hc]

theorem Memory.chainVal_b (m : Memory) {k : Links} {s : Site} (hb : k.b = some s) (a : Nat) :
    (m.chainFind k .b a).map BufByte.val = (m.valIn s.party a).or (m.valIn k.g.party a) := by
  simp only [Memory.chainFind, Links.level, hb, Memory.valIn, Option.map_or]

theorem Memory.chainVal_g (m : Memory) (k : Links) (a : Nat) :
    (m.chainFind k .g a).map BufByte.val = m.valIn k.g.party a := by
  simp only [Memory.chainFind, Links.level, Memory.valIn]

/-- What a store at C, B or G can do: it arrives in the C buffer, for a ray at B too; or, its lower copies fixed, in the
B or the G buffer. -/
theorem Memory.store_cases {m t : Memory} {now : Nat} {k : Links} {x : Level} {bs : List NewByte}
    (h : m.store now k x bs = .ok t) (hx : x = .c ∨ x = .b ∨ x = .g) :
    (k.level x = .c ∧ m.putBytes k.c (bufBytes bs) = some t) ∨
    (∃ s u, x = .b ∧ k.b = some s ∧ (m.fixAll [k.c.party] (bufBytes bs)).putBytes s (bufBytes bs) = some u ∧
      t = u.noteWords s k.c.party (bs.map NewByte.addr)) ∨
    ∃ u, x = .g ∧ (m.fixAll (k.below .g) (bufBytes bs)).putBytes k.g (bufBytes bs) = some u ∧
      t = u.noteWords k.g k.chain.b (bs.map NewByte.addr) := by
  rcases hx with rfl | rfl | rfl
  · simp only [Memory.store, Links.level] at h
    split at h
    next hu =>
      cases h
      exact .inl ⟨by simp only [Links.level], hu⟩
    next => cases h
  · cases hkb : k.b with
    | none =>
      simp only [Memory.store, Links.level, hkb] at h
      split at h
      next hu =>
        cases h
        exact .inl ⟨by simp only [Links.level, hkb], hu⟩
      next => cases h
    | some s =>
      simp only [Memory.store, Links.level, hkb] at h
      split at h
      next u hu =>
        cases h
        exact .inr (.inl ⟨s, u, rfl, rfl, hu, rfl⟩)
      next => cases h
  · simp only [Memory.store, Links.level] at h
    split at h
    next u hu =>
      cases h
      exact .inr (.inr ⟨u, rfl, hu, rfl⟩)
    next => cases h

/-- A store at C, B or G arrives in the buffer of its level, where its bytes stand, and below which the storer's chain
holds no other value of them; D is as it was. -/
theorem Memory.store_found {m t : Memory} {now : Nat} {k : Links} {x : Level} {bs : List NewByte}
    (h : m.store now k x bs = .ok t) (hx : x = .c ∨ x = .b ∨ x = .g) (hn : (bs.map NewByte.addr).Nodup) :
    m.SameD t ∧ ∀ b ∈ bs, (t.chainFind k x b.addr).map BufByte.val = some b.val ∧
      (t.chainFind k .c b.addr).map BufByte.val = some b.val := by
  rcases Memory.store_cases h hx with ⟨hl, hu⟩ | ⟨s, u, rfl, hs, hu, rfl⟩ | ⟨u, rfl, hu, rfl⟩
  · refine ⟨(Memory.putBytes_frame hu).1, fun b hb => ?_⟩
    have hv : (t.chainFind k .c b.addr).map BufByte.val = some b.val := by
      rw [Memory.chainVal_c, (Memory.valIn_putNew hu hn hb).2, Option.some_or]
    exact ⟨t.chainVal_of_level hl _ ▸ hv, hv⟩
  · refine ⟨(m.fixAll_sameD _ _).trans (Memory.putBytes_frame hu).1, fun b hb => ?_⟩
    obtain ⟨hsits, hv⟩ := Memory.valIn_putNew hu hn hb
    have hnote := Memory.valIn_noteWords hsits k.c.party (bs.map NewByte.addr)
    have hfound : (u.valIn s.party b.addr).or (u.valIn k.g.party b.addr) = some b.val := by rw [hv, Option.some_or]
    refine ⟨by rw [Memory.chainVal_b _ hs, hnote, hnote, hfound], ?_⟩
    rw [Memory.chainVal_c, hnote]
    refine (Memory.holdsOnly_putNew hu hn hb (List.mem_singleton_self _)).or ?_
    rw [Memory.aboveC, hs]
    dsimp only
    rw [hnote, hnote, hfound]
  · refine ⟨(m.fixAll_sameD _ _).trans (Memory.putBytes_frame hu).1, fun b hb => ?_⟩
    obtain ⟨hsits, hv⟩ := Memory.valIn_putNew hu hn hb
    have hnote := Memory.valIn_noteWords hsits k.chain.b (bs.map NewByte.addr)
    have hlow : ∀ p ∈ k.below .g, u.HoldsOnly p b.addr b.val := fun p hp => Memory.holdsOnly_putNew hu hn hb hp
    refine ⟨by rw [Memory.chainVal_g, hnote, hv], ?_⟩
    rw [Memory.chainVal_c, hnote]
    refine (hlow k.c.party (List.mem_cons_self ..)).or ?_
    cases hkb : k.b with
    | none =>
      simp only [Memory.aboveC, hkb, hnote, hv]
    | some s =>
      simp only [Memory.aboveC, hkb, hnote]
      exact (hlow s.party (by simp [Links.below, hkb])).or hv

/-! ### Stores at D and at the home (R120, R121) -/

/-- The bytes that an arrival brings stand at consecutive addresses. -/
def SpelledAt (bs : List NewByte) (pa : Nat) (vs : List Byte) : Prop :=
  bs.map (fun b => (b.addr, b.val)) = (natsFrom pa vs.length).zip vs

theorem natsFrom_eq_range' (lo n : Nat) : natsFrom lo n = List.range' lo n := by
  induction n generalizing lo with
  | zero => rfl
  | succ n ih => rw [natsFrom, ih, List.range'_succ]

theorem nodup_natsFrom (lo n : Nat) : (natsFrom lo n).Nodup :=
  natsFrom_eq_range' lo n ▸ List.nodup_range'

theorem SpelledAt.addrs {bs : List NewByte} {pa : Nat} {vs : List Byte} (h : SpelledAt bs pa vs) :
    bs.map NewByte.addr = natsFrom pa vs.length := by
  have := congrArg (List.map Prod.fst) h
  rwa [List.map_map, List.map_fst_zip (by simp)] at this

theorem SpelledAt.mem {bs : List NewByte} {pa : Nat} {vs : List Byte} (h : SpelledAt bs pa vs) {i : Nat}
    (hi : i < vs.length) : ∃ b ∈ bs, b.addr = pa + i ∧ b.val = listGet vs i 0 := by
  induction vs generalizing bs pa i with
  | nil => cases hi
  | cons v vs ih =>
    obtain ⟨b, l, rfl, hb, hl⟩ := List.map_eq_cons_iff.mp h
    obtain ⟨ha, hv⟩ := Prod.mk.inj hb
    cases i with
    | zero => exact ⟨b, List.mem_cons_self .., ha, hv⟩
    | succ i =>
      obtain ⟨c, hc, hca, hcv⟩ := ih hl (Nat.lt_of_succ_lt_succ hi)
      exact ⟨c, List.mem_cons_of_mem _ hc, by omega, hcv⟩

theorem SpelledAt.val {bs : List NewByte} {pa : Nat} {vs : List Byte} (h : SpelledAt bs pa vs) {b : NewByte} (hb : b ∈ bs) :
    (pa ≤ b.addr ∧ b.addr < pa + vs.length) ∧ listGet vs (b.addr - pa) 0 = b.val := by
  obtain ⟨i, hi, hbi⟩ := List.getElem_of_mem (h ▸ List.mem_map_of_mem hb)
  simp only [List.getElem_zip, natsFrom_eq_range', List.getElem_range'_1, Prod.mk.injEq] at hbi
  obtain ⟨ha, hv⟩ := hbi
  have hi : i < vs.length := by simpa using hi
  refine ⟨by omega, ?_⟩
  rw [show b.addr - pa = i by omega, listGet, List.getElem?_eq_getElem hi, Option.getD_some, hv]

/-- Bytes stored at D at consecutive addresses read back, and every other byte reads as before. -/
theorem Memory.atD_foldl_setD {bs : List NewByte} {pa : Nat} {vs : List Byte} (h : SpelledAt bs pa vs) {m : Memory}
    (hm : m.wf = true) (a : Nat) : (bs.foldl (fun m b => m.setD b.addr b.val) m).atD a =
      if pa ≤ a ∧ a < pa + vs.length then listGet vs (a - pa) 0 else m.atD a := by
  induction vs generalizing bs pa m with
  | nil =>
    obtain rfl : bs = [] := List.map_eq_nil_iff.mp h
    rw [if_neg (by simp only [List.length_nil]; omega)]
    rfl
  | cons v vs ih =>
    obtain ⟨b, l, rfl, hb, hl⟩ := List.map_eq_cons_iff.mp h
    obtain ⟨rfl, rfl⟩ := Prod.mk.inj hb
    rw [List.foldl_cons, ih hl (Memory.setD_wf _ _ hm), List.length_cons]
    by_cases ha : a = b.addr
    · subst ha
      rw [if_neg (by omega), if_pos (by omega), Memory.atD_setD_self _ _ hm, Nat.sub_self]
      rfl
    · rw [Memory.atD_setD_of_ne _ _ ha]
      by_cases hin : b.addr + 1 ≤ a ∧ a < b.addr + 1 + vs.length
      · obtain ⟨n, hn⟩ : ∃ n, a - b.addr = n + 1 := ⟨a - b.addr - 1, by omega⟩
        rw [if_pos hin, if_pos (by omega), hn, show a - (b.addr + 1) = n by omega]
        rfl
      · rw [if_neg hin, if_neg (by omega)]

/-- One byte of an arrival at the home goes there, and into the modified copy where D holds one. -/
def Memory.goHome (m0 m : Memory) (b : NewByte) : Memory :=
  if peerHomed b.addr then
    { m with
      cells := cellSet m.cells b.addr b.val
      dirty := if (Table.get? m0.dirty b.addr).isSome then m.dirty else Table.del m.dirty b.addr }
  else m

/-- A byte goes home as D holds it. -/
theorem Memory.atD_goHome (m0 : Memory) {m : Memory} {b : NewByte} (hm : m.wf = true) (hb : m.atD b.addr = b.val) (a : Nat) :
    (m0.goHome m b).wf = true ∧ (m0.goHome m b).atD a = m.atD a := by
  unfold Memory.goHome
  split
  next hp =>
    refine ⟨cellSet_wf _ _ hm, ?_⟩
    by_cases ha : a = b.addr
    · subst ha
      simp only [Memory.atD, hp, if_true] at hb ⊢
      rw [cellGet_cellSet_self (lo := 0) _ _ hm]
      split
      · cases hd : Table.get? m.dirty b.addr with
        | none => simp [hd] at hb; simp [hb]
        | some y => rfl
      · simpa using hb.symm
    · simp only [Memory.atD, cellGet_cellSet_of_ne _ _ ha]
      split
      · split
        · rfl
        · rw [Table.get?_del_of_ne _ ha]
      · rfl
  next => exact ⟨hm, rfl⟩

/-- An arrival at the home leaves at D what an arrival at D does. -/
theorem Memory.atD_arriveHome {m : Memory} {now : Nat} {who : Party} {bs : List NewByte} (hm : m.wf = true)
    (hb : ∀ b ∈ bs, (m.arriveD now who bs).atD b.addr = b.val) (a : Nat) :
    (m.arriveHome now who bs).atD a = (m.arriveD now who bs).atD a := by
  have hfold (l : List NewByte) (t : Memory) (ht : t.wf = true) (hl : ∀ b ∈ l, t.atD b.addr = b.val) :
      (l.foldl m.goHome t).atD a = t.atD a := by
    induction l generalizing t with
    | nil => rfl
    | cons b l ih =>
      have h1 := m.atD_goHome ht (hl b (List.mem_cons_self ..))
      rw [List.foldl_cons, ih _ (h1 0).1 fun c hc => (h1 _).2.trans (hl c (List.mem_cons_of_mem _ hc)), (h1 a).2]
  exact hfold bs _ (Memory.arriveD_wf now who bs hm) hb

theorem Memory.atD_arriveD {m : Memory} {now : Nat} {who : Party} {bs : List NewByte} {pa : Nat} {vs : List Byte}
    (h : SpelledAt bs pa vs) (hm : m.wf = true) (a : Nat) : (m.arriveD now who bs).atD a =
      if pa ≤ a ∧ a < pa + vs.length then listGet vs (a - pa) 0 else m.atD a :=
  Memory.atD_foldl_setD h hm a

/-- A store at D or at the home is at D. -/
theorem Memory.store_atD {m t : Memory} {now : Nat} {k : Links} {x : Level} {bs : List NewByte} {pa : Nat} {vs : List Byte}
    (h : m.store now k x bs = .ok t) (hx : x = .d ∨ x = .s) (hs : SpelledAt bs pa vs) (hm : m.wf = true) (a : Nat) :
    t.atD a = if pa ≤ a ∧ a < pa + vs.length then listGet vs (a - pa) 0 else m.atD a := by
  have hlow := m.fixAll_sameD (k.below x) (bufBytes bs)
  have hwf : (m.fixAll (k.below x) (bufBytes bs)).wf = true := Memory.wf_of_cells hlow.1 hm
  rw [← hlow.atD a, ← Memory.atD_arriveD (now := now) (who := k.g.party) hs hwf]
  rcases hx with rfl | rfl
  · simp only [Memory.store, Links.level, Except.ok.injEq] at h
    subst h
    rfl
  · simp only [Memory.store, Links.level, Except.ok.injEq] at h
    subst h
    refine Memory.atD_arriveHome hwf (fun b hb => ?_) a
    rw [Memory.atD_arriveD hs hwf]
    obtain ⟨hin, hv⟩ := hs.val hb
    rw [if_pos hin, hv]

/-! ### One lane's store (R120 to R122) -/

/-- Bytes stored in a scratchpad read back, and every other byte reads as before. -/
theorem cellGet_cellSets_at {l : List Host.Cell} (b : Nat) (vs : List Byte) (hl : cellsWf l = true) (a : Nat) :
    cellGet (cellSets l b vs) a = if b ≤ a ∧ a < b + vs.length then listGet vs (a - b) 0 else cellGet l a := by
  split
  next hin =>
    have hv := congrArg (·[a - b]?) (cellGet_cellSets b vs hl)
    simp only [List.getElem?_map, natsFrom_eq_range'] at hv
    rw [List.getElem?_range' (by omega), Nat.one_mul, show b + (a - b) = a by omega] at hv
    rw [listGet, ← hv]
    rfl
  next hin => exact cellGet_cellSets_outside l vs (by omega)

/-- What a lane's store brings to its level. -/
def Put.newBytes (p : Put) (pa : Nat) : List NewByte :=
  ((natsFrom pa p.bytes.length).zip p.bytes).map fun e =>
    { addr := e.1, val := e.2, who := [p.hit.req.t.uid], marks := p.hit.req.t.rel }

theorem Put.newBytes_spelled (p : Put) (pa : Nat) : SpelledAt (p.newBytes pa) pa p.bytes := by
  simp [SpelledAt, Put.newBytes, Function.comp_def]

/-- A store of one lane outside the scratchpad arrives at its level, unless it has no byte. -/
theorem storeOne_mem {s s' : State} {h : Here} {x : Level} {p : Put} {pa : Nat} {line : Option StashHit}
    (hs : storeOne s h x [] [] p = .ok s') (hh : h.hand = none) (hp : p.hit.spot = .mem pa line) :
    p.newBytes pa = [] ∧ s' = s ∨ ∃ m,
      s.mem.store s.tick (s.linksOf h p.hit.req.t) (p.level x) (p.newBytes pa) = .ok m ∧ s' = { s with mem := m } := by
  simp only [storeOne, hp, hh, Put.meeting, List.filter_nil, List.isEmpty_nil, Bool.not_true, Bool.not_false,
    List.filter_true, List.filter_false, List.foldl_nil, List.map_nil] at hs
  split at hs
  next hb => exact .inl ⟨List.isEmpty_iff.mp hb, (Except.ok.inj hs).symm⟩
  next =>
    split at hs
    next m hm => exact .inr ⟨m, hm, (Except.ok.inj hs).symm⟩
    next => cases hs

theorem storesReachTheirLevel : Claim.StoresReachTheirLevel := by
  intro s s' h x p hh hs hwf hscr y
  cases hp : p.hit.spot with
  | scr b =>
    simp only [storeOne, hp, Except.ok.injEq] at hs
    subst hs
    refine ⟨rfl, fun hc a => ?_⟩
    rw [State.core_updCore_self _ _ _ hc]
    exact cellGet_cellSets_at b p.bytes hscr a
  | mem pa line =>
    have hspell := p.newBytes_spelled pa
    obtain ⟨hnew, rfl⟩ | ⟨m, hm, rfl⟩ := storeOne_mem hs hh hp
    · have hnil : p.bytes = [] := by
        have := congrArg List.length hspell.addrs
        simpa [hnew] using this.symm
      dsimp only
      simp only [hnil, List.length_nil]
      refine ⟨fun a => by rw [if_neg (by omega)], fun _ i hi => absurd hi (Nat.not_lt_zero i)⟩
    · have hy : p.level x = y := rfl
      rw [hy] at hm
      refine ⟨fun a => ?_, fun hbuf i hi => ?_⟩
      · by_cases hd : y = .d ∨ y = .s
        · simp only [hd, true_and]
          exact Memory.store_atD hm hd hspell hwf a
        · rw [if_neg fun h => hd h.1]
          have hbuf : y = .c ∨ y = .b ∨ y = .g := by cases hy : y <;> simp_all
          exact (Memory.store_found hm hbuf (hspell.addrs ▸ nodup_natsFrom _ _)).1.atD a
      · obtain ⟨b, hb, ha, hv⟩ := hspell.mem hi
        have hfound := (Memory.store_found hm hbuf (hspell.addrs ▸ nodup_natsFrom _ _)).2 b hb
        rw [ha, hv] at hfound
        exact hfound

/-- Settles O10: the instructions by what their checks give, an arrival by the level at which it is made. -/
theorem stores : Obligations.Stores := ⟨tileAccessesComplete, storesComplete, storesReachTheirLevel⟩

end Sys2Proof.Machine

/-! ## The ends of blocks, cache modes, stream areas and ray batches (O37) -/

namespace Sys2Proof.Machine

variable {s : State}

/-! ### A block is freed (R278) -/

/-- A context that does not trace writes no trace record. -/
theorem State.trace_off {ctx : Nat} (h : (s.ctx ctx).dbg.ctl.getLsbD 18 = false) (cls core slot detail pc : Nat) :
    s.trace ctx cls core slot detail pc = s := by
  simp only [State.trace, h, Bool.not_false, if_true]

@[simp] theorem State.trace_blocks (ctx cls core slot detail pc : Nat) :
    (s.trace ctx cls core slot detail pc).blocks = s.blocks := by
  unfold State.trace
  dsimp only
  split <;> rfl

theorem State.freeBlock_blocks (s : State) (b : Block) : (s.freeBlock b).blocks = Table.del s.blocks b.uid := by
  unfold State.freeBlock
  dsimp only
  split
  · split <;> rfl
  · split
    · rw [State.trace_blocks]
      split <;> rfl
    · split <;> rfl

/-- Freeing a block writes nothing at D where no context traces. -/
theorem State.freeBlock_log (b : Block) (h : ∀ c, (s.ctx c).dbg.ctl.getLsbD 18 = false) :
    (s.freeBlock b).mem.log = s.mem.log := by
  unfold State.freeBlock
  dsimp only
  split
  · split <;> rfl
  · split
    · rw [State.trace_off]
      · split <;> rfl
      · split <;> exact h _
    · split <;> rfl

/-! ### A block ends (R127, R278, R405) -/

/-- A block that stands has a B buffer. -/
theorem State.blockLinks_b {b : Block} (hb : Table.get? s.blocks b.uid = some b) : (s.blockLinks b).b.isSome = true := by
  have ht : (launchThread (Grid.fresh b.kid 0 0 0 0 (parseLaunch []) 0) b.uid b.uid 0 0 0 none).blockUid = b.uid := rfl
  have hr : (launchThread (Grid.fresh b.kid 0 0 0 0 (parseLaunch []) 0) b.uid b.uid 0 0 0 none).ray = none := rfl
  simp only [State.blockLinks, State.links, hr, Option.isSome_none, Bool.false_eq_true, if_false, ht, hb, Option.isSome_some]

/-- A block of which everything is done, and which waits for no page, on a core whose clocks run. -/
def BlockDone (s : State) (x : CoreItem) (b : Block) : Prop :=
  Runs s x.core.cl.toNat ∧ Table.get? s.blocks x.n = some b ∧ b.core = coreNum x.core ∧ s.blockOver b = true ∧
  (((Table.get? s.grids b.kid).map Grid.ending).getD true) = false ∧ s.awaitsPage b.kid b.uid = false

section
variable {x : CoreItem} {b : Block} (h : BlockDone s x b)
include h

theorem BlockDone.run : exec (.blockEnd x) s = if s.cc.order = 0 then .next (s.endBlock b) else .next s := by
  obtain ⟨hr, hb, hc, ho, he, hw⟩ := h
  rw [exec_blockEnd, execBlockEnd, hr.live]
  simp [hb, hc, ho, he, hw]

end

/-- The state after the steps of a block's end: its buffer's into its gang's, which gives `m1`, and, of the last block,
the gang's to D (R127). -/
def State.blockSteps (s : State) (b : Block) (m1 : Memory) : State :=
  { s with mem := if (((Table.get? s.gangs b.gangUid).map Gang.blocks).getD []) = [b.uid] then
      m1.stepD s.tick (s.blockLinks b).g [] [] else m1 }

/-- The accesses of a block's end to its log (R118). -/
def State.blockWalk (s : State) (b : Block) (m1 : Memory) : Except (UnitErr × Access) State :=
  (s.blockSteps b m1).walkLog { core := some b.core, cl := clusterOf b.core } (s.ctxOfKid b.kid) b.kid

section
variable {b : Block} {site : Site} (hk : (s.blockLinks b).b = some site)
include hk

theorem State.endBlock_overflow {l : Level}
    (hm : s.mem.stepInto site (s.blockLinks b).g (.block b.uid) [] = .error l) : s.endBlock b = s.endOverflow b l := by
  simp only [State.endBlock, hk, hm]

variable {m1 : Memory} (hm : s.mem.stepInto site (s.blockLinks b).g (.block b.uid) [] = .ok m1)
include hm

theorem State.endBlock_miss {e : UnitErr} {kind : Access} (hw : s.blockWalk b m1 = .error (e, kind)) :
    s.endBlock b = s.endMiss b e kind := by
  unfold State.blockWalk State.blockSteps at hw
  simp only [State.endBlock, hk, hm, hw]

theorem State.endBlock_frees {s2 : State} (hw : s.blockWalk b m1 = .ok s2) :
    ∃ f, s.endBlock b = (s2.updGrid b.kid f).freeBlock b := by
  unfold State.blockWalk State.blockSteps at hw
  simp only [State.endBlock, hk, hm, hw]
  exact ⟨_, rfl⟩

end

/-! ### Cache modes and stream areas (R107, R381) -/

theorem cacheModeApply_applies {cl : BitVec 4} {m : BitVec 2} (hr : Runs s cl.toNat)
    (hp : (s.cluster cl.toNat).pendMode = some m)
    (hw : ∀ c, 8 * cl.toNat ≤ c → c < 8 * cl.toNat + 8 → (s.core c).waves = [])
    (hg : s.mem.entriesAt .g cl.toNat = 0) :
    exec (.cacheModeApply cl) s = .next (s.updCluster cl.toNat fun c =>
      { c with mode := m, pendMode := none, treelets := [], dataFloor := s.mem.pos }) := by
  have hwaves : ((natsFrom (8 * cl.toNat) 8).any fun c => !(s.core c).waves.isEmpty) = false :=
    List.any_eq_false.mpr fun c hc => by
      obtain ⟨hlo, hhi⟩ := mem_natsFrom.mp hc
      simp [hw c hlo hhi]
  rw [exec_cacheModeApply, execCacheModeApply, hr.live]
  simp only [hp, hwaves, hg, bne_self_eq_false, Bool.or_self, Bool.false_eq_true, if_false]

theorem sareaApply_applies {x : CoreId} {f : Nat} (hp : s.partAt x.cl.toNat = some f) (hb : s.blocksOn (coreNum x) = []) :
    exec (.sareaApply x) s = .next (s.updCore (coreNum x) fun k => { k with sarea := (s.part f).sarea.toNat }) := by
  rw [exec_sareaApply, execSareaApply]
  simp only [hp, hb, List.isEmpty_nil, if_true]

/-! ### Ray batches (R346, R403) -/

/-- A batch that has rays left, and whose records have begun to be written, writes the next one while the ray's cluster
keeps 2,048 slots free. -/
theorem rayRecordWrite_run {kid cl : Nat} {g : Grid} (hg : Table.get? s.grids kid = some g) (hray : g.ray = true)
    (hrun : s.runs kid = true) (h0 : 0 < g.next) (hn : g.next < g.count)
    (hcl : (s.rayClusters g)[g.next / 32 % (s.rayClusters g).length]? = some cl) (hr : Runs s cl) :
    exec (.rayRecordWrite kid) s = if 2048 < (s.cluster cl).slotFree then
      .next ((({ s with uids := s.uids + 1 } : State).file cl
        (launchThread g s.uids 0 g.next 0 24 (some RayPart.zero))).updGrid kid fun g => { g with next := g.next + 1 })
    else .next s := by
  have hlen : max 1 (s.rayClusters g).length = (s.rayClusters g).length := by
    have := (List.getElem?_eq_some_iff.mp hcl).1
    omega
  rw [exec_rayRecordWrite, execRayRecordWrite]
  simp only [hg, hlen, hcl, hr.live, hray, hrun, hn, Nat.ne_of_gt h0, decide_true, Bool.and_self, Bool.true_and,
    decide_eq_true_eq, if_false]

/-- Settles O37: a block's end by what its steps and their log accesses give, the rest by what each event waits for. -/
theorem blockAndBatchEvents : Obligations.BlockAndBatchEvents := by
  refine ⟨?_, fun s b => ⟨?_, fun k hk => ?_⟩, fun cl s m hr hp hw hg => cacheModeApply_applies hr hp hw hg,
    fun x s f hp hb => sareaApply_applies hp hb, ?_⟩
  case refine_1 =>
    intro x s b g hr hb hg he hc hst hlive hstage hcop hu hw
    have hover : s.blockOver b = true := by simp [State.blockOver, hst, hlive, hstage, hcop]
    have hdone : BlockDone s x b := ⟨hr, hb, hc, hover, by rw [hg, Option.map_some, he]; rfl, hw⟩
    have hrun := hdone.run
    rw [← hu] at hb ⊢
    refine ⟨fun h0 => by rw [hrun, if_neg (by omega)], fun h0 => ?_⟩
    rw [if_pos h0] at hrun
    intro k
    refine ⟨State.blockLinks_b hb, ?_, fun site l hk hm => ?_⟩
    · intro site m1 hk hm last s1 walk
      refine ⟨fun s2 hwalk htr => ?_, fun e kind hwalk => ?_⟩
      · obtain ⟨f, hf⟩ := State.endBlock_frees hk hm hwalk
        refine ⟨_, hrun, ?_, ?_⟩
        · rw [hf, State.freeBlock_blocks, Table.get?_del_self]
        · rw [hf, State.freeBlock_log b (s := s2.updGrid b.kid f) htr]
          rfl
      · rw [hrun, State.endBlock_miss hk hm hwalk]
    · rw [hrun, State.endBlock_overflow hk hm]
  case refine_2 => rw [State.freeBlock_blocks, Table.get?_del_self]
  case refine_3 => rw [State.freeBlock_blocks, Table.get?_del_of_ne _ hk]
  case refine_4 =>
    intro kid cl s g hg hray hrun h0 hn hcl hr
    have h := rayRecordWrite_run hg hray hrun h0 hn hcl hr
    exact ⟨fun hf => by rw [h, if_pos hf], fun hf => by rw [h, if_neg (by omega)], rfl⟩

end Sys2Proof.Machine

/-! ## What the host writes (O44) -/

namespace Sys2Proof.Machine

variable {s t : State}

/-! ### Register writes and their checks (R380, R475) -/

section
variable {n i : Nat} {x : DWord}

theorem State.hostWrite_ok (hp : s.dev.phase = 3) (h : s.regWrite .host n i x = .ok t) : s.hostWrite n i x = t := by
  simp [State.hostWrite, hp, h]

theorem State.hostWrite_error {e : RegErr} (hp : s.dev.phase = 3) (h : s.regWrite .host n i x = .error e) :
    s.hostWrite n i x = { s with dev := { s.dev with herr := true } } := by
  simp [State.hostWrite, hp, h]

theorem State.hostWrite_early (hp : s.dev.phase ≠ 3) (hn : n ≠ 0x001) : s.hostWrite n i x = s := by
  have hd : (s.dev.phase != 3 && n != 0x001) = true := by
    rw [bne_iff_ne.mpr hp, bne_iff_ne.mpr hn, Bool.and_self]
  rw [State.hostWrite, if_pos hd]

/-- A write of the host, and of firmware, reaches every register that is there. -/
theorem State.regCheck_none {w : Who} {k : RegKind} (hw : w = .host ∨ w = .slot 16) (hk : regKind n = some k)
    (hi : k.has i = true) : s.regCheck w n i = none := by
  rcases hw with rfl | rfl <;> simp [State.regCheck, hk, hi, State.mayReach]

theorem State.regWrite_ctx (hk : regKind n = some .ctx) (hi : i < 64) :
    s.regWrite .host n i x = s.ctxWrite .host n i x := by
  simp only [State.regWrite, State.regCheck_none (.inl rfl) hk (by simpa [RegKind.has] using hi), hk]

theorem State.regWrite_dev (hk : regKind n = some .dev) : s.regWrite .host n 0 x = s.devWrite .host n x := by
  simp only [State.regWrite, State.regCheck_none (k := .dev) (i := 0) (.inl rfl) hk rfl, hk]

theorem State.regWrite_part {w : Who} (hw : w = .host ∨ w = .slot 16) (hk : regKind n = some .part) (hi : i < 16) :
    s.regWrite w n i x = s.partWrite w n i x := by
  simp only [State.regWrite, State.regCheck_none hw hk (by simpa [RegKind.has] using hi), hk]

theorem State.regWrite_cluster (hk : regKind n = some .cluster) (hi : i < 16) :
    s.regWrite .host n i x = s.clusterWrite .host n i x := by
  simp only [State.regWrite, State.regCheck_none (.inl rfl) hk (by simpa [RegKind.has] using hi), hk]

theorem State.regRead_ctx (hk : regKind n = some .ctx) : s.regRead n i = BitVec.ofNat 64 (s.ctxReg n i) := by
  simp only [State.regRead, hk]

end

/-- The host's event makes its register write. -/
theorem hostReg_exec {i : Instr} {n k : Nat} {x : DWord} (h : hostReg s i = some (n, k, x)) :
    exec i s = .next (s.hostWrite n k x) := by
  unfold hostReg at h
  split at h
  case h_1 y =>
    obtain ⟨r, hr, heq⟩ := Option.map_eq_some_iff.mp h
    obtain ⟨rfl, rfl, rfl⟩ := by simpa using heq
    rw [exec_registerWrite, execRegisterWrite, State.bar0Write, hr]
  case h_17 => cases h
  all_goals
    obtain ⟨rfl, rfl, rfl⟩ := by simpa using h
    rfl

/-! ### The registers of a context (R381) -/

section
variable {c n : Nat} {e : Ctx} {x : DWord} {f : Ctx → Ctx}

theorem State.ctx_of_get? (he : s.ctxs[c]? = some e) : s.ctx c = e := by
  rw [State.ctx, listGet, he, Option.getD_some]

/-- A context after its update. -/
theorem State.ctx_updCtx (he : s.ctxs[c]? = some e) (f : Ctx → Ctx) : (s.updCtx c f).ctx c = f e := by
  rw [State.ctx_updCtx_self _ _ _ (List.getElem?_eq_some_iff.mp he).1, State.ctx_of_get? he]

theorem State.get?_updCtx (he : s.ctxs[c]? = some e) (f : Ctx → Ctx) : (s.updCtx c f).ctxs[c]? = some (f e) := by
  rw [State.updCtx, getElem?_listUpd, if_pos rfl, he, Option.map_some]

/-- A write that changes a context by `f` reads back as the context's register then does. -/
theorem State.reads_updCtx {v : Nat} (he : s.ctxs[c]? = some e) (hc : c < 64) (hk : regKind n = some .ctx)
    (hw : s.ctxWrite .host n c x = .ok (s.updCtx c f)) (hv : ∀ t : State, t.ctx c = f e → t.ctxReg n c = v) :
    ∃ t, s.regWrite .host n c x = .ok t ∧ t.regRead n c = BitVec.ofNat 64 v ∧ t.mem = s.mem :=
  ⟨_, (State.regWrite_ctx hk hc).trans hw, by rw [State.regRead_ctx hk, hv _ (State.ctx_updCtx he f)], rfl⟩

theorem State.reads_word {v : DWord} (he : s.ctxs[c]? = some e) (hc : c < 64) (hk : regKind n = some .ctx)
    (hw : s.ctxWrite .host n c x = .ok (s.updCtx c f)) (hv : ∀ t : State, t.ctx c = f e → t.ctxReg n c = v.toNat) :
    ∃ t, s.regWrite .host n c x = .ok t ∧ t.regRead n c = v ∧ t.mem = s.mem := by
  obtain ⟨t, ht, hr, hm⟩ := State.reads_updCtx he hc hk hw hv
  exact ⟨t, ht, by rw [hr, BitVec.ofNat_toNat, BitVec.setWidth_eq], hm⟩

end

theorem regKind_ctx {n : Nat} (h : 0x050 ≤ n ∧ n ≤ 0x06F ∨ 0x080 ≤ n ∧ n ≤ 0x0BF) : regKind n = some .ctx := by
  unfold regKind
  rw [if_neg (by omega), if_neg (by simp; omega), if_neg (by simp; omega), if_neg (by simp; omega), if_pos (by simp; omega)]

theorem State.ctxReg_prog {n c : Nat} (h1 : 0x060 ≤ n) (h2 : n ≤ 0x06F) :
    s.ctxReg n c = (listGet (s.ctx c).prog (n - 0x060) 0).toNat := by
  unfold State.ctxReg
  dsimp only
  rw [if_neg (by simp; omega), if_pos (by simp; omega)]

theorem State.ctxReg_event {n c : Nat} (h1 : 0x080 ≤ n) (h2 : n ≤ 0x0BF) :
    s.ctxReg n c = (listGet (s.ctx c).events (n - 0x080) 0).toNat := by
  unfold State.ctxReg
  dsimp only
  rw [if_neg (by simp; omega), if_neg (by simp; omega), if_pos (by simp; omega)]

theorem registersRead (n : Nat) (x : DWord) (c : Nat) (e : Ctx) (he : s.ctxs[c]? = some e) (hc : c < 64) :
    let reads (x' : DWord) : Prop := ∃ t, s.regWrite .host n c x = .ok t ∧ t.regRead n c = x' ∧ t.mem = s.mem
    (0x060 ≤ n → n ≤ 0x06F → e.prog.length = 16 → reads x) ∧
    (0x080 ≤ n → n ≤ 0x0BF → e.events.length = 64 → reads x) ∧
    (n = 0x041 → e.settled = true → reads (BitVec.ofNat 64 (keepBits x 4 48))) ∧
    (n = 0x11A ∨ n = 0x11C ∨ n = 0x11E → reads (BitVec.ofNat 64 (keepBits x 12 40))) ∧
    (n = 0x11F ∨ n = 0x120 → reads (BitVec.ofNat 64 (keepBits x 3 49))) ∧
    (n = 0x121 → reads x) ∧
    (n = 0x041 ∨ n = 0x045 ∨ n = 0x046 ∨ n = 0x047 ∨ n = 0x048 → e.settled = false →
      s.regWrite .host n c x = .error { code := 1, cause := 12 }) := by
  have hctx := State.ctx_of_get? he
  intro reads
  refine ⟨fun h1 h2 hl => ?_, fun h1 h2 hl => ?_, ?_, ?_, ?_, ?_, ?_⟩
  case refine_1 =>
    refine State.reads_word he hc (regKind_ctx (.inl (by omega))) ?_
      (f := fun c => { c with prog := listSet c.prog (n - 0x060) x }) fun t ht => ?_
    · rw [State.ctxWrite, if_neg (by omega), if_neg (by omega), if_neg (by omega), if_pos h2]
    · rw [State.ctxReg_prog h1 h2, ht, listGet_listSet_self _ _ _ _ (by omega)]
  case refine_2 =>
    refine State.reads_word he hc (regKind_ctx (.inr (by omega))) ?_
      (f := fun c => { c with events := listSet c.events (n - 0x080) x }) fun t ht => ?_
    · rw [State.ctxWrite, if_neg (by omega), if_neg (by omega), if_neg (by omega), if_neg (by omega), if_pos h2]
    · rw [State.ctxReg_event h1 h2, ht, listGet_listSet_self _ _ _ _ (by omega)]
  case refine_3 =>
    rintro rfl hst
    refine State.reads_updCtx he hc rfl (f := fun c => { c with stream := { c.stream with base := keepBits x 4 48 } }) ?_
      fun t ht => ?_
    · have h : s.ctxWrite .host 0x041 c x = s.streamWrite 0x041 c x := rfl
      rw [h, State.streamWrite]
      simp only [hctx, hst, if_true]
    · have h : t.ctxReg 0x041 c = (t.ctx c).stream.base := rfl
      rw [h, ht]
  case refine_4 =>
    rintro (rfl | rfl | rfl)
    · exact State.reads_updCtx he hc rfl rfl (f := fun c => { c with dbg := { c.dbg with traceSize := keepBits x 12 40 } })
        fun t ht => (congrArg (fun e : Ctx => e.dbg.traceSize) ht :)
    · exact State.reads_updCtx he hc rfl rfl (f := fun c => { c with dbg := { c.dbg with recSize := keepBits x 12 40 } })
        fun t ht => (congrArg (fun e : Ctx => e.dbg.recSize) ht :)
    · exact State.reads_updCtx he hc rfl rfl (f := fun c => { c with dbg := { c.dbg with dumpSize := keepBits x 12 40 } })
        fun t ht => (congrArg (fun e : Ctx => e.dbg.dumpSize) ht :)
  case refine_5 =>
    rintro (rfl | rfl)
    · exact State.reads_word he hc rfl rfl
        (f := fun c => { c with dbg := { c.dbg with cxLo := BitVec.ofNat 64 (keepBits x 3 49) } })
        fun t ht => (congrArg (fun e : Ctx => e.dbg.cxLo.toNat) ht :)
    · exact State.reads_word he hc rfl rfl
        (f := fun c => { c with dbg := { c.dbg with cxHi := BitVec.ofNat 64 (keepBits x 3 49) } })
        fun t ht => (congrArg (fun e : Ctx => e.dbg.cxHi.toNat) ht :)
  case refine_6 =>
    rintro rfl
    exact State.reads_word he hc rfl rfl (f := fun c => { c with dbg := { c.dbg with cxHits := x } })
      fun t ht => (congrArg (fun e : Ctx => e.dbg.cxHits.toNat) ht :)
  case refine_7 =>
    intro hn hst
    have hwrite : s.ctxWrite .host n c x = s.streamWrite n c x := by
      rw [State.ctxWrite, if_neg (by omega), if_pos (by omega)]
    rw [State.regWrite_ctx (by rcases hn with rfl | rfl | rfl | rfl | rfl <;> rfl) hc, hwrite]
    rcases hn with rfl | rfl | rfl | rfl | rfl <;> simp only [State.streamWrite, hctx, hst, Bool.false_eq_true, if_false]

/-! ### The arena of a stream (R326) -/

/-- A stream whose arena has been set: its lists are empty, and its buffers divide the arena anew. -/
def Stream.rearenaed (f : Stream → Stream) (t : Stream) : Stream :=
  { f t with hS := [], hR := [], freeBufs := divideArena (f t).arenaBase (f t).arenaSize }

/-- A context whose stream has had its arena set. -/
def Ctx.rearenaed (f : Stream → Stream) (e : Ctx) : Ctx := { e with stream := e.stream.rearenaed f }

section
variable {c : Nat} {e : Ctx} (hp : s.dev.phase = 3) (hc : c < 64) (he : s.ctxs[c]? = some e) (hs : e.settled = true)
  (hw : e.stream.win = [])
include hp hc he hs hw

theorem State.hostWrite_arenaBase (a : DWord) : s.hostWrite 0x045 c a =
    s.updCtx c (Ctx.rearenaed fun t => { t with arenaBase := keepBits a 12 40 }) := by
  refine State.hostWrite_ok hp ((State.regWrite_ctx rfl hc).trans ?_)
  have h : s.ctxWrite .host 0x045 c a = s.streamWrite 0x045 c a := rfl
  rw [h, State.streamWrite]
  simp only [State.ctx_of_get? he, hs, hw, List.isEmpty_nil, Bool.not_true, Bool.false_eq_true, if_false, if_true]
  rfl

theorem State.hostWrite_arenaSize (a : DWord) : s.hostWrite 0x046 c a =
    s.updCtx c (Ctx.rearenaed fun t => { t with arenaSize := keepBits a 12 40 }) := by
  refine State.hostWrite_ok hp ((State.regWrite_ctx rfl hc).trans ?_)
  have h : s.ctxWrite .host 0x046 c a = s.streamWrite 0x046 c a := rfl
  rw [h, State.streamWrite]
  simp only [State.ctx_of_get? he, hs, hw, List.isEmpty_nil, Bool.not_true, Bool.false_eq_true, if_false, if_true]
  rfl

end

theorem hostRegisterWrites : Claim.HostRegisterWrites := by
  refine ⟨fun i s n k x h => ⟨fun hp => ⟨fun s' hs => ?_, fun e he => ?_⟩, fun hp hn => ?_⟩,
    fun c s a n e hp he hs hw => ?_, fun s n x c e he hc => registersRead n x c e he hc⟩
  case refine_1 => rw [hostReg_exec h, State.hostWrite_ok hp hs]
  case refine_2 => rw [hostReg_exec h, State.hostWrite_error hp he]
  case refine_3 => rw [hostReg_exec h, State.hostWrite_early hp hn]
  case refine_4 =>
    have he1 := State.get?_updCtx he (Ctx.rearenaed fun t => { t with arenaBase := keepBits a 12 40 })
    have hrun : exec (.arenaWrite c a n) s = .next ((s.updCtx c.toNat
        (Ctx.rearenaed fun t => { t with arenaBase := keepBits a 12 40 })).updCtx c.toNat
        (Ctx.rearenaed fun t => { t with arenaSize := keepBits n 12 40 })) := by
      rw [exec_arenaWrite, execArenaWrite, State.hostWrite_arenaBase hp c.isLt he hs hw,
        State.hostWrite_arenaSize (by exact hp) c.isLt he1 hs hw]
    refine ⟨_, hrun, rfl, ?_⟩
    rw [State.ctx_updCtx he1]
    exact ⟨rfl, rfl, rfl, rfl⟩

/-! ### The stream, residency and debug registers (R109, R316, R380, R381) -/

section
variable {c : Nat} {e : Ctx} {x : DWord} (hp : s.dev.phase = 3) (hc : c < 64) (he : s.ctxs[c]? = some e)
include hp hc

theorem State.hostWrite_limit : s.hostWrite 0x042 c x =
    s.updCtx c fun k => { k with stream := ({ k.stream with limit := keepBits x 4 48 } : Stream).judge } :=
  State.hostWrite_ok hp ((State.regWrite_ctx rfl hc).trans rfl)

theorem State.hostWrite_traceBase (ha : s.paValid (keepBits x 12 40) = true) :
    s.hostWrite 0x119 c x = s.traceBase c (keepBits x 12 40) := by
  refine State.hostWrite_ok hp ((State.regWrite_ctx rfl hc).trans ?_)
  have h : s.ctxWrite .host 0x119 c x = s.dbgWrite 0x119 c x := rfl
  rw [h]
  unfold State.dbgWrite
  simp only [ha, if_true]
  rfl

/-- A write of a residency register, which gives its lines up where it changes it (R110). -/
theorem State.hostWrite_residency {n : Nat} (hn : n < 8) :
    ∃ t, s.hostWrite (0x051 + 2 * n) c x = t ∧ t.mem = s.mem ∧ t.ctxs = (s.updCtx c fun k =>
      { k with resCtl := listSet k.resCtl n (x &&& 0x800FFFFFFFFFFF07#64) }).ctxs := by
  have hodd : (0x051 + 2 * n) % 2 ≠ 0 := by omega
  have hk : (0x051 + 2 * n - 0x050) / 2 = n := by omega
  have hw : s.ctxWrite .host (0x051 + 2 * n) c x = .ok (if listGet (s.ctx c).resCtl n 0 = x &&& 0x800FFFFFFFFFFF07#64 then
      s.updCtx c fun k => { k with resCtl := listSet k.resCtl n (x &&& 0x800FFFFFFFFFFF07#64) }
    else (s.updCtx c fun k => { k with resCtl := listSet k.resCtl n (x &&& 0x800FFFFFFFFFFF07#64) }).dropKept c n) := by
    rw [State.ctxWrite, if_neg (by omega), if_neg (by omega), if_pos (by omega)]
    simp only [hk, hodd, if_false]
  refine ⟨_, State.hostWrite_ok hp ((State.regWrite_ctx (regKind_ctx (.inl (by omega))) hc).trans hw), ?_, ?_⟩
  · split <;> rfl
  · split <;> rfl

include he

/-- A stream that is neither running nor waiting. -/
theorem State.hostWrite_resume (hst : e.stream.status = .halted ∨ e.stream.status = .faulted) : s.hostWrite 0x044 c 0x80 =
    s.updCtx c fun k => { k with
      stream := ({ k.stream with status := .running, stopDecode := false } : Stream).judge } := by
  refine State.hostWrite_ok hp ((State.regWrite_ctx rfl hc).trans ?_)
  have h : s.ctxWrite .host 0x044 c 0x80 = s.streamWrite 0x044 c 0x80 := rfl
  rw [h, State.streamWrite]
  rcases hst with hst | hst <;> simp [State.ctx_of_get? he, hst]

theorem State.hostWrite_spc (hst : e.stream.status = .halted ∨ e.stream.status = .faulted) : s.hostWrite 0x043 c x =
    s.updCtx c fun k => { k with stream := { k.stream with
      spcS := BitVec.ofNat 52 (keepBits x 4 48), spcR := BitVec.ofNat 52 (keepBits x 4 48) } } := by
  refine State.hostWrite_ok hp ((State.regWrite_ctx rfl hc).trans ?_)
  have h : s.ctxWrite .host 0x043 c x = s.streamWrite 0x043 c x := rfl
  rw [h, State.streamWrite]
  rcases hst with hst | hst <;> simp [State.ctx_of_get? he, hst]

theorem State.hostWrite_dbgCtl (hst : e.st ≠ .running ∨ x.extractLsb' 15 2 = e.dbg.ctl.extractLsb' 15 2) :
    s.hostWrite 0x110 c x = s.dbgCtl c x := by
  refine State.hostWrite_ok hp ((State.regWrite_ctx rfl hc).trans ?_)
  have h : s.ctxWrite .host 0x110 c x = s.dbgWrite 0x110 c x := rfl
  rw [h]
  have hno : ¬(x.extractLsb' 15 2 != e.dbg.ctl.extractLsb' 15 2 && decide (e.st = .running)) = true := fun hbad => by
    obtain ⟨h1, h2⟩ : x.extractLsb' 15 2 ≠ e.dbg.ctl.extractLsb' 15 2 ∧ e.st = .running := by simpa using hbad
    exact hst.elim (fun h => h h2) h1
  unfold State.dbgWrite
  simp only [State.ctx_of_get? he, if_neg hno]
  rfl

end

/-- A stream that may go on runs where its counter is below its limit, and else waits. -/
theorem Stream.judge_status {n : Stream} (h : n.status = .running ∨ n.status = .waiting) :
    n.judge.status = if n.spcS.toNat < n.limit then .running else .waiting := by
  unfold Stream.judge
  by_cases hl : n.spcS.toNat < n.limit <;> rcases h with h | h <;> simp [h, hl]

theorem Stream.judge_frame (n : Stream) : n.judge.stopDecode = n.stopDecode ∧ n.judge.limit = n.limit := by
  unfold Stream.judge
  split
  · split <;> exact ⟨rfl, rfl⟩
  · split <;> exact ⟨rfl, rfl⟩
  · exact ⟨rfl, rfl⟩
  · exact ⟨rfl, rfl⟩

/-- DBG_CTL keeps its writable bits. -/
theorem State.ctx_dbgCtl {c : Nat} {e : Ctx} (he : s.ctxs[c]? = some e) (x : DWord) :
    ((s.dbgCtl c x).ctx c).dbg.ctl = x &&& 0xFFFFC000#64 := by
  unfold State.dbgCtl
  dsimp only
  have hkeeps (t : State) (g : Cluster → Cluster) (l : List Nat) :
      (l.foldl (fun s cl => s.updCluster cl g) t).ctx c = t.ctx c :=
    foldl_keeps (f := fun s cl => s.updCluster cl g) (g := fun s => s.ctx c) (fun _ _ => rfl) l t
  rw [hkeeps, State.ctx_updCtx he]

/-! ### The host's queue, doorbells and pending bits (R385, R475 to R477) -/

theorem State.placePage_handlers (page : Option Nat) (slot : Nat) : (s.placePage page slot).handlers = s.handlers := by
  cases page <;> rfl

theorem drainPartGo_handlers (n : Nat) (s : State) (f : Nat) : (drainPartGo n s f).handlers = s.handlers := by
  fun_induction drainPartGo n s f with
  | case3 n s f p q t hw hroom a s1 ih => rw [ih]; exact State.placePage_handlers (s := s) q.page p.tail
  | _ => rfl

theorem drainHostGo_handlers (n : Nat) (s : State) : (drainHostGo n s).handlers = s.handlers := by
  fun_induction drainHostGo n s with
  | case3 n s q t hw hroom a s1 m s2 ih =>
    have h1 : s1.handlers = s.handlers := State.placePage_handlers q.page s.dev.qtail
    have h2 : s2.handlers = s1.handlers := rfl
    clear_value s2
    exact ih.trans (h2.trans h1)
  | _ => rfl

/-- An event record that is posted touches no handler. -/
theorem State.post_handlers (f : Nat) (q : Queued) : (s.post f q).handlers = s.handlers := by
  unfold State.post
  split
  · exact drainHostGo_handlers _ _
  · exact drainPartGo_handlers _ _ _

/-- A doorbell marks the handler of its partition and the firmware's, before its record is posted. -/
def State.rung (s : State) (f : Nat) : State :=
  (s.updHandler f fun h => { h with bell := true }).updHandler 16 fun h => { h with bell := true }

theorem State.rung_bells {f : Nat} (hf : f < 16) : (f < s.handlers.length → ((s.rung f).handler f).bell = true) ∧
    (16 < s.handlers.length → ((s.rung f).handler 16).bell = true) := by
  refine ⟨fun h => ?_, fun h => ?_⟩
  · rw [State.rung, State.handler_updHandler_of_ne _ _ (by omega), State.handler_updHandler_self _ _ _ h]
  · rw [State.rung, State.handler_updHandler_self _ _ _ (by simpa using h)]

theorem State.hostWrite_doorbell {f : Nat} (hp : s.dev.phase = 3) (hf : f < 16) : s.hostWrite 0x00C f 0 =
    (s.rung f).post f { frec := FaultRec.blank 0x19 s.tick, page := none } :=
  State.hostWrite_ok hp ((State.regWrite_part (.inl rfl) rfl hf).trans rfl)

section
variable {n : Nat} {x : DWord} (hp : s.dev.phase = 3)
include hp

theorem State.hostWrite_sigpend : s.hostWrite 0x00D 0 x =
    (s.setDev { s.dev with sigPend := s.dev.sigPend &&& ~~~x }).acked .host [1] :=
  State.hostWrite_ok hp ((State.regWrite_dev rfl).trans rfl)

theorem State.hostWrite_irqpend : s.hostWrite 0x018 0 x =
    (s.setDev { s.dev with irqPend := s.dev.irqPend &&& ~~~(x.setWidth 32) }).acked .host
      ((natsFrom 0 32).filter fun v => (x.setWidth 32).getLsbD v) :=
  State.hostWrite_ok hp ((State.regWrite_dev rfl).trans rfl)

theorem State.hostWrite_qhead : s.hostWrite 0x00A 0 x = s.qhead .host x :=
  State.hostWrite_ok hp ((State.regWrite_dev rfl).trans rfl)

theorem State.hostWrite_qdone : s.hostWrite 0x00B 0 x = s.qdone x :=
  State.hostWrite_ok hp ((State.regWrite_dev rfl).trans rfl)

end

/-- The records that a write of HOST_QHEAD passes are taken off the queue; none waits to come on. -/
theorem State.qhead_dev (hw : s.dev.hostWait = []) (x : DWord) : (s.qhead .host x).dev.qhead = x.toNat % 256 ∧
    (s.qhead .host x).dev.qcount = s.dev.qcount - min s.dev.qcount ((x.toNat % 256 + 256 - s.dev.qhead) % 256) := by
  have hv : bitsOf x 0 8 = x.toNat % 256 := by simp [bitsOf]
  have hdrain (u : State) (hu : u.dev.hostWait = []) : u.drainHost = u := by
    simp only [State.drainHost, hu, List.length_nil, drainHostGo]
  unfold State.qhead
  dsimp only
  rw [hdrain _ (by exact hw), hv]
  exact ⟨rfl, rfl⟩

theorem State.qdone_page {x : DWord} {k id : Nat} {q : Queued}
    (hf : (s.dev.hostRing.find? fun e => e.1 = x.toNat % 256) = some (k, q)) (hq : q.page = some id) :
    s.qdone x = s.resolvePage id (x.toNat / 2 ^ 32) := by
  have hv : bitsOf x 0 8 = x.toNat % 256 := by simp [bitsOf]
  have ho : bitsOf x 32 32 = x.toNat / 2 ^ 32 := by
    have := x.isLt
    unfold bitsOf
    omega
  simp only [State.qdone, hv, hf, hq, ho]

theorem State.qdone_none {x : DWord} (hf : (s.dev.hostRing.find? fun e => e.1 = x.toNat % 256) = none) : s.qdone x = s := by
  have hv : bitsOf x 0 8 = x.toNat % 256 := by simp [bitsOf]
  simp only [State.qdone, hv, hf]

/-! ### Partitions and clusters (R107, R381) -/

theorem State.hostWrite_clMode {cl : Nat} {x : DWord} (hp : s.dev.phase = 3) (hc : cl < 16) :
    (x.toNat % 4 ≠ 3 → s.hostWrite 0x020 cl x = s.updCluster cl fun c => { c with pendMode := some (x.setWidth 2) }) ∧
    (x.toNat % 4 = 3 → s.hostWrite 0x020 cl x = { s with dev := { s.dev with herr := true } }) := by
  have hv : bitsOf x 0 2 = x.toNat % 4 := by simp [bitsOf]
  have hw : s.regWrite .host 0x020 cl x = if bitsOf x 0 2 = 3 then .error { code := 1 }
      else .ok (s.updCluster cl fun c => { c with pendMode := some (x.setWidth 2) }) :=
    (State.regWrite_cluster rfl hc).trans rfl
  rw [hv] at hw
  exact ⟨fun h => State.hostWrite_ok hp (hw.trans (if_neg h)), fun h => State.hostWrite_error hp (hw.trans (if_pos h))⟩

/-- A change of PART_CFG by firmware that names a valid size, place and channel, and no cluster of another partition. -/
theorem State.fwWrite_partCfg {f : Nat} {x : DWord} (hf : f < 16) (hs : (x.extractLsb' 60 3).toNat ≤ 4)
    (hal : f % 2 ^ (x.extractLsb' 60 3).toNat = 0) (hch : x.extractLsb' 44 8 ≠ 0)
    (hb : s.anyBound f = false) (hno : ∀ g, g ≠ f → g < 16 → (s.part g).valid = true → ∀ c, g ≤ c →
      c < g + 2 ^ (s.part g).size.toNat → ¬ (f ≤ c ∧ c < f + 2 ^ (x.extractLsb' 60 3).toNat)) :
    s.fwWrite 0x010 f x = s.updPart f fun _ => { s.part f with
      valid := x.getLsbD 63, size := x.extractLsb' 60 3, chan := x.extractLsb' 44 8, sarea := x.extractLsb' 32 4 } := by
  have hclash : ((natsFrom 0 16).any fun g => g != f && (s.part g).valid &&
      (partSpan g (s.part g).size.toNat).any fun c => c ∈ partSpan f (x.extractLsb' 60 3).toNat) = false := by
    refine Bool.eq_false_iff.mpr fun h => ?_
    simp only [List.any_eq_true, partSpan, Bool.and_eq_true, decide_eq_true_eq, bne_iff_ne, mem_natsFrom] at h
    obtain ⟨g, ⟨-, hg⟩, ⟨hne, hval⟩, c, ⟨h1, h2⟩, h3⟩ := h
    exact hno g hne (by omega) hval c h1 h2 h3
  have hw : s.regWrite (.slot 16) 0x010 f x = s.partCfg (.slot 16) f x := State.regWrite_part (.inr rfl) rfl hf
  have hpass (same : Bool) (k : RegRes) : fwOnly (.slot 16) same k = k := rfl
  have hplace : (decide ((x.extractLsb' 60 3).toNat > 4) || f % 2 ^ (x.extractLsb' 60 3).toNat != 0 ||
      decide (x.extractLsb' 44 8 = 0)) = false := by
    rw [decide_eq_false (by omega), decide_eq_false hch, bne_eq_false_iff_eq.mpr hal]; rfl
  rw [State.fwWrite, hw, State.partCfg, hpass]
  simp only [hclash, hplace, hb, Bool.or_false, Bool.and_false, Bool.false_eq_true, if_false]

theorem hostEvents : Claim.HostEvents := by
  refine ⟨?ctx, fun c s e x hp he hst => ?dbgCtl, fun cl s x hp => ?clMode,
    fun s x hp => ⟨?sigpend, ?irqpend, fun hw => ?qhead, ?qdonePage, ?qdoneNone⟩,
    fun f s hp => ?doorbell, fun f s x hf => ?partCfg⟩
  case ctx =>
    intro c s e x hp he k
    have hc : k < 64 := c.isLt
    refine ⟨fun hst => ⟨_, congrArg Host.Outcome.next (State.hostWrite_resume hp hc he hst), ?resume⟩,
      fun hst => ⟨_, congrArg Host.Outcome.next (State.hostWrite_spc hp hc he hst), ?spc⟩,
      ⟨_, congrArg Host.Outcome.next (State.hostWrite_limit hp hc), ?limit⟩, fun n hn => ?residency, ⟨_, rfl, fun ha => ?trace⟩⟩
    case resume =>
      rw [State.ctx_updCtx he]
      exact ⟨(Stream.judge_frame _).1, Stream.judge_status (.inl rfl)⟩
    case spc =>
      rw [State.ctx_updCtx he]
      exact ⟨rfl, rfl⟩
    case limit =>
      rw [State.ctx_updCtx he]
      exact ⟨(Stream.judge_frame _).2, fun h => Stream.judge_status h⟩
    case residency =>
      obtain ⟨t, ht, hm, hctxs⟩ := State.hostWrite_residency (x := x) hp hc n.isLt
      refine ⟨t, congrArg Host.Outcome.next ht, hm, ?_⟩
      rw [State.ctx, hctxs, ← State.ctx, State.ctx_updCtx he, listGet_listSet_self _ _ _ _ hn]
    case trace =>
      have hctx : (s.hostWrite 0x119 k x).ctx k =
          { e with dbg := { e.dbg with traceBase := keepBits x 12 40, traceN := 0, traceDrop := 0 } } := by
        rw [State.hostWrite_traceBase hp hc ha]
        exact State.ctx_updCtx he _
      exact ⟨congrArg (fun e : Ctx => e.dbg.traceBase) hctx, congrArg (fun e : Ctx => e.dbg.traceN) hctx,
        congrArg (fun e : Ctx => e.dbg.traceDrop) hctx⟩
  case dbgCtl =>
    exact ⟨_, congrArg Host.Outcome.next (State.hostWrite_dbgCtl hp c.isLt he hst), State.dbgCtl_mem _ _ _,
      State.ctx_dbgCtl he x⟩
  case clMode =>
    obtain ⟨hset, hbad⟩ := State.hostWrite_clMode (x := x) hp cl.isLt
    exact ⟨fun h => congrArg Host.Outcome.next (hset h), fun h => congrArg Host.Outcome.next (hbad h)⟩
  case sigpend => exact ⟨_, congrArg Host.Outcome.next (State.hostWrite_sigpend hp), rfl, rfl⟩
  case irqpend => exact ⟨_, congrArg Host.Outcome.next (State.hostWrite_irqpend hp), rfl, rfl⟩
  case qhead => exact ⟨_, congrArg Host.Outcome.next (State.hostWrite_qhead hp), State.qhead_dev hw x⟩
  case qdonePage =>
    intro k id q hf hq
    exact congrArg Host.Outcome.next ((State.hostWrite_qdone hp).trans (State.qdone_page hf hq))
  case qdoneNone => exact fun hf => congrArg Host.Outcome.next ((State.hostWrite_qdone hp).trans (State.qdone_none hf))
  case doorbell =>
    obtain ⟨hpart, hfw⟩ := State.rung_bells (s := s) f.isLt
    refine ⟨s.rung f.toNat, _, congrArg Host.Outcome.next (State.hostWrite_doorbell hp f.isLt), hpart, hfw, rfl, rfl, ?_⟩
    rw [State.handler, State.post_handlers]
    exact fun h => hpart (by simpa [State.rung] using h)
  case partCfg =>
    intro size hv hs hal hch hb hno
    refine ⟨_, congrArg Host.Outcome.next (State.fwWrite_partCfg f.isLt hs hal hch hb hno), rfl, ?_⟩
    rw [State.part_updPart_self _ _ _ hf]
    exact ⟨hv, rfl, rfl, rfl⟩

/-- Settles O44: each write by what its register's checks and effect are. -/
theorem hostWrites : Obligations.HostWrites := ⟨hostRegisterWrites, hostEvents⟩

end Sys2Proof.Machine

/-! ## Arrivals at D (O51) -/

namespace Sys2Proof.Machine

/-! ### What arrives at D (R116) -/

section
variable {m : Memory} {bs : List NewByte} {a : Nat}

theorem Memory.atD_foldl_setD_of_ne (h : ∀ b ∈ bs, b.addr ≠ a) (m : Memory) :
    (bs.foldl (fun m b => m.setD b.addr b.val) m).atD a = m.atD a := by
  induction bs generalizing m with
  | nil => rfl
  | cons b bs ih =>
    rw [List.forall_mem_cons] at h
    rw [List.foldl_cons, ih h.2, Memory.atD_setD_of_ne _ _ h.1.symm]

theorem Memory.atD_foldl_setD_of_mem (hn : (bs.map NewByte.addr).Nodup) {b : NewByte} (hb : b ∈ bs) (hm : m.wf = true) :
    (bs.foldl (fun m b => m.setD b.addr b.val) m).atD b.addr = b.val := by
  induction bs generalizing m with
  | nil => cases hb
  | cons c bs ih =>
    rw [List.map_cons, List.nodup_cons] at hn
    rw [List.foldl_cons]
    rcases List.mem_cons.mp hb with rfl | hb
    · have hlater : ∀ d ∈ bs, d.addr ≠ b.addr := fun d hd e => hn.1 (e ▸ List.mem_map_of_mem hd)
      rw [Memory.atD_foldl_setD_of_ne hlater, Memory.atD_setD_self _ _ hm]
    · exact ih hn.2 hb (Memory.setD_wf _ _ hm)

/-- The write that an arrival makes of a byte keeps what D held there before. -/
theorem Memory.find?_writesOf (m : Memory) (bs : List NewByte) (a : Nat) :
    (∃ w, ((m.writesOf bs).find? fun w => w.addr = a) = some w ∧ w.old = m.atD a) ∨
    ((m.writesOf bs).find? fun w => w.addr = a) = none ∧ ∀ b ∈ bs, b.addr ≠ a := by
  induction bs with
  | nil => exact .inr ⟨rfl, nofun⟩
  | cons b bs ih =>
    rw [Memory.writesOf]
    by_cases hb : b.addr = a
    · exact .inl ⟨_, List.find?_cons_of_pos (by simpa using hb), by rw [← hb]⟩
    · rw [List.find?_cons_of_neg (by simpa using hb), List.forall_mem_cons]
      exact ih.imp_right fun h => ⟨h.1, hb, h.2⟩

/-- Taking back an arrival gives every byte as it stood before. -/
theorem Memory.atPos_arriveD (m : Memory) (now : Nat) (who : Party) (bs : List NewByte) (a : Nat) :
    (m.arriveD now who bs).atPos m.pos a = m.atPos m.pos a := by
  have hlater : ¬ m.pos + 1 ≤ m.pos := by omega
  simp only [Memory.atPos, Memory.arriveD, backTo, if_neg hlater, Arrival.writeAt]
  obtain ⟨w, hw, hold⟩ | ⟨hw, hne⟩ := m.find?_writesOf bs a
  · simp only [hw, hold]
  · simp only [hw]
    exact congrArg (backTo m.pos m.log · a) (Memory.atD_foldl_setD_of_ne hne m)

end

/-- Settles O51: what an arrival stores reads back, and its writes keep what stood before. -/
theorem arrivalsReadBack : Obligations.ArrivalsReadBack := fun m now who bs hm hn =>
  ⟨Memory.arriveD_wf now who bs hm, fun _ hb => Memory.atD_foldl_setD_of_mem hn hb hm,
    fun _ ha => Memory.atD_foldl_setD_of_ne ha m, m.atPos_arriveD now who bs, rfl⟩

end Sys2Proof.Machine

/-! ## A and D bits of page table entries (O50) -/

namespace Sys2Proof.Machine

/-! ### Entries that differ in them (R414) -/

/-- The second entry is the first with none, one or both of its A and D bits set. -/
def Marked (e e' : Nat) : Prop :=
  e % 32 = e' % 32 ∧ e / 128 = e' / 128 ∧ (pteA e = true → pteA e' = true) ∧ (pteD e = true → pteD e' = true)

theorem Marked.refl (e : Nat) : Marked e e := ⟨rfl, rfl, id, id⟩

section
variable {e e' : Nat} (h : Marked e e')
include h

theorem Marked.fields : pteV e' = pteV e ∧ pteL e' = pteL e ∧ pteW e' = pteW e ∧ pteX e' = pteX e ∧
    pteSize e' = pteSize e ∧ ptePa e' = ptePa e := by
  obtain ⟨hlow, hhigh, -, -⟩ := h
  have hsize : e' / 2 ^ 60 = e / 2 ^ 60 := by omega
  have hpa : e' / 4096 = e / 4096 := by omega
  refine ⟨?_, ?_, ?_, ?_, by rw [pteSize, hsize, pteSize], by rw [ptePa, hpa, ptePa]⟩ <;>
    simp only [pteV, pteL, pteW, pteX, decide_eq_decide] <;> omega

theorem Marked.malformed (l : Nat) : malformed l e' = malformed l e := by
  obtain ⟨-, hl, -, -, hs, -⟩ := h.fields
  simp only [Machine.malformed, hl, hs]

/-- An entry that a walk would update is one that it would update before some of the bits were set. -/
theorem Marked.withAD_ne {kind : Access} (hu : withAD e' kind ≠ e') : withAD e kind ≠ e := by
  obtain ⟨-, -, ha, hd⟩ := h
  unfold withAD at hu ⊢
  by_cases hea : pteA e = true
  · simp only [hea, ha hea, if_true] at hu ⊢
    by_cases hed : pteD e = true
    · simp [hd hed] at hu
    · cases kind <;> simp_all
  · rw [if_neg hea]
    dsimp only
    split <;> omega

end

/-- The masks of the A and D bits in the first byte of an entry. -/
def adMasks : List Byte := [0x00#8, 0x20#8, 0x40#8, 0x60#8]

theorem or_adMasks : ∀ j ∈ adMasks, ∀ k ∈ adMasks, j ||| k ∈ adMasks := by decide

theorem pteA_eq (e : Nat) : pteA e = e.testBit 5 := by
  rw [Nat.testBit_eq_decide_div_mod_eq]
  rfl

theorem pteD_eq (e : Nat) : pteD e = e.testBit 6 := by
  rw [Nat.testBit_eq_decide_div_mod_eq]
  rfl

/-- An entry with a bit of its first byte set, where it is to be set and is not. -/
theorem addBit_spec (e : Nat) {i : Nat} (hi : i = 5 ∨ i = 6) {p : Bool} (hp : p = true → e.testBit i = false) :
    (if p then e + 2 ^ i else e) / 256 = e / 256 ∧
    ∃ k ∈ [0x00#8, BitVec.twoPow 8 i], BitVec.ofNat 8 (if p then e + 2 ^ i else e) = BitVec.ofNat 8 e ||| k := by
  cases p with
  | false => exact ⟨rfl, _, List.mem_cons_self, BitVec.or_zero.symm⟩
  | true =>
    have hbit := hp rfl
    have hclear : BitVec.ofNat 8 e &&& BitVec.twoPow 8 i = 0#8 := by
      rw [BitVec.and_twoPow, BitVec.getLsbD_ofNat, hbit, Bool.and_false, if_neg Bool.false_ne_true]
    refine ⟨?_, _, List.mem_cons_of_mem _ List.mem_cons_self, ?_⟩
    · rw [Nat.testBit_eq_decide_div_mod_eq, decide_eq_false_iff_not] at hbit
      rcases hi with rfl | rfl <;> simp only [if_true] <;> omega
    · rw [if_pos rfl, BitVec.ofNat_add, ← BitVec.add_eq_or_of_and_eq_zero _ _ hclear]
      rcases hi with rfl | rfl <;> rfl

/-- What a walk sets is in the first byte of the entry, and is one of the masks. -/
theorem withAD_spec (e : Nat) (kind : Access) : withAD e kind / 256 = e / 256 ∧
    ∃ k ∈ adMasks, BitVec.ofNat 8 (withAD e kind) = BitVec.ofNat 8 e ||| k := by
  have hmask : ∀ j ∈ [0x00#8, BitVec.twoPow 8 5], ∀ k ∈ [0x00#8, BitVec.twoPow 8 6], j ||| k ∈ adMasks := by decide
  have hA : (if pteA e then e else e + 32) = if !pteA e then e + 2 ^ 5 else e := by cases pteA e <;> rfl
  obtain ⟨hq, j, hj, hbyte⟩ := addBit_spec e (i := 5) (p := !pteA e) (.inl rfl) (by simp [pteA_eq])
  rw [withAD, hA]
  generalize (if !pteA e then e + 2 ^ 5 else e) = e1 at hq hbyte ⊢
  obtain ⟨hq', k, hk, hbyte'⟩ := addBit_spec e1 (i := 6) (p := kind = .write && !pteD e1) (.inr rfl) (by simp [pteD_eq])
  exact ⟨hq'.trans hq, j ||| k, hmask j hj k hk, hbyte'.trans (by rw [hbyte, BitVec.or_assoc])⟩

/-- An entry with some of the two bits set is marked. -/
theorem marked_or (e : Nat) {k : Nat} (hlow : k % 2 ^ 5 = 0) (hhigh : k / 2 ^ 7 = 0) : Marked e (e ||| k) := by
  have hmod : (e ||| k) % 2 ^ 5 = e % 2 ^ 5 := by rw [Nat.or_mod_two_pow, hlow, Nat.or_zero]
  have hdiv : (e ||| k) / 2 ^ 7 = e / 2 ^ 7 := by rw [Nat.or_div_two_pow, hhigh, Nat.or_zero]
  refine ⟨hmod.symm, hdiv.symm, ?_, ?_⟩
  · simp only [pteA_eq, Nat.testBit_or]
    exact fun h => by rw [h, Bool.true_or]
  · simp only [pteD_eq, Nat.testBit_or]
    exact fun h => by rw [h, Bool.true_or]

/-- Higher bytes do not bear on the marks of the first. -/
theorem Marked.add {b b' : Nat} (h : Marked b b') (n : Nat) : Marked (b + 256 * n) (b' + 256 * n) := by
  unfold Marked at *
  simp only [pteA, pteD, decide_eq_true_eq] at *
  omega

/-- An entry whose first byte is masked is marked. -/
theorem marked_natOf {b k : Byte} (hk : k ∈ adMasks) (l : List Byte) :
    Marked (natOf (b :: l)) (natOf ((b ||| k) :: l)) := by
  have hbits : ∀ k ∈ adMasks, k.toNat % 2 ^ 5 = 0 ∧ k.toNat / 2 ^ 7 = 0 := by decide
  have hb := marked_or b.toNat (hbits k hk).1 (hbits k hk).2
  rw [← BitVec.toNat_or] at hb
  exact hb.add _

/-! ### A walk's write of an entry (R414) -/

section
variable {m : Memory}

theorem Memory.numD_succ (m : Memory) (a n : Nat) : m.numD a (n + 1) = (m.atD a).toNat + 256 * m.numD (a + 1) n := rfl

theorem agentBytes_spelled (a : Nat) (bs : List Byte) : SpelledAt (agentBytes a bs) a bs := by
  simp [SpelledAt, agentBytes, Function.comp_def]

/-- The entry that a walk writes is the entry with its first byte masked. -/
theorem bytesOf_withAD (m : Memory) (a : Nat) (kind : Access) : ∃ k ∈ adMasks,
    bytesOf 8 (withAD (m.numD a 8) kind) = (m.atD a ||| k) :: m.readD (a + 1) 7 := by
  obtain ⟨hq, k, hk, hbyte⟩ := withAD_spec (m.numD a 8) kind
  have hfirst : BitVec.ofNat 8 (m.numD a 8) = m.atD a := by
    rw [m.numD_succ a 7]
    refine BitVec.eq_of_toNat_eq ?_
    rw [BitVec.toNat_ofNat]
    omega
  have hrest : m.numD a 8 / 256 = natOf (m.readD (a + 1) 7) := by
    rw [m.numD_succ a 7]
    exact (Nat.add_mul_div_left _ _ (by omega)).trans (by rw [Nat.div_eq_of_lt (m.atD a).isLt, Nat.zero_add]; rfl)
  refine ⟨k, hk, ?_⟩
  rw [bytesOf, hbyte, hfirst, hq, hrest]
  exact congrArg _ (by simpa [Memory.readD] using bytesOf_natOf (m.readD (a + 1) 7))

/-- A walk's write masks the first byte of the entry and changes no other. -/
theorem atD_agentWrite_withAD (hm : m.wf = true) (now agent a : Nat) (kind : Access) : ∃ k ∈ adMasks, ∀ b,
    (m.agentWrite now agent a (bytesOf 8 (withAD (m.numD a 8) kind))).atD b = if b = a then m.atD a ||| k else m.atD b := by
  obtain ⟨k, hk, hbytes⟩ := bytesOf_withAD m a kind
  refine ⟨k, hk, fun b => ?_⟩
  rw [Memory.agentWrite, Memory.atD_arriveD (agentBytes_spelled _ _) hm, length_bytesOf, hbytes]
  split
  next hin =>
    obtain ⟨i, rfl⟩ : ∃ i, b = a + i := ⟨b - a, by omega⟩
    rw [Nat.add_sub_cancel_left]
    cases i with
    | zero => rw [if_pos (Nat.add_zero a)]; rfl
    | succ i =>
      have hi : (natsFrom (a + 1) 7)[i]? = some (a + 1 + i) := by
        rw [natsFrom_eq_range', List.getElem?_range' (by omega), Nat.one_mul]
      rw [if_neg (by omega)]
      simp only [listGet, List.getElem?_cons_succ, Memory.readD, List.getElem?_map, hi]
      exact congrArg m.atD (by omega)
  next hin => rw [if_neg (by omega)]

/-- Fewer bytes than a line has end no line's poison. -/
theorem Memory.poison_agentWrite (m : Memory) (now agent a : Nat) {bs : List Byte} (hb : bs.length < 128) :
    (m.agentWrite now agent a bs).poison = m.poison := by
  refine List.filter_eq_self.mpr fun l _ => ?_
  by_contra hall
  simp only [Bool.not_eq_true', Bool.not_eq_false, List.all_eq_true, List.any_eq_true, decide_eq_true_eq] at hall
  have hsub : natsFrom l 128 ⊆ (agentBytes a bs).map NewByte.addr := fun c hc => by
    obtain ⟨b, hb, rfl⟩ := hall c hc
    exact List.mem_map_of_mem hb
  have hle := ((nodup_natsFrom l 128).subperm hsub).length_le
  rw [(agentBytes_spelled a bs).addrs, length_natsFrom, length_natsFrom] at hle
  omega

end

end Sys2Proof.Machine

/-! ## The walks of an access (O50) -/

namespace Sys2Proof.Machine

/-! ### What a walk may take, and where it leads (R413, R416, R417) -/

/-- The non-leaf entries that a cluster's walk cache holds for a context, by their address. -/
def State.walkCache (s : State) (x : Via) (ctx a : Nat) : List Nat :=
  ((((s.walksOf x).filter fun y => y.ctx = ctx && !pteL y.entry.toNat).filter fun y => y.addr = a).map
    fun y => y.entry.toNat).eraseDups

/-- The first table of a context. -/
def State.rootAt (s : State) (ctx : Nat) : Nat := ((s.ctxs[ctx]?).map Ctx.root).getD 0

theorem State.walks_eq (s : State) (x : Via) (ctx va : Nat) (kind : Access) :
    s.walks x ctx va kind = walkAll s (s.walkCache x ctx) ctx va kind 5 (s.rootAt ctx) [] := rfl

theorem State.mem_walkCache {s : State} {x : Via} {ctx a e : Nat} : e ∈ s.walkCache x ctx a ↔
    ∃ y ∈ s.walksOf x, y.ctx = ctx ∧ pteL y.entry.toNat = false ∧ y.addr = a ∧ y.entry.toNat = e := by
  simp only [State.walkCache, List.mem_eraseDups, List.mem_map, List.mem_filter, Bool.and_eq_true, decide_eq_true_eq,
    Bool.not_eq_true', and_assoc]

/-- An entry that a walk may take at an address: the one at D, in no poisoned line, or a cached one. -/
def Available (s : State) (cached : Nat → List Nat) (addr e : Nat) : Prop :=
  s.mem.poisoned addr 8 = false ∧ e = s.mem.numD addr 8 ∨ e ∈ cached addr

section
variable (s : State) (cached : Nat → List Nat) (ctx va : Nat) (kind : Access)

/-- The walks that go on from an entry. -/
def walkFrom (l addr : Nat) (rd : List WalkEntry) (e : Nat) : List WalkOut :=
  let out (r : Trans) : List WalkOut := [{ res := r, leaf := none, read := rd, update := none }]
  if !pteV e then out (.absent l)
  else if malformed l e then out (.denied 3)
  else if pteL e then
    if kind = .write && !pteW e then out (.denied 1)
    else if kind = .fetch && !pteX e then out (.denied 2)
    else
      [{ res := .ok ((leafOf ctx va e).pbase + (va - (leafOf ctx va e).vbase))
         leaf := some { leafOf ctx va e with d := pteD (withAD e kind) }, read := rd
         update := if withAD e kind = e then none else some (addr, withAD e kind) }]
  else if !s.paValid (ptePa e) then out (.denied 4)
  else walkAll s cached ctx va kind l (ptePa e) (rd ++ [{ ctx := ctx, addr := addr, entry := BitVec.ofNat 64 e }])

/-- A walk stops at a poisoned line, or goes on from an entry that it may take. -/
theorem mem_walkAll_succ {l t : Nat} {rd : List WalkEntry} {o : WalkOut} :
    o ∈ walkAll s cached ctx va kind (l + 1) t rd ↔
      (s.mem.poisoned (t + 8 * ptIndex l va) 8 = true ∧
        o = { res := .ecc ((t + 8 * ptIndex l va) / 128 * 128), leaf := none, read := rd, update := none }) ∨
      ∃ e, Available s cached (t + 8 * ptIndex l va) e ∧
        o ∈ walkFrom s cached ctx va kind l (t + 8 * ptIndex l va) rd e := by
  have hsucc : walkAll s cached ctx va kind (l + 1) t rd =
      let addr := t + 8 * ptIndex l va
      let now := s.mem.numD addr 8
      if s.mem.poisoned addr 8 then
        [{ res := .ecc (addr / 128 * 128), leaf := none, read := rd, update := none }] ++
          (cached addr).flatMap (walkFrom s cached ctx va kind l addr rd)
      else walkFrom s cached ctx va kind l addr rd now ++
        ((cached addr).filter fun e => e != now).flatMap (walkFrom s cached ctx va kind l addr rd) := rfl
  rw [hsucc]
  dsimp only
  generalize t + 8 * ptIndex l va = addr
  unfold Available
  split
  next hp =>
    simp [hp]
  next hp =>
    simp only [hp, List.mem_append, List.mem_flatMap, List.mem_filter, bne_iff_ne]
    constructor
    · rintro (h | ⟨e, ⟨he, -⟩, h⟩)
      · exact .inr ⟨_, .inl ⟨by simp, rfl⟩, h⟩
      · exact .inr ⟨e, .inr he, h⟩
    · rintro (⟨h, -⟩ | ⟨e, ⟨-, he⟩ | he, h⟩)
      · exact absurd h (by simp)
      · exact .inl (he ▸ h)
      · by_cases hn : e = s.mem.numD addr 8
        · exact .inl (hn ▸ h)
        · exact .inr ⟨e, ⟨he, hn⟩, h⟩

/-- An entry is a leaf that gives a translation for an access of a kind. -/
def leadsOut (l e : Nat) : Bool :=
  pteV e && !malformed l e && pteL e && !(kind = .write && !pteW e) && !(kind = .fetch && !pteX e)

/-- An entry points to a table that a walk goes on to. -/
def leadsOn (l e : Nat) : Bool := pteV e && !malformed l e && !pteL e && s.paValid (ptePa e)

variable {s cached ctx va kind} {l addr : Nat} {rd : List WalkEntry} {e : Nat} {o : WalkOut}

/-- A walk from an entry stops, updates it, or goes on to the table it points to. -/
theorem mem_walkFrom (ho : o ∈ walkFrom s cached ctx va kind l addr rd e) :
    (o.update = none ∧ o.read = rd) ∨
    (leadsOut kind l e = true ∧ withAD e kind ≠ e ∧ o.update = some (addr, withAD e kind) ∧ o.read = rd) ∨
    (leadsOn s l e = true ∧ o ∈ walkAll s cached ctx va kind l (ptePa e)
      (rd ++ [{ ctx := ctx, addr := addr, entry := BitVec.ofNat 64 e }])) := by
  have stop {r : Trans} (h : o ∈ [({ res := r, leaf := none, read := rd, update := none } : WalkOut)]) :
      o.update = none ∧ o.read = rd := List.mem_singleton.mp h ▸ ⟨rfl, rfl⟩
  unfold walkFrom at ho
  dsimp only at ho
  split at ho
  · exact .inl (stop ho)
  split at ho
  · exact .inl (stop ho)
  split at ho
  · split at ho
    · exact .inl (stop ho)
    split at ho
    · exact .inl (stop ho)
    obtain rfl := List.mem_singleton.mp ho
    by_cases hw : withAD e kind = e
    · exact .inl ⟨if_pos hw, rfl⟩
    · exact .inr (.inl ⟨by simp_all [leadsOut, imp_iff_not_or], hw, if_neg hw, rfl⟩)
  · split at ho
    · exact .inl (stop ho)
    · exact .inr (.inr ⟨by simp_all [leadsOn], ho⟩)

theorem exists_update_of_leadsOut (h : leadsOut kind l e = true) (hw : withAD e kind ≠ e) :
    ∃ o ∈ walkFrom s cached ctx va kind l addr rd e, o.update = some (addr, withAD e kind) := by
  simp only [leadsOut, Bool.and_eq_true, Bool.not_eq_true'] at h
  obtain ⟨⟨⟨⟨hV, hm⟩, hL⟩, hW⟩, hX⟩ := h
  simp only [walkFrom, hV, hm, hL, hW, hX, Bool.not_true, Bool.false_eq_true, if_false, if_true, List.mem_singleton,
    exists_eq_left]
  exact if_neg hw

theorem mem_walkFrom_of_leadsOn (h : leadsOn s l e = true) (ho : o ∈ walkAll s cached ctx va kind l (ptePa e)
    (rd ++ [{ ctx := ctx, addr := addr, entry := BitVec.ofNat 64 e }])) :
    o ∈ walkFrom s cached ctx va kind l addr rd e := by
  simp only [leadsOn, Bool.and_eq_true, Bool.not_eq_true'] at h
  obtain ⟨⟨⟨hV, hm⟩, hL⟩, hP⟩ := h
  simpa only [walkFrom, hV, hm, hL, hP, Bool.not_true, Bool.false_eq_true, if_false] using ho

end

/-- A and D bits have no part in where an entry leads. -/
theorem Marked.leads {e e' : Nat} (h : Marked e e') {s t : State} (hpa : t.paValid = s.paValid) (kind : Access) (l : Nat) :
    leadsOut kind l e' = leadsOut kind l e ∧ leadsOn t l e' = leadsOn s l e ∧ ptePa e' = ptePa e := by
  obtain ⟨hV, hL, hW, hX, -, hP⟩ := h.fields
  simp only [leadsOut, leadsOn, hV, hL, hW, hX, hP, hpa, h.malformed, and_self]

theorem ptePa_aligned (e : Nat) : 8 ∣ ptePa e := ⟨e / 4096 % 2 ^ 40 * 512, by unfold ptePa; omega⟩

section
variable {s : State} {cached : Nat → List Nat} {ctx va : Nat} {kind : Access} {o : WalkOut}

/-- A walk updates an entry at D, with what it sets of A and D there. -/
theorem walkAll_update (hc : ∀ a, ∀ e ∈ cached a, pteL e = false) {l t : Nat} {rd : List WalkEntry} {u : Nat × Nat}
    (ho : o ∈ walkAll s cached ctx va kind l t rd) (hu : o.update = some u) :
    u.2 = withAD (s.mem.numD u.1 8) kind := by
  induction l generalizing t rd with
  | zero =>
    obtain rfl := List.mem_singleton.mp ho
    cases hu
  | succ l ih =>
    obtain ⟨-, rfl⟩ | ⟨e, he, ho⟩ := (mem_walkAll_succ ..).mp ho
    · cases hu
    obtain ⟨hn, -⟩ | ⟨hout, -, hsome, -⟩ | ⟨-, ho⟩ := mem_walkFrom ho
    · cases hn.symm.trans hu
    · obtain rfl := Option.some.inj (hsome.symm.trans hu)
      obtain ⟨-, he⟩ | he := he
      · exact congrArg (withAD · kind) he
      · simp [leadsOut, hc _ _ he] at hout
    · exact ih ho

/-- A walk reads what it began with, and non-leaf entries, of its context, that it may take. -/
theorem walkAll_read {l t : Nat} {rd : List WalkEntry} (ht : 8 ∣ t) (ho : o ∈ walkAll s cached ctx va kind l t rd) :
    ∀ y ∈ o.read, y ∈ rd ∨ 8 ∣ y.addr ∧ ∃ e, Available s cached y.addr e ∧
      y = { ctx := ctx, addr := y.addr, entry := BitVec.ofNat 64 e } := by
  induction l generalizing t rd with
  | zero =>
    obtain rfl := List.mem_singleton.mp ho
    exact fun y hy => .inl hy
  | succ l ih =>
    obtain ⟨-, rfl⟩ | ⟨e, he, ho⟩ := (mem_walkAll_succ ..).mp ho
    · exact fun y hy => .inl hy
    obtain ⟨-, hr⟩ | ⟨-, -, -, hr⟩ | ⟨-, ho⟩ := mem_walkFrom ho
    · exact fun y hy => .inl (hr ▸ hy)
    · exact fun y hy => .inl (hr ▸ hy)
    · intro y hy
      obtain hy | hy := ih (ptePa_aligned e) ho y hy
      · obtain hy | hy := List.mem_append.mp hy
        · exact .inl hy
        · obtain rfl := List.mem_singleton.mp hy
          exact .inr ⟨Nat.dvd_add ht ⟨_, rfl⟩, e, he, rfl⟩
      · exact .inr hy

end

/-- Walks of two states over entries that differ in A and D bits alone: what the second would update, so would the
first. -/
theorem walkAll_marked {s t : State} {cached cached' : Nat → List Nat} (hpa : t.paValid = s.paValid)
    (hav : ∀ addr e', 8 ∣ addr → Available t cached' addr e' → ∃ e, Available s cached addr e ∧ Marked e e')
    {ctx va : Nat} {kind : Access} {l p : Nat} {rd rd' : List WalkEntry} {o' : WalkOut} {u : Nat × Nat} (hp : 8 ∣ p)
    (ho : o' ∈ walkAll t cached' ctx va kind l p rd') (hu : o'.update = some u) :
    8 ∣ u.1 ∧ ∃ o ∈ walkAll s cached ctx va kind l p rd, ∃ e, o.update = some (u.1, e) := by
  induction l generalizing p rd rd' with
  | zero =>
    obtain rfl := List.mem_singleton.mp ho
    cases hu
  | succ l ih =>
    obtain ⟨-, rfl⟩ | ⟨e', he', ho⟩ := (mem_walkAll_succ ..).mp ho
    · cases hu
    have haddr : 8 ∣ p + 8 * ptIndex l va := Nat.dvd_add hp ⟨_, rfl⟩
    obtain ⟨e, he, hm⟩ := hav _ _ haddr he'
    obtain ⟨hout, hon, hP⟩ := hm.leads hpa kind l
    obtain ⟨hn, -⟩ | ⟨h, hne, hsome, -⟩ | ⟨h, ho⟩ := mem_walkFrom ho
    · cases hn.symm.trans hu
    · obtain rfl := Option.some.inj (hsome.symm.trans hu)
      obtain ⟨o, ho, hupd⟩ := exists_update_of_leadsOut (hout ▸ h) (hm.withAD_ne hne)
      exact ⟨haddr, o, (mem_walkAll_succ ..).mpr (.inr ⟨e, he, ho⟩), _, hupd⟩
    · obtain ⟨ha, o, ho, hupd⟩ := ih (ptePa_aligned e) (hP ▸ ho)
      exact ⟨ha, o, (mem_walkAll_succ ..).mpr (.inr ⟨e, he, mem_walkFrom_of_leadsOn (hon ▸ h) ho⟩), hupd⟩

end Sys2Proof.Machine

/-! ## What a translation does (O50) -/

namespace Sys2Proof.Machine

/-! ### What translations leave alone -/

/-- The second state differs from the first in memory, in what the caches hold and in the choices drawn alone; of a core
in its translations alone. -/
structure State.Translated (s t : State) : Prop where
  rest : { t with mem := s.mem, cores := s.cores, clusters := s.clusters, fresh := s.fresh } = s
  core : ∀ c, { t.core c with tlb := (s.core c).tlb } = s.core c

theorem State.Translated.refl (s : State) : s.Translated s := ⟨rfl, fun _ => rfl⟩

section
variable {s t : State} (h : s.Translated t)
include h

theorem State.Translated.trans {u : State} (h' : t.Translated u) : s.Translated u where
  rest := by rw [← h.rest, ← h'.rest]
  core c := by rw [← h.core c, ← h'.core c]

theorem State.Translated.grids : t.grids = s.grids := congrArg (·.grids) h.rest
theorem State.Translated.blocks : t.blocks = s.blocks := congrArg (·.blocks) h.rest
theorem State.Translated.handlers : t.handlers = s.handlers := congrArg (·.handlers) h.rest
theorem State.Translated.cur : t.cur = s.cur := congrArg (·.cur) h.rest
theorem State.Translated.paValid : t.paValid = s.paValid := congrArg (·.paValid) h.rest
theorem State.Translated.rootAt (ctx : Nat) : t.rootAt ctx = s.rootAt ctx := congrArg (·.rootAt ctx) h.rest
theorem State.Translated.logBase (kid : Nat) : t.logBase kid = s.logBase kid := congrArg (·.logBase kid) h.rest
theorem State.Translated.scratch (c : Nat) : (t.core c).scratch = (s.core c).scratch := congrArg (·.scratch) (h.core c)
theorem State.Translated.waves (c : Nat) : (t.core c).waves = (s.core c).waves := congrArg (·.waves) (h.core c)
theorem State.Translated.port (c : Nat) : (t.core c).port = (s.core c).port := congrArg (·.port) (h.core c)

end

theorem State.Drew.translated {s t : State} (h : s.Drew t) : s.Translated t := by
  obtain ⟨n, rfl⟩ := h
  exact ⟨rfl, fun _ => rfl⟩

theorem State.take_translated (s : State) (x : Via) (r : Route) : s.Translated (s.take x r) where
  rest := by
    unfold State.take State.applyWalk State.fillTlb
    dsimp only
    split
    · rfl
    · split <;> rfl
    · split <;> split <;> rfl
  core c := State.take_core_congr (g := fun k => { k with tlb := (s.core c).tlb }) (fun _ _ => rfl) s x r c

/-! ### Routes and walks that are made -/

theorem mem_foldl_keepNew {α : Type} [DecidableEq α] {n : Nat} {y : α} {l rd : List α}
    (h : y ∈ rd.foldl (fun l e => keepNew n e l) l) : y ∈ l ∨ y ∈ rd := by
  induction rd generalizing l with
  | nil => exact .inl h
  | cons e rd ih =>
    obtain h | h := ih h
    · obtain rfl | h := List.mem_cons.mp (List.mem_of_mem_take h)
      · exact .inr List.mem_cons_self
      · exact .inl (List.mem_filter.mp h).1
    · exact .inr (List.mem_cons_of_mem _ h)

/-- A walk fills the walk cache with what it read. -/
theorem State.walksOf_fillTlb (s : State) (x : Via) (o : WalkOut) : (s.fillTlb x o).walksOf x =
    ((s.clusters[x.cl]?).map fun c => o.read.foldl (fun l e => keepNew 128 e l) c.walks).getD [] := by
  unfold State.fillTlb State.walksOf
  dsimp only
  split <;>
  · simp only [getElem?_listUpd, if_true, Option.map_map]
    congr 2
    funext c
    cases o.leaf <;> rfl

theorem State.mem_walksOf_fillTlb {s : State} {x : Via} {o : WalkOut} {y : WalkEntry}
    (h : y ∈ (s.fillTlb x o).walksOf x) : y ∈ s.walksOf x ∨ y ∈ o.read := by
  rw [State.walksOf_fillTlb] at h
  unfold State.walksOf
  cases hc : s.clusters[x.cl]? with
  | none => simp [hc] at h
  | some c => exact mem_foldl_keepNew (by simpa [hc] using h)

/-- What a walk's update makes of memory. -/
def State.updated (s : State) (o : WalkOut) : Memory :=
  o.update.elim s.mem fun u => s.mem.agentWrite s.tick walkerAgent u.1 (bytesOf 8 u.2)

theorem State.applyWalk_mem (s : State) (x : Via) (o : WalkOut) : (s.applyWalk x o).mem = s.updated o := by
  unfold State.applyWalk State.updated
  cases o.update <;> rw [State.fillTlb_mem] <;> rfl

theorem State.mem_walksOf_applyWalk {s : State} {x : Via} {o : WalkOut} {y : WalkEntry}
    (h : y ∈ (s.applyWalk x o).walksOf x) : y ∈ s.walksOf x ∨ y ∈ o.read := by
  unfold State.applyWalk at h
  cases hu : o.update <;>
    · simp only [hu] at h
      have hmem := State.mem_walksOf_fillTlb h
      exact hmem

theorem listGet_mem {α : Type} (r : α) (l : List α) (n : Nat) : listGet (r :: l) n r ∈ r :: l := by
  unfold listGet
  cases h : (r :: l)[n]? with
  | none => exact List.mem_cons_self
  | some y => exact List.mem_of_getElem? h

/-- A translation gives up at once, or takes one of the routes. -/
theorem State.translate_route (s : State) (x : Via) (ctx va : Nat) (kind : Access) :
    (s.translate x ctx va kind).2 = s ∨
    ∃ u, s.Drew u ∧ ∃ r ∈ s.routes x ctx va kind, (s.translate x ctx va kind).2 = u.take x r := by
  unfold State.translate
  split
  · exact .inl rfl
  next r l hr =>
    refine .inr ?_
    rw [hr]
    split
    · exact ⟨s, .refl s, r, List.mem_cons_self, rfl⟩
    · exact ⟨_, s.pick_drew _, _, listGet_mem r l _, rfl⟩

theorem State.translate_translated (s : State) (x : Via) (ctx va : Nat) (kind : Access) :
    s.Translated (s.translate x ctx va kind).2 := by
  obtain h | ⟨u, hu, r, -, h⟩ := s.translate_route x ctx va kind
  · rw [h]
    exact .refl s
  · rw [h]
    exact hu.translated.trans (u.take_translated x r)

/-- A translation leaves memory and the walk cache, or makes one of its walks, with that walk's effects. -/
theorem State.translate_effects (s : State) (x : Via) (ctx va : Nat) (kind : Access) :
    let t := (s.translate x ctx va kind).2
    (t.mem = s.mem ∧ t.walksOf x = s.walksOf x) ∨
    ∃ o ∈ s.walks x ctx va kind, t.mem = s.updated o ∧ ∀ y ∈ t.walksOf x, y ∈ s.walksOf x ∨ y ∈ o.read := by
  dsimp only
  obtain h | ⟨u, ⟨n, rfl⟩, r, hr, h⟩ := s.translate_route x ctx va kind
  · exact .inl (by rw [h]; exact ⟨rfl, rfl⟩)
  rw [h]
  cases r with
  | near r => exact .inl ⟨rfl, rfl⟩
  | far r f =>
    obtain ⟨_ | c, cl⟩ := x <;> exact .inl ⟨rfl, rfl⟩
  | walk o =>
    have ho : o ∈ s.walks x ctx va kind := by
      simpa [State.routes] using hr
    exact .inr ⟨o, ho, State.applyWalk_mem _ _ _, fun y hy => by
      have hmem := State.mem_walksOf_applyWalk hy
      exact hmem⟩

/-! ### A and D bits, and nothing else -/

/-- The second memory is the first with A and D bits set in some bytes at D. -/
structure Memory.Flagged (m t : Memory) : Prop where
  bufs : t.bufs = m.bufs
  poison : t.poison = m.poison
  byte : ∀ a, ∃ k ∈ adMasks, t.atD a = m.atD a ||| k

theorem Memory.Flagged.refl (m : Memory) : m.Flagged m := ⟨rfl, rfl, fun _ => ⟨0#8, by decide, BitVec.or_zero.symm⟩⟩

theorem Memory.Flagged.trans {m t u : Memory} (h : m.Flagged t) (h' : t.Flagged u) : m.Flagged u where
  bufs := h'.bufs.trans h.bufs
  poison := h'.poison.trans h.poison
  byte a := by
    obtain ⟨j, hj, ht⟩ := h.byte a
    obtain ⟨k, hk, hu⟩ := h'.byte a
    exact ⟨j ||| k, or_adMasks j hj k hk, by rw [hu, ht, BitVec.or_assoc]⟩

@[simp] theorem Memory.arriveD_bufs (m : Memory) (now : Nat) (who : Party) (bs : List NewByte) :
    (m.arriveD now who bs).bufs = m.bufs :=
  List.foldlRecOn (motive := fun t : Memory => t.bufs = m.bufs) bs _ rfl fun t ht b _ => by
    unfold Memory.setD
    split <;> exact ht

/-- A walk masks the first byte of the entry that it updates. -/
theorem State.updated_spec {s : State} {x : Via} {ctx va : Nat} {kind : Access} {o : WalkOut} (hm : s.mem.wf = true)
    (ho : o ∈ s.walks x ctx va kind) : s.mem.Flagged (s.updated o) ∧
      ∀ a, (∀ e, o.update ≠ some (a, e)) → (s.updated o).atD a = s.mem.atD a := by
  unfold State.updated
  cases hu : o.update with
  | none => exact ⟨.refl _, fun _ _ => rfl⟩
  | some u =>
    have hw : u.2 = withAD (s.mem.numD u.1 8) kind :=
      walkAll_update (fun a e he => by
        obtain ⟨y, -, -, hl, -, rfl⟩ := State.mem_walkCache.mp he
        exact hl) (s.walks_eq .. ▸ ho) hu
    obtain ⟨k, hk, hbyte⟩ := atD_agentWrite_withAD hm s.tick walkerAgent u.1 kind
    rw [← hw] at hbyte
    refine ⟨⟨Memory.arriveD_bufs .., Memory.poison_agentWrite _ _ _ _ (by simp), fun a => ?_⟩, fun a ha => ?_⟩
    · by_cases h : a = u.1
      · exact ⟨k, hk, (hbyte a).trans (by rw [if_pos h, h])⟩
      · exact ⟨0#8, by decide, (hbyte a).trans (by rw [if_neg h, BitVec.or_zero])⟩
    · exact (hbyte a).trans (if_neg fun h => ha u.2 (by rw [h]))

theorem State.translate_flagged {s : State} (hm : s.mem.wf = true) (x : Via) (ctx va : Nat) (kind : Access) :
    s.mem.Flagged (s.translate x ctx va kind).2.mem := by
  obtain ⟨h, -⟩ | ⟨o, ho, h, -⟩ := s.translate_effects x ctx va kind
  · rw [h]
    exact .refl _
  · rw [h]
    exact (State.updated_spec hm ho).1

end Sys2Proof.Machine

/-! ## The translations of an instruction's accesses (O50) -/

namespace Sys2Proof.Machine

/-! ### A run of translations -/

/-- One translation, of an address and a kind that `Q` allows. -/
def Translates (x : Via) (ctx : Nat) (Q : Nat → Access → Prop) (s t : State) : Prop :=
  ∃ va kind, Q va kind ∧ t = (s.translate x ctx va kind).2

/-- Some translations, one after the other. -/
abbrev Translations (x : Via) (ctx : Nat) (Q : Nat → Access → Prop) : State → State → Prop :=
  Relation.ReflTransGen (Translates x ctx Q)

section
variable {x : Via} {ctx : Nat} {Q : Nat → Access → Prop} {s t : State}

theorem Translations.translated (h : Translations x ctx Q s t) : s.Translated t := by
  induction h with
  | refl => exact .refl s
  | tail _ hlast ih =>
    obtain ⟨va, kind, -, rfl⟩ := hlast
    exact ih.trans (State.translate_translated _ _ _ _ _)

theorem Translations.flagged (hm : s.mem.wf = true) (h : Translations x ctx Q s t) :
    t.mem.wf = true ∧ s.mem.Flagged t.mem := by
  induction h with
  | refl => exact ⟨hm, .refl _⟩
  | tail _ hlast ih =>
    obtain ⟨va, kind, -, rfl⟩ := hlast
    exact ⟨State.translate_wf ih.1, ih.2.trans (State.translate_flagged ih.1 _ _ _ _)⟩

/-- A byte is the first of an entry that one of the allowed walks from `s` would update. -/
def Updates (x : Via) (ctx : Nat) (Q : Nat → Access → Prop) (s : State) (a : Nat) : Prop :=
  ∃ va kind o e, Q va kind ∧ o ∈ s.walks x ctx va kind ∧ o.update = some (a, e)

/-- Where translations from `s` have led: they have changed bytes that a walk from `s` would update, and the walk cache
holds what it held or entries that stand at D in `s`, each marked at most. -/
structure Follows (x : Via) (ctx : Nat) (Q : Nat → Access → Prop) (s t : State) : Prop where
  translated : s.Translated t
  wf : t.mem.wf = true
  flagged : s.mem.Flagged t.mem
  changed : ∀ a, t.mem.atD a ≠ s.mem.atD a → 8 ∣ a ∧ Updates x ctx Q s a
  cached : ∀ y ∈ t.walksOf x, y ∈ s.walksOf x ∨
    s.mem.poisoned y.addr 8 = false ∧ Marked (s.mem.numD y.addr 8) y.entry.toNat

theorem Memory.numD_lt (m : Memory) (a n : Nat) : m.numD a n < 256 ^ n := by
  have h := congrArg natOf (bytesOf_natOf (m.readD a n))
  rw [natOf_bytesOf, Memory.readD, List.length_map, length_natsFrom] at h
  rw [Memory.numD, Memory.readD, ← h]
  exact Nat.mod_lt _ (by positivity)

/-- An aligned entry is marked at most. -/
theorem Follows.marked (h : Follows x ctx Q s t) {a : Nat} (ha : 8 ∣ a) :
    Marked (s.mem.numD a 8) (t.mem.numD a 8) := by
  obtain ⟨k, hk, hbyte⟩ := h.flagged.byte a
  have hrest : t.mem.readD (a + 1) 7 = s.mem.readD (a + 1) 7 := List.map_congr_left fun b hb => by
    rw [mem_natsFrom] at hb
    by_contra hne
    have := (h.changed b hne).1
    omega
  have hnum (m : Memory) : m.numD a 8 = natOf (m.atD a :: m.readD (a + 1) 7) := rfl
  rw [hnum, hnum, hbyte, hrest]
  exact marked_natOf hk _

theorem Follows.poisoned (h : Follows x ctx Q s t) (a n : Nat) : t.mem.poisoned a n = s.mem.poisoned a n := by
  rw [Memory.poisoned, h.flagged.poison, Memory.poisoned]

/-- An entry that a walk may take now is one that a walk from `s` might have taken, marked at most. -/
theorem Follows.available (h : Follows x ctx Q s t) {addr e' : Nat} (ha : 8 ∣ addr)
    (he : Available t (t.walkCache x ctx) addr e') :
    ∃ e, Available s (s.walkCache x ctx) addr e ∧ Marked e e' := by
  obtain ⟨hp, he⟩ | he := he
  · refine ⟨s.mem.numD addr 8, .inl ⟨h.poisoned addr 8 ▸ hp, rfl⟩, ?_⟩
    rw [he]
    exact h.marked ha
  · obtain ⟨y, hy, hctx, hl, hyaddr, hentry⟩ := State.mem_walkCache.mp he
    obtain hold | ⟨hp, hmark⟩ := h.cached y hy
    · exact ⟨e', .inr (State.mem_walkCache.mpr ⟨y, hold, hctx, hl, hyaddr, hentry⟩), .refl _⟩
    · rw [hyaddr] at hp hmark
      rw [hentry] at hmark
      exact ⟨s.mem.numD addr 8, .inl ⟨hp, rfl⟩, hmark⟩

/-- An entry that a walk has read and put into the cache is one that was cached, or stands at D in `s`. -/
theorem Follows.cached_of_available (h : Follows x ctx Q s t) {addr e : Nat} (ha : 8 ∣ addr)
    (he : Available t (t.walkCache x ctx) addr e) :
    let y : WalkEntry := { ctx := ctx, addr := addr, entry := BitVec.ofNat 64 e }
    y ∈ s.walksOf x ∨ s.mem.poisoned y.addr 8 = false ∧ Marked (s.mem.numD y.addr 8) y.entry.toNat := by
  obtain ⟨hp, he⟩ | he := he
  · have hlt : e < 2 ^ 64 := he ▸ t.mem.numD_lt addr 8
    refine .inr ⟨h.poisoned addr 8 ▸ hp, ?_⟩
    rw [BitVec.toNat_ofNat, Nat.mod_eq_of_lt hlt, he]
    exact h.marked ha
  · obtain ⟨y, hy, rfl, -, rfl, rfl⟩ := State.mem_walkCache.mp he
    rw [BitVec.ofNat_toNat, BitVec.setWidth_eq]
    exact h.cached y hy

theorem Follows.step (h : Follows x ctx Q s t) (hroot : 8 ∣ s.rootAt ctx) {va : Nat} {kind : Access} (hq : Q va kind) :
    Follows x ctx Q s (t.translate x ctx va kind).2 := by
  have htr := h.translated.trans (t.translate_translated x ctx va kind)
  have hfl := h.flagged.trans (State.translate_flagged h.wf x ctx va kind)
  obtain ⟨hm, hw⟩ | ⟨o, ho, hm, hw⟩ := t.translate_effects x ctx va kind
  · exact ⟨htr, State.translate_wf h.wf, hfl, hm ▸ h.changed, hw ▸ h.cached⟩
  have hmem : o ∈ walkAll t (t.walkCache x ctx) ctx va kind 5 (s.rootAt ctx) [] := by
    rw [← h.translated.rootAt, ← State.walks_eq]
    exact ho
  refine ⟨htr, State.translate_wf h.wf, hfl, fun a ha => ?_, fun y hy => ?_⟩
  · by_cases hnew : ∃ e, o.update = some (a, e)
    · obtain ⟨e, he⟩ := hnew
      obtain ⟨hal, o1, ho1, e1, he1⟩ :=
        walkAll_marked (rd := []) h.translated.paValid (fun _ _ => h.available) hroot hmem he
      exact ⟨hal, va, kind, o1, e1, hq, s.walks_eq x ctx va kind ▸ ho1, he1⟩
    · have hsame := (State.updated_spec h.wf ho).2 a (not_exists.mp hnew)
      exact h.changed a (by rwa [hm, hsame] at ha)
  · obtain hy | hy := hw y hy
    · exact h.cached y hy
    · obtain hnil | ⟨hal, e, he, hye⟩ := walkAll_read hroot hmem y hy
      · cases hnil
      · rw [hye]
        exact h.cached_of_available hal he

/-- What translations change at D are first bytes of entries that walks from the first state would update. -/
theorem Translations.follows (hm : s.mem.wf = true) (hroot : 8 ∣ s.rootAt ctx) (h : Translations x ctx Q s t) :
    Follows x ctx Q s t := by
  induction h with
  | refl => exact ⟨.refl s, hm, .refl _, fun _ h => absurd rfl h, fun _ hy => .inl hy⟩
  | tail _ hlast ih =>
    obtain ⟨va, kind, hq, rfl⟩ := hlast
    exact ih.step hroot hq

end

/-! ### Accesses that pass (R239) -/

theorem State.unitPa_state (s : State) (x : Via) (ctx va : Nat) (kind : Access) :
    (s.unitPa x ctx va kind).2 = s ∨ (s.unitPa x ctx va kind).2 = (s.translate x ctx va kind).2 := by
  unfold State.unitPa
  dsimp only
  split
  · exact .inl rfl
  · split <;> exact .inr rfl

theorem logWalk_translations {x : Via} {ctx : Nat} {Q : Nat → Access → Prop} {l : List (Nat × Access)} {s t : State}
    (hq : ∀ e ∈ l, Q e.1 e.2) (h : logWalk x ctx l s = .ok t) : Translations x ctx Q s t := by
  induction l generalizing s with
  | nil =>
    cases h
    exact .refl
  | cons e l ih =>
    rw [List.forall_mem_cons] at hq
    rw [logWalk] at h
    split at h
    next =>
      refine .trans ?_ (ih hq.2 h)
      obtain hs | hs := s.unitPa_state x ctx e.1 e.2
      · rw [hs]
      · exact .single ⟨e.1, e.2, hq.1, hs⟩
    next => cases h

/-- A request reaches the lane port: it is one of the scratchpad, or goes through the stash window. -/
def Req.atPort (r : Req) : Bool :=
  match r.space with
  | .scratch _ => true
  | .stash _ => true
  | .global _ => false
  | .bad => false

/-- What the first of some requests comes to where all pass: its access, which is at the lane port as it is, and no more
than a translation of its address. -/
theorem translateAll_cons {r : Req} {rs : List Req} {s t : State} {h : Here} {kind : Access} {accs : List Acc}
    (e : translateAll (r :: rs) s h kind = (.ok accs, t)) :
    ∃ spot l u, accs = { req := r, spot := spot } :: l ∧ translateAll rs u h kind = (.ok l, t) ∧
      (u = s ∨ ∃ va, r.space = .global va ∧ u = (s.translate h.via h.wave.ctx va kind).2) ∧
      (({ req := r, spot := spot } : Acc).port.isSome = true → r.atPort = true) := by
  have go {spot : Spot} {u : State} (e : (match (translateAll rs u h kind).1 with
      | .ok l => ((.ok ({ req := r, spot := spot } :: l) : Except State (List Acc)), (translateAll rs u h kind).2)
      | .error e => (.error e, (translateAll rs u h kind).2)) = (.ok accs, t)) :
      ∃ l, accs = { req := r, spot := spot } :: l ∧ translateAll rs u h kind = (.ok l, t) := by
    split at e
    next l hl =>
      obtain ⟨ha, ht⟩ := Prod.mk.inj e
      exact ⟨l, (Except.ok.inj ha).symm, Prod.ext hl ht⟩
    next => cases e
  unfold translateAll at e
  dsimp only at e
  split at e
  · cases e
  next o hs =>
    split at e
    next b hb =>
      obtain ⟨l, hl, ht⟩ := go e
      exact ⟨_, l, s, hl, ht, .inl rfl, fun _ => by simp [Req.atPort, hs]⟩
    next => cases e
  next o hs =>
    split at e
    next spot hb =>
      obtain ⟨l, hl, ht⟩ := go e
      exact ⟨_, l, s, hl, ht, .inl rfl, fun _ => by simp [Req.atPort, hs]⟩
    next => cases e
  next va hs =>
    split at e
    next =>
      split at e
      next =>
        obtain ⟨l, hl, ht⟩ := go e
        exact ⟨_, l, s, hl, ht, .inl rfl, fun hp => by simp [Acc.port] at hp⟩
      next => cases e
    next =>
      split at e
      next pa _ =>
        obtain ⟨l, hl, ht⟩ := go e
        refine ⟨_, l, _, hl, ht, .inr ⟨va, hs, rfl⟩, fun hp => ?_⟩
        simp only [Acc.port] at hp
        cases hb : (s.blockOf r.t).bind fun b => b.mappedLine va <;> simp [hb] at hp
      all_goals cases e

theorem translateAll_translations {rs : List Req} {s t : State} {h : Here} {kind : Access} {accs : List Acc}
    {Q : Nat → Access → Prop} (hq : ∀ r ∈ rs, ∀ va, r.space = .global va → Q va kind)
    (e : translateAll rs s h kind = (.ok accs, t)) : Translations h.via h.wave.ctx Q s t := by
  induction rs generalizing s accs with
  | nil =>
    cases e
    exact .refl
  | cons r rs ih =>
    rw [List.forall_mem_cons] at hq
    obtain ⟨spot, l, u, -, ht, hu, -⟩ := translateAll_cons e
    refine .trans ?_ (ih hq.2 ht)
    obtain rfl | ⟨va, hs, rfl⟩ := hu
    · exact .refl
    · exact .single ⟨va, kind, hq.1 va hs, rfl⟩

/-- Accesses at the lane port come from requests that reach it. -/
theorem translateAll_port {rs : List Req} {s t : State} {h : Here} {kind : Access} {accs : List Acc}
    (e : translateAll rs s h kind = (.ok accs, t)) {a : Acc} (ha : a ∈ accs) (hp : a.port.isSome = true) :
    rs.any Req.atPort = true := by
  induction rs generalizing s accs with
  | nil =>
    cases e
    cases ha
  | cons r rs ih =>
    obtain ⟨spot, l, u, rfl, ht, -, hport⟩ := translateAll_cons e
    rw [List.any_cons, Bool.or_eq_true]
    obtain rfl | ha := List.mem_cons.mp ha
    · exact .inl (hport hp)
    · exact .inr (ih ht ha)

section
variable {s s' : State} {h : Here} {rs : List Req} {kind : Access} {reads : Bool} {accs : List Acc}

/-- Accesses that pass find the lane port free where they need it, are translated, and then the log entries that serve
them. -/
theorem Passes.parts (hp : Passes s h rs kind reads accs s') : s.portTaken h rs = false ∧
    ∃ u l, translateAll rs s h kind = (.ok accs, u) ∧ logWalk h.via h.wave.ctx l u = .ok s' ∧
      ∀ e ∈ l, e.2 = .read ∧ reads = true ∧ ∃ n, e.1 = u.logBase h.wave.kid + 128 * n := by
  unfold Passes State.prepare at hp
  split at hp
  · cases hp
  split at hp
  · cases hp
  next hport =>
  refine ⟨by simpa using hport, ?_⟩
  dsimp only at hp
  split at hp
  · cases hp
  split at hp
  · cases hp
  split at hp
  · cases hp
  split at hp
  · cases hp
  split at hp
  · cases hp
  split at hp
  · cases hp
  next l hl =>
  split at hp
  · split at hp
    · cases hp
    split at hp
    · cases hp
    split at hp
    next s1 hs1 =>
      obtain ⟨ha, rfl⟩ := Prod.mk.inj hp
      obtain rfl := Except.ok.inj ha
      refine ⟨_, _, Prod.ext hl rfl, hs1, fun e he => ?_⟩
      split at he
      next hr =>
        obtain ⟨n, -, rfl⟩ := List.mem_map.mp he
        exact ⟨rfl, hr, n, rfl⟩
      next => cases he
    next => cases hp
  · cases hp

/-- What the accesses of an instruction have translated. -/
theorem Passes.translations (hp : Passes s h rs kind reads accs s') : Translations h.via h.wave.ctx
    (fun va k => k = kind ∧ (∃ r ∈ rs, r.space = .global va) ∨
      k = .read ∧ reads = true ∧ ∃ n, va = s.logBase h.wave.kid + 128 * n) s s' := by
  obtain ⟨-, u, l, hu, hl, hlog⟩ := hp.parts
  have hfirst := translateAll_translations (Q := fun va k => k = kind ∧ (∃ r ∈ rs, r.space = .global va) ∨
    k = .read ∧ reads = true ∧ ∃ n, va = s.logBase h.wave.kid + 128 * n)
    (fun r hr va hs => .inl ⟨rfl, r, hr, hs⟩) hu
  refine hfirst.trans (logWalk_translations (fun e he => .inr ?_) hl)
  rw [← hfirst.translated.logBase]
  exact hlog e he

end

/-- R414: what the walks of an instruction's accesses set. -/
theorem translationFrame : Claim.TranslationFrame := by
  intro s s' h rs kind reads accs hm hp
  have hrun := hp.translations
  have htr := hrun.translated
  obtain ⟨-, hfl⟩ := hrun.flagged hm
  refine ⟨hfl.bufs, htr.grids, htr.blocks, htr.handlers, fun c => ⟨htr.scratch c, htr.waves c⟩, hfl.byte,
    fun hroot a ha => ?_⟩
  obtain ⟨-, va, k, o, e, hq, ho, hu⟩ := (hrun.follows hm (Nat.dvd_of_mod_eq_zero hroot)).changed a ha
  exact ⟨va, k, o, e, hq, ho, hu⟩

end Sys2Proof.Machine

/-! ## What loads leave alone (O50) -/

namespace Sys2Proof.Machine

/-! ### What leaves memory, grids, blocks and scratchpads -/

/-- Memory, the grids, the blocks and the scratchpads are the same. -/
structure State.SameData (s t : State) : Prop where
  mem : t.mem = s.mem
  grids : t.grids = s.grids
  blocks : t.blocks = s.blocks
  scratch : ∀ c, (t.core c).scratch = (s.core c).scratch
  smarks : ∀ c, (t.core c).smarks = (s.core c).smarks

theorem State.SameData.refl (s : State) : s.SameData s := ⟨rfl, rfl, rfl, fun _ => rfl, fun _ => rfl⟩

theorem State.SameData.trans {s t u : State} (h : s.SameData t) (h' : t.SameData u) : s.SameData u :=
  ⟨h'.mem.trans h.mem, h'.grids.trans h.grids, h'.blocks.trans h.blocks, fun c => (h'.scratch c).trans (h.scratch c),
    fun c => (h'.smarks c).trans (h.smarks c)⟩

theorem State.SameData.of_cores {s t : State} (hm : t.mem = s.mem) (hg : t.grids = s.grids) (hb : t.blocks = s.blocks)
    (hc : t.cores = s.cores) : s.SameData t :=
  ⟨hm, hg, hb, fun c => congrArg Core.scratch (State.core_eq_of_cores hc c),
    fun c => congrArg Core.smarks (State.core_eq_of_cores hc c)⟩

theorem State.Drew.sameData {s t : State} (h : s.Drew t) : s.SameData t := by
  obtain ⟨n, rfl⟩ := h
  exact .of_cores rfl rfl rfl rfl

section
variable (s : State)

/-- An update of a core that leaves its scratchpad. -/
theorem State.updCore_sameData {f : Core → Core} (hf : ∀ k, (f k).scratch = k.scratch ∧ (f k).smarks = k.smarks) (c : Nat) :
    s.SameData (s.updCore c f) :=
  ⟨rfl, rfl, rfl, State.core_updCore_congr (fun k => (hf k).1) s c, State.core_updCore_congr (fun k => (hf k).2) s c⟩

theorem State.updCluster_sameData (c : Nat) (f : Cluster → Cluster) : s.SameData (s.updCluster c f) :=
  .of_cores rfl rfl rfl rfl

theorem State.putWave_sameData (h : Here) (w : Wave) : s.SameData (s.putWave h w) := by
  unfold State.putWave
  dsimp only
  split
  · exact s.updCore_sameData (by exact fun _ => ⟨rfl, rfl⟩) _
  · exact .of_cores rfl rfl rfl rfl

theorem State.causal_sameData (h : Here) : s.SameData (s.causal h) := by
  obtain ⟨u, hd, hu, -⟩ := s.causal_burdens h
  have hcore (c : Nat) : u.core c = s.core c := congrArg (·.core c) hu
  exact ⟨s.causal_mem h, (congrArg (·.grids) hd.rest).trans (congrArg (·.grids) hu),
    (congrArg (·.blocks) hd.rest).trans (congrArg (·.blocks) hu),
    fun c => (congrArg Core.scratch (hd.core c)).trans (congrArg Core.scratch (hcore c)),
    fun c => (congrArg Core.smarks (hd.core c)).trans (congrArg Core.smarks (hcore c))⟩

theorem State.doneLen_sameData (h : Here) (w : Wave) (len : Nat) : s.SameData (s.doneLen h w len) :=
  (s.putWave_sameData h _).trans (State.causal_sameData _ h)

theorem State.addOp_sameData (core : Nat) (op : PendOp) : s.SameData (s.addOp core op) :=
  s.updCore_sameData (by exact fun _ => ⟨rfl, rfl⟩) _

theorem State.doneWrites_sameData (h : Here) (w : Wave) (len : Nat) (sel : FlagSel) (ls : Table Thread) (ws : List PWrite)
    (late : List LateRead) (scr : Bool) (stash : List Nat) :
    s.SameData (s.doneWrites h w len sel ls ws late scr stash) := by
  unfold State.doneWrites
  dsimp only
  split
  · exact (s.addOp_sameData _ _).trans (State.doneLen_sameData _ _ _ _)
  · refine .trans ?_ (State.doneLen_sameData _ _ _ _)
    split
    · exact .refl s
    · exact s.addOp_sameData _ _

theorem State.reach_sameData (x : Source) (c va pa : Nat) : s.SameData (s.reach x c va pa) := by
  unfold State.reach
  split <;> exact .of_cores rfl rfl rfl rfl

theorem State.trimData_sameData (n cl : Nat) : s.SameData (State.trimData n s cl) := by
  induction n generalizing s with
  | zero => exact .refl s
  | succ n ih =>
    rw [State.trimData]
    dsimp only
    split
    · exact .refl s
    · exact ((s.pick_drew _).sameData.trans (State.updCluster_sameData _ _ _)).trans (ih _)

theorem State.putData_sameData (cl pa : Nat) : s.SameData (s.putData cl pa) := by
  unfold State.putData
  dsimp only
  split
  · exact .refl s
  · exact (s.updCluster_sameData _ _).trans (State.trimData_sameData _ _ _)

theorem State.farRead_sameData (who : RillWho) (kid : Nat) (block : Bool) (pas : List Nat) :
    s.SameData (s.farRead who kid block pas) := by
  unfold State.farRead State.rillSend
  split
  · split <;> exact .of_cores rfl rfl rfl rfl
  · exact .refl s

theorem State.farLoads_sameData (h : Here) (wait : Bool) (l : List Acc) : s.SameData (s.farLoads h wait l) :=
  List.foldlRecOn (motive := fun t : State => s.SameData t) l _ (.refl s) fun t ht _ _ =>
    ht.trans (t.farRead_sameData _ _ _ _)

theorem reachAccs_sameData (k : LoadKind) (l : List Acc) (h : Here) : s.SameData (reachAccs k l s h) := by
  induction l generalizing s with
  | nil => exact .refl s
  | cons x l ih =>
    rw [reachAccs]
    split
    next pa _ va _ _ =>
      split
      · exact ih s
      have hput : s.SameData (if k = .plain then s.putData (clusterOf h.core) pa else s) := by
        split
        · exact s.putData_sameData _ _
        · exact .refl s
      dsimp only
      generalize (if k = .plain then s.putData (clusterOf h.core) pa else s) = s1 at hput ⊢
      split
      · exact hput.trans (ih s1)
      have hpick : s1.SameData (if k = .plain then s1.pick 2 else (0, s1)).2 := by
        split
        · exact (s1.pick_drew 2).sameData
        · exact .refl s1
      generalize (if k = .plain then s1.pick 2 else (0, s1)) = r at hpick ⊢
      refine (hput.trans hpick).trans (.trans ?_ (ih _))
      split
      · exact State.reach_sameData _ _ _ _ _
      · exact .refl _
    next => exact ih s

theorem State.loadAll_sameData (h : Here) (k : LoadKind) (l : List Acc) : s.SameData (s.loadAll h k l).2.2 :=
  (s.drawShared_drew _).sameData.trans (reachAccs_sameData _ _ _ _)

theorem State.lateReads_sameData (h : Here) (k : LoadKind) (sel : FlagSel) (d : Nat) (z : Size) (l : List Acc) :
    s.SameData (s.lateReads h k sel d z l).2 := by
  unfold State.lateReads
  dsimp only
  split
  · exact .refl s
  split
  · exact .refl s
  · exact (s.pick_drew 2).sameData

theorem State.loadReqs_sameData (s0 : State) (h : Here) (k : LoadKind) (sel : FlagSel) (late : List LateRead)
    (l : List Acc) : s.SameData (s0.loadReqs s h k sel late l) := by
  unfold State.loadReqs
  dsimp only
  split
  · exact (reachAccs_sameData s _ _ h).trans (State.farLoads_sameData _ _ _ _)
  · exact reachAccs_sameData s _ _ h

/-- A load that takes the lane port reads in its first pass. -/
theorem State.takePort_load_sameData (h : Here) (f : Form) (x : Option Level) (d : Nat) (z : Size) (w : Wave)
    (ls : Table Thread) (accs : List (Acc × List Byte)) (mem : List (Nat × List Byte)) :
    s.SameData (s.takePort h f (.load x d z) w ls accs mem) := by
  unfold State.takePort State.passPort
  dsimp only
  refine (s.putWave_sameData h { w with park := .port }).trans ?_
  split
  next e =>
    split at e
    · cases e
    · cases e
  next t q e =>
    have ht : t = s.putWave h { w with park := .port } := by
      split at e
      · exact (congrArg Prod.fst (Except.ok.inj e)).symm
      · exact (congrArg Prod.fst (Except.ok.inj e)).symm
    rw [ht]
    exact State.updCore_sameData _ (by exact fun _ => ⟨rfl, rfl⟩) _

end

/-! ### Loads (R240 to R243) -/

theorem loadsComplete : Claim.LoadsComplete := by
  intro x s s' h ls accs
  unfold Reads Passes
  refine ⟨fun hi ⟨hp, he, hn⟩ => ⟨State.finishLoad_ends ?_ hn, State.finishLoad_ends ?_ hn⟩,
    fun hi ⟨hp, he, hn⟩ => State.finishLoad_ends ?_ hn, fun hi ⟨hp, he, hn⟩ => ?_⟩
  · rw [exec_ld, execLd, State.load, hi.run]
    simp only [hp, he, Bool.false_eq_true, if_false]
  · rw [exec_ldStrong, execLdStrong, State.load, hi.run]
    simp only [hp, he, Bool.false_eq_true, if_false]
  · rw [exec_lds, execLds, State.load, hi.run]
    simp only [hp, he, Bool.false_eq_true, if_false]
  · rw [exec_ldw, execLdw, hi.run]
    simp only [hp, he, hn, Bool.false_eq_true, if_false]

/-- Every way in which a checked load ends leaves the data. -/
theorem LoadEnds.sameData {i : Instr} {s0 s t : State} {h : Here} {ls : Table Thread} {f : Form} {k : LoadKind}
    {d : BitVec 8} {z : Size} {accs : List Acc} (he : LoadEnds i s0 s h ls f k d z accs) (ht : exec i s0 = .next t) :
    s.SameData t := by
  obtain ⟨hone, hmany⟩ := he
  cases hp : onePass accs with
  | true =>
    obtain rfl := Host.Outcome.next.inj (ht.symm.trans (hone hp))
    exact (((s.lateReads_sameData ..).trans (State.loadAll_sameData ..)).trans (State.loadReqs_sameData ..)).trans
      (State.doneWrites_sameData ..)
  | false =>
    obtain rfl := Host.Outcome.next.inj (ht.symm.trans (hmany hp))
    exact ((s.loadAll_sameData ..).trans (State.loadReqs_sameData ..)).trans (State.takePort_load_sameData ..)

/-- R240 to R243: after its translations a load leaves the data. -/
theorem loadFrame : Claim.LoadFrame := by
  intro x i s s' t h ls accs hcase ht
  have framed (htr : s.Translated s') (hd : s'.SameData t) : t.mem = s'.mem ∧ t.grids = s.grids ∧ t.blocks = s.blocks ∧
      ∀ c, (t.core c).scratch = (s.core c).scratch ∧ (t.core c).smarks = (s'.core c).smarks :=
    ⟨hd.mem, hd.grids.trans htr.grids, hd.blocks.trans htr.blocks,
      fun c => ⟨(hd.scratch c).trans (htr.scratch c), hd.smarks c⟩⟩
  obtain ⟨hld, hlds, hldw⟩ := loadsComplete x s s' h ls accs
  obtain ⟨hi, his, hr⟩ | ⟨rfl, his, hr⟩ | ⟨rfl, his, hr⟩ := hcase <;>
    refine framed hr.1.translations.translated ?_
  · obtain ⟨hplain, hstrong⟩ := hld his hr
    obtain rfl | rfl := hi
    · exact hplain.sameData ht
    · exact hstrong.sameData ht
  · exact (hlds his hr).sameData ht
  · obtain rfl := Host.Outcome.next.inj (ht.symm.trans (hldw his hr))
    exact ((s'.loadAll_sameData ..).trans (State.loadReqs_sameData ..)).trans (State.doneWrites_sameData ..)

end Sys2Proof.Machine

/-! ## What stores may change (O50) -/

namespace Sys2Proof.Machine

/-! ### What stores may change of the data -/

/-- The data are the same but for bytes at D in `M`, and bytes of one core's scratchpad in `S`. -/
structure State.DataWithin (core : Nat) (M S : Nat → Prop) (s t : State) : Prop where
  grids : t.grids = s.grids
  blocks : t.blocks = s.blocks
  atD : ∀ a, ¬ M a → t.mem.atD a = s.mem.atD a
  scratch : ∀ a, ¬ S a → cellGet (t.core core).scratch a = cellGet (s.core core).scratch a
  others : ∀ c, c ≠ core → (t.core c).scratch = (s.core c).scratch

/-- No wave and no lane port has changed, nor which agent acts. -/
structure State.SameWaves (s t : State) : Prop where
  cur : t.cur = s.cur
  handlers : t.handlers = s.handlers
  waves : ∀ c, (t.core c).waves = (s.core c).waves
  port : ∀ c, (t.core c).port = (s.core c).port

section
variable {core : Nat} {M S : Nat → Prop} {s t u : State}

theorem State.DataWithin.trans (h : s.DataWithin core M S t) (h' : t.DataWithin core M S u) : s.DataWithin core M S u :=
  ⟨h'.grids.trans h.grids, h'.blocks.trans h.blocks, fun a ha => (h'.atD a ha).trans (h.atD a ha),
    fun a ha => (h'.scratch a ha).trans (h.scratch a ha), fun c hc => (h'.others c hc).trans (h.others c hc)⟩

theorem State.SameData.within (h : s.SameData t) : s.DataWithin core M S t :=
  ⟨h.grids, h.blocks, fun a _ => by rw [h.mem], fun a _ => by rw [h.scratch], fun c _ => h.scratch c⟩

theorem State.SameWaves.refl (s : State) : s.SameWaves s := ⟨rfl, rfl, fun _ => rfl, fun _ => rfl⟩

theorem State.SameWaves.trans (h : s.SameWaves t) (h' : t.SameWaves u) : s.SameWaves u :=
  ⟨h'.cur.trans h.cur, h'.handlers.trans h.handlers, fun c => (h'.waves c).trans (h.waves c),
    fun c => (h'.port c).trans (h.port c)⟩

theorem State.SameWaves.of_cores (hc : t.cur = s.cur) (hh : t.handlers = s.handlers) (hk : t.cores = s.cores) :
    s.SameWaves t :=
  ⟨hc, hh, fun c => congrArg Core.waves (State.core_eq_of_cores hk c),
    fun c => congrArg Core.port (State.core_eq_of_cores hk c)⟩

theorem State.Translated.sameWaves (h : s.Translated t) : s.SameWaves t := ⟨h.cur, h.handlers, h.waves, h.port⟩

theorem State.Drew.sameWaves (h : s.Drew t) : s.SameWaves t := by
  obtain ⟨n, rfl⟩ := h
  exact .of_cores rfl rfl rfl

/-- An update of a core that leaves its waves and its port. -/
theorem State.updCore_sameWaves {f : Core → Core} (hf : ∀ k, (f k).waves = k.waves ∧ (f k).port = k.port) (s : State)
    (c : Nat) : s.SameWaves (s.updCore c f) :=
  ⟨rfl, rfl, State.core_updCore_congr (fun k => (hf k).1) s c, State.core_updCore_congr (fun k => (hf k).2) s c⟩

theorem State.SameWaves.here (h : s.SameWaves t) : t.here = s.here := by
  unfold State.here
  rw [h.cur]
  split <;> simp only [h.waves, State.handler, h.handlers]

theorem State.SameWaves.issuerWave (hs : s.SameWaves t) (h : Here) : t.issuerWave h = s.issuerWave h := by
  unfold State.issuerWave
  split <;> simp only [hs.waves, State.handler, hs.handlers]

theorem State.reach_sameWaves (s : State) (x : Source) (c va pa : Nat) : s.SameWaves (s.reach x c va pa) := by
  unfold State.reach
  split <;> exact .of_cores rfl rfl rfl

/-- The requests of stores leave the data and the waves. -/
theorem State.reachPuts_same (s : State) (h : Here) (x : Level) (ps : List Put) :
    s.SameData (s.reachPuts h x ps) ∧ s.SameWaves (s.reachPuts h x ps) := by
  refine List.foldlRecOn (motive := fun t : State => s.SameData t ∧ s.SameWaves t) ps _ ⟨.refl s, .refl s⟩
    fun t ht p _ => ?_
  split
  · split
    · exact ⟨ht.1.trans (t.reach_sameData _ _ _ _), ht.2.trans (t.reach_sameWaves _ _ _ _)⟩
    · exact ht
  · exact ht

theorem State.holdsStores_drew (s : State) (h : Here) (x : Level) (ps : List Put) : s.Drew (s.holdsStores h x ps).2 := by
  unfold State.holdsStores
  split
  · exact s.pick_drew 2
  · exact .refl s

end

/-! ### Bytes that an arrival does not bring -/

section
variable {m t : Memory} {now : Nat} {who : Party} {bs : List NewByte} {a : Nat}

theorem Memory.atD_goHome_of_ne (m0 m : Memory) {b : NewByte} (h : b.addr ≠ a) : (m0.goHome m b).atD a = m.atD a := by
  unfold Memory.goHome
  split
  · simp only [Memory.atD, cellGet_cellSet_of_ne _ _ h.symm]
    split
    · split
      · rfl
      · rw [Table.get?_del_of_ne _ h.symm]
    · rfl
  · rfl

theorem Memory.atD_arriveHome_of_ne (m : Memory) (h : ∀ b ∈ bs, b.addr ≠ a) : (m.arriveHome now who bs).atD a = m.atD a :=
  List.foldlRecOn (motive := fun t : Memory => t.atD a = m.atD a) bs m.goHome
    (b := m.arriveD now who bs) (Memory.atD_foldl_setD_of_ne h m) fun t ht b hb =>
      (m.atD_goHome_of_ne t (h b hb)).trans ht

/-- A store leaves every byte at D that it does not bring. -/
theorem Memory.atD_store_of_ne {k : Links} {x : Level} (hs : m.store now k x bs = .ok t) (h : ∀ b ∈ bs, b.addr ≠ a) :
    t.atD a = m.atD a := by
  have hlow := m.fixAll_sameD (k.below x) (bufBytes bs)
  have hbuf (hx : x = .c ∨ x = .b ∨ x = .g) : t.atD a = m.atD a := by
    obtain ⟨-, hu⟩ | ⟨s, u, rfl, -, hu, rfl⟩ | ⟨u, rfl, hu, rfl⟩ := Memory.store_cases hs hx
    · exact (Memory.putBytes_frame hu).1.atD a
    · exact ((m.fixAll_sameD _ _).trans (Memory.putBytes_frame hu).1).atD a
    · exact ((m.fixAll_sameD _ _).trans (Memory.putBytes_frame hu).1).atD a
  cases x with
  | c => exact hbuf (.inl rfl)
  | b => exact hbuf (.inr (.inl rfl))
  | g => exact hbuf (.inr (.inr rfl))
  | d =>
    simp only [Memory.store, Links.level, Except.ok.injEq] at hs
    subst hs
    exact (Memory.atD_foldl_setD_of_ne h _).trans (hlow.atD a)
  | s =>
    simp only [Memory.store, Links.level, Except.ok.injEq] at hs
    subst hs
    exact (Memory.atD_arriveHome_of_ne _ h).trans (hlow.atD a)

end

/-! ### Stores within what their accesses cover (R120 to R122) -/

/-- The bytes that a store covers lie in `M`, or in `S` where it is to the scratchpad. -/
def Put.Within (M S : Nat → Prop) (p : Put) : Prop :=
  (∀ pa line, p.hit.spot = .mem pa line → ∀ a, pa ≤ a → a < pa + p.bytes.length → M a) ∧
  (∀ b, p.hit.spot = .scr b → ∀ a, b ≤ a → a < b + p.bytes.length → S a)

section
variable {M S : Nat → Prop} {s t : State} {h : Here} {x : Level}

theorem storeOne_within {lower higher : List Put} {p : Put} (hp : p.Within M S)
    (hs : storeOne s h x lower higher p = .ok t) : s.DataWithin h.core M S t ∧ s.SameWaves t := by
  unfold storeOne at hs
  split at hs
  next b hb =>
    obtain rfl := Except.ok.inj hs
    refine ⟨⟨rfl, rfl, fun _ _ => rfl, fun a ha => ?_, fun c hc => ?_⟩,
      s.updCore_sameWaves (by exact fun _ => ⟨rfl, rfl⟩) _⟩
    · have hout : a < b ∨ b + p.bytes.length ≤ a := by
        by_contra hin
        exact ha (hp.2 b hb a (by omega) (by omega))
      by_cases hc : h.core < s.cores.length
      · rw [State.core_updCore_self _ _ _ hc]
        exact cellGet_cellSets_outside _ _ hout
      · rw [State.core_updCore_same _ fun hn => hc hn.2]
    · rw [State.core_updCore_of_ne _ _ hc]
  next pa line hb =>
    have hframe {m : Memory} (hm : ∀ a, a ∉ natsFrom pa p.bytes.length → m.atD a = s.mem.atD a) :
        s.DataWithin h.core M S { s with mem := m } ∧ s.SameWaves { s with mem := m } := by
      refine ⟨⟨rfl, rfl, fun a ha => hm a fun hin => ?_, fun _ _ => rfl, fun _ _ => rfl⟩, .of_cores rfl rfl rfl⟩
      rw [mem_natsFrom] at hin
      exact ha (hp.1 pa line hb a hin.1 hin.2)
    have hne {new : Nat × Byte → NewByte} (hnew : ∀ e, (new e).addr = e.1) {a : Nat} (ha : a ∉ natsFrom pa p.bytes.length) :
        ∀ b ∈ ((natsFrom pa p.bytes.length).zip p.bytes).map new, b.addr ≠ a := by
      rintro _ hb rfl
      obtain ⟨e, he, rfl⟩ := List.mem_map.mp hb
      exact ha (hnew e ▸ (List.of_mem_zip he).1)
    dsimp only at hs
    split at hs
    next =>
      obtain rfl := Except.ok.inj hs
      exact hframe fun a ha => Memory.atD_foldl_setD_of_ne (hne (by exact fun _ => rfl) ha) _
    next =>
      generalize hm0 : List.foldl _ s.mem _ = m0 at hs
      have hsame : s.mem.SameD m0 := hm0 ▸ List.foldlRecOn (motive := fun t : Memory => s.mem.SameD t) _ _ ⟨rfl, rfl⟩
        fun t ht b _ => ht.trans (t.fixLower_frame _ _).1
      split at hs
      · obtain rfl := Except.ok.inj hs
        exact hframe fun a _ => hsame.atD a
      · split at hs
        next m hm =>
          obtain rfl := Except.ok.inj hs
          refine hframe fun a ha => (Memory.atD_store_of_ne hm fun b hb => ?_).trans (hsame.atD a)
          exact hne (by exact fun _ => rfl) ha b (List.mem_filter.mp hb).1
        next => cases hs

theorem storeAll_within {ps : List Put} (hp : ∀ p ∈ ps, p.Within M S) (hs : storeAll ps s h x = .ok t) :
    s.DataWithin h.core M S t ∧ s.SameWaves t := by
  have hgo (done : List Put) : storeGo done ps s h x = .ok t → s.DataWithin h.core M S t ∧ s.SameWaves t := by
    clear hs
    induction ps generalizing done s with
    | nil =>
      rintro ⟨⟩
      exact ⟨(State.SameData.refl _).within, .refl _⟩
    | cons p ps ih =>
      rw [List.forall_mem_cons] at hp
      intro hs
      rw [storeGo] at hs
      split at hs
      next u hu =>
        obtain ⟨hd, hw⟩ := storeOne_within hp.1 hu
        obtain ⟨hd', hw'⟩ := ih hp.2 _ hs
        exact ⟨hd.trans hd', hw.trans hw'⟩
      next => cases hs
  exact hgo [] hs

/-- A handler's stores exhaust no log. -/
theorem storeAll_handed {f : Nat} (hh : h.hand = some f) (ps : List Put) (s : State) : ∃ t, storeAll ps s h x = .ok t := by
  have hone (lower higher : List Put) (p : Put) (s : State) : ∃ t, storeOne s h x lower higher p = .ok t := by
    unfold storeOne
    simp only [hh]
    split <;> exact ⟨_, rfl⟩
  have hgo (done : List Put) : ∃ t, storeGo done ps s h x = .ok t := by
    induction ps generalizing done s with
    | nil => exact ⟨s, rfl⟩
    | cons p ps ih =>
      obtain ⟨u, hu⟩ := hone done ps p s
      rw [storeGo, hu]
      exact ih u _
  exact hgo []

end

end Sys2Proof.Machine

/-! ## What stores leave alone (O50) -/

namespace Sys2Proof.Machine

/-! ### Stores at the lane port (R94) -/

/-- The bytes that an access at the lane port stores lie in `M`, or in `S` where it is of the scratchpad. -/
def PortAcc.Within (M S : Nat → Prop) (a : PortAcc) : Prop :=
  (∀ pa, a.pa = some pa → ∀ n, pa ≤ n → n < pa + a.data.length → M n) ∧
  (a.pa = none → ∀ n, a.byte ≤ n → n < a.byte + a.data.length → S n)

section
variable {M S : Nat → Prop} {a : PortAcc}

/-- What a pass serves of an access lies where the access does. -/
theorem PortAcc.Within.part (ha : a.Within M S) (v : Nat) : (a.part v).Within M S := by
  have hfirst : a.byte ≤ (a.within [v]).headD a.byte := by
    cases hw : a.within [v] with
    | nil => exact Nat.le_refl _
    | cons b l =>
      have hb : b ∈ a.within [v] := hw ▸ List.mem_cons_self
      exact (mem_natsFrom.mp (List.mem_filter.mp hb).1).1
  obtain ⟨hmem, hscr⟩ := ha
  unfold PortAcc.part
  dsimp only
  generalize (a.within [v]).headD a.byte = first at hfirst
  generalize (a.within [v]).length = len
  have hlen : ((a.data.drop (first - a.byte)).take len).length ≤ a.data.length - (first - a.byte) := by
    rw [List.length_take, List.length_drop]
    omega
  refine ⟨fun pa hpa n hlo hhi => ?_, fun hpa n hlo hhi => ?_⟩
  · obtain ⟨p, hp, rfl⟩ := Option.map_eq_some_iff.mp hpa
    exact hmem p hp n (by omega) (by dsimp only at hhi; omega)
  · exact hscr (Option.map_eq_none_iff.mp hpa) n (by dsimp only at hlo; omega) (by dsimp only at hlo hhi; omega)

/-- An access at the lane port, as a store. -/
theorem PortAcc.Within.put (ha : a.Within M S) (t : Thread) :
    ({ hit := a.acc t, bytes := a.data, window := true } : Put).Within M S := by
  obtain ⟨hmem, hscr⟩ := ha
  unfold PortAcc.acc
  cases hpa : a.pa with
  | none =>
    refine ⟨fun pa line h => ?_, fun b h n hlo hhi => ?_⟩
    · cases h
    · obtain rfl := Spot.scr.inj h
      exact hscr hpa n hlo hhi
  | some p =>
    refine ⟨fun pa line h n hlo hhi => ?_, fun b h => ?_⟩
    · obtain ⟨rfl, -⟩ := Spot.mem.inj h
      exact hmem p hpa n hlo hhi
    · cases h

/-- A store's access at the lane port covers what the store does. -/
theorem Put.Within.portAcc {p : Put} (hp : p.Within M S) {b : Nat} (hb : p.hit.port = some b) {lane size addr : Nat} :
    ({ lane := lane, byte := b, size := size, addr := addr, data := p.bytes
       pa := match p.hit.spot with
         | .mem pa _ => some pa
         | .scr _ => none } : PortAcc).Within M S := by
  obtain ⟨hmem, hscr⟩ := hp
  cases hs : p.hit.spot with
  | mem pa line =>
    refine ⟨fun q hq => ?_, fun hq => ?_⟩
    · obtain rfl := Option.some.inj hq
      exact hmem pa line hs
    · cases hq
  | scr c =>
    rw [Acc.port, hs] at hb
    obtain rfl := Option.some.inj hb
    exact ⟨fun q hq => (nomatch hq), fun _ => hscr c hs⟩

variable {s t : State} {h : Here} {p q : PortOp}

/-- A pass of stores stores where its accesses lie. -/
theorem State.passPort_store_within (hk : p.kind = .store) (ha : ∀ a ∈ p.accs, a.Within M S)
    (e : s.passPort h p = .ok (t, q)) : s.DataWithin h.core M S t ∧ s.SameWaves t := by
  unfold State.passPort at e
  split at e
  · obtain ⟨rfl, -⟩ := Prod.mk.inj (Except.ok.inj e)
    exact ⟨(State.SameData.refl _).within, .refl _⟩
  next ws rest _ =>
    simp only [hk] at e
    split at e
    · cases e
    next u hu =>
      obtain ⟨rfl, -⟩ := Prod.mk.inj (Except.ok.inj e)
      refine storeAll_within (fun x hx => ?_) hu
      obtain ⟨y, hy, rfl⟩ := List.mem_map.mp hx
      obtain ⟨a, haccs, hy⟩ := List.mem_flatMap.mp hy
      obtain ⟨v, -, hy⟩ := List.mem_filterMap.mp hy
      split at hy
      · cases hy
      · obtain ⟨th, -, rfl⟩ := Option.map_eq_some_iff.mp hy
        exact ((ha a haccs).part v).put th

/-- A pass of stores that exhausts the log is no handler's, and its fault reaches no core. -/
theorem State.passPort_store_error (hk : p.kind = .store) (e : s.passPort h p = .error t) :
    h.hand = none ∧ t.cores = s.cores := by
  unfold State.passPort at e
  split at e
  · cases e
  next ws rest _ =>
    simp only [hk] at e
    split at e
    next l hl =>
      obtain rfl := Except.error.inj e
      cases hh : h.hand with
      | none =>
        refine ⟨rfl, ?_⟩
        simp only [State.overflow, State.raise, hh, State.endGrid_cores]
      | some f =>
        obtain ⟨u, hu⟩ := storeAll_handed (x := .b) hh _ s
        cases hu.symm.trans hl
    next => cases e

end

/-- An access at the lane port makes a pass. -/
theorem exists_port_of_not_onePass {accs : List Acc} (h : onePass accs = false) : ∃ a ∈ accs, a.port.isSome = true := by
  by_contra hno
  have hnone : ∀ a ∈ accs, a.port = none := fun a ha => by simpa using fun hp => hno ⟨a, ha, hp⟩
  have hwords : portWords accs = [] := by
    rw [portWords, List.flatMap_eq_nil_iff.mpr fun a ha => by rw [hnone a ha]]
    rfl
  rw [onePass, portPasses, hwords] at h
  exact absurd h (by decide)

/-- Accesses at the lane port pass where no other instruction has taken it, but for a handler's. -/
theorem Passes.port_free {s s' : State} {h : Here} {rs : List Req} {kind : Access} {reads : Bool} {accs : List Acc}
    (hp : Passes s h rs kind reads accs s') (hone : onePass accs = false) (hh : h.hand = none) :
    (s'.core h.core).port = none := by
  obtain ⟨hfree, u, l, hu, -, -⟩ := hp.parts
  obtain ⟨a, ha, hport⟩ := exists_port_of_not_onePass hone
  have htaken : s.portTaken h rs = (h.hand.isNone && (s.core h.core).port.isSome && rs.any Req.atPort) := rfl
  rw [htaken, translateAll_port hu ha hport, hh] at hfree
  rw [hp.translations.translated.port]
  simpa using hfree

/-! ### How a store ends -/

/-- From `s` to `t` the data are the same but for `M` and `S`, and the wave of `h` has kept its lanes and registers. -/
structure StoreFramed (h : Here) (M S : Nat → Prop) (s t : State) : Prop where
  data : s.DataWithin h.core M S t
  wave : ∀ w, t.issuerWave h = some w → w.lanes = h.wave.lanes ∧ w.w = h.wave.w

section
variable {M S : Nat → Prop} {s : State} {h : Here} {e : Nat × Thread} (hh : s.here = some h) (he : e ∈ h.wave.active)
include hh he

/-- Ending at the next slot, the wave keeps its lanes. -/
theorem State.doneLen_framed (len : Nat) : StoreFramed h M S s (s.doneLen h h.wave len) where
  data := (s.doneLen_sameData h h.wave len).within
  wave w hw := by
    obtain rfl := Option.some.inj ((onlyWave_done hh he).2.symm.trans hw)
    exact ⟨rfl, rfl⟩

/-- A wave with a lane that runs, put back, stands in its place. -/
theorem State.putWave_issuer {w : Wave} (hw : w.lanes = h.wave.lanes ∧ w.mask = h.wave.mask) :
    (s.putWave h w).issuerWave h = some w := by
  have hact : e ∈ w.active := by
    unfold Wave.active Wave.masked at he ⊢
    rwa [hw.1, hw.2]
  have hset := Wave.settle_of_side (Wave.side_of_active hact)
  have hl : w.lanes.isEmpty = false :=
    List.isEmpty_eq_false_iff.mpr (List.ne_nil_of_mem (List.mem_of_mem_filter hact))
  obtain ⟨hn, hc, -⟩ | ⟨f, hf, hlt, -⟩ := State.here_cases hh
  · rw [State.putWave_slot hn hset hl, State.issuerWave, hn]
    dsimp only
    rw [State.core_updCore_self _ _ _ hc]
    exact Table.get?_put_self _ _ _
  · rw [State.putWave_handler hf hset hl, State.issuerWave, hf]
    exact congrArg Handler.wave (State.handler_updHandler_self _ _ _ hlt)

/-- Stores that take the lane port make their first pass, within what they cover. -/
theorem State.takePort_store_framed {f : Form} {ls : Table Thread} {ps : List Put} (hps : ∀ p ∈ ps, p.Within M S)
    (hfree : h.hand = none → (s.core h.core).port = none) :
    let t := s.takePort h f .store h.wave ls (ps.map fun p => (p.hit, p.bytes)) []
    (t.core h.core).port.isSome = true → StoreFramed h M S s t := by
  intro t ht
  subst t
  have hput := s.putWave_sameData h { h.wave with park := .port }
  have hissuer := State.putWave_issuer hh he (w := { h.wave with park := .port }) ⟨rfl, rfl⟩
  have hport : ((s.putWave h { h.wave with park := .port }).core h.core).port = (s.core h.core).port := by
    unfold State.putWave
    dsimp only
    split
    · exact State.core_updCore_congr (g := Core.port) (by exact fun _ => rfl) s h.core h.core
    · rfl
  unfold State.takePort at ht ⊢
  dsimp only at ht ⊢
  generalize s.putWave h { h.wave with park := .port } = s1 at *
  split
  next t1 herr =>
    obtain ⟨hn, hcores⟩ := State.passPort_store_error (by rfl) herr
    rw [herr] at ht
    dsimp only at ht
    rw [State.core_eq_of_cores hcores, hport, hfree hn] at ht
    cases ht
  next t1 q hok =>
    obtain ⟨hd, hw⟩ := State.passPort_store_within (M := M) (S := S) (by rfl) (fun a ha => by
      obtain ⟨y, hy, hya⟩ := List.mem_filterMap.mp ha
      obtain ⟨p, hp, rfl⟩ := List.mem_map.mp hy
      obtain ⟨b, hb, rfl⟩ := Option.map_eq_some_iff.mp hya
      exact (hps p hp).portAcc hb) hok
    refine ⟨(hput.within.trans hd).trans (State.updCore_sameData _ (by exact fun _ => ⟨rfl, rfl⟩) _).within,
      fun w hw' => ?_⟩
    have hkeep : (t1.updCore h.core fun k => { k with port := some q }).issuerWave h = t1.issuerWave h := by
      unfold State.issuerWave
      split
      · exact congrArg (Table.get? · h.slot)
          (State.core_updCore_congr (g := Core.waves) (by exact fun _ => rfl) t1 h.core h.core)
      · rfl
    rw [hkeep, hw.issuerWave, hissuer] at hw'
    obtain rfl := Option.some.inj hw'
    exact ⟨rfl, rfl⟩

/-- Every way in which checked stores end changes the data within what they cover. -/
theorem StoreEnds.framed {i : Instr} {s0 s2 t : State} {f : Form} {x : Level} {ps : List Put}
    (hends : StoreEnds i s0 s h f x ps) (hps : ∀ p ∈ ps, p.Within M S)
    (hfree : onePass (ps.map Put.hit) = false → h.hand = none → (s.core h.core).port = none)
    (h2 : storeAll ps (s.holdsStores h x ps).2 h x = .ok s2)
    (h3 : ∃ s3, storeAll (offPuts ps) (s.holdsStores h x ps).2 h x = .ok s3)
    (ht : exec i s0 = .next t) (hport : onePass (ps.map Put.hit) = true ∨ (t.core h.core).port.isSome = true) :
    StoreFramed h M S s t := by
  obtain ⟨hheld, hmade⟩ := hends
  have hdrew := s.holdsStores_drew h x ps
  have hafter {v : State} (hd : s.DataWithin h.core M S v) (hw : s.SameWaves v) (len : Nat) :
      StoreFramed h M S s (v.doneLen h h.wave len) := by
    have hend := State.doneLen_framed (M := M) (S := S) (hw.here.trans hh) he len
    exact ⟨hd.trans hend.data, hend.wave⟩
  cases hr : (s.holdsStores h x ps).1 with
  | true =>
    obtain rfl := Host.Outcome.next.inj (ht.symm.trans (hheld hr))
    have hreach := State.reachPuts_same ((s.holdsStores h x ps).2.holdStores h x ps) h x ps
    refine hafter ((hdrew.sameData.trans ?_).trans hreach.1).within ((hdrew.sameWaves.trans ?_).trans hreach.2) _
    · exact State.updCore_sameData _ (by exact fun _ => ⟨rfl, rfl⟩) _
    · exact State.updCore_sameWaves (by exact fun _ => ⟨rfl, rfl⟩) _ _
  | false =>
    obtain ⟨hone, hmany⟩ := hmade hr s2 h2
    cases hpass : onePass (ps.map Put.hit) with
    | true =>
      obtain rfl := Host.Outcome.next.inj (ht.symm.trans (hone hpass))
      obtain ⟨hd, hw⟩ := storeAll_within hps h2
      have hreach := State.reachPuts_same s2 h x ps
      exact hafter ((hdrew.sameData.within.trans hd).trans hreach.1.within) ((hdrew.sameWaves.trans hw).trans hreach.2) _
    | false =>
      obtain ⟨s3, h3⟩ := h3
      obtain rfl := Host.Outcome.next.inj (ht.symm.trans (hmany hpass s3 h3))
      obtain ⟨hd, hw⟩ := storeAll_within (fun p hp => hps p (List.mem_filter.mp hp).1) h3
      have hreach := State.reachPuts_same s3 h x (offPuts ps)
      have hwaves := (hdrew.sameWaves.trans hw).trans hreach.2
      have hend := State.takePort_store_framed (M := M) (S := S) (hwaves.here.trans hh) he hps
        (fun hn => (hwaves.port _).trans (hfree hpass hn)) (hport.resolve_left (by simp [hpass]))
      exact ⟨((hdrew.sameData.within.trans hd).trans hreach.1.within).trans hend.data, hend.wave⟩

end

theorem Issues.active {s : State} {f : Form} {h : Here} {ls : Table Thread} (hi : Issues s f h ls) :
    s.here = some h ∧ ∃ e, e ∈ h.wave.active := by
  obtain ⟨hh, hp, hne, -⟩ := hi
  exact ⟨hh, (List.exists_mem_of_ne_nil _ hne).imp fun e he => List.mem_of_mem_filter (hp ▸ he)⟩

theorem length_storeBytes (z : Size) (w : Wave) (im : Option Word) (t : Thread) (c : Src) :
    (storeBytes z w im t c).length = sizeBytes z := by
  unfold storeBytes
  split
  · split <;> simp [natsFrom, sizeBytes]
  all_goals simp [sizeBytes]

/-- R246, R248, R120 to R122: every way in which a store ends leaves what its accesses do not cover. -/
theorem storeFrame : Claim.StoreFrame := by
  intro x i s s' s2 t h ls accs lv hcase ps at' h2 h3 ht hport
  obtain ⟨f, rs, hi, hpass, hends⟩ : ∃ f rs, Issues s f h ls ∧ Passes s h rs .write false accs s' ∧
      StoreEnds i s s' h f lv ps := by
    obtain ⟨hst, hsts⟩ := storesComplete.1 x s s' h ls accs
    obtain ⟨rfl, rfl, hi, hp⟩ | ⟨rfl, rfl, hi, hp⟩ := hcase
    · exact ⟨_, _, hi, hp, hst hi hp⟩
    · exact ⟨_, _, hi, hp, hsts hi hp⟩
  obtain ⟨hhere, e, he⟩ := hi.active
  have hhit : ps.map Put.hit = accs := by simp [ps, Function.comp_def]
  have hwithin : ∀ p ∈ ps, p.Within
      (fun a => ∃ y ∈ accs, ∃ pa line, y.spot = .mem pa line ∧ pa ≤ a ∧ a < pa + sizeBytes x.sz)
      (fun a => ∃ y ∈ accs, ∃ b, y.spot = .scr b ∧ b ≤ a ∧ a < b + sizeBytes x.sz) := by
    intro p hp
    obtain ⟨y, hy, rfl⟩ := List.mem_map.mp hp
    refine ⟨fun pa line hs a hlo hhi => ?_, fun b hs a hlo hhi => ?_⟩ <;> rw [length_storeBytes] at hhi
    · exact ⟨y, hy, pa, line, hs, hlo, hhi⟩
    · exact ⟨y, hy, b, hs, hlo, hhi⟩
  obtain ⟨⟨hg, hb, hatD, hscr, hothers⟩, hwave⟩ := hends.framed
    (hpass.translations.translated.sameWaves.here.trans hhere) he hwithin
    (fun hone => hpass.port_free (hhit ▸ hone)) h2 h3 ht hport
  exact ⟨fun a ha => hatD a fun ⟨y, hy, pa, line, hs, hin⟩ => ha y hy pa line hs hin,
    fun a ha => hscr a fun ⟨y, hy, b, hs, hin⟩ => ha y hy b hs hin, hothers, hg, hb, hwave⟩

/-- Settles O50: translations set A and D bits, loads leave the data, and stores change what they cover. -/
theorem memoryFrames : Obligations.MemoryFrames := ⟨translationFrame, loadFrame, storeFrame⟩

end Sys2Proof.Machine

/-! ## Integer instructions and division (O2) -/

namespace Sys2Proof.Machine

variable {s : State} {h : Here} {ls : Table Thread}

/-! ### What a lane-wise instruction writes -/

/-- A single register takes the low word of its value. -/
theorem Thread.setW_setWidth (t : Thread) (n : Nat) (y : Word) : t.setW false n (y.setWidth 64) = t.setReg n y :=
  congrArg (t.setReg n) ((BitVec.extractLsb'_setWidth_of_le (by decide)).trans BitVec.extractLsb'_eq_self)

section
variable {i : Instr} {f : Form} {k : Wave → Thread → Thread} {wide : Bool} {d : BitVec 8}

/-- A lane-wise instruction that writes `val` of each lane's thread. -/
theorem Issues.writes (hi : Issues s f h ls) (hx : exec i s = s.lanewise f k) {val : Thread → DWord}
    (hk : ∀ t, k h.wave t = t.setW wide d.toNat (val t)) {P : Nat × Thread → DWord → Prop} (hP : ∀ e, P e (val e.2)) :
    LaneWrites i s h ls f.len wide d P := by
  refine ⟨fun _ => val, ?_, fun e _ => hP e⟩
  rw [EndsWith, hx, hi.lanes]
  simp only [hk]

/-- A lane-wise instruction that writes one register of each lane. -/
theorem Issues.writesReg (hi : Issues s f h ls) (hx : exec i s = s.lanewise f k) {val : Thread → Word}
    (hk : ∀ t, k h.wave t = t.setReg d.toNat (val t)) {P : Nat × Thread → DWord → Prop}
    (hP : ∀ e, P e ((val e.2).setWidth 64)) : LaneWrites i s h ls f.len false d P :=
  hi.writes hx (fun t => (hk t).trans (t.setW_setWidth _ _).symm) hP

end

/-! ### Sources and results of w bits (R190, R193) -/

theorem intWidth_narrow {x : IntOp} (hw : x.w = false) : intWidth x = 32 := by simp [intWidth, hw]

theorem intWidth_wide {x : IntOp} (hw : x.w = true) : intWidth x = 64 := by simp [intWidth, hw]

theorem intWidth_le (x : IntOp) : intWidth x ≤ 64 := by
  cases hw : x.w
  · simp [intWidth_narrow hw]
  · simp [intWidth_wide hw]

/-- A source read as the instruction reads it. -/
theorem intVal_eq_asInt {x : IntOp} {n : Nat} (hn : n = intWidth x) (t : Thread) (a : Src) :
    intVal x.u x.w h.wave x.im t a = asInt x (intSource n x h t a) := by
  cases hw : x.w
  · obtain rfl := hn.trans (intWidth_narrow hw)
    simp only [intVal, asInt, intSource, Src.wide, hw, Bool.false_eq_true, if_false, BitVec.setWidth_eq,
      BitVec.setWidth_setWidth_of_le _ (show 32 ≤ 64 by decide)]
  · obtain rfl := hn.trans (intWidth_wide hw)
    simp only [intVal, asInt, intSource, Src.wide, hw, if_true, BitVec.setWidth_eq]

/-- An exact result wraps to its low n bits. -/
theorem setWidth_ofInt {n m : Nat} (hn : n ≤ m) (y : Int) : (BitVec.ofInt m y).setWidth n = BitVec.ofInt n y := by
  apply BitVec.eq_of_toInt_eq
  rw [BitVec.toInt_setWidth, BitVec.toInt_ofInt, BitVec.toNat_ofInt, Int.toNat_of_nonneg (Int.emod_nonneg _ (by simp)),
    ← Int.emod_bmod, Int.emod_emod_of_dvd _ (by exact_mod_cast pow_dvd_pow 2 hn), Int.emod_bmod]

/-- An instruction that writes its exact result, wrapped. -/
theorem intRun_writes {i : Instr} {x : IntOp} {n : Nat} {f : Int → Int → Int → Int} (hn : n = intWidth x)
    (hs : x.sat = false) (hi : Issues s (intForm x) h ls) (hx : exec i s = intRun x s f) {P : Thread → BitVec n → Prop}
    (hP : ∀ t, let v := fun a => asInt x (intSource n x h t a)
      P t (BitVec.ofInt n (f (v x.a) (v x.b) (v x.c)))) : IntWrites n i x s h ls P := by
  let v (t : Thread) (a : Src) : Int := asInt x (intSource n x h t a)
  refine hi.writes (val := fun t => BitVec.ofInt 64 (f (v t x.a) (v t x.b) (v t x.c))) hx (fun t => ?_) fun e => ?_
  · simp only [intPut, hs, intVal_eq_asInt hn, Bool.false_eq_true, if_false, v]
  · rw [setWidth_ofInt (hn ▸ intWidth_le x)]
    exact hP e.2

/-! ### Division (R195) -/

theorem ofInt_tdiv {n : Nat} (x : IntOp) (a b : BitVec n) :
    BitVec.ofInt n ((asInt x a).tdiv (asInt x b)) = if x.u then a / b else a.sdiv b := by
  cases hu : x.u
  · simp only [asInt, hu, Bool.false_eq_true, if_false]
    exact BitVec.eq_of_toInt_eq (by rw [BitVec.toInt_ofInt, BitVec.toInt_sdiv])
  · simp only [asInt, hu, if_true]
    exact (BitVec.ofInt_natCast n _).trans (BitVec.eq_of_toNat_eq (by
      rw [BitVec.toNat_ofNat, ← BitVec.toNat_udiv, Nat.mod_eq_of_lt (BitVec.isLt _)]))

theorem ofInt_tmod {n : Nat} (x : IntOp) (a b : BitVec n) :
    BitVec.ofInt n ((asInt x a).tmod (asInt x b)) = if x.u then a % b else a.srem b := by
  cases hu : x.u
  · simp only [asInt, hu, Bool.false_eq_true, if_false]
    rw [← BitVec.toInt_srem, BitVec.ofInt_toInt]
  · simp only [asInt, hu, if_true]
    exact (BitVec.ofInt_natCast n _).trans (BitVec.eq_of_toNat_eq (by
      rw [BitVec.toNat_ofNat, ← BitVec.toNat_umod, Nat.mod_eq_of_lt (BitVec.isLt _)]))

theorem asInt_eq_zero {n : Nat} (x : IntOp) {b : BitVec n} : asInt x b = 0 ↔ b = 0 := by
  cases hu : x.u
  · simp only [asInt, hu, Bool.false_eq_true, if_false]
    exact ⟨fun h0 => BitVec.eq_of_toInt_eq (h0.trans (by simp)), fun h0 => by simp [h0]⟩
  · simp [asInt, hu, BitVec.toNat_eq]

theorem ofInt_asInt {n : Nat} (x : IntOp) (a : BitVec n) : BitVec.ofInt n (asInt x a) = a := by
  cases hu : x.u
  · simp only [asInt, hu, Bool.false_eq_true, if_false, BitVec.ofInt_toInt]
  · simp only [asInt, hu, if_true, BitVec.ofInt_natCast, BitVec.ofNat_toNat, BitVec.setWidth_eq]

theorem asInt_nonneg {n : Nat} {x : IntOp} (hu : x.u = false) (a : BitVec n) : 0 ≤ asInt x a ↔ a.msb = false := by
  simp [asInt, hu, BitVec.msb_eq_toInt]

theorem ofInt_two_pow_sub_one (n : Nat) : BitVec.ofInt n (2 ^ n - 1) = BitVec.allOnes n := by
  have hcast : (2 : Int) ^ n - 1 = ((2 ^ n - 1 : Nat) : Int) := by simp [Nat.one_le_two_pow]
  rw [hcast, BitVec.ofInt_natCast]
  exact BitVec.eq_of_toNat_eq (by simp)

theorem ofInt_intMin {n : Nat} (hn : 0 < n) : BitVec.ofInt n (-(2 ^ (n - 1))) = BitVec.intMin n := by
  rw [← BitVec.ofInt_toInt (x := BitVec.intMin n), BitVec.toInt_intMin, Nat.two_pow_pred_mod_two_pow hn, Int.natCast_pow]
  rfl

theorem ofInt_intMax (n : Nat) : BitVec.ofInt n (2 ^ (n - 1) - 1) = BitVec.intMax n := by
  rw [← BitVec.toInt_intMax, BitVec.ofInt_toInt]

theorem intWidth_pos (x : IntOp) : 0 < intWidth x := by
  cases hw : x.w <;> simp [intWidth, hw]

/-- Settles O2: a divisor that is not zero divides as integers, and zero gives the row of R195. -/
theorem divisionResults : Obligations.DivisionResults := by
  intro x n s h ls hn hs hi v
  refine ⟨intRun_writes hn hs hi (exec_idiv s) fun t => ⟨fun hb => ?_, fun hb hu => ?_, fun hb hu ha => ?_,
    fun hb hu ha => ?_⟩, intRun_writes hn hs hi (exec_irem s) fun t => ?_⟩
  · rw [divInt, if_neg (mt (asInt_eq_zero x).mp hb), ofInt_tdiv]
  · rw [divInt, if_pos ((asInt_eq_zero x).mpr hb), if_pos hu, ← hn, ofInt_two_pow_sub_one]
  · rw [divInt, if_pos ((asInt_eq_zero x).mpr hb), if_neg (Bool.eq_false_iff.mp hu),
      if_pos ((asInt_nonneg hu _).mpr ha), ← hn, ofInt_intMax]
  · rw [divInt, if_pos ((asInt_eq_zero x).mpr hb), if_neg (Bool.eq_false_iff.mp hu),
      if_neg (mt (asInt_nonneg hu _).mp (ne_of_eq_of_ne ha (by decide))), ← hn, ofInt_intMin (hn ▸ intWidth_pos x)]
  · show BitVec.ofInt n (remInt _ _) = if v t x.b = 0 then _ else _
    rw [remInt]
    by_cases hb : v t x.b = 0
    · rw [if_pos hb, if_pos ((asInt_eq_zero x).mpr hb), ofInt_asInt]
    · rw [if_neg hb, if_neg (mt (asInt_eq_zero x).mp hb), ofInt_tmod]

end Sys2Proof.Machine

/-! ## Counts of bits, TERN, bit fields, shifts and moves (O3, O4) -/

namespace Sys2Proof.Machine

variable {s : State} {h : Here} {ls : Table Thread}

/-- A source of one register or of a pair, held in 64 bits. -/
theorem Src.wide_eq_intSource {x : IntOp} {n : Nat} (hn : n = intWidth x) (t : Thread) (a : Src) :
    Src.wide x.w h.wave x.im t a = (intSource n x h t a).setWidth 64 := by
  cases hw : x.w
  · obtain rfl := hn.trans (intWidth_narrow hw)
    simp only [intSource, Src.wide, hw, Bool.false_eq_true, if_false, BitVec.setWidth_eq,
      BitVec.setWidth_setWidth_of_le _ (show 32 ≤ 64 by decide)]
  · obtain rfl := hn.trans (intWidth_wide hw)
    rw [intSource, BitVec.setWidth_eq, BitVec.setWidth_eq, hw]

/-! ### Counts of bits (R196) -/

theorem natsFrom_zero (n : Nat) : natsFrom 0 n = List.range n := by
  rw [natsFrom_eq_range', List.range_eq_range']

theorem popCount_setWidth {n : Nat} (hn : n ≤ 64) (v : BitVec n) :
    popCount n (v.setWidth 64) = ((List.range n).filter fun i => v.getLsbD i).length := by
  rw [popCount, natsFrom_zero]
  refine congrArg List.length (List.filter_congr fun i hi => ?_)
  have hi : i < 64 := (List.mem_range.mp hi).trans_le hn
  simp [hi]

theorem leadingZeros_le (n : Nat) (x : DWord) : leadingZeros n x ≤ n := by
  induction n with
  | zero => exact Nat.le_refl 0
  | succ n ih =>
    rw [leadingZeros]
    split
    · exact Nat.zero_le _
    · exact Nat.succ_le_succ ih

/-- The number of leading zeros bounds a word of n bits on both sides. -/
theorem leadingZeros_bounds {n : Nat} {x : DWord} (hx : x.toNat < 2 ^ n) :
    x.toNat < 2 ^ (n - leadingZeros n x) ∧
      (leadingZeros n x < n → 2 ^ (n - 1 - leadingZeros n x) ≤ x.toNat) := by
  induction n with
  | zero => exact ⟨hx, fun h0 => absurd h0 (Nat.not_lt_zero _)⟩
  | succ n ih =>
    rw [leadingZeros]
    split
    next hb => exact ⟨hx, fun _ => Nat.ge_two_pow_of_testBit hb⟩
    next hb =>
      have hlt : x.toNat < 2 ^ n := Nat.lt_pow_two_of_testBit _ fun i hi => by
        obtain rfl | hi := Nat.eq_or_lt_of_le hi
        · exact Bool.eq_false_iff.mpr hb
        · exact Nat.testBit_lt_two_pow (hx.trans_le (Nat.pow_le_pow_right (by decide) hi))
      obtain ⟨hup, hlow⟩ := ih hlt
      refine ⟨by rwa [Nat.add_sub_add_right], fun hk => ?_⟩
      rw [Nat.add_sub_cancel, Nat.add_comm, Nat.sub_add_eq]
      exact hlow (by omega)

/-- An instruction that counts bits. -/
theorem intCount_writes {i : Instr} {x : IntOp} {n : Nat} {f : Nat → DWord → Nat} (hn : n = intWidth x)
    (hi : Issues s { intForm x with uses := (x.d.toNat, 1) :: Src.runW x.w x.a } h ls) (hx : exec i s = intCount x s f)
    {P : Nat × Thread → DWord → Prop}
    (hP : ∀ e, P e ((BitVec.ofNat 32 (f n ((intSource n x h e.2 x.a).setWidth 64))).setWidth 64)) :
    LaneWrites i s h ls (lenOf x.im) false x.d P :=
  hi.writesReg hx (fun t => by rw [Src.wide_eq_intSource hn, ← hn]) hP

theorem toNat_count {k n : Nat} (hk : k ≤ n) (hn : n ≤ 64) :
    (((BitVec.ofNat 32 k).setWidth 64).setWidth 32).toNat = k := by
  rw [BitVec.setWidth_setWidth_of_le _ (by decide), BitVec.setWidth_eq, BitVec.toNat_ofNat]
  omega

theorem bitCounts : Claim.BitCounts := by
  intro x n s h ls hn hi v
  have hn64 : n ≤ 64 := hn ▸ intWidth_le x
  refine ⟨intCount_writes hn hi (exec_popc s) fun e => ?_, intCount_writes hn hi (exec_clz s) fun e => ?_⟩
  · rw [popCount_setWidth hn64, toNat_count (n := n) _ hn64]
    exact (List.length_filter_le _ _).trans_eq List.length_range
  · have hle := leadingZeros_le n ((v e.2 x.a).setWidth 64)
    rw [toNat_count hle hn64]
    have hv : ((v e.2 x.a).setWidth 64).toNat = (v e.2 x.a).toNat := by
      rw [BitVec.toNat_setWidth_of_le hn64]
    obtain ⟨hup, hlow⟩ := leadingZeros_bounds (n := n) (hv ▸ (v e.2 x.a).isLt)
    rw [hv] at hup hlow
    exact ⟨hle, hup, hlow⟩

/-! ### TERN (R197) -/

theorem getLsbD_ternBits (tt : BitVec 8) (a b c : Word) {i : Nat} (hi : i < 32) : (ternBits tt a b c).getLsbD i =
    tt.getLsbD ((a.getLsbD i).toNat + 2 * (b.getLsbD i).toNat + 4 * (c.getLsbD i).toNat) := by
  have hconst (p : Bool) : BitVec.getLsbD (if p then BitVec.allOnes 32 else 0) i = p := by
    cases p
    · exact BitVec.getLsbD_zero
    · exact (BitVec.getLsbD_allOnes (v := 32)).trans (decide_eq_true hi)
  simp only [ternBits, natsFrom, List.foldl_cons, List.foldl_nil, BitVec.getLsbD_or, BitVec.getLsbD_and, hconst,
    apply_ite (BitVec.getLsbD · i), BitVec.getLsbD_not, decide_eq_true hi, -BitVec.reduceAllOnes]
  cases a.getLsbD i <;> cases b.getLsbD i <;> cases c.getLsbD i <;> simp

theorem ternIsATable : Claim.TernIsATable := by
  intro x s h ls hi
  have hx := exec_tern (x := x) s
  rw [execTern] at hx
  let v (t : Thread) (a : Src) : Word := Src.int h.wave x.im t a
  refine hi.writesReg (val := fun t => ternBits x.tt (v t x.a) (v t x.b) (v t x.c)) hx (fun t => rfl) fun e i hi32 => ?_
  rw [BitVec.getLsbD_setWidth, getLsbD_ternBits _ _ _ _ hi32, decide_eq_true (hi32.trans (by decide)), Bool.true_and]

/-! ### Bit fields (R198) -/

theorem two_mul_lt_iff {n : Nat} (hn : 0 < n) (x : Nat) : 2 * x < 2 ^ n ↔ x < 2 ^ (n - 1) := by
  obtain ⟨m, rfl⟩ := Nat.exists_eq_succ_of_ne_zero hn.ne'
  rw [Nat.succ_sub_one, pow_succ]
  omega

/-- BFE extends the field that its control word names. -/
theorem bfeBits_eq (u : Bool) (n : Nat) (a : DWord) (k : Word) :
    bfeBits u n a k = if u then (a.extractLsb' (fieldOf n k).1 (fieldOf n k).2).setWidth 64
      else (a.extractLsb' (fieldOf n k).1 (fieldOf n k).2).signExtend 64 := by
  unfold bfeBits
  generalize fieldOf n k = f
  obtain ⟨pos, len⟩ := f
  dsimp only
  have hx : a.toNat / 2 ^ pos % 2 ^ len = (a.extractLsb' pos len).toNat := by
    rw [BitVec.extractLsb'_toNat, Nat.shiftRight_eq_div_pow]
  rw [hx]
  generalize a.extractLsb' pos len = y
  obtain rfl | hlen := Nat.eq_zero_or_pos len
  · rw [if_pos rfl, BitVec.eq_nil y]
    cases u <;> rfl
  · have hhalf := two_mul_lt_iff hlen y.toNat
    simp only [hlen.ne', if_false, BitVec.signExtend, BitVec.toInt_eq_toNat_cond, hhalf, Bool.or_eq_true, decide_eq_true_eq]
    cases u
    · simp only [Bool.false_eq_true, false_or, if_false]
      split
      · rw [BitVec.ofInt_natCast]
      · rw [Int.natCast_pow]
        rfl
    · simp only [true_or, if_true]
      exact BitVec.ofNat_toNat _ _

/-- The bits of the field, and above them nothing or its highest one. -/
theorem getLsbD_extend {m len i : Nat} (u : Bool) (y : BitVec len) (hi : i < m) :
    (if u then y.setWidth m else y.signExtend m).getLsbD i =
      if i < len then y.getLsbD i else !u && y.getLsbD (len - 1) := by
  have hm : y.msb = y.getLsbD (len - 1) := BitVec.msb_eq_getLsbD_last y
  cases u
  · simp only [Bool.false_eq_true, if_false, BitVec.getLsbD_signExtend, hi, decide_true, Bool.true_and, Bool.not_false, hm]
  · simp only [if_true, BitVec.getLsbD_setWidth, hi, decide_true, Bool.true_and, Bool.not_true, Bool.false_and]
    split
    · rfl
    next hge => exact BitVec.getLsbD_of_ge _ _ (Nat.le_of_not_lt hge)

theorem getLsbD_bfeBits (u : Bool) {n i : Nat} (a : DWord) {k : Word} (hl : (fieldOf n k).2 ≠ 0) (hi : i < 64) :
    (bfeBits u n a k).getLsbD i = if i < (fieldOf n k).2 then a.getLsbD ((fieldOf n k).1 + i)
      else !u && a.getLsbD ((fieldOf n k).1 + (fieldOf n k).2 - 1) := by
  rw [bfeBits_eq, getLsbD_extend u _ hi, BitVec.getLsbD_extractLsb', BitVec.getLsbD_extractLsb',
    Nat.add_sub_assoc (Nat.pos_of_ne_zero hl), decide_eq_true (show (fieldOf n k).2 - 1 < (fieldOf n k).2 by omega), Bool.true_and]
  split
  next h => rw [decide_eq_true h, Bool.true_and]
  · rfl

theorem getLsbD_fieldMask {m i : Nat} (pos len : Nat) (hi : i < m) :
    (BitVec.ofNat m ((2 ^ len - 1) * 2 ^ pos)).getLsbD i = decide (pos ≤ i ∧ i < pos + len) := by
  rw [BitVec.getLsbD_ofNat, Nat.testBit_mul_two_pow, Nat.testBit_two_pow_sub_one]
  by_cases hp : pos ≤ i <;> simp [hi, hp]; omega

/-- BFI takes the field from source B, and the other bits from source A. -/
theorem getLsbD_bfiBits (n : Nat) (a b : DWord) (k : Word) {i : Nat} (hi : i < 64) :
    (bfiBits n a b k).getLsbD i =
      if (fieldOf n k).1 ≤ i ∧ i < (fieldOf n k).1 + (fieldOf n k).2 then b.getLsbD (i - (fieldOf n k).1) else a.getLsbD i := by
  simp only [bfiBits, BitVec.getLsbD_or, BitVec.getLsbD_and, BitVec.getLsbD_not, getLsbD_fieldMask _ _ hi,
    BitVec.getLsbD_shiftLeft, hi, decide_true, Bool.true_and]
  by_cases hf : (fieldOf n k).1 ≤ i ∧ i < (fieldOf n k).1 + (fieldOf n k).2
  · simp [hf]
  · simp [hf]

/-- A bit instruction on source A, and source B as 32 bits. -/
theorem intBits_writes {i : Instr} {x : IntOp} {n : Nat} {f : DWord → Nat → DWord} (hn : n = intWidth x)
    (hi : Issues s (shiftForm x) h ls) (hx : exec i s = intBits x s f) {P : Thread → BitVec n → Prop}
    (hP : ∀ t, P t ((f ((intSource n x h t x.a).setWidth 64) (Src.int h.wave x.im t x.b).toNat).setWidth n)) :
    IntWrites n i x s h ls P := by
  rw [intBits] at hx
  exact hi.writes hx (fun t => by rw [Src.wide_eq_intSource hn]) fun e => hP e.2

theorem getLsbD_setWidth_lt {n m i : Nat} (y : BitVec m) (hi : i < n) : (y.setWidth n).getLsbD i = y.getLsbD i := by
  rw [BitVec.getLsbD_setWidth, decide_eq_true hi, Bool.true_and]

theorem bitFields : Claim.BitFields := by
  intro x n s h ls hn v pos len
  have hn64 : n ≤ 64 := hn ▸ intWidth_le x
  have hpos (k : Word) : (fieldOf (intWidth x) k).1 = pos k := by rw [← hn]; rfl
  have hlen (k : Word) : (fieldOf (intWidth x) k).2 = len k := by rw [← hn]; rfl
  have hbit (t : Thread) (a : Src) (j : Nat) (hj : j < 64) : ((intSource n x h t a).setWidth 64).getLsbD j = (v t a).getLsbD j :=
    getLsbD_setWidth_lt _ hj
  have hfit (k : Word) : pos k + len k ≤ n := by
    have h1 : pos k ≤ n := Nat.min_le_right _ _
    have h2 : len k ≤ n - pos k := Nat.min_le_right _ _
    omega
  refine ⟨fun hi => intBits_writes hn hi (exec_bfe s) fun t => ?_, fun hi => ?_⟩
  · simp only [BitVec.ofNat_toNat, BitVec.setWidth_eq]
    have hk := hfit (Src.int h.wave x.im t x.b)
    refine ⟨fun h0 => ?_, fun h0 i hin => ?_⟩
    · simp only [bfeBits, hlen, h0, if_true]
      exact BitVec.setWidth_zero n 64
    · rw [getLsbD_setWidth_lt _ hin, getLsbD_bfeBits _ _ (by rwa [hlen]) (hin.trans_le hn64), hpos, hlen]
      split
      · exact hbit _ _ _ (by omega)
      · rw [hbit _ _ _ (by omega)]
  · have hx := exec_bfi (x := x) s
    rw [execBfi] at hx
    let y (t : Thread) (a : Src) : DWord := (intSource n x h t a).setWidth 64
    refine hi.writes (val := fun t => bfiBits (intWidth x) (y t x.a) (y t x.b) (Src.int h.wave x.im t x.c)) hx
      (fun t => ?_) fun e i hin => ?_
    · simp only [Src.wide_eq_intSource hn, y]
    · rw [getLsbD_setWidth_lt _ hin, getLsbD_bfiBits _ _ _ _ (hin.trans_le hn64), hpos, hlen]
      split
      · exact hbit _ _ _ (by omega)
      · exact hbit _ _ _ (by omega)

/-- Settles O3: counts by the bits below the width, TERN by one bit of its sources, fields by the bits of each. -/
theorem bitManipulation : Obligations.BitManipulation := ⟨bitCounts, ternIsATable, bitFields⟩

/-! ### Shifts (R196) -/

theorem setWidth_setWidth_of_le {n : Nat} (hn : n ≤ 64) (v : BitVec n) : (v.setWidth 64).setWidth n = v := by
  rw [BitVec.setWidth_setWidth_of_le _ hn, BitVec.setWidth_eq]

theorem getLsbD_sshiftRight_signExtend {n m i : Nat} (hn : n ≤ 64) (v : BitVec n) (hi : i < 64) :
    ((v.signExtend 64).sshiftRight m).getLsbD i = if m + i < n then v.getLsbD (m + i) else v.msb := by
  have hmsb : (v.signExtend 64).msb = v.msb := by
    rw [BitVec.msb_signExtend]
    split
    · rw [Nat.sub_eq_zero_of_le hn]
      rfl
    · rfl
  rw [BitVec.getLsbD_sshiftRight, decide_eq_false (Nat.not_le.mpr hi), hmsb, BitVec.getLsbD_signExtend]
  by_cases h64 : m + i < 64
  · simp [h64]
  · simp [h64, show ¬ m + i < n by omega]

/-- A word extended with its sign and shifted is the shifted word; beyond its width every bit is the sign. -/
theorem setWidth_sshiftRight {n : Nat} (hn : n ≤ 64) (v : BitVec n) (k : Nat) :
    ((v.signExtend 64).sshiftRight (min k (n - 1))).setWidth n = v.sshiftRight k := by
  refine BitVec.eq_of_getLsbD_eq fun i hi => ?_
  rw [getLsbD_setWidth_lt _ hi, getLsbD_sshiftRight_signExtend hn _ (hi.trans_le hn), BitVec.getLsbD_sshiftRight,
    decide_eq_false (Nat.not_le.mpr hi), Bool.not_false, Bool.true_and]
  by_cases hk : k < n
  · rw [Nat.min_eq_left (Nat.le_sub_one_of_lt hk)]
  · rw [Nat.min_eq_right (by omega), if_neg (show ¬ k + i < n by omega)]
    split
    next h0 => rw [show n - 1 + i = n - 1 by omega, BitVec.msb_eq_getLsbD_last]
    · rfl

theorem shiftResults : Claim.ShiftResults := by
  intro x n s h ls hn hi v k
  have hn64 : n ≤ 64 := hn ▸ intWidth_le x
  refine ⟨intBits_writes hn hi (exec_shl s) fun t => ?_, intBits_writes hn hi (exec_shr s) fun t => ?_,
    intBits_writes hn hi (exec_sar s) fun t => ?_⟩
  · rw [← hn]
    split
    next hge => rw [BitVec.shiftLeft_eq_zero hge, BitVec.ofNat_eq_ofNat, BitVec.setWidth_zero]
    · rw [BitVec.setWidth_shiftLeft_of_le hn64, setWidth_setWidth_of_le hn64]
  · rw [← hn]
    split
    next hge => rw [BitVec.ushiftRight_eq_zero hge, BitVec.ofNat_eq_ofNat, BitVec.setWidth_zero]
    · refine BitVec.eq_of_toNat_eq ?_
      rw [BitVec.toNat_setWidth, BitVec.toNat_ushiftRight, BitVec.toNat_setWidth_of_le hn64, BitVec.toNat_ushiftRight,
        Nat.mod_eq_of_lt ((Nat.shiftRight_le _ _).trans_lt (v t x.a).isLt)]
  · have hext : (if x.w then (v t x.a).setWidth 64 else (((v t x.a).setWidth 64).setWidth 32).signExtend 64) =
        (v t x.a).signExtend 64 := by
      cases hw : x.w
      · obtain rfl := hn.trans (intWidth_narrow hw)
        rw [if_neg (by decide), setWidth_setWidth_of_le hn64]
      · obtain rfl := hn.trans (intWidth_wide hw)
        rw [if_pos rfl, BitVec.signExtend_eq, BitVec.setWidth_eq]
    rw [← hn]
    exact (congrArg (fun y : DWord => (y.sshiftRight (min (k t) (n - 1))).setWidth n) hext).trans
      (setWidth_sshiftRight hn64 _ _)

/-! ### Bitwise instructions (R196) -/

/-- The word whose bits are those of the low n of x in reverse order. -/
theorem getLsbD_revFold (x : DWord) (n : Nat) (l : List Nat) (y : DWord) {j : Nat} (hj : j < 64) :
    (l.foldl (fun y i => if x.getLsbD (n - 1 - i) then y ||| (1#64 <<< i) else y) y).getLsbD j =
      (y.getLsbD j || decide (j ∈ l) && x.getLsbD (n - 1 - j)) := by
  induction l generalizing y with
  | nil => simp
  | cons i l ih =>
    have hi : (if x.getLsbD (n - 1 - i) then y ||| (1#64 <<< i) else y).getLsbD j =
        (y.getLsbD j || decide (j = i) && x.getLsbD (n - 1 - j)) := by
      rw [show (1#64 <<< i) = BitVec.twoPow 64 i from rfl]
      by_cases hji : j = i
      · subst hji
        cases x.getLsbD (n - 1 - j) <;> simp [hj]
      · split <;> simp [hji, Ne.symm hji, BitVec.getLsbD_twoPow]
    rw [List.foldl_cons, ih, hi, Bool.or_assoc, ← Bool.and_or_distrib_right]
    simp

theorem setWidth_revBits {n : Nat} (hn : n ≤ 64) (v : BitVec n) : (revBits n (v.setWidth 64)).setWidth n = v.reverse := by
  refine BitVec.eq_of_getLsbD_eq fun i hi => ?_
  rw [getLsbD_setWidth_lt _ hi, revBits, getLsbD_revFold _ _ _ _ (hi.trans_le hn), BitVec.getLsbD_reverse,
    BitVec.getMsbD_eq_getLsbD, natsFrom_zero, getLsbD_setWidth_lt _ (by omega)]
  simp [hi]

/-- A bitwise instruction on its two sources. -/
theorem intLogic_writes {i : Instr} {x : IntOp} {n : Nat} {f : DWord → DWord → DWord} (hn : n = intWidth x)
    (hi : Issues s (intForm x) h ls) (hx : exec i s = intLogic x s f) {P : Thread → BitVec n → Prop}
    (hP : ∀ t, P t ((f ((intSource n x h t x.a).setWidth 64) ((intSource n x h t x.b).setWidth 64)).setWidth n)) :
    IntWrites n i x s h ls P :=
  let v (t : Thread) (a : Src) : DWord := (intSource n x h t a).setWidth 64
  hi.writes (val := fun t => f (v t x.a) (v t x.b)) hx
    (fun t => by simp only [Src.wide_eq_intSource hn, v]) fun e => hP e.2

theorem bitwiseResults : Claim.BitwiseResults := by
  intro x n s h ls hn hi v
  have hn64 : n ≤ 64 := hn ▸ intWidth_le x
  have hback := setWidth_setWidth_of_le hn64
  refine ⟨intLogic_writes hn hi (exec_and s) fun t => ?_, intLogic_writes hn hi (exec_or s) fun t => ?_,
    intLogic_writes hn hi (exec_xor s) fun t => ?_, intLogic_writes hn hi (exec_not s) fun t => ?_,
    intLogic_writes hn hi (exec_brev s) fun t => ?_⟩
  · rw [BitVec.setWidth_and, hback, hback]
  · rw [BitVec.setWidth_or, hback, hback]
  · rw [BitVec.setWidth_xor, hback, hback]
  · rw [BitVec.setWidth_not hn64, hback]
  · rw [← hn, setWidth_revBits hn64]

/-! ### Moves (R199, R200) -/

/-- LEA's exact sum wraps as the sum of words does. -/
theorem ofInt_lea (u : Bool) (a : Word) (b : DWord) (k : Nat) :
    BitVec.ofInt 64 ((if u then (a.toNat : Int) else a.toInt) * 2 ^ k + b.toNat) =
      (if u then a.setWidth 64 else a.signExtend 64) <<< k + b := by
  have ha : BitVec.ofInt 64 (if u then (a.toNat : Int) else a.toInt) = if u then a.setWidth 64 else a.signExtend 64 := by
    cases u
    · rfl
    · exact (BitVec.ofInt_natCast 64 a.toNat).trans (BitVec.ofNat_toNat 64 a)
  have hk : BitVec.ofInt 64 (2 ^ k) = BitVec.twoPow 64 k := by
    rw [show (2 : Int) ^ k = ((2 ^ k : Nat) : Int) by simp, BitVec.ofInt_natCast]
    exact BitVec.eq_of_toNat_eq (by simp)
  rw [BitVec.ofInt_add, BitVec.ofInt_mul, ha, hk, BitVec.ofInt_natCast, BitVec.shiftLeft_eq_mul_twoPow]
  simp

theorem moveResults : Claim.MoveResults := by
  refine ⟨fun x n s h ls hn hi => ?_, fun x s h ls hi => ?_, fun x s h ls hi => ?_, fun x s h ls hi => ?_,
    fun x s h ls hi => ?_⟩
  · exact hi.writes (exec_mov s) (fun t => rfl) fun e => rfl
  · exact hi.writes (exec_movi s) (fun t => rfl) fun e => rfl
  · exact hi.writes (exec_movi64 s) (fun t => rfl) fun e => rfl
  · have hx := exec_lea (x := x) s
    rw [execLea] at hx
    exact hi.writes hx (fun t => rfl) fun e => congrArg (BitVec.setWidth _) (ofInt_lea _ _ _ _)
  · have hx := exec_sel (x := x) s
    rw [execSel] at hx
    refine hi.writes hx (fun t => rfl) fun e => ?_
    simp only [bne_iff_ne]

/-- Settles O4: shifts and bitwise instructions by their bits, the moves by their source. -/
theorem shiftsMovesAndBitwise : Obligations.ShiftsMovesAndBitwise := ⟨shiftResults, bitwiseResults, moveResults⟩

end Sys2Proof.Machine

/-! ## Compares, predicate instructions and VOTE (O7) -/

namespace Sys2Proof.Machine

variable {s : State} {h : Here} {ls : Table Thread}

/-- A lane-wise instruction that writes a predicate of each lane. -/
theorem Issues.writesPred {i : Instr} {f : Form} {k : Wave → Thread → Thread} {pd : BitVec 4} {val val' : Thread → Bool}
    (hi : Issues s f h ls) (hx : exec i s = s.lanewise f k) (hk : ∀ t, k h.wave t = t.setPred pd.toNat (val t))
    (hv : ∀ t, val t = val' t) : LanePred i s h ls f.len pd val' := by
  rw [LanePred, EndsWith, hx, hi.lanes]
  simp only [hk, hv]

/-- A result combined with a predicate (R209). -/
theorem combine_eq (c : Comb) (r p : Bool) : combine c r p = match c with
    | .none => r
    | .and => r && p
    | .or => r || p
    | .xor => r ^^ p := by
  cases c <;> rfl

/-! ### ICMP and FCMP (R209, R210) -/

/-- A condition on integers, from their order. -/
theorem condHolds_eq {n : Nat} (c : Cond) (u : Bool) (a b : BitVec n) :
    condHolds c (if u then (a.toNat : Int) else a.toInt) (if u then (b.toNat : Int) else b.toInt) =
      let lt (a b : BitVec n) : Bool := if u then a.ult b else a.slt b
      match c with
      | .eq => a == b
      | .ne => !(a == b)
      | .lt => lt a b
      | .le => !lt b a
      | .gt => lt b a
      | .ge => !lt a b := by
  have heq : ((if u then (a.toNat : Int) else a.toInt) = if u then (b.toNat : Int) else b.toInt) ↔ a = b := by
    cases u
    · exact BitVec.toInt_inj
    · exact Int.natCast_inj.trans BitVec.toNat_inj
  have hlt (a b : BitVec n) : (if u then a.ult b else a.slt b) =
      decide ((if u then (a.toNat : Int) else a.toInt) < if u then (b.toNat : Int) else b.toInt) := by
    cases u
    · exact BitVec.slt_eq_decide
    · simp [BitVec.ult]
  simp only [hlt]
  generalize (if u then (a.toNat : Int) else a.toInt) = i at heq
  generalize (if u then (b.toNat : Int) else b.toInt) = j at heq
  cases c
  case eq => exact decide_eq_decide.mpr heq
  case ne => exact congrArg (!·) (decide_eq_decide.mpr heq)
  case lt => rfl
  case gt => rfl
  case le => exact (decide_eq_decide.mpr Int.not_lt.symm).trans decide_not
  case ge => exact (decide_eq_decide.mpr Int.not_lt.symm).trans decide_not

/-- A source of 32 or 64 bits, read unsigned or in two's complement. -/
theorem intVal_eq (u wide : Bool) (w : Wave) (im : Option Word) (t : Thread) (a : Src) :
    let y := (Src.wide wide w im t a).setWidth (if wide then 64 else 32)
    intVal u wide w im t a = if u then (y.toNat : Int) else y.toInt := by
  cases wide
  · have hback : ((Src.int w im t a).setWidth 64).setWidth 32 = Src.int w im t a := setWidth_setWidth_of_le (by decide) _
    exact (congrArg (fun y : Word => if u then (y.toNat : Int) else y.toInt) hback).symm
  · exact (congrArg (fun y : DWord => if u then (y.toNat : Int) else y.toInt) (BitVec.setWidth_eq (Src.int64 w im t a))).symm

theorem Real'.lt_nan {x y : Real'} (h : (x.isNan || y.isNan) = true) : x.lt y = false := by
  cases x <;> cases y <;> simp_all [Real'.lt, Real'.isNan]

/-- An FP32 condition, from whether a NaN is compared, equality and order (R210). -/
theorem fcondHolds_eq (c : FCond) (a b : Word) : fcondHolds c a b =
    let n := isNan32 a || isNan32 b
    match c with
    | .eq => !n && feq32 a b
    | .ne => !n && !feq32 a b
    | .lt => !n && flt32 a b
    | .le => !n && !flt32 b a
    | .gt => !n && flt32 b a
    | .ge => !n && !flt32 a b
    | .num => !n
    | .nan => n
    | .equ => n || feq32 a b
    | .neu => n || !feq32 a b
    | .ltu => n || flt32 a b
    | .leu => n || !flt32 b a
    | .gtu => n || flt32 b a
    | .geu => n || !flt32 a b := by
  have hle (a b : Word) : fle32 a b = (!(isNan32 a || isNan32 b) && !flt32 b a) := by
    simp [fle32, Real'.le, isNan32, flt32]
  have hlt (a b : Word) : flt32 a b = (!(isNan32 a || isNan32 b) && flt32 a b) := by
    cases hn : isNan32 a || isNan32 b
    · rfl
    · exact Real'.lt_nan hn
  have heq : feq32 a b = (!(isNan32 a || isNan32 b) && feq32 a b) := by
    rw [show feq32 a b = (fle32 a b && fle32 b a) from rfl, hle a b]
    cases isNan32 a || isNan32 b <;> rfl
  have hcomm : (isNan32 b || isNan32 a) = (isNan32 a || isNan32 b) := Bool.or_comm _ _
  cases c
  case eq => exact heq
  case lt => exact hlt a b
  case gt => exact (hlt b a).trans (by rw [hcomm])
  case le => exact hle a b
  case ge => exact (hle b a).trans (by rw [hcomm])
  case leu => simp only [fcondHolds, hle]; cases (isNan32 a || isNan32 b) <;> rfl
  case geu => simp only [fcondHolds, hle, hcomm]; cases (isNan32 a || isNan32 b) <;> rfl
  all_goals rfl

theorem compares : Claim.Compares := by
  refine ⟨fun x s h ls hi => ?_, fun x s h ls hi => ?_⟩
  · have hx := exec_icmp (x := x) s
    rw [execIcmp] at hx
    refine hi.writesPred hx (fun t => rfl) fun t => ?_
    rw [intVal_eq, intVal_eq, condHolds_eq]
    exact combine_eq _ _ _
  · have hx := exec_fcmp (x := x) s
    rw [execFcmp] at hx
    refine hi.writesPred hx (fun t => rfl) fun t => ?_
    rw [fcondHolds_eq]
    exact combine_eq _ _ _

/-! ### Predicate instructions and VOTE (R211, R212) -/

/-- All passing lanes hold one value of the predicate, where all hold it or none does. -/
theorem voteOf_eq {α : Type} (m : VoteMode) (l : List α) (p : α → Bool) : voteOf m (l.map p) =
    match m with
    | .all => l.all p
    | .any => l.any p
    | .same => l.all fun e => l.all fun d => p e == p d
    | .none => l.all fun e => !p e := by
  cases m
  case same =>
    rw [Bool.eq_iff_iff]
    simp only [voteOf, Bool.or_eq_true, List.all_eq_true, List.all_map, List.any_map, Bool.not_eq_true', List.any_eq_false,
      Function.comp, id, beq_iff_eq]
    refine ⟨fun h e he d hd => ?_, fun h => ?_⟩
    · obtain h | h := h
      · rw [h e he, h d hd]
      · rw [Bool.eq_false_iff.mpr (h e he), Bool.eq_false_iff.mpr (h d hd)]
    · cases l with
      | nil => exact .inl fun e he => absurd he (List.not_mem_nil)
      | cons d l =>
        have hd : d ∈ d :: l := List.mem_cons_self
        cases hp : p d
        · exact .inr fun e he => Bool.eq_false_iff.mp ((h e he d hd).trans hp)
        · exact .inl fun e he => (h e he d hd).trans hp
  all_goals simp [voteOf, Function.comp_def, List.all_eq_not_any_not]

/-- A predicate instruction of two sources. -/
theorem predRun_writes {i : Instr} {x : PredOp} {f : Bool → Bool → Bool} (hi : Issues s { len := 8, g := x.g } h ls)
    (hx : exec i s = predRun x s f) {val : Thread → Bool}
    (hv : ∀ t, (f (t.pred x.pa.toNat != x.na) (t.pred x.pb.toNat != x.nb) != x.nr) = val t) :
    LanePred i s h ls 8 x.pd val := by
  rw [predRun] at hx
  exact hi.writesPred hx (fun t => rfl) hv

theorem predicateResults : Claim.PredicateResults := by
  refine ⟨fun x s h ls hi => ⟨?_, ?_, ?_⟩, fun x s h ls hi => ?_, fun x s h ls hi => ?_, fun x s h ls hi => ?_⟩
  · exact predRun_writes hi (exec_pand s) fun t => by simp
  · exact predRun_writes hi (exec_por s) fun t => by simp
  · exact predRun_writes hi (exec_pxor s) fun t => by simp
  · exact hi.writesPred (exec_pnot s) (fun t => rfl) fun t => rfl
  · refine hi.writesPred (exec_pmov s) (fun t => rfl) fun t => ?_
    cases x.src with
    | pred ng p => simp
    | const k => rfl
  · rw [LanePred, EndsWith, exec_vote, execVote, hi.run]
    exact congrArg (fun r : Bool => Host.Outcome.next (s.doneLen h (h.wave.updLanes ls fun _ t => t.setPred x.pd.toNat r) 8))
      (voteOf_eq x.mode ls _)

/-- Settles O7: compares by the order of their sources, VOTE by what its mode asks of the passing lanes. -/
theorem predicatesAndCompares : Obligations.PredicatesAndCompares := ⟨compares, predicateResults⟩

end Sys2Proof.Machine

/-! ## Packed arithmetic and CVT (O6) -/

namespace Sys2Proof.Machine

variable {s : State} {h : Here} {ls : Table Thread}

/-! ### Packed arithmetic (R206) -/

/-- A half of a packed register. -/
theorem extractLsb'_halves (half : Nat → BitVec 16) {k : Nat} (hk : k < 2) :
    ((half 1 ++ half 0 : Word).setWidth 64).extractLsb' (16 * k) 16 = half k := by
  rw [BitVec.extractLsb'_setWidth_of_le (by omega)]
  interval_cases k
  · exact BitVec.extractLsb'_append_eq_right
  · exact BitVec.extractLsb'_append_eq_left

/-- A half of a packed result, rounded. -/
def pkHalf (x : PkOp) (f : Real' → Real' → Real' → Real') (h : Here) (t : Thread) (k : Nat) : Nat :=
  let fm := if x.bf then fpBf16 else fpF16
  let v := Src.packed fm h.wave x.im t
  fm.round (tzMode x.tz) (f (halfVal fm x.na (v x.a) k) (halfVal fm x.nb (v x.b) k) (halfVal fm x.nc (v x.c) k))

/-- A packed instruction writes the two halves. -/
theorem pkRun_writes {i : Instr} {x : PkOp} {f : Real' → Real' → Real' → Real'}
    (hi : Issues s { len := lenOf x.im, g := x.g, uses := (x.d.toNat, 1) :: runs [x.a, x.b, x.c] } h ls)
    (hx : exec i s = pkRun x s f) :
    LaneWrites i s h ls (lenOf x.im) false x.d fun e r =>
      ∀ k < 2, (r.extractLsb' (16 * k) 16).toNat = pkHalf x f h e.2 k % 2 ^ 16 := by
  rw [pkRun] at hx
  let half (t : Thread) (k : Nat) : BitVec 16 := BitVec.ofNat 16 (pkHalf x f h t k)
  refine hi.writesReg (val := fun t => half t 1 ++ half t 0) hx (fun t => rfl) fun e k hk => ?_
  rw [extractLsb'_halves (half e.2) hk, BitVec.toNat_ofNat]

theorem packedArithmetic : Claim.PackedArithmetic := by
  intro x s h ls hi fm mode half halves
  have hrun {i : Instr} {f : Real' → Real' → Real' → Real'} (hx : exec i s = pkRun x s f) : halves i f :=
    pkRun_writes hi hx
  exact ⟨hrun (exec_pkadd s), hrun (exec_pkmul s), hrun (exec_pkfma s)⟩

/-! ### CVT (R207, R208) -/

/-- A part of a register replaced by `r`. -/
def putPart (m pos r : Nat) (old : Word) : Word :=
  (old &&& ~~~(BitVec.ofNat 32 ((2 ^ m - 1) * 2 ^ pos))) ||| BitVec.ofNat 32 (r * 2 ^ pos)

theorem getLsbD_putPart {m pos r i : Nat} (hr : r < 2 ^ m) (old : Word) (hi : i < 32) : (putPart m pos r old).getLsbD i =
    if pos ≤ i ∧ i < pos + m then r.testBit (i - pos) else old.getLsbD i := by
  rw [putPart, BitVec.getLsbD_or, BitVec.getLsbD_and, BitVec.getLsbD_not, getLsbD_fieldMask _ _ hi, BitVec.getLsbD_ofNat,
    Nat.testBit_mul_two_pow]
  by_cases hp : pos ≤ i ∧ i < pos + m
  · simp [hp, hi]
  · have hout : (decide (pos ≤ i) && r.testBit (i - pos)) = false := by
      by_cases hlo : pos ≤ i
      · rw [Nat.testBit_lt_two_pow (hr.trans_le (Nat.pow_le_pow_right (by decide) (by omega))), Bool.and_false]
      · rw [decide_eq_false hlo, Bool.false_and]
    simp [hp, hi, hout]

/-- The part reads back. -/
theorem toNat_putPart {m pos r : Nat} (hr : r < 2 ^ m) (old : Word) (hfit : pos + m ≤ 32) :
    (putPart m pos r old).toNat / 2 ^ pos % 2 ^ m = r := by
  refine Nat.eq_of_testBit_eq fun j => ?_
  rw [Nat.testBit_mod_two_pow, Nat.testBit_div_two_pow]
  by_cases hj : j < m
  · rw [decide_eq_true hj, Bool.true_and, BitVec.testBit_toNat, getLsbD_putPart hr _ (by omega), if_pos (by omega),
      Nat.add_sub_cancel]
  · rw [decide_eq_false hj, Bool.false_and, Nat.testBit_lt_two_pow (hr.trans_le (Nat.pow_le_pow_right (by decide) (by omega)))]

/-- What CVT writes to a register or a pair that held `old`. -/
def cvtWord (x : CvtOp) (src : Nat) (old : Word) : DWord :=
  let m := cvtBits x.dt
  let r := cvtResult x.st x.dt x.tz src % 2 ^ m
  if m = 64 then BitVec.ofNat 64 r else (putPart m (m * x.dp.toNat) r old).setWidth 64

theorem cvt_writes {x : CvtOp} {P : Nat × Thread → DWord → Prop}
    (hi : Issues s { len := 8, g := x.g, uses :=
        (x.d.toNat, if cvtBits x.dt = 64 then 2 else 1) :: Src.run (if cvtBits x.st = 64 then 2 else 1) x.a } h ls)
    (hP : ∀ e, P e (cvtWord x (cvtSource x h.wave e.2) (e.2.reg x.d.toNat))) :
    LaneWrites (.cvt x) s h ls 8 (cvtBits x.dt = 64) x.d P := by
  have hx := exec_cvt (x := x) s
  rw [execCvt] at hx
  refine hi.writes (val := fun t => cvtWord x (cvtSource x h.wave t) (t.reg x.d.toNat)) hx (fun t => ?_) hP
  by_cases hm : cvtBits x.dt = 64
  · simp only [hm, if_true, decide_true, Thread.setW, cvtWord]
  · simp only [hm, if_false, decide_false, Thread.setW_setWidth, putPart, cvtWord]

/-- A narrow result leaves the bits outside its part. -/
theorem getLsbD_cvtWord_outside {x : CvtOp} {src i : Nat} (old : Word) (hm : cvtBits x.dt ≠ 64) (hi : i < 32)
    (ho : ¬ (cvtBits x.dt * x.dp.toNat ≤ i ∧ i < cvtBits x.dt * x.dp.toNat + cvtBits x.dt)) :
    (cvtWord x src old).getLsbD i = old.getLsbD i := by
  rw [cvtWord, if_neg hm, getLsbD_setWidth_lt _ (by omega), getLsbD_putPart (Nat.mod_lt _ (by positivity)) _ hi, if_neg ho]

/-- The destination's part holds the result. -/
theorem cvtWord_part {x : CvtOp} {src : Nat} (old : Word)
    (hfit : cvtBits x.dt = 64 ∨ cvtBits x.dt * x.dp.toNat + cvtBits x.dt ≤ 32) :
    let m := cvtBits x.dt
    (if m = 64 then (cvtWord x src old).toNat else ((cvtWord x src old).setWidth 32).toNat / 2 ^ (m * x.dp.toNat) % 2 ^ m) =
      cvtResult x.st x.dt x.tz src % 2 ^ m := by
  dsimp only [cvtWord]
  by_cases hm : cvtBits x.dt = 64
  · simp only [hm, if_true, BitVec.toNat_ofNat, Nat.mod_mod]
  · have hback (y : Word) : (y.setWidth 64).setWidth 32 = y := setWidth_setWidth_of_le (by decide) y
    simp only [hm, if_false, hback]
    exact toNat_putPart (Nat.mod_lt _ (by positivity)) _ (hfit.resolve_left hm)

theorem toNat_emod_two_pow (y : Int) (m : Nat) : (((y % 2 ^ m).toNat % 2 ^ m : Nat) : Int) = y % 2 ^ m := by
  rw [Int.natCast_emod, Int.toNat_of_nonneg (Int.emod_nonneg _ (by positivity))]
  simp

theorem conversion : Claim.Conversion := by
  intro x s h ls hi m at'
  refine cvt_writes hi fun e => ?_
  intro src sv mode out
  refine ⟨fun hm _ i hi32 ho => getLsbD_cvtWord_outside _ hm hi32 ho, fun _ hfit => ?_⟩
  have hout : out = cvtResult x.st x.dt x.tz src % 2 ^ m := cvtWord_part _ hfit
  rw [hout, cvtResult]
  cases cvtFloat x.st <;> cases cvtFloat x.dt
  · dsimp only
    rw [toNat_emod_two_pow]
    cases cvtSigned x.dt
    · exact congrArg (fun y => max 0 y % 2 ^ m) (min_comm _ sv)
    · exact congrArg (fun y => max (-(2 ^ (m - 1))) y % 2 ^ m) (min_comm _ sv)
  · rfl
  · exact toNat_emod_two_pow _ _
  · rfl

/-- Settles O6: each half of a packed register by its own rounding, CVT by the bits of its part. -/
theorem packedAndConverted : Obligations.PackedAndConverted := ⟨packedArithmetic, conversion⟩

end Sys2Proof.Machine

/-! ## FP32 arithmetic, FMIN and FMAX (O5) -/

namespace Sys2Proof.Machine

variable {s : State} {h : Here} {ls : Table Thread}

/-- An FP32 instruction on its modified sources. -/
theorem fRun_writes {i : Instr} {x : FOp} {f : Word → Word → Word → Word} (hi : Issues s (fForm x) h ls)
    (hx : exec i s = fRun x s f) {P : Thread → Word → Prop}
    (hP : ∀ t, P t (f (fpSource x h t x.aa x.na x.a) (fpSource x h t x.ab x.nb x.b) (fpSource x h t false x.nc x.c))) :
    FpWrites i x s h ls P := by
  let y (t : Thread) : Word :=
    f (fpSource x h t x.aa x.na x.a) (fpSource x h t x.ab x.nb x.b) (fpSource x h t false x.nc x.c)
  refine hi.writesReg (val := fun t => fpResult x (y t)) hx (fun t => rfl) fun e => ⟨y e.2, hP e.2, ?_⟩
  exact setWidth_setWidth_of_le (by decide) _

theorem toF32_nan (mode : Rounding) : toF32 mode .nan = 0x7FC00000#32 := rfl

/-- An FP32 instruction by its exact result, rounded once. -/
theorem fExact_writes {i : Instr} {x : FOp} {f : Real' → Real' → Real' → Real'} (hi : Issues s (fForm x) h ls)
    (hx : exec i s = fExact x s f) {P : Thread → Word → Prop}
    (hP : ∀ t y, y = toF32 (tzMode x.tz) (f (f32 (fpSource x h t x.aa x.na x.a)) (f32 (fpSource x h t x.ab x.nb x.b))
      (f32 (fpSource x h t false x.nc x.c))) → P t y) : FpWrites i x s h ls P :=
  fRun_writes hi hx fun t => hP t _ rfl

theorem floatArithmetic : Claim.FloatArithmetic := by
  intro x s h ls hi a b c rounded
  have hround {z : Real'} {y : Word} (hy : y = toF32 (tzMode x.tz) z) : rounded z y :=
    ⟨hy, fun hz => by rw [hy, hz, toF32_nan]⟩
  refine ⟨?_, ?_, ?_, ?_⟩
  · exact fExact_writes hi (exec_fadd s) fun t y => hround
  · exact fExact_writes hi (exec_fmul s) fun t y => hround
  · exact fExact_writes hi (exec_ffma s) fun t y => hround
  · exact fExact_writes hi (exec_fdiv s) fun t y => hround

/-! ### FMIN and FMAX (R164, R203) -/

theorem fle32_of_not_lt {a b : Word} (hn : (isNan32 a || isNan32 b) = false) (hl : flt32 b a = false) : fle32 a b = true := by
  obtain ⟨ha, hb⟩ := Bool.or_eq_false_iff.mp hn
  simp only [fle32, Real'.le, Bool.and_eq_true, Bool.not_eq_true']
  exact ⟨⟨ha, hb⟩, hl⟩

theorem fle32_refl {a : Word} (hn : isNan32 a = false) : fle32 a a = true := by
  refine fle32_of_not_lt (by rw [hn]; rfl) ?_
  cases hl : flt32 a a
  · rfl
  · exact hl.symm.trans (flt32_asymm hl)

/-- The smaller and the larger of two words that are no NaN is one of them, on its side of both. -/
theorem fmin32_fmax32 {a b : Word} (hn : (isNan32 a || isNan32 b) = false) :
    ((fmin32 a b = a ∨ fmin32 a b = b) ∧ fle32 (fmin32 a b) a = true ∧ fle32 (fmin32 a b) b = true) ∧
    ((fmax32 a b = a ∨ fmax32 a b = b) ∧ fle32 a (fmax32 a b) = true ∧ fle32 b (fmax32 a b) = true) := by
  obtain ⟨ha, hb⟩ := Bool.or_eq_false_iff.mp hn
  have haa := fle32_refl ha
  have hbb := fle32_refl hb
  rw [fmin32, fmax32, if_neg (Bool.eq_false_iff.mp hn), if_neg (Bool.eq_false_iff.mp hn)]
  cases he : feq32 a b
  · rw [if_neg Bool.false_ne_true, if_neg Bool.false_ne_true]
    cases hl : flt32 a b
    · have hba : fle32 b a = true := fle32_of_not_lt (by rw [Bool.or_comm]; exact hn) hl
      exact ⟨⟨.inr rfl, hba, hbb⟩, .inl rfl, haa, hba⟩
    · have hab : fle32 a b = true := fle32_of_not_lt hn (flt32_asymm hl)
      exact ⟨⟨.inl rfl, haa, hab⟩, .inr rfl, hab, hbb⟩
  · obtain ⟨hab, hba⟩ := Bool.and_eq_true_iff.mp (show (fle32 a b && fle32 b a) = true from he)
    rw [if_pos rfl, if_pos rfl]
    cases a.getLsbD 31
    · exact ⟨⟨.inr rfl, hba, hbb⟩, .inl rfl, haa, hba⟩
    · exact ⟨⟨.inl rfl, haa, hab⟩, .inr rfl, hab, hbb⟩

theorem floatMinMax : Claim.FloatMinMax := by
  intro x s h ls hi a b nans zeros
  refine ⟨fRun_writes hi (exec_fmin s) fun t => ⟨fun hn => ?_, fun hz => ?_, fun hn => (fmin32_fmax32 hn).1⟩,
    fRun_writes hi (exec_fmax s) fun t => ⟨fun hn => ?_, fun hz => ?_, fun hn => (fmin32_fmax32 hn).2⟩⟩
  · exact if_pos hn
  · obtain ⟨ha, hb⟩ | ⟨ha, hb⟩ := hz
    · show fmin32 (a t) (b t) = _
      rw [ha, hb]; decide +kernel
    · show fmin32 (a t) (b t) = _
      rw [ha, hb]; decide +kernel
  · exact if_pos hn
  · obtain ⟨ha, hb⟩ | ⟨ha, hb⟩ := hz
    · show fmax32 (a t) (b t) = _
      rw [ha, hb]; decide +kernel
    · show fmax32 (a t) (b t) = _
      rw [ha, hb]; decide +kernel

/-! ### FP32 words and their values (R148) -/

/-- A power of two times a positive integer is no zero, and keeps its sign. -/
theorem Real'.scaled_pos (s : Bool) {n : Nat} (hn : n ≠ 0) (e : Int) :
    ∃ m d, Real'.scaled s n e = .fin s m d ∧ m ≠ 0 := by
  unfold Real'.scaled
  split
  · exact ⟨_, _, rfl, Nat.mul_ne_zero hn (by positivity)⟩
  · refine ⟨_, _, rfl, (Nat.div_pos (Nat.gcd_le_left _ (Nat.pos_of_ne_zero hn)) ?_).ne'⟩
    exact Nat.gcd_pos_of_pos_left _ (Nat.pos_of_ne_zero hn)

/-- A word with the sign bit is a NaN, −∞, −0 or a number below 0. -/
theorem f32_of_msb {a : Word} (ha : a.msb = true) (h0 : a ≠ 0x80000000#32) :
    f32 a = .nan ∨ f32 a = .inf true ∨ ∃ n d, f32 a = .fin true n d ∧ n ≠ 0 := by
  have hs : a.toNat / 2 ^ 31 % 2 = 1 := by
    have := BitVec.msb_eq_true_iff_two_mul_ge.mp ha
    have := a.isLt
    omega
  have h0 : ¬ (a.toNat / 2 ^ 23 % 2 ^ 8 = 0 ∧ a.toNat % 2 ^ 23 = 0) := fun ⟨hE, hM⟩ =>
    h0 (BitVec.eq_of_toNat_eq (show a.toNat = 2 ^ 31 by omega))
  simp only [f32, FloatFmt.decode, fp32, hs, decide_true]
  split
  next hE =>
    rw [if_neg fun hM => h0 ⟨hE, hM⟩]
    exact .inr (.inr (Real'.scaled_pos _ (fun hM => h0 ⟨hE, hM⟩) _))
  · split
    · split
      · exact .inr (.inl rfl)
      · exact .inl rfl
    · split
      · exact .inl rfl
      · exact .inr (.inr (Real'.scaled_pos _ (by omega) _))

/-- Finite values are equal where they are as fractions. -/
theorem Real'.eq_fin {s t : Bool} {n d m e : Nat} (hd : 0 < d) (he : 0 < e) :
    (Real'.fin s n d).eq (.fin t m e) = true ↔ signedNum s n * e = signedNum t m * d := by
  have h1 := Real'.lt_fin (s := s) (t := t) (n := n) (m := m) hd he
  have h2 := Real'.lt_fin (s := t) (t := s) (n := m) (m := n) he hd
  simp only [Real'.eq, Real'.le, Real'.isNan, Bool.not_false, Bool.true_and, Bool.and_eq_true, Bool.not_eq_true',
    Bool.eq_false_iff, ne_eq, h1, h2]
  omega

/-- What equals a finite value is finite. -/
theorem Real'.fin_of_eq {y : Real'} {t : Bool} {m e : Nat} (h : y.eq (.fin t m e) = true) : ∃ s n d, y = .fin s n d := by
  cases y with
  | nan => cases h
  | inf s => cases s <;> cases h
  | fin s n d => exact ⟨s, n, d, rfl⟩

end Sys2Proof.Machine

/-! ## The single-source functions (O5) -/

namespace Sys2Proof.Machine

variable {s : State} {h : Here} {ls : Table Thread}

/-- The rows of a function in the table of R205: NaN, +∞, −∞, +0 and −0. -/
theorem rows_of {g : Word → Word} {p m z mz : Word} (hnan : ∀ a, f32 a = .nan → g a = 0x7FC00000#32)
    (hg : g 0x7F800000#32 = p ∧ g 0xFF800000#32 = m ∧ g 0 = z ∧ g 0x80000000#32 = mz) (a : Word) :
    (isNan32 a = true → g a = 0x7FC00000#32) ∧ (a = 0x7F800000#32 → g a = p) ∧ (a = 0xFF800000#32 → g a = m) ∧
      (a = 0 → g a = z) ∧ (a = 0x80000000#32 → g a = mz) := by
  obtain ⟨hp, hm, hz, hmz⟩ := hg
  refine ⟨fun hn => hnan a ?_, fun ha => ha ▸ hp, fun ha => ha ▸ hm, fun ha => ha ▸ hz, fun ha => ha ▸ hmz⟩
  cases hf : f32 a with
  | nan => rfl
  | inf s => simp [isNan32, hf, Real'.isNan] at hn
  | fin s n d => simp [isNan32, hf, Real'.isNan] at hn

/-- A word lies within a tolerance of a value, or is the value rounded (R204, log 6). -/
def Near (v tol : Real') (y : Word) : Prop := (((f32 y).add v.neg).abs).le tol = true ∨ y = rne32 v

theorem within_near (cand : Word) (y tol : Real') : Near y tol (within cand y tol) := by
  rw [within]
  split
  next h => exact .inl (Bool.and_eq_true_iff.mp h).2
  · exact .inr rfl

/-! ### Powers of two -/

theorem pow2_eq (k : Int) : pow2 k = .fin false (2 ^ k.toNat) (2 ^ (-k).toNat) := by
  rw [pow2, Real'.scaled]
  split
  next h => rw [Nat.one_mul, Int.toNat_of_nonpos (by omega : -k ≤ 0), pow_zero]
  next h => simp only [Nat.gcd_one_left, Nat.div_one, Int.toNat_of_nonpos (by omega : k ≤ 0), pow_zero]

/-- What equals a power of two is a positive fraction in its proportion. -/
theorem fin_of_eq_pow2 {y : Real'} {k : Int} (hy : y.Proper) (he : y.eq (pow2 k) = true) :
    ∃ n d, y = .fin false n d ∧ n ≠ 0 ∧ 0 < d ∧ n * 2 ^ (-k).toNat = 2 ^ k.toNat * d := by
  rw [pow2_eq] at he
  obtain ⟨s, n, d, rfl⟩ := Real'.fin_of_eq he
  have hd : 0 < d := hy
  have heq := (Real'.eq_fin hd (by positivity)).mp he
  have hpos : 0 < signedNum false (2 ^ k.toNat) * (d : Int) := by
    rw [signedNum, if_neg Bool.false_ne_true]
    positivity
  cases s with
  | false =>
    rw [signedNum, signedNum, if_neg Bool.false_ne_true, if_neg Bool.false_ne_true] at heq
    have heq : n * 2 ^ (-k).toNat = 2 ^ k.toNat * d := by exact_mod_cast heq
    refine ⟨n, d, rfl, fun h0 => ?_, hd, heq⟩
    rw [h0, Nat.zero_mul] at heq
    exact absurd heq.symm (by positivity)
  | true =>
    have : signedNum true n * ((2 ^ (-k).toNat : Nat) : Int) ≤ 0 :=
      mul_nonpos_of_nonpos_of_nonneg (by simp [signedNum]) (Int.natCast_nonneg _)
    omega

theorem log2_two_pow_mul (j : Nat) {d : Nat} (hd : d ≠ 0) : Nat.log2 (2 ^ j * d) = j + Nat.log2 d := by
  obtain ⟨hlo, hhi⟩ := (Nat.log2_eq_iff hd).mp rfl
  refine (Nat.log2_eq_iff (by positivity)).mpr ⟨?_, ?_⟩
  · rw [pow_add]
    exact Nat.mul_le_mul_left _ hlo
  · rw [Nat.add_assoc, pow_add]
    exact Nat.mul_lt_mul_of_pos_left hhi (by positivity)

/-- The logarithm of a power of two is its exponent. -/
theorem Real'.log2_of_pow2 {n d : Nat} {k : Int} (hn : n ≠ 0) (hd : d ≠ 0)
    (he : n * 2 ^ (-k).toNat = 2 ^ k.toNat * d) : Real'.log2 n d = k := by
  have hlog : (Nat.log2 n : Int) - (Nat.log2 d : Int) = k := by
    have := log2_two_pow_mul (-k).toNat hn
    rw [Nat.mul_comm, he, log2_two_pow_mul _ hd] at this
    omega
  have hok : (if k ≥ 0 then decide (d * 2 ^ k.toNat ≤ n) else decide (d ≤ n * 2 ^ (-k).toNat)) = true := by
    split
    next h =>
      rw [Int.toNat_of_nonpos (by omega : -k ≤ 0), pow_zero, Nat.mul_one] at he
      exact decide_eq_true (by rw [he, Nat.mul_comm])
    next h =>
      rw [Int.toNat_of_nonpos (by omega : k ≤ 0), pow_zero, Nat.one_mul] at he
      exact decide_eq_true he.ge
  simp only [Real'.log2, hlog, hok, if_true]

/-! ### FEXP2 and FLOG2 of what they take exactly -/

/-- Every power of two from 2^−149 to 2^127, and every exponent of one, is an FP32 number. -/
theorem rne32_exact {k : Int} (hlo : -149 ≤ k) (hhi : k ≤ 127) :
    (f32 (rne32 (pow2 k))).eq (pow2 k) = true ∧ (f32 (rne32 (.ofInt k))).eq (.ofInt k) = true := by
  have hall : ∀ j : Nat, j < 277 → (f32 (rne32 (pow2 (j - 149 : Int)))).eq (pow2 (j - 149 : Int)) = true ∧
      (f32 (rne32 (.ofInt (j - 149 : Int)))).eq (.ofInt (j - 149 : Int)) = true := by decide +kernel
  have := hall (k + 149).toNat (by omega)
  rwa [show ((k + 149).toNat - 149 : Int) = k by omega] at this

/-- FEXP2 of an integer. -/
theorem fexp2Bits_of_int {a : Word} {k : Int} (he : (f32 a).eq (.ofInt k) = true) :
    fexp2Bits a = if k ≤ -150 then 0 else if 128 ≤ k then inf32 else rne32 (pow2 k) := by
  have hprop := f32_proper a
  obtain ⟨s, n, d, hf⟩ := Real'.fin_of_eq he
  rw [hf] at he hprop
  have hd : 0 < d := hprop
  have heq : signedNum s n = k * d := by
    have := (Real'.eq_fin hd Nat.one_pos).mp he
    have hk : signedNum (decide (k < 0)) k.natAbs = k := by
      rw [signedNum]
      split
      next h => rw [Int.ofNat_natAbs_of_nonpos (of_decide_eq_true h).le, Int.neg_neg]
      next h => exact Int.natAbs_of_nonneg (by simpa using h)
    rwa [hk, Nat.cast_one, mul_one] at this
  have hn : n = k.natAbs * d := by
    have := congrArg Int.natAbs heq
    rw [Int.natAbs_mul, Int.natAbs_natCast] at this
    rw [← this, signedNum]
    split <;> simp
  have hmod : n % d = 0 := hn ▸ Nat.mul_mod_left _ _
  have hdiv : n / d = k.natAbs := hn ▸ Nat.mul_div_cancel _ hd
  simp only [fexp2Bits, hf, hmod, hdiv, if_true]
  cases s with
  | true =>
    have hk : k ≤ 0 := by
      by_contra hk
      have : 0 < k * d := Int.mul_pos (by omega) (by omega)
      rw [signedNum, if_pos rfl] at heq
      omega
    rw [if_pos rfl, if_neg (show ¬ 128 ≤ k by omega), show (-(k.natAbs : Int)) = k by omega]
    exact if_congr (by omega) rfl rfl
  | false =>
    have hk : 0 ≤ k := by
      by_contra hk
      have : k * d < 0 := Int.mul_neg_of_neg_of_pos (by omega) (by omega)
      rw [signedNum, if_neg Bool.false_ne_true] at heq
      omega
    rw [if_neg Bool.false_ne_true, if_neg (show ¬ k ≤ -150 by omega), show (k.natAbs : Int) = k by omega]
    exact if_congr (by omega) rfl rfl

/-- FLOG2 of a power of two. -/
theorem flog2Bits_of_pow2 {a : Word} {k : Int} (he : (f32 a).eq (pow2 k) = true) :
    flog2Bits a = rne32 (.ofInt k) := by
  obtain ⟨n, d, hf, hn, hd, hnd⟩ := fin_of_eq_pow2 (f32_proper a) he
  have hlog : Real'.log2 n d = k := Real'.log2_of_pow2 hn hd.ne' hnd
  have heq : (pow2 k).eq (.fin false n d) = true := by
    rw [hf] at he
    exact (Bool.and_comm _ _).trans he
  simp only [flog2Bits, hf, hn, hlog, heq, if_false, if_true, Bool.false_eq_true]

theorem fexp2Bits_exact {a : Word} {k : Int} (he : (f32 a).eq (.ofInt k) = true) :
    (-149 ≤ k → k ≤ 127 → (f32 (fexp2Bits a)).eq (pow2 k) = true) ∧ (k ≤ -150 → fexp2Bits a = 0) ∧
      (128 ≤ k → fexp2Bits a = 0x7F800000#32) := by
  rw [fexp2Bits_of_int he]
  refine ⟨fun hlo hhi => ?_, fun hk => if_pos hk, fun hk => ?_⟩
  · rw [if_neg (by omega), if_neg (by omega)]
    exact (rne32_exact hlo hhi).1
  · rw [if_neg (by omega), if_pos hk]
    rfl

theorem flog2Bits_exact {a : Word} {k : Int} (hlo : -149 ≤ k) (hhi : k ≤ 127) (he : (f32 a).eq (pow2 k) = true) :
    (f32 (flog2Bits a)).eq (.ofInt k) = true := by
  rw [flog2Bits_of_pow2 he]
  exact (rne32_exact hlo hhi).2

/-! ### The functions one by one (R204, R205) -/

/-- A function that gives a NaN for NaN, −∞ and the numbers below 0. -/
theorem nan_of_below {g : Word → Word} {a : Word} (ha : a.msb = true ∧ a ≠ 0x80000000#32)
    (hnan : f32 a = .nan → g a = 0x7FC00000#32) (hinf : f32 a = .inf true → g a = 0x7FC00000#32)
    (hfin : ∀ n d, f32 a = .fin true n d → n ≠ 0 → g a = 0x7FC00000#32) : g a = 0x7FC00000#32 := by
  obtain hf | hf | ⟨n, d, hf, hn⟩ := f32_of_msb ha.1 ha.2
  · exact hnan hf
  · exact hinf hf
  · exact hfin n d hf hn

theorem frcpBits_nan {mode : Rounding} {a : Word} (hf : f32 a = .nan) : frcpBits mode a = 0x7FC00000#32 := by
  rw [frcpBits, hf, show f32 one32 = .fin false 1 1 by decide +kernel]
  rfl

theorem frsqBits_nan {a : Word} (hf : f32 a = .nan) : frsqBits a = 0x7FC00000#32 := by simp only [frsqBits, hf]; rfl

theorem frsqBits_near {a : Word} {n d : Nat} (hf : f32 a = .fin false n d) (hn : n ≠ 0) :
    Near (sqrtReal d n) (ulps 1 (sqrtReal d n)) (frsqBits a) := by
  simp only [frsqBits, hf, hn, if_false, Bool.false_eq_true]
  exact within_near _ _ _

theorem frsqBits_below {a : Word} (ha : a.msb = true ∧ a ≠ 0x80000000#32) : frsqBits a = 0x7FC00000#32 :=
  nan_of_below ha frsqBits_nan (fun hf => by simp only [frsqBits, hf]; rfl)
    fun n d hf hn => by simp only [frsqBits, hf, hn]; rfl

theorem fsqrtBits_nan {mode : Rounding} {a : Word} (hf : f32 a = .nan) : fsqrtBits mode a = 0x7FC00000#32 := by
  rw [fsqrtBits, hf]
  rfl

theorem fsqrtBits_below {mode : Rounding} {a : Word} (ha : a.msb = true ∧ a ≠ 0x80000000#32) :
    fsqrtBits mode a = 0x7FC00000#32 :=
  nan_of_below ha fsqrtBits_nan (fun hf => by rw [fsqrtBits, hf]; rfl)
    fun n d hf hn => by rw [fsqrtBits, hf, Real'.sqrt, if_neg hn]; rfl

theorem fexp2Bits_nan {a : Word} (hf : f32 a = .nan) : fexp2Bits a = 0x7FC00000#32 := by simp only [fexp2Bits, hf]; rfl

theorem fexp2Bits_near {a : Word} {sg : Bool} {n d : Nat} (hf : f32 a = .fin sg n d) (hm : n % d ≠ 0)
    (hb : n / d < (if sg then 150 else 128)) :
    Near (exp2Real sg n d) (ulps 2 (exp2Real sg n d)) (fexp2Bits a) := by
  have hin : (sg && decide (n / d ≥ 150)) = false ∧ (!sg && decide (n / d ≥ 128)) = false := by
    cases sg
    · exact ⟨rfl, decide_eq_false (Nat.not_le.mpr hb)⟩
    · exact ⟨decide_eq_false (Nat.not_le.mpr hb), rfl⟩
  simp only [fexp2Bits, hf, hm, hin, if_false, Bool.false_eq_true]
  exact within_near _ _ _

theorem flog2Bits_nan {a : Word} (hf : f32 a = .nan) : flog2Bits a = 0x7FC00000#32 := by simp only [flog2Bits, hf]; rfl

theorem flog2Bits_below {a : Word} (ha : a.msb = true ∧ a ≠ 0x80000000#32) : flog2Bits a = 0x7FC00000#32 :=
  nan_of_below ha flog2Bits_nan (fun hf => by simp only [flog2Bits, hf]; rfl)
    fun n d hf hn => by simp only [flog2Bits, hf, hn]; rfl

theorem flog2Bits_near {a : Word} {n d : Nat} (hf : f32 a = .fin false n d) (hn : n ≠ 0)
    (hp : (pow2 (Real'.log2 n d)).eq (.fin false n d) = false) :
    Near (log2Real n d) (if Real'.log2 n d = 0 ∨ Real'.log2 n d = -1 then pow2 (-22) else ulps 2 (log2Real n d))
      (flog2Bits a) := by
  simp only [flog2Bits, hf, hn, hp, if_false, Bool.false_eq_true, Bool.or_eq_true, decide_eq_true_eq]
  exact within_near _ _ _

theorem trigBits_near (cand : Word) (y : Real') : Near y (pow2 (-21)) (trigBits cand y) := by
  rw [trigBits]
  split
  · exact within_near _ _ _
  · exact .inr rfl

theorem fsinBits_nan {a : Word} (hf : f32 a = .nan) : fsinBits a = 0x7FC00000#32 := by simp only [fsinBits, hf]; rfl

theorem fsinBits_near {a : Word} {sg : Bool} {n d : Nat} (hf : f32 a = .fin sg n d) (hn : n ≠ 0) :
    Near (sinReal sg n d) (pow2 (-21)) (fsinBits a) := by
  simp only [fsinBits, hf, hn, if_false]
  exact trigBits_near _ _

theorem fcosBits_nan {a : Word} (hf : f32 a = .nan) : fcosBits a = 0x7FC00000#32 := by simp only [fcosBits, hf]; rfl

theorem fcosBits_near {a : Word} {sg : Bool} {n d : Nat} (hf : f32 a = .fin sg n d) (hn : n ≠ 0) :
    Near (cosReal sg n d) (pow2 (-21)) (fcosBits a) := by
  simp only [fcosBits, hf, hn, if_false]
  exact trigBits_near _ _

theorem frcpBits_rows (mode : Rounding) : frcpBits mode 0x7F800000#32 = 0 ∧ frcpBits mode 0xFF800000#32 = 0x80000000#32 ∧
    frcpBits mode 0 = 0x7F800000#32 ∧ frcpBits mode 0x80000000#32 = 0xFF800000#32 := ⟨rfl, rfl, rfl, rfl⟩

theorem fsqrtBits_rows (mode : Rounding) : fsqrtBits mode 0x7F800000#32 = 0x7F800000#32 ∧
    fsqrtBits mode 0xFF800000#32 = 0x7FC00000#32 ∧ fsqrtBits mode 0 = 0 ∧
    fsqrtBits mode 0x80000000#32 = 0x80000000#32 := ⟨rfl, rfl, rfl, rfl⟩

theorem frsqBits_rows : frsqBits 0x7F800000#32 = 0 ∧ frsqBits 0xFF800000#32 = 0x7FC00000#32 ∧
    frsqBits 0 = 0x7F800000#32 ∧ frsqBits 0x80000000#32 = 0xFF800000#32 := ⟨rfl, rfl, rfl, rfl⟩

theorem fexp2Bits_rows : fexp2Bits 0x7F800000#32 = 0x7F800000#32 ∧ fexp2Bits 0xFF800000#32 = 0 ∧
    fexp2Bits 0 = 0x3F800000#32 ∧ fexp2Bits 0x80000000#32 = 0x3F800000#32 := ⟨rfl, rfl, rfl, rfl⟩

theorem flog2Bits_rows : flog2Bits 0x7F800000#32 = 0x7F800000#32 ∧ flog2Bits 0xFF800000#32 = 0x7FC00000#32 ∧
    flog2Bits 0 = 0xFF800000#32 ∧ flog2Bits 0x80000000#32 = 0xFF800000#32 := ⟨rfl, rfl, rfl, rfl⟩

theorem fsinBits_rows : fsinBits 0x7F800000#32 = 0x7FC00000#32 ∧ fsinBits 0xFF800000#32 = 0x7FC00000#32 ∧
    fsinBits 0 = 0 ∧ fsinBits 0x80000000#32 = 0x80000000#32 := ⟨rfl, rfl, rfl, rfl⟩

theorem fcosBits_rows : fcosBits 0x7F800000#32 = 0x7FC00000#32 ∧ fcosBits 0xFF800000#32 = 0x7FC00000#32 ∧
    fcosBits 0 = 0x3F800000#32 ∧ fcosBits 0x80000000#32 = 0x3F800000#32 := ⟨rfl, rfl, rfl, rfl⟩

theorem singleSourceFunctions : Claim.SingleSourceFunctions := by
  intro x s h ls hi a mode pinf ninf nan mzero one table below near
  refine ⟨?_, ?_, ?_, ?_, ?_, ?_, ?_⟩
  · exact fRun_writes hi (exec_frcp s) fun t => ⟨rfl, rows_of (fun _ => frcpBits_nan) (frcpBits_rows _) (a t)⟩
  · exact fRun_writes hi (exec_frsq s) fun t => ⟨rows_of (fun _ => frsqBits_nan) frsqBits_rows (a t), frsqBits_below,
      fun n d hf hn => frsqBits_near hf hn⟩
  · exact fRun_writes hi (exec_fsqrt s) fun t => ⟨rfl, rows_of (fun _ => fsqrtBits_nan) (fsqrtBits_rows _) (a t),
      fsqrtBits_below⟩
  · exact fRun_writes hi (exec_fexp2 s) fun t => ⟨rows_of (fun _ => fexp2Bits_nan) fexp2Bits_rows (a t),
      fun k => fexp2Bits_exact, fun sg n d hf hm hb => fexp2Bits_near hf hm hb⟩
  · exact fRun_writes hi (exec_flog2 s) fun t => ⟨rows_of (fun _ => flog2Bits_nan) flog2Bits_rows (a t), flog2Bits_below,
      fun k hlo hhi he => flog2Bits_exact hlo hhi he, fun n d hf hn hp => flog2Bits_near hf hn hp⟩
  · exact fRun_writes hi (exec_fsin s) fun t => ⟨rows_of (fun _ => fsinBits_nan) fsinBits_rows (a t),
      fun sg n d hf hn => fsinBits_near hf hn⟩
  · exact fRun_writes hi (exec_fcos s) fun t => ⟨rows_of (fun _ => fcosBits_nan) fcosBits_rows (a t),
      fun sg n d hf hn => fcosBits_near hf hn⟩

/-- Settles O5: arithmetic by its one rounding, FMIN and FMAX by order, and the functions by rows, exact values and bounds. -/
theorem floatResults : Obligations.FloatResults := ⟨floatArithmetic, floatMinMax, singleSourceFunctions⟩

end Sys2Proof.Machine

/-! ## EXIT (O17), and waves of many lanes at barriers, groups and aborts (O60) -/

namespace Sys2Proof.Machine

section
variable {s : State} {h : Here} {ls : Table Thread}

/-- Settles O17: on the control core EXIT is TRET, and elsewhere every stop it may meet is excluded. -/
theorem exitRetires : Obligations.ExitRetires := by
  intro x s h ls hi
  rw [exec_exit, execExit, hi.run]
  refine ⟨fun f hf => by rw [hf], fun hh hfl hc s0 s1 h0 h1 => ?_⟩
  simp only [hh, hfl, hc, h0, h1, State.exitLanes, Bool.not_true, Bool.false_eq_true, if_false]
  rfl

/-! ### BAR and ARRIVE -/

/-- Lanes of one block stand in one block. -/
theorem eraseDups_filterMap_some {b : Block} (hne : ls ≠ []) : (ls.filterMap fun _ => some b).eraseDups = [b] := by
  cases ls with
  | nil => exact absurd rfl hne
  | cons e ls => simp [List.eraseDups_cons]

/-- The lanes stand in blocks whose kernel has the barrier: BAR, ARRIVE and PHASE are legal. -/
theorem barrier_legal {n : Nat} {gang : Bool} (hn : n < s.barCount h.wave.kid gang)
    (hb : ∀ e ∈ ls, (s.blockOf e.2).isSome = true) :
    (ls.find? fun e => (s.blockOf e.2).isNone || n ≥ s.barCount h.wave.kid gang) = none := by
  rw [List.find?_eq_none]
  intro e he
  have := Option.isSome_iff_ne_none.mp (hb e he)
  simp [this, hn]

section
variable {x : BarOp} {stop : Bool}
  (hi : Issues s { len := 8, g := x.g, cluster := true, orders := true } h ls)
  (hn : x.n.toNat < s.barCount h.wave.kid x.gang)
include hi hn

/-- Without a group to bind, the lanes arrive in order. -/
theorem barRun_unbound (hx : x.bind = none) (hb : ∀ e ∈ ls, (s.blockOf e.2).isSome = true) :
    barRun x stop s = .next (barLanes x stop s h ls) := by
  rw [barRun, hi.run]
  simp only [barrier_legal hn hb, hx]
  rfl

/-- With one, the barrier of the lanes' block is bound first, if it may be. -/
theorem barRun_bind {g : BitVec 4} {b : Block} (hx : x.bind = some g) (hb : ∀ e ∈ ls, s.blockOf e.2 = some b) :
    barRun x stop s = .next (match s.bindBar b x.gang x.n.toNat g.toNat with
      | none => s.raise h { code := 1, lane := some ((lowLane ls).getD 0) }
      | some s0 => barLanes x stop s0 h ls) := by
  have hblocks : (ls.filterMap fun e => s.blockOf e.2).eraseDups = [b] := by
    rw [List.filterMap_congr hb]
    exact eraseDups_filterMap_some hi.some_lane
  rw [barRun, hi.run]
  simp only [barrier_legal hn fun e he => by rw [hb e he]; rfl, hx, hblocks, List.foldl_cons, List.foldl_nil]
  cases s.bindBar b x.gang x.n.toNat g.toNat <;> rfl

end

/-! ### JOIN and LEAVE -/

section
variable {x : GroupOp}

/-- What LEAVE does of one lane: a member of the group leaves it, and its arrivals in the current phases are withdrawn. -/
def leaveLane (x : GroupOp) (r : State × Wave) (e : Nat × Thread) : State × Wave :=
  match r.1.blockOf e.2 with
  | some b =>
    if (Table.getD b.live e.2.uid 0).getLsbD x.grp.toNat then
      ((r.1.leftGroup x b e.2).withdraw b e.2.uid fun q => q = x.grp.toNat,
        r.2.setLane e.1 { e.2 with pend := e.2.pend.filter fun p => !p.leaves (r.1.leftGroup x b e.2) b x.grp.toNat })
    else r
  | none => r

/-- What JOIN does of one lane. -/
def joinLane (x : GroupOp) (s : State) (e : Nat × Thread) : State :=
  match s.blockOf e.2 with
  | some b => s.updBlock b.uid fun b' =>
      { b' with live := Table.put b'.live e.2.uid (Table.getD b.live e.2.uid 0 ||| groupBit x) }
  | none => s

/-- The groups a thread is a member of. -/
def State.groupsOf (s : State) (t : Thread) : BitVec 16 := ((s.blockOf t).map fun b => Table.getD b.live t.uid 0).getD 0

theorem leaveLane_stranger {w : Wave} {e : Nat × Thread}
    (hm : (s.groupsOf e.2).getLsbD x.grp.toNat = false) : leaveLane x (s, w) e = (s, w) := by
  unfold leaveLane
  split
  next b hb =>
    rw [State.groupsOf, hb, Option.map_some, Option.getD_some] at hm
    rw [hm, if_neg Bool.false_ne_true]
  · rfl

/-- JOIN and LEAVE have no fault to raise, where the group is not the block's own. -/
theorem groupRun_run {enter : Bool} (hi : Issues s { len := 8, g := x.g, cluster := true } h ls) (hg : x.grp ≠ 0)
    (hb : ∀ e ∈ ls, (s.blockOf e.2).isSome = true) : groupRun x enter s = .next (
      let r := ls.foldl (fun r e => if enter then (joinLane x r.1 e, r.2) else leaveLane x r e) (s, h.wave)
      State.doneLen r.1 h r.2 8) := by
  have hg0 : x.grp.toNat ≠ 0 := fun h0 => hg (BitVec.eq_of_toNat_eq h0)
  have hf : (ls.find? fun e => (s.blockOf e.2).isNone || x.grp.toNat = 0) = none := by
    rw [List.find?_eq_none]
    intro e he
    have := Option.isSome_iff_ne_none.mp (hb e he)
    simp [this, hg0]
  rw [groupRun, hi.run]
  simp only [hf]
  refine congrArg (fun r : State × Wave => Host.Outcome.next (r.1.doneLen h r.2 8)) (List.foldl_ext _ _ _ fun r e _ => ?_)
  cases hbl : r.1.blockOf e.2 with
  | none => cases enter <;> simp [joinLane, leaveLane, hbl]
  | some b =>
    cases enter
    · simp only [leaveLane, hbl]
      cases (Table.getD b.live e.2.uid 0).getLsbD x.grp.toNat <;> rfl
    · simp only [joinLane, hbl]
      rfl

theorem foldl_joinLane (ls : Table Thread) (s : State) (w : Wave) :
    ls.foldl (fun r e => (joinLane x r.1 e, r.2)) (s, w) = (ls.foldl (joinLane x) s, w) := by
  induction ls generalizing s with
  | nil => rfl
  | cons e ls ih => exact ih _

theorem foldl_leaveLane_strangers {w : Wave} (ls : Table Thread)
    (hm : ∀ e ∈ ls, (s.groupsOf e.2).getLsbD x.grp.toNat = false) :
    ls.foldl (leaveLane x) (s, w) = (s, w) := by
  induction ls with
  | nil => rfl
  | cons e ls ih =>
    rw [List.foldl_cons, leaveLane_stranger (hm e List.mem_cons_self)]
    exact ih fun e he => hm e (List.mem_cons_of_mem _ he)

end

/-! ### PHASE -/

theorem MayYield.stop (hy : MayYield s h ls) : s.yieldStop h ls = none := by
  obtain ⟨hcall, hfl, hroom, hcrew⟩ := hy
  have hf : (ls.find? fun e => inCallout e.2) = none := by
    rw [List.find?_eq_none]
    intro e he
    simp [hcall e he]
  simp only [State.yieldStop, State.noRoom, hf, hfl, hroom, hcrew, Bool.not_true, Bool.and_false, Bool.false_eq_true, if_false]

/-! ### ABT -/

theorem State.abortParty_cons {x : Level} (e : Nat × Thread) (ts : Table Thread) (hx : h.wave.crew = none ∨ x ≠ .c) :
    s.abortParty h (e :: ts) x = { s with mem := s.mem.abort (s.linksOf h e.2) x } := by
  have hmates : (if x = .c then s.mates h e else []) = [] := by
    obtain hc | hx := hx
    · simp [State.mates, hc]
    · exact if_neg hx
  simp only [State.abortParty, List.head?_cons, hmates, List.foldl_cons, List.foldl_nil]

end

/-- Settles O60: the lanes of BAR, ARRIVE, JOIN and LEAVE by one fold, BIND by what stands at the barrier, PHASE and ABT by
their runs. -/
theorem wavesOfManyLanesComplete : Obligations.WavesOfManyLanesComplete := by
  refine ⟨fun x s h ls hi hn => ⟨fun hx hb => ?_, fun g b hx hb => ?_⟩, fun x s h ls hi hg hb => ?_,
    fun s b uid g hb => ?_, fun x s t h ls hi hn hb hy => ?_, fun x s h ls hi hh => ⟨?_, fun e ts => s.abortParty_cons e ts⟩⟩
  case refine_1 => exact ⟨barRun_unbound hi hn hx hb, barRun_unbound hi hn hx hb⟩
  case refine_2 =>
    intro y s0
    have hrun {stop : Bool} := barRun_bind (stop := stop) hi hn hx hb
    rw [exec_bar, exec_arrive, execBar, execArrive, hrun, hrun]
    refine ⟨fun ha => ?_, fun ha hy => ?_, fun ha hy e he => ?_⟩
    · have hbind : s.bindBar b x.gang x.n.toNat g.toNat = some s0 := if_pos (List.isEmpty_iff.mpr ha)
      rw [hbind]
      exact ⟨rfl, rfl⟩
    · have hbind : s.bindBar b x.gang x.n.toNat g.toNat = some s := by
        rw [State.bindBar, if_neg (mt List.isEmpty_iff.mp ha), if_pos hy]
      rw [hbind]
      exact ⟨rfl, rfl⟩
    · have hbind : s.bindBar b x.gang x.n.toNat g.toNat = none := by
        rw [State.bindBar, if_neg (mt List.isEmpty_iff.mp ha), if_neg hy]
      rw [hbind, lowLane, he]
      exact ⟨rfl, rfl⟩
  case refine_3 =>
    intro bit mask
    rw [exec_join, exec_leave, execJoin, execLeave, groupRun_run hi hg hb, groupRun_run hi hg hb]
    simp only [if_true, Bool.false_eq_true, if_false, foldl_joinLane]
    refine ⟨?_, fun hm => ?_, ?_⟩
    · refine congrArg (fun t : State => Host.Outcome.next (t.doneLen h h.wave 8)) (List.foldl_ext _ _ _ fun t e _ => ?_)
      cases hbl : t.blockOf e.2 with
      | none => simp only [joinLane, hbl]
      | some b =>
        simp only [joinLane, mask, hbl, Option.map_some, Option.getD_some]
        rfl
    · rw [foldl_leaveLane_strangers ls hm]
    · refine congrArg (fun r : State × Wave => Host.Outcome.next (r.1.doneLen h r.2 8)) (List.foldl_ext _ _ _ fun r e _ => ?_)
      rw [leaveLane]
      cases hbl : r.1.blockOf e.2 with
      | none => rfl
      | some b =>
        simp only [PendArr.leaves, Bool.decide_and]
        rfl
  case refine_4 =>
    have hblocks : Table.get? (s.withdraw b uid fun q => q = g).blocks b.uid =
        some { b with bars := b.bars.map fun e => if decide (e.2.group = g) then (e.1, e.2.withdraw uid) else e } := by
      rw [State.withdraw, State.updGang_blocks, State.get?_updBlock, if_pos rfl, hb]
      rfl
    refine ⟨_, hblocks, rfl, List.map_congr_left fun e _ => ?_⟩
    by_cases he : e.2.group = g
    · rw [if_pos (decide_eq_true he), if_pos he]
      rfl
    · rw [if_neg (by simpa using he), if_neg he]
  case refine_5 =>
    intro r hr
    rw [exec_phase, execPhase, hi.run]
    simp only [barrier_legal hn hb, hy.stop]
    exact congrArg (fun u : Except Level State => Host.Outcome.next (match u with
      | .ok s' => s'
      | .error e => s.overflow h ((lowLane ls).getD 0) e)) hr
  case refine_6 =>
    rw [exec_abt, execAbt, hi.run]
    simp only [hh]

end Sys2Proof.Machine

/-! ## AWAIT (O16) -/

namespace Sys2Proof.Machine

/-! ### A wave whose lane 0 has left

R469 has a record keep the lane in which its thread stood at its last AWAIT. Of a lane 1 whose thread has executed no
AWAIT the record then says 1, where the statement leaves in it what stood there before. -/

/-- The context with a wave of one lane, before that lane is moved. -/
def loneState0 : State :=
  { ({ State.reset with mem := State.reset.mem.placeCode 64 0 } : State).bare.withWave false with cur := .wave 0 0 }

/-- The wave of that state, with its thread in lane 1. -/
def loneWave : Wave :=
  let w := (Table.get? (loneState0.core 0).waves 0).getD (Wave.ofThreads 0 0 0 [] 0)
  { w with lanes := w.lanes.map fun e => (1, e.2) }

def loneState : State := loneState0.updCore 0 fun k => { k with waves := [(0, loneWave)] }

def loneHere : Here := { wave := loneWave, core := 0, slot := 0, hand := none }

/-- AWAIT of the word at 0x2_0000, until it is not v[0]. -/
def loneAwait : AwaitOp := { g := .always, cond := .ne, a := .k 0, off := 0x20000, c := 0 }

/-- The word's address, in every lane. -/
def loneAddr (t : Thread) : Nat := (Src.int64 loneHere.wave none t loneAwait.a + loneAwait.off.signExtend 64).toNat

def loneReqs : List Req := (loneWave.passing .always).map fun e => awaitReq (loneAddr e.2) e

/-- The accesses of the sample, and the state after their translations. -/
def loneAccs : List Acc := loneReqs.map fun r => { req := r, spot := .mem 0x20000 none }
def loneSampled : State := (loneState.prepare loneHere loneReqs .read true).2

/-- The filing of the statement. -/
def loneFiled : Except Level State :=
  let r := loneSampled.loadAll loneHere (.strong .d) loneAccs
  r.2.2.yieldLanes { loneHere with wave := r.2.1 } (r.2.1.passing .always) 2 (r.2.1.pc + 16) fun u =>
    if wcondHolds .ne 32 (((r.1.find? fun e => e.1.req.t.uid = u.uid).map fun e => natOf e.2).getD 0) (u.reg 0).toNat then .bin
    else .wait (awaitDesc .ne 0 (loneAddr u))

/-- The lanes that the records of cluster 0 name. -/
def State.recordLanes (s : State) : List Nat := (s.cluster 0).records.map Thread.alane

def Res.recordLanes : Res → List Nat
  | .next t => t.recordLanes
  | _ => []

def awaitForm : Form :=
  { len := 16, g := .always, final := true, whole := true, orders := true, uses := (0, 1) :: Src.run 2 (.k 0) }

theorem loneState_issues : Issues loneState awaitForm loneHere (loneWave.passing .always) := by
  unfold Issues
  decide +kernel

theorem loneState_exec : Res.recordLanes (exec (.await loneAwait) loneState) = [1] := by decide +kernel

theorem loneFiled_lanes : (loneFiled.toOption.map State.recordLanes) = some [0] := by decide +kernel

theorem loneState_passes : Passes loneState loneHere loneReqs .read true loneAccs loneSampled :=
  Prod.ext (by decide +kernel) rfl

theorem loneSampled_mayYield : MayYield loneSampled loneHere (loneWave.passing .always) := by
  unfold MayYield
  decide +kernel

/-- Refutes O16: AWAIT in lane 1 leaves a record that names lane 1 (R469), and the filing that the statement equates with
it leaves one that names lane 0. -/
theorem not_yields : ¬ Obligations.Yields := by
  rintro ⟨-, hawait, -⟩
  obtain ⟨t, ht⟩ : ∃ t, loneFiled = .ok t ∧ t.recordLanes = [0] := by
    have hlanes := loneFiled_lanes
    cases hf : loneFiled with
    | error e => simp [hf, Except.toOption] at hlanes
    | ok t => exact ⟨t, rfl, by simpa [hf, Except.toOption] using hlanes⟩
  obtain ⟨hfiled, hzero⟩ := ht
  obtain ⟨hcore, -⟩ := hawait loneAwait loneState loneSampled t loneHere (loneWave.passing .always) loneAccs
    loneState_issues (.inr (by decide +kernel)) (by decide +kernel) loneState_passes (by decide +kernel) loneSampled_mayYield
  have hone := loneState_exec
  rw [hcore rfl hfiled, Res.recordLanes, hzero] at hone
  exact absurd hone (by decide)

end Sys2Proof.Machine
